-- ==== Sys2Proof/Word.lean ====
section
/-! DEFINITION. The words of the machine. -/

namespace Sys2Proof

/-- A byte of memory (R4). -/
abbrev Byte := BitVec 8

/-- A 64-bit scalar register or dword (R4). -/
abbrev Dword := BitVec 64

/-- A sparse table: pairs of a key and a value, keys strictly rising, no value equal to the
table's default. -/
abbrev SMap (α : Type) := List (Nat × α)

end Sys2Proof
end

