-- ==== Sys2Proof/Config.lean ====
section
/-! DEFINITION. What an implementation fixes and the spec leaves open: free values, each without a
body, so that no proof can rest on one of them (see the assumption log). -/

namespace Sys2Proof.Config

/-- Log entry 9 (DESIGN CHOICE): the output bytes of a coding command (codes of 3GPP TS 38.212, not given by the
spec), as a function of the command's operation, parameters and input bytes. -/
opaque codingOut : Nat → List (BitVec 8) → List (BitVec 8)

/-- Log entry 9 (DESIGN CHOICE): dword 1 of a coding command's completion record but for its reserved bits. -/
opaque codingDword1 : Nat → List (BitVec 8) → BitVec 64

/-- Log entry 9 (DESIGN CHOICE): the HARQ buffer an LDPC decode writes back. -/
opaque codingHarq : Nat → List (BitVec 8) → List (BitVec 8)

/-- Log entry 11 (DESIGN CHOICE): AES-XTS-256 (R418) by the tag of a key and the number of a 16-byte block of
device memory: a permutation of the block's values, from plaintext to ciphertext. -/
opaque cipher : Nat → Nat → Equiv.Perm (BitVec 128)

/-- Log entry 10 (DESIGN CHOICE): the ML-DSA-87 signature (4,627 B) of a digest, by its byte index. -/
opaque signature : BitVec 512 → Nat → BitVec 8

/-- Log entry 10 (DESIGN CHOICE): the ML-DSA-87 public key (2,592 B), by byte index. -/
opaque publicKey : Nat → BitVec 8

/-- Log entry 10 (DESIGN CHOICE): the device serial number. -/
opaque serial : BitVec 64

/-- Log entry 30 (DESIGN CHOICE): the phase bit of the first pass through a result ring. -/
opaque firstPhase : Bool

/-- Log entry 45 (DESIGN CHOICE): the rounding mode of an rm code from 5 to 7. -/
opaque oddRound : BitVec 3 → Nat

/-- A free value for each count of `State.free`. -/
opaque freeValue : Nat → BitVec 64

end Sys2Proof.Config
end

