-- ==== Sys2Proof/Machine/Flags.lean ====
section
/-! DEFINITION. The exception flags and the fields of `fcsr` (R91-R95). -/

namespace Sys2Proof.Machine

/-- The six sticky flags of R91 in `fcsr`'s order: bit 5 rg, 4 nv, 3 dz, 2 of, 1 uf, 0 nx. -/
abbrev Flags := BitVec 6

/-- No flag. -/
def noFlags : Flags := 0

/-- Range: `vfsin` or `vfcos` of a finite |x| ≥ 2^20 (R95). -/
def fRg : Flags := 0x20

/-- Invalid operation (R95). -/
def fNv : Flags := 0x10

/-- Division by zero (R95). -/
def fDz : Flags := 0x08

/-- Overflow (R95). -/
def fOf : Flags := 0x04

/-- Underflow, tininess detected after rounding (R95). -/
def fUf : Flags := 0x02

/-- Inexact (R95). -/
def fNx : Flags := 0x01

/-- One flag if a condition holds. -/
def flagIf (c : Bool) (f : Flags) : Flags := if c then f else noFlags

/-- The rounding modes of `fcsr.rm` (R91). -/
inductive RM where
  /-- to nearest, ties to even -/
  | rne
  /-- toward zero -/
  | rtz
  /-- toward −∞ -/
  | rdn
  /-- toward +∞ -/
  | rup
  /-- to nearest, ties away from zero -/
  | rmm
  deriving DecidableEq, Repr

/-- The mode a 3-bit rm code names.  Codes 5 to 7 come only from a save area that software altered; what they
round as is a free value (R91, R307; log entry 45: DESIGN CHOICE). -/
def rmOf (c : BitVec 3) : RM :=
  let n := if 5 ≤ c.toNat then Config.oddRound c % 5 else c.toNat
  if n = 1 then .rtz else if n = 2 then .rdn else if n = 3 then .rup else if n = 4 then .rmm else .rne

/-- The rounding mode in force (R91 [2:0]). -/
def fcsrRm (f : BitVec 64) : RM := rmOf (f.extractLsb' 0 3)

/-- The satfp field (R91 [3]). -/
def fcsrSat (f : BitVec 64) : Bool := f.getLsbD 3

/-- The sticky flags (R91 [13:8]). -/
def fcsrFlags (f : BitVec 64) : Flags := f.extractLsb' 8 6

/-- The enable bits (R91 [21:16]), in the order of the flags. -/
def fcsrEnables (f : BitVec 64) : Flags := f.extractLsb' 16 6

/-- The bits of `fcsr` that are not reserved (R91). -/
def fcsrMask : BitVec 64 := 0x3F3F0F

/-- R92: the flags of an instruction are merged into the sticky flags. -/
def fcsrMerge (f : BitVec 64) (x : Flags) : BitVec 64 := f ||| ((x.zeroExtend 64) <<< 8)

/-- R91: a write of `fcsr` by `mtc`, `setc` or `clrc` whose rm would be 5 to 7 leaves rm and
writes the other fields; reserved bits stay 0 (R8). -/
def fcsrWrite (old new : BitVec 64) : BitVec 64 :=
  let v := new &&& fcsrMask
  if 5 ≤ (v.extractLsb' 0 3).toNat then (v &&& ~~~(7 : BitVec 64)) ||| (old &&& 7) else v

/-- R94: some flag set by an instruction has its enable bit 1. -/
def fpTraps (f : BitVec 64) (x : Flags) : Bool := (fcsrEnables f &&& x) != 0

end Sys2Proof.Machine
end

