-- ==== Sys2Proof/Machine/Float.lean ====
section
/-! DEFINITION. Integer rounding and the floating-point types: their values, rounding and the
operations of R80-R106 that are not functions of one instruction only. -/

namespace Sys2Proof.Machine

/-- The two's complement value of the low `b` bits of a natural. -/
def sx (b x : Nat) : Int :=
  let y := x % 2 ^ b
  if y < 2 ^ (b - 1) then (y : Int) else (y : Int) - (2 ^ b : Nat)

/-- The low `b` bits of an integer (R77: arithmetic wraps). -/
def wrapN (b : Nat) (x : Int) : Nat := (x % (2 ^ b : Nat)).toNat

/-- R11 `sat` to the signed range of `b` bits. -/
def satS (b : Nat) (x : Int) : Int :=
  let lim : Int := (2 ^ (b - 1) : Nat)
  if x < -lim then -lim else if lim ≤ x then lim - 1 else x

/-- R11 `sat` to the natural range of `b` bits. -/
def satU (b : Nat) (x : Int) : Int :=
  let lim : Int := (2 ^ b : Nat)
  if x < 0 then 0 else if lim ≤ x then lim - 1 else x

/-- Whether a magnitude `q + f/h2` (`0 ≤ f < 2h`, `st` for a further non-zero part below) rounds
up in magnitude under a mode; `odd` is the parity of `q`. -/
def roundsUp (rm : RM) (neg odd : Bool) (f h : Nat) (st : Bool) : Bool :=
  match rm with
  | .rne => h < f || (f == h && (st || odd))
  | .rmm => h ≤ f
  | .rtz => false
  | .rdn => neg && (f != 0 || st)
  | .rup => !neg && (f != 0 || st)

/-- R80: x / 2^n rounded to an integer. -/
def rshr (x : Int) (n : Nat) (rm : RM) : Int :=
  if n = 0 then x
  else
    let q := x / (2 ^ n : Nat)
    let f := (x % (2 ^ n : Nat)).toNat
    let h := 2 ^ (n - 1)
    match rm with
    | .rne => if h < f || (f == h && q % 2 == 1) then q + 1 else q
    | .rmm => if h < f || (f == h && 0 ≤ q) then q + 1 else q
    | .rup => if f ≠ 0 then q + 1 else q
    | .rtz => if f ≠ 0 && x < 0 then q + 1 else q
    | .rdn => q

/-- The layout of a floating-point type (R81). -/
structure FFmt where
  /-- exponent bits -/
  ew : Nat
  /-- fraction bits -/
  mw : Nat
  /-- exponent bias -/
  bias : Nat
  /-- the all-ones exponent holds infinities and NaNs -/
  ieee : Bool
  /-- the encoding of the largest finite value -/
  maxBits : Nat
  /-- the default NaN -/
  nan : Nat
  deriving DecidableEq, Repr

/-- R81 binary64. -/
def f64 : FFmt := ⟨11, 52, 1023, true, 0x7FEFFFFFFFFFFFFF, 0x7FF8000000000000⟩
/-- R81 binary32. -/
def f32 : FFmt := ⟨8, 23, 127, true, 0x7F7FFFFF, 0x7FC00000⟩
/-- R81 binary16. -/
def f16 : FFmt := ⟨5, 10, 15, true, 0x7BFF, 0x7E00⟩
/-- R81 bfloat16. -/
def bf16 : FFmt := ⟨8, 7, 127, true, 0x7F7F, 0x7FC0⟩
/-- R81 E4M3: no infinity; NaN is 0x7F or 0xFF. -/
def f8a : FFmt := ⟨4, 3, 7, false, 0x7E, 0x7F⟩
/-- R81 E5M2. -/
def f8b : FFmt := ⟨5, 2, 15, true, 0x7B, 0x7E⟩
/-- R81 E2M1: no infinity and no NaN. -/
def f4 : FFmt := ⟨2, 1, 1, false, 0x7, 0⟩

/-- The width of a type. -/
def FFmt.width (f : FFmt) : Nat := 1 + f.ew + f.mw

/-- The exponent of the unit of the smallest binade: a subnormal is `M · 2^qmin` (R81). -/
def FFmt.qmin (f : FFmt) : Int := 1 - (f.bias : Int) - f.mw

/-- The value a floating-point encoding stands for. -/
inductive FVal where
  | nan
  | inf (neg : Bool)
  /-- (−1)^neg · m · 2^e -/
  | fin (neg : Bool) (m : Nat) (e : Int)
  deriving DecidableEq, Repr

/-- The sign bit of an encoding. -/
def FFmt.neg (f : FFmt) (x : Nat) : Bool := x / 2 ^ (f.ew + f.mw) % 2 == 1

/-- The exponent field. -/
def FFmt.expo (f : FFmt) (x : Nat) : Nat := x / 2 ^ f.mw % 2 ^ f.ew

/-- The fraction field. -/
def FFmt.frac (f : FFmt) (x : Nat) : Nat := x % 2 ^ f.mw

/-- The encoding is a NaN (R81). -/
def FFmt.isNan (f : FFmt) (x : Nat) : Bool :=
  if f.ieee then f.expo x == 2 ^ f.ew - 1 && f.frac x != 0
  else f.nan != 0 && x % 2 ^ (f.ew + f.mw) == f.nan

/-- The encoding is a signalling NaN (R82; the f8a NaN counts as quiet). -/
def FFmt.isSnan (f : FFmt) (x : Nat) : Bool :=
  f.ieee && f.isNan x && f.frac x / 2 ^ (f.mw - 1) == 0

/-- The value of an encoding (R81). -/
def FFmt.unpack (f : FFmt) (x : Nat) : FVal :=
  if f.isNan x then .nan
  else if f.ieee && f.expo x == 2 ^ f.ew - 1 then .inf (f.neg x)
  else if f.expo x = 0 then .fin (f.neg x) (f.frac x) f.qmin
  else .fin (f.neg x) (2 ^ f.mw + f.frac x) (f.qmin + (f.expo x - 1 : Nat))

/-- An encoding with a flag set. -/
structure FRes where
  bits : Nat
  flags : Flags
  deriving DecidableEq, Repr

/-- A result with no flag. -/
def FRes.plain (x : Nat) : FRes := ⟨x, noFlags⟩

/-- A magnitude with a sign bit set above it. -/
def FFmt.signed (f : FFmt) (neg : Bool) (x : Nat) : Nat := if neg then 2 ^ (f.ew + f.mw) + x else x

/-- The bits of an infinity of an IEEE type. -/
def FFmt.infBits (f : FFmt) (neg : Bool) : Nat := f.signed neg ((2 ^ f.ew - 1) * 2 ^ f.mw)

/-- Number of bits of a natural. -/
def bitLen (n : Nat) : Nat := if n = 0 then 0 else Nat.log2 n + 1

/-- The magnitude m·2^e (plus a non-zero part below when `st`) rounded to a multiple of 2^q:
the multiple, and whether it is inexact. -/
def roundAt (rm : RM) (neg : Bool) (m : Nat) (e : Int) (st : Bool) (q : Int) : Nat × Bool :=
  if q ≤ e then (m * 2 ^ (e - q).toNat + (if st && roundsUp rm neg false 0 1 true then 1 else 0), st)
  else
    let d := (q - e).toNat
    let n := m / 2 ^ d
    let r := m % 2 ^ d
    let up := roundsUp rm neg (n % 2 == 1) r (2 ^ (d - 1)) st
    (if up then n + 1 else n, r != 0 || st)

/-- The outcome of rounding a non-zero finite magnitude into a type (R95). -/
structure Rounded where
  /-- magnitude bits when it does not overflow -/
  bits : Nat
  overflow : Bool
  uf : Bool
  nx : Bool
  deriving DecidableEq, Repr

/-- R95: rounding of a non-zero magnitude, with overflow and underflow judged as though the
exponent range were unbounded. -/
def roundMag (f : FFmt) (rm : RM) (neg : Bool) (m : Nat) (e : Int) (st : Bool) : Rounded :=
  let top : Int := e + bitLen m - 1
  let qu : Int := top - f.mw
  let q : Int := if qu < f.qmin then f.qmin else qu
  let r := roundAt rm neg m e st q
  let bits := r.1 + (q - f.qmin).toNat * 2 ^ f.mw
  let tiny : Bool :=
    if qu < f.qmin then
      let ru := roundAt rm neg m e st qu
      -- below the smallest normal 2^(qmin + mw)
      decide (ru.1 < 2 ^ (f.qmin + f.mw - qu).toNat)
    else false
  ⟨bits, f.maxBits < bits, tiny && r.2, r.2⟩

/-- R95: an overflow is delivered as an infinity under this mode (else as the largest finite). -/
def overflowsToInf (rm : RM) (neg : Bool) : Bool :=
  match rm with
  | .rne => true
  | .rmm => true
  | .rtz => false
  | .rdn => neg
  | .rup => !neg

/-- A value rounded into an IEEE type (R95); `st` marks a non-zero part below the last bit. -/
def roundV (f : FFmt) (rm : RM) (v : FVal) (st : Bool) : FRes :=
  match v with
  | .nan => .plain f.nan
  | .inf n => .plain (f.infBits n)
  | .fin n m e =>
    if m = 0 then .plain (f.signed n 0)
    else
      let r := roundMag f rm n m e st
      if r.overflow then
        ⟨if overflowsToInf rm n then f.infBits n else f.signed n f.maxBits, fOf ||| fNx⟩
      else ⟨f.signed n r.bits, flagIf r.uf fUf ||| flagIf r.nx fNx⟩

/-- A value converted to f8a, f8b or f4 (R96). -/
def roundSmall (f : FFmt) (rm : RM) (sat : Bool) (v : FVal) (st : Bool) (snan : Bool) : FRes :=
  if f = f4 then
    match v with
    | .nan => ⟨0, fNv⟩
    | .inf n => ⟨f.signed n f.maxBits, flagIf (!sat) fNv⟩
    | .fin n m e =>
      if m = 0 then .plain (f.signed n 0)
      else
        let r := roundMag f rm n m e st
        if r.overflow then ⟨f.signed n f.maxBits, fOf ||| fNx⟩
        else ⟨f.signed n r.bits, flagIf r.uf fUf ||| flagIf r.nx fNx⟩
  else
    match v with
    | .nan => ⟨f.nan, flagIf snan fNv⟩
    | .inf n =>
      if sat then .plain (f.signed n f.maxBits)
      else if f.ieee then .plain (f.infBits n) else ⟨f.nan, fNv⟩
    | .fin n m e =>
      if m = 0 then .plain (f.signed n 0)
      else
        let r := roundMag f rm n m e st
        if r.overflow then
          ⟨if !sat && overflowsToInf rm n then (if f.ieee then f.infBits n else f.nan)
            else f.signed n f.maxBits, fOf ||| fNx⟩
        else ⟨f.signed n r.bits, flagIf r.uf fUf ||| flagIf r.nx fNx⟩

/-- Rounding into any type: R96 for the three small ones. -/
def roundTo (f : FFmt) (rm : RM) (sat : Bool) (v : FVal) (st snan : Bool) : FRes :=
  if f = f8a || f = f8b || f = f4 then roundSmall f rm sat v st snan
  else
    let r := roundV f rm v st
    ⟨r.bits, r.flags ||| flagIf snan fNv⟩

/-- The negation of a value. -/
def FVal.negate (v : FVal) : FVal :=
  match v with
  | .nan => .nan
  | .inf n => .inf (!n)
  | .fin n m e => .fin (!n) m e

/-- The exact product; the Bool says 0 × ∞ (R95 nv). -/
def mulV (a b : FVal) : FVal × Bool :=
  match a, b with
  | .nan, _ => (.nan, false)
  | _, .nan => (.nan, false)
  | .inf n, .inf k => (.inf (n != k), false)
  | .inf n, .fin k m _ => if m = 0 then (.nan, true) else (.inf (n != k), false)
  | .fin n m _, .inf k => if m = 0 then (.nan, true) else (.inf (n != k), false)
  | .fin n m e, .fin k m' e' => (.fin (n != k) (m * m') (e + e'), false)

/-- The sign of a value that is not a NaN. -/
def FVal.isNeg (v : FVal) : Bool :=
  match v with
  | .nan => false
  | .inf n => n
  | .fin n _ _ => n

/-- The value is a NaN. -/
def FVal.isNan (v : FVal) : Bool :=
  match v with
  | .nan => true
  | _ => false

/-- The value is the infinity of a sign. -/
def FVal.isInf (v : FVal) (neg : Bool) : Bool :=
  match v with
  | .inf n => n == neg
  | _ => false

/-- The value is zero. -/
def FVal.isZero (v : FVal) : Bool :=
  match v with
  | .fin _ m _ => m == 0
  | _ => false

/-- The least exponent of the finite terms. -/
def minExp (ts : List FVal) : Int :=
  ts.foldl (fun q t => match t with | .fin _ m e => if m = 0 then q else if e < q then e else q | _ => q)
    100000

/-- The exact sum of finite terms in units of 2^q. -/
def sumAt (q : Int) (ts : List FVal) : Int :=
  ts.foldl (fun s t => match t with
    | .fin n m e =>
      if m = 0 then s
      else if n then s - (m * 2 ^ (e - q).toNat : Nat) else s + (m * 2 ^ (e - q).toNat : Nat)
    | _ => s) 0

/-- The exact sum of values; the Bool says ∞ − ∞ (R95 nv).  A zero sum is −0 when every term is
−0, +0 when every term is +0, and otherwise +0 but under `rdn` −0 (R98). -/
def sumV (rdn : Bool) (ts : List FVal) : FVal × Bool :=
  if ts.any FVal.isNan then (.nan, ts.any (·.isInf true) && ts.any (·.isInf false))
  else if ts.any (·.isInf true) then
    if ts.any (·.isInf false) then (.nan, true) else (.inf true, false)
  else if ts.any (·.isInf false) then (.inf false, false)
  else
    let q := minExp ts
    let s := sumAt q ts
    if s = 0 then
      (.fin (if ts.all FVal.isNeg then true else if ts.all (fun t => !t.isNeg) then false else rdn) 0 0, false)
    else (.fin (s < 0) s.natAbs q, false)

/-- The mode is RDN (the one that makes a mixed zero sum −0, R98). -/
def RM.isRdn (rm : RM) : Bool := rm == .rdn

/-- nv for signalling NaN operands (R95). -/
def snanFlag (f : FFmt) (xs : List Nat) : Flags := flagIf (xs.any f.isSnan) fNv

/-- R95 addition: round(a + b). -/
def fpAdd (f : FFmt) (rm : RM) (a b : Nat) : FRes :=
  let s := sumV rm.isRdn [f.unpack a, f.unpack b]
  let r := roundV f rm s.1 false
  ⟨r.bits, r.flags ||| flagIf s.2 fNv ||| snanFlag f [a, b]⟩

/-- The encoding with its sign inverted. -/
def FFmt.flip (f : FFmt) (x : Nat) : Nat :=
  if f.neg x then x - 2 ^ (f.ew + f.mw) else x + 2 ^ (f.ew + f.mw)

/-- R95 subtraction: round(a − b). -/
def fpSub (f : FFmt) (rm : RM) (a b : Nat) : FRes :=
  let s := sumV rm.isRdn [f.unpack a, (f.unpack b).negate]
  let r := roundV f rm s.1 false
  ⟨r.bits, r.flags ||| flagIf s.2 fNv ||| snanFlag f [a, b]⟩

/-- R95 multiplication. -/
def fpMul (f : FFmt) (rm : RM) (a b : Nat) : FRes :=
  let p := mulV (f.unpack a) (f.unpack b)
  let r := roundV f rm p.1 false
  ⟨r.bits, r.flags ||| flagIf p.2 fNv ||| snanFlag f [a, b]⟩

/-- The quotient of two non-zero magnitudes, with at least `k` bits and a sticky part. -/
def divMag (k m m' : Nat) : Nat × Nat × Bool :=
  let sh := k + bitLen m' - bitLen m
  let n := m * 2 ^ sh
  (n / m', sh, n % m' != 0)

/-- The quotient of two values, with whether part of it lies below the mantissa, and flags. -/
def divV (k : Nat) (a b : FVal) : FVal × Bool × Flags :=
  match a, b with
  | .nan, _ => (.nan, false, noFlags)
  | _, .nan => (.nan, false, noFlags)
  | .inf _, .inf _ => (.nan, false, fNv)
  | .inf n, .fin n' _ _ => (.inf (n != n'), false, noFlags)
  | .fin n _ _, .inf n' => (.fin (n != n') 0 0, false, noFlags)
  | .fin n m e, .fin n' m' e' =>
    if m' = 0 then
      if m = 0 then (.nan, false, fNv) else (.inf (n != n'), false, fDz)
    else if m = 0 then (.fin (n != n') 0 0, false, noFlags)
    else
      let d := divMag k m m'
      (.fin (n != n') d.1 (e - e' - d.2.1), d.2.2, noFlags)

/-- R95 division. -/
def fpDiv (f : FFmt) (rm : RM) (a b : Nat) : FRes :=
  let d := divV (f.mw + 4) (f.unpack a) (f.unpack b)
  let r := roundV f rm d.1 d.2.1
  ⟨r.bits, r.flags ||| d.2.2 ||| snanFlag f [a, b]⟩

/-- The integer square root by bits from 2^n down (n steps). -/
def isqrtGo (x : Nat) : Nat → Nat → Nat
  | 0, r => r
  | n + 1, r =>
    let c := r + 2 ^ n
    if c * c ≤ x then isqrtGo x n c else isqrtGo x n r

/-- ⌊√x⌋. -/
def isqrt (x : Nat) : Nat := isqrtGo x (bitLen x / 2 + 1) 0

/-- The square root of m·2^e with at least `k` bits: mantissa, exponent, sticky. -/
def sqrtMag (k m : Nat) (e : Int) : Nat × Int × Bool :=
  let sh0 := 2 * k - bitLen m
  let sh := if (e - sh0) % 2 = 0 then sh0 else sh0 + 1
  let n := m * 2 ^ sh
  let r := isqrt n
  (r, (e - sh) / 2, r * r != n)

/-- R95 square root; that of −0 is −0. -/
def fpSqrt (f : FFmt) (rm : RM) (a : Nat) : FRes :=
  match f.unpack a with
  | .nan => ⟨f.nan, snanFlag f [a]⟩
  | .inf n => if n then ⟨f.nan, fNv⟩ else .plain (f.infBits false)
  | .fin n m e =>
    if m = 0 then .plain a
    else if n then ⟨f.nan, fNv⟩
    else
      let r := sqrtMag (f.mw + 4) m e
      roundV f rm (.fin false r.1 r.2.1) r.2.2

/-- R195 reciprocal: round(1 / a). -/
def fpRec (f : FFmt) (rm : RM) (a : Nat) : FRes :=
  let d := divV (f.mw + 4) (.fin false 1 0) (f.unpack a)
  let r := roundV f rm d.1 d.2.1
  ⟨r.bits, r.flags ||| d.2.2 ||| snanFlag f [a]⟩

/-- R195 reciprocal square root: round(1 / √a); ±0 gives ±∞ with dz. -/
def fpRsqrt (f : FFmt) (rm : RM) (a : Nat) : FRes :=
  match f.unpack a with
  | .nan => ⟨f.nan, snanFlag f [a]⟩
  | .inf n => if n then ⟨f.nan, fNv⟩ else .plain 0
  | .fin n m e =>
    if m = 0 then ⟨f.infBits n, fDz⟩
    else if n then ⟨f.nan, fNv⟩
    else
      let me := if e % 2 = 0 then (m, e) else (2 * m, e - 1)
      let k := 2 * (f.mw + 4) + bitLen me.1
      let k := if k % 2 = 0 then k else k + 1
      let big := 2 ^ k
      let r := isqrt (big / me.1)
      roundV f rm (.fin false r (-(me.2 / 2) - (k / 2 : Nat))) (r * r * me.1 != big)

/-- R95 fused multiply-add of signs: round((−1)^np · a·b + (−1)^nc · c). -/
def fpFma (f : FFmt) (rm : RM) (np nc : Bool) (a b c : Nat) : FRes :=
  let p := mulV (f.unpack a) (f.unpack b)
  let pv := if np then p.1.negate else p.1
  let cv := if nc then (f.unpack c).negate else f.unpack c
  let s := sumV rm.isRdn [pv, cv]
  let r := roundV f rm s.1 false
  ⟨r.bits, r.flags ||| flagIf (p.2 || s.2) fNv ||| snanFlag f [a, b, c]⟩

/-- The order of two values that are not NaNs: −1, 0 or 1; ±0 are equal. -/
def cmpV (a b : FVal) : Int :=
  match a, b with
  | .inf n, .inf k => if n = k then 0 else if n then -1 else 1
  | .inf n, _ => if n then -1 else 1
  | _, .inf k => if k then 1 else -1
  | .fin n m e, .fin k m' e' =>
    let q := if e < e' then e else e'
    let x : Int := (m * 2 ^ (e - q).toNat : Nat)
    let y : Int := (m' * 2 ^ (e' - q).toNat : Nat)
    let x := if n then -x else x
    let y := if k then -y else y
    if x < y then -1 else if x = y then 0 else 1
  | _, _ => 0

/-- R98 minimumNumber (`mx` false) and maximumNumber (`mx` true). -/
def fpMinMax (f : FFmt) (mx : Bool) (a b : Nat) : FRes :=
  let fl := snanFlag f [a, b]
  if f.isNan a then (if f.isNan b then ⟨f.nan, fl⟩ else ⟨b, fl⟩)
  else if f.isNan b then ⟨a, fl⟩
  else
    let c := cmpV (f.unpack a) (f.unpack b)
    let aLess := c < 0 || (c == 0 && f.neg a)
    ⟨if aLess != mx then a else b, fl⟩

/-- The relations of `fcmp` and `vfcmp` (R134, R169): 0 eq, 1 ne, 2 lt, 3 ge, 4 le, 5 gt, 6 ord,
7 unord, with nv as R95 states. -/
def fpCmp (f : FFmt) (cond : Nat) (a b : Nat) : Bool × Flags :=
  let un := f.isNan a || f.isNan b
  let fl := if 2 ≤ cond && cond ≤ 5 then flagIf un fNv else snanFlag f [a, b]
  let c := cmpV (f.unpack a) (f.unpack b)
  let r :=
    if un then cond == 1 || cond == 7
    else match cond with
      | 0 => c == 0
      | 1 => c != 0
      | 2 => c < 0
      | 3 => 0 ≤ c
      | 4 => c ≤ 0
      | 5 => 0 < c
      | 6 => true
      | _ => false
  (r, fl)

/-- R135: the class mask. -/
def fpClass (f : FFmt) (a : Nat) : Nat :=
  match f.unpack a with
  | .nan => if f.isSnan a then 2 ^ 8 else 2 ^ 9
  | .inf n => if n then 2 ^ 0 else 2 ^ 7
  | .fin n m _ =>
    if m = 0 then (if n then 2 ^ 3 else 2 ^ 4)
    else if f.expo a = 0 then (if n then 2 ^ 2 else 2 ^ 5)
    else (if n then 2 ^ 1 else 2 ^ 6)

/-- A finite value scaled by 2^k and rounded to an integer, with whether it is inexact. -/
def toIntV (rm : RM) (k : Int) (n : Bool) (m : Nat) (e : Int) : Int × Bool :=
  let r := roundAt rm n m (e + k) false 0
  (if n then -(r.1 : Int) else r.1, r.2)

/-- R97 float to integer (`sg`) or natural of `b` bits, of the value times 2^k. -/
def fpToInt (f : FFmt) (rm : RM) (k : Int) (b : Nat) (sg : Bool) (a : Nat) : FRes :=
  let lo : Int := if sg then -(2 ^ (b - 1) : Nat) else 0
  let hi : Int := if sg then (2 ^ (b - 1) : Nat) - 1 else (2 ^ b : Nat) - 1
  match f.unpack a with
  | .nan => ⟨0, fNv⟩
  | .inf n => ⟨wrapN b (if n then lo else hi), fNv⟩
  | .fin n m e =>
    let r := toIntV rm k n m e
    if r.1 < lo then ⟨wrapN b lo, fNv⟩
    else if hi < r.1 then ⟨wrapN b hi, fNv⟩
    else ⟨wrapN b r.1, flagIf r.2 fNx⟩

/-- R97 integer to float, of the value times 2^k. -/
def fpOfInt (f : FFmt) (rm : RM) (sat : Bool) (k : Int) (x : Int) : FRes :=
  roundTo f rm sat (.fin (x < 0) x.natAbs k) false false

/-- Conversion between floating-point types (R95-R97). -/
def fpConv (src dst : FFmt) (rm : RM) (sat : Bool) (a : Nat) : FRes :=
  roundTo dst rm sat (src.unpack a) false (src.isSnan a)

/-- The value of an s10 scale that is neither zero nor NaN (R86). -/
def scaleVal (s : Nat) : FVal := .fin false (4 + s % 4) ((s / 4 % 256 : Nat) - 129 : Int)

/-- The s10 scale marks a zero block (R86). -/
def scaleZero (s : Nat) : Bool := s / 4 % 256 == 0

/-- The s10 scale marks a NaN block (R86). -/
def scaleNan (s : Nat) : Bool := s / 4 % 256 == 255

/-- Binary search for the least code c in [lo, lo + 2^n) with p c, given that p is monotone. -/
def leastGo (p : Nat → Bool) : Nat → Nat → Nat
  | 0, lo => lo
  | n + 1, lo => if p (lo + 2 ^ n - 1) then leastGo p n lo else leastGo p n (lo + 2 ^ n)

/-- R87: the scale chosen for the largest magnitude `a`, as an s10 code from 4 (2^−126) to 1019
(1.75 × 2^127), where `mx` is the base type's largest finite value. -/
def chooseScale (mx a : FVal) : Nat :=
  leastGo (fun c => c ≥ 1019 || decide (0 ≤ cmpV (mulV (scaleVal (if c < 4 then 4 else c)) mx).1 a)) 10 4

/-- The larger of two magnitudes. -/
def maxMag (a b : FVal) : FVal :=
  match a, b with
  | .fin _ m e, .fin _ m' e' =>
    if cmpV (.fin false m e) (.fin false m' e') < 0 then .fin false m' e' else .fin false m e
  | _, _ => a

/-- R87: a block of 32 values converted to a block-scaled type: the scale code, the elements and
the flags. -/
def toBlock (base : FFmt) (rm : RM) (sat : Bool) (vs : List FVal) : Nat × List Nat × Flags :=
  if vs.any (fun v => v.isNan || v.isInf true || v.isInf false) then
    (255 * 4, vs.map (fun _ => 0), fNv)
  else if vs.all FVal.isZero then (0, vs.map (fun _ => 0), noFlags)
  else
    let a := vs.foldl maxMag (.fin false 0 0)
    let s := chooseScale (base.unpack base.maxBits) a
    let rs := vs.map (fun v =>
      let d := divV (base.mw + 4) v (scaleVal s)
      roundSmall base rm sat d.1 d.2.1 false)
    (s, rs.map FRes.bits, rs.foldl (fun x r => x ||| r.flags) noFlags)

end Sys2Proof.Machine
end

