-- ==== Sys2Proof/Syntax.lean ====
section
/-! DEFINITION. The instructions of the machine: one constructor for each row of the opcode
table.  Fields hold the bits of the encoding (R48-R61); the convoy bit K and the pairing bit P
belong to the bundle, not to the instruction.  The instructions without operands follow those
with operands, and the table's events and commands, which have no encoding, stand last; what an
event happens to stands in the machine's state. -/

namespace Sys2Proof

/-- One instruction, command or event of the opcode table. -/
inductive Instr where
  /-- R139. Raises a precise svc trap with tval equal to the code; it resumes at the next instruction. -/
  | svc (imm : BitVec 19)
  /-- R140. Waits for earlier vector and matrix instructions to retire, then halts under a debug session or raises a precise brk trap. -/
  | brk (imm : BitVec 19)
  /-- R137. Reads a control register into sd. -/
  | mfc (sd : BitVec 5) (creg : BitVec 12)
  /-- R137. Writes s[sa] to a control register and returns its old value. -/
  | mtc (sd : BitVec 5) (sa : BitVec 5) (creg : BitVec 12)
  /-- R137. ORs s[sa] into a control register and returns its old value. -/
  | setc (sd : BitVec 5) (sa : BitVec 5) (creg : BitVec 12)
  /-- R137. Clears the bits of s[sa] in a control register and returns its old value. -/
  | clrc (sd : BitVec 5) (sa : BitVec 5) (creg : BitVec 12)
  /-- R123. Writes the 64-bit sum of two registers. -/
  | add (sd : BitVec 5) (sa : BitVec 5) (sb : BitVec 5)
  /-- R123. Writes the 64-bit difference of two registers. -/
  | sub (sd : BitVec 5) (sa : BitVec 5) (sb : BitVec 5)
  /-- R123. Writes the bitwise AND of two registers. -/
  | and (sd : BitVec 5) (sa : BitVec 5) (sb : BitVec 5)
  /-- R123. Writes the bitwise OR of two registers. -/
  | or (sd : BitVec 5) (sa : BitVec 5) (sb : BitVec 5)
  /-- R123. Writes the bitwise XOR of two registers. -/
  | xor (sd : BitVec 5) (sa : BitVec 5) (sb : BitVec 5)
  /-- R123. Shifts a register left by the other register modulo 64. -/
  | sll (sd : BitVec 5) (sa : BitVec 5) (sb : BitVec 5)
  /-- R123. Shifts a register right logically by the other register modulo 64. -/
  | srl (sd : BitVec 5) (sa : BitVec 5) (sb : BitVec 5)
  /-- R123. Shifts a register right arithmetically by the other register modulo 64. -/
  | sra (sd : BitVec 5) (sa : BitVec 5) (sb : BitVec 5)
  /-- R123. Writes the signed minimum of two registers. -/
  | min (sd : BitVec 5) (sa : BitVec 5) (sb : BitVec 5)
  /-- R123. Writes the signed maximum of two registers. -/
  | max (sd : BitVec 5) (sa : BitVec 5) (sb : BitVec 5)
  /-- R123. Writes the natural minimum of two registers. -/
  | minn (sd : BitVec 5) (sa : BitVec 5) (sb : BitVec 5)
  /-- R123. Writes the natural maximum of two registers. -/
  | maxn (sd : BitVec 5) (sa : BitVec 5) (sb : BitVec 5)
  /-- R123. Writes 1 when a is below b as signed values, else 0. -/
  | slt (sd : BitVec 5) (sa : BitVec 5) (sb : BitVec 5)
  /-- R123. Writes 1 when a is below b as naturals, else 0. -/
  | sltn (sd : BitVec 5) (sa : BitVec 5) (sb : BitVec 5)
  /-- R124. Adds a sign-extended 14-bit immediate to a register. -/
  | addi (sd : BitVec 5) (sa : BitVec 5) (imm : BitVec 14)
  /-- R124. ANDs a register with a sign-extended 12-bit immediate. -/
  | andi (sd : BitVec 5) (sa : BitVec 5) (imm : BitVec 12)
  /-- R124. ORs a register with a sign-extended 12-bit immediate. -/
  | ori (sd : BitVec 5) (sa : BitVec 5) (imm : BitVec 12)
  /-- R124. XORs a register with a sign-extended 12-bit immediate. -/
  | xori (sd : BitVec 5) (sa : BitVec 5) (imm : BitVec 12)
  /-- R124. Shifts a register left by an immediate amount. -/
  | slli (sd : BitVec 5) (sa : BitVec 5) (sh : BitVec 6)
  /-- R124. Shifts a register right logically by an immediate amount. -/
  | srli (sd : BitVec 5) (sa : BitVec 5) (sh : BitVec 6)
  /-- R124. Shifts a register right arithmetically by an immediate amount. -/
  | srai (sd : BitVec 5) (sa : BitVec 5) (sh : BitVec 6)
  /-- R124. Writes 1 when a register is below a signed 13-bit immediate as signed values. -/
  | slti (sd : BitVec 5) (sa : BitVec 5) (imm : BitVec 13)
  /-- R124. Writes 1 when a register is below a sign-extended 13-bit immediate as naturals. -/
  | sltin (sd : BitVec 5) (sa : BitVec 5) (imm : BitVec 13)
  /-- R125. Writes the sign-extended imm19 times 2^13. -/
  | lui (sd : BitVec 5) (imm : BitVec 19)
  /-- R126. Forms an absolute site address from x, y, the twin bit and the offset in s[sa]. -/
  | sitea (sd : BitVec 5) (sa : BitVec 5) (twin : BitVec 1) (x : BitVec 5) (y : BitVec 5)
  /-- R126. Forms a relative site address from dx, dy, the twin bit and the offset in s[sa]. -/
  | siteaRel (sd : BitVec 5) (sa : BitVec 5) (twin : BitVec 1) (x : BitVec 5) (y : BitVec 5)
  /-- R127. Writes the absolute site address of the hart's own core with offset 0. -/
  | here (sd : BitVec 5)
  /-- R123. Writes the low 64 bits of the product. -/
  | mul (sd : BitVec 5) (sa : BitVec 5) (sb : BitVec 5)
  /-- R123. Writes the high 64 bits of the signed product. -/
  | mulh (sd : BitVec 5) (sa : BitVec 5) (sb : BitVec 5)
  /-- R123. Writes the high 64 bits of the natural product. -/
  | mulhn (sd : BitVec 5) (sa : BitVec 5) (sb : BitVec 5)
  /-- R123. Writes the signed quotient under R78. -/
  | div (sd : BitVec 5) (sa : BitVec 5) (sb : BitVec 5)
  /-- R123. Writes the natural quotient under R78. -/
  | divn (sd : BitVec 5) (sa : BitVec 5) (sb : BitVec 5)
  /-- R123. Writes the signed remainder under R78. -/
  | rem (sd : BitVec 5) (sa : BitVec 5) (sb : BitVec 5)
  /-- R123. Writes the natural remainder under R78. -/
  | remn (sd : BitVec 5) (sa : BitVec 5) (sb : BitVec 5)
  /-- R123. Counts the leading zeros of a register. -/
  | clz (sd : BitVec 5) (sa : BitVec 5)
  /-- R123. Counts the trailing zeros of a register. -/
  | ctz (sd : BitVec 5) (sa : BitVec 5)
  /-- R123. Counts the ones in a register. -/
  | popc (sd : BitVec 5) (sa : BitVec 5)
  /-- R123. Reverses the bytes of a register. -/
  | bswap (sd : BitVec 5) (sa : BitVec 5)
  /-- R123. Sign- or zero-extends the low 8, 16 or 32 bits of a register. -/
  | ext (sd : BitVec 5) (sa : BitVec 5) (sign : BitVec 1) (width : BitVec 2)
  /-- R128. Branches when the two registers are equal. -/
  | beq (sa : BitVec 5) (sb : BitVec 5) (off : BitVec 11)
  /-- R128. Branches when the two registers differ. -/
  | bne (sa : BitVec 5) (sb : BitVec 5) (off : BitVec 11)
  /-- R128. Branches when a is below b as signed values. -/
  | blt (sa : BitVec 5) (sb : BitVec 5) (off : BitVec 11)
  /-- R128. Branches when a is at least b as signed values. -/
  | bge (sa : BitVec 5) (sb : BitVec 5) (off : BitVec 11)
  /-- R128. Branches when a is below b as naturals. -/
  | bltn (sa : BitVec 5) (sb : BitVec 5) (off : BitVec 11)
  /-- R128. Branches when a is at least b as naturals. -/
  | bgen (sa : BitVec 5) (sb : BitVec 5) (off : BitVec 11)
  /-- R129. Jumps by a signed bundle offset. -/
  | j (off : BitVec 24)
  /-- R129. Pushes the next bundle address and jumps by a signed bundle offset. -/
  | call (off : BitVec 24)
  /-- R129. Jumps to the address in s[sa]. -/
  | jr (sa : BitVec 5)
  /-- R129. Pushes the next bundle address and jumps to the address in s[sa]. -/
  | callr (sa : BitVec 5)
  /-- R131. Decrements the counter register and branches while it is non-zero. -/
  | loop (sa : BitVec 5) (off : BitVec 11)
  /-- R269. Loads 1, 2, 4 or 8 bytes into a scalar register, as an acquire when ord is non-zero. -/
  | lds (sd : BitVec 5) (sa : BitVec 5) (sz : BitVec 2) (sx : BitVec 1) (ord : BitVec 3) (off : BitVec 8)
  /-- R269. Stores 1, 2, 4 or 8 bytes of a scalar register, as a release when ord is non-zero. -/
  | sts (sd : BitVec 5) (sa : BitVec 5) (sz : BitVec 2) (ord : BitVec 3) (off : BitVec 8)
  /-- R294. Atomically adds s[sb] to the location and returns the old value. -/
  | amoAdd (sd : BitVec 5) (sa : BitVec 5) (sb : BitVec 5) (sz : BitVec 1) (sem : BitVec 2) (scope : BitVec 2)
  /-- R294. Atomically ANDs s[sb] into the location and returns the old value. -/
  | amoAnd (sd : BitVec 5) (sa : BitVec 5) (sb : BitVec 5) (sz : BitVec 1) (sem : BitVec 2) (scope : BitVec 2)
  /-- R294. Atomically ORs s[sb] into the location and returns the old value. -/
  | amoOr (sd : BitVec 5) (sa : BitVec 5) (sb : BitVec 5) (sz : BitVec 1) (sem : BitVec 2) (scope : BitVec 2)
  /-- R294. Atomically XORs s[sb] into the location and returns the old value. -/
  | amoXor (sd : BitVec 5) (sa : BitVec 5) (sb : BitVec 5) (sz : BitVec 1) (sem : BitVec 2) (scope : BitVec 2)
  /-- R294. Atomically stores the signed minimum and returns the old value. -/
  | amoMin (sd : BitVec 5) (sa : BitVec 5) (sb : BitVec 5) (sz : BitVec 1) (sem : BitVec 2) (scope : BitVec 2)
  /-- R294. Atomically stores the signed maximum and returns the old value. -/
  | amoMax (sd : BitVec 5) (sa : BitVec 5) (sb : BitVec 5) (sz : BitVec 1) (sem : BitVec 2) (scope : BitVec 2)
  /-- R294. Atomically stores the natural minimum and returns the old value. -/
  | amoMinn (sd : BitVec 5) (sa : BitVec 5) (sb : BitVec 5) (sz : BitVec 1) (sem : BitVec 2) (scope : BitVec 2)
  /-- R294. Atomically stores the natural maximum and returns the old value. -/
  | amoMaxn (sd : BitVec 5) (sa : BitVec 5) (sb : BitVec 5) (sz : BitVec 1) (sem : BitVec 2) (scope : BitVec 2)
  /-- R294. Atomically swaps s[sb] with the location and returns the old value. -/
  | amoSwap (sd : BitVec 5) (sa : BitVec 5) (sb : BitVec 5) (sz : BitVec 1) (sem : BitVec 2) (scope : BitVec 2)
  /-- R294. Atomically writes s[sb] when the location equals s[sd], and returns the old value. -/
  | amoCas (sd : BitVec 5) (sa : BitVec 5) (sb : BitVec 5) (sz : BitVec 1) (sem : BitVec 2) (scope : BitVec 2)
  /-- R294. Atomically adds a float with RNE rounding and returns the old value. -/
  | amoFadd (sd : BitVec 5) (sa : BitVec 5) (sb : BitVec 5) (sz : BitVec 1) (sem : BitVec 2) (scope : BitVec 2)
  /-- R291. Orders the hart's accesses as an acquire, release or full fence at a scope. -/
  | fence (kind : BitVec 2) (scope : BitVec 3)
  /-- R274. Loads unit-stride vector elements from s[sa] plus an offset. -/
  | vld (vd : BitVec 6) (sa : BitVec 5) (x : BitVec 5) (k : BitVec 3) (ew : BitVec 2)
  /-- R274. Loads vector elements at a register stride. -/
  | vlds (vd : BitVec 6) (sa : BitVec 5) (sb : BitVec 5) (k : BitVec 3) (ew : BitVec 2)
  /-- R274. Loads vector elements at i32 byte offsets from an index register. -/
  | vldx (vd : BitVec 6) (sa : BitVec 5) (x : BitVec 5) (k : BitVec 3) (ew : BitVec 2)
  /-- R274. Loads a tile of rows at a register row stride. -/
  | vld2d (vd : BitVec 6) (sa : BitVec 5) (sb : BitVec 5) (k : BitVec 3) (ew : BitVec 2)
  /-- R277. Reads a window of the own core from its head, waiting for arrival, without popping. -/
  | vldw (vd : BitVec 6) (wn : BitVec 5) (chunk : BitVec 5) (k : BitVec 3) (ew : BitVec 2)
  /-- R298. Gathers elements at their home slices and sets link tags on their lines. -/
  | vldl (vd : BitVec 6) (sa : BitVec 5) (x : BitVec 5) (k : BitVec 3) (ew : BitVec 1)
  /-- R274. Stores unit-stride vector elements. -/
  | vst (vd : BitVec 6) (sa : BitVec 5) (x : BitVec 5) (k : BitVec 3) (ew : BitVec 2)
  /-- R274. Stores vector elements at a register stride. -/
  | vsts (vd : BitVec 6) (sa : BitVec 5) (sb : BitVec 5) (k : BitVec 3) (ew : BitVec 2)
  /-- R274. Scatters vector elements at indexed offsets. -/
  | vstx (vd : BitVec 6) (sa : BitVec 5) (x : BitVec 5) (k : BitVec 3) (ew : BitVec 2)
  /-- R274. Stores a tile of rows at a register row stride. -/
  | vst2d (vd : BitVec 6) (sa : BitVec 5) (sb : BitVec 5) (k : BitVec 3) (ew : BitVec 2)
  /-- R299. Conditionally scatters elements whose lines are still linked to this hart, clearing mask bits of failures. -/
  | vstc (vd : BitVec 6) (sa : BitVec 5) (x : BitVec 5) (k : BitVec 3) (ew : BitVec 1)
  /-- R300. Sends combining add updates to scratchpad words. -/
  | vamoAdd (vd : BitVec 6) (sa : BitVec 5) (x : BitVec 5) (k : BitVec 3) (ew : BitVec 1)
  /-- R300. Sends combining minimum updates to scratchpad words. -/
  | vamoMin (vd : BitVec 6) (sa : BitVec 5) (x : BitVec 5) (k : BitVec 3) (ew : BitVec 1)
  /-- R300. Sends combining maximum updates to scratchpad words. -/
  | vamoMax (vd : BitVec 6) (sa : BitVec 5) (x : BitVec 5) (k : BitVec 3) (ew : BitVec 1)
  /-- R300. Sends combining OR updates to scratchpad words. -/
  | vamoOr (vd : BitVec 6) (sa : BitVec 5) (x : BitVec 5) (k : BitVec 3) (ew : BitVec 1)
  /-- R300. Sends combining XOR updates to scratchpad words. -/
  | vamoXor (vd : BitVec 6) (sa : BitVec 5) (x : BitVec 5) (k : BitVec 3) (ew : BitVec 1)
  /-- R168. Sets vtype and grants vl for the requested element count in s[sa]. -/
  | setvl (sd : BitVec 5) (sa : BitVec 5) (typ : BitVec 5) (grp : BitVec 2)
  /-- R168. Sets vtype and grants vl for an immediate element count. -/
  | setvli (sd : BitVec 5) (typ : BitVec 5) (grp : BitVec 2) (imm : BitVec 10)
  /-- R168. Grants rowc, colc and vl for requested rows and columns. -/
  | settile (sd : BitVec 5) (sa : BitVec 5) (sb : BitVec 5)
  /-- R348. Reads a job record and places it in the own ready store or the dispatcher's pool. -/
  | spawn (sd : BitVec 5) (sa : BitVec 5)
  /-- R349. Queues a gang request for a record and core mask. -/
  | gang (sd : BitVec 5) (sa : BitVec 5) (sb : BitVec 5)
  /-- R350. Waits for retirement, fences, releases, decrements exit counters and writes a DONE completion record. -/
  | exitJob (sa : BitVec 5)
  /-- R352. Begins abandonment of a named tree or of the caller's own tree. -/
  | abandon (sd : BitVec 5) (sa : BitVec 5)
  /-- R353. Asks the dispatcher to set the caller's tree deadline and returns the old one. -/
  | setdl (sd : BitVec 5) (sa : BitVec 5)
  /-- R356. Arms a dependence counter with a count and an optional job record copy. -/
  | depInit (sd : BitVec 5) (sa : BitVec 5) (sb : BitVec 5)
  /-- R356. Adds to a pending counter, or sets ERROR on overflow. -/
  | depAdd (sd : BitVec 5) (sa : BitVec 5) (sb : BitVec 5)
  /-- R356. Decrements a counter, reaching zero or ERROR on underflow. -/
  | depDec (sd : BitVec 5) (sa : BitVec 5) (sb : BitVec 5)
  /-- R356. Returns a counter's state and count, or an error word. -/
  | depGet (sd : BitVec 5) (sa : BitVec 5)
  /-- R437. Sets a barrier object's expected count and clears its other state. -/
  | barInit (sd : BitVec 5) (sa : BitVec 5) (sb : BitVec 5)
  /-- R438. Releases and arrives at a barrier, returning the handle with its token. -/
  | barArrive (sd : BitVec 5) (sa : BitVec 5)
  /-- R440. Waits for a phase change of a barrier and returns a selected result. -/
  | barWait (sd : BitVec 5) (sa : BitVec 5) (sel : BitVec 5)
  /-- R440. Waits for a phase change of a barrier until a time limit. -/
  | barWaitt (sd : BitVec 5) (sa : BitVec 5) (sb : BitVec 5)
  /-- R438. Arrives and adds an f64 exactly to acc0. -/
  | barArriveFsum (sd : BitVec 5) (sa : BitVec 5) (sb : BitVec 5)
  /-- R438. Arrives and adds an f64 pair exactly to acc0 and acc1. -/
  | barArriveFsum2 (sd : BitVec 5) (sa : BitVec 5) (sb : BitVec 5)
  /-- R438. Arrives and adds an i64 to iacc modulo 2^64. -/
  | barArriveIsum (sd : BitVec 5) (sa : BitVec 5) (sb : BitVec 5)
  /-- R443. Indivisibly fetches and increments a ticket word. -/
  | tktTake (sd : BitVec 5) (sa : BitVec 5)
  /-- R443. Waits until a read of the ticket word returns the ticket, then acquires. -/
  | tktWait (sa : BitVec 5) (sb : BitVec 5)
  /-- R443. Releases, then indivisibly fetches and increments a ticket word. -/
  | tktGive (sd : BitVec 5) (sa : BitVec 5)
  /-- R443. Waits for a ticket value until a time limit. -/
  | tktWaitt (sd : BitVec 5) (sa : BitVec 5) (sb : BitVec 5)
  /-- R374. Configures or clears a window of the core from a 64-byte image and takes ownership. -/
  | winCfg (sd : BitVec 5) (wn : BitVec 5) (sb : BitVec 5)
  /-- R375. Advances a window's head by a byte count. -/
  | winPop (sd : BitVec 5) (wn : BitVec 5) (sb : BitVec 5)
  /-- R376. Returns a selected value of a window's state. -/
  | winGet (sd : BitVec 5) (wn : BitVec 5) (sel : BitVec 5)
  /-- R377. Sets a window's origin and armed slot mask and recomputes the arrived mask. -/
  | winArm (sd : BitVec 5) (wn : BitVec 5) (sb : BitVec 5)
  /-- R444. Waits for armed slots or for a byte count to arrive in a window. -/
  | winaWait (sd : BitVec 5) (wn : BitVec 5) (sb : BitVec 5)
  /-- R444. Waits for a window arrival until a time limit. -/
  | winaWaitt (sd : BitVec 5) (wn : BitVec 5) (sb : BitVec 5)
  /-- R386. Posts a command list to its spool. -/
  | splRun (sd : BitVec 5) (sa : BitVec 5)
  /-- R387. Posts a one-PUSH list described by a 32-byte push block. -/
  | splPush (sd : BitVec 5) (sa : BitVec 5)
  /-- R386. Posts a list with its receiver masks ANDed with s[sb] for this run. -/
  | splMcast (sd : BitVec 5) (sa : BitVec 5) (sb : BitVec 5)
  /-- R388. Returns the state and chunks delivered of the latest list posted from an address. -/
  | splStat (sd : BitVec 5) (sa : BitVec 5)
  /-- R392. Checks, translates and posts a coding command to an engine or class. -/
  | cpost (sd : BitVec 5) (sa : BitVec 5) (sb : BitVec 5)
  /-- R392. Returns an engine's busy bit and queued count. -/
  | cstat (sd : BitVec 5) (sa : BitVec 5)
  /-- R394. Reserves a message at a destination window and sends its payload. -/
  | msgSend (sd : BitVec 5) (sa : BitVec 5)
  /-- R395. Posts a vector register group as a message payload. -/
  | msgSendv (vs : BitVec 5) (sa : BitVec 5) (sb : BitVec 5)
  /-- R429. Reads the core's copy of device time. -/
  | now (sd : BitVec 5) (sel : BitVec 5)
  /-- R447. Reads a performance counter. -/
  | pmc (sd : BitVec 5) (n : BitVec 5)
  /-- R447. Sets a performance counter's select, clears its count and returns the old select. -/
  | pmcCfg (sd : BitVec 5) (n : BitVec 3) (sb : BitVec 5)
  /-- R189. Adds integer elements with wraparound. -/
  | vadd (vd : BitVec 6) (va : BitVec 6) (vb : BitVec 6) (k : BitVec 3)
  /-- R189. Subtracts integer elements with wraparound. -/
  | vsub (vd : BitVec 6) (va : BitVec 6) (vb : BitVec 6) (k : BitVec 3)
  /-- R189. Takes the signed minimum of elements. -/
  | vmin (vd : BitVec 6) (va : BitVec 6) (vb : BitVec 6) (k : BitVec 3)
  /-- R189. Takes the signed maximum of elements. -/
  | vmax (vd : BitVec 6) (va : BitVec 6) (vb : BitVec 6) (k : BitVec 3)
  /-- R189. Takes the natural minimum of elements. -/
  | vminn (vd : BitVec 6) (va : BitVec 6) (vb : BitVec 6) (k : BitVec 3)
  /-- R189. Takes the natural maximum of elements. -/
  | vmaxn (vd : BitVec 6) (va : BitVec 6) (vb : BitVec 6) (k : BitVec 3)
  /-- R189. Takes the absolute value of signed elements. -/
  | vabs (vd : BitVec 6) (va : BitVec 6) (k : BitVec 3)
  /-- R189. Bitwise AND of elements. -/
  | vand (vd : BitVec 6) (va : BitVec 6) (vb : BitVec 6) (k : BitVec 3)
  /-- R189. Bitwise OR of elements. -/
  | vor (vd : BitVec 6) (va : BitVec 6) (vb : BitVec 6) (k : BitVec 3)
  /-- R189. Bitwise XOR of elements. -/
  | vxor (vd : BitVec 6) (va : BitVec 6) (vb : BitVec 6) (k : BitVec 3)
  /-- R189. Shifts elements left modulo the width. -/
  | vsll (vd : BitVec 6) (va : BitVec 6) (vb : BitVec 6) (k : BitVec 3)
  /-- R189. Shifts elements right logically. -/
  | vsrl (vd : BitVec 6) (va : BitVec 6) (vb : BitVec 6) (k : BitVec 3)
  /-- R189. Shifts elements right arithmetically. -/
  | vsra (vd : BitVec 6) (va : BitVec 6) (vb : BitVec 6) (k : BitVec 3)
  /-- R190. Adds with signed saturation. -/
  | vsadd (vd : BitVec 6) (va : BitVec 6) (vb : BitVec 6) (k : BitVec 3)
  /-- R190. Subtracts with signed saturation. -/
  | vssub (vd : BitVec 6) (va : BitVec 6) (vb : BitVec 6) (k : BitVec 3)
  /-- R190. Adds with natural saturation. -/
  | vsaddn (vd : BitVec 6) (va : BitVec 6) (vb : BitVec 6) (k : BitVec 3)
  /-- R190. Subtracts with natural saturation. -/
  | vssubn (vd : BitVec 6) (va : BitVec 6) (vb : BitVec 6) (k : BitVec 3)
  /-- R191. Narrows double-width elements with a rounded shift and saturation. -/
  | vnclip (vd : BitVec 6) (va : BitVec 6) (vb : BitVec 6) (k : BitVec 3)
  /-- R192. Adds elements exactly into a double-width destination. -/
  | vwadd (vd : BitVec 6) (va : BitVec 6) (vb : BitVec 6) (k : BitVec 3)
  /-- R192. Multiplies elements exactly into a double-width destination. -/
  | vwmul (vd : BitVec 6) (va : BitVec 6) (vb : BitVec 6) (k : BitVec 3)
  /-- R189. Multiplies and accumulates into the destination with wraparound. -/
  | vmacc (vd : BitVec 6) (va : BitVec 6) (vb : BitVec 6) (k : BitVec 3)
  /-- R189. Writes the low bits of element products. -/
  | vmul (vd : BitVec 6) (va : BitVec 6) (vb : BitVec 6) (k : BitVec 3)
  /-- R189. Writes the high bits of signed element products. -/
  | vmulh (vd : BitVec 6) (va : BitVec 6) (vb : BitVec 6) (k : BitVec 3)
  /-- R189. Writes the high bits of natural element products. -/
  | vmulhn (vd : BitVec 6) (va : BitVec 6) (vb : BitVec 6) (k : BitVec 3)
  /-- R193. Signed element division. -/
  | vdiv (vd : BitVec 6) (va : BitVec 6) (vb : BitVec 6) (k : BitVec 3)
  /-- R193. Natural element division. -/
  | vdivn (vd : BitVec 6) (va : BitVec 6) (vb : BitVec 6) (k : BitVec 3)
  /-- R193. Signed element remainder. -/
  | vrem (vd : BitVec 6) (va : BitVec 6) (vb : BitVec 6) (k : BitVec 3)
  /-- R193. Natural element remainder. -/
  | vremn (vd : BitVec 6) (va : BitVec 6) (vb : BitVec 6) (k : BitVec 3)
  /-- R169. Compares signed integer elements into a mask register. -/
  | vcmp (cond : BitVec 3) (kd : BitVec 3) (va : BitVec 6) (vb : BitVec 6) (k : BitVec 3)
  /-- R169. Compares natural integer elements into a mask register. -/
  | vcmpn (cond : BitVec 3) (kd : BitVec 3) (va : BitVec 6) (vb : BitVec 6) (k : BitVec 3)
  /-- R169. Compares floating-point elements into a mask register. -/
  | vfcmp (cond : BitVec 3) (kd : BitVec 3) (va : BitVec 6) (vb : BitVec 6) (k : BitVec 3)
  /-- R170. ANDs two mask registers. -/
  | kand (kd : BitVec 3) (ka : BitVec 3) (kb : BitVec 3)
  /-- R170. ORs two mask registers. -/
  | kor (kd : BitVec 3) (ka : BitVec 3) (kb : BitVec 3)
  /-- R170. XORs two mask registers. -/
  | kxor (kd : BitVec 3) (ka : BitVec 3) (kb : BitVec 3)
  /-- R170. ANDs a mask with the complement of another. -/
  | kandn (kd : BitVec 3) (ka : BitVec 3) (kb : BitVec 3)
  /-- R170. Complements a mask register. -/
  | knot (kd : BitVec 3) (ka : BitVec 3)
  /-- R170. Copies a mask register. -/
  | kmov (kd : BitVec 3) (ka : BitVec 3)
  /-- R171. Counts the set mask bits below vl into a scalar register, resynchronising. -/
  | kpopc (sd : BitVec 5) (ka : BitVec 3)
  /-- R171. Returns the index of the first set mask bit below vl, resynchronising. -/
  | kfirst (sd : BitVec 5) (ka : BitVec 3)
  /-- R174. Copies active elements. -/
  | vmv (vd : BitVec 6) (va : BitVec 6) (k : BitVec 3)
  /-- R175. Slides elements up by a scalar amount. -/
  | vslideup (vd : BitVec 6) (va : BitVec 6) (sb : BitVec 5) (k : BitVec 3)
  /-- R175. Slides elements down by a scalar amount. -/
  | vslidedn (vd : BitVec 6) (va : BitVec 6) (sb : BitVec 5) (k : BitVec 3)
  /-- R175. Slides elements up by one, inserting a scalar at element 0. -/
  | vslide1up (vd : BitVec 6) (va : BitVec 6) (sb : BitVec 5) (k : BitVec 3)
  /-- R175. Slides elements down by one, inserting a scalar at the last element. -/
  | vslide1dn (vd : BitVec 6) (va : BitVec 6) (sb : BitVec 5) (k : BitVec 3)
  /-- R176. Gathers elements of va at indices from vb. -/
  | vgather (vd : BitVec 6) (va : BitVec 6) (vb : BitVec 6) (k : BitVec 3)
  /-- R177. Packs the selected elements to the front of vd. -/
  | vcompress (vd : BitVec 6) (va : BitVec 6) (k : BitVec 3)
  /-- R177. Spreads consecutive elements into the selected positions. -/
  | vexpand (vd : BitVec 6) (va : BitVec 6) (k : BitVec 3)
  /-- R174. Selects va or vb per element by the mask. -/
  | vmerge (vd : BitVec 6) (va : BitVec 6) (vb : BitVec 6) (k : BitVec 3)
  /-- R178. Writes each element's index. -/
  | vid (vd : BitVec 6) (k : BitVec 3)
  /-- R178. Writes the count of set mask bits below each element. -/
  | viota (vd : BitVec 6) (ka : BitVec 3) (k : BitVec 3)
  /-- R179. Interleaves two vectors. -/
  | vzip (vd : BitVec 6) (va : BitVec 6) (vb : BitVec 6)
  /-- R179. Separates even and odd elements. -/
  | vunzip (vd : BitVec 6) (va : BitVec 6)
  /-- R179. Transposes the tile view. -/
  | vtrn (vd : BitVec 6) (va : BitVec 6)
  /-- R181. Broadcasts a scalar into active elements. -/
  | vbcast (vd : BitVec 6) (sb : BitVec 5) (k : BitVec 3)
  /-- R182. Moves one element to a scalar register, resynchronising. -/
  | vmvs (sd : BitVec 5) (va : BitVec 6) (sb : BitVec 5)
  /-- R183. Inserts a scalar into one element. -/
  | vins (vd : BitVec 6) (sa : BitVec 5) (sb : BitVec 5)
  /-- R194. Floating-point element addition. -/
  | vfadd (vd : BitVec 6) (va : BitVec 6) (vb : BitVec 6) (k : BitVec 3)
  /-- R194. Floating-point element subtraction. -/
  | vfsub (vd : BitVec 6) (va : BitVec 6) (vb : BitVec 6) (k : BitVec 3)
  /-- R194. Floating-point element multiplication. -/
  | vfmul (vd : BitVec 6) (va : BitVec 6) (vb : BitVec 6) (k : BitVec 3)
  /-- R194. Floating-point element division. -/
  | vfdiv (vd : BitVec 6) (va : BitVec 6) (vb : BitVec 6) (k : BitVec 3)
  /-- R194. Floating-point element square root. -/
  | vfsqrt (vd : BitVec 6) (va : BitVec 6) (k : BitVec 3)
  /-- R194. Floating-point minimumNumber of elements. -/
  | vfmin (vd : BitVec 6) (va : BitVec 6) (vb : BitVec 6) (k : BitVec 3)
  /-- R194. Floating-point maximumNumber of elements. -/
  | vfmax (vd : BitVec 6) (va : BitVec 6) (vb : BitVec 6) (k : BitVec 3)
  /-- R194. Replaces each element's sign with that of vb. -/
  | vfsgnj (vd : BitVec 6) (va : BitVec 6) (vb : BitVec 6) (k : BitVec 3)
  /-- R196. Fused multiply-add into vd. -/
  | vfmadd (vd : BitVec 6) (va : BitVec 6) (vb : BitVec 6) (k : BitVec 3)
  /-- R196. Fused multiply-subtract into vd. -/
  | vfmsub (vd : BitVec 6) (va : BitVec 6) (vb : BitVec 6) (k : BitVec 3)
  /-- R196. Negated fused multiply-add into vd. -/
  | vfnmadd (vd : BitVec 6) (va : BitVec 6) (vb : BitVec 6) (k : BitVec 3)
  /-- R196. Negated fused multiply-subtract into vd. -/
  | vfnmsub (vd : BitVec 6) (va : BitVec 6) (vb : BitVec 6) (k : BitVec 3)
  /-- R197. Multiplies floating elements exactly into the double-width type. -/
  | vfwmul (vd : BitVec 6) (va : BitVec 6) (vb : BitVec 6) (k : BitVec 3)
  /-- R197. Multiply-accumulates floating elements into the double-width type. -/
  | vfwmacc (vd : BitVec 6) (va : BitVec 6) (vb : BitVec 6) (k : BitVec 3)
  /-- R194. Clears the sign bit of floating elements. -/
  | vfabs (vd : BitVec 6) (va : BitVec 6) (k : BitVec 3)
  /-- R194. Inverts the sign bit of floating elements. -/
  | vfneg (vd : BitVec 6) (va : BitVec 6) (k : BitVec 3)
  /-- R194. Writes the class mask of each floating element. -/
  | vfclass (vd : BitVec 6) (va : BitVec 6) (k : BitVec 3)
  /-- R194. Correctly rounded reciprocal of elements. -/
  | vfrec (vd : BitVec 6) (va : BitVec 6) (k : BitVec 3)
  /-- R194. Correctly rounded reciprocal square root of elements. -/
  | vfrsqrt (vd : BitVec 6) (va : BitVec 6) (k : BitVec 3)
  /-- R198. Converts elements to a destination type, rounding by rm. -/
  | vfcvt (vd : BitVec 6) (va : BitVec 6) (dt : BitVec 5) (k : BitVec 3)
  /-- R198. Converts elements to a destination type, rounding toward zero. -/
  | vfcvtRtz (vd : BitVec 6) (va : BitVec 6) (dt : BitVec 5) (k : BitVec 3)
  /-- R199. Sine of elements in radians. -/
  | vfsin (vd : BitVec 6) (va : BitVec 6) (k : BitVec 3)
  /-- R199. Cosine of elements in radians. -/
  | vfcos (vd : BitVec 6) (va : BitVec 6) (k : BitVec 3)
  /-- R199. Sine of elements in turns. -/
  | vfsint (vd : BitVec 6) (va : BitVec 6) (k : BitVec 3)
  /-- R199. Cosine of elements in turns. -/
  | vfcost (vd : BitVec 6) (va : BitVec 6) (k : BitVec 3)
  /-- R199. Base-2 exponential of elements. -/
  | vfexp2 (vd : BitVec 6) (va : BitVec 6) (k : BitVec 3)
  /-- R199. Base-2 logarithm of elements. -/
  | vflog2 (vd : BitVec 6) (va : BitVec 6) (k : BitVec 3)
  /-- R199. Angle of the point (vb, va) in radians. -/
  | vfatan2 (vd : BitVec 6) (va : BitVec 6) (vb : BitVec 6) (k : BitVec 3)
  /-- R199. Hyperbolic tangent of elements. -/
  | vftanh (vd : BitVec 6) (va : BitVec 6) (k : BitVec 3)
  /-- R202. Complex element multiplication. -/
  | vcmul (vd : BitVec 6) (va : BitVec 6) (vb : BitVec 6) (k : BitVec 3)
  /-- R202. Complex multiply-accumulate into vd. -/
  | vcmac (vd : BitVec 6) (va : BitVec 6) (vb : BitVec 6) (k : BitVec 3)
  /-- R202. Complex multiply by the conjugate and accumulate into vd. -/
  | vcmacj (vd : BitVec 6) (va : BitVec 6) (vb : BitVec 6) (k : BitVec 3)
  /-- R202. Complex conjugate of elements. -/
  | vcconj (vd : BitVec 6) (va : BitVec 6) (k : BitVec 3)
  /-- R202. Squared magnitude of complex elements. -/
  | vcabs2 (vd : BitVec 6) (va : BitVec 6) (k : BitVec 3)
  /-- R203. Rotates complex elements by a phase given in turns. -/
  | vcrot (vd : BitVec 6) (va : BitVec 6) (vb : BitVec 6) (k : BitVec 3)
  /-- R205. Radix-2 butterflies over each row of the tile view. -/
  | vbfly (vd : BitVec 6) (va : BitVec 6) (vb : BitVec 6) (k : BitVec 3)
  /-- R206. Radix-4 butterflies over each row of the tile view. -/
  | vbfly4 (vd : BitVec 6) (va : BitVec 6) (vb : BitVec 6) (k : BitVec 3)
  /-- R208. Applies one Gauss–Jordan step to each tile-view matrix. -/
  | vtgj (vd : BitVec 6) (va : BitVec 6) (sb : BitVec 5) (k : BitVec 3)
  /-- R209. Applies one Cholesky step to each tile-view matrix. -/
  | vtchol (vd : BitVec 6) (va : BitVec 6) (sb : BitVec 5) (k : BitVec 3)
  /-- R210. Multiplies tile-view matrices. -/
  | vtmul (vd : BitVec 6) (va : BitVec 6) (vb : BitVec 6) (k : BitVec 3)
  /-- R210. Forms the Gram matrix of each tile-view matrix. -/
  | vtherm (vd : BitVec 6) (va : BitVec 6) (k : BitVec 3)
  /-- R213. Integer sum reduction into a scalar register. -/
  | vredsum (sd : BitVec 5) (va : BitVec 6) (sb : BitVec 5) (k : BitVec 3)
  /-- R213. Integer minimum reduction into a scalar register. -/
  | vredmin (sd : BitVec 5) (va : BitVec 6) (sb : BitVec 5) (k : BitVec 3)
  /-- R213. Integer maximum reduction into a scalar register. -/
  | vredmax (sd : BitVec 5) (va : BitVec 6) (sb : BitVec 5) (k : BitVec 3)
  /-- R213. Floating sum reduction over the fixed pairwise tree. -/
  | vfredsum (sd : BitVec 5) (va : BitVec 6) (sb : BitVec 5) (k : BitVec 3)
  /-- R213. Floating minimum reduction over the fixed tree. -/
  | vfredmin (sd : BitVec 5) (va : BitVec 6) (sb : BitVec 5) (k : BitVec 3)
  /-- R213. Floating maximum reduction over the fixed tree. -/
  | vfredmax (sd : BitVec 5) (va : BitVec 6) (sb : BitVec 5) (k : BitVec 3)
  /-- R213. Complex sum reduction per component. -/
  | vcredsum (sd : BitVec 5) (va : BitVec 6) (sb : BitVec 5) (k : BitVec 3)
  /-- R213. Widening integer sum reduction. -/
  | vredsumw (sd : BitVec 5) (va : BitVec 6) (sb : BitVec 5) (k : BitVec 3)
  /-- R133. Scalar floating-point addition. -/
  | fadd (sd : BitVec 5) (sa : BitVec 5) (sb : BitVec 5) (pr : BitVec 1)
  /-- R133. Scalar floating-point subtraction. -/
  | fsub (sd : BitVec 5) (sa : BitVec 5) (sb : BitVec 5) (pr : BitVec 1)
  /-- R133. Scalar floating-point multiplication. -/
  | fmul (sd : BitVec 5) (sa : BitVec 5) (sb : BitVec 5) (pr : BitVec 1)
  /-- R133. Scalar floating-point division. -/
  | fdiv (sd : BitVec 5) (sa : BitVec 5) (sb : BitVec 5) (pr : BitVec 1)
  /-- R133. Scalar floating-point square root. -/
  | fsqrt (sd : BitVec 5) (sa : BitVec 5) (pr : BitVec 1)
  /-- R133. Scalar fused multiply-add. -/
  | fmadd (sd : BitVec 5) (sa : BitVec 5) (sb : BitVec 5) (sc : BitVec 5) (pr : BitVec 1)
  /-- R133. Scalar minimumNumber. -/
  | fmin (sd : BitVec 5) (sa : BitVec 5) (sb : BitVec 5) (pr : BitVec 1)
  /-- R133. Scalar maximumNumber. -/
  | fmax (sd : BitVec 5) (sa : BitVec 5) (sb : BitVec 5) (pr : BitVec 1)
  /-- R233. Issues outer-product steps fed from operand windows into the accumulator tile. -/
  | mop (wa : BitVec 4) (wb : BitVec 4) (ws : BitVec 4) (fmt : BitVec 4) (ks : BitVec 8)
  /-- R234. Accumulates outer-product steps taken from vector registers. -/
  | mopv (va : BitVec 6) (vb : BitVec 6) (fmt : BitVec 4) (ks : BitVec 2)
  /-- R237. Loads the whole tile from the own scratchpad with conversion. -/
  | mld (sa : BitVec 5) (sb : BitVec 5) (fmt : BitVec 4)
  /-- R238. Stores the whole tile to the own scratchpad with conversion. -/
  | mst (sa : BitVec 5) (sb : BitVec 5) (fmt : BitVec 4)
  /-- R239. Converts every accumulator element in place with a scale. -/
  | mcvt (sa : BitVec 5) (fmt : BitVec 4)
  /-- R125. Writes the bundle address plus the sign-extended imm19 times 2^13. -/
  | adpc (sd : BitVec 5) (imm : BitVec 19)
  /-- R134. Scalar floating-point compare writing 1 or 0. -/
  | fcmp (sd : BitVec 5) (sa : BitVec 5) (sb : BitVec 5) (cond : BitVec 5) (pr : BitVec 1)
  /-- R134. Converts a scalar between integer and floating types. -/
  | fcvt (sd : BitVec 5) (sa : BitVec 5) (st : BitVec 5) (dt : BitVec 5)
  /-- R135. Writes the class mask of a scalar float. -/
  | fclass (sd : BitVec 5) (sa : BitVec 5) (pr : BitVec 1)
  /-- R134. Copies a scalar float without arithmetic. -/
  | fmv (sd : BitVec 5) (sa : BitVec 5) (pr : BitVec 1)
  /-- R66. Does nothing and changes no state. -/
  | nop
  /-- R142. Returns from a handler to xpc, reissuing the restart record when tstat.imp is 1; under grace it ends the job instead. -/
  | tret
  /-- R141. Waits for retirement, then halts the hart under a debug session or ends the job HALTED. -/
  | halt
  /-- R143. Waits until the hart's earlier stores are performed, invalidates the instruction cache and refetches. -/
  | isync
  /-- R130. Pops the return stack and jumps there. -/
  | ret
  /-- R292. Waits until every earlier access is performed and its faults have been taken. -/
  | lsync
  /-- R302. Flushes the hart's vamo combining entries at every bank it used and waits for the acknowledgements. -/
  | vfence
  /-- R305. Makes earlier queue operations accepted before later ones. -/
  | qfence
  /-- R351. Saves the hart and returns its record to its class, letting the core acquire again. -/
  | yieldJob
  /-- R219. Waits for accesses to v48–v63 to finish, then enters matrix mode. -/
  | menter
  /-- R220. Waits for earlier matrix instructions to retire, then leaves matrix mode. -/
  | mexit
  /-- R221. Clears every accumulator element. -/
  | mzero
  /-- R473. Brings the device up: management core, training, service cores, tables, ready. -/
  | powerOn
  /-- R473. Repeats bring-up and clears the service SRAM and journals. -/
  | deviceReset
  /-- R161. A convoy begins to execute once the previous convoy has drained. -/
  | convoyBegin
  /-- R92. A vector or matrix instruction retires and merges its flags. -/
  | vectorRetire
  /-- R115. After earlier vector and matrix instructions retire, the access is performed and vsync counts it. -/
  | resynchronisingAccess
  /-- R226. A queued mop begins its steps once its windows hold the bytes it needs. -/
  | mopBegin
  /-- R228. A mop retires, popping each window it read by its rounded consumption. -/
  | mopRetire
  /-- R277. An element group of vldw begins once every byte it reads has arrived. -/
  | vldwGroup
  /-- R267. A refusal or data error of a posted scalar store returns as an imprecise fault. -/
  | storeRefusal
  /-- R230. A write reaching a bank inside a guarded window's region is suppressed and trapped. -/
  | ringGuard
  /-- R308. The hart stops at the next bundle boundary and cuts its queued work. -/
  | impreciseTrap
  /-- R315. Reissues the restart record's entries and restores the control registers and pc. -/
  | resume
  /-- R336. A core binds a record to a free lane block, translating its save area and setting the start registers. -/
  | jobBind
  /-- R341. A later job is stopped, saved and returned to its class for a waiting real-time record. -/
  | preemption
  /-- R360. A running job of an abandoned tree stops under the drop policy or enters its grace handler. -/
  | expiry
  /-- R430. A tree's deadline timer fires at the dispatcher. -/
  | treeDeadline
  /-- R332. Creates a slot's root job from the slot launch table at its lead time. -/
  | slotCreation
  /-- R363. The programmed reclaim time is reached and reclaim begins. -/
  | reclaimAtTimer
  /-- R360. Grace runs out and the job stops as under the drop policy. -/
  | graceEnd
  /-- R433. A timed wait's limit is reached and the wait returns 1. -/
  | timedWaitLimit
  /-- R433. A waiting instruction's condition becomes true and it returns 0 and acquires. -/
  | waitConditionMet
  /-- R380. Device time at the spool reaches an AT command's value and the list goes on. -/
  | atTimer
  /-- R397. At a message's launch time the port transmits it and advances head. -/
  | fhoutLaunch
  /-- R321. A reclaim drain not finished within 2,048 cycles fences the core. -/
  | reclaimDrainTimeout
  /-- R322. Stops every hart of a core, ends its jobs FENCED and refuses traffic to it. -/
  | fencing
  /-- R264. An uncorrectable error found in a read is reported or fences the core. -/
  | uncorrectableError
  /-- R333. The dispatcher places a record on a core of its mask. -/
  | dispatcherPlacement
  /-- R337. A victim core answers an idle core's steal request with a record or a refusal. -/
  | stealRequest
  /-- R337. A granted record arrives at the thief and binds or enters its store. -/
  | stealGrant
  /-- R353. A deadline request reaches the dispatcher and re-keys the tree's records. -/
  | setdlRequest
  /-- R344. The dispatcher reserves a block on every core of the head gang request. -/
  | gangReservation
  /-- R345. Once every core holds its reservation, each member binds with its rank. -/
  | gangStart
  /-- R362. Once no lender hart is bound, the core is cleared and passes to the borrower. -/
  | lendComplete
  /-- R365. A saved group's core image is restored on a free core and its jobs resume. -/
  | savedGroupRestore
  /-- R301. A vamo element arrives at its bank's combining buffer. -/
  | vamoArrival
  /-- R301. A combining entry retires 4,096 cycles after allocation. -/
  | combiningTimeout
  /-- R403. A walker walks the tenant's page table for a group TLB miss. -/
  | pageWalk
  /-- R412. An ATS completion fills the TLB or leads to a page request or fault. -/
  | atsCompletion
  /-- R413. The host's PRG Response resumes the hart or ends the job. -/
  | prgResponse
  /-- R410. Drops the overlapping TLB entries of a tenant's range. -/
  | invalidateRequest
  /-- R410. Once every use of the dropped translations has finished, completion is reported. -/
  | invalidateCompletion
  /-- R384. A queued command list starts on its spool. -/
  | listStart
  /-- R381. Once its window can take it, a chunk is reserved, read and pushed. -/
  | spoolChunk
  /-- R370. Pushed bytes land in a window, updating rows, arrival mask and tail. -/
  | chunkArrival
  /-- R379. Sets a dimension of the list's source. -/
  | src
  /-- R379. Sets the list's destination site or receiver rectangle. -/
  | dst
  /-- R381. Moves the whole source to the single destination. -/
  | push
  /-- R382. Offers the source to every enabled receiver and multicasts it to those that accept. -/
  | mcast
  /-- R379. Replaces the outer dimensions with runs at indexed offsets. -/
  | gather
  /-- R380. Sets conversion of elements in flight. -/
  | cvt
  /-- R380. Repeats the list body, advancing the source base. -/
  | clistLoop
  /-- R380. Waits until a dependence counter is DONE, ERROR or DROPPED. -/
  | waitd
  /-- R380. Waits until device time reaches its value. -/
  | atTime
  /-- R380. After earlier chunks arrive, decrements a dependence counter. -/
  | notifyDec
  /-- R380. After earlier chunks arrive, reads a job record and creates a job. -/
  | notifyPost
  /-- R380. After earlier chunks arrive, writes a DONE record and goes on. -/
  | recRecord
  /-- R380. After earlier chunks arrive, writes the list's completion record and ends it. -/
  | endList
  /-- R389. An engine begins the next command of its queue. -/
  | codingCommandStart
  /-- R392. An engine writes its completion record and then decrements its counter. -/
  | codingCommandEnd
  /-- R393. A message is reserved and appended at a msg or fhout window's tail. -/
  | messageAppend
  /-- R395. A posted message waiting for space is retried. -/
  | msgSendvRetry
  /-- R396. A port steers a frame into its fhin window as one record or drops it. -/
  | ingressFrame
  /-- R485. The time unit processes a PTP message on its selected port. -/
  | ptpFrame
  /-- R485. The service complex handles an ESMC message. -/
  | esmcMessage
  /-- R427. At the first lock, device time steps once to PTP time. -/
  | timeStep
  /-- R428. Device time changes between locked, holdover and free-running. -/
  | lockStateChange
  /-- R22. A flit that fails its CRC is replayed from the sender's buffer. -/
  | flitReplay
  /-- R22. A link retrains, possibly to half width, and the change is logged. -/
  | linkRetrain
  /-- R480. The tether goes down and accesses naming the twin fault. -/
  | tetherDown
  /-- R438. An arrival reaches the barrier unit and applies its contribution and count. -/
  | barrierArrival
  /-- R443. A waiter without a watch rereads the ticket word every 64 cycles. -/
  | ticketPoll
  /-- R329. A write of a launch queue's tail rings the queue. -/
  | launchDoorbell
  /-- R475. A host write of the command tail rings the function's command queue. -/
  | commandDoorbell
  /-- R472. An 8-byte load of the claim register returns and advances the sequence. -/
  | telemetryClaim
  /-- R470. A store of the power limit register takes a value in 180–360 W. -/
  | powerLimitRegisterWrite
  /-- R483. A change of a port's mode retrains it and drops frames in flight. -/
  | portModeWrite
  /-- R366. A tenant-0 store to a window descriptor, ignoring reserved mode and lsize values. -/
  | windowDescriptorStore
  /-- R8. A write to a memory-mapped register without behaviour of its own. -/
  | registerWrite
  /-- R328. Creates a launch queue with tenant, ring, size, mask and share. -/
  | queueCreate
  /-- R455. Destroys a launch queue. -/
  | queueDestroy
  /-- R455. Creates a tenant with its weight, PASID and cores. -/
  | tenantCreate
  /-- R455. Destroys a tenant after resetting its partitions. -/
  | tenantDestroy
  /-- R455. Attaches a page table root to a tenant. -/
  | ptAttach
  /-- R362. Starts lending a core to a borrowing tenant. -/
  | lend
  /-- R363. Stops, saves and clears a lent core and returns it to its owner. -/
  | reclaim
  /-- R455. Sets a core's programmed reclaim time. -/
  | reclaimAt
  /-- R424. Writes a slot launch table entry. -/
  | slotSet
  /-- R419. Writes a bridle entry and clears its counters. -/
  | bridleSet
  /-- R456. Creates a new tree from a job record. -/
  | launch
  /-- R456. Queues a gang request for a new tree. -/
  | gangLaunch
  /-- R456. Copies bytes through a spool and writes a list completion record. -/
  | copy
  /-- R456. Applies a dep.dec step to a counter. -/
  | signal
  /-- R457. Sets the tenants permitted to use a coding engine. -/
  | codingCfg
  /-- R472. Copies complete telemetry entries to a buffer. -/
  | telemetry
  /-- R466. Writes the signed attestation report or the public key. -/
  | attest
  /-- R458. Resets a partition, ending its jobs RESET and unfencing its cores. -/
  | partReset
  /-- R455. Opens or closes a debug session on a partition. -/
  | debugSession
  /-- R456. Halts a hart under a debug session. -/
  | debugHalt
  /-- R323. Returns a halted hart's state in the save-area layout. -/
  | debugRead
  /-- R456. Continues a halted hart from its saved state. -/
  | debugResume
  /-- R456. Sets a key table entry and scrubs the key from memory. -/
  | keySet
  /-- R455. Allocates a range of counters or barriers to a tenant. -/
  | alloc
  /-- R321. The service complex fences a core by command. -/
  | fenceCmd
  /-- R470. Sets the module power limit and returns the previous one. -/
  | powerLimit
  /-- R461. Reports whether a seq never started, committed or was interrupted. -/
  | queryResult
  /-- R464. A service core handles a trap sent to the service complex. -/
  | serviceTrap
  /-- R465. svc code 0: no service, s1 := 0. -/
  | svcNone
  /-- R465. svc code 1: posts a notice to the tenant's function. -/
  | svcNotice
  /-- R465. svc code 2: writes a telemetry entry of kind 0x0100. -/
  | svcTelemetry
  /-- R465. svc code 3: returns the time lock state in s1. -/
  | svcTimeLock
  /-- R458. A command's deferred work ends and its result is written. -/
  | deferredCompletion
  /-- R449. A firmware timer event is taken by a service core. -/
  | firmwareTimer
  /-- R462. An event unfinished after 2 ms resets all service cores. -/
  | watchdogExpiry
  /-- R462. The service cores have restarted from ROM and ballast stops. -/
  | serviceRestart
  /-- R463. Ballast serves one command of a host queue in its round-robin turn. -/
  | ballastTurn
  /-- R467. A fault or illegal encoding resets the management core to its ROM entry. -/
  | mgmtCoreReset
  /-- R470. A sensor at 110.0 °C or more begins a trip hold. -/
  | tripHoldBegin
  /-- R470. The trip hold ends once every sensor reads below 100.0 °C. -/
  | tripHoldEnd
  /-- R470. At the end of each 1 ms the power step rises, falls or stays. -/
  | powerStep
  /-- R480. The tether link comes back up, so accesses, chunks and messages naming the twin are carried again, and the link-state change is logged. -/
  | tetherUp
  /-- R413. The host re-enables PRI, so the controller again sends page requests instead of ending each host-page fault with FAULT. -/
  | priReenable
  /-- R423. At a slot's start time T(n), a root not yet placed is skipped and counted in its slot launch entry. -/
  | unplacedSlotSkip
  deriving DecidableEq, Repr

end Sys2Proof
end

