-- ==== Sys2Proof/WellFormed.lean ====
section
/-! DEFINITION. Which field values an instruction may carry: check 2 of R63 as far as one word
decides it.  (What depends on the hart, such as the register run of `mopv`, and on pairing, such
as `svc` in a paired bundle, is checked where the word issues.) -/

namespace Sys2Proof

/-- R53: the element type codes that are not reserved. -/
def typeCodeKnown (t : BitVec 5) : Bool := t.toNat ≤ 0x16 && t.toNat != 0x0F

/-- R134: the type codes `fcvt` accepts: i32, i64, n32, n64, f64, f32, f16 and bf16. -/
def fcvtCode (t : BitVec 5) : Bool := [2, 3, 6, 7, 8, 9, 10, 11].contains t.toNat

/-- R111: the control register numbers of the table. -/
def cregKnown (n : BitVec 12) : Bool :=
  [0x000, 0x001, 0x002, 0x003, 0x004, 0x005, 0x008, 0x010, 0x011, 0x020, 0x021, 0x022, 0x023,
   0x024, 0x028, 0x029, 0x030, 0x031, 0x032, 0x033, 0x034, 0x035, 0x036, 0x040, 0x041,
   0x042].contains n.toNat

/-- R111, R112: the control registers a program may write (access RW). -/
def cregWritable (n : BitVec 12) : Bool :=
  [0x000, 0x001, 0x002, 0x003, 0x004, 0x005, 0x008, 0x029, 0x030, 0x031, 0x033, 0x034, 0x035,
   0x036, 0x040].contains n.toNat

/-- R56, R232: the block-scaled operand formats x4, x8a and x8b. -/
def blockFmt (f : BitVec 4) : Bool := f == 1 || f == 4 || f == 5


/-- Check 2 of R63 for an instruction by itself: reserved codes and field values.
Events and commands have no words and no reserved values. -/
def Instr.wf (i : Instr) : Bool :=
  match i with
  | .mfc _ creg => cregKnown creg
  | .mtc _ _ creg => cregWritable creg
  | .setc _ _ creg => cregWritable creg
  | .clrc _ _ creg => cregWritable creg
  | .ext _ _ _ width => width != 3
  | .loop sa _ => sa != 0
  | .lds _ _ sz sx ord _ => (sz != 3 || sx == 0) && ord.toNat <= 5
  | .sts _ _ _ ord _ => ord.toNat <= 5
  | .fence kind scope => kind != 0 && (1 <= scope.toNat && scope.toNat <= 5)
  | .vldw _ wn _ _ _ => wn.toNat < 16
  | .vstc _ _ _ k _ => k != 0
  | .setvl _ _ typ _ => typeCodeKnown typ
  | .setvli _ typ _ _ => typeCodeKnown typ
  | .barArriveFsum2 _ _ sb => sb.toNat % 2 == 0 && sb != 0
  | .pmc _ n => n.toNat < 8 || 16 <= n.toNat
  | .vcmp cond _ _ _ _ => cond.toNat <= 5
  | .vcmpn cond _ _ _ _ => cond.toNat <= 5
  | .vfcvt _ _ dt _ => typeCodeKnown dt
  | .vfcvtRtz _ _ dt _ => typeCodeKnown dt
  | .fcmp _ _ _ cond _ => cond.toNat <= 7
  | .fcvt _ _ st dt => fcvtCode st && fcvtCode dt
  | .mop wa wb ws fmt ks => fmt.toNat <= 10 && wa != wb && (if blockFmt fmt then (ks.toNat + 1) % 32 == 0 else ws == 0)
  | .mopv _ _ fmt _ => fmt.toNat <= 10 && !blockFmt fmt
  | .mld _ _ fmt => fmt.toNat <= 12
  | .mst _ _ fmt => fmt.toNat <= 12
  | .mcvt _ fmt => fmt == 11 || fmt == 12
  | _ => true

/-- The instruction passes check 2 of R63 on its own. -/
abbrev WellFormed (i : Instr) : Prop := i.wf = true

end Sys2Proof
end

