-- ==== Sys2Proof/Decode.lean ====
section
/-! DEFINITION. The decoder of a 32-bit instruction word, and after it the encoder. -/

namespace Sys2Proof

/-- Why check 2 of R63 refuses a word. -/
inductive DecodeError where
  /-- a major opcode the maps of R58 and R60 leave reserved -/
  | reservedMajor
  /-- a function, condition, form or operation value not listed for the major -/
  | reservedFunction
  /-- an unused or zero-marked field that is not 0 (R49) -/
  | reservedField
  /-- a type, kind, scope, format or register code the instruction does not allow -/
  | reservedCode
  deriving DecidableEq, Repr

/-- The `n`-bit field of a word whose lowest bit is `lo`. -/
def fld (w : BitVec 32) (lo n : Nat) : BitVec n := BitVec.ofNat n (w.toNat / 2 ^ lo)

/-- An instruction whose fields stand, or the refusal of a reserved code. -/
def accept (i : Instr) : Except DecodeError Instr :=
  if i.wf then .ok i else .error .reservedCode


/-- Major 0x00 (R58, R60). -/
def decSys (w : BitVec 32) : Except DecodeError Instr :=
  match (fld w 19 5).toNat with
  | 0 => if fld w 0 19 == 0 then accept (.nop) else .error .reservedField
  | 1 => accept (.svc (fld w 0 19))
  | 2 => accept (.brk (fld w 0 19))
  | 3 => if fld w 0 19 == 0 then accept (.tret) else .error .reservedField
  | 4 => if fld w 0 19 == 0 then accept (.halt) else .error .reservedField
  | 5 => if fld w 0 19 == 0 then accept (.isync) else .error .reservedField
  | _ => .error .reservedFunction

/-- Major 0x01 (R58, R60). -/
def decCreg (w : BitVec 32) : Except DecodeError Instr :=
  match (fld w 12 2).toNat with
  | 0 => if fld w 14 5 == 0 then accept (.mfc (fld w 19 5) (fld w 0 12)) else .error .reservedField
  | 1 => accept (.mtc (fld w 19 5) (fld w 14 5) (fld w 0 12))
  | 2 => accept (.setc (fld w 19 5) (fld w 14 5) (fld w 0 12))
  | 3 => accept (.clrc (fld w 19 5) (fld w 14 5) (fld w 0 12))
  | _ => .error .reservedFunction

/-- Major 0x02 (R58, R60). -/
def decAlu (w : BitVec 32) : Except DecodeError Instr :=
  match (fld w 0 9).toNat with
  | 0 => accept (.add (fld w 19 5) (fld w 14 5) (fld w 9 5))
  | 1 => accept (.sub (fld w 19 5) (fld w 14 5) (fld w 9 5))
  | 2 => accept (.and (fld w 19 5) (fld w 14 5) (fld w 9 5))
  | 3 => accept (.or (fld w 19 5) (fld w 14 5) (fld w 9 5))
  | 4 => accept (.xor (fld w 19 5) (fld w 14 5) (fld w 9 5))
  | 5 => accept (.sll (fld w 19 5) (fld w 14 5) (fld w 9 5))
  | 6 => accept (.srl (fld w 19 5) (fld w 14 5) (fld w 9 5))
  | 7 => accept (.sra (fld w 19 5) (fld w 14 5) (fld w 9 5))
  | 8 => accept (.min (fld w 19 5) (fld w 14 5) (fld w 9 5))
  | 9 => accept (.max (fld w 19 5) (fld w 14 5) (fld w 9 5))
  | 10 => accept (.minn (fld w 19 5) (fld w 14 5) (fld w 9 5))
  | 11 => accept (.maxn (fld w 19 5) (fld w 14 5) (fld w 9 5))
  | 12 => accept (.slt (fld w 19 5) (fld w 14 5) (fld w 9 5))
  | 13 => accept (.sltn (fld w 19 5) (fld w 14 5) (fld w 9 5))
  | _ => .error .reservedFunction

/-- Major 0x03 (R58, R60). -/
def decAddi (w : BitVec 32) : Except DecodeError Instr :=
  accept (.addi (fld w 19 5) (fld w 14 5) (fld w 0 14))

/-- Major 0x04 (R58, R60). -/
def decLogImm (w : BitVec 32) : Except DecodeError Instr :=
  match (fld w 12 2).toNat with
  | 0 => accept (.andi (fld w 19 5) (fld w 14 5) (fld w 0 12))
  | 1 => accept (.ori (fld w 19 5) (fld w 14 5) (fld w 0 12))
  | 2 => accept (.xori (fld w 19 5) (fld w 14 5) (fld w 0 12))
  | _ => .error .reservedFunction

/-- Major 0x05 (R58, R60). -/
def decShiftImm (w : BitVec 32) : Except DecodeError Instr :=
  match (fld w 12 2).toNat with
  | 0 => if fld w 6 6 == 0 then accept (.slli (fld w 19 5) (fld w 14 5) (fld w 0 6)) else .error .reservedField
  | 1 => if fld w 6 6 == 0 then accept (.srli (fld w 19 5) (fld w 14 5) (fld w 0 6)) else .error .reservedField
  | 2 => if fld w 6 6 == 0 then accept (.srai (fld w 19 5) (fld w 14 5) (fld w 0 6)) else .error .reservedField
  | _ => .error .reservedFunction

/-- Major 0x06 (R58, R60). -/
def decSetImm (w : BitVec 32) : Except DecodeError Instr :=
  match (fld w 13 1).toNat with
  | 0 => accept (.slti (fld w 19 5) (fld w 14 5) (fld w 0 13))
  | 1 => accept (.sltin (fld w 19 5) (fld w 14 5) (fld w 0 13))
  | _ => .error .reservedFunction

/-- Major 0x07 (R58, R60). -/
def decLui (w : BitVec 32) : Except DecodeError Instr :=
  accept (.lui (fld w 19 5) (fld w 0 19))

/-- Major 0x08 (R58, R60). -/
noncomputable def decAdpc (w : BitVec 32) : Except DecodeError Instr :=
  accept (.adpc (fld w 19 5) (fld w 0 19))

/-- Major 0x09 (R58, R60). -/
def decSitea (w : BitVec 32) : Except DecodeError Instr :=
  match (fld w 12 2).toNat with
  | 0 => if fld w 0 1 == 0 then accept (.sitea (fld w 19 5) (fld w 14 5) (fld w 11 1) (fld w 6 5) (fld w 1 5)) else .error .reservedField
  | 1 => if fld w 0 1 == 0 then accept (.siteaRel (fld w 19 5) (fld w 14 5) (fld w 11 1) (fld w 6 5) (fld w 1 5)) else .error .reservedField
  | 2 => if fld w 0 12 == 0 && fld w 14 5 == 0 then accept (.here (fld w 19 5)) else .error .reservedField
  | _ => .error .reservedFunction

/-- Major 0x0A (R58, R60). -/
def decMul (w : BitVec 32) : Except DecodeError Instr :=
  match (fld w 0 9).toNat with
  | 0 => accept (.mul (fld w 19 5) (fld w 14 5) (fld w 9 5))
  | 1 => accept (.mulh (fld w 19 5) (fld w 14 5) (fld w 9 5))
  | 2 => accept (.mulhn (fld w 19 5) (fld w 14 5) (fld w 9 5))
  | 3 => accept (.div (fld w 19 5) (fld w 14 5) (fld w 9 5))
  | 4 => accept (.divn (fld w 19 5) (fld w 14 5) (fld w 9 5))
  | 5 => accept (.rem (fld w 19 5) (fld w 14 5) (fld w 9 5))
  | 6 => accept (.remn (fld w 19 5) (fld w 14 5) (fld w 9 5))
  | _ => .error .reservedFunction

/-- Major 0x0B (R58, R60). -/
def decBits (w : BitVec 32) : Except DecodeError Instr :=
  match (fld w 0 9).toNat with
  | 0 => if fld w 9 5 == 0 then accept (.clz (fld w 19 5) (fld w 14 5)) else .error .reservedField
  | 1 => if fld w 9 5 == 0 then accept (.ctz (fld w 19 5) (fld w 14 5)) else .error .reservedField
  | 2 => if fld w 9 5 == 0 then accept (.popc (fld w 19 5) (fld w 14 5)) else .error .reservedField
  | 3 => if fld w 9 5 == 0 then accept (.bswap (fld w 19 5) (fld w 14 5)) else .error .reservedField
  | 4 => if fld w 9 2 == 0 then accept (.ext (fld w 19 5) (fld w 14 5) (fld w 13 1) (fld w 11 2)) else .error .reservedField
  | _ => .error .reservedFunction

/-- Major 0x0C (R58, R60). -/
def decBranch (w : BitVec 32) : Except DecodeError Instr :=
  match (fld w 21 3).toNat with
  | 0 => accept (.beq (fld w 16 5) (fld w 11 5) (fld w 0 11))
  | 1 => accept (.bne (fld w 16 5) (fld w 11 5) (fld w 0 11))
  | 2 => accept (.blt (fld w 16 5) (fld w 11 5) (fld w 0 11))
  | 3 => accept (.bge (fld w 16 5) (fld w 11 5) (fld w 0 11))
  | 4 => accept (.bltn (fld w 16 5) (fld w 11 5) (fld w 0 11))
  | 5 => accept (.bgen (fld w 16 5) (fld w 11 5) (fld w 0 11))
  | _ => .error .reservedFunction

/-- Major 0x0D (R58, R60). -/
def decJ (w : BitVec 32) : Except DecodeError Instr :=
  accept (.j (fld w 0 24))

/-- Major 0x0E (R58, R60). -/
def decCall (w : BitVec 32) : Except DecodeError Instr :=
  accept (.call (fld w 0 24))

/-- Major 0x0F (R58, R60). -/
def decJump (w : BitVec 32) : Except DecodeError Instr :=
  match (fld w 21 3).toNat with
  | 0 => if fld w 0 16 == 0 then accept (.jr (fld w 16 5)) else .error .reservedField
  | 1 => if fld w 0 16 == 0 then accept (.callr (fld w 16 5)) else .error .reservedField
  | 2 => if fld w 0 21 == 0 then accept (.ret) else .error .reservedField
  | 3 => if fld w 11 5 == 0 then accept (.loop (fld w 16 5) (fld w 0 11)) else .error .reservedField
  | _ => .error .reservedFunction

/-- Major 0x10 (R58, R60). -/
def decLds (w : BitVec 32) : Except DecodeError Instr :=
  accept (.lds (fld w 19 5) (fld w 14 5) (fld w 12 2) (fld w 11 1) (fld w 8 3) (fld w 0 8))

/-- Major 0x11 (R58, R60). -/
def decSts (w : BitVec 32) : Except DecodeError Instr :=
  if fld w 11 1 == 0 then accept (.sts (fld w 19 5) (fld w 14 5) (fld w 12 2) (fld w 8 3) (fld w 0 8)) else .error .reservedField

/-- Major 0x12 (R58, R60). -/
def decAmo (w : BitVec 32) : Except DecodeError Instr :=
  match (fld w 5 4).toNat with
  | 0 => accept (.amoAdd (fld w 19 5) (fld w 14 5) (fld w 9 5) (fld w 4 1) (fld w 2 2) (fld w 0 2))
  | 1 => accept (.amoAnd (fld w 19 5) (fld w 14 5) (fld w 9 5) (fld w 4 1) (fld w 2 2) (fld w 0 2))
  | 2 => accept (.amoOr (fld w 19 5) (fld w 14 5) (fld w 9 5) (fld w 4 1) (fld w 2 2) (fld w 0 2))
  | 3 => accept (.amoXor (fld w 19 5) (fld w 14 5) (fld w 9 5) (fld w 4 1) (fld w 2 2) (fld w 0 2))
  | 4 => accept (.amoMin (fld w 19 5) (fld w 14 5) (fld w 9 5) (fld w 4 1) (fld w 2 2) (fld w 0 2))
  | 5 => accept (.amoMax (fld w 19 5) (fld w 14 5) (fld w 9 5) (fld w 4 1) (fld w 2 2) (fld w 0 2))
  | 6 => accept (.amoMinn (fld w 19 5) (fld w 14 5) (fld w 9 5) (fld w 4 1) (fld w 2 2) (fld w 0 2))
  | 7 => accept (.amoMaxn (fld w 19 5) (fld w 14 5) (fld w 9 5) (fld w 4 1) (fld w 2 2) (fld w 0 2))
  | 8 => accept (.amoSwap (fld w 19 5) (fld w 14 5) (fld w 9 5) (fld w 4 1) (fld w 2 2) (fld w 0 2))
  | 9 => accept (.amoCas (fld w 19 5) (fld w 14 5) (fld w 9 5) (fld w 4 1) (fld w 2 2) (fld w 0 2))
  | 10 => accept (.amoFadd (fld w 19 5) (fld w 14 5) (fld w 9 5) (fld w 4 1) (fld w 2 2) (fld w 0 2))
  | _ => .error .reservedFunction

/-- Major 0x13 (R58, R60). -/
def decFence (w : BitVec 32) : Except DecodeError Instr :=
  match (fld w 6 2).toNat with
  | 0 => if fld w 3 1 == 0 && fld w 8 16 == 0 then accept (.fence (fld w 4 2) (fld w 0 3)) else .error .reservedField
  | 1 => if fld w 0 6 == 0 && fld w 8 16 == 0 then accept (.lsync) else .error .reservedField
  | 2 => if fld w 0 6 == 0 && fld w 8 16 == 0 then accept (.vfence) else .error .reservedField
  | 3 => if fld w 0 6 == 0 && fld w 8 16 == 0 then accept (.qfence) else .error .reservedField
  | _ => .error .reservedFunction

/-- Major 0x14 (R58, R60). -/
def decVecLoad (w : BitVec 32) : Except DecodeError Instr :=
  match (fld w 0 3).toNat with
  | 0 => accept (.vld (fld w 18 6) (fld w 13 5) (fld w 8 5) (fld w 5 3) (fld w 3 2))
  | 1 => accept (.vlds (fld w 18 6) (fld w 13 5) (fld w 8 5) (fld w 5 3) (fld w 3 2))
  | 2 => accept (.vldx (fld w 18 6) (fld w 13 5) (fld w 8 5) (fld w 5 3) (fld w 3 2))
  | 3 => accept (.vld2d (fld w 18 6) (fld w 13 5) (fld w 8 5) (fld w 5 3) (fld w 3 2))
  | 4 => accept (.vldw (fld w 18 6) (fld w 13 5) (fld w 8 5) (fld w 5 3) (fld w 3 2))
  | 5 => if fld w 4 1 == 1 then accept (.vldl (fld w 18 6) (fld w 13 5) (fld w 8 5) (fld w 5 3) (fld w 3 1)) else .error .reservedField
  | _ => .error .reservedFunction

/-- Major 0x15 (R58, R60). -/
def decVecStore (w : BitVec 32) : Except DecodeError Instr :=
  match (fld w 0 3).toNat with
  | 0 => accept (.vst (fld w 18 6) (fld w 13 5) (fld w 8 5) (fld w 5 3) (fld w 3 2))
  | 1 => accept (.vsts (fld w 18 6) (fld w 13 5) (fld w 8 5) (fld w 5 3) (fld w 3 2))
  | 2 => accept (.vstx (fld w 18 6) (fld w 13 5) (fld w 8 5) (fld w 5 3) (fld w 3 2))
  | 3 => accept (.vst2d (fld w 18 6) (fld w 13 5) (fld w 8 5) (fld w 5 3) (fld w 3 2))
  | 5 => if fld w 4 1 == 1 then accept (.vstc (fld w 18 6) (fld w 13 5) (fld w 8 5) (fld w 5 3) (fld w 3 1)) else .error .reservedField
  | _ => .error .reservedFunction

/-- Major 0x16 (R58, R60). -/
def decVamo (w : BitVec 32) : Except DecodeError Instr :=
  match (fld w 0 3).toNat with
  | 0 => if fld w 4 1 == 1 then accept (.vamoAdd (fld w 18 6) (fld w 13 5) (fld w 8 5) (fld w 5 3) (fld w 3 1)) else .error .reservedField
  | 1 => if fld w 4 1 == 1 then accept (.vamoMin (fld w 18 6) (fld w 13 5) (fld w 8 5) (fld w 5 3) (fld w 3 1)) else .error .reservedField
  | 2 => if fld w 4 1 == 1 then accept (.vamoMax (fld w 18 6) (fld w 13 5) (fld w 8 5) (fld w 5 3) (fld w 3 1)) else .error .reservedField
  | 3 => if fld w 4 1 == 1 then accept (.vamoOr (fld w 18 6) (fld w 13 5) (fld w 8 5) (fld w 5 3) (fld w 3 1)) else .error .reservedField
  | 4 => if fld w 4 1 == 1 then accept (.vamoXor (fld w 18 6) (fld w 13 5) (fld w 8 5) (fld w 5 3) (fld w 3 1)) else .error .reservedField
  | _ => .error .reservedFunction

/-- Major 0x17 (R58, R60). -/
def decSetvl (w : BitVec 32) : Except DecodeError Instr :=
  match (fld w 0 2).toNat with
  | 0 => if fld w 2 5 == 0 then accept (.setvl (fld w 19 5) (fld w 14 5) (fld w 9 5) (fld w 7 2)) else .error .reservedField
  | 1 => accept (.setvli (fld w 19 5) (fld w 14 5) (fld w 12 2) (fld w 2 10))
  | 2 => if fld w 2 7 == 0 then accept (.settile (fld w 19 5) (fld w 14 5) (fld w 9 5)) else .error .reservedField
  | _ => .error .reservedFunction

/-- Major 0x18 (R58, R60). -/
def decJob (w : BitVec 32) : Except DecodeError Instr :=
  match (fld w 0 9).toNat with
  | 0 => if fld w 9 5 == 0 then accept (.spawn (fld w 19 5) (fld w 14 5)) else .error .reservedField
  | 1 => accept (.gang (fld w 19 5) (fld w 14 5) (fld w 9 5))
  | 2 => if fld w 9 5 == 0 && fld w 19 5 == 0 then accept (.exitJob (fld w 14 5)) else .error .reservedField
  | 3 => if fld w 9 15 == 0 then accept (.yieldJob) else .error .reservedField
  | 4 => if fld w 9 5 == 0 then accept (.abandon (fld w 19 5) (fld w 14 5)) else .error .reservedField
  | 5 => if fld w 9 5 == 0 then accept (.setdl (fld w 19 5) (fld w 14 5)) else .error .reservedField
  | _ => .error .reservedFunction

/-- Major 0x19 (R58, R60). -/
def decDep (w : BitVec 32) : Except DecodeError Instr :=
  match (fld w 0 9).toNat with
  | 0 => accept (.depInit (fld w 19 5) (fld w 14 5) (fld w 9 5))
  | 1 => accept (.depAdd (fld w 19 5) (fld w 14 5) (fld w 9 5))
  | 2 => accept (.depDec (fld w 19 5) (fld w 14 5) (fld w 9 5))
  | 3 => if fld w 9 5 == 0 then accept (.depGet (fld w 19 5) (fld w 14 5)) else .error .reservedField
  | _ => .error .reservedFunction

/-- Major 0x1A (R58, R60). -/
def decBar (w : BitVec 32) : Except DecodeError Instr :=
  match (fld w 0 9).toNat with
  | 0 => accept (.barInit (fld w 19 5) (fld w 14 5) (fld w 9 5))
  | 1 => if fld w 9 5 == 0 then accept (.barArrive (fld w 19 5) (fld w 14 5)) else .error .reservedField
  | 2 => accept (.barWait (fld w 19 5) (fld w 14 5) (fld w 9 5))
  | 3 => accept (.barWaitt (fld w 19 5) (fld w 14 5) (fld w 9 5))
  | 4 => accept (.barArriveFsum (fld w 19 5) (fld w 14 5) (fld w 9 5))
  | 5 => accept (.barArriveFsum2 (fld w 19 5) (fld w 14 5) (fld w 9 5))
  | 6 => accept (.barArriveIsum (fld w 19 5) (fld w 14 5) (fld w 9 5))
  | 8 => if fld w 9 5 == 0 then accept (.tktTake (fld w 19 5) (fld w 14 5)) else .error .reservedField
  | 9 => if fld w 19 5 == 0 then accept (.tktWait (fld w 14 5) (fld w 9 5)) else .error .reservedField
  | 10 => if fld w 9 5 == 0 then accept (.tktGive (fld w 19 5) (fld w 14 5)) else .error .reservedField
  | 11 => accept (.tktWaitt (fld w 19 5) (fld w 14 5) (fld w 9 5))
  | _ => .error .reservedFunction

/-- Major 0x1B (R58, R60). -/
def decWin (w : BitVec 32) : Except DecodeError Instr :=
  match (fld w 0 9).toNat with
  | 0 => accept (.winCfg (fld w 19 5) (fld w 14 5) (fld w 9 5))
  | 1 => accept (.winPop (fld w 19 5) (fld w 14 5) (fld w 9 5))
  | 2 => accept (.winGet (fld w 19 5) (fld w 14 5) (fld w 9 5))
  | 3 => accept (.winArm (fld w 19 5) (fld w 14 5) (fld w 9 5))
  | 4 => accept (.winaWait (fld w 19 5) (fld w 14 5) (fld w 9 5))
  | 5 => accept (.winaWaitt (fld w 19 5) (fld w 14 5) (fld w 9 5))
  | _ => .error .reservedFunction

/-- Major 0x1C (R58, R60). -/
def decSpool (w : BitVec 32) : Except DecodeError Instr :=
  match (fld w 0 9).toNat with
  | 0 => if fld w 9 5 == 0 then accept (.splRun (fld w 19 5) (fld w 14 5)) else .error .reservedField
  | 1 => if fld w 9 5 == 0 then accept (.splPush (fld w 19 5) (fld w 14 5)) else .error .reservedField
  | 2 => accept (.splMcast (fld w 19 5) (fld w 14 5) (fld w 9 5))
  | 3 => if fld w 9 5 == 0 then accept (.splStat (fld w 19 5) (fld w 14 5)) else .error .reservedField
  | _ => .error .reservedFunction

/-- Major 0x1D (R58, R60). -/
def decPost (w : BitVec 32) : Except DecodeError Instr :=
  match (fld w 0 9).toNat with
  | 0 => accept (.cpost (fld w 19 5) (fld w 14 5) (fld w 9 5))
  | 1 => if fld w 9 5 == 0 then accept (.cstat (fld w 19 5) (fld w 14 5)) else .error .reservedField
  | 2 => if fld w 9 5 == 0 then accept (.msgSend (fld w 19 5) (fld w 14 5)) else .error .reservedField
  | 3 => accept (.msgSendv (fld w 19 5) (fld w 14 5) (fld w 9 5))
  | _ => .error .reservedFunction

/-- Major 0x1E (R58, R60). -/
def decTime (w : BitVec 32) : Except DecodeError Instr :=
  match (fld w 0 9).toNat with
  | 0 => if fld w 9 5 == 0 then accept (.now (fld w 19 5) (fld w 14 5)) else .error .reservedField
  | 1 =>
    if fld w 17 2 == 1 then accept (.pmcCfg (fld w 19 5) (fld w 14 3) (fld w 9 5))
    else if fld w 9 5 == 0 then accept (.pmc (fld w 19 5) (fld w 14 5)) else .error .reservedField
  | _ => .error .reservedFunction

/-- Major 0x20 (R58, R60). -/
def decVInt0 (w : BitVec 32) : Except DecodeError Instr :=
  match (fld w 0 3).toNat with
  | 0 => accept (.vadd (fld w 18 6) (fld w 12 6) (fld w 6 6) (fld w 3 3))
  | 1 => accept (.vsub (fld w 18 6) (fld w 12 6) (fld w 6 6) (fld w 3 3))
  | 2 => accept (.vmin (fld w 18 6) (fld w 12 6) (fld w 6 6) (fld w 3 3))
  | 3 => accept (.vmax (fld w 18 6) (fld w 12 6) (fld w 6 6) (fld w 3 3))
  | 4 => accept (.vminn (fld w 18 6) (fld w 12 6) (fld w 6 6) (fld w 3 3))
  | 5 => accept (.vmaxn (fld w 18 6) (fld w 12 6) (fld w 6 6) (fld w 3 3))
  | 6 => if fld w 6 6 == 0 then accept (.vabs (fld w 18 6) (fld w 12 6) (fld w 3 3)) else .error .reservedField
  | 7 => accept (.vand (fld w 18 6) (fld w 12 6) (fld w 6 6) (fld w 3 3))
  | _ => .error .reservedFunction

/-- Major 0x21 (R58, R60). -/
def decVInt1 (w : BitVec 32) : Except DecodeError Instr :=
  match (fld w 0 3).toNat with
  | 0 => accept (.vor (fld w 18 6) (fld w 12 6) (fld w 6 6) (fld w 3 3))
  | 1 => accept (.vxor (fld w 18 6) (fld w 12 6) (fld w 6 6) (fld w 3 3))
  | 2 => accept (.vsll (fld w 18 6) (fld w 12 6) (fld w 6 6) (fld w 3 3))
  | 3 => accept (.vsrl (fld w 18 6) (fld w 12 6) (fld w 6 6) (fld w 3 3))
  | 4 => accept (.vsra (fld w 18 6) (fld w 12 6) (fld w 6 6) (fld w 3 3))
  | 5 => accept (.vsadd (fld w 18 6) (fld w 12 6) (fld w 6 6) (fld w 3 3))
  | 6 => accept (.vssub (fld w 18 6) (fld w 12 6) (fld w 6 6) (fld w 3 3))
  | 7 => accept (.vsaddn (fld w 18 6) (fld w 12 6) (fld w 6 6) (fld w 3 3))
  | _ => .error .reservedFunction

/-- Major 0x22 (R58, R60). -/
def decVInt2 (w : BitVec 32) : Except DecodeError Instr :=
  match (fld w 0 3).toNat with
  | 0 => accept (.vssubn (fld w 18 6) (fld w 12 6) (fld w 6 6) (fld w 3 3))
  | 1 => accept (.vnclip (fld w 18 6) (fld w 12 6) (fld w 6 6) (fld w 3 3))
  | 2 => accept (.vwadd (fld w 18 6) (fld w 12 6) (fld w 6 6) (fld w 3 3))
  | 3 => accept (.vwmul (fld w 18 6) (fld w 12 6) (fld w 6 6) (fld w 3 3))
  | 4 => accept (.vmacc (fld w 18 6) (fld w 12 6) (fld w 6 6) (fld w 3 3))
  | 5 => accept (.vmul (fld w 18 6) (fld w 12 6) (fld w 6 6) (fld w 3 3))
  | 6 => accept (.vmulh (fld w 18 6) (fld w 12 6) (fld w 6 6) (fld w 3 3))
  | 7 => accept (.vmulhn (fld w 18 6) (fld w 12 6) (fld w 6 6) (fld w 3 3))
  | _ => .error .reservedFunction

/-- Major 0x23 (R58, R60). -/
def decVDiv (w : BitVec 32) : Except DecodeError Instr :=
  match (fld w 0 3).toNat with
  | 0 => accept (.vdiv (fld w 18 6) (fld w 12 6) (fld w 6 6) (fld w 3 3))
  | 1 => accept (.vdivn (fld w 18 6) (fld w 12 6) (fld w 6 6) (fld w 3 3))
  | 2 => accept (.vrem (fld w 18 6) (fld w 12 6) (fld w 6 6) (fld w 3 3))
  | 3 => accept (.vremn (fld w 18 6) (fld w 12 6) (fld w 6 6) (fld w 3 3))
  | _ => .error .reservedFunction

/-- Major 0x24 (R58, R60). -/
def decVCmp (w : BitVec 32) : Except DecodeError Instr :=
  match (fld w 0 3).toNat with
  | 0 => accept (.vcmp (fld w 21 3) (fld w 18 3) (fld w 12 6) (fld w 6 6) (fld w 3 3))
  | 1 => accept (.vcmpn (fld w 21 3) (fld w 18 3) (fld w 12 6) (fld w 6 6) (fld w 3 3))
  | 2 => accept (.vfcmp (fld w 21 3) (fld w 18 3) (fld w 12 6) (fld w 6 6) (fld w 3 3))
  | _ => .error .reservedFunction

/-- Major 0x25 (R58, R60). -/
def decMask (w : BitVec 32) : Except DecodeError Instr :=
  match (fld w 0 3).toNat with
  | 0 => if fld w 3 3 == 0 && fld w 9 3 == 0 && fld w 15 3 == 0 && fld w 21 3 == 0 then accept (.kand (fld w 18 3) (fld w 12 3) (fld w 6 3)) else .error .reservedField
  | 1 => if fld w 3 3 == 0 && fld w 9 3 == 0 && fld w 15 3 == 0 && fld w 21 3 == 0 then accept (.kor (fld w 18 3) (fld w 12 3) (fld w 6 3)) else .error .reservedField
  | 2 => if fld w 3 3 == 0 && fld w 9 3 == 0 && fld w 15 3 == 0 && fld w 21 3 == 0 then accept (.kxor (fld w 18 3) (fld w 12 3) (fld w 6 3)) else .error .reservedField
  | 3 => if fld w 3 3 == 0 && fld w 9 3 == 0 && fld w 15 3 == 0 && fld w 21 3 == 0 then accept (.kandn (fld w 18 3) (fld w 12 3) (fld w 6 3)) else .error .reservedField
  | 4 => if fld w 3 9 == 0 && fld w 15 3 == 0 && fld w 21 3 == 0 then accept (.knot (fld w 18 3) (fld w 12 3)) else .error .reservedField
  | 5 => if fld w 3 9 == 0 && fld w 15 3 == 0 && fld w 21 3 == 0 then accept (.kmov (fld w 18 3) (fld w 12 3)) else .error .reservedField
  | 6 => if fld w 3 9 == 0 && fld w 15 3 == 0 && fld w 23 1 == 0 then accept (.kpopc (fld w 18 5) (fld w 12 3)) else .error .reservedField
  | 7 => if fld w 3 9 == 0 && fld w 15 3 == 0 && fld w 23 1 == 0 then accept (.kfirst (fld w 18 5) (fld w 12 3)) else .error .reservedField
  | _ => .error .reservedFunction

/-- Major 0x26 (R58, R60). -/
def decSlide (w : BitVec 32) : Except DecodeError Instr :=
  match (fld w 0 3).toNat with
  | 0 => if fld w 6 6 == 0 then accept (.vmv (fld w 18 6) (fld w 12 6) (fld w 3 3)) else .error .reservedField
  | 1 => if fld w 3 1 == 0 then accept (.vslideup (fld w 18 6) (fld w 12 6) (fld w 7 5) (fld w 4 3)) else .error .reservedField
  | 2 => if fld w 3 1 == 0 then accept (.vslidedn (fld w 18 6) (fld w 12 6) (fld w 7 5) (fld w 4 3)) else .error .reservedField
  | 3 => if fld w 3 1 == 0 then accept (.vslide1up (fld w 18 6) (fld w 12 6) (fld w 7 5) (fld w 4 3)) else .error .reservedField
  | 4 => if fld w 3 1 == 0 then accept (.vslide1dn (fld w 18 6) (fld w 12 6) (fld w 7 5) (fld w 4 3)) else .error .reservedField
  | 5 => accept (.vgather (fld w 18 6) (fld w 12 6) (fld w 6 6) (fld w 3 3))
  | 6 => if fld w 6 6 == 0 then accept (.vcompress (fld w 18 6) (fld w 12 6) (fld w 3 3)) else .error .reservedField
  | 7 => if fld w 6 6 == 0 then accept (.vexpand (fld w 18 6) (fld w 12 6) (fld w 3 3)) else .error .reservedField
  | _ => .error .reservedFunction

/-- Major 0x27 (R58, R60). -/
def decPerm (w : BitVec 32) : Except DecodeError Instr :=
  match (fld w 0 3).toNat with
  | 0 => accept (.vmerge (fld w 18 6) (fld w 12 6) (fld w 6 6) (fld w 3 3))
  | 1 => if fld w 6 12 == 0 then accept (.vid (fld w 18 6) (fld w 3 3)) else .error .reservedField
  | 2 => if fld w 6 6 == 0 && fld w 15 3 == 0 then accept (.viota (fld w 18 6) (fld w 12 3) (fld w 3 3)) else .error .reservedField
  | 3 => if fld w 3 3 == 0 then accept (.vzip (fld w 18 6) (fld w 12 6) (fld w 6 6)) else .error .reservedField
  | 4 => if fld w 3 9 == 0 then accept (.vunzip (fld w 18 6) (fld w 12 6)) else .error .reservedField
  | 5 => if fld w 3 9 == 0 then accept (.vtrn (fld w 18 6) (fld w 12 6)) else .error .reservedField
  | _ => .error .reservedFunction

/-- Major 0x28 (R58, R60). -/
def decMove (w : BitVec 32) : Except DecodeError Instr :=
  match (fld w 0 3).toNat with
  | 0 => if fld w 3 1 == 0 && fld w 12 6 == 0 then accept (.vbcast (fld w 18 6) (fld w 7 5) (fld w 4 3)) else .error .reservedField
  | 1 => if fld w 3 4 == 0 && fld w 23 1 == 0 then accept (.vmvs (fld w 18 5) (fld w 12 6) (fld w 7 5)) else .error .reservedField
  | 2 => if fld w 3 4 == 0 && fld w 17 1 == 0 then accept (.vins (fld w 18 6) (fld w 12 5) (fld w 7 5)) else .error .reservedField
  | _ => .error .reservedFunction

/-- Major 0x29 (R58, R60). -/
def decVFp0 (w : BitVec 32) : Except DecodeError Instr :=
  match (fld w 0 3).toNat with
  | 0 => accept (.vfadd (fld w 18 6) (fld w 12 6) (fld w 6 6) (fld w 3 3))
  | 1 => accept (.vfsub (fld w 18 6) (fld w 12 6) (fld w 6 6) (fld w 3 3))
  | 2 => accept (.vfmul (fld w 18 6) (fld w 12 6) (fld w 6 6) (fld w 3 3))
  | 3 => accept (.vfdiv (fld w 18 6) (fld w 12 6) (fld w 6 6) (fld w 3 3))
  | 4 => if fld w 6 6 == 0 then accept (.vfsqrt (fld w 18 6) (fld w 12 6) (fld w 3 3)) else .error .reservedField
  | 5 => accept (.vfmin (fld w 18 6) (fld w 12 6) (fld w 6 6) (fld w 3 3))
  | 6 => accept (.vfmax (fld w 18 6) (fld w 12 6) (fld w 6 6) (fld w 3 3))
  | 7 => accept (.vfsgnj (fld w 18 6) (fld w 12 6) (fld w 6 6) (fld w 3 3))
  | _ => .error .reservedFunction

/-- Major 0x2A (R58, R60). -/
def decVFma (w : BitVec 32) : Except DecodeError Instr :=
  match (fld w 0 3).toNat with
  | 0 => accept (.vfmadd (fld w 18 6) (fld w 12 6) (fld w 6 6) (fld w 3 3))
  | 1 => accept (.vfmsub (fld w 18 6) (fld w 12 6) (fld w 6 6) (fld w 3 3))
  | 2 => accept (.vfnmadd (fld w 18 6) (fld w 12 6) (fld w 6 6) (fld w 3 3))
  | 3 => accept (.vfnmsub (fld w 18 6) (fld w 12 6) (fld w 6 6) (fld w 3 3))
  | 4 => accept (.vfwmul (fld w 18 6) (fld w 12 6) (fld w 6 6) (fld w 3 3))
  | 5 => accept (.vfwmacc (fld w 18 6) (fld w 12 6) (fld w 6 6) (fld w 3 3))
  | _ => .error .reservedFunction

/-- Major 0x2B (R58, R60). -/
def decVFp1 (w : BitVec 32) : Except DecodeError Instr :=
  match (fld w 0 3).toNat with
  | 0 => if fld w 6 6 == 0 then accept (.vfabs (fld w 18 6) (fld w 12 6) (fld w 3 3)) else .error .reservedField
  | 1 => if fld w 6 6 == 0 then accept (.vfneg (fld w 18 6) (fld w 12 6) (fld w 3 3)) else .error .reservedField
  | 2 => if fld w 6 6 == 0 then accept (.vfclass (fld w 18 6) (fld w 12 6) (fld w 3 3)) else .error .reservedField
  | 3 => if fld w 6 6 == 0 then accept (.vfrec (fld w 18 6) (fld w 12 6) (fld w 3 3)) else .error .reservedField
  | 4 => if fld w 6 6 == 0 then accept (.vfrsqrt (fld w 18 6) (fld w 12 6) (fld w 3 3)) else .error .reservedField
  | _ => .error .reservedFunction

/-- Major 0x2C (R58, R60). -/
def decVCvt (w : BitVec 32) : Except DecodeError Instr :=
  match (fld w 0 3).toNat with
  | 0 => if fld w 11 1 == 0 then accept (.vfcvt (fld w 18 6) (fld w 12 6) (fld w 6 5) (fld w 3 3)) else .error .reservedField
  | 1 => if fld w 11 1 == 0 then accept (.vfcvtRtz (fld w 18 6) (fld w 12 6) (fld w 6 5) (fld w 3 3)) else .error .reservedField
  | _ => .error .reservedFunction

/-- Major 0x2D (R58, R60). -/
def decSpecial (w : BitVec 32) : Except DecodeError Instr :=
  match (fld w 0 3).toNat with
  | 0 => if fld w 6 6 == 0 then accept (.vfsin (fld w 18 6) (fld w 12 6) (fld w 3 3)) else .error .reservedField
  | 1 => if fld w 6 6 == 0 then accept (.vfcos (fld w 18 6) (fld w 12 6) (fld w 3 3)) else .error .reservedField
  | 2 => if fld w 6 6 == 0 then accept (.vfsint (fld w 18 6) (fld w 12 6) (fld w 3 3)) else .error .reservedField
  | 3 => if fld w 6 6 == 0 then accept (.vfcost (fld w 18 6) (fld w 12 6) (fld w 3 3)) else .error .reservedField
  | 4 => if fld w 6 6 == 0 then accept (.vfexp2 (fld w 18 6) (fld w 12 6) (fld w 3 3)) else .error .reservedField
  | 5 => if fld w 6 6 == 0 then accept (.vflog2 (fld w 18 6) (fld w 12 6) (fld w 3 3)) else .error .reservedField
  | 6 => accept (.vfatan2 (fld w 18 6) (fld w 12 6) (fld w 6 6) (fld w 3 3))
  | 7 => if fld w 6 6 == 0 then accept (.vftanh (fld w 18 6) (fld w 12 6) (fld w 3 3)) else .error .reservedField
  | _ => .error .reservedFunction

/-- Major 0x2E (R58, R60). -/
def decComplex (w : BitVec 32) : Except DecodeError Instr :=
  match (fld w 0 3).toNat with
  | 0 => accept (.vcmul (fld w 18 6) (fld w 12 6) (fld w 6 6) (fld w 3 3))
  | 1 => accept (.vcmac (fld w 18 6) (fld w 12 6) (fld w 6 6) (fld w 3 3))
  | 2 => accept (.vcmacj (fld w 18 6) (fld w 12 6) (fld w 6 6) (fld w 3 3))
  | 3 => if fld w 6 6 == 0 then accept (.vcconj (fld w 18 6) (fld w 12 6) (fld w 3 3)) else .error .reservedField
  | 4 => if fld w 6 6 == 0 then accept (.vcabs2 (fld w 18 6) (fld w 12 6) (fld w 3 3)) else .error .reservedField
  | 5 => accept (.vcrot (fld w 18 6) (fld w 12 6) (fld w 6 6) (fld w 3 3))
  | _ => .error .reservedFunction

/-- Major 0x2F (R58, R60). -/
def decBfly (w : BitVec 32) : Except DecodeError Instr :=
  match (fld w 0 3).toNat with
  | 0 => accept (.vbfly (fld w 18 6) (fld w 12 6) (fld w 6 6) (fld w 3 3))
  | 1 => accept (.vbfly4 (fld w 18 6) (fld w 12 6) (fld w 6 6) (fld w 3 3))
  | _ => .error .reservedFunction

/-- Major 0x30 (R58, R60). -/
def decTile (w : BitVec 32) : Except DecodeError Instr :=
  match (fld w 0 3).toNat with
  | 0 => if fld w 3 1 == 0 then accept (.vtgj (fld w 18 6) (fld w 12 6) (fld w 7 5) (fld w 4 3)) else .error .reservedField
  | 1 => if fld w 3 1 == 0 then accept (.vtchol (fld w 18 6) (fld w 12 6) (fld w 7 5) (fld w 4 3)) else .error .reservedField
  | 2 => accept (.vtmul (fld w 18 6) (fld w 12 6) (fld w 6 6) (fld w 3 3))
  | 3 => if fld w 6 6 == 0 then accept (.vtherm (fld w 18 6) (fld w 12 6) (fld w 3 3)) else .error .reservedField
  | _ => .error .reservedFunction

/-- Major 0x31 (R58, R60). -/
def decReduce (w : BitVec 32) : Except DecodeError Instr :=
  match (fld w 0 3).toNat with
  | 0 => if fld w 3 1 == 0 && fld w 23 1 == 0 then accept (.vredsum (fld w 18 5) (fld w 12 6) (fld w 7 5) (fld w 4 3)) else .error .reservedField
  | 1 => if fld w 3 1 == 0 && fld w 23 1 == 0 then accept (.vredmin (fld w 18 5) (fld w 12 6) (fld w 7 5) (fld w 4 3)) else .error .reservedField
  | 2 => if fld w 3 1 == 0 && fld w 23 1 == 0 then accept (.vredmax (fld w 18 5) (fld w 12 6) (fld w 7 5) (fld w 4 3)) else .error .reservedField
  | 3 => if fld w 3 1 == 0 && fld w 23 1 == 0 then accept (.vfredsum (fld w 18 5) (fld w 12 6) (fld w 7 5) (fld w 4 3)) else .error .reservedField
  | 4 => if fld w 3 1 == 0 && fld w 23 1 == 0 then accept (.vfredmin (fld w 18 5) (fld w 12 6) (fld w 7 5) (fld w 4 3)) else .error .reservedField
  | 5 => if fld w 3 1 == 0 && fld w 23 1 == 0 then accept (.vfredmax (fld w 18 5) (fld w 12 6) (fld w 7 5) (fld w 4 3)) else .error .reservedField
  | 6 => if fld w 3 1 == 0 && fld w 23 1 == 0 then accept (.vcredsum (fld w 18 5) (fld w 12 6) (fld w 7 5) (fld w 4 3)) else .error .reservedField
  | 7 => if fld w 3 1 == 0 && fld w 23 1 == 0 then accept (.vredsumw (fld w 18 5) (fld w 12 6) (fld w 7 5) (fld w 4 3)) else .error .reservedField
  | _ => .error .reservedFunction

/-- Major 0x32 (R58, R60). -/
def decFp (w : BitVec 32) : Except DecodeError Instr :=
  match (fld w 0 3).toNat with
  | 0 => if fld w 4 5 == 0 then accept (.fadd (fld w 19 5) (fld w 14 5) (fld w 9 5) (fld w 3 1)) else .error .reservedField
  | 1 => if fld w 4 5 == 0 then accept (.fsub (fld w 19 5) (fld w 14 5) (fld w 9 5) (fld w 3 1)) else .error .reservedField
  | 2 => if fld w 4 5 == 0 then accept (.fmul (fld w 19 5) (fld w 14 5) (fld w 9 5) (fld w 3 1)) else .error .reservedField
  | 3 => if fld w 4 5 == 0 then accept (.fdiv (fld w 19 5) (fld w 14 5) (fld w 9 5) (fld w 3 1)) else .error .reservedField
  | 4 => if fld w 4 10 == 0 then accept (.fsqrt (fld w 19 5) (fld w 14 5) (fld w 3 1)) else .error .reservedField
  | 5 => accept (.fmadd (fld w 19 5) (fld w 14 5) (fld w 9 5) (fld w 4 5) (fld w 3 1))
  | 6 => if fld w 4 5 == 0 then accept (.fmin (fld w 19 5) (fld w 14 5) (fld w 9 5) (fld w 3 1)) else .error .reservedField
  | 7 => if fld w 4 5 == 0 then accept (.fmax (fld w 19 5) (fld w 14 5) (fld w 9 5) (fld w 3 1)) else .error .reservedField
  | _ => .error .reservedFunction

/-- Major 0x33 (R58, R60). -/
noncomputable def decFpMisc (w : BitVec 32) : Except DecodeError Instr :=
  match (fld w 0 3).toNat with
  | 0 => accept (.fcmp (fld w 19 5) (fld w 14 5) (fld w 9 5) (fld w 4 5) (fld w 3 1))
  | 1 => if fld w 3 1 == 0 then accept (.fcvt (fld w 19 5) (fld w 14 5) (fld w 9 5) (fld w 4 5)) else .error .reservedField
  | 2 => if fld w 4 10 == 0 then accept (.fclass (fld w 19 5) (fld w 14 5) (fld w 3 1)) else .error .reservedField
  | 3 => if fld w 4 10 == 0 then accept (.fmv (fld w 19 5) (fld w 14 5) (fld w 3 1)) else .error .reservedField
  | _ => .error .reservedFunction

/-- Major 0x34 (R58, R60). -/
def decMode (w : BitVec 32) : Except DecodeError Instr :=
  match (fld w 0 2).toNat with
  | 0 => if fld w 2 22 == 0 then accept (.menter) else .error .reservedField
  | 1 => if fld w 2 22 == 0 then accept (.mexit) else .error .reservedField
  | 2 => if fld w 2 22 == 0 then accept (.mzero) else .error .reservedField
  | _ => .error .reservedFunction

/-- Major 0x35 (R58, R60). -/
def decMop (w : BitVec 32) : Except DecodeError Instr :=
  accept (.mop (fld w 20 4) (fld w 16 4) (fld w 12 4) (fld w 8 4) (fld w 0 8))

/-- Major 0x36 (R58, R60). -/
def decMopv (w : BitVec 32) : Except DecodeError Instr :=
  if fld w 6 6 == 0 then accept (.mopv (fld w 18 6) (fld w 12 6) (fld w 2 4) (fld w 0 2)) else .error .reservedField

/-- Major 0x37 (R58, R60). -/
def decTilemove (w : BitVec 32) : Except DecodeError Instr :=
  match (fld w 0 2).toNat with
  | 0 => if fld w 2 8 == 0 then accept (.mld (fld w 19 5) (fld w 14 5) (fld w 10 4)) else .error .reservedField
  | 1 => if fld w 2 8 == 0 then accept (.mst (fld w 19 5) (fld w 14 5) (fld w 10 4)) else .error .reservedField
  | 2 => if fld w 2 8 == 0 && fld w 14 5 == 0 then accept (.mcvt (fld w 19 5) (fld w 10 4)) else .error .reservedField
  | _ => .error .reservedFunction

/-- `decodeWord` on every major but 0x08 and 0x33 (see `decodeWord`). -/
def decodeLow (w : BitVec 32) : Except DecodeError Instr :=
  match (fld w 24 6).toNat with
  | 0 => decSys w
  | 1 => decCreg w
  | 2 => decAlu w
  | 3 => decAddi w
  | 4 => decLogImm w
  | 5 => decShiftImm w
  | 6 => decSetImm w
  | 7 => decLui w
  | 9 => decSitea w
  | 10 => decMul w
  | 11 => decBits w
  | 12 => decBranch w
  | 13 => decJ w
  | 14 => decCall w
  | 15 => decJump w
  | 16 => decLds w
  | 17 => decSts w
  | 18 => decAmo w
  | 19 => decFence w
  | 20 => decVecLoad w
  | 21 => decVecStore w
  | 22 => decVamo w
  | 23 => decSetvl w
  | 24 => decJob w
  | 25 => decDep w
  | 26 => decBar w
  | 27 => decWin w
  | 28 => decSpool w
  | 29 => decPost w
  | 30 => decTime w
  | 32 => decVInt0 w
  | 33 => decVInt1 w
  | 34 => decVInt2 w
  | 35 => decVDiv w
  | 36 => decVCmp w
  | 37 => decMask w
  | 38 => decSlide w
  | 39 => decPerm w
  | 40 => decMove w
  | 41 => decVFp0 w
  | 42 => decVFma w
  | 43 => decVFp1 w
  | 44 => decVCvt w
  | 45 => decSpecial w
  | 46 => decComplex w
  | 47 => decBfly w
  | 48 => decTile w
  | 49 => decReduce w
  | 50 => decFp w
  | 52 => decMode w
  | 53 => decMop w
  | 54 => decMopv w
  | 55 => decTilemove w
  | _ => .error .reservedMajor

/-- The instruction a 32-bit word holds (bits [29:0]; P and K are the bundle's), or the reason
why check 2 of R63 refuses it.  (Lean's compiler cannot build a value of a constructor numbered
beyond 243 that has fields, so majors 0x08 and 0x33 stand apart and this definition is for the
kernel; `Machine.runWord` has compiled code.) -/
noncomputable def decodeWord (w : BitVec 32) : Except DecodeError Instr :=
  if (fld w 24 6).toNat = 0x08 then decAdpc w
  else if (fld w 24 6).toNat = 0x33 then decFpMisc w
  else decodeLow w

/-- A word from its fixed bits and fields, each with the place of its lowest bit. -/
def pack1 (base x i : Nat) : Nat := base + x * 2 ^ i

/-- `pack1` with one more field. -/
def pack2 (base x i y j : Nat) : Nat :=
  pack1 base x i + y * 2 ^ j

/-- `pack2` with one more field. -/
def pack3 (base x i y j z k : Nat) : Nat :=
  pack2 base x i y j + z * 2 ^ k

/-- `pack3` with one more field. -/
def pack4 (base x i y j z k u l : Nat) : Nat :=
  pack3 base x i y j z k + u * 2 ^ l

/-- `pack4` with one more field. -/
def pack5 (base x i y j z k u l v m : Nat) : Nat :=
  pack4 base x i y j z k u l + v * 2 ^ m

/-- `pack5` with one more field. -/
def pack6 (base x i y j z k u l v m w n : Nat) : Nat :=
  pack5 base x i y j z k u l v m + w * 2 ^ n

/-- The bits [29:0] of the word of an instruction, as a natural number (R50, R51, R58, R60, R61);
`none` for events and commands, which have no word. -/
def encodeNat (i : Instr) : Option Nat :=
  match i with
  | .nop => some 0x00000000
  | .svc imm => some (pack1 0x00080000 imm.toNat 0)
  | .brk imm => some (pack1 0x00100000 imm.toNat 0)
  | .tret => some 0x00180000
  | .halt => some 0x00200000
  | .isync => some 0x00280000
  | .mfc sd creg => some (pack2 0x01000000 sd.toNat 19 creg.toNat 0)
  | .mtc sd sa creg => some (pack3 0x01001000 sd.toNat 19 sa.toNat 14 creg.toNat 0)
  | .setc sd sa creg => some (pack3 0x01002000 sd.toNat 19 sa.toNat 14 creg.toNat 0)
  | .clrc sd sa creg => some (pack3 0x01003000 sd.toNat 19 sa.toNat 14 creg.toNat 0)
  | .add sd sa sb => some (pack3 0x02000000 sd.toNat 19 sa.toNat 14 sb.toNat 9)
  | .sub sd sa sb => some (pack3 0x02000001 sd.toNat 19 sa.toNat 14 sb.toNat 9)
  | .and sd sa sb => some (pack3 0x02000002 sd.toNat 19 sa.toNat 14 sb.toNat 9)
  | .or sd sa sb => some (pack3 0x02000003 sd.toNat 19 sa.toNat 14 sb.toNat 9)
  | .xor sd sa sb => some (pack3 0x02000004 sd.toNat 19 sa.toNat 14 sb.toNat 9)
  | .sll sd sa sb => some (pack3 0x02000005 sd.toNat 19 sa.toNat 14 sb.toNat 9)
  | .srl sd sa sb => some (pack3 0x02000006 sd.toNat 19 sa.toNat 14 sb.toNat 9)
  | .sra sd sa sb => some (pack3 0x02000007 sd.toNat 19 sa.toNat 14 sb.toNat 9)
  | .min sd sa sb => some (pack3 0x02000008 sd.toNat 19 sa.toNat 14 sb.toNat 9)
  | .max sd sa sb => some (pack3 0x02000009 sd.toNat 19 sa.toNat 14 sb.toNat 9)
  | .minn sd sa sb => some (pack3 0x0200000A sd.toNat 19 sa.toNat 14 sb.toNat 9)
  | .maxn sd sa sb => some (pack3 0x0200000B sd.toNat 19 sa.toNat 14 sb.toNat 9)
  | .slt sd sa sb => some (pack3 0x0200000C sd.toNat 19 sa.toNat 14 sb.toNat 9)
  | .sltn sd sa sb => some (pack3 0x0200000D sd.toNat 19 sa.toNat 14 sb.toNat 9)
  | .addi sd sa imm => some (pack3 0x03000000 sd.toNat 19 sa.toNat 14 imm.toNat 0)
  | .andi sd sa imm => some (pack3 0x04000000 sd.toNat 19 sa.toNat 14 imm.toNat 0)
  | .ori sd sa imm => some (pack3 0x04001000 sd.toNat 19 sa.toNat 14 imm.toNat 0)
  | .xori sd sa imm => some (pack3 0x04002000 sd.toNat 19 sa.toNat 14 imm.toNat 0)
  | .slli sd sa sh => some (pack3 0x05000000 sd.toNat 19 sa.toNat 14 sh.toNat 0)
  | .srli sd sa sh => some (pack3 0x05001000 sd.toNat 19 sa.toNat 14 sh.toNat 0)
  | .srai sd sa sh => some (pack3 0x05002000 sd.toNat 19 sa.toNat 14 sh.toNat 0)
  | .slti sd sa imm => some (pack3 0x06000000 sd.toNat 19 sa.toNat 14 imm.toNat 0)
  | .sltin sd sa imm => some (pack3 0x06002000 sd.toNat 19 sa.toNat 14 imm.toNat 0)
  | .lui sd imm => some (pack2 0x07000000 sd.toNat 19 imm.toNat 0)
  | .adpc sd imm => some (pack2 0x08000000 sd.toNat 19 imm.toNat 0)
  | .sitea sd sa twin x y => some (pack5 0x09000000 sd.toNat 19 sa.toNat 14 twin.toNat 11 x.toNat 6 y.toNat 1)
  | .siteaRel sd sa twin x y => some (pack5 0x09001000 sd.toNat 19 sa.toNat 14 twin.toNat 11 x.toNat 6 y.toNat 1)
  | .here sd => some (pack1 0x09002000 sd.toNat 19)
  | .mul sd sa sb => some (pack3 0x0A000000 sd.toNat 19 sa.toNat 14 sb.toNat 9)
  | .mulh sd sa sb => some (pack3 0x0A000001 sd.toNat 19 sa.toNat 14 sb.toNat 9)
  | .mulhn sd sa sb => some (pack3 0x0A000002 sd.toNat 19 sa.toNat 14 sb.toNat 9)
  | .div sd sa sb => some (pack3 0x0A000003 sd.toNat 19 sa.toNat 14 sb.toNat 9)
  | .divn sd sa sb => some (pack3 0x0A000004 sd.toNat 19 sa.toNat 14 sb.toNat 9)
  | .rem sd sa sb => some (pack3 0x0A000005 sd.toNat 19 sa.toNat 14 sb.toNat 9)
  | .remn sd sa sb => some (pack3 0x0A000006 sd.toNat 19 sa.toNat 14 sb.toNat 9)
  | .clz sd sa => some (pack2 0x0B000000 sd.toNat 19 sa.toNat 14)
  | .ctz sd sa => some (pack2 0x0B000001 sd.toNat 19 sa.toNat 14)
  | .popc sd sa => some (pack2 0x0B000002 sd.toNat 19 sa.toNat 14)
  | .bswap sd sa => some (pack2 0x0B000003 sd.toNat 19 sa.toNat 14)
  | .ext sd sa sign width => some (pack4 0x0B000004 sd.toNat 19 sa.toNat 14 sign.toNat 13 width.toNat 11)
  | .beq sa sb off => some (pack3 0x0C000000 sa.toNat 16 sb.toNat 11 off.toNat 0)
  | .bne sa sb off => some (pack3 0x0C200000 sa.toNat 16 sb.toNat 11 off.toNat 0)
  | .blt sa sb off => some (pack3 0x0C400000 sa.toNat 16 sb.toNat 11 off.toNat 0)
  | .bge sa sb off => some (pack3 0x0C600000 sa.toNat 16 sb.toNat 11 off.toNat 0)
  | .bltn sa sb off => some (pack3 0x0C800000 sa.toNat 16 sb.toNat 11 off.toNat 0)
  | .bgen sa sb off => some (pack3 0x0CA00000 sa.toNat 16 sb.toNat 11 off.toNat 0)
  | .j off => some (pack1 0x0D000000 off.toNat 0)
  | .call off => some (pack1 0x0E000000 off.toNat 0)
  | .jr sa => some (pack1 0x0F000000 sa.toNat 16)
  | .callr sa => some (pack1 0x0F200000 sa.toNat 16)
  | .ret => some 0x0F400000
  | .loop sa off => some (pack2 0x0F600000 sa.toNat 16 off.toNat 0)
  | .lds sd sa sz sx ord off => some (pack6 0x10000000 sd.toNat 19 sa.toNat 14 sz.toNat 12 sx.toNat 11 ord.toNat 8 off.toNat 0)
  | .sts sd sa sz ord off => some (pack5 0x11000000 sd.toNat 19 sa.toNat 14 sz.toNat 12 ord.toNat 8 off.toNat 0)
  | .amoAdd sd sa sb sz sem scope => some (pack6 0x12000000 sd.toNat 19 sa.toNat 14 sb.toNat 9 sz.toNat 4 sem.toNat 2 scope.toNat 0)
  | .amoAnd sd sa sb sz sem scope => some (pack6 0x12000020 sd.toNat 19 sa.toNat 14 sb.toNat 9 sz.toNat 4 sem.toNat 2 scope.toNat 0)
  | .amoOr sd sa sb sz sem scope => some (pack6 0x12000040 sd.toNat 19 sa.toNat 14 sb.toNat 9 sz.toNat 4 sem.toNat 2 scope.toNat 0)
  | .amoXor sd sa sb sz sem scope => some (pack6 0x12000060 sd.toNat 19 sa.toNat 14 sb.toNat 9 sz.toNat 4 sem.toNat 2 scope.toNat 0)
  | .amoMin sd sa sb sz sem scope => some (pack6 0x12000080 sd.toNat 19 sa.toNat 14 sb.toNat 9 sz.toNat 4 sem.toNat 2 scope.toNat 0)
  | .amoMax sd sa sb sz sem scope => some (pack6 0x120000A0 sd.toNat 19 sa.toNat 14 sb.toNat 9 sz.toNat 4 sem.toNat 2 scope.toNat 0)
  | .amoMinn sd sa sb sz sem scope => some (pack6 0x120000C0 sd.toNat 19 sa.toNat 14 sb.toNat 9 sz.toNat 4 sem.toNat 2 scope.toNat 0)
  | .amoMaxn sd sa sb sz sem scope => some (pack6 0x120000E0 sd.toNat 19 sa.toNat 14 sb.toNat 9 sz.toNat 4 sem.toNat 2 scope.toNat 0)
  | .amoSwap sd sa sb sz sem scope => some (pack6 0x12000100 sd.toNat 19 sa.toNat 14 sb.toNat 9 sz.toNat 4 sem.toNat 2 scope.toNat 0)
  | .amoCas sd sa sb sz sem scope => some (pack6 0x12000120 sd.toNat 19 sa.toNat 14 sb.toNat 9 sz.toNat 4 sem.toNat 2 scope.toNat 0)
  | .amoFadd sd sa sb sz sem scope => some (pack6 0x12000140 sd.toNat 19 sa.toNat 14 sb.toNat 9 sz.toNat 4 sem.toNat 2 scope.toNat 0)
  | .fence kind scope => some (pack2 0x13000000 kind.toNat 4 scope.toNat 0)
  | .lsync => some 0x13000040
  | .vfence => some 0x13000080
  | .qfence => some 0x130000C0
  | .vld vd sa x k ew => some (pack5 0x14000000 vd.toNat 18 sa.toNat 13 x.toNat 8 k.toNat 5 ew.toNat 3)
  | .vlds vd sa sb k ew => some (pack5 0x14000001 vd.toNat 18 sa.toNat 13 sb.toNat 8 k.toNat 5 ew.toNat 3)
  | .vldx vd sa x k ew => some (pack5 0x14000002 vd.toNat 18 sa.toNat 13 x.toNat 8 k.toNat 5 ew.toNat 3)
  | .vld2d vd sa sb k ew => some (pack5 0x14000003 vd.toNat 18 sa.toNat 13 sb.toNat 8 k.toNat 5 ew.toNat 3)
  | .vldw vd wn chunk k ew => some (pack5 0x14000004 vd.toNat 18 wn.toNat 13 chunk.toNat 8 k.toNat 5 ew.toNat 3)
  | .vldl vd sa x k ew => some (pack5 0x14000015 vd.toNat 18 sa.toNat 13 x.toNat 8 k.toNat 5 ew.toNat 3)
  | .vst vd sa x k ew => some (pack5 0x15000000 vd.toNat 18 sa.toNat 13 x.toNat 8 k.toNat 5 ew.toNat 3)
  | .vsts vd sa sb k ew => some (pack5 0x15000001 vd.toNat 18 sa.toNat 13 sb.toNat 8 k.toNat 5 ew.toNat 3)
  | .vstx vd sa x k ew => some (pack5 0x15000002 vd.toNat 18 sa.toNat 13 x.toNat 8 k.toNat 5 ew.toNat 3)
  | .vst2d vd sa sb k ew => some (pack5 0x15000003 vd.toNat 18 sa.toNat 13 sb.toNat 8 k.toNat 5 ew.toNat 3)
  | .vstc vd sa x k ew => some (pack5 0x15000015 vd.toNat 18 sa.toNat 13 x.toNat 8 k.toNat 5 ew.toNat 3)
  | .vamoAdd vd sa x k ew => some (pack5 0x16000010 vd.toNat 18 sa.toNat 13 x.toNat 8 k.toNat 5 ew.toNat 3)
  | .vamoMin vd sa x k ew => some (pack5 0x16000011 vd.toNat 18 sa.toNat 13 x.toNat 8 k.toNat 5 ew.toNat 3)
  | .vamoMax vd sa x k ew => some (pack5 0x16000012 vd.toNat 18 sa.toNat 13 x.toNat 8 k.toNat 5 ew.toNat 3)
  | .vamoOr vd sa x k ew => some (pack5 0x16000013 vd.toNat 18 sa.toNat 13 x.toNat 8 k.toNat 5 ew.toNat 3)
  | .vamoXor vd sa x k ew => some (pack5 0x16000014 vd.toNat 18 sa.toNat 13 x.toNat 8 k.toNat 5 ew.toNat 3)
  | .setvl sd sa typ grp => some (pack4 0x17000000 sd.toNat 19 sa.toNat 14 typ.toNat 9 grp.toNat 7)
  | .setvli sd typ grp imm => some (pack4 0x17000001 sd.toNat 19 typ.toNat 14 grp.toNat 12 imm.toNat 2)
  | .settile sd sa sb => some (pack3 0x17000002 sd.toNat 19 sa.toNat 14 sb.toNat 9)
  | .spawn sd sa => some (pack2 0x18000000 sd.toNat 19 sa.toNat 14)
  | .gang sd sa sb => some (pack3 0x18000001 sd.toNat 19 sa.toNat 14 sb.toNat 9)
  | .exitJob sa => some (pack1 0x18000002 sa.toNat 14)
  | .yieldJob => some 0x18000003
  | .abandon sd sa => some (pack2 0x18000004 sd.toNat 19 sa.toNat 14)
  | .setdl sd sa => some (pack2 0x18000005 sd.toNat 19 sa.toNat 14)
  | .depInit sd sa sb => some (pack3 0x19000000 sd.toNat 19 sa.toNat 14 sb.toNat 9)
  | .depAdd sd sa sb => some (pack3 0x19000001 sd.toNat 19 sa.toNat 14 sb.toNat 9)
  | .depDec sd sa sb => some (pack3 0x19000002 sd.toNat 19 sa.toNat 14 sb.toNat 9)
  | .depGet sd sa => some (pack2 0x19000003 sd.toNat 19 sa.toNat 14)
  | .barInit sd sa sb => some (pack3 0x1A000000 sd.toNat 19 sa.toNat 14 sb.toNat 9)
  | .barArrive sd sa => some (pack2 0x1A000001 sd.toNat 19 sa.toNat 14)
  | .barWait sd sa sel => some (pack3 0x1A000002 sd.toNat 19 sa.toNat 14 sel.toNat 9)
  | .barWaitt sd sa sb => some (pack3 0x1A000003 sd.toNat 19 sa.toNat 14 sb.toNat 9)
  | .barArriveFsum sd sa sb => some (pack3 0x1A000004 sd.toNat 19 sa.toNat 14 sb.toNat 9)
  | .barArriveFsum2 sd sa sb => some (pack3 0x1A000005 sd.toNat 19 sa.toNat 14 sb.toNat 9)
  | .barArriveIsum sd sa sb => some (pack3 0x1A000006 sd.toNat 19 sa.toNat 14 sb.toNat 9)
  | .tktTake sd sa => some (pack2 0x1A000008 sd.toNat 19 sa.toNat 14)
  | .tktWait sa sb => some (pack2 0x1A000009 sa.toNat 14 sb.toNat 9)
  | .tktGive sd sa => some (pack2 0x1A00000A sd.toNat 19 sa.toNat 14)
  | .tktWaitt sd sa sb => some (pack3 0x1A00000B sd.toNat 19 sa.toNat 14 sb.toNat 9)
  | .winCfg sd wn sb => some (pack3 0x1B000000 sd.toNat 19 wn.toNat 14 sb.toNat 9)
  | .winPop sd wn sb => some (pack3 0x1B000001 sd.toNat 19 wn.toNat 14 sb.toNat 9)
  | .winGet sd wn sel => some (pack3 0x1B000002 sd.toNat 19 wn.toNat 14 sel.toNat 9)
  | .winArm sd wn sb => some (pack3 0x1B000003 sd.toNat 19 wn.toNat 14 sb.toNat 9)
  | .winaWait sd wn sb => some (pack3 0x1B000004 sd.toNat 19 wn.toNat 14 sb.toNat 9)
  | .winaWaitt sd wn sb => some (pack3 0x1B000005 sd.toNat 19 wn.toNat 14 sb.toNat 9)
  | .splRun sd sa => some (pack2 0x1C000000 sd.toNat 19 sa.toNat 14)
  | .splPush sd sa => some (pack2 0x1C000001 sd.toNat 19 sa.toNat 14)
  | .splMcast sd sa sb => some (pack3 0x1C000002 sd.toNat 19 sa.toNat 14 sb.toNat 9)
  | .splStat sd sa => some (pack2 0x1C000003 sd.toNat 19 sa.toNat 14)
  | .cpost sd sa sb => some (pack3 0x1D000000 sd.toNat 19 sa.toNat 14 sb.toNat 9)
  | .cstat sd sa => some (pack2 0x1D000001 sd.toNat 19 sa.toNat 14)
  | .msgSend sd sa => some (pack2 0x1D000002 sd.toNat 19 sa.toNat 14)
  | .msgSendv vs sa sb => some (pack3 0x1D000003 vs.toNat 19 sa.toNat 14 sb.toNat 9)
  | .now sd sel => some (pack2 0x1E000000 sd.toNat 19 sel.toNat 14)
  | .pmc sd n => some (pack2 0x1E000001 sd.toNat 19 n.toNat 14)
  | .pmcCfg sd n sb => some (pack3 0x1E020001 sd.toNat 19 n.toNat 14 sb.toNat 9)
  | .vadd vd va vb k => some (pack4 0x20000000 vd.toNat 18 va.toNat 12 vb.toNat 6 k.toNat 3)
  | .vsub vd va vb k => some (pack4 0x20000001 vd.toNat 18 va.toNat 12 vb.toNat 6 k.toNat 3)
  | .vmin vd va vb k => some (pack4 0x20000002 vd.toNat 18 va.toNat 12 vb.toNat 6 k.toNat 3)
  | .vmax vd va vb k => some (pack4 0x20000003 vd.toNat 18 va.toNat 12 vb.toNat 6 k.toNat 3)
  | .vminn vd va vb k => some (pack4 0x20000004 vd.toNat 18 va.toNat 12 vb.toNat 6 k.toNat 3)
  | .vmaxn vd va vb k => some (pack4 0x20000005 vd.toNat 18 va.toNat 12 vb.toNat 6 k.toNat 3)
  | .vabs vd va k => some (pack3 0x20000006 vd.toNat 18 va.toNat 12 k.toNat 3)
  | .vand vd va vb k => some (pack4 0x20000007 vd.toNat 18 va.toNat 12 vb.toNat 6 k.toNat 3)
  | .vor vd va vb k => some (pack4 0x21000000 vd.toNat 18 va.toNat 12 vb.toNat 6 k.toNat 3)
  | .vxor vd va vb k => some (pack4 0x21000001 vd.toNat 18 va.toNat 12 vb.toNat 6 k.toNat 3)
  | .vsll vd va vb k => some (pack4 0x21000002 vd.toNat 18 va.toNat 12 vb.toNat 6 k.toNat 3)
  | .vsrl vd va vb k => some (pack4 0x21000003 vd.toNat 18 va.toNat 12 vb.toNat 6 k.toNat 3)
  | .vsra vd va vb k => some (pack4 0x21000004 vd.toNat 18 va.toNat 12 vb.toNat 6 k.toNat 3)
  | .vsadd vd va vb k => some (pack4 0x21000005 vd.toNat 18 va.toNat 12 vb.toNat 6 k.toNat 3)
  | .vssub vd va vb k => some (pack4 0x21000006 vd.toNat 18 va.toNat 12 vb.toNat 6 k.toNat 3)
  | .vsaddn vd va vb k => some (pack4 0x21000007 vd.toNat 18 va.toNat 12 vb.toNat 6 k.toNat 3)
  | .vssubn vd va vb k => some (pack4 0x22000000 vd.toNat 18 va.toNat 12 vb.toNat 6 k.toNat 3)
  | .vnclip vd va vb k => some (pack4 0x22000001 vd.toNat 18 va.toNat 12 vb.toNat 6 k.toNat 3)
  | .vwadd vd va vb k => some (pack4 0x22000002 vd.toNat 18 va.toNat 12 vb.toNat 6 k.toNat 3)
  | .vwmul vd va vb k => some (pack4 0x22000003 vd.toNat 18 va.toNat 12 vb.toNat 6 k.toNat 3)
  | .vmacc vd va vb k => some (pack4 0x22000004 vd.toNat 18 va.toNat 12 vb.toNat 6 k.toNat 3)
  | .vmul vd va vb k => some (pack4 0x22000005 vd.toNat 18 va.toNat 12 vb.toNat 6 k.toNat 3)
  | .vmulh vd va vb k => some (pack4 0x22000006 vd.toNat 18 va.toNat 12 vb.toNat 6 k.toNat 3)
  | .vmulhn vd va vb k => some (pack4 0x22000007 vd.toNat 18 va.toNat 12 vb.toNat 6 k.toNat 3)
  | .vdiv vd va vb k => some (pack4 0x23000000 vd.toNat 18 va.toNat 12 vb.toNat 6 k.toNat 3)
  | .vdivn vd va vb k => some (pack4 0x23000001 vd.toNat 18 va.toNat 12 vb.toNat 6 k.toNat 3)
  | .vrem vd va vb k => some (pack4 0x23000002 vd.toNat 18 va.toNat 12 vb.toNat 6 k.toNat 3)
  | .vremn vd va vb k => some (pack4 0x23000003 vd.toNat 18 va.toNat 12 vb.toNat 6 k.toNat 3)
  | .vcmp cond kd va vb k => some (pack5 0x24000000 cond.toNat 21 kd.toNat 18 va.toNat 12 vb.toNat 6 k.toNat 3)
  | .vcmpn cond kd va vb k => some (pack5 0x24000001 cond.toNat 21 kd.toNat 18 va.toNat 12 vb.toNat 6 k.toNat 3)
  | .vfcmp cond kd va vb k => some (pack5 0x24000002 cond.toNat 21 kd.toNat 18 va.toNat 12 vb.toNat 6 k.toNat 3)
  | .kand kd ka kb => some (pack3 0x25000000 kd.toNat 18 ka.toNat 12 kb.toNat 6)
  | .kor kd ka kb => some (pack3 0x25000001 kd.toNat 18 ka.toNat 12 kb.toNat 6)
  | .kxor kd ka kb => some (pack3 0x25000002 kd.toNat 18 ka.toNat 12 kb.toNat 6)
  | .kandn kd ka kb => some (pack3 0x25000003 kd.toNat 18 ka.toNat 12 kb.toNat 6)
  | .knot kd ka => some (pack2 0x25000004 kd.toNat 18 ka.toNat 12)
  | .kmov kd ka => some (pack2 0x25000005 kd.toNat 18 ka.toNat 12)
  | .kpopc sd ka => some (pack2 0x25000006 sd.toNat 18 ka.toNat 12)
  | .kfirst sd ka => some (pack2 0x25000007 sd.toNat 18 ka.toNat 12)
  | .vmv vd va k => some (pack3 0x26000000 vd.toNat 18 va.toNat 12 k.toNat 3)
  | .vslideup vd va sb k => some (pack4 0x26000001 vd.toNat 18 va.toNat 12 sb.toNat 7 k.toNat 4)
  | .vslidedn vd va sb k => some (pack4 0x26000002 vd.toNat 18 va.toNat 12 sb.toNat 7 k.toNat 4)
  | .vslide1up vd va sb k => some (pack4 0x26000003 vd.toNat 18 va.toNat 12 sb.toNat 7 k.toNat 4)
  | .vslide1dn vd va sb k => some (pack4 0x26000004 vd.toNat 18 va.toNat 12 sb.toNat 7 k.toNat 4)
  | .vgather vd va vb k => some (pack4 0x26000005 vd.toNat 18 va.toNat 12 vb.toNat 6 k.toNat 3)
  | .vcompress vd va k => some (pack3 0x26000006 vd.toNat 18 va.toNat 12 k.toNat 3)
  | .vexpand vd va k => some (pack3 0x26000007 vd.toNat 18 va.toNat 12 k.toNat 3)
  | .vmerge vd va vb k => some (pack4 0x27000000 vd.toNat 18 va.toNat 12 vb.toNat 6 k.toNat 3)
  | .vid vd k => some (pack2 0x27000001 vd.toNat 18 k.toNat 3)
  | .viota vd ka k => some (pack3 0x27000002 vd.toNat 18 ka.toNat 12 k.toNat 3)
  | .vzip vd va vb => some (pack3 0x27000003 vd.toNat 18 va.toNat 12 vb.toNat 6)
  | .vunzip vd va => some (pack2 0x27000004 vd.toNat 18 va.toNat 12)
  | .vtrn vd va => some (pack2 0x27000005 vd.toNat 18 va.toNat 12)
  | .vbcast vd sb k => some (pack3 0x28000000 vd.toNat 18 sb.toNat 7 k.toNat 4)
  | .vmvs sd va sb => some (pack3 0x28000001 sd.toNat 18 va.toNat 12 sb.toNat 7)
  | .vins vd sa sb => some (pack3 0x28000002 vd.toNat 18 sa.toNat 12 sb.toNat 7)
  | .vfadd vd va vb k => some (pack4 0x29000000 vd.toNat 18 va.toNat 12 vb.toNat 6 k.toNat 3)
  | .vfsub vd va vb k => some (pack4 0x29000001 vd.toNat 18 va.toNat 12 vb.toNat 6 k.toNat 3)
  | .vfmul vd va vb k => some (pack4 0x29000002 vd.toNat 18 va.toNat 12 vb.toNat 6 k.toNat 3)
  | .vfdiv vd va vb k => some (pack4 0x29000003 vd.toNat 18 va.toNat 12 vb.toNat 6 k.toNat 3)
  | .vfsqrt vd va k => some (pack3 0x29000004 vd.toNat 18 va.toNat 12 k.toNat 3)
  | .vfmin vd va vb k => some (pack4 0x29000005 vd.toNat 18 va.toNat 12 vb.toNat 6 k.toNat 3)
  | .vfmax vd va vb k => some (pack4 0x29000006 vd.toNat 18 va.toNat 12 vb.toNat 6 k.toNat 3)
  | .vfsgnj vd va vb k => some (pack4 0x29000007 vd.toNat 18 va.toNat 12 vb.toNat 6 k.toNat 3)
  | .vfmadd vd va vb k => some (pack4 0x2A000000 vd.toNat 18 va.toNat 12 vb.toNat 6 k.toNat 3)
  | .vfmsub vd va vb k => some (pack4 0x2A000001 vd.toNat 18 va.toNat 12 vb.toNat 6 k.toNat 3)
  | .vfnmadd vd va vb k => some (pack4 0x2A000002 vd.toNat 18 va.toNat 12 vb.toNat 6 k.toNat 3)
  | .vfnmsub vd va vb k => some (pack4 0x2A000003 vd.toNat 18 va.toNat 12 vb.toNat 6 k.toNat 3)
  | .vfwmul vd va vb k => some (pack4 0x2A000004 vd.toNat 18 va.toNat 12 vb.toNat 6 k.toNat 3)
  | .vfwmacc vd va vb k => some (pack4 0x2A000005 vd.toNat 18 va.toNat 12 vb.toNat 6 k.toNat 3)
  | .vfabs vd va k => some (pack3 0x2B000000 vd.toNat 18 va.toNat 12 k.toNat 3)
  | .vfneg vd va k => some (pack3 0x2B000001 vd.toNat 18 va.toNat 12 k.toNat 3)
  | .vfclass vd va k => some (pack3 0x2B000002 vd.toNat 18 va.toNat 12 k.toNat 3)
  | .vfrec vd va k => some (pack3 0x2B000003 vd.toNat 18 va.toNat 12 k.toNat 3)
  | .vfrsqrt vd va k => some (pack3 0x2B000004 vd.toNat 18 va.toNat 12 k.toNat 3)
  | .vfcvt vd va dt k => some (pack4 0x2C000000 vd.toNat 18 va.toNat 12 dt.toNat 6 k.toNat 3)
  | .vfcvtRtz vd va dt k => some (pack4 0x2C000001 vd.toNat 18 va.toNat 12 dt.toNat 6 k.toNat 3)
  | .vfsin vd va k => some (pack3 0x2D000000 vd.toNat 18 va.toNat 12 k.toNat 3)
  | .vfcos vd va k => some (pack3 0x2D000001 vd.toNat 18 va.toNat 12 k.toNat 3)
  | .vfsint vd va k => some (pack3 0x2D000002 vd.toNat 18 va.toNat 12 k.toNat 3)
  | .vfcost vd va k => some (pack3 0x2D000003 vd.toNat 18 va.toNat 12 k.toNat 3)
  | .vfexp2 vd va k => some (pack3 0x2D000004 vd.toNat 18 va.toNat 12 k.toNat 3)
  | .vflog2 vd va k => some (pack3 0x2D000005 vd.toNat 18 va.toNat 12 k.toNat 3)
  | .vfatan2 vd va vb k => some (pack4 0x2D000006 vd.toNat 18 va.toNat 12 vb.toNat 6 k.toNat 3)
  | .vftanh vd va k => some (pack3 0x2D000007 vd.toNat 18 va.toNat 12 k.toNat 3)
  | .vcmul vd va vb k => some (pack4 0x2E000000 vd.toNat 18 va.toNat 12 vb.toNat 6 k.toNat 3)
  | .vcmac vd va vb k => some (pack4 0x2E000001 vd.toNat 18 va.toNat 12 vb.toNat 6 k.toNat 3)
  | .vcmacj vd va vb k => some (pack4 0x2E000002 vd.toNat 18 va.toNat 12 vb.toNat 6 k.toNat 3)
  | .vcconj vd va k => some (pack3 0x2E000003 vd.toNat 18 va.toNat 12 k.toNat 3)
  | .vcabs2 vd va k => some (pack3 0x2E000004 vd.toNat 18 va.toNat 12 k.toNat 3)
  | .vcrot vd va vb k => some (pack4 0x2E000005 vd.toNat 18 va.toNat 12 vb.toNat 6 k.toNat 3)
  | .vbfly vd va vb k => some (pack4 0x2F000000 vd.toNat 18 va.toNat 12 vb.toNat 6 k.toNat 3)
  | .vbfly4 vd va vb k => some (pack4 0x2F000001 vd.toNat 18 va.toNat 12 vb.toNat 6 k.toNat 3)
  | .vtgj vd va sb k => some (pack4 0x30000000 vd.toNat 18 va.toNat 12 sb.toNat 7 k.toNat 4)
  | .vtchol vd va sb k => some (pack4 0x30000001 vd.toNat 18 va.toNat 12 sb.toNat 7 k.toNat 4)
  | .vtmul vd va vb k => some (pack4 0x30000002 vd.toNat 18 va.toNat 12 vb.toNat 6 k.toNat 3)
  | .vtherm vd va k => some (pack3 0x30000003 vd.toNat 18 va.toNat 12 k.toNat 3)
  | .vredsum sd va sb k => some (pack4 0x31000000 sd.toNat 18 va.toNat 12 sb.toNat 7 k.toNat 4)
  | .vredmin sd va sb k => some (pack4 0x31000001 sd.toNat 18 va.toNat 12 sb.toNat 7 k.toNat 4)
  | .vredmax sd va sb k => some (pack4 0x31000002 sd.toNat 18 va.toNat 12 sb.toNat 7 k.toNat 4)
  | .vfredsum sd va sb k => some (pack4 0x31000003 sd.toNat 18 va.toNat 12 sb.toNat 7 k.toNat 4)
  | .vfredmin sd va sb k => some (pack4 0x31000004 sd.toNat 18 va.toNat 12 sb.toNat 7 k.toNat 4)
  | .vfredmax sd va sb k => some (pack4 0x31000005 sd.toNat 18 va.toNat 12 sb.toNat 7 k.toNat 4)
  | .vcredsum sd va sb k => some (pack4 0x31000006 sd.toNat 18 va.toNat 12 sb.toNat 7 k.toNat 4)
  | .vredsumw sd va sb k => some (pack4 0x31000007 sd.toNat 18 va.toNat 12 sb.toNat 7 k.toNat 4)
  | .fadd sd sa sb pr => some (pack4 0x32000000 sd.toNat 19 sa.toNat 14 sb.toNat 9 pr.toNat 3)
  | .fsub sd sa sb pr => some (pack4 0x32000001 sd.toNat 19 sa.toNat 14 sb.toNat 9 pr.toNat 3)
  | .fmul sd sa sb pr => some (pack4 0x32000002 sd.toNat 19 sa.toNat 14 sb.toNat 9 pr.toNat 3)
  | .fdiv sd sa sb pr => some (pack4 0x32000003 sd.toNat 19 sa.toNat 14 sb.toNat 9 pr.toNat 3)
  | .fsqrt sd sa pr => some (pack3 0x32000004 sd.toNat 19 sa.toNat 14 pr.toNat 3)
  | .fmadd sd sa sb sc pr => some (pack5 0x32000005 sd.toNat 19 sa.toNat 14 sb.toNat 9 sc.toNat 4 pr.toNat 3)
  | .fmin sd sa sb pr => some (pack4 0x32000006 sd.toNat 19 sa.toNat 14 sb.toNat 9 pr.toNat 3)
  | .fmax sd sa sb pr => some (pack4 0x32000007 sd.toNat 19 sa.toNat 14 sb.toNat 9 pr.toNat 3)
  | .fcmp sd sa sb cond pr => some (pack5 0x33000000 sd.toNat 19 sa.toNat 14 sb.toNat 9 cond.toNat 4 pr.toNat 3)
  | .fcvt sd sa st dt => some (pack4 0x33000001 sd.toNat 19 sa.toNat 14 st.toNat 9 dt.toNat 4)
  | .fclass sd sa pr => some (pack3 0x33000002 sd.toNat 19 sa.toNat 14 pr.toNat 3)
  | .fmv sd sa pr => some (pack3 0x33000003 sd.toNat 19 sa.toNat 14 pr.toNat 3)
  | .menter => some 0x34000000
  | .mexit => some 0x34000001
  | .mzero => some 0x34000002
  | .mop wa wb ws fmt ks => some (pack5 0x35000000 wa.toNat 20 wb.toNat 16 ws.toNat 12 fmt.toNat 8 ks.toNat 0)
  | .mopv va vb fmt ks => some (pack4 0x36000000 va.toNat 18 vb.toNat 12 fmt.toNat 2 ks.toNat 0)
  | .mld sa sb fmt => some (pack3 0x37000000 sa.toNat 19 sb.toNat 14 fmt.toNat 10)
  | .mst sa sb fmt => some (pack3 0x37000001 sa.toNat 19 sb.toNat 14 fmt.toNat 10)
  | .mcvt sa fmt => some (pack2 0x37000002 sa.toNat 19 fmt.toNat 10)
  | .powerOn => none
  | .deviceReset => none
  | .convoyBegin => none
  | .vectorRetire => none
  | .resynchronisingAccess => none
  | .mopBegin => none
  | .mopRetire => none
  | .vldwGroup => none
  | .storeRefusal => none
  | .ringGuard => none
  | .impreciseTrap => none
  | .resume => none
  | .jobBind => none
  | .preemption => none
  | .expiry => none
  | .treeDeadline => none
  | .slotCreation => none
  | .reclaimAtTimer => none
  | .graceEnd => none
  | .timedWaitLimit => none
  | .waitConditionMet => none
  | .atTimer => none
  | .fhoutLaunch => none
  | .reclaimDrainTimeout => none
  | .fencing => none
  | .uncorrectableError => none
  | .dispatcherPlacement => none
  | .stealRequest => none
  | .stealGrant => none
  | .setdlRequest => none
  | .gangReservation => none
  | .gangStart => none
  | .lendComplete => none
  | .savedGroupRestore => none
  | .vamoArrival => none
  | .combiningTimeout => none
  | .pageWalk => none
  | .atsCompletion => none
  | .prgResponse => none
  | .invalidateRequest => none
  | .invalidateCompletion => none
  | .listStart => none
  | .spoolChunk => none
  | .chunkArrival => none
  | .src => none
  | .dst => none
  | .push => none
  | .mcast => none
  | .gather => none
  | .cvt => none
  | .clistLoop => none
  | .waitd => none
  | .atTime => none
  | .notifyDec => none
  | .notifyPost => none
  | .recRecord => none
  | .endList => none
  | .codingCommandStart => none
  | .codingCommandEnd => none
  | .messageAppend => none
  | .msgSendvRetry => none
  | .ingressFrame => none
  | .ptpFrame => none
  | .esmcMessage => none
  | .timeStep => none
  | .lockStateChange => none
  | .flitReplay => none
  | .linkRetrain => none
  | .tetherDown => none
  | .barrierArrival => none
  | .ticketPoll => none
  | .launchDoorbell => none
  | .commandDoorbell => none
  | .telemetryClaim => none
  | .powerLimitRegisterWrite => none
  | .portModeWrite => none
  | .windowDescriptorStore => none
  | .registerWrite => none
  | .queueCreate => none
  | .queueDestroy => none
  | .tenantCreate => none
  | .tenantDestroy => none
  | .ptAttach => none
  | .lend => none
  | .reclaim => none
  | .reclaimAt => none
  | .slotSet => none
  | .bridleSet => none
  | .launch => none
  | .gangLaunch => none
  | .copy => none
  | .signal => none
  | .codingCfg => none
  | .telemetry => none
  | .attest => none
  | .partReset => none
  | .debugSession => none
  | .debugHalt => none
  | .debugRead => none
  | .debugResume => none
  | .keySet => none
  | .alloc => none
  | .fenceCmd => none
  | .powerLimit => none
  | .queryResult => none
  | .serviceTrap => none
  | .svcNone => none
  | .svcNotice => none
  | .svcTelemetry => none
  | .svcTimeLock => none
  | .deferredCompletion => none
  | .firmwareTimer => none
  | .watchdogExpiry => none
  | .serviceRestart => none
  | .ballastTurn => none
  | .mgmtCoreReset => none
  | .tripHoldBegin => none
  | .tripHoldEnd => none
  | .powerStep => none
  | .tetherUp => none
  | .priReenable => none
  | .unplacedSlotSkip => none

/-- The word of an instruction, with P and K both 0; 0 for an event (see `encodeNat`). -/
def encodeWord (i : Instr) : BitVec 32 := BitVec.ofNat 32 ((encodeNat i).getD 0)

/-- The bytes of a word as the device stores them: little-endian (R4, R36). -/
def wordBytes (w : BitVec 32) : List (BitVec 8) :=
  [w.extractLsb' 0 8, w.extractLsb' 8 8, w.extractLsb' 16 8, w.extractLsb' 24 8]

/-- The word four stored bytes make (R4). -/
def bytesWord (a b c d : BitVec 8) : BitVec 32 := d ++ c ++ b ++ a

/-- The instruction the first four bytes of a list hold, with the rest of the list. -/
noncomputable def decode (bs : List (BitVec 8)) : Option (Except DecodeError Instr × List (BitVec 8)) :=
  match bs with
  | a :: b :: c :: d :: rest => some (decodeWord (bytesWord a b c d), rest)
  | _ => none

/-- The bytes of an instruction as a lone word with K = 0. -/
def encode (i : Instr) : List (BitVec 8) := wordBytes (encodeWord i)

/-- P of a word: bit 31 of word 0 pairs the bundle (R36). -/
def wordP (w : BitVec 32) : Bool := w.getLsbD 31

/-- K of a word: bit 30 (R36). -/
def wordK (w : BitVec 32) : Bool := w.getLsbD 30

/-- R37: the C-class majors are 0x00-0x1F. -/
def wordIsC (w : BitVec 32) : Bool := (fld w 24 6).toNat < 0x20

/-- The instruction the decoder reads from one 32-bit word whose bits are `w`.  A word with P = 1
is the first word of a paired bundle; its own 24 bits and major decode in the same way (R36). -/
noncomputable def decodeTableWord (nbits w : Nat) : Option Instr :=
  if nbits = 32 then
    match decode (wordBytes (BitVec.ofNat 32 w)) with
    | some (.ok i, _) => some i
    | _ => none
  else none

end Sys2Proof
end

