-- ==== Sys2Proof/Machine/Rom.lean ====
section
/-! DEFINITION. The ROM of the management core: its program of "The thermal poll" (15_service.md), as R71
puts its instructions into bundles. -/

namespace Sys2Proof.Machine

/-- `mgmt_poll` up to the jump back to `tick`. -/
def romMain : List Instr :=
  [.sitea 20 0 0 13 7, .lui 21 64, .or 21 20 21, .addi 22 21 1024,
   .addi 23 21 1184, .lui 24 80, .or 24 20 24, .lui 8 12,
   .addi 8 8 1696, .now 25 0, .addi 10 0 0, .nop,
   .call 5, .nop, .addi 10 10 1, .addi 9 0 12,
   .blt 10 9 (-2), .add 25 25 8, .now 7 0, .blt 7 25 0,
   .j (-5), .nop]

/-- `group`: the hottest core of a group. -/
def romGroup : List Instr :=
  [.addi 11 0 3, .div 12 10 11, .rem 13 10 11, .addi 11 0 24,
   .mul 12 12 11, .slli 13 13 2, .add 12 12 13, .slli 12 12 3,
   .add 12 21 12, .lds 14 12 3 0 0 0, .lds 15 12 3 0 0 1, .max 14 14 15,
   .lds 15 12 3 0 0 2, .max 14 14 15, .lds 15 12 3 0 0 3, .max 14 14 15,
   .lds 15 12 3 0 0 12, .max 14 14 15, .lds 15 12 3 0 0 13, .max 14 14 15,
   .lds 15 12 3 0 0 14, .max 14 14 15, .lds 15 12 3 0 0 15, .max 14 14 15]

/-- The new step of a group, and the choice to keep it. -/
def romStep : List Instr :=
  [.slli 16 10 3, .add 16 22 16, .lds 17 16 3 0 0 0, .addi 19 0 1520,
   .blt 14 19 3, .addi 19 0 15, .beq 17 19 13, .addi 18 17 1,
   .j 3, .nop, .addi 19 0 1440, .blt 19 14 11,
   .beq 17 0 10, .addi 18 17 (-1)]

/-- `apply`: the step written and logged. -/
def romApply : List Instr :=
  [.sts 18 16 3 0 0, .lds 19 23 3 0 0 0, .slli 26 19 52, .srli 26 26 47,
   .add 26 24 26, .sts 25 26 3 0 0, .addi 27 0 16, .slli 27 27 48,
   .slli 28 10 8, .or 27 27 28, .slli 28 17 4, .or 27 27 28,
   .or 27 27 18, .sts 27 26 3 0 1, .sts 14 26 3 0 2, .addi 19 19 1,
   .sts 19 26 3 4 3, .nop, .ret, .nop]

/-- The bytes of the program. -/
def romCode : List Byte := (romMain ++ romGroup ++ romStep ++ romApply).flatMap encode

/-- A byte of the ROM: the program stands at its first bytes, which are the entry (log entry 13: DESIGN
CHOICE), and 0 behind it. -/
def romByte (off : Nat) : Byte := romCode.getD off 0

end Sys2Proof.Machine
end

