-- ==== Sys2Proof/Machine/State.lean ====
section
/-! DEFINITION. The state of the machine as plain data, and the state after reset.  The rules each
field follows are named beside it; INVENTORY.md lists them with their reset values. -/

namespace Sys2Proof.Machine

/-- Why the machine stops: an effect the spec does not give. -/
inductive Fault where
  /-- An uncorrectable error in the service SRAM: R263 gives it SECDED and R264 gives no effect for
  it.  Raised by UNCORRECTABLE_ERROR; safe. -/
  | errorWithoutEffect
  deriving DecidableEq, Repr

/-- Why an instruction is refused. -/
inductive Refusal where
  /-- an instruction that has no meaning yet; safe -/
  | notModelled (mnemonic : String)
  deriving DecidableEq, Repr

/-- A fault or trap: its cause code and `tval` (R309). -/
structure Trap where
  cause : Nat
  tval : Dword
  deriving DecidableEq, Repr

/-- The length and view registers (R150). -/
structure LenRegs where
  vl : Nat := 0
  rowc : Nat := 1
  colc : Nat := 0
  rowi : Nat := 0
  coli : Nat := 0
  /-- grp ‖ type -/
  vtype : BitVec 7 := 0
  deriving DecidableEq, Repr

/-- A vector, vector-memory or matrix instruction with everything it captured at issue (R160, R314). -/
structure QEntry where
  instr : Instr
  word : BitVec 32
  addr : BitVec 48
  joins : Bool
  /-- 0 arithmetic, 1 memory, 2 matrix -/
  queue : Nat
  /-- some element groups are done; the progress stands in `len` (rowi, coli) -/
  begun : Bool := false
  /-- its convoy has begun to execute (R161) -/
  live : Bool := false
  /-- the value of the register of the sa field -/
  sa : Dword
  /-- the value of the register of the sb field, or a `vldw`'s window head -/
  sb : Dword
  len : LenRegs
  rm : BitVec 3
  satfp : Bool
  /-- flags of the element groups completed so far -/
  flags : BitVec 6 := 0
  /-- the trap its reissue raises without being run (R315) -/
  bad : Option Trap := none
  /-- the indices of its elements, once it has read them (R159) -/
  idx : Option (List (BitVec 32)) := none
  /-- its place in program order: how many units its hart had completed when it issued (R310) -/
  order : Nat := 0
  deriving DecidableEq, Repr

/-- An imprecise trap waiting for the bundle boundary: the queue entry that raised it, if one did,
or that a posted store or message did (R308, R310). -/
structure Pend where
  entry : Option Nat
  trap : Trap
  /-- the place of its instruction in program order (R310) -/
  order : Nat := 0
  deriving DecidableEq, Repr

/-- What a scalar store, a message or a vector store left behind that will return as an imprecise
trap (R267, R230, R395). -/
structure Posted where
  /-- a ring-guard suppression; else a refusal or data error -/
  guard : Bool
  trap : Trap
  /-- the place of its instruction in program order (R310) -/
  order : Nat := 0
  deriving DecidableEq, Repr

/-- The convoy being formed (R43-R47). -/
structure Convoy where
  /-- the resources taken: LD, ST, VA, VB, SF, SL, MX from bit 0 -/
  used : BitVec 7 := 0
  /-- how many instructions took resources -/
  count : Nat := 0
  /-- a resynchronising instruction stands in it -/
  resync : Bool := false
  /-- `menter` or `mexit` stands in it -/
  mode : Bool := false
  /-- the next unit begins a new convoy whatever its K bit (R43) -/
  fresh : Bool := true
  deriving DecidableEq, Repr

/-- A job record (R324). -/
structure JobRec where
  /-- lanes: 4, 8, 16 or 32 -/
  width : Nat := 4
  steal : Bool := false
  /-- 1 grace -/
  policy : Bool := false
  grace : Nat := 0
  entry : BitVec 48 := 0
  deadline : Dword := 0
  a0 : Dword := 0
  a1 : Dword := 0
  a2 : Dword := 0
  a3 : Dword := 0
  /-- spill base in units of 64 B -/
  spill : Nat := 0
  compl : BitVec 48 := 0
  xce : Bool := false
  cap : Nat := 0
  save : BitVec 48 := 0
  exitCtr : Nat := 0
  /-- a reserved field is not 0 -/
  badReserved : Bool := false
  deriving DecidableEq, Repr

/-- What an access needs a page for. -/
inductive Kind where
  | read
  | write
  | fetch
  deriving DecidableEq, Repr

/-- The host page a job asked for, and the code of the response once it came (R413). -/
structure PageWait where
  /-- the number of the page request that answers it -/
  id : Nat
  va : Nat
  kind : Kind
  code : Option Nat := none
  deriving DecidableEq, Repr

/-- A page of a save area as translated at bind: frame, key number and cacheability (R336, R402). -/
structure SavePage where
  frame : Nat
  key : Nat
  cache : Nat := 0
  deriving DecidableEq, Repr

/-- A created job: its record, its identity, and where it stands (R326, R327, R339). -/
structure Job where
  record : JobRec := {}
  tenant : Nat := 0
  tree : BitVec 32 := 0
  job : BitVec 32 := 0
  /-- order of entry into its ready store -/
  arrival : Nat := 0
  /-- it has run before: it resumes from its save area -/
  ran : Bool := false
  /-- another core may steal it -/
  steal : Bool := false
  rank : Nat := 0
  size : Nat := 1
  /-- the lane block (first lane / 4) a job of a saved group keeps -/
  hid : Nat := 0
  /-- the core that last ran it, 255 when none did -/
  lastCore : Nat := 255
  /-- final pc and last cause so far, for the completion record -/
  finalPc : BitVec 48 := 0
  lastCause : Nat := 0
  jprog : Dword := 0
  /-- pages of its save area as translated at bind, by page index (R336) -/
  pages : List SavePage := []
  /-- core mask of its source (R333); all cores for one without -/
  mask : Nat := 2 ^ 96 - 1
  /-- the slot entry and slot number that made it, if one did -/
  slot : Option (Nat × Nat) := none
  /-- banks (16 · core + bank) that received its `vamo` elements since its last `vfence` (R302) -/
  banks : List Nat := []
  /-- the host pages it asked for and waits for -/
  page : List PageWait := []
  /-- the service complex still handles its trap (R363, R464) -/
  held : Bool := false
  /-- imprecise traps of its completed instructions that have not reached it yet (R271) -/
  posted : List Posted := []
  /-- how many of its units have completed -/
  units : Nat := 0
  /-- when its grace runs out, once it has entered its grace handler (R360) -/
  graceEnd : Option Nat := none
  deriving DecidableEq, Repr

/-- What an issue unit sees of its own fetch and pairing. -/
structure Ctx where
  /-- instruction address (R40) -/
  iaddr : BitVec 48 := 0
  /-- the instruction word -/
  iword : BitVec 32 := 0
  /-- the word stands in a paired bundle -/
  paired : Bool := false
  /-- it is word 0 of a paired bundle, so the unit goes on -/
  hold : Bool := false
  /-- the unit continues the convoy -/
  joins : Bool := false
  /-- a taken transfer of the unit -/
  npc : Option (BitVec 48) := none
  /-- scalar and length registers as they stood before the bundle (R38) -/
  snapS : Option (SMap Dword) := none
  snapLen : LenRegs := {}
  snapFcsr : Dword := 0
  /-- the trap the instruction raised, and at which check (R42) -/
  trap : Option Trap := none
  check : Nat := 0
  /-- the instruction could not complete and stays unexecuted -/
  stalled : Bool := false
  /-- it is word 1 of a paired bundle before which nothing was queued, so that what it waits for is word 0
  of its own bundle (R115) -/
  half : Bool := false
  /-- counters the unit has configured: they count from the cycle after it (R447) -/
  cfgd : List Nat := []
  deriving DecidableEq, Repr

/-- Where a hart's job stands (R32, R464, R140). -/
inductive Stage where
  /-- no job is bound -/
  | free
  | running
  /-- a trap of it is at the service complex -/
  | service
  /-- halted by `brk`, `halt` or a debug command -/
  | halted
  deriving DecidableEq, Repr

/-- Why a hart cannot issue. -/
inductive Block where
  | none
  /-- one of the waits of R432 -/
  | wait
  /-- a resynchronising access, or `brk`, `halt`, `exit`, `yield` waiting for retirement -/
  | resync
  /-- a page walk or an ATS request -/
  | walk
  /-- a full queue (R160) -/
  | queue
  /-- an access or a window instruction behind what waits in the queues, or `qfence` (R229, R278, R283,
  R305) -/
  | order
  deriving DecidableEq, Repr

/-- The trap registers (R116). -/
structure TrapRegs where
  tvec : BitVec 48 := 0
  tenab : BitVec 6 := 0
  grc : Bool := false
  imp : Bool := false
  inh : Bool := false
  tcause : BitVec 8 := 0
  tval : Dword := 0
  xpc : BitVec 48 := 0
  tscratch : Dword := 0
  deriving DecidableEq, Repr

/-- A posted message of `msg.sendv`, in flight or waiting at its sender's interface (R393-R395). -/
structure Message where
  /-- the core, 128 more for one of the twin; none when the address names no core site -/
  core : Option Nat
  window : Nat
  /-- the destination address -/
  dest : Dword
  header0 : Dword
  user : Dword
  payload : List Byte
  /-- the sender's hart key and tenant -/
  sender : Nat
  tenant : Nat
  /-- the place of its instruction in program order (R310) -/
  order : Nat := 0
  deriving DecidableEq, Repr

/-- One hart (R25, R107-R122, R145-R166). -/
structure Hart where
  core : Nat := 0
  /-- first lane / 4 -/
  hid : Nat := 0
  stage : Stage := .free
  /-- lanes; 0 while no job is bound -/
  width : Nat := 0
  pc : BitVec 48 := 0
  s : SMap Dword := []
  job : Job := {}
  jdl : Dword := BitVec.allOnes 64
  jprog : Dword := 0
  vsync : BitVec 48 := 0
  fcsr : Dword := 0
  tr : TrapRegs := {}
  /-- hardware return stack, oldest first (R119) -/
  rs : List (BitVec 48) := []
  spilled : Nat := 0
  /-- byte offset of the spill area, and its size in entries -/
  rsBase : Nat := 0
  rsCap : Nat := 0
  len : LenRegs := {}
  v : SMap (BitVec 8192) := []
  k : SMap (BitVec 16384) := []
  /-- mmode.on as executed, and as the decoder sees it (R216) -/
  mmode : Bool := false
  mview : Bool := false
  queue : List QEntry := []
  convoy : Convoy := {}
  linkGen : BitVec 8 := 0
  block : Block := .none
  blockedBy : Option Instr := none
  /-- how the wait under way has been decided: its condition was true first, or its limit came (R433) -/
  waitEnd : Option Bool := none
  pend : List Pend := []
  posted : List Posted := []
  expiry : Option Dword := none
  preempt : Bool := false
  /-- how many units of the job have completed: the place of the next one in program order (R310) -/
  units : Nat := 0
  /-- an issue unit has completed since the last event was raised (R310) -/
  ranSince : Bool := false
  graceEnd : Option Nat := none
  lastPc : BitVec 48 := 0
  outbox : List Message := []
  debugPc : BitVec 48 := 0
  /-- a debug session halted it -/
  debugHeld : Bool := false
  x : Ctx := {}
  deriving DecidableEq, Repr

/-- A reservation of a window: its rounded length, the bytes asked for, and those of them that have
not landed (R370). -/
structure Resv where
  start : BitVec 32
  len : Nat
  data : Nat
  todo : Nat
  deriving DecidableEq, Repr

/-- A window: descriptor and arrival state (R366, R367). -/
structure Window where
  mode : Nat := 0
  guard : Bool := false
  lsize : Nat := 0
  owner : Nat := 0
  base : Nat := 0
  head : BitVec 32 := 0
  origin : BitVec 32 := 0
  armed : Dword := 0
  cuts : BitVec 32 := 0
  claimed : Bool := false
  claimant : Nat := 0
  fill : BitVec 32 := 0
  tail : BitVec 32 := 0
  arrived : Dword := 0
  /-- reservations whose bytes have not all landed or passed, in order -/
  resv : List Resv := []
  /-- 64 B rows beyond tail that have been written, by their first counter value, and which bytes of
  them have been -/
  rows : List (BitVec 32 × BitVec 64) := []
  deriving DecidableEq, Repr

/-- A chunk on its way to a window (R370, R381, R382); the windows of the twin are those of cores
128 and above. -/
structure Packet where
  core : Nat
  window : Nat
  pos : BitVec 32
  data : List Byte
  /-- the spool and the serial number of the list that sent it -/
  list : Nat × Nat
  /-- the command that sent it, and the byte of its source the chunk begins at -/
  idx : Nat
  off : Nat
  /-- the tenant and the pages (base and size) its bytes were read through -/
  tenant : Nat := 0
  pages : List (Nat × Nat) := []
  /-- the invalidations that wait for it (R410) -/
  invals : List Nat := []
  deriving DecidableEq, Repr

/-- A TLB entry (R407). -/
structure TlbEntry where
  tenant : Nat
  va : Nat
  size : Nat
  leaf : Dword
  /-- a write may use it (R405) -/
  wr : Bool
  /-- host address of the page base, and the permissions ATS gave -/
  host : Nat := 0
  hostR : Bool := false
  hostW : Bool := false
  hostX : Bool := false
  deriving DecidableEq, Repr

/-- A line of a core's data or instruction cache (R258, R259). -/
structure CLine where
  /-- number of the line: its location key over the line size -/
  line : Nat
  /-- the key tag it was read under -/
  tag : Nat := 0
  data : List Byte := []
  /-- a scratchpad line: its bank was written since the line was filled or found -/
  written : Bool := false
  deriving DecidableEq, Repr

/-- A walk or ATS request that is outstanding, by the hart key of its requester (R408). -/
structure WalkReq where
  hart : Nat
  tenant : Nat
  va : Nat
  kind : Kind
  deriving DecidableEq, Repr

/-- An ATS Translation Request in flight for a miss of a group and those that joined it (R408, R412). -/
structure AtsReq where
  req : WalkReq
  pasid : Nat := 0
  /-- the requesters it answers, the first one among them -/
  joined : List WalkReq := []
  /-- the leaf its walk read, where it stands, and its page's size (R405, R412) -/
  leaf : Nat := 0
  pa : Nat := 0
  size : Nat := 4096
  /-- an invalidation of its page came after it was sent (R410) -/
  stale : Bool := false
  deriving DecidableEq, Repr

/-- The refusal of a walk that its requester has still to take (R408, R412, R413). -/
structure WalkFault where
  req : WalkReq
  cause : Nat
  deriving DecidableEq, Repr

/-- A PRI page request group (R413). -/
structure PageReq where
  pasid : Nat
  va : Nat
  kind : Kind
  /-- the number of the request -/
  id : Nat := 0
  deriving DecidableEq, Repr

/-- An invalidation whose completion is still to be reported (R410). -/
structure Inval where
  tenant : Nat
  va : Nat
  size : Nat
  /-- it came from the host as an ATS Invalidate Request; else from a command -/
  host : Bool := true
  /-- the number that the uses it waits for bear -/
  id : Nat := 0
  deriving DecidableEq, Repr

/-- A tree (R326, R327, R352, R358). -/
structure Tree where
  tenant : Nat := 0
  deadline : Dword := 0
  abandoned : Bool := false
  /-- it was abandoned by `abandon` at this time -/
  began : Option Dword := none
  deriving DecidableEq, Repr

/-- A launch queue (R328, R329). -/
structure LaunchQ where
  created : Bool := false
  tenant : Nat := 0
  base : Dword := 0
  size : Nat := 0
  mask : Nat := 0
  share : Nat := 0
  head : BitVec 32 := 0
  tail : BitVec 32 := 0
  stopped : Bool := false
  deriving DecidableEq, Repr

/-- A slot launch table entry (R423). -/
structure Slot where
  enable : Bool := false
  period : Nat := 0
  tenant : Nat := 0
  phase : Dword := 0
  lead : Nat := 0
  offset : Nat := 0
  mask : Nat := 0
  created : Dword := 0
  skipped : Dword := 0
  /-- the template record -/
  template : BitVec 512 := 0
  /-- the number of the next slot to create (R332) -/
  next : Nat := 0
  deriving DecidableEq, Repr

/-- The states of a dependence counter (R355). -/
inductive DepState where
  | idle
  | pending
  | done
  | error
  | dropped
  deriving DecidableEq, Repr

/-- A dependence counter (R355, R431). -/
structure DepCounter where
  owner : Nat := 0
  state : DepState := .idle
  count : Nat := 0
  tree : BitVec 32 := 0
  tenant : Nat := 0
  copy : Option JobRec := none
  deriving DecidableEq, Repr

/-- A gang request (R343, R344). -/
structure GangReq where
  tenant : Nat
  tree : BitVec 32
  record : JobRec
  mask : Nat
  /-- job id of each member in rank order -/
  ids : List (BitVec 32)
  /-- lane blocks held: core and first lane / 4 -/
  held : List (Nat × Nat) := []
  arrival : Nat
  deriving DecidableEq, Repr

/-- The jobs saved with one core image (R365). -/
structure SavedGroup where
  tenant : Nat
  image : Dword
  jobs : List Job
  deriving DecidableEq, Repr

/-- A deadline request on its way to the dispatcher (R353). -/
structure SetdlReq where
  tree : BitVec 32
  deadline : Dword
  deriving DecidableEq, Repr

/-- A lend in progress (R362). -/
structure Lending where
  borrower : Nat
  time : Dword
  image : Dword
  /-- the host function and seq waiting for its result -/
  fn : Nat
  seq : BitVec 32
  deriving DecidableEq, Repr

/-- What a spool list is doing between its commands. -/
inductive SpoolMove where
  | idle
  /-- a PUSH: byte offset of the next chunk in the source -/
  | push (off : Nat)
  /-- an MCAST under way: offset, and the accepting receivers with their next counter value -/
  | mcast (off : Nat) (dests : List (Nat × Nat × BitVec 32))
  deriving DecidableEq, Repr

/-- How a list ends before its END (R380, R383). -/
structure SpoolFail where
  status : Nat
  offset : Nat
  /-- index of the failing command -/
  idx : Nat
  deriving DecidableEq, Repr

/-- A command list on a spool (R379, R384). -/
structure SpoolList where
  serial : Nat
  addr : Dword
  tenant : Nat
  tree : BitVec 32
  /-- posted by the host or firmware: no tree -/
  hostPost : Bool := false
  job : BitVec 32 := 0
  rt : Bool := false
  /-- posted from a grace handler: abandonment does not cancel it (R360) -/
  grace : Bool := false
  running : Bool := false
  idx : Nat := 0
  /-- source: base, run length, counts and strides of dimensions 1 to 3 -/
  base : Dword := 0
  run : Nat := 0
  cnt1 : Nat := 1
  cnt2 : Nat := 1
  cnt3 : Nat := 1
  str1 : Dword := 0
  str2 : Dword := 0
  str3 : Dword := 0
  gather : Option (Dword × Nat) := none
  hasSrc : Bool := false
  /-- destination: twin, form, x0, y0, x1, y1, window, mask -/
  hasDst : Bool := false
  twin : Bool := false
  rect : Bool := false
  x0 : Nat := 0
  y0 : Nat := 0
  x1 : Nat := 0
  y1 : Nat := 0
  window : Nat := 0
  dmask : Dword := 0
  /-- conversion: source and target type codes, rm, satfp -/
  conv : Option (Nat × Nat × BitVec 3 × Bool) := none
  loop0 : Option Nat := none
  loop1 : Option Nat := none
  /-- `spl.mcast`: every receiver mask is ANDed with it -/
  andMask : Dword := BitVec.allOnes 64
  refused : Dword := 0
  refusedIdx : Nat := 0
  delivered : Nat := 0
  move : SpoolMove := .idle
  /-- waiting in WAITD, AT or for window space -/
  waiting : Bool := false
  /-- a list made by `spl.push` or COPY: its commands are PUSH and END -/
  single : Bool := false
  /-- a COPY: destination address -/
  copyTo : Option Dword := none
  /-- the record address given at the post -/
  recAddr : Dword := 0
  /-- it has ended; what `spl.stat` reports of it stays -/
  ended : Bool := false
  fail : Option SpoolFail := none
  cancel : Bool := false
  /-- the host function and seq a COPY answers -/
  fn : Option (Nat × BitVec 32) := none
  deriving DecidableEq, Repr

/-- A page of a coding command as translated at its post: virtual base, location of its first byte, key tag and
cacheability, and the base and size of its leaf's page (R392, R402, R410). -/
structure CodePage where
  base : Nat
  loc : Nat
  tag : Nat
  cache : Nat := 0
  leaf : Nat × Nat := (base, 4096)
  deriving DecidableEq, Repr

/-- A coding command with the translations made at its post (R390, R392). -/
structure CodingCmd where
  cmd : BitVec 512
  tenant : Nat
  tree : BitVec 32
  job : BitVec 32
  core : Nat
  grace : Bool
  pages : List CodePage
  /-- the invalidations that wait for it (R410) -/
  invals : List Nat := []
  deriving DecidableEq, Repr

/-- A coding engine (R389). -/
structure Engine where
  running : Option CodingCmd := none
  queue : List CodingCmd := []
  /-- tenants that may not use it -/
  denied : Dword := 0
  deriving DecidableEq, Repr

/-- A barrier object (R434, R104). -/
structure Barrier where
  owner : Nat := 0
  expected : Nat := 0
  count : Nat := 0
  phases : BitVec 32 := 0
  acc0 : BitVec 2176 := 0
  /-- NaN, +∞ and −∞ contributions, from bit 0 -/
  flags0 : BitVec 3 := 0
  acc1 : BitVec 2176 := 0
  flags1 : BitVec 3 := 0
  iacc : Dword := 0
  res0 : Dword := 0
  res1 : Dword := 0
  resi : Dword := 0
  deriving DecidableEq, Repr

/-- An arrival on its way to its barrier unit (R438). -/
structure Arrival where
  object : Nat
  /-- 0 none, 1 fsum, 2 fsum2, 3 isum -/
  form : Nat
  x : Dword
  y : Dword
  /-- the sender, by hart key, its tenant, and the register that takes the handle -/
  hart : Nat
  tenant : Nat
  sd : BitVec 5
  deriving DecidableEq, Repr

/-- A tenant entry (R415). -/
structure TenantEntry where
  valid : Bool := false
  /-- root physical address -/
  root : Nat := 0
  weight : Nat := 1
  pv : Bool := false
  pasid : Nat := 0
  deriving DecidableEq, Repr

/-- A core entry (R416). -/
structure CoreEntry where
  borrower : Nat := 0
  lent : Bool := false
  part : Nat := 0
  fenced : Bool := false
  owner : Nat := 0
  deriving DecidableEq, Repr

/-- A key table entry (R418). -/
structure KeyEntry where
  valid : Bool := false
  tenant : Nat := 0
  key : BitVec 512 := 0
  deriving DecidableEq, Repr

/-- A fenced-site routing entry (R425). -/
structure Route where
  valid : Bool := false
  fx : Nat := 0
  fy : Nat := 0
  wx : Nat := 0
  wy : Nat := 0
  deriving DecidableEq, Repr

/-- A bridle entry (R419): its two configuration dwords and its counters. -/
structure Bridle where
  cfg0 : Dword := 0
  cfg1 : Dword := 0
  frames : BitVec 32 := 0
  late : BitVec 16 := 0
  dropped : BitVec 16 := 0
  early : BitVec 16 := 0
  saturated : BitVec 16 := 0
  deriving DecidableEq, Repr

/-- An Ethernet port (R482, R483). -/
structure Port where
  vlanTag : Bool := false
  vlanId : BitVec 12 := 0
  mode : BitVec 2 := 0
  station : BitVec 48 := 0
  peer : BitVec 48 := 0
  unmatched : BitVec 32 := 0
  fcs : BitVec 32 := 0
  /-- eCPRI sequence number of each eAxC id -/
  seq : SMap (BitVec 8) := []
  /-- timestamps of the last frame received and of the last one sent, in 2^-16 ns (R484) -/
  stampIn : Nat := 0
  stampOut : Nat := 0
  deriving DecidableEq, Repr

/-- A performance counter (R445). -/
structure Pmc where
  count : BitVec 48 := 0
  select : BitVec 16 := 0
  deriving DecidableEq, Repr

/-- A journal entry (R459). -/
structure JEntry where
  seq : BitVec 32
  op : Nat
  /-- 0 started, 1 done, 2 interrupted -/
  state : Nat
  status : Nat
  r0 : Dword
  r1 : Dword
  /-- device time of the commit (R452, R460) -/
  time : Nat
  deriving DecidableEq, Repr

/-- A PCI Express function: BAR0 and journal (R475, R459). -/
structure Fn where
  ring : Dword := 0
  order : Nat := 4
  results : Dword := 0
  tail : BitVec 32 := 0
  head : BitVec 32 := 0
  resTail : BitVec 32 := 0
  err : Bool := false
  /-- the tail must be written again after an error -/
  needTail : Bool := false
  journal : List JEntry := []
  highest : Option (BitVec 32) := none
  /-- MSI-X messages sent -/
  msix : Nat := 0
  /-- ballast has stopped serving it -/
  halted : Bool := false
  deriving DecidableEq, Repr

/-- A host command taken by a service core (R452). -/
structure Command where
  fn : Nat
  seq : BitVec 32
  op : Nat
  /-- a reserved bit of its header is not 0 -/
  bad : Bool
  p0 : Dword
  p1 : Dword
  p2 : Dword
  p3 : Dword
  p4 : Dword
  p5 : Dword
  p6 : Dword
  deriving DecidableEq, Repr

/-- A command that a service core, or ballast (12), is handling, and when it took it (R450, R462). -/
structure Handled where
  core : Nat
  since : Nat
  cmd : Command
  deriving DecidableEq, Repr

/-- The deferred work of a command (R458). -/
inductive DeferKind where
  /-- nothing is left but the result -/
  | done (status : Nat) (r0 r1 : Dword)
  /-- a LEND: its core -/
  | lend (core : Nat)
  /-- a COPY: spool and list serial -/
  | copy (spool serial : Nat)
  /-- a RECLAIM: its core -/
  | reclaim (core : Nat)
  /-- a FENCE: its core -/
  | fence (core : Nat)
  /-- a PT_ATTACH: the tenant whose old translations are being invalidated (R410) -/
  | inval (tenant : Nat)
  deriving DecidableEq, Repr

/-- A deferred command, committed at a device time. -/
structure Deferred where
  fn : Nat
  seq : BitVec 32
  op : Nat
  time : Nat
  kind : DeferKind
  deriving DecidableEq, Repr

/-- The events of the service complex (R449). -/
inductive SvcEvent where
  | command (fn : Nat)
  /-- a trap of a job -/
  | trap (job : BitVec 32)
  /-- the host's answer to a numbered page request: 0 Success, 1 Invalid Request, else Response Failure -/
  | prg (id code : Nat)
  /-- the deferred work of a command has finished -/
  | completion (fn : Nat) (seq : BitVec 32)
  | timer
  deriving DecidableEq, Repr

/-- A combining entry (R301). -/
structure Combine where
  /-- location key of the word -/
  loc : Nat
  core : Nat
  bytes : Nat
  /-- 0 add, 1 min, 2 max, 3 or, 4 xor -/
  op : Nat
  signed : Bool
  operand : Dword
  /-- device time of its allocation -/
  time : Nat
  deriving DecidableEq, Repr

/-- A `vamo` element on its way to its bank (R300, R301). -/
structure VamoElem where
  loc : Nat
  core : Nat
  off : Nat
  bytes : Nat
  op : Nat
  signed : Bool
  operand : Dword
  sender : Nat
  /-- the job that sent it, and the place of its instruction in program order (R302, R310) -/
  job : BitVec 32 := 0
  order : Nat := 0
  deriving DecidableEq, Repr

/-- A link tag of a slice (R297): hart key, generation and line. -/
structure LinkTag where
  hart : Nat
  gen : BitVec 8
  line : Nat
  deriving DecidableEq, Repr

/-- A ticket watch (R443): hart key, word with its key tag, the ticket waited for, and whether a
read of the word has returned it. -/
structure Watch where
  hart : Nat
  loc : Nat
  tag : Nat
  ticket : Dword
  seen : Bool := false
  deriving DecidableEq, Repr

/-- A received frame with its headers taken apart (R396, R420, R481; log entry 31: DESIGN CHOICE). -/
structure Frame where
  port : Nat
  fcsOk : Bool := true
  /-- destination MAC address, its first octet highest -/
  dest : BitVec 48 := 0
  /-- how many IEEE 802.1Q tags it has -/
  tags : Nat := 0
  /-- the bytes it carries -/
  length : Nat := 0
  /-- a PTP frame -/
  isPtp : Bool := false
  /-- an eCPRI frame of header revision 1 -/
  ecpri : Bool := true
  /-- eCPRI message type -/
  msgType : Nat := 0
  eaxc : Nat := 0
  frame : Nat := 0
  subframe : Nat := 0
  slot : Nat := 0
  symbol : Nat := 0
  sect : Nat := 0
  prbs : Nat := 0
  startPrb : Nat := 0
  payload : List Byte := []
  /-- how long before it is taken in its first bit came, in 2^-16 ns: its timestamp is the device time of
  then (R484) -/
  age : Nat := 0
  deriving DecidableEq, Repr

/-- A transmitted frame (R397, R482, R483). -/
structure Sent where
  port : Nat
  dest : BitVec 48
  source : BitVec 48
  vlan : Option (BitVec 12)
  /-- C-plane -/
  cplane : Bool
  eaxc : Nat
  seq : BitVec 8
  payload : List Byte
  deriving DecidableEq, Repr

/-- What the world outside the device does to it, in the order it does it. -/
inductive Input where
  | powerOn
  | deviceReset
  /-- an uncorrectable error in the word of device memory or a scratchpad at a location -/
  | error (loc : Nat)
  /-- one in the vector register file or a mask file of a core -/
  | coreError (core : Nat)
  /-- one in an entry, counted from the oldest, of the return stack of a hart -/
  | stackError (hart entry : Nat)
  /-- one in the service SRAM -/
  | sramError
  /-- one in a clean line of the instruction cache or the scalar data cache of a core -/
  | lineError (core : Nat) (fetch : Bool) (line : Nat)
  /-- an error that ECC corrected, in a channel -/
  | corrected (channel : Nat)
  /-- the answer to the request that stands at a place of those in flight, counted round -/
  | atsCompletion (nth hpa size : Nat) (readOk writeOk execOk abort : Bool)
  | prgResponse (nth code : Nat)
  | invalidate (fn : Nat) (va size : Nat)
  | frame (f : Frame)
  /-- a PTP message; its first bit came when the master's time was `master`, `age` before it is taken in (2^-16 ns) -/
  | ptp (port master age : Nat)
  | esmc (port : Nat) (ql : Nat)
  | timeStep (time : Dword)
  | lock (state : Nat)
  | flitReplay (link : Nat)
  | linkRetrain (link : Nat) (half : Bool)
  | tetherDown
  | tetherUp
  /-- a host write of a BAR register or doorbell: function, BAR, offset, value -/
  | bar0 (fn off : Nat) (value : Dword)
  | bar2 (fn off : Nat) (value : Dword)
  /-- a host write of host memory -/
  | hostStore (addr : Nat) (bytes : List Byte)
  /-- over the tether: a write by the twin of a location of this device (R479) -/
  | twinStore (loc cache : Nat) (bytes : List Byte)
  /-- a chunk that a list of the twin pushes into a window of this device -/
  | twinPush (core window tenant : Nat) (bytes : List Byte)
  /-- a list that a hart of the twin posts to this device's spools (R384, R479) -/
  | twinList (addr : Dword) (tenant : Nat) (job : BitVec 32) (mask : Dword) (rt : Bool)
  /-- a message of the twin: its header, its user word and its payload -/
  | twinMessage (core window tenant : Nat) (header user : Dword) (payload : List Byte)
  /-- a telemetry claim by a service core or hardware unit -/
  | claim
  | firmwareTimer
  /-- a service core hangs on the command it is handling -/
  | hang (core : Nat)
  | serviceRestart
  | temperature (sensor : Nat) (value : Dword)
  | power (watts : Nat)
  | priReenable
  /-- the service complex selects the port of PTP and SyncE (R485) -/
  | selectPort (n : Nat)
  /-- the host sets its outstanding page request allocation (R413) -/
  | priAllocation (n : Nat)
  /-- a command of the service complex's own: fence a core -/
  | fence (core : Nat)
  | drainTimeout (core : Nat)
  /-- an 8-byte store of a service core to a site address (R251, R448) -/
  | store (addr : Dword) (value : Dword)
  deriving DecidableEq, Repr

/-- Which agent moves next. -/
inductive Turn where
  | hart
  | device
  deriving DecidableEq, Repr

/-- The dispatcher and the ready stores (11_jobs.md). -/
structure Disp where
  trees : SMap (Option Tree) := []
  nextTree : BitVec 32 := 1
  /-- jobs created by each creator (core index, or 255) -/
  seqs : SMap (BitVec 24) := []
  pool : List Job := []
  queues : SMap LaunchQ := []
  tenantCredit : SMap Int := []
  queueCredit : SMap Int := []
  slots : SMap Slot := []
  counters : SMap DepCounter := []
  gangs : List GangReq := []
  saved : List SavedGroup := []
  reclaimAt : SMap (Option Dword) := []
  setdl : List SetdlReq := []
  /-- ready store of each core, spawn end first within a deadline -/
  ready : SMap (List Job) := []
  arrivals : Nat := 0
  /-- steal positions: last core asked in the own group and among the others -/
  stealOwn : SMap Nat := []
  stealOther : SMap Nat := []
  /-- cores asked since a record last entered a store of the tenant -/
  stealAsked : SMap Nat := []
  /-- the victim a core's request is at -/
  stealReq : SMap (Option Nat) := []
  /-- a record granted and on its way to the thief -/
  stealGrant : SMap (Option Job) := []
  lending : SMap (Option Lending) := []
  /-- cores under reclaim whose harts have not all stopped (R363 step 1) -/
  reclaims : List Nat := []
  imageArea : SMap Dword := []
  deriving DecidableEq, Repr

/-- The tables and translation state (13_tables.md). -/
structure Tables where
  tenants : SMap TenantEntry := []
  cores : SMap CoreEntry := []
  /-- the twin's core entries -/
  twinCores : SMap CoreEntry := []
  keys : SMap KeyEntry := []
  routes : SMap Route := []
  coreTlb : SMap (List TlbEntry) := []
  groupTlb : SMap (List TlbEntry) := []
  walks : List WalkReq := []
  ats : List AtsReq := []
  faults : List WalkFault := []
  /-- page requests in order: the controller holds 512, of which the host's allocation are outstanding (R413) -/
  pri : List PageReq := []
  priOff : Bool := false
  priSerial : Nat := 0
  /-- the host's outstanding page request allocation -/
  priAlloc : Nat := 512
  /-- invalidations whose completion is still to be reported -/
  invals : List Inval := []
  /-- how many invalidations there have been -/
  invalSerial : Nat := 0
  /-- Invalidate Completions sent -/
  invalDone : Nat := 0
  deriving DecidableEq, Repr

/-- A record that waits for the translation of its host page. -/
structure LateWrite where
  tenant : Nat
  va : Nat
  bytes : List Byte
  /-- the page request that asks for its page, once one does -/
  asked : Option Nat := none
  deriving DecidableEq, Repr

/-- Spools, coding engines, messages, ports and windows (12_engines.md). -/
structure Engines where
  /-- completion records whose host page is being translated -/
  late : List LateWrite := []
  /-- windows of each core: key 16·core + number -/
  windows : SMap Window := []
  flight : List Packet := []
  lists : SMap (List SpoolList) := []
  serial : Nat := 0
  coding : SMap Engine := []
  messages : List Message := []
  bridles : SMap Bridle := []
  ports : SMap Port := []
  /-- frames transmitted, newest first -/
  sent : List Sent := []
  deriving DecidableEq, Repr

/-- The service complex, the host functions and management (15_service.md). -/
structure Service where
  /-- the event queue of 1,024 entries, oldest first -/
  events : List SvcEvent := []
  /-- events their sources hold while the queue is full -/
  held : List SvcEvent := []
  /-- the commands in hand, one of a queue at most; the next to be worked on first -/
  cmds : List Handled := []
  fns : SMap Fn := []
  deferred : List Deferred := []
  /-- partitions with a debug session -/
  sessions : List Nat := []
  restarting : Bool := false
  /-- when the watchdog expired (R462) -/
  expiredAt : Nat := 0
  /-- the service cores are ready to go on, once ballast has finished the command it has taken (R463) -/
  restartDue : Bool := false
  /-- a service core is hung -/
  hung : Option Nat := none
  ballastTurn : Nat := 0
  /-- notices to functions: result entries are in host memory; these are counted -/
  throttle : SMap (BitVec 4) := []
  sensors : SMap Dword := []
  trip : Bool := false
  powerStep : Nat := 0
  powerLimit : Nat := 300
  power : Nat := 0
  claim : BitVec 32 := 0
  /-- steps of the bring-up that are done -/
  boot : Nat := 0
  ready : Bool := false
  deriving DecidableEq, Repr

/-- The time unit (R427, R428, R485). -/
structure TimeUnit where
  now : BitVec 64 := 0
  frac : BitVec 16 := 0
  /-- 0 free-running, 1 locked, 2 holdover -/
  lock : Nat := 0
  stepped : Bool := false
  /-- offset still to be removed, in 2^-16 ns -/
  slew : Int := 0
  port : Nat := 0
  ssm : Nat := 0
  deriving DecidableEq, Repr

/-- The whole machine. -/
structure State where
  /-- the hart in focus, and every other one by 8·core + hartid (the management core is hart 768) -/
  hart : Hart := {}
  others : SMap Hart := []
  turn : Turn := .hart
  /-- inputs still to come, each with the device time from which it is there -/
  inputs : List (Nat × Input) := []
  /-- how far device time advances at each of the next steps, in 2^-16 ns -/
  ticks : List Nat := []
  time : TimeUnit := {}
  mem : List Host.Cell := []
  /-- 64-bit words (location key / 8) that hold an uncorrectable error -/
  bad : List Nat := []
  eccCount : SMap Nat := []
  /-- lines of 128 B in the instruction cache of each core, newest first (R259) -/
  icache : SMap (List CLine) := []
  /-- lines of 64 B in the scalar data cache of each core, newest first (R258) -/
  dcache : SMap (List CLine) := []
  /-- device memory lines in each set of each slice (1,536 · slice + set), last used first (R28, R260) -/
  slices : SMap (List Nat) := []
  links : SMap (List LinkTag) := []
  watches : SMap (List Watch) := []
  vamos : List VamoElem := []
  combine : SMap (List Combine) := []
  barriers : SMap Barrier := []
  arrivals : List Arrival := []
  pmc : SMap Pmc := []
  tetherUp : Bool := false
  twinRole : Bool := false
  /-- mesh links at half width -/
  meshHalf : List Nat := []
  /-- cores to be fenced: an error was found, a drain timed out, or firmware asked (R321) -/
  fenceReq : List Nat := []
  /-- times of the replays of each link within the last ms -/
  replays : SMap (List Nat) := []
  disp : Disp := {}
  tab : Tables := {}
  eng : Engines := {}
  svc : Service := {}
  free : Nat := 0
  deriving DecidableEq, Repr

/-- The machine right after reset: every table at its reset value, every core in partition 0 of tenant 0,
no job bound, and none of the steps of the bring-up (R473) done yet. -/
def State.reset : State := { tab := { tenants := [(0, { valid := true })] } }

end Sys2Proof.Machine
end

