-- ==== Sys2Proof/Machine/Mem.lean ====
section
/-! DEFINITION. Sparse tables, the locations of the device's storage and its bytes. -/

namespace Sys2Proof.Machine

/-- The value a table holds at a key, `d` where it lists none. -/
def mapGet {α : Type} (d : α) (m : SMap α) (k : Nat) : α :=
  match m with
  | [] => d
  | p :: t => if p.1 = k then p.2 else mapGet d t k

/-- A table without its entry at a key. -/
def mapErase {α : Type} (m : SMap α) (k : Nat) : SMap α := m.filter (fun p => p.1 != k)

/-- A table with an entry put before the first greater key. -/
def mapInsert {α : Type} (m : SMap α) (k : Nat) (v : α) : SMap α :=
  match m with
  | [] => [(k, v)]
  | p :: t => if k < p.1 then (k, v) :: p :: t else p :: mapInsert t k v

/-- A table with one value changed; the default value is not listed. -/
def mapSet {α : Type} [DecidableEq α] (d : α) (m : SMap α) (k : Nat) (v : α) : SMap α :=
  if v = d then mapErase m k else mapInsert (mapErase m k) k v

/-- A table with one value replaced by a function of it. -/
def mapUpd {α : Type} [DecidableEq α] (d : α) (m : SMap α) (k : Nat) (f : α → α) : SMap α :=
  mapSet d m k (f (mapGet d m k))

/-! ### Locations (R280)

A location key is one natural number: device memory stands at its physical address, and every other
store at a base of its own. -/

/-- R253: the bytes of device memory. -/
def dramSize : Nat := 192 * 2 ^ 30

/-- Byte of a core's scratchpad (R255). -/
def spadLoc (core off : Nat) : Nat := 2 ^ 48 + core * 2 ^ 20 + off

/-- Byte of the twin's device memory. -/
def twinLoc (pa : Nat) : Nat := 2 ^ 49 + pa

/-- Byte of a scratchpad of the twin. -/
def twinSpadLoc (core off : Nat) : Nat := 2 ^ 50 + core * 2 ^ 20 + off

/-- Byte of the firmware ROM (R448). -/
def romLoc (off : Nat) : Nat := 2 ^ 51 + off

/-- Byte of the telemetry ring (R468). -/
def ringLoc (off : Nat) : Nat := 2 ^ 52 + off

/-- Byte of host memory. -/
def hostLoc (a : Nat) : Nat := 2 ^ 80 + a

/-- The location is one of this device's memory. -/
def isDram (l : Nat) : Bool := l < dramSize

/-- The location is one of a scratchpad of this device. -/
def isSpad (l : Nat) : Bool := 2 ^ 48 ≤ l && l < 2 ^ 49

/-- The location is one of a scratchpad of the twin. -/
def isTwinSpad (l : Nat) : Bool := 2 ^ 50 ≤ l && l < 2 ^ 51

/-- The location is one of the twin's. -/
def isTwin (l : Nat) : Bool := 2 ^ 49 ≤ l && l < 2 ^ 51

/-- The location is one of host memory. -/
def isHost (l : Nat) : Bool := 2 ^ 80 ≤ l

/-- The core whose scratchpad holds a location. -/
def spadCore (l : Nat) : Nat := (l - 2 ^ 48) / 2 ^ 20

/-- The offset of a scratchpad location. -/
def spadOff (l : Nat) : Nat := (l - 2 ^ 48) % 2 ^ 20

/-- R260: the home slice of a device physical address (R261). -/
def homeSlice (pa : Nat) : Nat :=
  let g := pa / 1024
  let t := (List.range 10).foldl (fun t j => t ^^^ (g / 8 ^ j % 8)) 0
  8 * (g % 3) + t

/-! ### Bytes -/

/-- What a byte that nothing has written reads as: the ROM's contents in the ROM, 0 elsewhere (log entry 1:
DESIGN CHOICE). -/
def emptyByte (l : Nat) : Byte := if romLoc 0 ≤ l && l < romLoc (2 ^ 21) then romByte (l - romLoc 0) else 0

/-- The byte at a location. -/
def memByte (m : List Host.Cell) (l : Nat) : Byte := mapGet (emptyByte l) m l

/-- The canonical form: addresses strictly rising, and no entry that an unlisted address equals. -/
def memWf : List Host.Cell → Bool
  | [] => true
  | p :: t => p.2 != emptyByte p.1 && t.all (fun q => p.1 < q.1) && memWf t

/-- The cells of a run of bytes from an address on. -/
def cellsOf : Nat → List Byte → List Host.Cell
  | _, [] => []
  | l, b :: t => if b = emptyByte l then cellsOf (l + 1) t else (l, b) :: cellsOf (l + 1) t

/-- A run of bytes written at an address. -/
def putBytes (m : List Host.Cell) (l : Nat) (bs : List Byte) : List Host.Cell :=
  m.filter (fun p => p.1 < l) ++ cellsOf l bs ++ m.filter (fun p => l + bs.length ≤ p.1)

/-- A run of bytes read at an address. -/
def getBytes (m : List Host.Cell) (l n : Nat) : List Byte := (List.range n).map (fun i => memByte m (l + i))

/-- The natural number little-endian bytes make (R4). -/
def natOfBytes (bs : List Byte) : Nat := bs.foldr (fun b n => b.toNat + 256 * n) 0

/-- The `n` little-endian bytes of a natural number (R4). -/
def bytesOfNat (n x : Nat) : List Byte := (List.range n).map (fun i => BitVec.ofNat 8 (x / 256 ^ i))

/-! ### Encryption of keyed pages (R418, log entry 11: DESIGN CHOICE)

Memory holds what is stored: the ciphertext of what was written under a key. -/

/-- The 16-byte block that holds a byte, as it is stored. -/
def storedBlock (s : State) (l : Nat) : BitVec 128 :=
  BitVec.ofNat 128 (natOfBytes (getBytes s.mem (l / 16 * 16) 16))

/-- A byte of a 16-byte block. -/
def blockByte (x : BitVec 128) (l : Nat) : Byte := x.extractLsb' (8 * (l % 16)) 8

/-- A byte as a requester using key tag `t` sees it: deciphered, where it is device memory. -/
def plainByte (s : State) (t l : Nat) : Byte :=
  if t = 0 || !isDram l then memByte s.mem l
  else blockByte ((Config.cipher t (l / 16)).symm (storedBlock s l)) l

/-- A byte as a requester using key tag `t` sees it once bytes are written at `l`. -/
def bytesOver (s : State) (t l : Nat) (bs : List Byte) (a : Nat) : Byte :=
  if l ≤ a ∧ a < l + bs.length then bs.getD (a - l) 0 else plainByte s t a

/-- A byte as it is stored once bytes are written at `l` under key tag `t`: its block enciphered again. -/
def storedByte (s : State) (t l : Nat) (bs : List Byte) (a : Nat) : Byte :=
  if isDram a then
    blockByte (Config.cipher t (a / 16) (BitVec.ofNat 128 (natOfBytes
      ((List.range 16).map (fun j => bytesOver s t l bs (a / 16 * 16 + j)))))) a
  else bytesOver s t l bs a

/-- The stored bytes once bytes are written at a location: in device memory under a key, every 16-byte block
they touch. -/
def memWith (s : State) (t l : Nat) (bs : List Byte) : List Host.Cell :=
  if t = 0 || !isDram l then putBytes s.mem l bs
  else
    let base := l / 16 * 16
    putBytes s.mem base ((List.range ((l % 16 + bs.length + 15) / 16 * 16)).map (fun i =>
      storedByte s t l bs (base + i)))

/-- `n` bytes at a location, or none where one of its 64-bit words holds an uncorrectable error
(R264). -/
def readLoc (s : State) (t l n : Nat) : Option (List Byte) :=
  if s.bad.any (fun w => l / 8 ≤ w && w ≤ (l + n - 1) / 8) then none
  else some ((List.range n).map (fun i => plainByte s t (l + i)))

/-- R443: a watch reads its word again. -/
def Watch.look (w : Watch) (s : State) : Watch :=
  { w with seen := w.seen ||
      natOfBytes ((List.range 8).map (fun i => plainByte s w.tag (w.loc + i))) == w.ticket.toNat }

/-- R443: a write of `n` bytes re-reads every watched word it touches. -/
def lookWatches (s : State) (l n : Nat) : State :=
  { s with watches := s.watches.map (fun p => (p.1, p.2.map (fun w =>
      if l < w.loc + 8 && w.loc < l + n then w.look s else w))) }

/-- R265: the errors a write of `n` bytes leaves: those of the words it does not cover whole. -/
def errorsLeft (bad : List Nat) (l n : Nat) : List Nat := bad.filter (fun w => 8 * w < l || l + n < 8 * w + 8)

/-- R258: a scratchpad write updates or invalidates the lines of it that the core's data cache holds;
which of the two shows at the next load (log entry 33: DESIGN CHOICE). -/
def markWritten (c : SMap (List CLine)) (l n : Nat) : SMap (List CLine) :=
  if isSpad l && c.any (fun p => p.1 == spadCore l && p.2.any (fun x => l < 64 * x.line + 64 && 64 * x.line < l + n)) then
    c.map (fun p => if p.1 = spadCore l then (p.1, p.2.map (fun x =>
      if l < 64 * x.line + 64 && 64 * x.line < l + n then { x with written := true } else x)) else p)
  else c

/-- A run of bytes written at a location under a key tag, without any check; links of the lines break (R297),
watched words are read again, the errors of the words it covers are gone (R265), and the data cache of a
scratchpad's core is told (R258). -/
def pokeLoc (s : State) (t l : Nat) (bs : List Byte) : State :=
  lookWatches { s with
    mem := memWith s t l bs
    bad := errorsLeft s.bad l bs.length
    dcache := markWritten s.dcache l bs.length
    links := if isDram l then
        s.links.map (fun p => (p.1, p.2.filter (fun g =>
          g.line < l / 128 || (l + bs.length - 1) / 128 < g.line)))
      else s.links } l bs.length

/-- R265: a write; none when it is dropped because it covers only part of a word that holds an
uncorrectable error.  A write of whole words clears their errors. -/
def writeLoc (s : State) (t l : Nat) (bs : List Byte) : Option State :=
  let hit := s.bad.filter (fun w => l / 8 ≤ w && w ≤ (l + bs.length - 1) / 8)
  if hit.any (fun w => 8 * w < l || l + bs.length < 8 * w + 8) then none
  else some (pokeLoc s t l bs)

/-- R265: the pieces of a run of bytes at a location: the part of a 64-bit word it begins with, whole
words, and the part of a word it ends with. -/
def wordParts (l : Nat) (bs : List Byte) : List (Nat × List Byte) :=
  let a := min bs.length ((8 - l % 8) % 8)
  let b := (bs.length - a) / 8 * 8
  [(l, bs.take a), (l + a, (bs.drop a).take b), (l + a + b, bs.drop (a + b))].filter (fun p => !p.2.isEmpty)

/-- R265: a run of bytes written by a producer; the part of a word that holds an uncorrectable error is
dropped, and the Bool says so. -/
def writeParts (s : State) (t l : Nat) (bs : List Byte) : State × Bool :=
  if s.bad = [] then (pokeLoc s t l bs, false)
  else
    (wordParts l bs).foldl (fun r p =>
      match writeLoc r.1 t p.1 p.2 with
      | some s1 => (s1, r.2)
      | none => (r.1, true)) (s, false)

/-- A natural read at a location. -/
def readNat (s : State) (t l n : Nat) : Option Nat := (readLoc s t l n).map natOfBytes

/-- Bits `hi..lo` of a natural. -/
def bits (x hi lo : Nat) : Nat := x / 2 ^ lo % 2 ^ (hi + 1 - lo)

/-- One bit of a natural. -/
def bit (x i : Nat) : Bool := x / 2 ^ i % 2 == 1

/-- The bit a Bool stands for. -/
def b2n (b : Bool) : Nat := if b then 1 else 0

/-- Device time in 2^-16 ns. -/
def State.fine (s : State) : Nat := s.time.now.toNat * 65536 + s.time.frac.toNat

/-- An input that is there, taken if it is a row's. -/
def takeInput (s : State) (f : Input → State → Option State) : Option State :=
  match s.inputs with
  | [] => none
  | i :: t => f i.2 { s with inputs := t }

/-! ### The focus (log entry 15: DESIGN CHOICE) -/

/-- The number of a hart: 8 · core + hartid. -/
def hartKey (core hid : Nat) : Nat := 8 * core + hid

/-- The core index that stands for the management core (R467). -/
def mgmtCore : Nat := 96

/-- The hart of a number as it is before anything happened to it. -/
def freshHart (key : Nat) : Hart := { core := key / 8, hid := key % 8 }

/-- The number of the hart in focus. -/
def Hart.key (h : Hart) : Nat := hartKey h.core h.hid

/-- A hart by its number. -/
def getHart (s : State) (key : Nat) : Hart :=
  if s.hart.key = key then s.hart
  else
    match s.others.find? (fun p => p.1 == key) with
    | some p => p.2
    | none => freshHart key

/-- A hart that is not in focus written into the table of the others. -/
def putOther (s : State) (key : Nat) (h : Hart) : State :=
  { s with others := if h = freshHart key then mapErase s.others key
                     else mapInsert (mapErase s.others key) key h }

/-- A hart by its number changed. -/
def setHart (s : State) (key : Nat) (h : Hart) : State :=
  if s.hart.key = key then { s with hart := h } else putOther s key h

/-- A hart changed by a function. -/
def updHart (s : State) (key : Nat) (f : Hart → Hart) : State := setHart s key (f (getHart s key))

/-- The focus moved to a hart. -/
def focusOn (s : State) (key : Nat) : State :=
  if s.hart.key = key then s
  else
    let h := getHart s key
    { putOther s s.hart.key s.hart with
      hart := h, others := mapErase (putOther s s.hart.key s.hart).others key }

/-- Something done with a hart in focus, the focus going back afterwards. -/
def atHart (s : State) (key : Nat) (f : State → State) : State := focusOn (f (focusOn s key)) s.hart.key

/-- The numbers of every hart that differs from an untouched one, and the one in focus. -/
def hartKeys (s : State) : List Nat := s.hart.key :: s.others.map (fun p => p.1)

/-- The harts of a core that hold a job. -/
def boundKeys (s : State) (core : Nat) : List Nat :=
  (hartKeys s).filter (fun k => k / 8 == core && (getHart s k).stage != .free)

end Sys2Proof.Machine
end

