-- ==== Sys2Proof/Machine/Windows.lean ====
section
/-! DEFINITION. Windows: their registers, regions, reservations and arrivals (R366-R372), and the
ring guard (R230, R372). -/

namespace Sys2Proof.Machine

/-- The number of window `n` of a core. -/
def winKey (core n : Nat) : Nat := 16 * core + n

/-- A window of a core. -/
def getWin (s : State) (core n : Nat) : Window := mapGet {} s.eng.windows (winKey core n)

/-- A window of a core replaced. -/
def setWin (s : State) (core n : Nat) (w : Window) : State :=
  { s with eng := { s.eng with windows := mapSet {} s.eng.windows (winKey core n) w } }

/-- The bytes of a window. -/
def Window.size (w : Window) : Nat := 2 ^ w.lsize

/-- The bytes available to the owner: tail − head (R368). -/
def Window.avail (w : Window) : Nat := (w.tail - w.head).toNat

/-- The bytes reserved or arrived: fill − head. -/
def Window.held (w : Window) : Nat := (w.fill - w.head).toNat

/-- The scratchpad offset of a counter value (R368). -/
def Window.place (w : Window) (c : BitVec 32) : Nat := w.base + c.toNat % w.size

/-- Dword `j` of the descriptor (R366). -/
def Window.desc (w : Window) (j : Nat) : Dword :=
  match j with
  | 0 => BitVec.ofNat 64 (w.mode * 2 ^ 61 + b2n w.guard * 2 ^ 60 + w.lsize * 2 ^ 51 + w.owner * 2 ^ 48 + w.base)
  | 1 => w.head.zeroExtend 64
  | 2 => w.origin.zeroExtend 64
  | 3 => w.armed
  | 4 => BitVec.ofNat 64 (w.cuts.toNat * 2 ^ 32 + b2n w.claimed * 32 + w.claimant)
  | _ => 0

/-- Dword `j` of the arrival state (R367). -/
def Window.arrival (w : Window) (j : Nat) : Dword :=
  if j = 0 then BitVec.ofNat 64 (w.fill.toNat * 2 ^ 32 + w.tail.toNat) else w.arrived

/-- A store of tenant 0 to dword `j` of the descriptor (R366). -/
def Window.store (w : Window) (j : Nat) (v : Dword) : Window :=
  let x := v.toNat
  match j with
  | 0 =>
    let m := bits x 63 61
    let l := bits x 55 51
    { w with
      mode := if m ≤ 5 then m else w.mode
      guard := bit x 60
      lsize := if 10 ≤ l ∧ l ≤ 19 then l else w.lsize
      owner := bits x 50 48
      base := bits x 18 6 * 64 }
  | 1 => { w with head := v.truncate 32 }
  | 2 => { w with origin := v.truncate 32 }
  | 3 => { w with armed := v }
  | 4 => { w with cuts := BitVec.ofNat 32 (bits x 63 32), claimed := bit x 5, claimant := bits x 4 0 }
  | _ => w

/-! ### Arrival (R368, R370, R371) -/

/-- The row that begins at counter value `c` has been written whole or lies below tail. -/
def Window.rowIn (w : Window) (c : BitVec 32) : Bool :=
  (c + 64 - w.head).toNat ≤ w.avail || w.rows.contains (c, BitVec.allOnes 64)

/-- Slot `j` of the arrival mask has arrived (R368). -/
def Window.slotIn (w : Window) (j : Nat) : Bool :=
  let c := w.origin + BitVec.ofNat 32 (256 * j)
  let stop := (c + 256 - w.head).toNat
  stop ≤ w.held && (List.range 4).all (fun i =>
    -- a row before the head has been consumed, so it lies below tail
    let r := c + BitVec.ofNat 32 (64 * i)
    2 ^ 31 ≤ (r - w.head).toNat || w.rowIn r)

/-- The slots that have arrived, as a mask. -/
def Window.slotMask (w : Window) : Dword :=
  BitVec.ofNat 64 ((List.range 64).foldl (fun m j => if w.slotIn j then m + 2 ^ j else m) 0)

/-- Tail moves to the end of each leading reservation whose bytes have all arrived. -/
def Window.passList (w : Window) : List Resv → Window
  | [] => { w with resv := [] }
  | r :: t =>
    if r.todo = 0 then
      Window.passList { w with tail := r.start + BitVec.ofNat 32 r.len } t
    else { w with resv := r :: t }

/-- The arrival state after bytes have landed: tail and the arrived mask move on, and rows below
tail need no record. -/
def Window.settle (w : Window) : Window :=
  let w1 := w.passList w.resv
  let w2 := { w1 with rows := w1.rows.filter (fun c => !((c.1 + 64 - w1.head).toNat ≤ w1.avail)) }
  { w2 with arrived := w2.arrived ||| w2.slotMask }

/-- The bytes a reservation of `n` takes: `n` rounded up to a multiple of 64. -/
def roundRow (n : Nat) : Nat := (n + 63) / 64 * 64

/-- R370: a reservation of `n` bytes, if the window has room. -/
def Window.reserve (w : Window) (n : Nat) : Option Window :=
  if w.held + roundRow n ≤ w.size then
    some { w with
      fill := w.fill + BitVec.ofNat 32 (roundRow n)
      resv := w.resv ++ [{ start := w.fill, len := roundRow n, data := n, todo := n }] }
  else none

/-- The 64 B rows that `n` bytes from `pos` touch, each with those of its bytes that they are. -/
def rowsOf (pos : BitVec 32) (n : Nat) : List (BitVec 32 × BitVec 64) :=
  let first := pos.toNat / 64
  (List.range ((pos.toNat % 64 + n + 63) / 64)).map (fun i =>
    let lo := if i = 0 then pos.toNat % 64 else 0
    let hi := min 64 (pos.toNat % 64 + n - 64 * i)
    (BitVec.ofNat 32 (64 * (first + i)), BitVec.ofNat 64 (2 ^ hi - 2 ^ lo)))

/-- The bytes of a row recorded as written. -/
def addRow (l : List (BitVec 32 × BitVec 64)) (r : BitVec 32 × BitVec 64) : List (BitVec 32 × BitVec 64) :=
  if l.any (fun x => x.1 == r.1) then l.map (fun x => if x.1 = r.1 then (x.1, x.2 ||| r.2) else x) else l ++ [r]

/-- The counter value lies in the reservation. -/
def Resv.has (r : Resv) (pos : BitVec 32) : Bool := (pos - r.start).toNat < r.len

/-- A reservation still waits for bytes at the counter value. -/
def Window.expects (w : Window) (pos : BitVec 32) : Bool := w.resv.any (fun r => r.has pos && r.todo != 0)

/-- The bytes that `n` bytes landing at `pos` write: with the last one asked for, the rest of its row
that the reservation rounds up to. -/
def Window.landed (w : Window) (pos : BitVec 32) (n : Nat) : Nat :=
  match w.resv.find? (fun r => r.has pos) with
  | some r => if (pos - r.start).toNat + n = r.data then r.len - (pos - r.start).toNat else n
  | none => n

/-- The window once `n` bytes at counter value `pos` have landed. -/
def Window.land (w : Window) (pos : BitVec 32) (n : Nat) : Window :=
  Window.settle { w with
    rows := (rowsOf pos (w.landed pos n)).foldl addRow w.rows
    resv := w.resv.map (fun r => if r.has pos then { r with todo := r.todo - n } else r) }

/-- R371: the reservation that holds `pos` is released. -/
def Window.release (w : Window) (pos : BitVec 32) : Window :=
  Window.settle { w with
    rows := ((w.resv.filter (fun r => r.has pos)).flatMap (fun r => rowsOf r.start r.len)).foldl addRow w.rows
    resv := w.resv.map (fun r => if r.has pos then { r with todo := 0 } else r)
    cuts := w.cuts + 1
    claimed := false }

/-- Every reservation of the window released (a reclaim or context switch, R371). -/
def Window.releaseAll (w : Window) : Window :=
  if w.resv = [] then { w with claimed := false }
  else
    Window.settle { w with
      rows := (w.resv.flatMap (fun r => rowsOf r.start r.len)).foldl addRow w.rows
      cuts := w.cuts + BitVec.ofNat 32 w.resv.length
      resv := w.resv.map (fun r => { r with todo := 0 })
      claimed := false }

/-- Bytes written into a window's ring at a counter value, wrapping at its end; the Bool says that a part
was dropped (R265). -/
def putWindow (s : State) (core n : Nat) (pos : BitVec 32) (bs : List Byte) : State × Bool :=
  let w := getWin s core n
  let first := w.size - pos.toNat % w.size
  let r := writeParts s 0 (spadLoc core (w.place pos)) (bs.take first)
  if bs.length ≤ first then r
  else
    let q := writeParts r.1 0 (spadLoc core w.base) (bs.drop first)
    (q.1, r.2 || q.2)

/-- Bytes read from a window's ring at a counter value. -/
def readWindow (s : State) (core n : Nat) (pos : BitVec 32) (len : Nat) : Option (List Byte) :=
  let w := getWin s core n
  let first := min len (w.size - pos.toNat % w.size)
  match readLoc s 0 (spadLoc core (w.place pos)) first with
  | none => none
  | some a =>
    if len ≤ first then some a
    else (readLoc s 0 (spadLoc core w.base) (len - first)).map (fun b => a ++ b)

/-! ### The ring guard -/

/-- The length from head of the region that a hart may not write; `own` when it owns the window
(R230, R372). -/
def Window.guarded (w : Window) (own : Bool) : Nat :=
  if !w.guard then 0
  else if w.mode = 3 then w.avail
  else if w.mode = 5 then w.held
  else if w.mode = 0 || own then 0
  else w.held

/-- The scratchpad offset lies in the first `len` bytes from head. -/
def Window.covers (w : Window) (len off : Nat) : Bool :=
  w.base ≤ off && off < w.base + w.size &&
    ((off - w.base) + w.size - w.head.toNat % w.size) % w.size < len

/-- A hart (by its key) may not write the byte at `off` of a core's scratchpad. -/
def byteGuarded (s : State) (hart core off : Nat) : Bool :=
  (List.range 16).any (fun n =>
    let w := getWin s core n
    w.covers (w.guarded (hart / 8 == core && hart % 8 == w.owner)) off)

/-- The first of `n` bytes that the ring guard suppresses. -/
def guardHit (s : State) (hart core off n : Nat) : Option Nat :=
  ((List.range n).map (fun i => off + i)).find? (fun o => byteGuarded s hart core o)

end Sys2Proof.Machine
end

