-- ==== Sys2Proof/Machine/Access.lean ====
section
/-! DEFINITION. Addresses and accesses: the telemetry ring, page walks and TLBs (R401-R408), the
site checks (R246-R253), and reads and writes of resolved targets with their faults (R264-R267). -/

namespace Sys2Proof.Machine

/-- The outcome of an access, each with the state it leaves. -/
inductive XRes (α : Type) where
  | ok (a : α) (s : State)
  /-- a fault found before the access leaves the core, or in its data -/
  | fault (t : Trap) (s : State)
  /-- refused at the destination (R15, R23), or a write's data error: a posted access is told later -/
  | refuse (t : Trap) (s : State)
  /-- suppressed by the ring guard (R230) -/
  | guard (t : Trap) (s : State)
  /-- it waits: for a page walk, or for its core to be fenced -/
  | wait (s : State)
  deriving DecidableEq, Repr

/-- Continuing after an access that succeeded. -/
def XRes.bind {α β : Type} (r : XRes α) (f : α → State → XRes β) : XRes β :=
  match r with
  | .ok a s => f a s
  | .fault t s => .fault t s
  | .refuse t s => .refuse t s
  | .guard t s => .guard t s
  | .wait s => .wait s

/-- A trap with a natural cause code and a 64-bit value. -/
def mkTrap (cause : Nat) (v : Nat) : Trap := ⟨cause, BitVec.ofNat 64 v⟩

/-! ### The telemetry ring (R471, R472) -/

/-- Device time in whole nanoseconds, the same at every site (log entry 35: DESIGN CHOICE). -/
def State.nowNs (s : State) : Nat := s.time.now.toNat

/-- The next free value. -/
def freshFree (s : State) : Dword × State := (Config.freeValue s.free, { s with free := s.free + 1 })

/-- One entry claimed and written. -/
def telemetry (s : State) (kind data data2 : Nat) : State :=
  let q := s.svc.claim
  let v : List Byte := bytesOfNat 8 s.nowNs ++ bytesOfNat 8 (kind * 2 ^ 48 + data % 2 ^ 48) ++
    bytesOfNat 8 data2 ++ bytesOfNat 8 ((q + 1).toNat)
  { pokeLoc s 0 (ringLoc (32 * (q.toNat % 4096))) v with svc := { s.svc with claim := q + 1 } }

/-- An entry some of whose data R471 does not give: free values (log entry 29: DESIGN CHOICE). -/
def telemetryOpen (s : State) (kind : Nat) (data data2 : Option Nat) : State :=
  let a := freshFree s
  let b := freshFree a.2
  telemetry b.2 kind (data.getD a.1.toNat) (data2.getD b.1.toNat)

/-! ### Performance counters (R445, R446) -/

/-- An event of a core, or of the hart of a `hartid` on it, counted by one counter. -/
def Pmc.counts (p : Pmc) (ev : Nat) (hid : Option Nat) : Bool :=
  p.select.toNat % 256 == ev &&
    (match hid with
     | none => true
     | some h => p.select.toNat / 256 == 0 || bit (p.select.toNat / 256) h)

/-- `n` events counted. -/
def countEv (s : State) (core : Nat) (hid : Option Nat) (ev n : Nat) : State :=
  if n = 0 then s
  else
    { s with pmc := s.pmc.map (fun p =>
        if p.1 / 8 = core && p.2.counts ev hid then (p.1, { p.2 with count := p.2.count + BitVec.ofNat 48 n })
        else p) }

/-! ### Core sites (R14, R16, R249) -/

/-- x of a core's site; the management core, number 96, stands at (13, 7) (R14, R467). -/
def coreX (core : Nat) : Nat := if core = mgmtCore then 13 else core % 12 + 1

/-- y of a core's site; the management core, number 96, stands at (13, 7) (R14, R467). -/
def coreY (core : Nat) : Nat := if core = mgmtCore then 7 else core / 12 + 1

/-- The core index of a core site. -/
def coreAt (x y : Nat) : Nat := (y - 1) * 12 + (x - 1)

/-- The site is one of the core sites. -/
def isCoreSite (x y : Nat) : Bool := 1 ≤ x && x ≤ 12 && 1 ≤ y && y ≤ 8

/-- R16: the group of a core. -/
def groupOf (core : Nat) : Nat := 3 * (core / 24) + core % 12 / 4

/-- R249, R416: the tenant a core entry gives its core. -/
def CoreEntry.current (e : CoreEntry) : Nat := if e.lent then e.borrower else e.owner

/-- A core's entry of the partition table. -/
def coreEntry (s : State) (core : Nat) : CoreEntry := mapGet {} s.tab.cores core

/-- The current tenant of a core (R249). -/
def currentTenant (s : State) (core : Nat) : Nat := (coreEntry s core).current

/-- R249, R363: a core admits what another site sends it for a tenant: tenant 0, or its current tenant unless
the core is under reclaim. -/
def admits (s : State) (core tenant : Nat) : Bool :=
  tenant == 0 || (currentTenant s core == tenant && !s.disp.reclaims.contains core)

/-- The 64-bit absolute address of a site (R247). -/
def siteAddr (twin : Bool) (x y off : Nat) : Nat :=
  0xFE * 2 ^ 56 + b2n twin * 2 ^ 55 + x * 2 ^ 49 + y * 2 ^ 44 + off

/-! ### Page walks (R401-R405) -/

/-- The tag of an encryption key: 0 none, else one more than the key's value. -/
def keyTag (s : State) (key : Nat) : Nat :=
  if key = 0 then 0 else (mapGet {} s.tab.keys key).key.toNat + 1

/-- What a walk finds: the leaf with the address of its entry and the page size, or a cause. -/
inductive WalkOut where
  | leaf (e : Nat) (pa size : Nat)
  | fault (cause : Nat)
  deriving DecidableEq, Repr

/-- The address field of a page entry. -/
def entryAddr (e : Nat) : Nat := bits e 39 12 * 4096

/-- R403 once the leaf `e` has been read at level `lvl`: every check of the leaf. -/
def leafCheck (s : State) (va : Nat) (kind : Kind) (T lvl e pa : Nat) : WalkOut :=
  let c64 := bit e 7
  let size := if lvl = 1 then 2 ^ 30 else if lvl = 2 then 2 ^ 21 else if c64 then 2 ^ 16 else 2 ^ 12
  let home := bits e 51 50
  let key := bits e 57 52
  let owner := bits e 63 58
  let k := mapGet ({} : KeyEntry) s.tab.keys key
  if lvl = 0 || (c64 && lvl != 3) then .fault 0x14
  else if lvl = 1 && bits e 29 12 != 0 then .fault 0x14
  else if lvl = 2 && bits e 20 12 != 0 then .fault 0x14
  else if c64 && bits e 15 12 != bits va 15 12 then .fault 0x14
  else if home = 3 || bits e 49 48 = 3 then .fault 0x14
  else if owner != T && T != 0 then .fault 0x14
  else if home = 0 && entryAddr e / size * size + size > dramSize then .fault 0x14
  else if home = 2 && entryAddr e != 0 then .fault 0x14
  else if key != 0 && (home != 0 || !k.valid || k.tenant != owner) then .fault 0x14
  else if kind = .write && !bit e 2 then .fault 0x14
  else if kind = .fetch && !bit e 3 then .fault 0x14
  else .leaf e pa size

/-- R403: the walk from level `lvl` on with table address `tb`; the list holds the levels left.  An
uncorrectable error in a table word is the data-error fault of the walk, found before any access
leaves the core (log entry 34: DEDUCED). -/
def walkFrom (s : State) (va : Nat) (kind : Kind) (T : Nat) : List Nat → Nat → WalkOut
  | [], _ => .fault 0x14
  | lvl :: rest, tb =>
    let pa := tb + 8 * (va / 2 ^ (39 - 9 * lvl) % 512)
    if pa ≥ dramSize then .fault 0x14
    else
      match readNat s 0 pa 8 with
      | none => .fault 0x16
      | some e =>
        if !bit e 0 || bits e 47 40 != 0 || bits e 11 8 != 0 || bit e 1 then .fault 0x14
        else if bit e 6 then leafCheck s va kind T lvl e pa
        else if lvl = 3 then .fault 0x14
        else if bits e 63 40 != 0 || bits e 7 1 != 0 then .fault 0x14
        else walkFrom s va kind T rest (entryAddr e)

/-- R403: the walk of a tenant's table. -/
def walk (s : State) (va : Nat) (kind : Kind) (T : Nat) : WalkOut :=
  walkFrom s va kind T [0, 1, 2, 3] (mapGet {} s.tab.tenants T).root

/-- R405: access, and dirty on a write, set in the leaf a walk ended at. -/
def markLeaf (s : State) (kind : Kind) (e pa : Nat) : State × Nat :=
  let e1 := if bit e 4 then e else e + 16
  let e2 := if kind = .write && !bit e1 5 then e1 + 32 else e1
  if e2 = e then (s, e) else (pokeLoc s 0 pa (bytesOfNat 8 e2), e2)

/-- The TLB entry a leaf makes; a write may use it only when the page is dirty (R405). -/
def leafEntry (T va e size : Nat) : TlbEntry :=
  { tenant := T, va := va / size * size, size := size, leaf := BitVec.ofNat 64 e,
    wr := bit e 2 && bit e 5 }

/-- The home of a TLB entry's page. -/
def TlbEntry.home (e : TlbEntry) : Nat := bits e.leaf.toNat 51 50

/-- A TLB entry lets an access of a kind through (R406, R412, R477). -/
def TlbEntry.permits (e : TlbEntry) (k : Kind) : Bool :=
  match k with
  | .read => e.home != 2 || e.hostR
  | .write => e.wr && (e.home != 2 || e.hostW)
  | .fetch => bit e.leaf.toNat 3 && (e.home != 2 || e.hostX)

/-- The entry translates the tenant's address. -/
def TlbEntry.hits (e : TlbEntry) (T va : Nat) : Bool :=
  e.tenant == T && e.va ≤ va && va < e.va + e.size

/-- The newest entry that translates an access. -/
def tlbFind (l : List TlbEntry) (T va : Nat) (k : Kind) : Option TlbEntry :=
  l.find? (fun e => e.hits T va && e.permits k)

/-- An entry put in front of a TLB of `n` entries, in place of those of the same page (log entry 16: DESIGN CHOICE). -/
def tlbFill (n : Nat) (l : List TlbEntry) (e : TlbEntry) : List TlbEntry :=
  (e :: l.filter (fun x => !(x.tenant == e.tenant && x.va < e.va + e.size && e.va < x.va + x.size))).take n

/-- The set of a group TLB an entry stands in (log entry 16: DESIGN CHOICE). -/
def TlbEntry.set (e : TlbEntry) : Nat := e.va / e.size % 256

/-- R407: an entry put into a TLB of 256 sets of 8 ways. -/
def tlbFillSet (l : List TlbEntry) (e : TlbEntry) : List TlbEntry :=
  tlbFill 8 (l.filter (fun x => x.set == e.set)) e ++
    (l.filter (fun x => x.set != e.set &&
      !(x.tenant == e.tenant && x.va < e.va + e.size && e.va < x.va + x.size)))

/-- A completed walk fills the core's TLB (R407). -/
def fillCore (s : State) (core : Nat) (e : TlbEntry) : State :=
  { s with tab := { s.tab with coreTlb := mapUpd [] s.tab.coreTlb core (fun l => tlbFill 64 l e) } }

/-- A completed walk fills the group's TLB (R407). -/
def fillGroup (s : State) (group : Nat) (e : TlbEntry) : State :=
  { s with tab := { s.tab with groupTlb := mapUpd [] s.tab.groupTlb group (fun l => tlbFillSet l e) } }

/-- R409: the group whose TLB an agent that is no hart uses: spool `n` is agent 1000 + n. -/
def agentGroup (a : Nat) : Nat :=
  if 1000 ≤ a ∧ a < 1024 then (a - 1000) % 12 / 4 + (if a < 1012 then 0 else 9) else 0

/-- The group whose TLB a requester's miss goes to: a hart's own, or the one an agent uses. -/
def WalkReq.group (r : WalkReq) : Nat := if r.hart < 1000 then groupOf (r.hart / 8) else agentGroup r.hart

/-- R408: two misses of one group, tenant and 4 KiB page. -/
def WalkReq.same (a b : WalkReq) : Bool := a.group == b.group && a.tenant == b.tenant && a.va == b.va

/-- The requester's miss is outstanding: it waits for a walk, or an ATS request answers it. -/
def waits (s : State) (req : WalkReq) : Bool :=
  s.tab.walks.contains req || s.tab.ats.any (fun q => q.joined.contains req)

/-- R408: the outstanding misses of a group, each once for all that joined it. -/
def missesOf (s : State) (g : Nat) : Nat :=
  (s.tab.walks.foldl (fun l r => if r.group = g && !l.any r.same then r :: l else l) ([] : List WalkReq)).length +
    (s.tab.ats.filter (fun q => q.req.group == g)).length

/-- R412: an ATS Translation Request for a miss and those that joined it, with the tenant's PASID, for a walk
that ended at a leaf standing at `pa`. -/
def sendAts (s : State) (r : WalkReq) (mine : List WalkReq) (leaf pa size : Nat) : State :=
  { s with tab := { s.tab with ats := s.tab.ats ++
    [{ req := r, pasid := (mapGet ({} : TenantEntry) s.tab.tenants r.tenant).pasid, joined := mine, leaf := leaf, pa := pa
       size := size }] } }

/-- R408: a new miss joins an ATS request of its page, or stands with the walks; beyond 256 misses of
the group it waits without a trace. -/
def askWalk (s : State) (req : WalkReq) : State :=
  if s.tab.ats.any (fun q => q.req.same req) then
    { s with tab := { s.tab with ats := s.tab.ats.map (fun q =>
        if q.req.same req then { q with joined := q.joined ++ [req] } else q) } }
  else if s.tab.walks.any req.same || missesOf s req.group < 256 then
    { s with tab := { s.tab with walks := s.tab.walks ++ [req] } }
  else s

/-- Requests for walks of a hart dropped. -/
def dropWalks (s : State) (hart : Nat) : State :=
  { s with tab := { s.tab with
      walks := s.tab.walks.filter (fun r => r.hart != hart)
      ats := s.tab.ats.map (fun q => { q with joined := q.joined.filter (fun r => r.hart != hart) })
      faults := s.tab.faults.filter (fun f => f.req.hart != hart) } }

/-- R406-R408: the translation of a hart's access.  A miss asks for a walk and waits; a walk that
ended in a fault is taken by the access that asked for it. -/
def xlate (s : State) (hart T va : Nat) (k : Kind) : XRes TlbEntry :=
  let core := hart / 8
  let req : WalkReq := { hart := hart, tenant := T, va := va / 4096 * 4096, kind := k }
  match tlbFind (mapGet [] s.tab.coreTlb core) T va k with
  | some e => .ok e s
  | none =>
    match tlbFind (mapGet [] s.tab.groupTlb (groupOf core)) T va k with
    | some e => .ok e (fillCore (countEv s core (some (hart % 8)) 0x0F 1) core e)
    | none =>
      match s.tab.faults.find? (fun f => f.req == req) with
      | some f =>
        .fault (mkTrap f.cause va)
          { s with tab := { s.tab with faults := s.tab.faults.filter (fun g => g.req != req) } }
      | none =>
        if waits s req then .wait s
        else if waits (askWalk s req) req then
          .wait (askWalk (countEv (countEv s core (some (hart % 8)) 0x0F 1) core none 0x10 1) req)
        else .wait s

/-- The set of a line of device memory in its home slice, of 1,536 sets of 16 lines (R28; log entry 33:
DESIGN CHOICE). -/
def sliceSet (line : Nat) : Nat := 1536 * homeSlice (128 * line) + line % 1536

/-- R254: an access to a line through a page of a cacheability: 0 write-back, 1 streaming, 2 uncached. -/
def sliceTouch (cache line : Nat) (l : List Nat) : List Nat :=
  if cache = 2 then l
  else if l.contains line then line :: l.erase line
  else if cache = 1 then l.take 15 ++ [line]
  else (line :: l).take 16

/-- R252, R254, R260: an access to `l` served by its home slice. -/
def useSlice (s : State) (cache l : Nat) : State :=
  if isDram l then { s with slices := mapUpd [] s.slices (sliceSet (l / 128)) (sliceTouch cache (l / 128)) }
  else s

/-- R260: an access to `n` bytes at `l` served by the home slices of their lines. -/
def useLines (s : State) (cache l n : Nat) : State :=
  (List.range (if n = 0 then 0 else (l % 128 + n + 127) / 128)).foldl (fun s i => useSlice s cache (l / 128 * 128 + 128 * i)) s

/-- R403: the table words a walk reads. -/
def walkWords (s : State) (va : Nat) : List Nat → Nat → List Nat
  | [], _ => []
  | lvl :: rest, tb =>
    let pa := tb + 8 * (va / 2 ^ (39 - 9 * lvl) % 512)
    match readNat s 0 pa 8 with
    | none => [pa]
    | some e => if bit e 6 || !bit e 0 then [pa] else pa :: walkWords s va rest (entryAddr e)

/-- What a walk for an access gives at once: the entry, a host leaf that needs ATS, or a cause. -/
inductive WalkDone where
  | entry (e : TlbEntry) (s : State)
  | host (leaf pa size : Nat)
  | fault (cause : Nat)
  deriving DecidableEq, Repr

/-- A walk run to its end (R403, R405, R412, R415).  One that ends at a leaf of the twin marks it, also while the
tether is down (log entry 60: DEDUCED). -/
def walkNow (s : State) (T va : Nat) (k : Kind) : WalkDone :=
  match walk s va k T with
  | .fault c => .fault c
  | .leaf e pa size =>
    if bits e 51 50 = 2 then
      if (mapGet {} s.tab.tenants T).pv then .host e pa size else .fault 0x14
    else
      let m := markLeaf s k e pa
      let ws := walkWords s va [0, 1, 2, 3] (mapGet {} s.tab.tenants T).root
      .entry (leafEntry T va m.2 size) (ws.foldl (fun s l => useSlice s 0 l) m.1)

/-- The location and key tag of an address through a TLB entry. -/
def TlbEntry.place (e : TlbEntry) (s : State) (va : Nat) : Nat × Nat :=
  let a := entryAddr e.leaf.toNat / e.size * e.size + va % e.size
  if e.home = 0 then (a, keyTag s (bits e.leaf.toNat 57 52))
  else if e.home = 1 then (twinLoc a, 0)
  else (hostLoc (e.host + va % e.size), 0)

/-! ### Resolution (R248-R251) -/

/-- How an access reaches its bytes: only scalar loads and stores may reach a control window. -/
inductive Form where
  | load
  | store
  | other
  deriving DecidableEq, Repr

/-- Who accesses, how, and what it needs of a page. -/
structure Acc where
  hart : Nat
  tenant : Nat
  form : Form
  kind : Kind
  deriving DecidableEq, Repr

/-- What a resolved address names. -/
inductive Target where
  /-- bytes of storage: location and key tag -/
  | mem (loc tag : Nat)
  /-- a control-window offset of a core site -/
  | ctl (core off : Nat)
  /-- a control-window offset of another site -/
  | io (x y off : Nat)
  /-- a control window of the twin (log entry 8: DESIGN CHOICE) -/
  | far
  deriving DecidableEq, Repr

/-- R250: the offsets a core site defines. -/
def coreOffset (off : Nat) : Bool :=
  off < 0x80500 || (0x81000 ≤ off && off < 0x81040)

/-- The offsets the other sites define: doorbells (R329), ports (R483), management (R468). -/
def siteOffset (x y off : Nat) : Bool :=
  if x = 13 ∧ y = 0 then 0x80000 ≤ off && off < 0x80C00
  else if x = 13 ∧ y = 7 then
    (0x80000 ≤ off && off < 0x803C0) || (0x80400 ≤ off && off < 0x80460) || off == 0x80480 ||
      off == 0x80490 || off == 0x80498 || off == 0x804A0 || 0xA0000 ≤ off && off < 0xC0000
  else if x = 0 ∧ 1 ≤ y ∧ y ≤ 8 then
    0x80000 ≤ off && off < 0x80200 && off % 0x100 < 0x28
  else false

/-- R249-R251 and the refusals at the destination, for the site (x, y) and an offset. -/
def siteCheck (s : State) (a : Acc) (twin : Bool) (x y off n : Nat) (ea : Dword) : XRes Target :=
  let scalar8 := n == 8 && a.form != .other
  let down := twin && !s.tetherUp
  if isCoreSite x y then
    let core := coreAt x y
    let e : CoreEntry := mapGet {} (if twin then s.tab.twinCores else s.tab.cores) core
    let mine := if twin || a.hart / 8 == core then a.tenant == 0 || a.tenant == e.current else admits s core a.tenant
    if !mine then .fault ⟨0x13, ea⟩ s
    else if 0x80000 ≤ off && a.tenant != 0 && !(n == 8 && a.form == .load) then .fault ⟨0x13, ea⟩ s
    else if 0x80000 ≤ off && !scalar8 then .fault ⟨0x12, ea⟩ s
    else if 0x80400 ≤ off && off < 0x80500 && a.form == .store then .fault ⟨0x12, ea⟩ s
    else if down then .fault ⟨0x12, ea⟩ s
    else if !coreOffset off || e.fenced then .refuse ⟨0x12, ea⟩ s
    else if off < 0x80000 then .ok (.mem (if twin then twinSpadLoc core off else spadLoc core off) 0) s
    else if twin then .ok .far s
    else .ok (.ctl core off) s
  else if a.tenant != 0 then .fault ⟨0x13, ea⟩ s
  else if off < 0x80000 || !scalar8 || down then .fault ⟨0x12, ea⟩ s
  else if !siteOffset x y off then .refuse ⟨0x12, ea⟩ s
  else if twin then .ok .far s
  else .ok (.io x y off) s

/-- The cacheability of a TLB entry's page (R402). -/
def TlbEntry.cache (e : TlbEntry) : Nat := bits e.leaf.toNat 49 48

/-- R248: an address resolved for an access of `n` bytes; a relative site address is taken from the place of
the core, for the management core (13, 7) (R14; log entry 46: DEDUCED). -/
def resolve (s : State) (a : Acc) (ea : Dword) (n : Nat) : XRes Target :=
  let v := ea.toNat
  if v % n != 0 then .fault ⟨0x10, ea⟩ s
  else if v / 2 ^ 56 = 0xFE then
    if bits v 43 20 != 0 then .fault ⟨0x12, ea⟩ s
    else
      let core := a.hart / 8
      let rel := bit v 54
      let x : Int := if rel then (coreX core : Int) + (ea.extractLsb' 49 5).toInt else bits v 53 49
      let y : Int := if rel then (coreY core : Int) + (ea.extractLsb' 44 5).toInt else bits v 48 44
      if x < 0 || x > 13 || y < 0 || y > 9 then .fault ⟨0x12, ea⟩ s
      else siteCheck s a (bit v 55) x.toNat y.toNat (v % 2 ^ 20) n ea
  else if v / 2 ^ 48 = 0 then
    (xlate s a.hart a.tenant v a.kind).bind fun e s1 =>
      if e.home = 1 && !s1.tetherUp then .fault ⟨0x14, ea⟩ s1
      else .ok (.mem (e.place s1 v).1 (e.place s1 v).2) (useSlice s1 e.cache (e.place s1 v).1)
  else .fault ⟨0x11, ea⟩ s

/-! ### Control windows -/

/-- R250: an 8-byte read of a core site's control window. -/
def ctlRead (s : State) (core off : Nat) : Dword :=
  if off < 0x80400 then (getWin s core ((off - 0x80000) / 64)).desc (off % 64 / 8)
  else if off < 0x80500 then (getWin s core ((off - 0x80400) / 16)).arrival (off % 16 / 8)
  else (mapGet {} s.pmc (8 * core + (off - 0x81000) / 8)).count.zeroExtend 64

/-- R250: an 8-byte store of tenant 0 to a core site's control window. -/
def ctlWrite (s : State) (core off : Nat) (v : Dword) : State :=
  if off < 0x80400 then
    let n := (off - 0x80000) / 64
    setWin s core n ((getWin s core n).store (off % 64 / 8) v)
  else
    let k := 8 * core + (off - 0x81000) / 8
    { s with pmc := mapSet {} s.pmc k { mapGet {} s.pmc k with count := v.truncate 48 } }

/-- R329: a new tail of a launch queue.  A tail more than size ahead of head, or behind it, stops
the queue and is counted in the telemetry ring; a queue that is not created ignores it. -/
def doorbell (s : State) (q : Nat) (tail : BitVec 32) : State :=
  let l := mapGet ({} : LaunchQ) s.disp.queues q
  let bad := (tail - l.head).toNat > l.size
  let s1 := if !l.created then s else { s with disp := { s.disp with
    queues := mapSet {} s.disp.queues q { l with tail := tail, stopped := l.stopped || bad } } }
  if l.created && bad && !l.stopped then telemetryOpen s1 0x0003 none none else s1

/-- R483: a port's register at an offset. -/
def Port.read (p : Port) (off : Nat) : Dword :=
  if off = 0 then BitVec.ofNat 64 (b2n p.vlanTag * 2 ^ 28 + p.vlanId.toNat * 2 ^ 16 + p.mode.toNat)
  else if off = 8 then p.station.zeroExtend 64
  else if off = 0x10 then p.peer.zeroExtend 64
  else if off = 0x18 then p.unmatched.zeroExtend 64
  else p.fcs.zeroExtend 64

/-- R483: a tenant-0 store to a port's register; it changes the two counters as well. -/
def Port.write (p : Port) (off : Nat) (v : Dword) : Port :=
  if off = 0 then
    { p with vlanTag := v.getLsbD 28, vlanId := v.extractLsb' 16 12, mode := v.extractLsb' 0 2 }
  else if off = 8 then { p with station := v.truncate 48 }
  else if off = 0x10 then { p with peer := v.truncate 48 }
  else if off = 0x18 then { p with unmatched := (v.truncate 32) }
  else { p with fcs := v.truncate 32 }

/-- The port at a site and offset (R483). -/
def portAt (y off : Nat) : Nat := 2 * (y - 1) + (off - 0x80000) / 0x100

/-- R251: an 8-byte read of another site's control window. -/
def ioRead (s : State) (x y off : Nat) : Dword × State :=
  if x = 0 then ((mapGet {} s.eng.ports (portAt y off)).read (off % 0x100), s)
  else if y = 0 then
    let l := mapGet ({} : LaunchQ) s.disp.queues ((off - 0x80000) / 16)
    ((if off % 16 = 0 then l.tail else l.head).zeroExtend 64, s)
  else if off < 0x80400 then (mapGet 0 s.svc.sensors ((off - 0x80000) / 8), s)
  else if off < 0x80480 then ((mapGet 0 s.svc.throttle ((off - 0x80400) / 8)).zeroExtend 64, s)
  else if off = 0x80480 then (BitVec.ofNat 64 (b2n s.svc.trip + 256 * s.svc.powerStep), s)
  else if off = 0x80490 then (BitVec.ofNat 64 s.svc.powerLimit, s)
  else if off = 0x80498 then (BitVec.ofNat 64 (s.svc.power % 2 ^ 16), s)
  else if off = 0x804A0 then
    -- the claim register: the sequence, advanced by the load (R472)
    (s.svc.claim.zeroExtend 64, { s with svc := { s.svc with claim := s.svc.claim + 1 } })
  else (BitVec.ofNat 64 (natOfBytes (getBytes s.mem (ringLoc (off - 0xA0000)) 8)), s)

/-- R470: a store to the power limit register; a limit outside 180-360 leaves it. -/
def setPowerLimit (s : State) (w : Nat) : State :=
  if 180 ≤ w ∧ w ≤ 360 then { s with svc := { s.svc with powerLimit := w } } else s

/-- R483: a store to a port's register. -/
def portWrite (s : State) (p off : Nat) (v : Dword) : State :=
  { s with eng := { s.eng with ports := mapUpd {} s.eng.ports p (fun q => q.write off v) } }

/-- R251: an 8-byte store of tenant 0 to another site's control window; RO registers keep their
value (R7). -/
def ioWrite (s : State) (x y off : Nat) (v : Dword) : State :=
  if x = 0 then portWrite s (portAt y off) (off % 0x100) v
  else if y = 0 then
    if off % 16 = 0 then doorbell s ((off - 0x80000) / 16) (v.truncate 32) else s
  else if 0x80400 ≤ off && off < 0x80480 then
    { s with svc := { s.svc with throttle := (mapSet 0 s.svc.throttle ((off - 0x80400) / 8) (v.truncate 4)) } }
  else if off = 0x80490 then setPowerLimit s (v.toNat % 512)
  else if 0xA0000 ≤ off then pokeLoc s 0 (ringLoc (off - 0xA0000)) (bytesOfNat 8 v.toNat)
  else s

/-! ### Reads and writes (R264, R265, R267) -/

/-- R321: a core is to be fenced. -/
def askFence (s : State) (core : Nat) : State :=
  if s.fenceReq.contains core then s else { s with fenceReq := s.fenceReq ++ [core] }

/-- `n` bytes read at a resolved target for a hart. -/
def readT (s : State) (hart : Nat) (t : Target) (ea : Dword) (n : Nat) : XRes Nat :=
  match t with
  | .mem l k =>
    match readNat s k l n with
    | some v => .ok v s
    | none =>
      if isSpad l then
        if spadCore l = hart / 8 then .wait (askFence s (spadCore l))
        else .fault ⟨0x16, ea⟩ (askFence s (spadCore l))
      else .fault ⟨0x16, ea⟩ s
  | .ctl c o => .ok (ctlRead s c o).toNat s
  | .io x y o => .ok (ioRead s x y o).1.toNat (ioRead s x y o).2
  | .far => .ok (freshFree s).1.toNat (freshFree s).2

/-- R230: the ring guard's trap for the first suppressed byte of a core's scratchpad. -/
def guardTrap (core off : Nat) : Trap := mkTrap 0x19 (siteAddr false (coreX core) (coreY core) off)

/-- The windows of the twin guard its scratchpads as this device's do: whether one stops a write of `n` bytes at
a location, and which byte first, is a free value of the location and the time (log entry 24: DESIGN CHOICE). -/
def twinGuards (s : State) (l n : Nat) : Option Nat :=
  let v := (Config.freeValue (2 ^ 64 * (2 ^ 16 + l) + s.nowNs)).toNat
  if bit v 0 then some ((l - 2 ^ 50) % 2 ^ 20 + v / 2 % n) else none

/-- The ring guard suppresses a hart's write of `n` bytes at a location: the first byte it stops. -/
def guardStops (s : State) (hart l n : Nat) : Option Nat :=
  if isSpad l then guardHit s hart (spadCore l) (spadOff l) n
  else if isTwinSpad l then twinGuards s l n
  else none

/-- R230: the ring guard's trap for a write at a location whose byte at scratchpad offset `off` is stopped. -/
def guardTrapAt (l off : Nat) : Trap :=
  if isTwinSpad l then
    let core := (l - 2 ^ 50) / 2 ^ 20
    mkTrap 0x19 (siteAddr true (coreX core) (coreY core) off)
  else guardTrap (spadCore l) off

/-- Bytes written at a resolved target for a hart, its data cache aside. -/
def writeAt (s : State) (hart : Nat) (t : Target) (ea : Dword) (bs : List Byte) : XRes Unit :=
  match t with
  | .mem l k =>
    match guardStops s hart l bs.length with
    | some o => .guard (guardTrapAt l o) s
    | none =>
      match writeLoc s k l bs with
      | some s1 => .ok () s1
      | none => .refuse ⟨0x16, ea⟩ s
  | .ctl c o => .ok () (ctlWrite s c o (BitVec.ofNat 64 (natOfBytes bs)))
  | .io x y o => .ok () (ioWrite s x y o (BitVec.ofNat 64 (natOfBytes bs)))
  | .far => .ok () s

/-! ### The scalar data cache (R258) -/

/-- The lines a core's data cache holds. -/
def dLines (s : State) (core : Nat) : List CLine := mapGet [] s.dcache core

/-- The data cache of a core replaced. -/
def setDLines (s : State) (core : Nat) (l : List CLine) : State := { s with dcache := mapSet [] s.dcache core l }

/-- A line put into a cache of `sets` sets of `ways` lines; which line of a full set it replaces is a
free value (log entry 33: DESIGN CHOICE). -/
def cacheFill (l : List CLine) (sets ways n : Nat) (x : CLine) : List CLine :=
  let mates := l.filter (fun y => y.line % sets == x.line % sets)
  if mates.length < ways then x :: l
  else match mates[(Config.freeValue n).toNat % ways]? with
    | none => x :: l
    | some y => x :: l.erase y

/-- A scalar load misses: the miss is counted and the line is held. -/
def dFill (s : State) (core hid : Nat) (x : CLine) : State :=
  let s1 := countEv s core (some hid) 0x0E 1
  { setDLines s1 core (cacheFill (dLines s1 core) 64 8 s1.free x) with free := s1.free + 1 }

/-- The line of a core's data cache that holds a location under a key tag. -/
def dLine (s : State) (core l tag : Nat) : Option CLine :=
  (dLines s core).find? (fun x => x.line == l / 64 && x.tag == tag)

/-- R258: a scalar load of a scratchpad line of its own core.  Its bytes are the bank's; a line that was
written since is held or not (log entry 33: DESIGN CHOICE). -/
def dTouch (s : State) (core hid l : Nat) : State :=
  match dLine s core l 0 with
  | none => dFill s core hid { line := l / 64 }
  | some x =>
    if !x.written then s
    else
      let s1 := if (Config.freeValue s.free).getLsbD 0 then countEv s core (some hid) 0x0E 1 else s
      { setDLines s1 core ((dLines s1 core).map (fun y => if y = x then { x with written := false } else y)) with
        free := s1.free + 1 }

/-- R258: a scalar load of a write-back page of device memory: the line the core's data cache holds,
stale or not, else the bytes of the home slice, whose line it then holds.  A line with an
uncorrectable error elsewhere in it is not held. -/
def dLoad (s : State) (hart l tag : Nat) (ea : Dword) (n : Nat) : XRes Nat :=
  let core := hart / 8
  match dLine s core l tag with
  | some x => .ok (natOfBytes ((x.data.drop (l % 64)).take n)) s
  | none =>
    (readT s hart (.mem l tag) ea n).bind fun v s1 =>
      match readLoc s1 tag (l / 64 * 64) 64 with
      | some bs => .ok v (dFill s1 core (hart % 8) { line := l / 64, tag := tag, data := bs })
      | none => .ok v (countEv s1 core (some (hart % 8)) 0x0E 1)

/-- R258: the core's own scalar store updates a line it hits; under another key tag the line goes. -/
def dUpdate (s : State) (core l tag : Nat) (bs : List Byte) : State :=
  if isDram l && (dLines s core).any (fun x => x.line == l / 64) then
    setDLines s core ((dLines s core).filterMap (fun x =>
      if x.line != l / 64 then some x
      else if x.tag = tag then
        some { x with data := x.data.take (l % 64) ++ bs ++ x.data.drop (l % 64 + bs.length) }
      else none))
  else s

/-- R295: the line of a core's data cache that holds a location is invalidated. -/
def dGone (s : State) (core l : Nat) : State :=
  if (dLines s core).any (fun x => x.line == l / 64) then
    setDLines s core ((dLines s core).filter (fun x => x.line != l / 64))
  else s

/-- R258: a vector store of the core takes a line of device memory away. -/
def dDrop (s : State) (core l : Nat) : State := if isDram l then dGone s core l else s

/-- R258, R286: an acquire at group scope or wider takes every line of device memory away. -/
def acquire (s : State) (core : Nat) : State :=
  if (dLines s core).any (fun x => isDram (64 * x.line)) then
    setDLines s core ((dLines s core).filter (fun x => !isDram (64 * x.line)))
  else s

/-- The translation a hart's access to an address finds in its core's TLB. -/
def coreEntryOf (s : State) (a : Acc) (ea : Dword) : Option TlbEntry :=
  tlbFind (mapGet [] s.tab.coreTlb (a.hart / 8)) a.tenant ea.toNat a.kind

/-- The cacheability that translation gives; uncached for an address without one. -/
def pageCache (s : State) (a : Acc) (ea : Dword) : Nat := ((coreEntryOf s a ea).map TlbEntry.cache).getD 2

/-- A read at a resolved target: a scalar load goes through its core's data cache (R252, R258). -/
def readC (s : State) (a : Acc) (t : Target) (ea : Dword) (n : Nat) : XRes Nat :=
  match t with
  | .mem l k =>
    if a.form != .load then readT s a.hart t ea n
    else if isDram l && pageCache s a ea == 0 then dLoad s a.hart l k ea n
    else if isSpad l && spadCore l == a.hart / 8 then
      (readT s a.hart t ea n).bind fun v s1 => .ok v (dTouch s1 (a.hart / 8) (a.hart % 8) l)
    else readT s a.hart t ea n
  | _ => readT s a.hart t ea n

/-- Bytes written at a resolved target for a hart that is no scalar store. -/
def writeT (s : State) (hart : Nat) (t : Target) (ea : Dword) (bs : List Byte) : XRes Unit :=
  (writeAt s hart t ea bs).bind fun u s1 =>
    match t with
    | .mem l _ => .ok u (dDrop s1 (hart / 8) l)
    | _ => .ok u s1

/-- Bytes a scalar store writes at a resolved target. -/
def writeC (s : State) (hart : Nat) (t : Target) (ea : Dword) (bs : List Byte) : XRes Unit :=
  (writeAt s hart t ea bs).bind fun u s1 =>
    match t with
    | .mem l k => .ok u (dUpdate s1 (hart / 8) l k bs)
    | _ => .ok u s1

/-- A load of `n` bytes. -/
def loadX (s : State) (a : Acc) (ea : Dword) (n : Nat) : XRes Nat :=
  (resolve s a ea n).bind fun t s1 => readC s1 a t ea n

/-- A scalar store of bytes. -/
def storeX (s : State) (a : Acc) (ea : Dword) (bs : List Byte) : XRes Unit :=
  (resolve s a ea bs.length).bind fun t s1 => writeC s1 a.hart t ea bs

end Sys2Proof.Machine
end

