-- ==== Sys2Proof/Machine/Ops.lean ====
section
/-! DEFINITION. Operations of one hart: its registers, how an instruction ends, the save area and
restart record (R312-R316), and taking a trap (R117, R118). -/

namespace Sys2Proof.Machine

/-- What `exec` answers. -/
abbrev Out := Host.Outcome State Fault Refusal

/-- How an instruction's own work ends. -/
inductive Res where
  | ok (s : State)
  /-- a precise trap at a check of R63 (6: an execution fault), with the state it leaves -/
  | trap (check : Nat) (t : Trap) (s : State)
  /-- it cannot complete and stays unexecuted at its own address -/
  | stall (b : Block) (s : State)
  /-- the hart no longer stands at the instruction: its job ended, halted or left -/
  | left (s : State)
  deriving DecidableEq, Repr

/-! ### Registers -/

/-- A scalar register; in a paired bundle as it stood before the bundle (R38, R48, R107). -/
def rdS (s : State) (r : BitVec 5) : Dword :=
  if r = 0 then 0
  else
    match s.hart.x.snapS with
    | some m => mapGet 0 m r.toNat
    | none => mapGet 0 s.hart.s r.toNat

/-- A scalar register written; a write of s0 is discarded (R48, R107). -/
def wrS (s : State) (r : BitVec 5) (v : Dword) : State :=
  if r = 0 then s else { s with hart := { s.hart with s := mapSet 0 s.hart.s r.toNat v } }

/-- The length and view registers as an instruction reads them (R38). -/
def lenNow (s : State) : LenRegs :=
  match s.hart.x.snapS with
  | some _ => s.hart.x.snapLen
  | none => s.hart.len

/-- `fcsr` as an instruction reads it (R38, R92). -/
def fcsrNow (s : State) : Dword :=
  match s.hart.x.snapS with
  | some _ => s.hart.x.snapFcsr
  | none => s.hart.fcsr

/-- The hart in focus changed. -/
def updH (s : State) (f : Hart → Hart) : State := { s with hart := f s.hart }

/-- Flags merged into `fcsr` (R92). -/
def mergeFlags (s : State) (f : Flags) : State :=
  updH s fun h => { h with fcsr := fcsrMerge h.fcsr f }

/-- The bundle that holds the instruction (R41). -/
def bundleAddr (s : State) : BitVec 48 := s.hart.x.iaddr &&& ~~~(7 : BitVec 48)

/-- A taken transfer (R41). -/
def jumpTo (s : State) (t : BitVec 48) : State :=
  updH s fun h => { h with x := { h.x with npc := some t } }

/-- The value of a control register of a hart (R91, R111-R119, R150, R216). -/
def cregVal (h : Hart) (n : Nat) : Dword :=
  match n with
  | 0x000 => BitVec.ofNat 64 h.len.vl
  | 0x001 => h.len.vtype.zeroExtend 64
  | 0x002 => BitVec.ofNat 64 h.len.rowc
  | 0x003 => BitVec.ofNat 64 h.len.colc
  | 0x004 => BitVec.ofNat 64 h.len.rowi
  | 0x005 => BitVec.ofNat 64 h.len.coli
  | 0x008 => h.fcsr
  | 0x010 => BitVec.ofNat 64 (b2n h.mmode)
  | 0x011 => if h.mmode then BitVec.ofNat 64 (64 * 256 + 2 * h.width) else 0
  | 0x020 => BitVec.ofNat 64 h.width
  | 0x021 => if h.width = 0 then 0 else BitVec.ofNat 64 h.hid
  | 0x022 => if h.width = 0 then 0 else
      BitVec.ofNat 64 (h.core * 2 ^ 16 + groupOf h.core * 2 ^ 12 + coreX h.core * 2 ^ 8 + coreY h.core * 2 ^ 4)
  | 0x023 => BitVec.ofNat 64 (h.job.tree.toNat * 2 ^ 32 + h.job.job.toNat)
  | 0x024 => BitVec.ofNat 64 h.job.tenant
  | 0x028 => h.jdl
  | 0x029 => h.jprog
  | 0x030 => h.tr.tvec.zeroExtend 64
  | 0x031 => h.tr.tenab.zeroExtend 64
  | 0x032 => BitVec.ofNat 64 (4 * b2n h.tr.grc + 2 * b2n h.tr.imp + b2n h.tr.inh)
  | 0x033 => h.tr.tcause.zeroExtend 64
  | 0x034 => h.tr.tval
  | 0x035 => h.tr.xpc.zeroExtend 64
  | 0x036 => h.tr.tscratch
  | 0x040 => h.vsync.zeroExtend 64
  | 0x041 => BitVec.ofNat 64 (h.spilled * 256 + h.rs.length)
  | 0x042 => BitVec.ofNat 64 (h.rsCap * 2 ^ 32 + h.rsBase)
  | _ => 0

/-! ### Link generations (R297) -/

/-- A hart's link generation advanced; the wrap from 255 to 0 purges every tag that names it. -/
def bumpLink (s : State) : State :=
  let s1 := if s.hart.linkGen = 255 then
      { s with links := (s.links.map (fun p => (p.1, p.2.filter (fun g => g.hart != s.hart.key)))) }
    else s
  updH s1 fun h => { h with linkGen := h.linkGen + 1 }

/-! ### The save area (R312-R316) -/

/-- Bytes written into a save area through the pages translated at bind (R336). -/
def savePut (s : State) (pages : List SavePage) (off : Nat) (bs : List Byte) : State :=
  let p0 := off / 4096
  let n := (off % 4096 + bs.length + 4095) / 4096
  (List.range n).foldl (fun s i =>
    match pages[p0 + i]? with
    | none => s
    | some p =>
      let lo := if i = 0 then 0 else (p0 + i) * 4096 - off
      let a := if i = 0 then off % 4096 else 0
      let part := (bs.drop lo).take (4096 - a)
      if part = [] then s else pokeLoc (useLines s p.cache (p.frame + a) part.length) (keyTag s p.key) (p.frame + a) part) s

/-- Bytes read from a save area. -/
def saveGet (s : State) (pages : List SavePage) (off n : Nat) : List Byte :=
  (List.range n).map fun i =>
    match pages[(off + i) / 4096]? with
    | none => 0
    | some p => plainByte s (keyTag s p.key) (p.frame + (off + i) % 4096)

/-- R260: `n` bytes of a save area read: the slices that serve it. -/
def useSave (s : State) (pages : List SavePage) (off n : Nat) : State :=
  pages.zipIdx.foldl (fun s p =>
    let lo := max off (4096 * p.2)
    let hi := min (off + n) (4096 * p.2 + 4096)
    if lo < hi then useLines s p.1.cache (p.1.frame + lo % 4096) (hi - lo) else s) s

/-- A dword of a save area. -/
def saveDword (s : State) (pages : List SavePage) (off : Nat) : Nat := natOfBytes (saveGet s pages off 8)

/-- R314: one entry of the restart record. -/
def entryBytes (e : QEntry) : List Byte :=
  bytesOfNat 8 (b2n e.begun * 2 ^ 54 + e.queue * 2 ^ 52 + b2n e.joins * 2 ^ 50 + e.addr.toNat) ++
  bytesOfNat 8 e.word.toNat ++ bytesOfNat 8 e.sa.toNat ++ bytesOfNat 8 e.sb.toNat ++
  bytesOfNat 8 (e.len.vl + e.len.vtype.toNat * 2 ^ 16 + e.len.rowc * 2 ^ 24 + e.len.colc * 2 ^ 40) ++
  bytesOfNat 8 (e.len.rowi + e.len.coli * 2 ^ 16 + e.rm.toNat * 2 ^ 32 + b2n e.satfp * 2 ^ 35) ++
  bytesOfNat 16 0

/-- R313: the header of the restart record. -/
def restartHeader (cause n : Nat) (ra : BitVec 48) (tval : Dword) (idx : Nat) : List Byte :=
  bytesOfNat 8 (2 ^ 16 + cause * 2 ^ 8 + n) ++ bytesOfNat 8 ra.toNat ++ bytesOfNat 8 tval.toNat ++
  bytesOfNat 8 idx ++ bytesOfNat 32 0

/-- What a restart record holds: the queue, its first entry continuing the convoy of none (R314). -/
def recordQueue (h : Hart) : List QEntry :=
  match h.queue with
  | [] => []
  | e :: q => { e with joins := false } :: q

/-- The restart record: header and entries. -/
def restartBytes (h : Hart) (cause : Nat) (ra : BitVec 48) (tval : Dword) (idx : Nat) : List Byte :=
  let q := recordQueue h
  restartHeader cause q.length ra tval (if idx < q.length then idx else 63) ++ q.flatMap entryBytes

/-- R312: the restart record of a hart's queue, written at 0x0400 of its save area. -/
def writeRestart (s : State) (cause : Nat) (ra : BitVec 48) (tval : Dword) (idx : Nat) : State :=
  savePut s s.hart.job.pages 0x400 (restartBytes s.hart cause ra tval idx)

/-- R92, R312: queued work is cut.  The flags of completed element groups are merged, nothing stays
queued, traps of queued instructions are dropped, and the decoder's view of the mode is the mode. -/
def cutQueue (s : State) : State :=
  updH s fun h =>
    { h with
      fcsr := h.queue.foldl (fun f e => fcsrMerge f e.flags) h.fcsr
      queue := []
      mview := h.mmode
      pend := h.pend.filter (fun p => p.entry == none)
      convoy := {} }

/-- The numbers of the control registers a save area holds, in order (R316). -/
def savedCregs : List Nat :=
  [0x000, 0x001, 0x002, 0x003, 0x004, 0x005, 0x008, 0x010, 0x011, 0x028, 0x029, 0x030, 0x031, 0x032,
   0x033, 0x034, 0x035, 0x036, 0x040, 0x041, 0x042]

/-- R316: the header of a save area. -/
def saveHeader (h : Hart) (reason : Nat) (image : Bool) : Nat :=
  b2n h.mmode * 2 ^ 41 + b2n image * 2 ^ 40 + h.core * 2 ^ 32 + h.job.tenant * 2 ^ 24 + h.hid * 2 ^ 16 +
    h.width * 2 ^ 8 + reason

/-- Everything of a save area before the restart record; its reserved dwords are 0 (R7, R316). -/
def saveFront (h : Hart) (reason : Nat) (image : Bool) : List Byte :=
  let ctl := (savedCregs.map (fun n => bytesOfNat 8 (cregVal h n).toNat)).flatten
  let regs := ((List.range 32).map (fun r => bytesOfNat 8 (if r = 0 then 0 else (mapGet 0 h.s r).toNat))).flatten
  let rs := ((List.range 16).map (fun i => bytesOfNat 8 (h.rs.getD i 0).toNat)).flatten
  bytesOfNat 8 (saveHeader h reason image) ++ ctl ++ bytesOfNat (0x200 - 8 - 8 * savedCregs.length) 0 ++
    regs ++ rs ++ bytesOfNat 0x80 0

/-- The mask and vector registers of a save area (R316). -/
def saveVectors (h : Hart) : List Byte :=
  ((List.range 8).map (fun i => bytesOfNat (64 * h.width) (mapGet 0 h.k i).toNat)).flatten ++
  ((List.range 64).map (fun i => bytesOfNat (32 * h.width) (mapGet 0 h.v i).toNat)).flatten

/-- R312, R316: the hart saved with a reason, its restart record included, and its queue cut. -/
def saveHart (s : State) (reason : Nat) (image : Bool) (cause : Nat) (ra : BitVec 48) (tval : Dword)
    (idx : Nat) : State :=
  let r := restartBytes s.hart cause ra tval idx
  let s0 := cutQueue s
  let h := s0.hart
  let s1 := savePut s0 h.job.pages 0 (saveFront h reason image)
  let s2 := savePut s1 h.job.pages 0x400 r
  savePut s2 h.job.pages 0x1400 (saveVectors h)

/-! ### Taking a trap (R117, R118) -/

/-- The bit of `tenab` that covers a cause (R116, R309). -/
def enableBit (cause : Nat) : Option Nat :=
  if cause = 0x08 then some 0
  else if cause = 0x09 then some 1
  else if 1 ≤ cause ∧ cause ≤ 5 then some 2
  else if cause = 0x0A ∨ cause = 0x0B then some 3
  else if cause = 0x20 then some 4
  else if cause = 0x16 ∨ cause = 0x19 then some 5
  else none

/-- R117: the trap goes to the job's handler. -/
def toHandler (h : Hart) (cause : Nat) : Bool :=
  match enableBit cause with
  | some b => h.tr.tenab.getLsbD b && h.tr.tvec != 0 && !h.tr.inh
  | none => false

/-- A hart that stands at an instruction anew: no wait, no transfer, a new convoy. -/
def Hart.fresh (h : Hart) : Hart :=
  { h with
    x := {}
    block := .none
    blockedBy := none
    waitEnd := none
    convoy := {} }

/-- R118: entry to the handler. -/
def enterHandler (s : State) (cause : Nat) (tval : Dword) (ra : BitVec 48) (imp grace : Bool) : State :=
  updH (bumpLink s) fun h =>
    { h.fresh with
      pc := h.tr.tvec
      tr := { h.tr with
        xpc := ra
        tcause := BitVec.ofNat 8 cause
        tval := tval
        grc := grace
        imp := imp
        inh := true } }

/-- An event put into the service complex's queue (R449). -/
def pushEvent (s : State) (e : SvcEvent) : State :=
  if s.svc.events.length < 1024 then { s with svc := { s.svc with events := s.svc.events ++ [e] } }
  else { s with svc := { s.svc with held := s.svc.held ++ [e] } }

/-- R467: the management core goes back to its ROM entry, and a telemetry entry says so. -/
def mgmtReset (s : State) : State :=
  telemetryOpen (updH s fun h => { freshHart h.key with stage := .running, width := 4, pc := 0 }) 0x0021 (some 0xFF) none

/-- R117, R118, R312, R316: a trap of the hart in focus is taken, precise or imprecise, with resume
address `ra`; `idx` is the restart entry that raised it. -/
def deliver (s : State) (t : Trap) (ra : BitVec 48) (imp : Bool) (idx : Nat) : State :=
  if s.hart.core = mgmtCore then mgmtReset s
  else
    let s0 := updH s fun h => { h with job := { h.job with lastCause := t.cause } }
    if toHandler s0.hart t.cause then
      let s1 := if imp then cutQueue (writeRestart s0 t.cause ra t.tval idx) else s0
      enterHandler s1 t.cause t.tval ra imp false
    else
      let s1 := saveHart s0 3 false t.cause ra t.tval idx
      let s2 := updH s1 fun h => { h.fresh with stage := .service, pc := ra }
      pushEvent (updH s2 fun h => { h with job := { h.job with held := true } }) (.trap s2.hart.job.job)

/-! ### How an instruction ends (R39-R42) -/

/-- R446, R447: a unit of the hart in focus has issued; a counter it configured does not count it.  A unit
that traps at its own address has not issued (log entry 47: DEDUCED). -/
def countUnit (s : State) : State :=
  let s1 := countEv s s.hart.core (some s.hart.hid) 0x02 1
  s.hart.x.cfgd.foldl (fun t n => { t with pmc := mapSet {} t.pmc n (mapGet {} s.pmc n) }) s1

/-- R446: the unit by which the hart of `s` leaves its program, with `t` left, has issued too. -/
def countLeft (s t : State) : State := countEv t s.hart.core (some s.hart.hid) 0x02 1

/-- The unit completes: the pc advances unless the unit goes on with word 1 of a paired bundle. -/
def advance (s : State) : State :=
  updH (if s.hart.x.hold then s else countUnit s) fun h =>
    if h.x.hold then h
    else
      { h with
        pc := h.x.npc.getD (h.x.iaddr + (if h.x.paired then 8 else 4))
        lastPc := h.x.iaddr
        units := h.units + 1
        ranSince := true
        block := .none
        blockedBy := none
        waitEnd := none
        convoy := if h.x.npc.isSome then { h.convoy with fresh := true } else h.convoy
        x := { h.x with npc := none, cfgd := [] } }

/-- A precise trap: taken at once, or left to the step when the unit is a paired bundle (R42). -/
def raise (s : State) (check : Nat) (t : Trap) : State :=
  if s.hart.x.paired then updH s fun h => { h with x := { h.x with trap := some t, check := check } }
  else deliver s t s.hart.x.iaddr false 63

/-- The end of an instruction. -/
def finish (r : Res) : Out :=
  match r with
  | .ok s => .next (advance s)
  | .trap c t s => .next (raise s c t)
  | .stall b s => .next (updH s fun h => { h with block := b, x := { h.x with stalled := true } })
  | .left s => .next s

/-- An instruction that waits: it is remembered, so that what ends the wait can complete it. -/
def stallOn (b : Block) (i : Instr) (s : State) : Res :=
  .stall b (updH s fun h => { h with blockedBy := some i })

/-- An execution fault. -/
def xtrap (cause : Nat) (v : Dword) (s : State) : Res := .trap 6 ⟨cause, v⟩ s

/-- The illegal-instruction trap at a check; `tval` is the instruction word (R309). -/
def illegal (check : Nat) (s : State) : Res := .trap check ⟨0x02, s.hart.x.iword.zeroExtend 64⟩ s

/-- Something a posted access leaves behind, to come back as an imprecise trap (R267, R230). -/
def post (s : State) (guard : Bool) (t : Trap) : State :=
  updH (countEv s s.hart.core (some s.hart.hid) 0x14 (b2n guard)) fun h =>
    { h with posted := h.posted ++ [⟨guard, t, h.units⟩] }

/-- A precise access (loads, atomics and the reads of instructions): its faults trap. -/
def ofLoad {α : Type} (r : XRes α) (f : α → State → Res) : Res :=
  match r with
  | .ok a s => f a s
  | .fault t s => .trap 6 t s
  | .refuse t s => .trap 6 t s
  | .guard t s => .ok (post s true t)
  | .wait s => .stall .walk s

/-- A posted scalar store: a refusal, a data error or the ring guard comes back later (R267). -/
def ofStore (r : XRes Unit) : Res :=
  match r with
  | .ok _ s => .ok s
  | .fault t s => .trap 6 t s
  | .refuse t s => .ok (post s false t)
  | .guard t s => .ok (post s true t)
  | .wait s => .stall .walk s

/-- The hart's accessor for an access of a form and kind. -/
def acc (s : State) (f : Form) (k : Kind) : Acc :=
  { hart := s.hart.key, tenant := s.hart.job.tenant, form := f, kind := k }

/-- Every element of the queues has retired (R115). -/
def drained (s : State) : Bool := s.hart.queue.isEmpty && s.hart.pend.isEmpty

/-- R258, R286, R303: an acquire of the hart in focus at group scope or wider, where it makes one. -/
def acquireIf (b : Bool) (s : State) : State := if b then acquire s s.hart.core else s

/-- An instruction that takes effect only once every queued instruction has retired: a release, a
fence, an end (R286, R291). -/
def afterQueue (i : Instr) (s : State) (f : State → Res) : Res :=
  if drained s then f s else stallOn .resync i s

/-! ### Fetching (R36, R108, R143, R259) -/

/-- The line of a core's instruction cache that holds a location under a key tag. -/
def iLine (s : State) (core l tag : Nat) : Option CLine :=
  (mapGet [] s.icache core).find? (fun x => x.line == l / 128 && x.tag == tag)

/-- R259: a line of 128 B put into a core's instruction cache of 128 sets of 4; which line of a full set
it replaces is a free value (log entry 33: DESIGN CHOICE). -/
def iFill (s : State) (core : Nat) (x : CLine) : State :=
  { s with
    icache := mapUpd [] s.icache core (fun l => cacheFill l 128 4 s.free x)
    free := s.free + 1 }

/-- A word fetched by a core from a location: what its instruction cache holds, else memory, whose
line it then holds.  A line with an uncorrectable error elsewhere in it is not held. -/
def fetchFrom (s : State) (core l tag : Nat) (pc : BitVec 48) : XRes Dword :=
  match iLine s core l tag with
  | some x => .ok (BitVec.ofNat 64 (natOfBytes ((x.data.drop (l % 128)).take 8))) s
  | none =>
    match readNat s tag l 8 with
    | none => .fault ⟨0x16, pc.zeroExtend 64⟩ s
    | some v =>
      .ok (BitVec.ofNat 64 v)
        (match readLoc s tag (l / 128 * 128) 128 with
         | some bs => iFill s core { line := l / 128, tag := tag, data := bs }
         | none => s)

/-- The bundle at an address.  A page that cannot be fetched gives the instruction-fetch fault
(R108); the management core fetches from ROM, untranslated (R467). -/
def fetchBundle (s : State) (pc : BitVec 48) : XRes Dword :=
  if s.hart.core = mgmtCore then
    .ok (BitVec.ofNat 64 (natOfBytes (getBytes s.mem (romLoc pc.toNat) 8))) s
  else
    match xlate s s.hart.key s.hart.job.tenant pc.toNat .fetch with
    | .ok e s1 =>
      if e.home = 1 && !s1.tetherUp then .fault ⟨0x06, pc.zeroExtend 64⟩ s1
      else fetchFrom (useSlice s1 e.cache (e.place s1 pc.toNat).1) s1.hart.core (e.place s1 pc.toNat).1 (e.place s1 pc.toNat).2 pc
    | .fault t s1 => .fault ⟨if t.cause = 0x14 then 0x06 else t.cause, pc.zeroExtend 64⟩ s1
    | .refuse t s1 => .fault t s1
    | .guard t s1 => .fault t s1
    | .wait s1 => .wait s1

end Sys2Proof.Machine
end

