-- ==== Sys2Proof/Machine/Operands.lean ====
section
/-! DEFINITION. Vector operands: element types (R53, R149), grants (R151), register groups
(R146-R148), masks and active elements (R153, R156, R157). -/

namespace Sys2Proof.Machine

/-! ### Element types -/

/-- R149: the width in bits of a type code. -/
def typeWidth (t : Nat) : Nat :=
  match t with
  | 0x00 | 0x04 | 0x0C | 0x0D | 0x11 | 0x12 => 8
  | 0x01 | 0x05 | 0x0A | 0x0B => 16
  | 0x02 | 0x06 | 0x09 | 0x13 | 0x14 | 0x15 => 32
  | 0x0E | 0x10 => 4
  | _ => 64

/-- The type code in `vtype`. -/
def LenRegs.type (l : LenRegs) : Nat := l.vtype.toNat % 32

/-- The grouping g of `vtype` (R54). -/
def LenRegs.grp (l : LenRegs) : Nat := 2 ^ (l.vtype.toNat / 32)

/-- The element width of `vtype`'s type. -/
def LenRegs.width (l : LenRegs) : Nat := typeWidth l.type

/-- The i types. -/
def isSigned (t : Nat) : Bool := t < 4

/-- The i and n types. -/
def isInt (t : Nat) : Bool := t < 8

/-- f64, f32, f16 and bf16. -/
def isFloat (t : Nat) : Bool := 8 ≤ t && t ≤ 0xB

/-- ci16, cf16, cbf16 and cf32. -/
def isComplex (t : Nat) : Bool := 0x13 ≤ t && t ≤ 0x16

/-- The format of a floating-point type code; the base format of a block-scaled one. -/
def fmtOf (t : Nat) : FFmt :=
  match t with
  | 0x08 => f64
  | 0x09 => f32
  | 0x0A => f16
  | 0x0B => bf16
  | 0x0C | 0x11 => f8a
  | 0x0D | 0x12 => f8b
  | _ => f4

/-! ### Grants (R149, R151) -/

/-- The largest vector length of a hart of `w` lanes under the `vtype` of `l`. -/
def vmax (w : Nat) (l : LenRegs) : Nat := l.grp * w * 256 / l.width

/-- R151: rows and columns granted. -/
def grant (w : Nat) (l : LenRegs) (r c : Nat) : LenRegs :=
  if r = 0 ∨ c = 0 then { l with rowc := 1, colc := 0, vl := 0, rowi := 0, coli := 0 }
  else
    let col := min c (vmax w l)
    let row := min r (vmax w l / col)
    { l with rowc := row, colc := col, vl := row * col, rowi := 0, coli := 0 }

/-- R152: a new `vtype`; a reserved type code leaves everything. -/
def setVtype (w : Nat) (l : LenRegs) (v : Nat) : LenRegs :=
  if typeCodeKnown (BitVec.ofNat 5 v) then
    let l1 := { l with vtype := BitVec.ofNat 7 v }
    grant w l1 l1.rowc l1.colc
  else l

/-! ### Registers and masks -/

/-- Element `i` of width `b` of the group at a register (R146). -/
def getElem (h : Hart) (base b i : Nat) : Nat :=
  let n := 256 * h.width
  ((mapGet 0 h.v ((base + i * b / n) % 64)).extractLsb' (i * b % n) b).toNat

/-- A field of a wide word replaced. -/
def putBits {n : Nat} (x : BitVec n) (pos b v : Nat) : BitVec n :=
  (x &&& ~~~(BitVec.ofNat n (2 ^ b - 1) <<< pos)) ||| (BitVec.ofNat n (v % 2 ^ b) <<< pos)

/-- Element `i` of a group written. -/
def putElem (h : Hart) (base b i v : Nat) : Hart :=
  let n := 256 * h.width
  let r := (base + i * b / n) % 64
  { h with v := mapSet 0 h.v r (putBits (mapGet 0 h.v r) (i * b % n) b v) }

/-- Some elements of a group written, in order. -/
def putElems (h : Hart) (base b : Nat) (l : List (Nat × Nat)) : Hart :=
  l.foldl (fun h p => putElem h base b p.1 p.2) h

/-- A mask register. -/
def getMask (h : Hart) (k : Nat) : BitVec 16384 := mapGet 0 h.k k

/-- A mask register replaced; it has 512 bits for each lane (R156). -/
def setMask (h : Hart) (k : Nat) (m : BitVec 16384) : Hart :=
  { h with k := mapSet 0 h.k k (m &&& BitVec.ofNat 16384 (2 ^ (512 * h.width) - 1)) }

/-- Bit `i` of a mask operand; operand 0 is unmasked (R158). -/
def sel (h : Hart) (k : BitVec 3) (i : Nat) : Bool := k == 0 || (getMask h k.toNat).getLsbD i

/-- Some bits of a mask register written. -/
def putMask (h : Hart) (k : Nat) (l : List (Nat × Bool)) : Hart :=
  setMask h k (l.foldl (fun m p => putBits m p.1 1 (b2n p.2)) (getMask h k))

/-- R153: the starting element of an element-wise instruction. -/
def LenRegs.e0 (l : LenRegs) : Nat := l.rowi * l.colc + l.coli

/-- The numbers from `a` below `b`. -/
def span (a b : Nat) : List Nat := (List.range (b - a)).map (fun i => a + i)

/-- R157: the active elements of an element-wise instruction. -/
def activeFrom (h : Hart) (l : LenRegs) (k : BitVec 3) : List Nat := (span l.e0 l.vl).filter (fun i => sel h k i)

/-- R157: the active elements of a whole instruction. -/
def activeAll (h : Hart) (l : LenRegs) (k : BitVec 3) : List Nat := (List.range l.vl).filter (fun i => sel h k i)

/-! ### Checks 3 and 4 of R63 -/

/-- A register operand: its first register and how many it covers. -/
structure VRegs where
  base : Nat
  count : Nat
  deriving DecidableEq, Repr

/-- A group of `n` registers is aligned and lies in the file (R148). -/
def VRegs.aligned (r : VRegs) : Bool := r.count ≤ 8 && r.base % r.count == 0 && r.base + r.count ≤ 64

/-- R63 check 3: the operand covers one of v48-v63. -/
def VRegs.inTile (r : VRegs) : Bool := 48 < r.base + r.count

/-- R63 checks 3 and 4 for a vector instruction: the operands, in matrix mode, and whether the
instruction accepts the lengths and type.  It gives the check and the cause. -/
def vcheck (view : Bool) (regs : List VRegs) (accepts : Bool) : Option (Nat × Nat) :=
  if view && regs.any (fun r => r.inTile) then some (3, 0x03)
  else if !accepts || regs.any (fun r => !r.aligned) then some (4, 0x02)
  else none

/-- A group operand of `vtype`'s width. -/
def grpReg (l : LenRegs) (v : BitVec 6) : VRegs := ⟨v.toNat, l.grp⟩

/-- A group operand of twice `vtype`'s width (R148). -/
def wideReg (l : LenRegs) (v : BitVec 6) : VRegs := ⟨v.toNat, 2 * l.grp⟩

/-- A single register. -/
def oneReg (v : BitVec 6) : VRegs := ⟨v.toNat, 1⟩

end Sys2Proof.Machine
end

