-- ==== Sys2Proof/Machine/Resources.lean ====
section
/-! DEFINITION. The issue resources (R44, R45, R60), the queues (R160), and the kinds of
instruction a convoy's rules name (R46). -/

namespace Sys2Proof

/-- LD, the vector load pipe. -/
def resLD : BitVec 7 := 1

/-- ST, the vector store pipe. -/
def resST : BitVec 7 := 2

/-- VA, the main vector ALU and FMA. -/
def resVA : BitVec 7 := 4

/-- VB, integer, logic, compare and mask. -/
def resVB : BitVec 7 := 8

/-- SF, special functions and divide. -/
def resSF : BitVec 7 := 16

/-- SL, slide and permute. -/
def resSL : BitVec 7 := 32

/-- MX, matrix issue. -/
def resMX : BitVec 7 := 64

/-- R44, R45, R60: the resources an instruction takes. -/
def Instr.res (i : Instr) : BitVec 7 :=
  match i with
  | .vld .. | .vlds .. | .vldx .. | .vld2d .. | .vldw .. | .vldl .. => resLD
  | .vst .. | .vsts .. | .vstx .. | .vst2d .. | .vstc .. | .vamoAdd .. | .vamoMin .. | .vamoMax ..
  | .vamoOr .. | .vamoXor .. => resST
  | .vadd .. | .vsub .. | .vmin .. | .vmax .. | .vminn .. | .vmaxn .. | .vabs .. | .vand .. | .vor ..
  | .vxor .. | .vsll .. | .vsrl .. | .vsra .. | .vsadd .. | .vssub .. | .vsaddn .. | .vssubn ..
  | .vnclip .. | .vcmp .. | .vcmpn .. | .vfcmp .. | .kand .. | .kor .. | .kxor .. | .kandn ..
  | .knot .. | .kmov .. | .kpopc .. | .kfirst .. | .vfabs .. | .vfneg .. | .vfclass .. | .vredsum ..
  | .vredmin .. | .vredmax .. | .vredsumw .. => resVB
  | .vwadd .. | .vwmul .. | .vfwmul .. | .vfwmacc .. => resVA ||| resSL
  | .vmacc .. | .vmul .. | .vmulh .. | .vmulhn .. | .vfadd .. | .vfsub .. | .vfmul .. | .vfmin ..
  | .vfmax .. | .vfsgnj .. | .vfmadd .. | .vfmsub .. | .vfnmadd .. | .vfnmsub .. | .vfcvt ..
  | .vfcvtRtz .. | .vcmul .. | .vcmac .. | .vcmacj .. | .vcconj .. | .vcabs2 .. | .vcrot ..
  | .vbfly .. | .vbfly4 .. | .vtgj .. | .vtchol .. | .vtmul .. | .vtherm .. | .vfredsum ..
  | .vfredmin .. | .vfredmax .. | .vcredsum .. => resVA
  | .vdiv .. | .vdivn .. | .vrem .. | .vremn .. | .vfdiv .. | .vfsqrt .. | .vfrec .. | .vfrsqrt ..
  | .vfsin .. | .vfcos .. | .vfsint .. | .vfcost .. | .vfexp2 .. | .vflog2 .. | .vfatan2 ..
  | .vftanh .. => resSF
  | .vmv .. | .vslideup .. | .vslidedn .. | .vslide1up .. | .vslide1dn .. | .vgather ..
  | .vcompress .. | .vexpand .. | .vmerge .. | .vid .. | .viota .. | .vzip .. | .vunzip ..
  | .vtrn .. | .vbcast .. | .vmvs .. | .vins .. => resSL
  | .menter | .mexit | .mzero | .mop .. | .mopv .. | .mld .. | .mst .. | .mcvt .. => resMX
  | _ => 0

/-- R160: the queue a set of resources issues to: 0 arithmetic, 1 memory, 2 matrix. -/
def queueOfRes (r : BitVec 7) : Option Nat :=
  if r = 0 then none else if r &&& 3 != 0 then some 1 else if r = resMX then some 2 else some 0

/-- R160: the queue an instruction issues to. -/
def Instr.queueOf (i : Instr) : Option Nat := queueOfRes i.res

/-- R115: the control registers whose access resynchronises. -/
def cregResync (n : BitVec 12) : Bool := n == 0x008 || n == 0x010 || n == 0x011

/-- R46 rule 5, R92, R115: the resynchronising instructions and accesses. -/
def Instr.resync (i : Instr) : Bool :=
  match i with
  | .vmvs .. | .kpopc .. | .kfirst .. | .vredsum .. | .vredmin .. | .vredmax .. | .vfredsum ..
  | .vfredmin .. | .vfredmax .. | .vcredsum .. | .vredsumw .. => true
  | .mfc _ c => cregResync c
  | .mtc _ _ c => cregResync c
  | .setc _ _ c => cregResync c
  | .clrc _ _ c => cregResync c
  | _ => false

/-- R46 rule 3: `vl`, `vtype`, `rowc` and `colc`. -/
def cregLength (n : BitVec 12) : Bool := n.toNat < 4

/-- R46 rule 3: the vector configuration instructions and writes. -/
def Instr.configures (i : Instr) : Bool :=
  match i with
  | .setvl .. | .setvli .. | .settile .. => true
  | .mtc _ _ c => cregLength c
  | .setc _ _ c => cregLength c
  | .clrc _ _ c => cregLength c
  | _ => false

/-- R46 rule 4: `menter` and `mexit`. -/
def Instr.changesMode (i : Instr) : Bool :=
  match i with
  | .menter | .mexit => true
  | _ => false

/-- R153: the whole instructions, which ignore the starting element and are never cut partway. -/
def Instr.whole (i : Instr) : Bool :=
  match i with
  | .kand .. | .kor .. | .kxor .. | .kandn .. | .knot .. | .kmov .. | .kpopc .. | .kfirst ..
  | .vslideup .. | .vslidedn .. | .vslide1up .. | .vslide1dn .. | .vgather .. | .vcompress ..
  | .vexpand .. | .viota .. | .vzip .. | .vunzip .. | .vtrn .. | .vmvs .. | .vins .. | .vbfly ..
  | .vbfly4 .. | .vtgj .. | .vtchol .. | .vtmul .. | .vtherm .. | .vredsum .. | .vredmin ..
  | .vredmax .. | .vfredsum .. | .vfredmin .. | .vfredmax .. | .vcredsum .. | .vredsumw ..
  | .menter | .mexit | .mzero | .mop .. | .mopv .. | .mld .. | .mst .. | .mcvt .. => true
  | _ => false

/-- The instruction may write vector registers among v0-v31. -/
def Instr.writesVectors (i : Instr) : Bool :=
  match i with
  | .vst .. | .vsts .. | .vstx .. | .vst2d .. | .vstc .. | .vamoAdd .. | .vamoMin .. | .vamoMax ..
  | .vamoOr .. | .vamoXor .. | .vcmp .. | .vcmpn .. | .vfcmp .. | .kand .. | .kor .. | .kxor ..
  | .kandn .. | .knot .. | .kmov .. | .kpopc .. | .kfirst .. | .vmvs .. | .vredsum .. | .vredmin ..
  | .vredmax .. | .vfredsum .. | .vfredmin .. | .vfredmax .. | .vcredsum .. | .vredsumw ..
  | .menter | .mexit | .mzero | .mop .. | .mopv .. | .mld .. | .mst .. | .mcvt .. => false
  | _ => true

/-- R138, R347, R432: instructions that must stand alone in their issue unit. -/
def Instr.standsAlone (i : Instr) : Bool :=
  match i with
  | .svc .. | .brk .. | .tret | .halt | .exitJob .. | .yieldJob | .barWait .. | .barWaitt ..
  | .tktWait .. | .tktWaitt .. | .winaWait .. | .winaWaitt .. => true
  | _ => false

/-- R505: the scalar register an instruction of a paired bundle writes: its sd result, or the counter
of `loop`; 0 where there is none, and for those that cannot stand in a paired bundle. -/
def Instr.scalarDest (i : Instr) : BitVec 5 :=
  match i with
  | .mfc sd .. | .mtc sd .. | .setc sd .. | .clrc sd .. | .add sd .. | .sub sd .. | .and sd ..
  | .or sd .. | .xor sd .. | .sll sd .. | .srl sd .. | .sra sd .. | .min sd .. | .max sd ..
  | .minn sd .. | .maxn sd .. | .slt sd .. | .sltn sd .. | .addi sd .. | .andi sd .. | .ori sd ..
  | .xori sd .. | .slli sd .. | .srli sd .. | .srai sd .. | .slti sd .. | .sltin sd .. | .lui sd ..
  | .sitea sd .. | .siteaRel sd .. | .here sd | .mul sd .. | .mulh sd .. | .mulhn sd ..
  | .div sd .. | .divn sd .. | .rem sd .. | .remn sd .. | .clz sd .. | .ctz sd .. | .popc sd ..
  | .bswap sd .. | .ext sd .. | .lds sd .. | .amoAdd sd .. | .amoAnd sd .. | .amoOr sd ..
  | .amoXor sd .. | .amoMin sd .. | .amoMax sd .. | .amoMinn sd .. | .amoMaxn sd ..
  | .amoSwap sd .. | .amoCas sd .. | .amoFadd sd .. | .setvl sd .. | .setvli sd .. | .settile sd ..
  | .spawn sd .. | .gang sd .. | .abandon sd .. | .setdl sd .. | .depInit sd .. | .depAdd sd ..
  | .depDec sd .. | .depGet sd .. | .barInit sd .. | .barArrive sd .. | .barArriveFsum sd ..
  | .barArriveFsum2 sd .. | .barArriveIsum sd .. | .tktTake sd .. | .tktGive sd .. | .winCfg sd ..
  | .winPop sd .. | .winGet sd .. | .winArm sd .. | .splRun sd .. | .splPush sd ..
  | .splMcast sd .. | .splStat sd .. | .cpost sd .. | .cstat sd .. | .msgSend sd .. | .now sd ..
  | .pmc sd .. | .pmcCfg sd .. | .kpopc sd .. | .kfirst sd .. | .vmvs sd .. | .vredsum sd ..
  | .vredmin sd .. | .vredmax sd .. | .vfredsum sd .. | .vfredmin sd .. | .vfredmax sd ..
  | .vcredsum sd .. | .vredsumw sd .. | .fadd sd .. | .fsub sd .. | .fmul sd .. | .fdiv sd ..
  | .fsqrt sd .. | .fmadd sd .. | .fmin sd .. | .fmax sd .. | .adpc sd .. | .fcmp sd ..
  | .fcvt sd .. | .fclass sd .. | .fmv sd .. => sd
  | .loop sa _ => sa
  | _ => 0

end Sys2Proof
end

