-- ==== Sys2Proof/Machine/Scalar.lean ====
section
/-! DEFINITION. The integer instructions and site arithmetic (R78, R79, R123-R127). -/

namespace Sys2Proof.Machine

/-- An instruction whose only effect is a value in a scalar register. -/
def result (s : State) (sd : BitVec 5) (v : Dword) : Out := finish (.ok (wrS s sd v))

/-- A Bool as a register value. -/
def flag01 (c : Bool) : Dword := if c then 1 else 0

/-- `min` and the like: `a` where the relation holds, else `b`. -/
def pick (c : Bool) (a b : Dword) : Dword := if c then a else b

/-- Bits [127:64] of a product. -/
def highHalf (p : Int) : Dword := BitVec.ofInt 64 (p / 2 ^ 64)

/-- R78: a signed quotient truncates toward zero; by 0 it is −1, and of the most negative by −1 it
wraps to itself. -/
def divS (b : Nat) (x y : BitVec b) : BitVec b := if y = 0 then BitVec.allOnes b else BitVec.ofInt b (x.toInt.tdiv y.toInt)

/-- R78: a natural quotient; by 0 it is all ones. -/
def divU (b : Nat) (x y : BitVec b) : BitVec b := if y = 0 then BitVec.allOnes b else x / y

/-- R78: a signed remainder has the sign of the dividend; by 0 it is the dividend. -/
def remS (b : Nat) (x y : BitVec b) : BitVec b := if y = 0 then x else BitVec.ofInt b (x.toInt.tmod y.toInt)

/-- R78: a natural remainder; by 0 it is the dividend. -/
def remU (b : Nat) (x y : BitVec b) : BitVec b := if y = 0 then x else x % y

/-- The number of leading zeros of the low `n` bits. -/
def leadZeros (x : Dword) : Nat → Nat
  | 0 => 0
  | n + 1 => if x.getLsbD n then 0 else 1 + leadZeros x n

/-- The number of trailing zeros, seen from bit `i` with `n` bits left. -/
def trailZeros (x : Dword) : Nat → Nat → Nat
  | 0, _ => 0
  | n + 1, i => if x.getLsbD i then 0 else 1 + trailZeros x n (i + 1)

/-- The number of ones among the low `n` bits. -/
def ones (x : Dword) : Nat → Nat
  | 0 => 0
  | n + 1 => b2n (x.getLsbD n) + ones x n

/-- The 8 bytes in reverse order. -/
def swapBytes (x : Dword) : Dword :=
  BitVec.ofNat 64 (natOfBytes (bytesOfNat 8 x.toNat).reverse)

/-- R123: the low 8, 16 or 32 bits extended, as signed (the `i` suffixes) or natural. -/
def extend (sign : Bool) (w : Nat) (x : Dword) : Dword :=
  if sign then (x.truncate w).signExtend 64 else (x.truncate w).zeroExtend 64

def execAdd (sd sa sb : BitVec 5) (s : State) : Out := result s sd (rdS s sa + rdS s sb)
def execSub (sd sa sb : BitVec 5) (s : State) : Out := result s sd (rdS s sa - rdS s sb)
def execAnd (sd sa sb : BitVec 5) (s : State) : Out := result s sd (rdS s sa &&& rdS s sb)
def execOr (sd sa sb : BitVec 5) (s : State) : Out := result s sd (rdS s sa ||| rdS s sb)
def execXor (sd sa sb : BitVec 5) (s : State) : Out := result s sd (rdS s sa ^^^ rdS s sb)
/-- R79: the amount is taken modulo 64. -/
def execSll (sd sa sb : BitVec 5) (s : State) : Out := result s sd (rdS s sa <<< ((rdS s sb).toNat % 64))
def execSrl (sd sa sb : BitVec 5) (s : State) : Out := result s sd (rdS s sa >>> ((rdS s sb).toNat % 64))
def execSra (sd sa sb : BitVec 5) (s : State) : Out := result s sd ((rdS s sa).sshiftRight ((rdS s sb).toNat % 64))
def execMin (sd sa sb : BitVec 5) (s : State) : Out :=
  result s sd (pick ((rdS s sa).slt (rdS s sb)) (rdS s sa) (rdS s sb))
def execMax (sd sa sb : BitVec 5) (s : State) : Out :=
  result s sd (pick ((rdS s sb).slt (rdS s sa)) (rdS s sa) (rdS s sb))
def execMinn (sd sa sb : BitVec 5) (s : State) : Out :=
  result s sd (pick ((rdS s sa).ult (rdS s sb)) (rdS s sa) (rdS s sb))
def execMaxn (sd sa sb : BitVec 5) (s : State) : Out :=
  result s sd (pick ((rdS s sb).ult (rdS s sa)) (rdS s sa) (rdS s sb))
def execSlt (sd sa sb : BitVec 5) (s : State) : Out := result s sd (flag01 ((rdS s sa).slt (rdS s sb)))
def execSltn (sd sa sb : BitVec 5) (s : State) : Out := result s sd (flag01 ((rdS s sa).ult (rdS s sb)))

def execMul (sd sa sb : BitVec 5) (s : State) : Out := result s sd (rdS s sa * rdS s sb)
def execMulh (sd sa sb : BitVec 5) (s : State) : Out :=
  result s sd (highHalf ((rdS s sa).toInt * (rdS s sb).toInt))
def execMulhn (sd sa sb : BitVec 5) (s : State) : Out :=
  result s sd (highHalf ((rdS s sa).toNat * (rdS s sb).toNat))
def execDiv (sd sa sb : BitVec 5) (s : State) : Out := result s sd (divS 64 (rdS s sa) (rdS s sb))
def execDivn (sd sa sb : BitVec 5) (s : State) : Out := result s sd (divU 64 (rdS s sa) (rdS s sb))
def execRem (sd sa sb : BitVec 5) (s : State) : Out := result s sd (remS 64 (rdS s sa) (rdS s sb))
def execRemn (sd sa sb : BitVec 5) (s : State) : Out := result s sd (remU 64 (rdS s sa) (rdS s sb))

def execClz (sd sa : BitVec 5) (s : State) : Out := result s sd (BitVec.ofNat 64 (leadZeros (rdS s sa) 64))
def execCtz (sd sa : BitVec 5) (s : State) : Out := result s sd (BitVec.ofNat 64 (trailZeros (rdS s sa) 64 0))
def execPopc (sd sa : BitVec 5) (s : State) : Out := result s sd (BitVec.ofNat 64 (ones (rdS s sa) 64))
def execBswap (sd sa : BitVec 5) (s : State) : Out := result s sd (swapBytes (rdS s sa))
/-- R58, R123: width code 0, 1, 2 for 8, 16, 32 bits. -/
def execExt (sd sa : BitVec 5) (sign : BitVec 1) (width : BitVec 2) (s : State) : Out :=
  result s sd (extend (sign == 1) (8 * 2 ^ width.toNat) (rdS s sa))

/-! ### Immediate forms (R124, R125) -/

def execAddi (sd sa : BitVec 5) (imm : BitVec 14) (s : State) : Out :=
  result s sd (rdS s sa + imm.signExtend 64)
def execAndi (sd sa : BitVec 5) (imm : BitVec 12) (s : State) : Out :=
  result s sd (rdS s sa &&& imm.signExtend 64)
def execOri (sd sa : BitVec 5) (imm : BitVec 12) (s : State) : Out :=
  result s sd (rdS s sa ||| imm.signExtend 64)
def execXori (sd sa : BitVec 5) (imm : BitVec 12) (s : State) : Out :=
  result s sd (rdS s sa ^^^ imm.signExtend 64)
def execSlli (sd sa : BitVec 5) (sh : BitVec 6) (s : State) : Out := result s sd (rdS s sa <<< sh.toNat)
def execSrli (sd sa : BitVec 5) (sh : BitVec 6) (s : State) : Out := result s sd (rdS s sa >>> sh.toNat)
def execSrai (sd sa : BitVec 5) (sh : BitVec 6) (s : State) : Out := result s sd ((rdS s sa).sshiftRight sh.toNat)
def execSlti (sd sa : BitVec 5) (imm : BitVec 13) (s : State) : Out :=
  result s sd (flag01 ((rdS s sa).slt (imm.signExtend 64)))
def execSltin (sd sa : BitVec 5) (imm : BitVec 13) (s : State) : Out :=
  result s sd (flag01 ((rdS s sa).ult (imm.signExtend 64)))
def execLui (sd : BitVec 5) (imm : BitVec 19) (s : State) : Out := result s sd (imm.signExtend 64 <<< 13)
/-- The sum is truncated to 48 bits (R125). -/
def execAdpc (sd : BitVec 5) (imm : BitVec 19) (s : State) : Out :=
  result s sd ((bundleAddr s + imm.signExtend 48 <<< 13).zeroExtend 64)

/-! ### Site arithmetic (R126, R127) -/

/-- R126: a site address from its fields. -/
def formSite (twin rel x y : Nat) (o : Dword) : Dword :=
  BitVec.ofNat 64 (0xFE * 2 ^ 56 + twin * 2 ^ 55 + rel * 2 ^ 54 + x * 2 ^ 49 + y * 2 ^ 44 + o.toNat % 2 ^ 20)

def execSitea (sd sa : BitVec 5) (twin : BitVec 1) (x y : BitVec 5) (s : State) : Out :=
  result s sd (formSite twin.toNat 0 x.toNat y.toNat (rdS s sa))
def execSiteaRel (sd sa : BitVec 5) (twin : BitVec 1) (x y : BitVec 5) (s : State) : Out :=
  result s sd (formSite twin.toNat 1 x.toNat y.toNat (rdS s sa))
/-- R127: the hart's own core, offset 0. -/
def execHere (sd : BitVec 5) (s : State) : Out :=
  result s sd (formSite 0 0 (coreX s.hart.core) (coreY s.hart.core) 0)

end Sys2Proof.Machine
end

