-- ==== Sys2Proof/Machine/ControlRegs.lean ====
section
/-! DEFINITION. Moves to and from control registers (R111-R116, R137, R152), the length
instructions (R151, R168), and the convoy rules they come under (R46). -/

namespace Sys2Proof.Machine

/-! ### Convoys (R46, R47) -/

/-- The convoy with an instruction added; none when that breaks R46.  `joins` when the unit
continues the convoy. -/
def Convoy.add (c : Convoy) (joins : Bool) (i : Instr) : Option Convoy :=
  let r := i.res
  if r = 0 then
    if i.configures && joins && c.count != 0 then none else some { c with resync := c.resync || i.resync }
  else if c.used &&& r != 0 || c.count ≥ 4 || c.resync || c.mode || (i.changesMode && c.count != 0) then none
  else
    some { c with
      used := c.used ||| r
      count := c.count + 1
      resync := i.resync
      mode := i.changesMode }

/-- Check 5 of R63: the instruction joins the convoy, or raises the illegal-convoy trap. -/
def withConvoy (i : Instr) (s : State) (f : State → Res) : Res :=
  match s.hart.convoy.add s.hart.x.joins i with
  | none => .trap 5 ⟨0x04, s.hart.x.iword.zeroExtend 64⟩ s
  | some c => f (updH s fun h => { h with convoy := c })

/-! ### Control registers -/

/-- A control register written by `mtc`, `setc` or `clrc`: only its RW fields (R112, R116, R152). -/
def cregWrite (h : Hart) (n : Nat) (v : Dword) : Hart :=
  let x := v.toNat % 2 ^ 15
  match n with
  | 0x000 => { h with len := grant h.width h.len 1 x }
  | 0x001 => { h with len := setVtype h.width h.len v.toNat }
  | 0x002 => { h with len := grant h.width h.len x h.len.colc }
  | 0x003 => { h with len := grant h.width h.len h.len.rowc x }
  | 0x004 => { h with len := { h.len with rowi := x } }
  | 0x005 => { h with len := { h.len with coli := x } }
  | 0x008 => { h with fcsr := fcsrWrite h.fcsr v }
  | 0x029 => { h with jprog := v }
  | 0x030 => { h with tr := { h.tr with tvec := v.truncate 48 &&& ~~~(7 : BitVec 48) } }
  | 0x031 => { h with tr := { h.tr with tenab := v.truncate 6 } }
  | 0x033 => { h with tr := { h.tr with tcause := v.truncate 8 } }
  | 0x034 => { h with tr := { h.tr with tval := v } }
  | 0x035 => { h with tr := { h.tr with xpc := v.truncate 48 } }
  | 0x036 => { h with tr := { h.tr with tscratch := v } }
  | 0x040 => { h with vsync := v.truncate 48 }
  | _ => h

/-- A move of a control register: it waits for the queues when it resynchronises and counts then
(R115); `old` is the whole register before the write, and `new` what is written, if anything. -/
def cregMove (i : Instr) (sd : BitVec 5) (creg : BitVec 12) (new : Option (Dword → Dword)) (s : State) : Res :=
  withConvoy i s fun s0 =>
    if cregResync creg && !drained s0 then stallOn .resync i s
    else
      let s1 := if cregResync creg then
          updH (countEv s0 s0.hart.core (some s0.hart.hid) 0x0A 1) fun h => { h with vsync := h.vsync + 1 }
        else s0
      let old := cregVal s1.hart creg.toNat
      let s2 := match new with
        | none => s1
        | some f => updH s1 fun h => cregWrite h creg.toNat (f old)
      .ok (wrS s2 sd old)

def mfcR (sd : BitVec 5) (creg : BitVec 12) (s : State) : Res := cregMove (.mfc sd creg) sd creg none s
def mtcR (sd sa : BitVec 5) (creg : BitVec 12) (s : State) : Res :=
  cregMove (.mtc sd sa creg) sd creg (some fun _ => rdS s sa) s
def setcR (sd sa : BitVec 5) (creg : BitVec 12) (s : State) : Res :=
  cregMove (.setc sd sa creg) sd creg (some fun old => old ||| rdS s sa) s
def clrcR (sd sa : BitVec 5) (creg : BitVec 12) (s : State) : Res :=
  cregMove (.clrc sd sa creg) sd creg (some fun old => old &&& ~~~rdS s sa) s

def execMfc (sd : BitVec 5) (creg : BitVec 12) (s : State) : Out := finish (mfcR sd creg s)
def execMtc (sd sa : BitVec 5) (creg : BitVec 12) (s : State) : Out := finish (mtcR sd sa creg s)
def execSetc (sd sa : BitVec 5) (creg : BitVec 12) (s : State) : Out := finish (setcR sd sa creg s)
def execClrc (sd sa : BitVec 5) (creg : BitVec 12) (s : State) : Out := finish (clrcR sd sa creg s)

/-! ### Setting the length (R168) -/

/-- The length registers replaced, and a result written. -/
def setLen (i : Instr) (sd : BitVec 5) (l : LenRegs) (v : LenRegs → Nat) (s : State) : Out :=
  finish (withConvoy i s fun s1 =>
    .ok (wrS (updH s1 fun h => { h with len := l }) sd (BitVec.ofNat 64 (v l))))

/-- R168: `vtype` := grp ‖ typ, then a grant of one row. -/
def lenOf (s : State) (typ : BitVec 5) (grp : BitVec 2) (n : Nat) : LenRegs :=
  grant s.hart.width { s.hart.len with vtype := (grp ++ typ) } 1 n

def execSetvl (sd sa : BitVec 5) (typ : BitVec 5) (grp : BitVec 2) (s : State) : Out :=
  setLen (.setvl sd sa typ grp) sd (lenOf s typ grp (rdS s sa).toNat) (fun l => l.vl) s
def execSetvli (sd : BitVec 5) (typ : BitVec 5) (grp : BitVec 2) (imm : BitVec 10) (s : State) : Out :=
  setLen (.setvli sd typ grp imm) sd (lenOf s typ grp imm.toNat) (fun l => l.vl) s
def execSettile (sd sa sb : BitVec 5) (s : State) : Out :=
  setLen (.settile sd sa sb) sd (grant s.hart.width s.hart.len (rdS s sa).toNat (rdS s sb).toNat)
    (fun l => l.rowc) s

end Sys2Proof.Machine
end

