-- ==== Sys2Proof/Machine/VecCore.lean ====
section
/-! DEFINITION. Vector instructions as they issue, wait in their queues, run and retire (R92, R94,
R153, R157-R161, R276, R308). -/

namespace Sys2Proof.Machine

/-- What running a queued instruction gives. -/
inductive VRes where
  /-- it completed, with the flags of what it did now -/
  | done (s : State) (f : Flags)
  /-- it waits where the entry says -/
  | more (s : State) (e : QEntry)
  /-- an imprecise trap at the element group where the entry says -/
  | fault (s : State) (e : QEntry) (t : Trap)
  deriving DecidableEq, Repr

/-- A vector, vector-memory or matrix instruction: its checks 3 and 4 of R63 (the check and the
cause), from the hart's width, the decoder's view of the mode and the length registers; and what it
does with what it captured. -/
structure VOp where
  check : Nat → Bool → LenRegs → Option (Nat × Nat)
  run : State → QEntry → VRes

/-- R92, R94: an instruction retires with flags; an enabled one is an imprecise trap. -/
def retire (s : State) (f : Flags) : State :=
  let s1 := mergeFlags s f
  if fpTraps s1.hart.fcsr f then
    updH s1 fun h => { h with pend := h.pend ++
      [⟨none, ⟨0x20, ((fcsrEnables h.fcsr &&& f).zeroExtend 64) <<< 8⟩, h.units⟩] }
  else s1

/-! ### Element groups counted (R147, R164, R243, R446) -/

/-- The mask operand an instruction word names (R50, R51); 0 where it has none, or where it does not
mask. -/
def maskField (w : BitVec 32) : BitVec 3 :=
  let m := (w.extractLsb' 24 6).toNat
  let fn := (w.extractLsb' 0 3).toNat
  if m ≤ 0x16 then w.extractLsb' 5 3
  else if m = 0x27 && fn = 0 then 0
  else if m = 0x28 || m = 0x31 || (m = 0x26 && 1 ≤ fn && fn ≤ 4) || (m = 0x30 && !w.getLsbD 3 && fn < 2) then
    w.extractLsb' 4 3
  else w.extractLsb' 3 3

/-- The width whose element groups an instruction's pipe accepts: the widest operand's (R147), but a widening
instruction's source (R165). -/
def pipeWidth (e : QEntry) : Nat :=
  match e.instr with
  | .vnclip .. => 2 * e.len.width
  | .vfcvt _ _ dt _ | .vfcvtRtz _ _ dt _ => max e.len.width (typeWidth dt.toNat)
  | .vldx .. | .vstx .. | .vldl .. | .vstc .. | .vamoAdd .. | .vamoMin .. | .vamoMax .. | .vamoOr ..
  | .vamoXor .. => max e.len.width 32
  | _ => e.len.width

/-- The grid steps of an instruction (R225, R243). -/
def gridSteps (i : Instr) : Nat :=
  match i with
  | .mop _ _ _ _ ks => ks.toNat + 1
  | .mopv _ _ _ ks => 2 ^ ks.toNat
  | _ => 0

/-- R446: what an instruction did from its starting element to an element is counted: the element groups its
pipes accepted, and, if it is masked, those its scan skipped, the prestart ones included (R164). -/
def countGroups (h : Hart) (e : QEntry) (stop : Nat) (s : State) : State :=
  if s.pmc.isEmpty || e.queue = 2 then s
  else
    let per := 64 * h.width / pipeWidth e
    let k := maskField e.word
    let all := if e.len.e0 < stop || stop = e.len.vl then
        span (if e.begun then e.len.e0 / per else 0) ((stop + per - 1) / per)
      else []
    let act := all.filter (fun g => (span (max (g * per) e.len.e0) (min (g * per + per) stop)).any (fun i => sel h k i))
    let pipes := ([(resVA, 3), (resVB, 4), (resSF, 5), (resSL, 6), (resLD, 7), (resST, 8)] :
      List (BitVec 7 × Nat)).filter (fun p => e.instr.res &&& p.1 != 0)
    let s1 := pipes.foldl (fun s p => countEv s h.core (some h.hid) p.2 act.length) s
    countEv s1 h.core (some h.hid) 0x0C (if k = 0 then 0 else all.length - act.length)

/-- R446: the grid steps of an instruction that has completed are counted. -/
def countSteps (h : Hart) (e : QEntry) (s : State) : State :=
  if s.pmc.isEmpty then s else countEv s h.core (some h.hid) 0x09 (gridSteps e.instr)

/-- The head of the queue, which stood as `e0` in hart `h`, ran, its rest being `q`. -/
def settleRun (h : Hart) (e0 : QEntry) (r : VRes) (f0 : Flags) (q : List QEntry) : State :=
  match r with
  | .done s f =>
    retire (updH (countSteps h e0 (countGroups h e0 e0.len.vl s)) fun h => { h with queue := q }) (f0 ||| f)
  | .more s e => updH (countGroups h e0 e.len.e0 s) fun h => { h with queue := e :: q }
  | .fault s e t =>
    updH (countGroups h e0 e.len.e0 s) fun h => { h with queue := e :: q, pend := h.pend ++ [⟨some 0, t, h.units⟩] }

/-- R160: room in a queue. -/
def queueRoom (h : Hart) (q : Nat) : Bool :=
  (h.queue.filter (fun e => e.queue == q)).length < (if q = 0 then 32 else if q = 1 then 16 else 8)

/-- R153, R167: the length and view registers an instruction captures: a whole one ignores the starting
element. -/
def viewOf (i : Instr) (l : LenRegs) : LenRegs := if i.whole then { l with rowi := 0, coli := 0 } else l

/-- R92, R160: what an instruction captures as it issues. -/
def capture (s : State) (i : Instr) (sa sb : Dword) : QEntry :=
  { instr := i
    word := s.hart.x.iword
    addr := s.hart.x.iaddr
    joins := s.hart.convoy.count != 0
    queue := i.queueOf.getD 0
    sa := sa
    sb := sb
    len := viewOf i (lenNow s)
    rm := (fcsrNow s).extractLsb' 0 3
    satfp := fcsrSat (fcsrNow s)
    order := s.hart.units }

/-- R153: an instruction of majors 0x14-0x16 and 0x20-0x31 clears `rowi` and `coli` as it issues, also
what word 0 of its bundle has written there (log entry 37: DESIGN CHOICE). -/
def clearView (q : Nat) (s : State) : State :=
  if q = 2 then s else updH s fun h => { h with len := { h.len with rowi := 0, coli := 0 } }

/-- R115: a resynchronising instruction counts in `vsync` when it takes effect. -/
def countResync (i : Instr) (s : State) : State :=
  if i.resync then updH (countEv s s.hart.core (some s.hart.hid) 0x0A 1) fun h => { h with vsync := h.vsync + 1 }
  else s

/-- An instruction issues: it runs at once when nothing is queued before it, else it is queued. -/
def enqueue (op : VOp) (e : QEntry) (s : State) : State :=
  if drained s then settleRun s.hart e (op.run s { e with live := true }) 0 []
  else
    let l := match s.hart.queue.getLast? with
      | some p => p.live && e.joins
      | none => true
    updH s fun h => { h with queue := h.queue ++ [{ e with live := l }] }

/-- The issue of a queue-taking instruction with its captured scalar operands.  A resynchronising one waits
until every earlier instruction has retired; where that is word 0 of its own bundle alone, the bundle issues
as the one unit it is (R38), and this word waits in its queue (R115; log entry 32: DEDUCED). -/
def vissue (i : Instr) (op : VOp) (sa sb : Dword) (s : State) : Res :=
  match op.check s.hart.width s.hart.mview (lenNow s) with
  | some (c, cause) => .trap c ⟨cause, s.hart.x.iword.zeroExtend 64⟩ s
  | none =>
    withConvoy i s fun s1 =>
      if i.resync && !drained s && !s.hart.x.half then stallOn .resync i s
      else if !queueRoom s.hart (i.queueOf.getD 0) then .stall .queue s
      else
        let s2 := clearView (i.queueOf.getD 0) s1
        .ok (enqueue op (capture s i sa sb) (if drained s then countResync i s2 else s2))

/-- A vector instruction executed. -/
def vexec (i : Instr) (op : VOp) (sa sb : Dword) (s : State) : Out := finish (vissue i op sa sb s)

/-- A queued instruction runs at its own place in program order, so that what it leaves behind is known by it
(R310). -/
def atOrder (n : Nat) (s : State) (f : State → State) : State :=
  updH (f (updH s fun h => { h with units := n })) fun h => { h with units := s.hart.units }

/-- R310, R315: the head of the queue runs, its checks made again; a word or an entry that calls for
a trap gives it as an imprecise trap.  A resynchronising one counts in `vsync` as it takes effect (R115). -/
def runHead (op : Option VOp) (e : QEntry) (q : List QEntry) (s : State) : State :=
  let bad (t : Trap) : State := updH s fun h => { h with pend := h.pend ++ [⟨some 0, t, e.order⟩] }
  match e.bad with
  | some t => bad t
  | none =>
    match op with
    | none => bad ⟨0x02, e.word.zeroExtend 64⟩
    | some o =>
      match o.check s.hart.width s.hart.mmode e.len with
      | some (_, cause) => bad ⟨cause, e.word.zeroExtend 64⟩
      | none =>
        atOrder e.order s fun s =>
          settleRun s.hart e (o.run (updH (countResync e.instr s) fun h => { h with queue := q }) e) e.flags q

/-! ### Shapes of instructions -/

/-- The rounding mode an instruction captured. -/
def QEntry.mode (e : QEntry) : RM := rmOf e.rm

/-- Flags of a list of results. -/
def allFlags (l : List (Nat × FRes)) : Flags := l.foldl (fun f p => f ||| p.2.flags) 0

/-- Results written to a group of width `b`. -/
def putResults (s : State) (vd : BitVec 6) (b : Nat) (l : List (Nat × FRes)) : VRes :=
  .done (updH s fun h => putElems h vd.toNat b (l.map (fun p => (p.1, p.2.bits)))) (allFlags l)

/-- An element-wise instruction: each active element from the hart as it was. -/
def elementWise (vd : BitVec 6) (b : Nat) (k : BitVec 3) (f : Hart → Nat → FRes) (s : State) (e : QEntry) : VRes :=
  putResults s vd b ((activeFrom s.hart e.len k).map (fun i => (i, f s.hart i)))

/-- Two operands share a register (R186). -/
def VRegs.meets (a b : VRegs) : Bool := a.base < b.base + b.count && b.base < a.base + a.count

/-- An element-wise instruction of two sources of `vtype`'s width. -/
def binOp (acc : Nat → Bool) (vd va vb : BitVec 6) (k : BitVec 3)
    (f : QEntry → Nat → Nat → Nat → Nat → FRes) : VOp where
  check := fun _ view l => vcheck view [grpReg l vd, grpReg l va, grpReg l vb] (acc l.type)
  run := fun s e =>
    let b := e.len.width
    elementWise vd b k (fun h i =>
      f e b (getElem h va.toNat b i) (getElem h vb.toNat b i) (getElem h vd.toNat b i)) s e

/-- An element-wise instruction of one source. -/
def unOp (acc : Nat → Bool) (vd va : BitVec 6) (k : BitVec 3) (f : QEntry → Nat → Nat → FRes) : VOp where
  check := fun _ view l => vcheck view [grpReg l vd, grpReg l va] (acc l.type)
  run := fun s e =>
    let b := e.len.width
    elementWise vd b k (fun h i => f e b (getElem h va.toNat b i)) s e

/-- An element-wise instruction of two sources with a double-width destination (R148, R186). -/
def wideOp (acc : Nat → Bool) (vd va vb : BitVec 6) (k : BitVec 3)
    (f : QEntry → Nat → Nat → Nat → Nat → FRes) : VOp where
  check := fun _ view l => vcheck view [wideReg l vd, grpReg l va, grpReg l vb]
    (acc l.type && !(wideReg l vd).meets (grpReg l va) && !(wideReg l vd).meets (grpReg l vb))
  run := fun s e =>
    let b := e.len.width
    elementWise vd (2 * b) k (fun h i =>
      f e b (getElem h va.toNat b i) (getElem h vb.toNat b i) (getElem h vd.toNat (2 * b) i)) s e

end Sys2Proof.Machine
end

