-- ==== Sys2Proof/Machine/VecAddr.lean ====
section
/-! DEFINITION. The addresses of vector memory instructions (R274, R277, R236), and same-location
coherence between the scalar stream and what waits in the queues (R283). -/

namespace Sys2Proof.Machine

/-- How the elements of a vector memory instruction are addressed (R274). -/
inductive VAddr where
  /-- a signed offset of 64-byte units, then one element after another -/
  | unit (off : BitVec 5)
  | stride
  | index (vx : BitVec 5)
  | rows
  deriving DecidableEq, Repr

/-- The bytes an element of width `b` is accessed in; a 4-bit one takes its byte (R273). -/
def memBytes (b : Nat) : Nat := if b = 4 then 1 else b / 8

/-- R274: the address of element `i`. -/
def VAddr.at (m : VAddr) (h : Hart) (e : QEntry) (i : Nat) : Dword :=
  let b := e.len.width
  match m with
  | .unit off => e.sa + off.signExtend 64 * 64 + BitVec.ofNat 64 (i * b / 8)
  | .stride => e.sa + BitVec.ofNat 64 i * e.sb
  | .index vx => e.sa + ((e.idx.map (fun l => l.getD i 0)).getD (BitVec.ofNat 32 (getElem h vx.toNat 32 i))).signExtend 64
  | .rows => e.sa + BitVec.ofNat 64 (i / e.len.colc) * e.sb + BitVec.ofNat 64 (i % e.len.colc * b / 8)

/-- The addressing, the mask and whether it stores, of an instruction whose accesses R283 orders. -/
def memShape (i : Instr) : Option (VAddr × BitVec 3 × Bool) :=
  match i with
  | .vld _ _ x k _ => some (.unit x, k, false)
  | .vlds _ _ _ k _ => some (.stride, k, false)
  | .vldx _ _ x k _ => some (.index x, k, false)
  | .vld2d _ _ _ k _ => some (.rows, k, false)
  | .vldl _ _ x k _ => some (.index x, k, false)
  | .vst _ _ x k _ => some (.unit x, k, true)
  | .vsts _ _ _ k _ => some (.stride, k, true)
  | .vstx _ _ x k _ => some (.index x, k, true)
  | .vst2d _ _ _ k _ => some (.rows, k, true)
  | .vstc _ _ x k _ => some (.index x, k, true)
  | _ => none

/-- R235: the bytes of one row of the tile in a memory format. -/
def tileRowBytes (fmt : Nat) : Nat :=
  if fmt ≤ 1 then 32 else if fmt ≤ 6 then 64 else if fmt ≤ 0xA then 128 else 256

/-- The format is block-scaled: x4, x8a or x8b. -/
def tileBlocks (fmt : Nat) : Bool := fmt == 1 || fmt == 4 || fmt == 5

/-- R236: the scratchpad byte at the end of the tile's extent. -/
def tileExtent (w fmt B T : Nat) : Nat :=
  if tileBlocks fmt then B + 2 * w * T + 8 * w else B + (2 * w - 1) * T + tileRowBytes fmt

/-- Two runs of bytes meet. -/
def runsMeet (a n b m : Nat) : Bool := a < b + m && b < a + n

/-- An element access may meet the bytes [l, l + n): it does when its location is not known yet. -/
def elemMeets (s : State) (kind : Kind) (ea : Dword) (m l n : Nat) : Bool :=
  match resolve s (acc s .other kind) ea m with
  | .ok (.mem x _) _ => runsMeet x m l n
  | .wait _ => true
  | _ => false

/-- A queued instruction may write a register among the `n` from v`r` on; a destination may be of
double width. -/
def mayWrite (e : QEntry) (r n : Nat) : Bool :=
  let d := (e.word.extractLsb' 18 6).toNat
  e.instr.writesVectors && runsMeet d (2 * e.len.grp) r n

/-- The index operand of an instruction stands in registers that an instruction queued before it may
still write. -/
def indexOpen (before : List QEntry) (e : QEntry) (m : VAddr) : Bool :=
  match m with
  | .index vx => e.idx.isNone && before.any (fun p => mayWrite p vx.toNat (max 1 (e.len.grp * 32 / e.len.width)))
  | _ => false

/-- A queued instruction may access the bytes [l, l + n): what stands in the queue before it may still
write its mask, so that every element may be active, and its indices. -/
def entryMeets (s : State) (before : List QEntry) (e : QEntry) (l n : Nat) : Bool :=
  let h := s.hart
  match e.instr with
  | .mld _ _ fmt => isSpad l && spadCore l == h.core &&
      runsMeet e.sa.toNat (tileExtent h.width fmt.toNat e.sa.toNat e.sb.toNat - e.sa.toNat) (spadOff l) n
  | .mst _ _ fmt => isSpad l && spadCore l == h.core &&
      runsMeet e.sa.toNat (tileExtent h.width fmt.toNat e.sa.toNat e.sb.toNat - e.sa.toNat) (spadOff l) n
  | .vldw _ wn _ _ _ =>
    let w := getWin s h.core wn.toNat
    isSpad l && spadCore l == h.core && runsMeet w.base w.size (spadOff l) n
  | i =>
    match memShape i with
    | none => false
    | some (m, k, st) =>
      indexOpen before e m || (activeFrom h e.len (if before.isEmpty then k else 0)).any (fun j =>
        elemMeets s (if st then .write else .read) (m.at h e j) (memBytes e.len.width) l n)

/-- A queued access of the hart in focus may name one of the bytes [l, l + n). -/
def queueMeets (s : State) (l n : Nat) : Bool :=
  (List.range s.hart.queue.length).any (fun i =>
    match s.hart.queue[i]? with
    | some e => entryMeets s (s.hart.queue.take i) e l n
    | none => false)

/-- R283: an access of the hart's own to the bytes [l, l + n) waits while a queued one may name them. -/
def coherentAt (s : State) (l n : Nat) (f : State → Res) : Res :=
  if queueMeets s l n then .stall .order s else f s

/-- R283: a scalar access of `n` bytes waits while a queued access of the hart may name one of its
locations. -/
def coherent (s : State) (kind : Kind) (ea : Dword) (n : Nat) (f : State → Res) : Res :=
  if s.hart.queue = [] then f s
  else
    match resolve s (acc s .other kind) ea n with
    | .ok (.mem l _) _ => coherentAt s l n f
    | _ => f s

/-- `n` bytes an instruction reads from memory as a record, aligned to their size, behind the hart's
queued accesses to them (R283). -/
def readRecord (s : State) (ea : Dword) (n : Nat) (f : Nat → State → Res) : Res :=
  coherent s .read ea n fun s => ofLoad (loadX s (acc s .other .read) ea n) f

/-- R286: a release waits for every earlier access of the hart. -/
def released (rel : Bool) (i : Instr) (s : State) (f : State → Res) : Res :=
  if rel then afterQueue i s f else f s

end Sys2Proof.Machine
end

