-- ==== Sys2Proof/Machine/Atomics.lean ====
section
/-! DEFINITION. The scalar atomics (R293-R296). -/

namespace Sys2Proof.Machine

/-- The scalar atomic operations. -/
inductive AmoOp where
  | add | and | or | xor | min | max | minn | maxn | swap | cas | fadd
  deriving DecidableEq, Repr

/-- R294: the new value of an atomic, none for a failed comparison.  `b` is the operand, `c` the
expected value of `cas`. -/
def amoValue (op : AmoOp) {n : Nat} (old b c : BitVec n) : Option (BitVec n) :=
  match op with
  | .add => some (old + b)
  | .and => some (old &&& b)
  | .or => some (old ||| b)
  | .xor => some (old ^^^ b)
  | .min => some (if old.slt b then old else b)
  | .max => some (if old.slt b then b else old)
  | .minn => some (if old.ult b then old else b)
  | .maxn => some (if old.ult b then b else old)
  | .swap => some b
  | .cas => if old = c then some b else none
  | .fadd => some (BitVec.ofNat n (fpAdd (if n = 32 then f32 else f64) .rne old.toNat b.toNat).bits)

/-- R295: host pages take FetchAdd, Swap and CAS only. -/
def amoAllowed (op : AmoOp) (t : Target) : Bool :=
  match t with
  | .mem l _ => !isHost l || op == .add || op == .swap || op == .cas
  | _ => false

/-- R295: the host completes an AtomicOp as unsupported: a free value (log entry 36: DESIGN CHOICE). -/
def amoUnsupported (s : State) (t : Target) : Bool × State :=
  match t with
  | .mem l _ => if isHost l then ((freshFree s).1.getLsbD 0, (freshFree s).2) else (false, s)
  | _ => (false, s)

/-- R295: the core's own data cache line for the location is gone. -/
def amoDrop (s : State) (t : Target) : State :=
  match t with
  | .mem l _ => dGone s s.hart.core l
  | _ => s

/-- R294-R296: an atomic of `n` bytes, read and write in one step.  The data error of a read writes
nothing; the ring guard suppresses it whole. -/
def amoR (op : AmoOp) (sd sa sb : BitVec 5) (n : Nat) (s : State) : Res :=
  let ea := rdS s sa
  ofLoad
    ((resolve s (acc s .other .write) ea n).bind fun t s1 =>
      let u := amoUnsupported s1 t
      if !amoAllowed op t then .fault ⟨0x17, ea⟩ s1
      else if u.1 then .fault ⟨0x17, ea⟩ u.2
      else
        (readT (amoDrop u.2 t) s.hart.key t ea n).bind fun old s2 =>
          match amoValue op (BitVec.ofNat (8 * n) old) ((rdS s sb).truncate (8 * n)) ((rdS s sd).truncate (8 * n)) with
          | none => .ok old s2
          | some v => (writeT s2 s.hart.key t ea (bytesOfNat n v.toNat)).bind fun _ s3 => .ok old s3)
    fun old s1 => .ok (wrS s1 sd (BitVec.ofNat 64 old))

/-- R258, R286: what an atomic does once it has completed: the acquire part (sem .acq or .ar), also of a
failed comparison. -/
def amoAcquire (sem scope : BitVec 2) (r : Res) : Res :=
  match r with
  | .ok s => .ok (acquireIf (sem.getLsbD 0 && 1 ≤ scope.toNat) s)
  | r => r

/-- An atomic executed: a release (sem .rel or .ar) comes after every earlier access. -/
def atomic (i : Instr) (op : AmoOp) (sd sa sb : BitVec 5) (sz : BitVec 1) (sem scope : BitVec 2) (s : State) : Out :=
  let n := if sz = 0 then 4 else 8
  finish (released (2 ≤ sem.toNat) i s fun s =>
    coherent s .write (rdS s sa) n fun s => amoAcquire sem scope (amoR op sd sa sb n s))

def execAmoAdd (sd sa sb : BitVec 5) (sz : BitVec 1) (sem scope : BitVec 2) (s : State) : Out :=
  atomic (.amoAdd sd sa sb sz sem scope) .add sd sa sb sz sem scope s
def execAmoAnd (sd sa sb : BitVec 5) (sz : BitVec 1) (sem scope : BitVec 2) (s : State) : Out :=
  atomic (.amoAnd sd sa sb sz sem scope) .and sd sa sb sz sem scope s
def execAmoOr (sd sa sb : BitVec 5) (sz : BitVec 1) (sem scope : BitVec 2) (s : State) : Out :=
  atomic (.amoOr sd sa sb sz sem scope) .or sd sa sb sz sem scope s
def execAmoXor (sd sa sb : BitVec 5) (sz : BitVec 1) (sem scope : BitVec 2) (s : State) : Out :=
  atomic (.amoXor sd sa sb sz sem scope) .xor sd sa sb sz sem scope s
def execAmoMin (sd sa sb : BitVec 5) (sz : BitVec 1) (sem scope : BitVec 2) (s : State) : Out :=
  atomic (.amoMin sd sa sb sz sem scope) .min sd sa sb sz sem scope s
def execAmoMax (sd sa sb : BitVec 5) (sz : BitVec 1) (sem scope : BitVec 2) (s : State) : Out :=
  atomic (.amoMax sd sa sb sz sem scope) .max sd sa sb sz sem scope s
def execAmoMinn (sd sa sb : BitVec 5) (sz : BitVec 1) (sem scope : BitVec 2) (s : State) : Out :=
  atomic (.amoMinn sd sa sb sz sem scope) .minn sd sa sb sz sem scope s
def execAmoMaxn (sd sa sb : BitVec 5) (sz : BitVec 1) (sem scope : BitVec 2) (s : State) : Out :=
  atomic (.amoMaxn sd sa sb sz sem scope) .maxn sd sa sb sz sem scope s
def execAmoSwap (sd sa sb : BitVec 5) (sz : BitVec 1) (sem scope : BitVec 2) (s : State) : Out :=
  atomic (.amoSwap sd sa sb sz sem scope) .swap sd sa sb sz sem scope s
def execAmoCas (sd sa sb : BitVec 5) (sz : BitVec 1) (sem scope : BitVec 2) (s : State) : Out :=
  atomic (.amoCas sd sa sb sz sem scope) .cas sd sa sb sz sem scope s
def execAmoFadd (sd sa sb : BitVec 5) (sz : BitVec 1) (sem scope : BitVec 2) (s : State) : Out :=
  atomic (.amoFadd sd sa sb sz sem scope) .fadd sd sa sb sz sem scope s

end Sys2Proof.Machine
end

