-- ==== Sys2Proof/Machine/Combine.lean ====
section
/-! DEFINITION. The combining buffers of the scratchpad banks (R301, R302). -/

namespace Sys2Proof.Machine

/-- R300: the effect of a combining operation on a word of `b` bits. -/
def combineValue (op : Nat) (signed : Bool) (b x y : Nat) : Nat :=
  let less : Bool := if signed then sx b x ≤ sx b y else x ≤ y
  match op with
  | 0 => (x + y) % 2 ^ b
  | 1 => if less then x else y
  | 2 => if less then y else x
  | 3 => x ||| y
  | _ => x ^^^ y

/-- R301: an entry is applied to its word, as one write at the bank. -/
def applyCombine (s : State) (c : Combine) : State :=
  match readNat s 0 c.loc c.bytes with
  | none => askFence s c.core
  | some x => pokeLoc s 0 c.loc (bytesOfNat c.bytes (combineValue c.op c.signed (8 * c.bytes) x c.operand.toNat))

/-- R301: the entries of a bank that satisfy a condition retire, oldest first. -/
def retireWhere (s : State) (bank : Nat) (p : Combine → Bool) : State :=
  let l := mapGet [] s.combine bank
  let s1 := (l.filter p).foldl applyCombine s
  { s1 with combine := mapSet [] s1.combine bank (l.filter (fun c => !p c)) }

/-- R301: every entry of a bank retires. -/
def retireBank (s : State) (bank : Nat) : State := retireWhere s bank fun _ => true

/-- R301: every entry of a core's banks retires, before its scratchpad is saved. -/
def retireCore (s : State) (core : Nat) : State :=
  (List.range 16).foldl (fun s b => retireBank s (16 * core + b)) s

/-- The entry holds the element's key. -/
def VamoElem.sameKey (v : VamoElem) (c : Combine) : Bool :=
  c.loc == v.loc && c.bytes == v.bytes && c.op == v.op && c.signed == v.signed

/-- R301: an element takes its place in its bank's buffer. -/
def combineIn (s : State) (v : VamoElem) : State :=
  let bank := 16 * v.core + v.off / 64 % 16
  let put (s : State) (l : List Combine) : State := { s with combine := mapSet [] s.combine bank l }
  let l := mapGet [] s.combine bank
  if l.any v.sameKey then
    put s (l.map (fun c => if v.sameKey c then
      { c with operand := BitVec.ofNat 64 (combineValue v.op v.signed (8 * v.bytes) c.operand.toNat v.operand.toNat) }
      else c))
  else
    let s1 := retireWhere s bank fun c => c.loc == v.loc
    let l1 := mapGet [] s1.combine bank
    let s2 := if l1.length < 16 then s1
      else put (l1.take 1 |>.foldl applyCombine s1) (l1.drop 1)
    put s2 (mapGet [] s2.combine bank ++
      [{ loc := v.loc, core := v.core, bytes := v.bytes, op := v.op, signed := v.signed,
         operand := v.operand, time := s.nowNs }])

/-- The jobs in ready stores and saved groups changed. -/
def mapLoose (s : State) (f : Job → Job) : State :=
  { s with disp := { s.disp with
      ready := s.disp.ready.map (fun p => (p.1, p.2.map f))
      saved := s.disp.saved.map (fun g => { g with jobs := g.jobs.map f }) } }

/-- The hart holds the job. -/
def Hart.holds (h : Hart) (job : BitVec 32) : Bool := h.stage != .free && h.job.job == job

/-- R230, R267, R271: what a posted access of a job raises reaches the job: on the hart that sent it, on
another one the job has moved to, or with its record. -/
def postTo (s : State) (key : Nat) (job : BitVec 32) (p : Posted) : State :=
  let add (h : Hart) : Hart := { h with posted := h.posted ++ [p] }
  if (getHart s key).holds job then updHart s key add
  else
    match (hartKeys s).find? (fun k => (getHart s k).holds job) with
    | some k => updHart s k add
    | none => mapLoose s fun j => if j.job = job then { j with posted := j.posted ++ [p] } else j

/-- R230, R300: an element arrives at its bank; the ring guard's trap goes to the job that sent it. -/
def arriveVamo (s : State) (v : VamoElem) : State :=
  match guardHit s v.sender v.core v.off v.bytes with
  | some o =>
    postTo (countEv s (v.sender / 8) (some (v.sender % 8)) 0x14 1) v.sender v.job ⟨true, guardTrap v.core o, v.order⟩
  | none => combineIn s v

/-- The elements on their way that satisfy a condition arrive, in order. -/
def arriveWhere (s : State) (p : VamoElem → Bool) : State :=
  (s.vamos.filter p).foldl arriveVamo { s with vamos := s.vamos.filter (fun v => !p v) }

/-- R302: the flush of a `vfence` of the hart in focus: the elements of its job arrive, wherever it sent them
from, and every bank that has received elements of it since the last one retires its entries. -/
def flushVamo (s : State) : State :=
  let s1 := arriveWhere s fun v => v.job == s.hart.job.job
  let s2 := s.hart.job.banks.foldl retireBank s1
  updH s2 fun h => { h with job := { h.job with banks := [] } }

end Sys2Proof.Machine
end

