-- ==== Sys2Proof/Machine/Barrier.lean ====
section
/-! DEFINITION. Barrier objects, their exact accumulators, and the barrier instructions (R104,
R433-R440). -/

namespace Sys2Proof.Machine

/-- A barrier object. -/
def getBar (s : State) (b : Nat) : Barrier := mapGet {} s.barriers b

/-- A barrier object replaced. -/
def setBar (s : State) (b : Nat) (x : Barrier) : State := { s with barriers := mapSet {} s.barriers b x }

/-! ### Accumulators (R104) -/

/-- R104: a finite contribution as a multiple of 2^-1074; 0 for one that is not finite. -/
def barFixed (x : Dword) : Int :=
  match f64.unpack x.toNat with
  | .fin n m e => (if n then -1 else 1) * ((m * 2 ^ (e + 1074).toNat : Nat) : Int)
  | _ => 0

/-- R104: the flag a contribution sets: NaN, +∞ or −∞ from bit 0. -/
def barFlag (x : Dword) : BitVec 3 :=
  match f64.unpack x.toNat with
  | .nan => 1
  | .inf n => if n then 4 else 2
  | .fin _ _ _ => 0

/-- R104: the result of an accumulator. -/
def barResult (acc : BitVec 2176) (f : BitVec 3) : Dword :=
  let v := acc.toInt
  BitVec.ofNat 64
    (if f.getLsbD 0 || (f.getLsbD 1 && f.getLsbD 2) then f64.nan
     else if f.getLsbD 1 then f64.infBits false
     else if f.getLsbD 2 then f64.infBits true
     else (roundV f64 .rne (.fin (v < 0) v.natAbs (-1074)) false).bits)

/-! ### Handles (R435) -/

/-- R435: the object a handle names. -/
def barObject (h : Dword) : Nat := h.toNat % 512

/-- R435: the token of a handle. -/
def barToken (h : Dword) : Nat := bits h.toNat 31 16

/-- R435: the handle is malformed. -/
def barMalformed (h : Dword) : Bool := h.toNat / 2 ^ 32 != 0 || bits h.toNat 15 9 != 0 || 383 < barObject h

/-- R438: the handle an arrival gives. -/
def barHandle (b : Nat) (phases : BitVec 32) : Dword := BitVec.ofNat 64 (phases.toNat % 65536 * 65536 + b)

/-! ### Arrivals (R438, R439) -/

/-- R438: a contribution applied and counted. -/
def Barrier.arrive (b : Barrier) (form : Nat) (x y : Dword) : Barrier :=
  let b1 := { b with count := b.count + 1 }
  match form with
  | 0 => b1
  | 1 => { b1 with acc0 := b.acc0 + BitVec.ofInt 2176 (barFixed x), flags0 := b.flags0 ||| barFlag x }
  | 2 => { b1 with
      acc0 := b.acc0 + BitVec.ofInt 2176 (barFixed x), flags0 := b.flags0 ||| barFlag x
      acc1 := b.acc1 + BitVec.ofInt 2176 (barFixed y), flags1 := b.flags1 ||| barFlag y }
  | _ => { b1 with iacc := b.iacc + x }

/-- R439: a phase completes when the count reaches what is expected. -/
def Barrier.complete (b : Barrier) : Barrier :=
  if b.count = b.expected then
    { b with
      res0 := barResult b.acc0 b.flags0, res1 := barResult b.acc1 b.flags1, resi := b.iacc
      phases := b.phases + 1, count := 0
      acc0 := 0, flags0 := 0, acc1 := 0, flags1 := 0, iacc := 0 }
  else b

/-- R438: an arrival is refused. -/
def barRefuses (s : State) (tenant : Nat) (handle : Dword) : Bool :=
  barMalformed handle || (getBar s (barObject handle)).owner != tenant ||
    (getBar s (barObject handle)).expected == 0

/-- A scalar register of any hart written. -/
def wrHart (s : State) (key : Nat) (r : BitVec 5) (v : Dword) : State :=
  if r = 0 then s else updHart s key fun h => { h with s := mapSet 0 h.s r.toNat v }

/-- R438, R439: an arrival reaches its unit, which writes the sender's register.  The unit takes it also when the
core whose router it stands at is fenced (log entry 48: DESIGN CHOICE). -/
def applyArrival (s : State) (a : Arrival) : State :=
  let b := getBar s a.object
  if b.owner != a.tenant || b.expected == 0 then wrHart s a.hart a.sd (BitVec.allOnes 64)
  else
    wrHart (setBar s a.object (b.arrive a.form a.x a.y).complete) a.hart a.sd (barHandle a.object b.phases)

/-- R438: the arrivals at the units are applied in order. -/
def applyArrivals (s : State) : State :=
  s.arrivals.foldl applyArrival { s with arrivals := [] }

/-- The oldest arrival on its way reaches its unit. -/
def execBarrierArrival (s : State) : Out :=
  .next (match s.arrivals with
    | [] => s
    | a :: t => applyArrival { s with arrivals := t } a)

/-- R438: an arrival form: after its release the arrival is applied at its unit. -/
def arriveR (i : Instr) (sd : BitVec 5) (handle : Dword) (form : Nat) (x y : Dword) (s : State) : Res :=
  if barRefuses s s.hart.job.tenant handle then .ok (wrS s sd (BitVec.allOnes 64))
  else
    afterQueue i s fun s =>
      .ok (applyArrivals { s with arrivals := s.arrivals ++
        [{ object := barObject handle, form := form, x := x, y := y,
           hart := s.hart.key, tenant := s.hart.job.tenant, sd := sd }] })

def execBarArrive (sd sa : BitVec 5) (s : State) : Out :=
  finish (arriveR (.barArrive sd sa) sd (rdS s sa) 0 0 0 s)
def execBarArriveFsum (sd sa sb : BitVec 5) (s : State) : Out :=
  finish (arriveR (.barArriveFsum sd sa sb) sd (rdS s sa) 1 (rdS s sb) 0 s)
def execBarArriveFsum2 (sd sa sb : BitVec 5) (s : State) : Out :=
  finish (arriveR (.barArriveFsum2 sd sa sb) sd (rdS s sa) 2 (rdS s sb) (rdS s (sb + 1)) s)
def execBarArriveIsum (sd sa sb : BitVec 5) (s : State) : Out :=
  finish (arriveR (.barArriveIsum sd sa sb) sd (rdS s sa) 3 (rdS s sb) 0 s)

/-! ### `bar.init` (R437) -/

def execBarInit (sd sa sb : BitVec 5) (s : State) : Out :=
  let h := rdS s sa
  let n := (rdS s sb).toNat
  let b := getBar s (barObject h)
  finish (.ok (
    if barMalformed h || n < 1 || 4096 < n then wrS s sd 4
    else if b.owner != s.hart.job.tenant then wrS s sd 3
    else if b.count != 0 then wrS s sd 2
    else wrS (setBar s (barObject h) { owner := b.owner, expected := n }) sd 0))

/-! ### Waits (R432, R433, R440) -/

/-- R433: a timed wait: what came first decides, `holds` and the limit at issue; else the hart waits.
A wait that returns 0 acquires at `.d` where `acq` says so (R303). -/
def timedWait (i : Instr) (sd : BitVec 5) (acq holds : Bool) (limit : Dword) (s : State) : Res :=
  if s.hart.waitEnd = some false then .ok (wrS s sd 1)
  else if holds || s.hart.waitEnd = some true then .ok (wrS (acquireIf acq s) sd 0)
  else if limit.toNat ≤ s.nowNs then .ok (wrS s sd 1)
  else stallOn .wait i s

/-- R440: the barrier wait of a handle holds. -/
def barHolds (s : State) (h : Dword) : Bool := (getBar s (barObject h)).phases.toNat % 65536 != barToken h

/-- R440: the handle cannot be waited on by the caller. -/
def barForeign (s : State) (h : Dword) : Bool := (getBar s (barObject h)).owner != s.hart.job.tenant

/-- R440: the value `sel` names. -/
def barSelect (b : Barrier) (sel : BitVec 5) : Dword :=
  match sel.toNat with
  | 0 => b.res0
  | 1 => b.res1
  | 2 => b.resi
  | 3 => b.phases.zeroExtend 64
  | _ => BitVec.allOnes 64

def execBarWait (sd sa sel : BitVec 5) (s : State) : Out :=
  let h := rdS s sa
  finish (if barMalformed h || barForeign s h then .ok (wrS s sd (BitVec.allOnes 64))
    else if barHolds s h || s.hart.waitEnd = some true then
      .ok (wrS (acquireIf true s) sd (barSelect (getBar s (barObject h)) sel))
    else stallOn .wait (.barWait sd sa sel) s)

def execBarWaitt (sd sa sb : BitVec 5) (s : State) : Out :=
  let h := rdS s sa
  finish (if barMalformed h then .ok (wrS s sd 4)
    else if barForeign s h then .ok (wrS s sd 3)
    else timedWait (.barWaitt sd sa sb) sd true (barHolds s h) (rdS s sb) s)

end Sys2Proof.Machine
end

