-- ==== Sys2Proof/Machine/Jobs.lean ====
section
/-! DEFINITION. Jobs: records, trees and ids (R324-R327), ready stores and lane blocks (R334-R336,
R339), completion records (R318-R320), dependence counters (R355-R357), binding, saving, resuming
and ending (R110, R315, R316, R354). -/

namespace Sys2Proof.Machine

/-! ### Accesses of engines, the dispatcher and the service complex -/

/-- The number that stands for spool `n` as a requester. -/
def spoolAgent (n : Nat) : Nat := 1000 + n

/-- The dispatcher, the coding engines and the cores' record writes as a requester. -/
def recordAgent : Nat := 1100

/-- The record lies on the page of a request. -/
def LateWrite.on (w : LateWrite) (r : WalkReq) : Bool := w.tenant == r.tenant && w.va / 4096 * 4096 == r.va

/-- What the TLB and the walker give an agent. -/
inductive EX where
  | ok (e : TlbEntry) (s : State)
  | fault (cause : Nat) (s : State)
  | wait (s : State)
  deriving DecidableEq, Repr

/-- What the translation of an agent's access gives. -/
inductive AX where
  | ok (loc tag : Nat) (s : State)
  | fault (cause : Nat) (s : State)
  | wait (s : State)
  deriving DecidableEq, Repr

/-- The place of `n` bytes through a translation, or the fault of a page of the twin while the tether is down
(R480). -/
def placeOf (s : State) (e : TlbEntry) (va n : Nat) : AX :=
  if e.home = 1 && !s.tetherUp then .fault 0x14 s
  else .ok (e.place s va).1 (e.place s va).2 (useLines s e.cache (e.place s va).1 n)

/-- The TLB entry for an agent's access: its group's TLB, else a walk; only ATS waits (R409, R412), or a
miss of the page that is outstanding already (R408). -/
def agentEntry (s : State) (a T va : Nat) (k : Kind) : EX :=
  let req : WalkReq := { hart := a, tenant := T, va := va / 4096 * 4096, kind := k }
  match tlbFind (mapGet [] s.tab.groupTlb (agentGroup a)) T va k with
  | some e => .ok e s
  | none =>
    match s.tab.faults.find? (fun f => f.req == req) with
    | some f =>
      .fault f.cause { s with tab := { s.tab with faults := s.tab.faults.filter (fun g => g.req != req) } }
    | none =>
      if waits s req then .wait s
      else if s.tab.walks.any req.same || s.tab.ats.any (fun q => q.req.same req) then .wait (askWalk s req)
      else
        match walkNow s T va k with
        | .entry e s1 => .ok e (fillGroup s1 (agentGroup a) e)
        | .host l pa z => if missesOf s req.group < 256 then .wait (sendAts s req [req] l pa z) else .wait s
        | .fault c => .fault c s

/-- The translation of an agent's access to `n` bytes. -/
def agentXlate (s : State) (a T va n : Nat) (k : Kind) : AX :=
  match agentEntry s a T va k with
  | .ok e s1 => placeOf s1 e va n
  | .fault c s1 => .fault c s1
  | .wait s1 => .wait s1

/-- A record written at a global address of a tenant.  One whose page faults is not written (log
entry 25: DESIGN CHOICE); one whose host page has no translation yet waits for it. -/
def writeRecord (s : State) (T : Nat) (va : Nat) (bs : List Byte) : State :=
  match agentXlate s recordAgent T va bs.length .write with
  | .ok l t s1 => (writeLoc s1 t l bs).getD s1
  | .fault _ s1 => s1
  | .wait s1 => { s1 with eng := { s1.eng with late := s1.eng.late ++ [{ tenant := T, va := va, bytes := bs }] } }

/-- Bytes read at a global address of a tenant for the dispatcher or an engine. -/
def readAgent (s : State) (a T va n : Nat) : Option (List Byte) × State :=
  match agentXlate s a T va n .read with
  | .ok l t s1 => (readLoc s1 t l n, s1)
  | .fault _ s1 => (none, s1)
  | .wait s1 => (none, s1)

/-! ### Completion records (R318-R320) -/

/-- Dword 0 of every completion record (R318). -/
def recordDword0 (id index tenant kind status : Nat) : Nat :=
  id * 2 ^ 32 + index * 2 ^ 24 + tenant * 2 ^ 16 + kind * 2 ^ 8 + status

/-- A job's completion record (R320). -/
def jobRecordBytes (s : State) (id index tenant status hid cause pc jprog : Nat) : List Byte :=
  bytesOfNat 8 (recordDword0 id index tenant 1 status) ++
  bytesOfNat 8 (hid * 2 ^ 56 + cause * 2 ^ 48 + pc) ++ bytesOfNat 8 jprog ++ bytesOfNat 8 s.nowNs

/-- The completion record of a job that never began, or that was never created: its final pc is 0 where it
ends ABANDONED (R320), or was malformed or a counter's copy (R325, R357), else the entry address. -/
def recordUnrun (s : State) (r : JobRec) (tenant id index status : Nat) : State :=
  if r.compl = 0 then s
  else
    let pc := if status = 2 ∨ status = 5 then 0 else r.entry.toNat
    writeRecord s tenant r.compl.toNat (jobRecordBytes s id index tenant status 0 0 pc 0)

/-! ### Job records (R324, R325) -/

/-- R324: the fields of a 64-byte record. -/
def parseRec (x : Nat) : JobRec :=
  let d (i : Nat) : Nat := x / 2 ^ (64 * i) % 2 ^ 64
  { width := 4 * 2 ^ bits (d 0) 63 62
    steal := bit (d 0) 61
    policy := bit (d 0) 60
    grace := bits (d 0) 59 52
    entry := BitVec.ofNat 48 (bits (d 0) 47 3 * 8)
    deadline := BitVec.ofNat 64 (d 1)
    a0 := BitVec.ofNat 64 (d 2)
    a1 := BitVec.ofNat 64 (d 3)
    a2 := BitVec.ofNat 64 (d 4)
    a3 := BitVec.ofNat 64 (d 5)
    spill := bits (d 6) 63 51
    compl := BitVec.ofNat 48 (bits (d 6) 47 5 * 32)
    xce := bit (d 6) 0
    cap := bits (d 7) 63 48
    save := BitVec.ofNat 48 (bits (d 7) 47 12 * 4096)
    exitCtr := bits (d 7) 11 0
    badReserved := bits (d 0) 51 48 != 0 || bits (d 0) 2 0 != 0 || bits (d 6) 50 48 != 0 ||
      bits (d 6) 4 1 != 0 }

/-- R325: the record is malformed; `rt` when a real-time launch queue supplies it. -/
def JobRec.malformed (r : JobRec) (rt : Bool) : Bool :=
  r.badReserved || r.compl == 0 || r.save == 0 || (rt && r.deadline == BitVec.allOnes 64)

/-- R324: policy 1 with grace 0 acts as policy 0. -/
def JobRec.graceful (r : JobRec) : Bool := r.policy && r.grace != 0

/-! ### Trees and ids (R326, R327, R352) -/

/-- The deadline of best effort. -/
def bestEffort : Dword := BitVec.allOnes 64

/-- A tree by its id. -/
def getTree (s : State) (id : BitVec 32) : Option Tree := mapGet none s.disp.trees id.toNat

/-- A tree's deadline as the dispatcher holds it. -/
def treeDeadline (s : State) (id : BitVec 32) : Dword :=
  match getTree s id with
  | some t => t.deadline
  | none => bestEffort

/-- The abandonment of the tree has begun (R358). -/
def treeAbandoned (s : State) (id : BitVec 32) : Bool :=
  match getTree s id with
  | some t => t.abandoned
  | none => false

/-- A tree's entry replaced. -/
def setTree (s : State) (id : BitVec 32) (t : Tree) : State :=
  { s with disp := { s.disp with trees := mapSet none s.disp.trees id.toNat (some t) } }

/-- R326: a new tree. -/
def newTree (s : State) (tenant : Nat) (deadline : Dword) : BitVec 32 × State :=
  let id := s.disp.nextTree
  let s1 := setTree s id { tenant := tenant, deadline := deadline }
  (id, { s1 with disp := { s1.disp with nextTree := if id = BitVec.allOnes 32 then 1 else id + 1 } })

/-- R326: the next job id of a creator. -/
def newJobId (s : State) (creator : Nat) : BitVec 32 × State :=
  let q := mapGet (0 : BitVec 24) s.disp.seqs creator
  let q1 : BitVec 24 := if q = BitVec.allOnes 24 then 1 else q + 1
  (BitVec.ofNat 32 (creator * 2 ^ 24 + q1.toNat),
    { s with disp := { s.disp with seqs := mapSet 0 s.disp.seqs creator q1 } })

/-- The jobs bound to harts, with their hart keys; the management core runs none. -/
def boundJobs (s : State) : List (Nat × Job) :=
  ((hartKeys s).filter (fun k => k / 8 != mgmtCore && (getHart s k).stage != .free)).map (fun k => (k, (getHart s k).job))

/-- Every job that is not bound: in the pool, a ready store, a grant or a saved group. -/
def looseJobs (s : State) : List Job :=
  s.disp.pool ++ s.disp.ready.flatMap (fun p => p.2) ++
    s.disp.stealGrant.flatMap (fun p => p.2.toList) ++ s.disp.saved.flatMap (fun g => g.jobs)

/-- R352: the tree still holds something open. -/
def treeOpen (s : State) (id : BitVec 32) : Bool :=
  (boundJobs s).any (fun p => p.2.tree == id) || (looseJobs s).any (fun j => j.tree == id) ||
  s.disp.counters.any (fun p => p.2.state == .pending && p.2.tree == id) ||
  s.disp.gangs.any (fun g => g.tree == id) ||
  s.eng.lists.any (fun p => p.2.any (fun l => l.tree == id && !l.hostPost)) ||
  s.eng.coding.any (fun p => (p.2.running.toList ++ p.2.queue).any (fun c => c.tree == id))

/-- R352: the tree is live and belongs to the tenant. -/
def treeLive (s : State) (id : BitVec 32) (tenant : Nat) : Bool :=
  match getTree s id with
  | some t => t.tenant == tenant && !t.abandoned && treeOpen s id
  | none => false

/-! ### Ready stores (R334, R335, R339) -/

/-- The ready store of a core. -/
def getReady (s : State) (core : Nat) : List Job := mapGet [] s.disp.ready core

/-- A ready store replaced. -/
def setReady (s : State) (core : Nat) (l : List Job) : State :=
  { s with disp := { s.disp with ready := mapSet [] s.disp.ready core l } }

/-- A job's deadline. -/
def Job.deadline (s : State) (j : Job) : Dword := treeDeadline s j.tree

/-- The deadline classes of a store. -/
def readyClasses (s : State) (core : Nat) : List Dword := ((getReady s core).map (fun j => j.deadline s)).dedup

/-- R334: the store can accept a record of a deadline. -/
def storeAccepts (s : State) (core : Nat) (dl : Dword) : Bool :=
  (getReady s core).length < 64 &&
    ((readyClasses s core).length ≤ 8 && (readyClasses s core).contains dl || (readyClasses s core).length < 8)

/-- A record that enters a store takes the next arrival (R339). -/
def stamp (s : State) (j : Job) : Job × State :=
  ({ j with arrival := s.disp.arrivals }, { s with disp := { s.disp with arrivals := s.disp.arrivals + 1 } })

/-- A record has entered a ready store of its tenant: idle cores may ask again (R337). -/
def wakeThieves (s : State) (tenant : Nat) : State :=
  { s with disp := { s.disp with
      stealAsked := s.disp.stealAsked.filter (fun p => currentTenant s p.1 != tenant) } }

/-- A new record pushed at the spawn end of its class. -/
def pushReady (s : State) (core : Nat) (j : Job) : State :=
  let r := stamp s j
  wakeThieves (setReady r.2 core (r.1 :: getReady r.2 core)) j.tenant

/-- A record put at the steal end of its class; `fresh` gives it a new arrival. -/
def appendReady (s : State) (core : Nat) (j : Job) (fresh : Bool) : State :=
  let r := if fresh then stamp s j else (j, s)
  wakeThieves (setReady r.2 core (getReady r.2 core ++ [r.1])) j.tenant

/-- R339: the key (deadline, tree id, arrival) of `a` is smaller than that of `b`. -/
def keyLess (a b : Nat × Nat × Nat) : Bool :=
  a.1 < b.1 || (a.1 == b.1 && (a.2.1 < b.2.1 || (a.2.1 == b.2.1 && a.2.2 < b.2.2)))

/-- A job's key (R339). -/
def Job.key (s : State) (j : Job) : Nat × Nat × Nat := ((j.deadline s).toNat, j.tree.toNat, j.arrival)

/-- The earliest of some deadlines. -/
def minDword (l : List Dword) : Option Dword :=
  l.foldl (fun m d => match m with
    | none => some d
    | some e => some (if d.toNat < e.toNat then d else e)) none

/-- The earliest deadline class of a store (R337): best effort only when no real-time one. -/
def firstClass (s : State) (core : Nat) : Option Dword := minDword ((getReady s core).map (fun j => j.deadline s))

/-- R335 steps 1 and 2: the record at the spawn end of the earliest class; one that the service complex
still holds is not ready. -/
def readyHead (s : State) (core : Nat) : Option Job :=
  let l := (getReady s core).filter (fun j => !j.held)
  match minDword (l.map (fun j => j.deadline s)) with
  | none => none
  | some d => l.find? (fun j => j.deadline s == d)

/-- R341: the record of the store that the core binds next, where it stands in the class of a pre-empted job and
is earlier, so that the job made room for it. -/
def madeRoom (s : State) (core : Nat) (j : Job) : Option Job :=
  (readyHead s core).filter (fun d =>
    d.deadline s == j.deadline s && d.deadline s != bestEffort && keyLess (d.key s) (j.key s))

/-- A record put right behind another one of a store. -/
def putBehind (d j : Job) : List Job → List Job
  | [] => [j]
  | e :: t => if e = d then e :: j :: t else e :: putBehind d j t

/-- A record returned by pre-emption to the spawn end of its class with its arrival (R341); a record of its
class that it made room for stays before it and binds (log entry 40: DEDUCED). -/
def returnReady (s : State) (core : Nat) (j : Job) : State :=
  wakeThieves (setReady s core (match madeRoom s core j with
    | some d => putBehind d j (getReady s core)
    | none => j :: getReady s core)) j.tenant

/-- R337: the record at the steal end of the earliest class. -/
def stealEnd (s : State) (core : Nat) : Option Job :=
  match firstClass s core with
  | none => none
  | some d => (getReady s core).reverse.find? (fun j => j.deadline s == d)

/-- A record taken out of a store. -/
def takeReady (s : State) (core : Nat) (j : Job) : State := setReady s core ((getReady s core).erase j)

/-! ### Lane blocks (R25, R344) -/

/-- The blocks held on a core, as first lane / 4 and size in fours: bound harts and gang
reservations. -/
def heldBlocks (s : State) (core : Nat) : List (Nat × Nat) :=
  ((boundKeys s core).map (fun k => (k % 8, (getHart s k).width / 4))) ++
    s.disp.gangs.flatMap (fun g =>
      (g.held.filter (fun b => b.1 == core)).map (fun b => (b.2, g.record.width / 4)))

/-- Two blocks share a lane. -/
def blocksMeet (a b : Nat × Nat) : Bool := a.1 < b.1 + b.2 && b.1 < a.1 + a.2

/-- The aligned blocks of a width, by first lane / 4. -/
def alignedBlocks (width : Nat) : List Nat := (List.range 8).filter (fun h => h % (width / 4) == 0)

/-- The free aligned blocks of a width on a core. -/
def freeBlocks (s : State) (core width : Nat) : List Nat :=
  (alignedBlocks width).filter (fun h => (heldBlocks s core).all (fun b => !blocksMeet b (h, width / 4)))

/-- The core is fenced or is to be fenced. -/
def coreDead (s : State) (core : Nat) : Bool := (coreEntry s core).fenced || s.fenceReq.contains core

/-! ### Dependence counters (R355-R357) -/

/-- A counter. -/
def getCtr (s : State) (n : Nat) : DepCounter := mapGet {} s.disp.counters n

/-- A counter replaced. -/
def setCtr (s : State) (n : Nat) (c : DepCounter) : State :=
  { s with disp := { s.disp with counters := mapSet {} s.disp.counters n c } }

/-- A record put into the dispatcher's pool for placement by R333; what R348 does not turn away goes in also
when the pool holds 16,384 (log entry 51: DESIGN CHOICE). -/
def pushPool (s : State) (j : Job) : State := { s with disp := { s.disp with pool := s.disp.pool ++ [j] } }

/-- A job created from a record (R326, R327). -/
def createJob (s : State) (r : JobRec) (tenant : Nat) (tree : BitVec 32) (creator : Nat) : Job × State :=
  let id := newJobId s creator
  ({ record := r, tenant := tenant, tree := tree, job := id.1, steal := r.steal }, id.2)

/-- R357: the counter reaches zero; a held copy becomes a job placed by R333. -/
def reachZero (s : State) (n : Nat) : State :=
  let c := getCtr s n
  let s1 := setCtr s n { c with state := .done, copy := none }
  match c.copy with
  | none => s1
  | some r =>
    let j := createJob s1 r c.tenant c.tree 255
    pushPool j.2 j.1

/-- R357: the counter goes to ERROR; a held copy is accounted for by a FAULT record. -/
def counterError (s : State) (n : Nat) : State :=
  let c := getCtr s n
  let s1 := setCtr s n { c with state := .error, copy := none }
  match c.copy with
  | none => s1
  | some r => recordUnrun s1 r c.tenant 0 255 5

/-- R356: the `dep.dec` step. -/
def depDecStep (s : State) (n d : Nat) : State :=
  let c := getCtr s n
  if c.state = .pending ∧ d ≤ c.count then
    let s1 := setCtr s n { c with count := c.count - d }
    if c.count - d = 0 then reachZero s1 n else s1
  else if c.state = .dropped then s
  else counterError s n

/-- A decrement by `exit` or an engine: a counter not owned by the tenant is left (R350). -/
def decOwned (s : State) (n d tenant : Nat) : State :=
  if (getCtr s n).owner = tenant then depDecStep s n d else s

/-! ### Ends of jobs (R318-R320, R354) -/

/-- A hart with no job: its link generation and its posted messages stay. -/
def Hart.freed (h : Hart) : Hart :=
  { freshHart (hartKey h.core h.hid) with linkGen := h.linkGen, outbox := h.outbox }

/-- R354: the exit counter acts on an end with this status. -/
def exitCounts (status : Nat) : Bool := status == 1 || status == 5 || status == 6 || status == 7

/-- The completion record of a job that began, and its exit counter (R320, R354). -/
def recordEnd (s : State) (j : Job) (status core hid : Nat) (pc : BitVec 48) (jprog : Dword) : State :=
  let s1 := if exitCounts status && j.record.xce then decOwned s j.record.exitCtr 1 j.tenant else s
  writeRecord s1 j.tenant j.record.compl.toNat
    (jobRecordBytes s1 j.job.toNat core j.tenant status hid j.lastCause pc.toNat jprog.toNat)

/-- R487: a hart whose job has ended: its registers keep their values until a job is bound to it (R110, R315)
or its core is cleared (R362). -/
def Hart.ended (h : Hart) : Hart :=
  { h.freed with
    pc := h.pc, s := h.s, jprog := h.jprog, vsync := h.vsync, fcsr := h.fcsr, tr := h.tr, rs := h.rs
    spilled := h.spilled, rsBase := h.rsBase, rsCap := h.rsCap, len := h.len, v := h.v, k := h.k
    mmode := h.mmode, mview := h.mview, lastPc := h.lastPc }

/-- The job in focus ends with a status, and its lane block is freed. -/
def endFocus (s : State) (status : Nat) : State :=
  let h := s.hart
  let s1 := recordEnd s h.job status h.core h.hid h.lastPc h.jprog
  dropWalks { s1 with hart := s1.hart.ended } h.key

/-- R359, R360: the job in focus ends EXPIRED; its last event is the expiry (R320). -/
def expireFocus (s : State) : State := endFocus (updH s fun h => { h with job := { h.job with lastCause := 0x30 } }) 3

/-- The job of a hart ends with a status. -/
def endHart (s : State) (key status : Nat) : State := atHart s key (fun s => endFocus s status)

/-- A job that began but is not bound ends with a status. -/
def endLoose (s : State) (j : Job) (status : Nat) : State :=
  recordEnd s j status j.lastCore j.hid j.finalPc j.jprog

/-! ### Binding (R110, R336) and saving -/

/-- R316: the pages of the save area of a job of a width. -/
def savePages (width : Nat) : Nat := (5120 + 2560 * width + 4095) / 4096

/-- The page of a save area an entry translates. -/
def TlbEntry.savePage (e : TlbEntry) (va : Nat) : SavePage :=
  { frame := entryAddr e.leaf.toNat / e.size * e.size + va % e.size, key := bits e.leaf.toNat 57 52, cache := e.cache }

/-- R336: the save area's pages translated for writing; none when one is not local-home.  A page translated
before that one keeps its marks (R405). -/
def translateSave (s : State) (T : Nat) : List Nat → Option (List SavePage) × State
  | [] => (some [], s)
  | va :: rest =>
    match walkNow s T va .write with
    | .entry e s1 =>
      if e.home = 0 then
        let r := translateSave s1 T rest
        (r.1.map (fun l => e.savePage va :: l), r.2)
      else (none, s1)
    | .host .. => (none, s)
    | .fault _ => (none, s)

/-- A job as the hart that runs it holds it when it stops: final pc and progress included, and the traps
of its completed instructions that have not reached it (R271). -/
def Hart.jobNow (h : Hart) : Job :=
  { h.job with
    ran := true, steal := false, hid := h.hid, lastCore := h.core, finalPc := h.lastPc, jprog := h.jprog
    units := h.units, graceEnd := h.graceEnd
    posted := (h.pend.filter (fun p => p.entry == none)).map (fun p => ⟨false, p.trap, p.order⟩) ++ h.posted }

/-- R110: the registers of a job that begins. -/
def startHart (s : State) (h : Hart) (j : Job) : Hart :=
  let r := j.record
  { h with
    stage := .running
    width := r.width
    pc := r.entry
    s := ([(1, r.a0), (2, r.a1), (3, r.a2), (4, r.a3), (5, BitVec.ofNat 64 j.rank), (6, BitVec.ofNat 64 j.size),
           (7, j.job.zeroExtend 64)].filter (fun p => p.2 != 0))
    job := j
    jdl := treeDeadline s j.tree
    rsBase := r.spill * 64
    rsCap := r.cap
    lastPc := r.entry }

/-- R315: an entry of the restart record, as it is reissued: not begun, whatever its state field, which the
device only writes (R307, R314).  `bad` is the trap the word or the fields call for without the entry being
issued. -/
def readEntry (s : State) (pages : List SavePage) (tenant : Nat) (off : Nat) : QEntry :=
  let d (i : Nat) : Nat := saveDword s pages (off + 8 * i)
  let word := BitVec.ofNat 32 (d 1)
  let rm := bits (d 5) 34 32
  let vt := bits (d 4) 22 16
  let ill : Trap := ⟨0x02, word.zeroExtend 64⟩
  let base : QEntry :=
    { instr := .nop, word := word, addr := BitVec.ofNat 48 (bits (d 0) 47 0), joins := bit (d 0) 50,
      queue := bits (d 0) 53 52,
      sa := BitVec.ofNat 64 (d 2), sb := BitVec.ofNat 64 (d 3),
      len := { vl := bits (d 4) 14 0, vtype := BitVec.ofNat 7 vt, rowc := bits (d 4) 38 24,
               colc := bits (d 4) 54 40, rowi := bits (d 5) 14 0, coli := bits (d 5) 30 16 },
      rm := BitVec.ofNat 3 rm, satfp := bit (d 5) 35 }
  match decodeLow word with
  | .error _ => { base with bad := some ill }
  | .ok i =>
    let e := { base with instr := i }
    if 5 ≤ rm || !typeCodeKnown (BitVec.ofNat 5 vt) || i.queueOf != some base.queue || tenant ≥ 64 then
      { e with bad := some ill }
    else e

/-- R315: the entries of a restart record whose valid bit is set, reissued behind so many completed units. -/
def readRestart (s : State) (pages : List SavePage) (tenant units : Nat) : List QEntry :=
  let d := saveDword s pages 0x400
  if bit d 16 then
    (List.range (min 56 (bits d 5 0))).map (fun j => { readEntry s pages tenant (0x440 + 64 * j) with order := units })
  else []

end Sys2Proof.Machine
end

