-- ==== Sys2Proof/Machine/Coding.lean ====
section
/-! DEFINITION. The coding engines: commands, `cpost` and `cstat`, and what an engine does
(R389-R392, R457, log entry 9: DESIGN CHOICE). -/

namespace Sys2Proof.Machine

/-! ### Commands (R390, R391) -/

/-- Dword `i` of a command. -/
def CodingCmd.dword (c : CodingCmd) (i : Nat) : Nat := c.cmd.toNat / 2 ^ (64 * i) % 2 ^ 64

/-- The operation: 1 LDPC decode, 2 LDPC encode, 3 polar decode, 4 polar encode. -/
def codeOp (c : CodingCmd) : Nat := bits (c.dword 0) 63 60

/-- The lifting sizes of the standard (log entry 27: PRESUMED). -/
def liftingSizes : List Nat :=
  ([2, 3, 5, 7, 9, 11, 13, 15].flatMap (fun a => (List.range 8).map (fun j => a * 2 ^ j))).filter (fun z => z ≤ 384)

/-- R391: the LDPC information bits before the filler bits are taken off. -/
def ldpcBits (p : Nat) : Nat := (if bits p 63 62 = 1 then 22 else 10) * bits p 61 53

/-- R391: the polar length; 0 means 1,024. -/
def polarN (p : Nat) : Nat := if bits p 63 54 = 0 then 1024 else bits p 63 54

/-- R391: the parameters of an LDPC command are within their limits; the code 0 of Qm means 8, and the filler
bits are fewer than the information bits (log entry 55: DESIGN CHOICE). -/
def ldpcGood (decode : Bool) (p q : Nat) : Bool :=
  let m := bits p 43 41
  (bits p 63 62 == 1 || bits p 63 62 == 2) && liftingSizes.contains (bits p 61 53) && bits p 40 32 == 0 &&
    (m == 0 || m == 1 || m == 2 || m == 4 || m == 6) && 1 ≤ bits p 31 0 && bits p 31 0 ≤ 1048576 &&
    bits q 15 0 < ldpcBits p &&
    (if decode then 1 ≤ bits p 52 48 && q / 2 ^ 18 == 0 else bits p 52 44 == 0 && q / 2 ^ 16 == 0)

/-- R391: the parameters of a polar command are within their limits; the code 0 of the list size means 8, and E
is not 0 (log entry 55: DESIGN CHOICE). -/
def polarGood (decode : Bool) (p q : Nat) : Bool :=
  let n := polarN p
  let l := bits p 43 41
  32 ≤ n && n ≤ 1024 && 2 ^ Nat.log2 n == n && 12 ≤ bits p 53 44 && bits p 53 44 ≤ n && bits p 40 32 == 0 &&
    1 ≤ bits p 31 0 && bits p 31 0 ≤ 8192 && bits q 17 16 != 0 && q / 2 ^ 18 == 0 && bits q 15 0 == 0 &&
    (if decode then l == 0 || l == 1 || l == 2 || l == 4 else l == 0)

/-- R390, R391: the command is well formed. -/
def CodingCmd.good (c : CodingCmd) : Bool :=
  let op := codeOp c
  1 ≤ op && op ≤ 4 && bits (c.dword 0) 58 44 == 0 && bits (c.dword 0) 31 0 == 0 &&
    c.dword 4 % 32 == 0 && (op == 1 || c.dword 3 == 0) &&
    (if op ≤ 2 then ldpcGood (op == 1) (c.dword 6) (c.dword 7) else polarGood (op == 3) (c.dword 6) (c.dword 7))

/-- R391: the bits an engine reads and writes. -/
def codeBits (c : CodingCmd) : Nat × Nat :=
  let p := c.dword 6
  let q := c.dword 7
  let e := bits p 31 0
  match codeOp c with
  | 1 => (8 * e, ldpcBits p - bits q 15 0)
  | 2 => (ldpcBits p - bits q 15 0, e)
  | 3 => (8 * e, bits p 53 44)
  | _ => (bits p 53 44, e)

/-- R391: the bytes of the HARQ buffer, one for each bit of the mother code (log entry 27: PRESUMED). -/
def harqBytes (c : CodingCmd) : Nat :=
  if codeOp c = 1 && c.dword 3 != 0 then
    (if bits (c.dword 6) 63 62 = 1 then 66 else 50) * bits (c.dword 6) 61 53
  else 0

/-- The extents of a command: address, bytes, and what it needs of their pages. -/
def codeExtents (c : CodingCmd) : List (Nat × Nat × Kind) :=
  let b := codeBits c
  [(c.dword 1, (b.1 + 7) / 8, .read), (c.dword 2, (b.2 + 7) / 8, .write), (c.dword 3, harqBytes c, .write),
   (c.dword 4, 32, .write)]

/-! ### Bytes through the translations made at the post (R392) -/

/-- The translation of the page of an address. -/
def codePage (c : CodingCmd) (a : Nat) : Option CodePage := c.pages.find? (fun p => p.base == a / 4096 * 4096)

/-- Where the byte at an address lies: location and key tag. -/
def codeLoc (c : CodingCmd) (a : Nat) : Nat × Nat :=
  match codePage c a with
  | some p => (p.loc + a % 4096, p.tag)
  | none => (0, 0)

/-- R260: `n` bytes of a command's page from an address on, served by their home slices. -/
def useCode (s : State) (c : CodingCmd) (a n : Nat) : State :=
  match codePage c a with
  | some p => useLines s p.cache (p.loc + a % 4096) n
  | none => s

/-- R23, R322, R480: no request reaches the location: the scratchpad of a fenced core, or the twin while the
tether is down. -/
def lost (s : State) (l : Nat) : Bool :=
  isSpad l && (coreEntry s (spadCore l)).fenced || isTwin l && !s.tetherUp

/-- Bytes read; none when one lies in a word with an uncorrectable error or where no request reaches. -/
def codeGet (s : State) (c : CodingCmd) (a n : Nat) : Option (List Byte) :=
  (List.range n).foldr (fun i r =>
    let p := codeLoc c (a + i)
    match r, if lost s p.1 then none else readLoc s p.2 p.1 1 with
    | some l, some [b] => some (b :: l)
    | _, _ => none) (some [])

/-- R264: the cores whose scratchpad holds an error among some bytes are to be fenced. -/
def codeFences (s : State) (c : CodingCmd) (a n : Nat) : State :=
  (List.range n).foldl (fun s i =>
    let p := codeLoc c (a + i)
    if isSpad p.1 && (readLoc s p.2 p.1 1).isNone then askFence s (spadCore p.1) else s) s

/-- The first of some bytes, up to the end of their page. -/
def pageTake (a : Nat) (bs : List Byte) : List Byte := bs.take (4096 - a % 4096)

/-- Bytes written, page by page; the Bool says that a part was dropped (R265, R322). -/
def codePut (c : CodingCmd) : Nat → Nat → List Byte → State × Bool → State × Bool
  | 0, _, _, r => r
  | n + 1, a, bs, (s, bad) =>
    if bs = [] then (s, bad)
    else
      let part := pageTake a bs
      let r := if lost s (codeLoc c a).1 then (s, true)
        else writeParts (useCode s c a part.length) (codeLoc c a).2 (codeLoc c a).1 part
      codePut c n (a + part.length) (bs.drop part.length) (r.1, bad || r.2)

/-- Bytes written at an address of a command. -/
def codeStore (s : State) (c : CodingCmd) (a : Nat) (bs : List Byte) : State × Bool :=
  codePut c bs.length a bs (s, false)

/-! ### What an engine does -/

/-- An engine. -/
def getEng (s : State) (n : Nat) : Engine := mapGet {} s.eng.coding n

/-- An engine replaced. -/
def setEng (s : State) (n : Nat) (e : Engine) : State :=
  { s with eng := { s.eng with coding := mapSet {} s.eng.coding n e } }

/-- R318, R320, R392: the completion record of a command, and then its counter. -/
def codingRecord (s : State) (n : Nat) (c : CodingCmd) (status d1 : Nat) : State :=
  let bs := bytesOfNat 8 (recordDword0 c.job.toNat n c.tenant 3 status) ++ bytesOfNat 8 d1 ++
    bytesOfNat 8 (c.dword 5) ++ bytesOfNat 8 s.nowNs
  let s1 := (codeStore s c (c.dword 4) bs).1
  if bit (c.dword 0) 59 then decOwned s1 (bits (c.dword 0) 43 32) 1 c.tenant else s1

/-- The free value's first `n` bits as bytes, the bits beyond them 0 (R391). -/
def freeBits (l : List Byte) (n : Nat) : List Byte :=
  (List.range ((n + 7) / 8)).map (fun i =>
    if n < 8 * i + 8 then BitVec.ofNat 8 ((l.getD i 0).toNat % 2 ^ (n - 8 * i)) else l.getD i 0)

/-- R320: dword 1 of a command that ran, from the free value of log entry 9 (DESIGN CHOICE). -/
def codeResult (c : CodingCmd) (v : BitVec 64) : Nat :=
  let x := v.toNat
  let op := codeOp c
  if op % 2 = 0 then 0
  else
    let crc := if op = 1 && bits (c.dword 7) 17 16 = 0 then 0 else bits x 8 8
    let stop := if op = 1 && bit (c.dword 6) 44 then bits x 9 9 else 0
    bits x 7 0 + 2 ^ 8 * crc + 2 ^ 9 * stop + (if op = 1 then 2 ^ 16 * bits x 31 16 else 0)

/-- The pages of an extent: the address of the first byte in each. -/
def extentPages (a n : Nat) : List Nat :=
  if n = 0 then []
  else a :: ((List.range ((a % 4096 + n - 1) / 4096)).map (fun i => (a / 4096 + i + 1) * 4096))

/-- R391, R489: every LLR of an LDPC decode says bit 0, without a HARQ buffer to combine: the zero word, which
is a word of every linear code, is decoded (log entry 59: DEDUCED). -/
def zeroWord (c : CodingCmd) (inp : List Byte) : Bool :=
  codeOp c == 1 && !bit (c.dword 6) 45 && inp.all (fun b => 0 < b.toInt)

/-- The output bytes of a command, a free value but for the zero word (log entry 9: DESIGN CHOICE). -/
def codeOut (c : CodingCmd) (key : Nat) (inp : List Byte) (n : Nat) : List Byte :=
  if zeroWord c inp then List.replicate ((n + 7) / 8) 0 else freeBits (Config.codingOut key inp) n

/-- What the fields of dword 1 are taken from: the zero word has a zero syndrome from the first iteration on (log
entry 59: DEDUCED). -/
def codeWord (c : CodingCmd) (key : Nat) (inp : List Byte) : BitVec 64 :=
  let v := Config.codingDword1 key inp
  if zeroWord c inp then BitVec.ofNat 64 (0x300 + (if bit (c.dword 6) 44 then 1 else v.toNat % 256)) else v

/-- R260: the bytes a command reads, served by their home slices page by page. -/
def useInput (s : State) (c : CodingCmd) (a n : Nat) : State :=
  (extentPages a n).foldl (fun s e => useCode s c e (min (4096 - e % 4096) (a + n - e))) s

/-- R391, R392: a command runs to its end: its input and, when combining, its HARQ buffer are read,
and its output and that buffer written. -/
def codeRun (s0 : State) (n : Nat) (c : CodingCmd) : State :=
  let b := codeBits c
  let t := useInput s0 c (c.dword 1) ((b.1 + 7) / 8)
  let s := if bit (c.dword 6) 45 then useInput t c (c.dword 3) (harqBytes c) else t
  let inp := codeGet s c (c.dword 1) ((b.1 + 7) / 8)
  let old := if bit (c.dword 6) 45 then codeGet s c (c.dword 3) (harqBytes c) else some []
  match inp, old with
  | some x, some h =>
    let key := c.dword 6 + 2 ^ 64 * c.dword 7 + 2 ^ 128 * codeOp c
    let w1 := codeStore s c (c.dword 2) (codeOut c key (x ++ h) b.2)
    let w2 := codeStore w1.1 c (c.dword 3) (freeBits (Config.codingHarq key (x ++ h)) (8 * harqBytes c))
    codingRecord w2.1 n c (if w1.2 || w2.2 then 0x0B else 1) (codeResult c (codeWord c key (x ++ h)))
  | _, _ =>
    let s1 := codeFences s c (c.dword 1) ((b.1 + 7) / 8)
    codingRecord (if bit (c.dword 6) 45 then codeFences s1 c (c.dword 3) (harqBytes c) else s1) n c 0x0B 0

/-- The engines in order. -/
def engineNumbers : List Nat := List.range 26

/-- R389: the engine that begins its next command. -/
def pickCodingStart (s : State) : Option Nat :=
  engineNumbers.find? (fun n => (getEng s n).running == none && (getEng s n).queue != [])

/-- R389: an engine begins the next command of its queue. -/
def codingStart (s : State) (n : Nat) : State :=
  let e := getEng s n
  setEng s n { e with running := e.queue.head?, queue := e.queue.drop 1 }

/-- The engine whose command ends. -/
def pickCodingEnd (s : State) : Option Nat := engineNumbers.find? (fun n => (getEng s n).running != none)

/-- R392: the running command ends. -/
def codingEnd (s : State) (n : Nat) : State :=
  let e := getEng s n
  match e.running with
  | none => s
  | some c => codeRun (setEng s n { e with running := none }) n c

def execCodingCommandStart (s : State) : Out :=
  .next (match pickCodingStart s with | some n => codingStart s n | none => s)
def execCodingCommandEnd (s : State) : Out :=
  .next (match pickCodingEnd s with | some n => codingEnd s n | none => s)

/-! ### `cpost` and `cstat` (R392) -/

/-- R392: one page translated for an engine. -/
def postPage (s : State) (a : Nat) (k : Kind) : XRes CodePage :=
  (resolve s (acc s .other k) (BitVec.ofNat 64 a) 1).bind fun t s1 =>
    match t with
    | .mem l key =>
      let base := a / 4096 * 4096
      let e := coreEntryOf s1 (acc s .other k) (BitVec.ofNat 64 a)
      .ok ⟨base, l - a % 4096, key, (e.map TlbEntry.cache).getD 2, (e.map fun e => (e.va, e.size)).getD (base, 4096)⟩ s1
    | _ => .fault ⟨0x12, BitVec.ofNat 64 a⟩ s1

/-- R392: every page of some extents translated. -/
def postPages (s : State) : List (Nat × Kind) → XRes (List CodePage)
  | [] => .ok [] s
  | (a, k) :: t =>
    (postPage s a k).bind fun p s1 => (postPages s1 t).bind fun r s2 => .ok (p :: r) s2

/-- R389: the engines a selector names. -/
def selectEngines (sel : Nat) : List Nat :=
  if sel < 26 then [sel]
  else if sel = 32 then List.range 16
  else if sel = 33 then [16, 17, 18, 19]
  else if sel = 34 then [20, 21, 22, 23]
  else if sel = 35 then [24, 25]
  else []

/-- The commands of an engine, the running one included. -/
def Engine.load (e : Engine) : Nat := e.queue.length + (if e.running = none then 0 else 1)

/-- R389, R457: the permitted engine with the fewest commands, the lowest number on a tie; one of another
kind than the command's operation is not refused (log entry 9: DESIGN CHOICE). -/
def chooseEngine (s : State) (sel tenant : Nat) : Option Nat :=
  ((selectEngines sel).filter (fun n => !(getEng s n).denied.getLsbD tenant)).foldl (fun m n =>
    match m with
    | none => some n
    | some b => if (getEng s n).load < (getEng s b).load then some n else some b) none

/-- R392: a checked and translated command is posted. -/
def postCoding (sd : BitVec 5) (sel : Nat) (c : CodingCmd) (s : State) : State :=
  match chooseEngine s sel c.tenant with
  | none => wrS s sd 3
  | some n =>
    let e := getEng s n
    if 64 ≤ e.queue.length then wrS s sd 1
    else wrS (setEng s n { e with queue := e.queue ++ [c] }) sd 0

/-- The command of the hart in focus, as read. -/
def codeOf (s : State) (x : Nat) : CodingCmd :=
  { cmd := BitVec.ofNat 512 x, tenant := s.hart.job.tenant, tree := s.hart.job.tree, job := s.hart.job.job,
    core := s.hart.core, grace := s.hart.tr.grc, pages := [] }

/-- R392: `cpost`. -/
def cpostR (sd sa sb : BitVec 5) (s : State) : Res :=
  readRecord s (rdS s sb) 64 fun x s1 =>
    let c := codeOf s1 x
    if !c.good then .ok (wrS s1 sd 4)
    else
      ofLoad (postPages s1 ((codeExtents c).flatMap (fun e => (extentPages e.1 e.2.1).map (fun a => (a, e.2.2)))))
        fun p s2 => afterQueue (.cpost sd sa sb) s2 fun s3 =>
          .ok (postCoding sd ((rdS s sa).toNat % 64) { c with pages := p } s3)

def execCpost (sd sa sb : BitVec 5) (s : State) : Out := finish (cpostR sd sa sb s)
/-- R392: busy and queued of an engine. -/
def execCstat (sd sa : BitVec 5) (s : State) : Out :=
  let n := (rdS s sa).toNat % 32
  let e := getEng s n
  finish (.ok (wrS (acquireIf true s) sd (if 25 < n then BitVec.allOnes 64
    else BitVec.ofNat 64 ((if e.running = none then 0 else 2 ^ 16) + e.queue.length))))

end Sys2Proof.Machine
end

