-- ==== Sys2Proof/Machine/Control.lean ====
section
/-! DEFINITION. Branches, jumps, calls, returns and loops, and the return stack (R41, R65,
R119-R121, R128-R132). -/

namespace Sys2Proof.Machine

/-- The target of an offset in bundles (R41). -/
def bundleTarget {n : Nat} (s : State) (off : BitVec n) : BitVec 48 := bundleAddr s + off.signExtend 48 <<< 3

/-- R128: a conditional branch. -/
def branchIf (c : Bool) (off : BitVec 11) (s : State) : Out :=
  finish (.ok (if c then jumpTo s (bundleTarget s off) else s))

/-- R120, R121: a return address pushed; a spill comes behind the hart's queued accesses to its bytes. -/
def rsPush (s : State) (ra : BitVec 48) (f : State → Res) : Res :=
  let h := s.hart
  if h.rs.length < 16 then f (updH s fun h => { h with rs := h.rs ++ [ra] })
  else if h.spilled = h.rsCap || h.rsBase + 8 * (h.spilled + 1) > 0x80000 then
    xtrap 0x0A (ra.zeroExtend 64) s
  else
    let oldest := bytesOfNat 8 (h.rs.headD 0).toNat
    let l := spadLoc h.core (h.rsBase + 8 * h.spilled)
    coherentAt s l 8 fun s =>
      f (updH (pokeLoc s 0 l oldest) fun h => { h with rs := h.rs.drop 1 ++ [ra], spilled := h.spilled + 1 })

/-- R65, R120: a return address used as a target. -/
def popTo (t : BitVec 48) (s s1 : State) (f : BitVec 48 → State → Res) : Res :=
  if t &&& 7 != 0 then xtrap 0x05 (t.zeroExtend 64) s else f t s1

/-- R120, R121: a return address popped; a fill comes behind the hart's queued accesses to its bytes. -/
def rsPop (s : State) (f : BitVec 48 → State → Res) : Res :=
  let h := s.hart
  match h.rs.getLast? with
  | some t => popTo t s (updH s fun h => { h with rs := h.rs.dropLast }) f
  | none =>
    if h.spilled = 0 then xtrap 0x0B 0 s
    else
      let l := spadLoc h.core (h.rsBase + 8 * (h.spilled - 1))
      coherentAt s l 8 fun s =>
        match readNat s 0 l 8 with
        | none => .stall .walk (askFence s h.core)
        | some v => popTo (BitVec.ofNat 48 v) s (updH s fun h => { h with spilled := h.spilled - 1 }) f

/-- R65, R129: a register target, its low 48 bits, which must be a bundle address. -/
def regTarget (s : State) (sa : BitVec 5) (f : BitVec 48 → Res) : Res :=
  let t : BitVec 48 := (rdS s sa).truncate 48
  if t &&& 7 != 0 then xtrap 0x05 (t.zeroExtend 64) s else f t

def execBeq (sa sb : BitVec 5) (off : BitVec 11) (s : State) : Out := branchIf (rdS s sa == rdS s sb) off s
def execBne (sa sb : BitVec 5) (off : BitVec 11) (s : State) : Out := branchIf (rdS s sa != rdS s sb) off s
def execBlt (sa sb : BitVec 5) (off : BitVec 11) (s : State) : Out :=
  branchIf ((rdS s sa).slt (rdS s sb)) off s
def execBge (sa sb : BitVec 5) (off : BitVec 11) (s : State) : Out :=
  branchIf (!(rdS s sa).slt (rdS s sb)) off s
def execBltn (sa sb : BitVec 5) (off : BitVec 11) (s : State) : Out :=
  branchIf ((rdS s sa).ult (rdS s sb)) off s
def execBgen (sa sb : BitVec 5) (off : BitVec 11) (s : State) : Out :=
  branchIf (!(rdS s sa).ult (rdS s sb)) off s
def execJ (off : BitVec 24) (s : State) : Out := finish (.ok (jumpTo s (bundleTarget s off)))
/-- R41, R129: the return point is the next bundle. -/
def execCall (off : BitVec 24) (s : State) : Out :=
  finish (rsPush s (bundleAddr s + 8) fun s1 => .ok (jumpTo s1 (bundleTarget s off)))
def execJr (sa : BitVec 5) (s : State) : Out := finish (regTarget s sa fun t => .ok (jumpTo s t))
/-- R129: the target is checked before any push. -/
def execCallr (sa : BitVec 5) (s : State) : Out :=
  finish (regTarget s sa fun t => rsPush s (bundleAddr s + 8) fun s1 => .ok (jumpTo s1 t))
def execRet (s : State) : Out := finish (rsPop s fun t s1 => .ok (jumpTo s1 t))
/-- R131: the counter is written, and the branch is taken while it is not 0. -/
def execLoop (sa : BitVec 5) (off : BitVec 11) (s : State) : Out :=
  let c := rdS s sa - 1
  let s1 := wrS s sa c
  finish (.ok (if c != 0 then jumpTo s1 (bundleTarget s off) else s1))

end Sys2Proof.Machine
end

