-- ==== Sys2Proof/Machine/Abandon.lean ====
section
/-! DEFINITION. The abandonment of a tree (R346, R352, R358-R360) and deadline requests (R353). -/

namespace Sys2Proof.Machine

/-- The core whose ready store holds a record that never began, else 255 (R320). -/
def unrunIndex (s : State) (j : Job) : Nat :=
  ((s.disp.ready.find? (fun p => p.2.contains j)).map (fun p => p.1)).getD 255

/-- R359: the end of a job that is not bound: ABANDONED if it never began, else EXPIRED. -/
def dropLoose (s : State) (j : Job) : State :=
  if j.ran then endLoose s { j with lastCause := 0x30 } 3
  else recordUnrun s j.record j.tenant j.job.toNat (unrunIndex s j) 2

/-- Every job that is not bound and satisfies a condition leaves its place. -/
def removeLoose (s : State) (p : Job → Bool) : State :=
  let keep (l : List Job) : List Job := l.filter (fun j => !p j)
  { s with disp := { s.disp with
      pool := keep s.disp.pool
      ready := (s.disp.ready.map (fun q => (q.1, keep q.2))).filter (fun q => q.2 != [])
      stealGrant := s.disp.stealGrant.filter (fun q => !q.2.toList.any p)
      saved := (s.disp.saved.map (fun g => { g with jobs := keep g.jobs })).filter (fun g => g.jobs != []) } }

/-- R345, R497: the record of the member of a rank: its completion record stands at its own slot, and
its save area at its own offset. -/
def memberRecord (r : JobRec) (rank : Nat) : JobRec :=
  { r with
    compl := if r.compl = 0 then 0 else r.compl + BitVec.ofNat 48 (32 * rank)
    save := r.save + BitVec.ofNat 48 (4096 * savePages r.width * rank) }

/-- R346: every member of an abandoned gang writes an ABANDONED record at its slot. -/
def dropGang (s : State) (g : GangReq) : State :=
  g.ids.zipIdx.foldl (fun s p =>
    recordUnrun s (memberRecord g.record p.2) g.tenant p.1.toNat 255 2) s

/-- R359 step 1: a PENDING counter of the tree is DROPPED; its held copy is accounted for. -/
def dropCounter (s : State) (n : Nat) : State :=
  let c := getCtr s n
  let s1 := setCtr s n { c with state := .dropped, copy := none }
  match c.copy with
  | none => s1
  | some r => recordUnrun s1 r c.tenant 0 255 2

/-- R359 step 2: expiry for a hart of the tree; a halted one need not reach a boundary (R323, R360). -/
def expireHart (tval : Dword) (s : State) (key : Nat) : State :=
  updHart s key fun h => { h with expiry := some tval, ranSince := false }

/-- R359 step 4: the tree's lists are to be cancelled at their next chunk boundary. -/
def cancelLists (s : State) (id : BitVec 32) : State :=
  { s with eng := { s.eng with lists := s.eng.lists.map (fun p =>
      (p.1, p.2.map (fun l => if l.tree = id && !l.hostPost then { l with cancel := true } else l))) } }

/-- R359 step 5: the tree's coding commands that have not begun are cancelled. -/
def cancelCoding (s : State) (id : BitVec 32) : State :=
  engineNumbers.foldl (fun s n =>
    let e := getEng s n
    let gone := e.queue.filter (fun c => c.tree == id)
    gone.foldl (fun s c => codingRecord s n c 8 0)
      (setEng s n { e with queue := e.queue.filter (fun c => c.tree != id) })) s

/-- R358-R360: the abandonment of a tree begins; `tval` goes to its harts' expiry. -/
def abandonTree (s : State) (id : BitVec 32) (byOp : Bool) : State :=
  match getTree s id with
  | none => s
  | some t =>
    if t.abandoned then s
    else
      let tval : Dword := if byOp then BitVec.ofNat 64 s.nowNs else t.deadline
      let mine (j : Job) : Bool := j.tree == id
      let s0 := setTree s id { t with abandoned := true, began := if byOp then some tval else none }
      let s1 := removeLoose ((looseJobs s0).filter mine |>.foldl dropLoose s0) mine
      let gangs := s1.disp.gangs.filter (fun g => g.tree == id)
      let s2 := gangs.foldl dropGang
        { s1 with disp := { s1.disp with gangs := s1.disp.gangs.filter (fun g => g.tree != id) } }
      let ctrs := (s2.disp.counters.filter (fun p => p.2.state == .pending && p.2.tree == id)).map (fun p => p.1)
      let s3 := ctrs.foldl dropCounter s2
      let harts := ((boundJobs s3).filter (fun p => p.2.tree == id)).map (fun p => p.1)
      let s4 := harts.foldl (expireHart tval) s3
      cancelCoding (cancelLists s4 id) id

/-! ### Deadline requests (R353) -/

/-- R353: a tree's records are re-keyed under a new deadline: a record its store cannot hold under
the new key moves to the pool, the others stand at the spawn end in their old order (log entry 53: DESIGN CHOICE). -/
def rekey (s : State) (id : BitVec 32) (core : Nat) : State :=
  let mine := (getReady s core).filter (fun j => j.tree == id)
  if mine = [] then s
  else
    let s1 := setReady s core ((getReady s core).filter (fun j => j.tree != id))
    mine.foldr (fun j s =>
      if j.ran || storeAccepts s core (j.deadline s) then setReady s core (j :: getReady s core)
      else pushPool s j) s1

/-- R340, R353: every hart that was to be pre-empted and has not stopped is considered anew. -/
def reconsider (s : State) : State :=
  (hartKeys s).foldl (fun s k =>
    if (getHart s k).preempt then updHart s k fun h => { h with preempt := false } else s) s

/-- R353: a deadline request reaches the dispatcher.  Its harts see the new `jdl`, and pre-emption is
re-evaluated; one that device time has reached begins abandonment at once. -/
def applySetdl (s : State) (r : SetdlReq) : State :=
  match getTree s r.tree with
  | none => s
  | some t =>
    if t.deadline = bestEffort || r.deadline = bestEffort || t.abandoned then s
    else
      let s1 := setTree s r.tree { t with deadline := r.deadline }
      let s2 := (List.range 96).foldl (fun s c => rekey s r.tree c) s1
      let harts := ((boundJobs s2).filter (fun p => p.2.tree == r.tree)).map (fun p => p.1)
      let s3 := reconsider (harts.foldl (fun s k => updHart s k fun h => { h with jdl := r.deadline }) s2)
      if r.deadline.toNat ≤ s3.nowNs then abandonTree s3 r.tree false else s3

end Sys2Proof.Machine
end

