-- ==== Sys2Proof/Machine/Bind.lean ====
section
/-! DEFINITION. Binding a job to a lane block (R110, R335, R336), resuming one from its save area
(R315, R316), and reissuing a restart record (R142, R315). -/

namespace Sys2Proof.Machine

/-- A control register of a save area, by its place in the order of `savedCregs`. -/
def savedCreg (s : State) (pages : List SavePage) (i : Nat) : Nat := saveDword s pages (8 * (i + 1))

/-- The length and view registers of a save area. -/
def savedLen (s : State) (pages : List SavePage) : LenRegs :=
  { vl := savedCreg s pages 0 % 2 ^ 15
    vtype := BitVec.ofNat 7 (savedCreg s pages 1)
    rowc := savedCreg s pages 2 % 2 ^ 15
    colc := savedCreg s pages 3 % 2 ^ 15
    rowi := savedCreg s pages 4 % 2 ^ 15
    coli := savedCreg s pages 5 % 2 ^ 15 }

/-- The trap registers of a save area. -/
def savedTr (s : State) (pages : List SavePage) : TrapRegs :=
  let st := savedCreg s pages 13
  { tvec := BitVec.ofNat 48 (savedCreg s pages 11 / 8 * 8)
    tenab := BitVec.ofNat 6 (savedCreg s pages 12)
    grc := bit st 2
    imp := bit st 1
    inh := bit st 0
    tcause := BitVec.ofNat 8 (savedCreg s pages 14)
    tval := BitVec.ofNat 64 (savedCreg s pages 15)
    xpc := BitVec.ofNat 48 (savedCreg s pages 16)
    tscratch := BitVec.ofNat 64 (savedCreg s pages 17) }

/-- A table of the registers read from a save area: `n` of them, `bytes` each, from an offset on. -/
def savedRegs {b : Nat} (s : State) (pages : List SavePage) (off n bytes : Nat) : SMap (BitVec b) :=
  ((List.range n).map (fun i => (i, BitVec.ofNat b (natOfBytes (saveGet s pages (off + bytes * i) bytes))))).filter
    (fun p => p.2 != 0)

/-- R217: the decoder's view of the mode after `menter` and `mexit` among reissued entries. -/
def viewAfter (view : Bool) (q : List QEntry) : Bool :=
  q.foldl (fun v e => if e.bad.isSome then v else
    match e.instr with
    | .menter => true
    | .mexit => false
    | _ => v) view

/-- R315: the valid bit of the restart record is cleared. -/
def clearValid (s : State) (pages : List SavePage) : State :=
  let d := saveDword s pages 0x400
  if bit d 16 then savePut s pages 0x400 (bytesOfNat 8 (d - 2 ^ 16)) else s

/-- R315: a hart with all that a save area holds; the identity comes from the placement, and the mode from the
header, whose bit the device reads again (R307, R316; log entry 50: DEDUCED). -/
def resumedHart (s : State) (h : Hart) (j : Job) : Hart :=
  let w := j.record.width
  let p := j.pages
  let q := readRestart s p j.tenant j.units
  let mode := bit (saveDword s p 0) 41
  let depth := savedCreg s p 19
  let rsb := savedCreg s p 20
  { h with
    stage := .running
    width := w
    pc := BitVec.ofNat 48 (saveDword s p 0x408)
    s := (savedRegs s p 0x200 32 8 : SMap (BitVec 64)).filter (fun x => x.1 != 0)
    job := { j with posted := [], graceEnd := none }
    jdl := treeDeadline s j.tree
    jprog := BitVec.ofNat 64 (savedCreg s p 10)
    vsync := BitVec.ofNat 48 (savedCreg s p 18)
    fcsr := BitVec.ofNat 64 (savedCreg s p 6) &&& fcsrMask
    tr := savedTr s p
    rs := (List.range (min 16 (bits depth 4 0))).map (fun i => BitVec.ofNat 48 (saveDword s p (0x300 + 8 * i)))
    spilled := bits depth 23 8
    rsBase := bits rsb 18 3 * 8
    rsCap := bits rsb 47 32
    len := savedLen s p
    k := savedRegs s p 0x1400 8 (64 * w)
    v := savedRegs s p (0x1400 + 512 * w) 64 (32 * w)
    mmode := mode
    mview := viewAfter mode q
    queue := q
    lastPc := j.finalPc
    units := j.units + 1
    posted := j.posted }

/-- R110, R303, R315: the job of `h` begins or resumes on the hart in focus, its save area translated; what
its core reads from then on acquires what was released before it. -/
def occupy (s : State) (j : Job) : State :=
  let h := { s.hart.freed with linkGen := s.hart.linkGen }
  let s1 := if j.ran then
      let s0 := updH s fun _ => resumedHart s h j
      clearValid (useSave s0 j.pages 0 (5120 + 2560 * j.record.width)) j.pages
    else updH s fun _ => startHart s h j
  bumpLink (acquire s1 s1.hart.core)

/-- R315: the hart in focus goes on from its save area on its own lanes; its expiry and its grace stay. -/
def resumeHere (s : State) : State :=
  updH (occupy s s.hart.jobNow) fun h => { h with expiry := s.hart.expiry, graceEnd := s.hart.graceEnd }

/-- R336: the job ends at once, its save area not being writable local-home memory; it never bound, and
`index` is the core whose ready store held it, else 255 (R320). -/
def failBind (s : State) (index : Nat) (j : Job) : State :=
  recordEnd s { j with lastCause := 0x14 } 5 index 0 j.record.entry j.jprog

/-- R335, R336: a job bound to the lane block `hid` of a core.  The translations of its save area are held
until it ends. -/
def bindFrom (s : State) (index core hid : Nat) (j : Job) : State :=
  if j.ran then atHart s (hartKey core hid) fun s => occupy s { j with hid := hid }
  else
    let vas := (List.range (savePages j.record.width)).map (fun i => j.record.save.toNat + 4096 * i)
    match translateSave s j.tenant vas with
    | (none, s1) => failBind s1 index j
    | (some pages, s1) => atHart s1 (hartKey core hid) fun s => occupy s { j with pages := pages, hid := hid }

/-- R335: a record of the core's own ready store bound. -/
def bindJob (s : State) (core hid : Nat) (j : Job) : State := bindFrom s core core hid j

/-- R341, R351, R465: the hart in focus gives its lane block up after it was saved; its record goes
back to the core's ready store, not stealable. -/
def putBack (s : State) (atSteal : Bool) : State :=
  let j := s.hart.jobNow
  let core := s.hart.core
  let s1 := dropWalks { s with hart := s.hart.freed } s.hart.key
  if atSteal then appendReady s1 core j false else returnReady s1 core j

/-- R142, R315: the entries of the restart record reissued by a `tret`. -/
def reissue (s : State) : State :=
  let p := s.hart.job.pages
  let q := readRestart s p s.hart.job.tenant s.hart.units
  clearValid (useSave (updH s fun h => { h with queue := h.queue ++ q, mview := viewAfter h.mview q }) p 0x400
    (64 + 64 * q.length)) p

end Sys2Proof.Machine
end

