-- ==== Sys2Proof/Machine/Fences.lean ====
section
/-! DEFINITION. `fence`, `lsync`, `vfence` and `qfence` (R290-R292, R302, R305). -/

namespace Sys2Proof.Machine

/-- R258, R291: a fence that acquires at group scope or wider ends what the data cache holds of device
memory; a fence waits for every queued access; every access this model performs is performed at
its memory slice at once (log entry 4: DESIGN CHOICE), so nothing else remains to be ordered. -/
def fenceR (kind : BitVec 2) (scope : BitVec 3) (s : State) : Res :=
  afterQueue (.fence kind scope) s fun s => .ok (acquireIf (kind.getLsbD 0 && 3 ≤ scope.toNat) s)

/-- R292: `lsync` waits for every access and for every fault they raise. -/
def lsyncR (s : State) : Res :=
  if drained s && s.hart.posted.isEmpty then .ok s else stallOn .resync .lsync s

/-- R302: `vfence` waits for every queued access and flushes the combining buffers. -/
def vfenceR (s : State) : Res := afterQueue .vfence s fun s => .ok (flushVamo s)

/-- R305: `qfence` waits until every earlier queue operation of the hart is accepted; only messages
can still be waiting to be (log entry 4: DESIGN CHOICE). -/
def qfenceR (s : State) : Res :=
  if s.hart.outbox = [] && !s.eng.messages.any (fun m => m.sender == s.hart.key) then .ok s
  else stallOn .order .qfence s

def execFence (kind : BitVec 2) (scope : BitVec 3) (s : State) : Out := finish (fenceR kind scope s)
def execLsync (s : State) : Out := finish (lsyncR s)
def execVfence (s : State) : Out := finish (vfenceR s)
def execQfence (s : State) : Out := finish (qfenceR s)

end Sys2Proof.Machine
end

