-- ==== Sys2Proof/Machine/JobOps.lean ====
section
/-! DEFINITION. The job instructions (R347-R353) and the dependence instructions (R356). -/

namespace Sys2Proof.Machine

/-- A status in `sd`. -/
def statusIn (s : State) (sd : BitVec 5) (n : Nat) : Res := .ok (wrS s sd (BitVec.ofNat 64 n))

/-! ### `spawn` and `gang` (R348, R349) -/

/-- R348: the record becomes a job in the own ready store, else in the dispatcher's pool. -/
def placeSpawn (sd : BitVec 5) (r : JobRec) (s : State) : Res :=
  let h := s.hart
  let j := createJob s r h.job.tenant h.job.tree h.core
  if storeAccepts s h.core (treeDeadline s h.job.tree) then statusIn (pushReady j.2 h.core j.1) sd 0
  else if s.disp.pool.length < 16384 then statusIn (pushPool j.2 j.1) sd 1
  else statusIn s sd 2

def execSpawn (sd sa : BitVec 5) (s : State) : Out :=
  finish (readRecord s (rdS s sa) 64 fun x s1 =>
    let r := parseRec x
    if treeAbandoned s1 s1.hart.job.tree then statusIn s1 sd 5
    else if r.malformed false then statusIn s1 sd 4
    else afterQueue (.spawn sd sa) s1 (placeSpawn sd r))

/-- The cores of a mask, in order. -/
def maskCores (m : Nat) : List Nat := (List.range 96).filter (fun c => bit m c)

/-- R343: the mask is refused. -/
def gangMaskBad (s : State) (m tenant : Nat) : Bool :=
  m == 0 || m / 2 ^ 96 != 0 || (maskCores m).any (fun c => currentTenant s c != tenant)

/-- R343: the tenant's queue of 16 gang requests is full. -/
def gangFull (s : State) (tenant : Nat) : Bool :=
  16 ≤ (s.disp.gangs.filter (fun g => g.tenant == tenant)).length

/-- R326: job ids of the members in rank order. -/
def gangIds (s : State) : Nat → List (BitVec 32) × State
  | 0 => ([], s)
  | n + 1 =>
    let a := newJobId s 255
    let r := gangIds a.2 n
    (a.1 :: r.1, r.2)

/-- R343, R326: a gang request accepted into its tenant's queue. -/
def queueGang (s : State) (tenant : Nat) (tree : BitVec 32) (r : JobRec) (m : Nat) : State :=
  let i := gangIds s (maskCores m).length
  let g : GangReq := { tenant := tenant, tree := tree, record := r, mask := m, ids := i.1, arrival := i.2.disp.arrivals }
  { i.2 with disp := { i.2.disp with gangs := i.2.disp.gangs ++ [g], arrivals := i.2.disp.arrivals + 1 } }

def execGang (sd sa sb : BitVec 5) (s : State) : Out :=
  finish (readRecord s (rdS s sa) 64 fun x s1 =>
    readRecord s1 (rdS s sb) 16 fun m s2 =>
      let r := parseRec x
      let j := s2.hart.job
      if treeAbandoned s2 j.tree then statusIn s2 sd 5
      else if r.malformed false then statusIn s2 sd 4
      else if gangMaskBad s2 m j.tenant then statusIn s2 sd 3
      else if gangFull s2 j.tenant then statusIn s2 sd 2
      else afterQueue (.gang sd sa sb) s2 fun s3 => statusIn (queueGang s3 j.tenant j.tree r m) sd 0)

/-! ### `exit` and `yield` (R350, R351) -/

/-- R350 steps 1 and 2: every queued instruction has retired and every fault of a posted access has
come back; then the `vfence`. -/
def releaseAll (i : Instr) (s : State) (f : State → Res) : Res :=
  if drained s && s.hart.posted.isEmpty then
    let s1 := flushVamo s
    if s1.hart.posted.isEmpty then f s1 else stallOn .resync i s1
  else stallOn .resync i s

/-- R350 steps 3 and 4: the counters, in order, then the completion record. -/
def exitNow (sa : BitVec 5) (s : State) : State :=
  let j := s.hart.job
  let s1 := if j.record.xce then decOwned s j.record.exitCtr 1 j.tenant else s
  let s2 := if sa = 0 then s1 else decOwned s1 ((rdS s sa).toNat % 4096) 1 j.tenant
  endFocus (updH s2 fun h => { h with
    lastPc := h.x.iaddr, job := { h.job with record := { h.job.record with xce := false } } }) 1

def execExitJob (sa : BitVec 5) (s : State) : Out :=
  finish (releaseAll (.exitJob sa) s fun s1 => .left (countLeft s1 (exitNow sa s1)))

/-- R351: the hart is saved with reason 5, to resume at the next issue unit, and its record goes back
to the steal end of its class; that of an abandoned tree, which binds nowhere any more, ends EXPIRED at once
(R310 rank 4, R358, R360). -/
def yieldNow (s : State) : State :=
  let next := s.hart.x.iaddr + 4
  let s1 := saveHart (updH s fun h => { h with lastPc := h.x.iaddr }) 5 false 0 next 0 63
  if treeAbandoned s1 s1.hart.job.tree then expireFocus s1 else putBack s1 true

def execYieldJob (s : State) : Out := finish (releaseAll .yieldJob s fun s1 => .left (countLeft s1 (yieldNow s1)))

/-! ### `abandon` and `setdl` (R352, R353) -/

def execAbandon (sd sa : BitVec 5) (s : State) : Out :=
  let j := s.hart.job
  let v := if sa = 0 then j.tree.toNat else (rdS s sa).toNat
  finish (if v < 2 ^ 32 && treeLive s (BitVec.ofNat 32 v) j.tenant then
      statusIn (abandonTree s (BitVec.ofNat 32 v) true) sd 0
    else statusIn s sd 1)

/-- R353: the request travels to the dispatcher; `sd` is the deadline before it, which is known once the
requests of its tree that are on their way have arrived: until then it waits (log entry 61: DEDUCED). -/
def execSetdl (sd sa : BitVec 5) (s : State) : Out :=
  let t := s.hart.job.tree
  finish (if s.disp.setdl.any (fun r => r.tree == t) then .stall .order s
    else .ok (wrS { s with disp := { s.disp with setdl := s.disp.setdl ++ [⟨t, rdS s sa⟩] } } sd (treeDeadline s t)))

/-! ### Dependence counters (R356) -/

/-- The counter an operand names. -/
def ctrOf (v : Dword) : Nat := v.toNat % 4096

/-- Bits [31:12] of the operand are 0. -/
def ctrClean (v : Dword) : Bool := bits v.toNat 31 12 == 0

/-- R356: the checks that `dep.init`, `dep.add` and `dep.dec` share, in the order in which `dep.get` makes
them (log entry 42: DEDUCED). -/
def withCounter (sd sa : BitVec 5) (s : State) (f : Nat → State → Res) : Res :=
  let v := rdS s sa
  if !ctrClean v then statusIn s sd 4
  else if (getCtr s (ctrOf v)).owner != s.hart.job.tenant then statusIn s sd 3
  else f (ctrOf v) s

/-- R356: the counter armed. -/
def armCounter (sd : BitVec 5) (n count : Nat) (copy : Option JobRec) (s : State) : Res :=
  let j := s.hart.job
  let s1 := setCtr s n { getCtr s n with
    state := .pending, count := count, tree := j.tree, tenant := j.tenant, copy := copy }
  statusIn (if count = 0 then reachZero s1 n else s1) sd 0

def execDepInit (sd sa sb : BitVec 5) (s : State) : Out :=
  finish (withCounter sd sa s fun n s =>
    let count := bits (rdS s sa).toNat 63 32
    if treeAbandoned s s.hart.job.tree then statusIn s sd 5
    else if (getCtr s n).state = .pending then statusIn s sd 2
    else if rdS s sb = 0 then armCounter sd n count none s
    else readRecord s (rdS s sb) 64 fun x s1 =>
      if (parseRec x).malformed false then statusIn s1 sd 4 else armCounter sd n count (some (parseRec x)) s1)

def execDepAdd (sd sa sb : BitVec 5) (s : State) : Out :=
  finish (withCounter sd sa s fun n s =>
    let c := getCtr s n
    if c.state ≠ .pending then statusIn s sd 1
    else if 2 ^ 32 ≤ c.count + (rdS s sb).toNat then statusIn (counterError s n) sd 0
    else statusIn (setCtr s n { c with count := c.count + (rdS s sb).toNat }) sd 0)

def execDepDec (sd sa sb : BitVec 5) (s : State) : Out :=
  finish (withCounter sd sa s fun n s =>
    statusIn (depDecStep s n (if sb = 0 then 1 else (rdS s sb).toNat)) sd 0)

/-- R355: the code of a state. -/
def DepState.code (d : DepState) : Nat :=
  match d with
  | .idle => 0
  | .pending => 1
  | .done => 2
  | .error => 3
  | .dropped => 4

def execDepGet (sd sa : BitVec 5) (s : State) : Out :=
  let v := rdS s sa
  let c := getCtr s (ctrOf v)
  finish (statusIn (acquireIf true s) sd
    (if !ctrClean v then 0xFFFFFFFF00000004
     else if c.owner != s.hart.job.tenant then 0xFFFFFFFF00000003
     else c.state.code * 2 ^ 32 + c.count))

end Sys2Proof.Machine
end

