-- ==== Sys2Proof/Machine/Special.lean ====
section
/-! DEFINITION. The special functions (R105, R106, R199, R200).  Each irrational value is computed in
fixed point with far more bits than any rounding can depend on and rounded once, with the part below
taken as non-zero (log entry 12: DEDUCED). -/

namespace Sys2Proof.Machine

/-- The fixed-point precision: a value v stands for v · 2^-fixP. -/
def fixP : Nat := 1300

/-- One in fixed point. -/
def fixOne : Int := (2 ^ fixP : Nat)

/-- A fixed-point product. -/
def fixMul (a b : Int) : Int := a * b / fixOne

/-- The sum of (±1)^k x^(2k+1)/(2k+1): atan for `alt`, atanh otherwise; `p` is x^(2k+1). -/
def oddSeries (alt : Bool) (x2 : Int) : Nat → Nat → Int → Int
  | 0, _, _ => 0
  | n + 1, k, p =>
    let t := p / (2 * k + 1 : Nat)
    (if alt && k % 2 == 1 then -t else t) + oddSeries alt x2 n (k + 1) (fixMul p x2)

/-- atan of a fixed-point value of magnitude at most 1/4. -/
def atanSmall (x : Int) : Int := oddSeries true (fixMul x x) 340 0 x

/-- atanh of a fixed-point value of magnitude at most 1/3. -/
def atanhSmall (x : Int) : Int := oddSeries false (fixMul x x) 420 0 x

/-- π in fixed point (Machin's formula). -/
def fixPi : Int := 16 * atanSmall (fixOne / 5) - 4 * atanSmall (fixOne / 239)

/-- ln 2 in fixed point. -/
def fixLn2 : Int := 2 * atanhSmall (fixOne / 3)

/-- The terms x^k/k! of a series by steps of two, alternating; `t` is the current term. -/
def trigSeries (x2 : Int) : Nat → Nat → Int → Int
  | 0, _, _ => 0
  | n + 1, k, t => t - trigSeries x2 n (k + 2) (fixMul t x2 / ((k + 1) * (k + 2) : Nat))

/-- sin of a fixed-point value of magnitude at most 1. -/
def sinSmall (x : Int) : Int := trigSeries (fixMul x x) 120 1 x

/-- cos of a fixed-point value of magnitude at most 1. -/
def cosSmall (x : Int) : Int := trigSeries (fixMul x x) 120 0 fixOne

/-- The terms of the exponential series from x^k/k! = `t` on. -/
def expSeries (x : Int) : Nat → Nat → Int → Int
  | 0, _, _ => 0
  | n + 1, k, t => t + expSeries x n (k + 1) (fixMul t x / (k + 1 : Nat))

/-- exp of a fixed-point value of magnitude at most 1. -/
def expSmall (x : Int) : Int := expSeries x 240 0 fixOne

/-- A fixed-point value squared `n` times. -/
def squareN : Nat → Int → Int
  | 0, x => x
  | n + 1, x => squareN n (fixMul x x)

/-- atan of a fixed-point value from 0 to 1: the angle is halved three times. -/
def atanFix (z : Int) : Int :=
  let half (z : Int) : Int :=
    let r : Int := isqrt ((fixOne * fixOne + z * z).toNat)
    z * fixOne / (fixOne + r)
  8 * atanSmall (half (half (half z)))

/-- A finite value in fixed point. -/
def toFix (m : Nat) (e : Int) : Int := (m * 2 ^ (e + fixP).toNat : Nat)

/-- A fixed-point value as a value, a non-zero part following below. -/
def ofFix (v : Int) : FVal := .fin (v < 0) v.natAbs (-(fixP : Int))

/-- Rounding of an irrational value given in fixed point. -/
def roundFix (f : FFmt) (rm : RM) (v : Int) : FRes := roundV f rm (ofFix v) true

/-- sin or cos of a reduced angle plus `k` quarter turns. -/
def quadrant (cos : Bool) (k : Nat) (r : Int) : Int :=
  match (if cos then k + 1 else k) % 4 with
  | 0 => sinSmall r
  | 1 => cosSmall r
  | 2 => -sinSmall r
  | _ => -cosSmall r

/-- R105: sin or cos of x radians. -/
def fpSinCos (f : FFmt) (rm : RM) (cos : Bool) (a : Nat) : FRes :=
  match f.unpack a with
  | .nan => ⟨f.nan, snanFlag f [a]⟩
  | .inf _ => ⟨f.nan, fNv⟩
  | .fin n m e =>
    if m = 0 then (if cos then roundV f rm (.fin false 1 0) false else .plain a)
    else if 0 ≤ cmpV (.fin false m e) (.fin false 1 20) then ⟨f.nan, fNv ||| fRg⟩
    else
      let x := toFix m e
      let hp := fixPi / 2
      let k := (2 * x + hp) / (2 * hp)
      let v := quadrant cos k.toNat (x - k * hp)
      roundFix f rm (if n && !cos then -v else v)

/-- R106: sin or cos of 2πθ: an exact value, or an irrational one in fixed point. -/
def turnValue (cos : Bool) (n : Bool) (m : Nat) (e : Int) : Int × Bool :=
  let x := toFix m e % fixOne
  let k := (8 * x + fixOne) / (2 * fixOne)
  let r := 4 * x - k * fixOne
  if r = 0 then
    let v := match (if cos then k.toNat + 1 else k.toNat) % 4 with
      | 0 => 0
      | 1 => fixOne
      | 2 => 0
      | _ => -fixOne
    (if n && !cos then -v else v, true)
  else
    let v := quadrant cos k.toNat (fixMul (fixPi / 2) r)
    (if n && !cos then -v else v, false)

/-- R106: sin or cos of 2πx for a finite x, rounded. -/
def turnRound (f : FFmt) (rm : RM) (cos : Bool) (n : Bool) (m : Nat) (e : Int) : FRes :=
  let v := turnValue cos n m e
  if v.2 then roundV f rm (.fin (v.1 < 0) v.1.natAbs (-(fixP : Int))) false else roundFix f rm v.1

/-- R106: sin 2πx or cos 2πx. -/
def fpTurn (f : FFmt) (rm : RM) (cos : Bool) (a : Nat) : FRes :=
  match f.unpack a with
  | .nan => ⟨f.nan, snanFlag f [a]⟩
  | .inf _ => ⟨f.nan, fNv⟩
  | .fin n m e =>
    if m = 0 then (if cos then roundV f rm (.fin false 1 0) false else .plain a)
    else turnRound f rm cos n m e

/-- R200: 2^x.  Beyond every exponent range the exponent is clamped, which rounds alike. -/
def fpExp2 (f : FFmt) (rm : RM) (a : Nat) : FRes :=
  match f.unpack a with
  | .nan => ⟨f.nan, snanFlag f [a]⟩
  | .inf n => if n then .plain 0 else .plain (f.infBits false)
  | .fin n m e =>
    if m = 0 then roundV f rm (.fin false 1 0) false
    else if 0 ≤ cmpV (.fin false m e) (.fin false 1 13) then
      roundV f rm (.fin false 1 (if n then -8192 else 8192)) false
    else
      let x := if n then -toFix m e else toFix m e
      let k := x / fixOne
      let r := x - k * fixOne
      if r = 0 then roundV f rm (.fin false 1 k) false
      else roundV f rm (.fin false (expSmall (fixMul r fixLn2)).toNat (k - fixP)) true

/-- R200: log2 x. -/
def fpLog2 (f : FFmt) (rm : RM) (a : Nat) : FRes :=
  match f.unpack a with
  | .nan => ⟨f.nan, snanFlag f [a]⟩
  | .inf n => if n then ⟨f.nan, fNv⟩ else .plain (f.infBits false)
  | .fin n m e =>
    if m = 0 then ⟨f.infBits true, fDz⟩
    else if n then ⟨f.nan, fNv⟩
    else
      let k := bitLen m - 1
      let w : Int := e + k
      if m = 2 ^ k then roundV f rm (.fin (w < 0) w.natAbs 0) false
      else
        let one : Int := (2 ^ k : Nat)
        let z := ((m : Int) - one) * fixOne / ((m : Int) + one)
        roundFix f rm (w * fixOne + 2 * atanhSmall z * fixOne / fixLn2)

/-- R200: tanh x. -/
def fpTanh (f : FFmt) (rm : RM) (a : Nat) : FRes :=
  match f.unpack a with
  | .nan => ⟨f.nan, snanFlag f [a]⟩
  | .inf n => roundV f rm (.fin n 1 0) false
  | .fin n m e =>
    if m = 0 then .plain a
    else
      let v := if 0 ≤ cmpV (.fin false m e) (.fin false 1 6) then fixOne - 1
        else
          let x := squareN 8 (expSmall (2 * toFix m e / 256))
          (x - fixOne) * fixOne / (x + fixOne)
      roundFix f rm (if n then -v else v)

/-- R200: the angle of the point (x, y), in radians. -/
def fpAtan2 (f : FFmt) (rm : RM) (ya xa : Nat) : FRes :=
  let y := f.unpack ya
  let x := f.unpack xa
  let neg := f.neg ya
  let angle (v : Int) : FRes := roundFix f rm (if neg then -v else v)
  let zero : FRes := .plain (f.signed neg 0)
  match y, x with
  | .nan, _ => ⟨f.nan, snanFlag f [ya, xa]⟩
  | _, .nan => ⟨f.nan, snanFlag f [ya, xa]⟩
  | .inf _, .inf k => angle (if k then 3 * fixPi / 4 else fixPi / 4)
  | .inf _, .fin _ _ _ => angle (fixPi / 2)
  | .fin _ _ _, .inf k => if k then angle fixPi else zero
  | .fin _ m e, .fin k m' e' =>
    if m = 0 then (if k then angle fixPi else zero)
    else if m' = 0 then angle (fixPi / 2)
    else
      let yx : Int := (m * 2 ^ (e - e' + fixP).toNat / m' : Nat)
      let xy : Int := (m' * 2 ^ (e' - e + fixP).toNat / m : Nat)
      let v := if cmpV (.fin false m e) (.fin false m' e') ≤ 0 then atanFix yx else fixPi / 2 - atanFix xy
      angle (if k then fixPi - v else v)

end Sys2Proof.Machine
end

