-- ==== Sys2Proof/Machine/VecInt.lean ====
section
/-! DEFINITION. The integer vector instructions (R189-R193). -/

namespace Sys2Proof.Machine

/-- An element-wise integer instruction from a function of the width and the two elements. -/
def intOp (vd va vb : BitVec 6) (k : BitVec 3) (f : Nat → Nat → Nat → Nat) : VOp :=
  binOp isInt vd va vb k fun _ b x y _ => .plain (f b x y)

/-- A vector instruction of no scalar operand. -/
def vexec0 (i : Instr) (op : VOp) (s : State) : Out := vexec i op 0 0 s

/-- R189: every type of R53 except x4, x8a and x8b. -/
def notBlock (t : Nat) : Bool := t < 0x10 || 0x13 ≤ t

def opVadd (vd va vb : BitVec 6) (k : BitVec 3) : VOp := intOp vd va vb k fun b x y => (x + y) % 2 ^ b
def opVsub (vd va vb : BitVec 6) (k : BitVec 3) : VOp := intOp vd va vb k fun b x y => (x + 2 ^ b - y) % 2 ^ b
def opVmin (vd va vb : BitVec 6) (k : BitVec 3) : VOp :=
  intOp vd va vb k fun b x y => if sx b x ≤ sx b y then x else y
def opVmax (vd va vb : BitVec 6) (k : BitVec 3) : VOp :=
  intOp vd va vb k fun b x y => if sx b x ≤ sx b y then y else x
def opVminn (vd va vb : BitVec 6) (k : BitVec 3) : VOp := intOp vd va vb k fun _ x y => min x y
def opVmaxn (vd va vb : BitVec 6) (k : BitVec 3) : VOp := intOp vd va vb k fun _ x y => max x y
def opVabs (vd va : BitVec 6) (k : BitVec 3) : VOp :=
  unOp isSigned vd va k fun _ b x => .plain (wrapN b (sx b x).natAbs)
def opVand (vd va vb : BitVec 6) (k : BitVec 3) : VOp := binOp notBlock vd va vb k fun _ _ x y _ => .plain (x &&& y)
def opVor (vd va vb : BitVec 6) (k : BitVec 3) : VOp := binOp notBlock vd va vb k fun _ _ x y _ => .plain (x ||| y)
def opVxor (vd va vb : BitVec 6) (k : BitVec 3) : VOp := binOp notBlock vd va vb k fun _ _ x y _ => .plain (x ^^^ y)
/-- R79: the amount is taken modulo the width. -/
def opVsll (vd va vb : BitVec 6) (k : BitVec 3) : VOp :=
  intOp vd va vb k fun b x y => x * 2 ^ (y % b) % 2 ^ b
def opVsrl (vd va vb : BitVec 6) (k : BitVec 3) : VOp := intOp vd va vb k fun b x y => x / 2 ^ (y % b)
def opVsra (vd va vb : BitVec 6) (k : BitVec 3) : VOp :=
  intOp vd va vb k fun b x y => wrapN b (sx b x / (2 ^ (y % b) : Nat))
def opVsadd (vd va vb : BitVec 6) (k : BitVec 3) : VOp :=
  intOp vd va vb k fun b x y => wrapN b (satS b (sx b x + sx b y))
def opVssub (vd va vb : BitVec 6) (k : BitVec 3) : VOp :=
  intOp vd va vb k fun b x y => wrapN b (satS b (sx b x - sx b y))
def opVsaddn (vd va vb : BitVec 6) (k : BitVec 3) : VOp :=
  intOp vd va vb k fun b x y => wrapN b (satU b (x + y))
def opVssubn (vd va vb : BitVec 6) (k : BitVec 3) : VOp :=
  intOp vd va vb k fun b x y => wrapN b (satU b ((x : Int) - y))
/-- R191: a double-width source shifted right with rounding and saturated to the narrow type. -/
def opVnclip (vd va vb : BitVec 6) (k : BitVec 3) : VOp where
  check := fun _ view l => vcheck view [grpReg l vd, wideReg l va, grpReg l vb]
    (isInt l.type && l.width != 64 && !(grpReg l vd).meets (wideReg l va))
  run := fun s e =>
    let b := e.len.width
    let sg := isSigned e.len.type
    elementWise vd b k (fun h i =>
      let x := getElem h va.toNat (2 * b) i
      let n := getElem h vb.toNat b i % (2 * b)
      let r := rshr (if sg then sx (2 * b) x else (x : Int)) n e.mode
      .plain (wrapN b (if sg then satS b r else satU b r))) s e
/-- R192: an element extended by its type. -/
def extElem (t b x : Nat) : Int := if isSigned t then sx b x else x
def opVwadd (vd va vb : BitVec 6) (k : BitVec 3) : VOp :=
  wideOp (fun t => isInt t && t % 4 != 3) vd va vb k fun e b x y _ =>
    .plain (wrapN (2 * b) (extElem e.len.type b x + extElem e.len.type b y))
def opVwmul (vd va vb : BitVec 6) (k : BitVec 3) : VOp :=
  wideOp (fun t => isInt t && t % 4 != 3) vd va vb k fun e b x y _ =>
    .plain (wrapN (2 * b) (extElem e.len.type b x * extElem e.len.type b y))
def opVmacc (vd va vb : BitVec 6) (k : BitVec 3) : VOp :=
  binOp isInt vd va vb k fun _ b x y d => .plain ((d + x * y) % 2 ^ b)
def opVmul (vd va vb : BitVec 6) (k : BitVec 3) : VOp := intOp vd va vb k fun b x y => x * y % 2 ^ b
def opVmulh (vd va vb : BitVec 6) (k : BitVec 3) : VOp :=
  intOp vd va vb k fun b x y => wrapN b (sx b x * sx b y / (2 ^ b : Nat))
def opVmulhn (vd va vb : BitVec 6) (k : BitVec 3) : VOp := intOp vd va vb k fun b x y => x * y / 2 ^ b

/-- R193: a division of R78 on elements. -/
def divOp (f : (b : Nat) → BitVec b → BitVec b → BitVec b) (vd va vb : BitVec 6) (k : BitVec 3) : VOp :=
  intOp vd va vb k fun b x y => (f b (BitVec.ofNat b x) (BitVec.ofNat b y)).toNat
def opVdiv (vd va vb : BitVec 6) (k : BitVec 3) : VOp := divOp divS vd va vb k
def opVdivn (vd va vb : BitVec 6) (k : BitVec 3) : VOp := divOp divU vd va vb k
def opVrem (vd va vb : BitVec 6) (k : BitVec 3) : VOp := divOp remS vd va vb k
def opVremn (vd va vb : BitVec 6) (k : BitVec 3) : VOp := divOp remU vd va vb k

def execVadd (vd va vb : BitVec 6) (k : BitVec 3) (s : State) : Out := vexec0 (.vadd vd va vb k) (opVadd vd va vb k) s
def execVsub (vd va vb : BitVec 6) (k : BitVec 3) (s : State) : Out := vexec0 (.vsub vd va vb k) (opVsub vd va vb k) s
def execVmin (vd va vb : BitVec 6) (k : BitVec 3) (s : State) : Out := vexec0 (.vmin vd va vb k) (opVmin vd va vb k) s
def execVmax (vd va vb : BitVec 6) (k : BitVec 3) (s : State) : Out := vexec0 (.vmax vd va vb k) (opVmax vd va vb k) s
def execVminn (vd va vb : BitVec 6) (k : BitVec 3) (s : State) : Out := vexec0 (.vminn vd va vb k) (opVminn vd va vb k) s
def execVmaxn (vd va vb : BitVec 6) (k : BitVec 3) (s : State) : Out := vexec0 (.vmaxn vd va vb k) (opVmaxn vd va vb k) s
def execVand (vd va vb : BitVec 6) (k : BitVec 3) (s : State) : Out := vexec0 (.vand vd va vb k) (opVand vd va vb k) s
def execVor (vd va vb : BitVec 6) (k : BitVec 3) (s : State) : Out := vexec0 (.vor vd va vb k) (opVor vd va vb k) s
def execVxor (vd va vb : BitVec 6) (k : BitVec 3) (s : State) : Out := vexec0 (.vxor vd va vb k) (opVxor vd va vb k) s
def execVsll (vd va vb : BitVec 6) (k : BitVec 3) (s : State) : Out := vexec0 (.vsll vd va vb k) (opVsll vd va vb k) s
def execVsrl (vd va vb : BitVec 6) (k : BitVec 3) (s : State) : Out := vexec0 (.vsrl vd va vb k) (opVsrl vd va vb k) s
def execVsra (vd va vb : BitVec 6) (k : BitVec 3) (s : State) : Out := vexec0 (.vsra vd va vb k) (opVsra vd va vb k) s
def execVsadd (vd va vb : BitVec 6) (k : BitVec 3) (s : State) : Out := vexec0 (.vsadd vd va vb k) (opVsadd vd va vb k) s
def execVssub (vd va vb : BitVec 6) (k : BitVec 3) (s : State) : Out := vexec0 (.vssub vd va vb k) (opVssub vd va vb k) s
def execVsaddn (vd va vb : BitVec 6) (k : BitVec 3) (s : State) : Out := vexec0 (.vsaddn vd va vb k) (opVsaddn vd va vb k) s
def execVssubn (vd va vb : BitVec 6) (k : BitVec 3) (s : State) : Out := vexec0 (.vssubn vd va vb k) (opVssubn vd va vb k) s
def execVnclip (vd va vb : BitVec 6) (k : BitVec 3) (s : State) : Out := vexec0 (.vnclip vd va vb k) (opVnclip vd va vb k) s
def execVwadd (vd va vb : BitVec 6) (k : BitVec 3) (s : State) : Out := vexec0 (.vwadd vd va vb k) (opVwadd vd va vb k) s
def execVwmul (vd va vb : BitVec 6) (k : BitVec 3) (s : State) : Out := vexec0 (.vwmul vd va vb k) (opVwmul vd va vb k) s
def execVmacc (vd va vb : BitVec 6) (k : BitVec 3) (s : State) : Out := vexec0 (.vmacc vd va vb k) (opVmacc vd va vb k) s
def execVmul (vd va vb : BitVec 6) (k : BitVec 3) (s : State) : Out := vexec0 (.vmul vd va vb k) (opVmul vd va vb k) s
def execVmulh (vd va vb : BitVec 6) (k : BitVec 3) (s : State) : Out := vexec0 (.vmulh vd va vb k) (opVmulh vd va vb k) s
def execVmulhn (vd va vb : BitVec 6) (k : BitVec 3) (s : State) : Out := vexec0 (.vmulhn vd va vb k) (opVmulhn vd va vb k) s
def execVdiv (vd va vb : BitVec 6) (k : BitVec 3) (s : State) : Out := vexec0 (.vdiv vd va vb k) (opVdiv vd va vb k) s
def execVdivn (vd va vb : BitVec 6) (k : BitVec 3) (s : State) : Out := vexec0 (.vdivn vd va vb k) (opVdivn vd va vb k) s
def execVrem (vd va vb : BitVec 6) (k : BitVec 3) (s : State) : Out := vexec0 (.vrem vd va vb k) (opVrem vd va vb k) s
def execVremn (vd va vb : BitVec 6) (k : BitVec 3) (s : State) : Out := vexec0 (.vremn vd va vb k) (opVremn vd va vb k) s
def execVabs (vd va : BitVec 6) (k : BitVec 3) (s : State) : Out := vexec0 (.vabs vd va k) (opVabs vd va k) s

end Sys2Proof.Machine
end

