-- ==== Sys2Proof/Machine/VecFp.lean ====
section
/-! DEFINITION. The floating-point vector instructions, conversions and special functions
(R194-R200). -/

namespace Sys2Proof.Machine

/-- R194: an element-wise floating-point instruction of two sources. -/
def fpBin (vd va vb : BitVec 6) (k : BitVec 3) (f : FFmt → RM → Nat → Nat → FRes) : VOp :=
  binOp isFloat vd va vb k fun e _ x y _ => f (fmtOf e.len.type) e.mode x y

/-- R194: an element-wise floating-point instruction of one source. -/
def fpUn (vd va : BitVec 6) (k : BitVec 3) (f : FFmt → RM → Nat → FRes) : VOp :=
  unOp isFloat vd va k fun e _ x => f (fmtOf e.len.type) e.mode x

def opVfadd (vd va vb : BitVec 6) (k : BitVec 3) : VOp := fpBin vd va vb k fpAdd
def opVfsub (vd va vb : BitVec 6) (k : BitVec 3) : VOp := fpBin vd va vb k fpSub
def opVfmul (vd va vb : BitVec 6) (k : BitVec 3) : VOp := fpBin vd va vb k fpMul
def opVfdiv (vd va vb : BitVec 6) (k : BitVec 3) : VOp := fpBin vd va vb k fpDiv
def opVfsqrt (vd va : BitVec 6) (k : BitVec 3) : VOp := fpUn vd va k fpSqrt
def opVfmin (vd va vb : BitVec 6) (k : BitVec 3) : VOp := fpBin vd va vb k fun f _ => fpMinMax f false
def opVfmax (vd va vb : BitVec 6) (k : BitVec 3) : VOp := fpBin vd va vb k fun f _ => fpMinMax f true
/-- R82, R194: bits move unchanged but for the sign. -/
def opVfsgnj (vd va vb : BitVec 6) (k : BitVec 3) : VOp :=
  fpBin vd va vb k fun f _ a b => .plain (f.signed (f.neg b) (a % 2 ^ (f.ew + f.mw)))
def opVfabs (vd va : BitVec 6) (k : BitVec 3) : VOp :=
  fpUn vd va k fun f _ a => .plain (a % 2 ^ (f.ew + f.mw))
def opVfneg (vd va : BitVec 6) (k : BitVec 3) : VOp := fpUn vd va k fun f _ a => .plain (f.flip a)
def opVfclass (vd va : BitVec 6) (k : BitVec 3) : VOp := fpUn vd va k fun f _ a => .plain (fpClass f a)
def opVfrec (vd va : BitVec 6) (k : BitVec 3) : VOp := fpUn vd va k fpRec
def opVfrsqrt (vd va : BitVec 6) (k : BitVec 3) : VOp := fpUn vd va k fpRsqrt

/-- R196: the fused forms; `np` and `nc` negate the product and the addend. -/
def fmaOp (np nc : Bool) (vd va vb : BitVec 6) (k : BitVec 3) : VOp :=
  binOp isFloat vd va vb k fun e _ x y d => fpFma (fmtOf e.len.type) e.mode np nc x y d
def opVfmadd (vd va vb : BitVec 6) (k : BitVec 3) : VOp := fmaOp false false vd va vb k
def opVfmsub (vd va vb : BitVec 6) (k : BitVec 3) : VOp := fmaOp false true vd va vb k
def opVfnmadd (vd va vb : BitVec 6) (k : BitVec 3) : VOp := fmaOp true true vd va vb k
def opVfnmsub (vd va vb : BitVec 6) (k : BitVec 3) : VOp := fmaOp true false vd va vb k

/-- R197: the destination format of a widening form. -/
def wideFmt (t : Nat) : FFmt := if t = 0x09 then f64 else f32

/-- R197: the types the widening forms accept. -/
def canWiden (t : Nat) : Bool := 0x09 ≤ t && t ≤ 0x0B

/-- R197: the product of two elements, with the addend if there is one, in the destination type.  A product
of two bf16 elements that f32 does not hold is rounded and flagged by R95 (log entry 43: DEDUCED). -/
def fpWide (src dst : FFmt) (rm : RM) (a b : Nat) (d : Option Nat) : FRes :=
  let p := mulV (src.unpack a) (src.unpack b)
  let t := match d with
    | none => (p.1, false)
    | some x => sumV rm.isRdn [p.1, dst.unpack x]
  let r := roundV dst rm t.1 false
  ⟨r.bits, r.flags ||| flagIf (p.2 || t.2) fNv ||| snanFlag src [a, b] ||| snanFlag dst d.toList⟩

def opVfwmul (vd va vb : BitVec 6) (k : BitVec 3) : VOp :=
  wideOp canWiden vd va vb k fun e _ x y _ =>
    fpWide (fmtOf e.len.type) (wideFmt e.len.type) e.mode x y none
def opVfwmacc (vd va vb : BitVec 6) (k : BitVec 3) : VOp :=
  wideOp canWiden vd va vb k fun e _ x y d =>
    fpWide (fmtOf e.len.type) (wideFmt e.len.type) e.mode x y (some d)

/-! ### Conversions (R198) -/

/-- The floating-point types `vfcvt` knows. -/
def cvtFloat (t : Nat) : Bool := 0x08 ≤ t && t ≤ 0x0E

/-- R198: the accepted pairs. -/
def cvtPair (src dst : Nat) : Bool :=
  (cvtFloat src && (cvtFloat dst || isInt dst)) || (isInt src && cvtFloat dst) ||
    (isComplex src && isComplex dst)

/-- R88: the format of a component of a floating-point complex type. -/
def compFmt (t : Nat) : FFmt := if t = 0x14 then f16 else if t = 0x15 then bf16 else f32

/-- A floating-point value converted to its own type: the operand, as R198 has it, but for what R96 says of
every f8a NaN; R96's rows for an f8b infinity and an f8b NaN do not change it (log entry 43: DEDUCED). -/
def cvtSame (f : FFmt) (a : Nat) : FRes :=
  if f.isSnan a then ⟨f.nan, fNv⟩ else if f = f8a && f.isNan a then .plain f.nan else .plain a

/-- A floating-point value converted between floating-point types. -/
def cvtFp (src dst : FFmt) (rm : RM) (sat : Bool) (a : Nat) : FRes :=
  if src = dst then cvtSame src a else fpConv src dst rm sat a

/-- R198: one component of a complex element converted. -/
def cvtComp (src dst : Nat) (rm : RM) (sat : Bool) (a : Nat) : FRes :=
  if src = 0x13 then
    if dst = 0x13 then .plain a else fpOfInt (compFmt dst) rm sat (-15) (sx 16 a)
  else if dst = 0x13 then fpToInt (compFmt src) rm 15 16 true a
  else cvtFp (compFmt src) (compFmt dst) rm sat a

/-- Two components side by side, real below (R88). -/
def pairRes (w : Nat) (re im : FRes) : FRes := ⟨im.bits * 2 ^ w + re.bits, re.flags ||| im.flags⟩

/-- R198: one element converted. -/
def cvtElem (src dst : Nat) (rm : RM) (sat : Bool) (a : Nat) : FRes :=
  if isComplex src then
    let w := typeWidth src / 2
    pairRes (typeWidth dst / 2) (cvtComp src dst rm sat (a % 2 ^ w)) (cvtComp src dst rm sat (a / 2 ^ w))
  else if isInt src then fpOfInt (fmtOf dst) rm sat 0 (extElem src (typeWidth src) a)
  else if isInt dst then fpToInt (fmtOf src) rm 0 (typeWidth dst) (isSigned dst) a
  else cvtFp (fmtOf src) (fmtOf dst) rm sat a

/-- R186: the registers of a conversion's destination. -/
def cvtReg (l : LenRegs) (vd : BitVec 6) (dt : BitVec 5) : VRegs :=
  ⟨vd.toNat, max 1 (l.grp * typeWidth dt.toNat / l.width)⟩

/-- R198: the conversions; `rtz` fixes the rounding mode. -/
def cvtOp (rtz : Bool) (vd va : BitVec 6) (dt : BitVec 5) (k : BitVec 3) : VOp where
  check := fun _ view l => vcheck view [cvtReg l vd dt, grpReg l va]
    (cvtPair l.type dt.toNat &&
      (typeWidth dt.toNat == l.width || !(cvtReg l vd dt).meets (grpReg l va)))
  run := fun s e =>
    elementWise vd (typeWidth dt.toNat) k (fun h i =>
      cvtElem e.len.type dt.toNat (if rtz then .rtz else e.mode) e.satfp
        (getElem h va.toNat e.len.width i)) s e
def opVfcvt (vd va : BitVec 6) (dt : BitVec 5) (k : BitVec 3) : VOp := cvtOp false vd va dt k
def opVfcvtRtz (vd va : BitVec 6) (dt : BitVec 5) (k : BitVec 3) : VOp := cvtOp true vd va dt k

/-! ### Special functions (R199) -/

/-- R199: f32, f16 and bf16. -/
def specialType (t : Nat) : Bool := 0x09 ≤ t && t ≤ 0x0B

/-- A special function of one operand. -/
def spUn (vd va : BitVec 6) (k : BitVec 3) (f : FFmt → RM → Nat → FRes) : VOp :=
  unOp specialType vd va k fun e _ x => f (fmtOf e.len.type) e.mode x
def opVfsin (vd va : BitVec 6) (k : BitVec 3) : VOp := spUn vd va k fun f rm => fpSinCos f rm false
def opVfcos (vd va : BitVec 6) (k : BitVec 3) : VOp := spUn vd va k fun f rm => fpSinCos f rm true
def opVfsint (vd va : BitVec 6) (k : BitVec 3) : VOp := spUn vd va k fun f rm => fpTurn f rm false
def opVfcost (vd va : BitVec 6) (k : BitVec 3) : VOp := spUn vd va k fun f rm => fpTurn f rm true
def opVfexp2 (vd va : BitVec 6) (k : BitVec 3) : VOp := spUn vd va k fpExp2
def opVflog2 (vd va : BitVec 6) (k : BitVec 3) : VOp := spUn vd va k fpLog2
def opVftanh (vd va : BitVec 6) (k : BitVec 3) : VOp := spUn vd va k fpTanh
def opVfatan2 (vd va vb : BitVec 6) (k : BitVec 3) : VOp :=
  binOp specialType vd va vb k fun e _ y x _ => fpAtan2 (fmtOf e.len.type) e.mode y x

def execVfadd (vd va vb : BitVec 6) (k : BitVec 3) (s : State) : Out := vexec0 (.vfadd vd va vb k) (opVfadd vd va vb k) s
def execVfsub (vd va vb : BitVec 6) (k : BitVec 3) (s : State) : Out := vexec0 (.vfsub vd va vb k) (opVfsub vd va vb k) s
def execVfmul (vd va vb : BitVec 6) (k : BitVec 3) (s : State) : Out := vexec0 (.vfmul vd va vb k) (opVfmul vd va vb k) s
def execVfdiv (vd va vb : BitVec 6) (k : BitVec 3) (s : State) : Out := vexec0 (.vfdiv vd va vb k) (opVfdiv vd va vb k) s
def execVfmin (vd va vb : BitVec 6) (k : BitVec 3) (s : State) : Out := vexec0 (.vfmin vd va vb k) (opVfmin vd va vb k) s
def execVfmax (vd va vb : BitVec 6) (k : BitVec 3) (s : State) : Out := vexec0 (.vfmax vd va vb k) (opVfmax vd va vb k) s
def execVfsgnj (vd va vb : BitVec 6) (k : BitVec 3) (s : State) : Out := vexec0 (.vfsgnj vd va vb k) (opVfsgnj vd va vb k) s
def execVfmadd (vd va vb : BitVec 6) (k : BitVec 3) (s : State) : Out := vexec0 (.vfmadd vd va vb k) (opVfmadd vd va vb k) s
def execVfmsub (vd va vb : BitVec 6) (k : BitVec 3) (s : State) : Out := vexec0 (.vfmsub vd va vb k) (opVfmsub vd va vb k) s
def execVfnmadd (vd va vb : BitVec 6) (k : BitVec 3) (s : State) : Out := vexec0 (.vfnmadd vd va vb k) (opVfnmadd vd va vb k) s
def execVfnmsub (vd va vb : BitVec 6) (k : BitVec 3) (s : State) : Out := vexec0 (.vfnmsub vd va vb k) (opVfnmsub vd va vb k) s
def execVfwmul (vd va vb : BitVec 6) (k : BitVec 3) (s : State) : Out := vexec0 (.vfwmul vd va vb k) (opVfwmul vd va vb k) s
def execVfwmacc (vd va vb : BitVec 6) (k : BitVec 3) (s : State) : Out := vexec0 (.vfwmacc vd va vb k) (opVfwmacc vd va vb k) s
def execVfatan2 (vd va vb : BitVec 6) (k : BitVec 3) (s : State) : Out := vexec0 (.vfatan2 vd va vb k) (opVfatan2 vd va vb k) s
def execVfsqrt (vd va : BitVec 6) (k : BitVec 3) (s : State) : Out := vexec0 (.vfsqrt vd va k) (opVfsqrt vd va k) s
def execVfabs (vd va : BitVec 6) (k : BitVec 3) (s : State) : Out := vexec0 (.vfabs vd va k) (opVfabs vd va k) s
def execVfneg (vd va : BitVec 6) (k : BitVec 3) (s : State) : Out := vexec0 (.vfneg vd va k) (opVfneg vd va k) s
def execVfclass (vd va : BitVec 6) (k : BitVec 3) (s : State) : Out := vexec0 (.vfclass vd va k) (opVfclass vd va k) s
def execVfrec (vd va : BitVec 6) (k : BitVec 3) (s : State) : Out := vexec0 (.vfrec vd va k) (opVfrec vd va k) s
def execVfrsqrt (vd va : BitVec 6) (k : BitVec 3) (s : State) : Out := vexec0 (.vfrsqrt vd va k) (opVfrsqrt vd va k) s
def execVfsin (vd va : BitVec 6) (k : BitVec 3) (s : State) : Out := vexec0 (.vfsin vd va k) (opVfsin vd va k) s
def execVfcos (vd va : BitVec 6) (k : BitVec 3) (s : State) : Out := vexec0 (.vfcos vd va k) (opVfcos vd va k) s
def execVfsint (vd va : BitVec 6) (k : BitVec 3) (s : State) : Out := vexec0 (.vfsint vd va k) (opVfsint vd va k) s
def execVfcost (vd va : BitVec 6) (k : BitVec 3) (s : State) : Out := vexec0 (.vfcost vd va k) (opVfcost vd va k) s
def execVfexp2 (vd va : BitVec 6) (k : BitVec 3) (s : State) : Out := vexec0 (.vfexp2 vd va k) (opVfexp2 vd va k) s
def execVflog2 (vd va : BitVec 6) (k : BitVec 3) (s : State) : Out := vexec0 (.vflog2 vd va k) (opVflog2 vd va k) s
def execVftanh (vd va : BitVec 6) (k : BitVec 3) (s : State) : Out := vexec0 (.vftanh vd va k) (opVftanh vd va k) s
def execVfcvt (vd va : BitVec 6) (dt : BitVec 5) (k : BitVec 3) (s : State) : Out :=
  vexec0 (.vfcvt vd va dt k) (opVfcvt vd va dt k) s
def execVfcvtRtz (vd va : BitVec 6) (dt : BitVec 5) (k : BitVec 3) (s : State) : Out :=
  vexec0 (.vfcvtRtz vd va dt k) (opVfcvtRtz vd va dt k) s

end Sys2Proof.Machine
end

