-- ==== Sys2Proof/Machine/VecMask.lean ====
section
/-! DEFINITION. Compares into masks and the mask instructions (R169-R171). -/

namespace Sys2Proof.Machine

/-! ### Compares (R169) -/

/-- The integer relations eq, ne, lt, ge, le and gt of two values. -/
def intRel (cond : Nat) (x y : Int) : Bool :=
  match cond with
  | 0 => x == y
  | 1 => x != y
  | 2 => x < y
  | 3 => y ≤ x
  | 4 => x ≤ y
  | _ => y < x

/-- A compare from a relation of two elements: an inactive bit from the starting element on is
cleared. -/
def cmpOp (acc : Nat → Bool) (kd : BitVec 3) (va vb : BitVec 6) (k : BitVec 3)
    (rel : Nat → Nat → Nat → Nat → Bool × Flags) : VOp where
  check := fun _ view l => vcheck view [grpReg l va, grpReg l vb] (acc l.type)
  run := fun s e =>
    let b := e.len.width
    let h := s.hart
    let r := (span e.len.e0 e.len.vl).map (fun i =>
      (i, if sel h k i then rel e.len.type b (getElem h va.toNat b i) (getElem h vb.toNat b i)
          else (false, noFlags)))
    .done (updH s fun h => putMask h kd.toNat (r.map (fun p => (p.1, p.2.1))))
      (r.foldl (fun f p => f ||| p.2.2) 0)

def opVcmp (cond kd : BitVec 3) (va vb : BitVec 6) (k : BitVec 3) : VOp :=
  cmpOp isInt kd va vb k fun _ b x y => (intRel cond.toNat (sx b x) (sx b y), noFlags)
def opVcmpn (cond kd : BitVec 3) (va vb : BitVec 6) (k : BitVec 3) : VOp :=
  cmpOp isInt kd va vb k fun _ _ x y => (intRel cond.toNat x y, noFlags)
def opVfcmp (cond kd : BitVec 3) (va vb : BitVec 6) (k : BitVec 3) : VOp :=
  cmpOp isFloat kd va vb k fun t _ x y => fpCmp (fmtOf t) cond.toNat x y

def execVcmp (cond kd : BitVec 3) (va vb : BitVec 6) (k : BitVec 3) (s : State) : Out :=
  vexec0 (.vcmp cond kd va vb k) (opVcmp cond kd va vb k) s
def execVcmpn (cond kd : BitVec 3) (va vb : BitVec 6) (k : BitVec 3) (s : State) : Out :=
  vexec0 (.vcmpn cond kd va vb k) (opVcmpn cond kd va vb k) s
def execVfcmp (cond kd : BitVec 3) (va vb : BitVec 6) (k : BitVec 3) (s : State) : Out :=
  vexec0 (.vfcmp cond kd va vb k) (opVfcmp cond kd va vb k) s

/-! ### Mask logic (R170) -/

/-- An instruction of no vector register that does `f`. -/
def maskOp (f : State → QEntry → State) : VOp where
  check := fun _ _ _ => none
  run := fun s e => .done (f s e) noFlags

/-- Bits 0 to vl − 1 of a mask register from those of two others. -/
def logicOp (kd ka kb : BitVec 3) (f : Bool → Bool → Bool) : VOp :=
  maskOp fun s e => updH s fun h =>
    putMask h kd.toNat ((List.range e.len.vl).map (fun i =>
      (i, f ((getMask h ka.toNat).getLsbD i) ((getMask h kb.toNat).getLsbD i))))

def opKand (kd ka kb : BitVec 3) : VOp := logicOp kd ka kb fun x y => x && y
def opKor (kd ka kb : BitVec 3) : VOp := logicOp kd ka kb fun x y => x || y
def opKxor (kd ka kb : BitVec 3) : VOp := logicOp kd ka kb fun x y => x != y
def opKandn (kd ka kb : BitVec 3) : VOp := logicOp kd ka kb fun x y => x && !y
def opKnot (kd ka : BitVec 3) : VOp := logicOp kd ka ka fun x _ => !x
def opKmov (kd ka : BitVec 3) : VOp := logicOp kd ka ka fun x _ => x

def execKand (kd ka kb : BitVec 3) (s : State) : Out := vexec0 (.kand kd ka kb) (opKand kd ka kb) s
def execKor (kd ka kb : BitVec 3) (s : State) : Out := vexec0 (.kor kd ka kb) (opKor kd ka kb) s
def execKxor (kd ka kb : BitVec 3) (s : State) : Out := vexec0 (.kxor kd ka kb) (opKxor kd ka kb) s
def execKandn (kd ka kb : BitVec 3) (s : State) : Out := vexec0 (.kandn kd ka kb) (opKandn kd ka kb) s
def execKnot (kd ka : BitVec 3) (s : State) : Out := vexec0 (.knot kd ka) (opKnot kd ka) s
def execKmov (kd ka : BitVec 3) (s : State) : Out := vexec0 (.kmov kd ka) (opKmov kd ka) s

/-! ### Masks into scalar registers (R171) -/

/-- The indices below vl whose bit of a mask register is 1. -/
def maskOnes (h : Hart) (k : BitVec 3) (vl : Nat) : List Nat :=
  (List.range vl).filter (fun i => (getMask h k.toNat).getLsbD i)

def opKpopc (sd : BitVec 5) (ka : BitVec 3) : VOp :=
  maskOp fun s e => wrS s sd (BitVec.ofNat 64 (maskOnes s.hart ka e.len.vl).length)
def opKfirst (sd : BitVec 5) (ka : BitVec 3) : VOp :=
  maskOp fun s e => wrS s sd (match (maskOnes s.hart ka e.len.vl).head? with
    | some i => BitVec.ofNat 64 i
    | none => BitVec.allOnes 64)

def execKpopc (sd : BitVec 5) (ka : BitVec 3) (s : State) : Out := vexec0 (.kpopc sd ka) (opKpopc sd ka) s
def execKfirst (sd : BitVec 5) (ka : BitVec 3) (s : State) : Out := vexec0 (.kfirst sd ka) (opKfirst sd ka) s

end Sys2Proof.Machine
end

