-- ==== Sys2Proof/Machine/VecPermute.lean ====
section
/-! DEFINITION. Permutes and vector-scalar moves (R172-R183). -/

namespace Sys2Proof.Machine

/-- Bits moved into elements of a destination, with no flag. -/
def moveElems (s : State) (vd : BitVec 6) (b : Nat) (l : List (Nat × Nat)) : VRes :=
  .done (updH s fun h => putElems h vd.toNat b l) noFlags

/-- R172: a permute: its destination elements from the hart as it was. -/
def permOp (acc : Nat → Bool) (regs : LenRegs → List VRegs) (vd : BitVec 6)
    (f : Hart → QEntry → Nat → List (Nat × Nat)) : VOp where
  check := fun _ view l => vcheck view (grpReg l vd :: regs l) (acc l.type)
  run := fun s e => moveElems s vd e.len.width (f s.hart e e.len.width)

/-- R157: a whole permute that computes each active element. -/
def wholePerm (regs : LenRegs → List VRegs) (vd : BitVec 6) (k : BitVec 3)
    (f : Hart → QEntry → Nat → Nat → Option Nat) : VOp :=
  permOp (fun _ => true) regs vd fun h e b =>
    (activeAll h e.len k).filterMap (fun i => (f h e b i).map (fun x => (i, x)))

/-- An element-wise permute. -/
def elemPerm (acc : Nat → Bool) (regs : LenRegs → List VRegs) (vd : BitVec 6) (k : BitVec 3)
    (f : Hart → QEntry → Nat → Nat → Nat) : VOp :=
  permOp acc regs vd fun h e b => (activeFrom h e.len k).map (fun i => (i, f h e b i))

/-- R174 -/
def opVmv (vd va : BitVec 6) (k : BitVec 3) : VOp :=
  elemPerm (fun _ => true) (fun l => [grpReg l va]) vd k fun h _ b i => getElem h va.toNat b i
/-- R174: no element from the starting one on is inactive. -/
def opVmerge (vd va vb : BitVec 6) (k : BitVec 3) : VOp :=
  elemPerm (fun _ => true) (fun l => [grpReg l va, grpReg l vb]) vd 0 fun h _ b i =>
    if sel h k i then getElem h va.toNat b i else getElem h vb.toNat b i
/-- R175 -/
def opVslideup (vd va : BitVec 6) (_sb : BitVec 5) (k : BitVec 3) : VOp :=
  wholePerm (fun l => [grpReg l va]) vd k fun h e b i =>
    if e.sb.toNat ≤ i then some (getElem h va.toNat b (i - e.sb.toNat)) else none
def opVslidedn (vd va : BitVec 6) (_sb : BitVec 5) (k : BitVec 3) : VOp :=
  wholePerm (fun l => [grpReg l va]) vd k fun h e b i =>
    some (if i + e.sb.toNat < e.len.vl then getElem h va.toNat b (i + e.sb.toNat) else 0)
def opVslide1up (vd va : BitVec 6) (_sb : BitVec 5) (k : BitVec 3) : VOp :=
  wholePerm (fun l => [grpReg l va]) vd k fun h e b i =>
    some (if i = 0 then e.sb.toNat % 2 ^ b else getElem h va.toNat b (i - 1))
def opVslide1dn (vd va : BitVec 6) (_sb : BitVec 5) (k : BitVec 3) : VOp :=
  wholePerm (fun l => [grpReg l va]) vd k fun h e b i =>
    some (if i + 1 = e.len.vl then e.sb.toNat % 2 ^ b else getElem h va.toNat b (i + 1))
/-- R176 -/
def opVgather (vd va vb : BitVec 6) (k : BitVec 3) : VOp :=
  wholePerm (fun l => [grpReg l va, grpReg l vb]) vd k fun h e b i =>
    let j := getElem h vb.toNat b i
    some (if j < e.len.vl then getElem h va.toNat b j else 0)
/-- R177: the selected elements packed together. -/
def opVcompress (vd va : BitVec 6) (k : BitVec 3) : VOp :=
  permOp (fun _ => true) (fun l => [grpReg l va]) vd fun h e b =>
    (activeAll h e.len k).zipIdx.map (fun p => (p.2, getElem h va.toNat b p.1))
/-- R177: packed elements spread to the selected places. -/
def opVexpand (vd va : BitVec 6) (k : BitVec 3) : VOp :=
  permOp (fun _ => true) (fun l => [grpReg l va]) vd fun h e b =>
    (activeAll h e.len k).zipIdx.map (fun p => (p.1, getElem h va.toNat b p.2))
/-- R178 -/
def opVid (vd : BitVec 6) (k : BitVec 3) : VOp :=
  elemPerm isInt (fun _ => []) vd k fun _ _ b i => i % 2 ^ b
/-- R178: how many bits of the mask register below each place are 1. -/
def opViota (vd : BitVec 6) (ka k : BitVec 3) : VOp :=
  permOp isInt (fun _ => []) vd fun h e b =>
    (activeAll h e.len k).map (fun i => (i, (maskOnes h ka i).length % 2 ^ b))
/-- R179 -/
def opVzip (vd va vb : BitVec 6) : VOp :=
  wholePerm (fun l => [grpReg l va, grpReg l vb]) vd 0 fun h _ b i =>
    some (getElem h (if i % 2 = 0 then va else vb).toNat b (i / 2))
def opVunzip (vd va : BitVec 6) : VOp :=
  wholePerm (fun l => [grpReg l va]) vd 0 fun h e b i =>
    let n := (e.len.vl + 1) / 2
    some (getElem h va.toNat b (if i < n then 2 * i else 2 * (i - n) + 1))
/-- R179: the tile view transposed. -/
def opVtrn (vd va : BitVec 6) : VOp :=
  wholePerm (fun l => [grpReg l va]) vd 0 fun h e b i =>
    some (getElem h va.toNat b (i % e.len.rowc * e.len.colc + i / e.len.rowc))
/-- R181 -/
def opVbcast (vd : BitVec 6) (_sb : BitVec 5) (k : BitVec 3) : VOp :=
  elemPerm (fun _ => true) (fun _ => []) vd k fun _ e b _ => e.sb.toNat % 2 ^ b

/-- R182: an element as a scalar register takes it. -/
def elemValue (t b x : Nat) : Dword := if isSigned t then BitVec.ofInt 64 (sx b x) else BitVec.ofNat 64 x
def opVmvs (sd : BitVec 5) (va : BitVec 6) (_sb : BitVec 5) : VOp where
  check := fun _ view l => vcheck view [grpReg l va] true
  run := fun s e =>
    let b := e.len.width
    .done (wrS s sd (if e.sb.toNat < e.len.vl then
      elemValue e.len.type b (getElem s.hart va.toNat b e.sb.toNat) else 0)) noFlags
/-- R183 -/
def opVins (vd : BitVec 6) (_sa _sb : BitVec 5) : VOp :=
  permOp (fun _ => true) (fun _ => []) vd fun _ e b =>
    if e.sa.toNat < e.len.vl then [(e.sa.toNat, e.sb.toNat % 2 ^ b)] else []

def execVmv (vd va : BitVec 6) (k : BitVec 3) (s : State) : Out := vexec0 (.vmv vd va k) (opVmv vd va k) s
def execVmerge (vd va vb : BitVec 6) (k : BitVec 3) (s : State) : Out :=
  vexec0 (.vmerge vd va vb k) (opVmerge vd va vb k) s
def execVslideup (vd va : BitVec 6) (sb : BitVec 5) (k : BitVec 3) (s : State) : Out :=
  vexec (.vslideup vd va sb k) (opVslideup vd va sb k) 0 (rdS s sb) s
def execVslidedn (vd va : BitVec 6) (sb : BitVec 5) (k : BitVec 3) (s : State) : Out :=
  vexec (.vslidedn vd va sb k) (opVslidedn vd va sb k) 0 (rdS s sb) s
def execVslide1up (vd va : BitVec 6) (sb : BitVec 5) (k : BitVec 3) (s : State) : Out :=
  vexec (.vslide1up vd va sb k) (opVslide1up vd va sb k) 0 (rdS s sb) s
def execVslide1dn (vd va : BitVec 6) (sb : BitVec 5) (k : BitVec 3) (s : State) : Out :=
  vexec (.vslide1dn vd va sb k) (opVslide1dn vd va sb k) 0 (rdS s sb) s
def execVgather (vd va vb : BitVec 6) (k : BitVec 3) (s : State) : Out :=
  vexec0 (.vgather vd va vb k) (opVgather vd va vb k) s
def execVcompress (vd va : BitVec 6) (k : BitVec 3) (s : State) : Out :=
  vexec0 (.vcompress vd va k) (opVcompress vd va k) s
def execVexpand (vd va : BitVec 6) (k : BitVec 3) (s : State) : Out :=
  vexec0 (.vexpand vd va k) (opVexpand vd va k) s
def execVid (vd : BitVec 6) (k : BitVec 3) (s : State) : Out := vexec0 (.vid vd k) (opVid vd k) s
def execViota (vd : BitVec 6) (ka k : BitVec 3) (s : State) : Out :=
  vexec0 (.viota vd ka k) (opViota vd ka k) s
def execVzip (vd va vb : BitVec 6) (s : State) : Out := vexec0 (.vzip vd va vb) (opVzip vd va vb) s
def execVunzip (vd va : BitVec 6) (s : State) : Out := vexec0 (.vunzip vd va) (opVunzip vd va) s
def execVtrn (vd va : BitVec 6) (s : State) : Out := vexec0 (.vtrn vd va) (opVtrn vd va) s
def execVbcast (vd : BitVec 6) (sb : BitVec 5) (k : BitVec 3) (s : State) : Out :=
  vexec (.vbcast vd sb k) (opVbcast vd sb k) 0 (rdS s sb) s
def execVmvs (sd : BitVec 5) (va : BitVec 6) (sb : BitVec 5) (s : State) : Out :=
  vexec (.vmvs sd va sb) (opVmvs sd va sb) 0 (rdS s sb) s
def execVins (vd : BitVec 6) (sa sb : BitVec 5) (s : State) : Out :=
  vexec (.vins vd sa sb) (opVins vd sa sb) (rdS s sa) (rdS s sb) s

end Sys2Proof.Machine
end

