-- ==== Sys2Proof/Machine/VecReduce.lean ====
section
/-! DEFINITION. Reductions (R102, R103, R212, R213). -/

namespace Sys2Proof.Machine

/-- R102: two leaves combined; an empty one passes the other on, with no flag. -/
def combLeaf (c : Nat → Nat → FRes) (a b : Option Nat) : Option Nat × Flags :=
  match a, b with
  | some x, some y => (some (c x y).bits, (c x y).flags)
  | none, y => (y, noFlags)
  | x, none => (x, noFlags)

/-- R102: one level of the tree: neighbours combined. -/
def treeLevel (c : Nat → Nat → FRes) : List (Option Nat) → List (Option Nat) × Flags
  | a :: b :: t =>
    let r := combLeaf c a b
    let q := treeLevel c t
    (r.1 :: q.1, r.2 ||| q.2)
  | l => (l, noFlags)

/-- R102: the levels of the tree down to one leaf. -/
def treeGo (c : Nat → Nat → FRes) : Nat → List (Option Nat) × Flags → Option Nat × Flags
  | 0, l => (l.1.head?.join, l.2)
  | n + 1, l =>
    if l.1.length ≤ 1 then (l.1.head?.join, l.2)
    else
      let r := treeLevel c l.1
      treeGo c n (r.1, l.2 ||| r.2)

/-- R102: the elements combined in the fixed tree, then with the initial value. -/
def treeReduce (c : Nat → Nat → FRes) (init : Nat) (leaves : List (Option Nat)) : FRes :=
  let r := treeGo c leaves.length (leaves, noFlags)
  let q := combLeaf c (some init) r.1
  ⟨q.1.getD init, r.2 ||| q.2⟩

/-- R212: a reduction: `f` gives the value for `sd` and the flags from the initial value and the
elements, an inactive one being none. -/
def redOp (acc : Nat → Bool) (sd : BitVec 5) (va : BitVec 6) (k : BitVec 3)
    (f : QEntry → Nat → List (Option Nat) → Dword × Flags) : VOp where
  check := fun _ view l => vcheck view [grpReg l va] (acc l.type)
  run := fun s e =>
    let h := s.hart
    let r := f e e.sb.toNat ((List.range e.len.vl).map (fun i =>
      if sel h k i then some (getElem h va.toNat e.len.width i) else none))
    .done (wrS s sd r.1) r.2

/-- An integer reduction in `n` bits: a fold over the active elements, extended by their type. -/
def intRed (t b n init : Nat) (leaves : List (Option Nat)) (f : Int → Int → Int) : Dword × Flags :=
  let ext (w x : Nat) : Int := if isSigned t then sx w x else ((x % 2 ^ w : Nat) : Int)
  let v := (leaves.filterMap id).foldl (fun x y => f x (ext b y)) (ext n init)
  (BitVec.ofInt 64 (ext n (wrapN n v)), noFlags)

/-- A reduction of integers in the element type. -/
def intRedOp (sd : BitVec 5) (va : BitVec 6) (k : BitVec 3) (f : Int → Int → Int) : VOp :=
  redOp isInt sd va k fun e init l => intRed e.len.type e.len.width e.len.width init l f

/-- A reduction of floating-point elements. -/
def fpRedOp (sd : BitVec 5) (va : BitVec 6) (k : BitVec 3) (f : FFmt → RM → Nat → Nat → FRes) : VOp :=
  redOp isFloat sd va k fun e init l =>
    let r := treeReduce (f (fmtOf e.len.type) e.mode) (init % 2 ^ e.len.width) l
    (BitVec.ofNat 64 r.bits, r.flags)

def opVredsum (sd : BitVec 5) (va : BitVec 6) (_sb : BitVec 5) (k : BitVec 3) : VOp :=
  intRedOp sd va k fun x y => x + y
def opVredmin (sd : BitVec 5) (va : BitVec 6) (_sb : BitVec 5) (k : BitVec 3) : VOp :=
  intRedOp sd va k fun x y => min x y
def opVredmax (sd : BitVec 5) (va : BitVec 6) (_sb : BitVec 5) (k : BitVec 3) : VOp :=
  intRedOp sd va k fun x y => max x y
/-- R103: elements and initial value of twice the width. -/
def opVredsumw (sd : BitVec 5) (va : BitVec 6) (_sb : BitVec 5) (k : BitVec 3) : VOp :=
  redOp (fun t => isInt t && t % 4 != 3) sd va k fun e init l =>
    intRed e.len.type e.len.width (2 * e.len.width) init l fun x y => x + y
def opVfredsum (sd : BitVec 5) (va : BitVec 6) (_sb : BitVec 5) (k : BitVec 3) : VOp := fpRedOp sd va k fpAdd
def opVfredmin (sd : BitVec 5) (va : BitVec 6) (_sb : BitVec 5) (k : BitVec 3) : VOp :=
  fpRedOp sd va k fun f _ => fpMinMax f false
def opVfredmax (sd : BitVec 5) (va : BitVec 6) (_sb : BitVec 5) (k : BitVec 3) : VOp :=
  fpRedOp sd va k fun f _ => fpMinMax f true

/-- R213: one component of a complex sum. -/
def compRed (t : Nat) (rm : RM) (init : Nat) (l : List (Option Nat)) : FRes :=
  if t = 0x13 then
    .plain (wrapN 16 (satS 16 ((l.filterMap id).foldl (fun x y => x + sx 16 y) (sx 16 init))))
  else treeReduce (fpAdd (compFmt t) rm) init l
/-- R213: the sum of each component. -/
def opVcredsum (sd : BitVec 5) (va : BitVec 6) (_sb : BitVec 5) (k : BitVec 3) : VOp :=
  redOp isComplex sd va k fun e init l =>
    let w := e.len.width / 2
    let t := e.len.type
    let r := pairRes w
      (compRed t e.mode (init % 2 ^ w) (l.map (fun o => o.map (fun x => x % 2 ^ w))))
      (compRed t e.mode (init / 2 ^ w % 2 ^ w) (l.map (fun o => o.map (fun x => x / 2 ^ w))))
    (BitVec.ofNat 64 r.bits, r.flags)

def execVredsum (sd : BitVec 5) (va : BitVec 6) (sb : BitVec 5) (k : BitVec 3) (s : State) : Out :=
  vexec (.vredsum sd va sb k) (opVredsum sd va sb k) 0 (rdS s sb) s
def execVredmin (sd : BitVec 5) (va : BitVec 6) (sb : BitVec 5) (k : BitVec 3) (s : State) : Out :=
  vexec (.vredmin sd va sb k) (opVredmin sd va sb k) 0 (rdS s sb) s
def execVredmax (sd : BitVec 5) (va : BitVec 6) (sb : BitVec 5) (k : BitVec 3) (s : State) : Out :=
  vexec (.vredmax sd va sb k) (opVredmax sd va sb k) 0 (rdS s sb) s
def execVfredsum (sd : BitVec 5) (va : BitVec 6) (sb : BitVec 5) (k : BitVec 3) (s : State) : Out :=
  vexec (.vfredsum sd va sb k) (opVfredsum sd va sb k) 0 (rdS s sb) s
def execVfredmin (sd : BitVec 5) (va : BitVec 6) (sb : BitVec 5) (k : BitVec 3) (s : State) : Out :=
  vexec (.vfredmin sd va sb k) (opVfredmin sd va sb k) 0 (rdS s sb) s
def execVfredmax (sd : BitVec 5) (va : BitVec 6) (sb : BitVec 5) (k : BitVec 3) (s : State) : Out :=
  vexec (.vfredmax sd va sb k) (opVfredmax sd va sb k) 0 (rdS s sb) s
def execVcredsum (sd : BitVec 5) (va : BitVec 6) (sb : BitVec 5) (k : BitVec 3) (s : State) : Out :=
  vexec (.vcredsum sd va sb k) (opVcredsum sd va sb k) 0 (rdS s sb) s
def execVredsumw (sd : BitVec 5) (va : BitVec 6) (sb : BitVec 5) (k : BitVec 3) (s : State) : Out :=
  vexec (.vredsumw sd va sb k) (opVredsumw sd va sb k) 0 (rdS s sb) s

end Sys2Proof.Machine
end

