-- ==== Sys2Proof/Machine/VecComplex.lean ====
section
/-! DEFINITION. Complex arithmetic and butterflies (R88, R89, R202-R206). -/

namespace Sys2Proof.Machine

/-- A complex element as its components' bits (R88). -/
structure CNum where
  re : Nat
  im : Nat
  deriving DecidableEq, Repr

/-- The components of an element of width `b`. -/
def cnum (b x : Nat) : CNum := ⟨x % 2 ^ (b / 2), x / 2 ^ (b / 2) % 2 ^ (b / 2)⟩

/-- A signed term of an exact sum: a component, or a product of two. -/
structure CTerm where
  neg : Bool
  x : Nat
  y : Option Nat := none
  deriving DecidableEq, Repr

/-- The negated term. -/
def CTerm.flip (t : CTerm) : CTerm := { t with neg := !t.neg }

/-- A complex exact sum: the terms of its two components. -/
structure CSum where
  re : List CTerm
  im : List CTerm
  deriving DecidableEq, Repr

/-- The sum of two. -/
def CSum.add (a b : CSum) : CSum := ⟨a.re ++ b.re, a.im ++ b.im⟩

/-- The negated sum. -/
def CSum.minus (a : CSum) : CSum := ⟨a.re.map CTerm.flip, a.im.map CTerm.flip⟩

/-- The sum times the imaginary unit. -/
def CSum.timesJ (a : CSum) : CSum := ⟨a.im.map CTerm.flip, a.re⟩

/-- One number as a sum. -/
def cTerm (a : CNum) : CSum := ⟨[⟨false, a.re, none⟩], [⟨false, a.im, none⟩]⟩

/-- The exact product a·b. -/
def cProd (a b : CNum) : CSum :=
  ⟨[⟨false, a.re, some b.re⟩, ⟨true, a.im, some b.im⟩], [⟨false, a.re, some b.im⟩, ⟨false, a.im, some b.re⟩]⟩

/-- The exact product a·conj b. -/
def cProdJ (a b : CNum) : CSum :=
  ⟨[⟨false, a.re, some b.re⟩, ⟨false, a.im, some b.im⟩], [⟨false, a.im, some b.re⟩, ⟨true, a.re, some b.im⟩]⟩

/-- R202: a term in Q2.30, a component alone being scaled by 2^15. -/
def CTerm.fixed (t : CTerm) : Int :=
  let v := sx 16 t.x * (match t.y with | none => 2 ^ 15 | some y => sx 16 y)
  if t.neg then -v else v

/-- A term's floating-point value, and whether it is 0 × ∞. -/
def CTerm.value (f : FFmt) (t : CTerm) : FVal × Bool :=
  let p := match t.y with
    | none => (f.unpack t.x, false)
    | some y => mulV (f.unpack t.x) (f.unpack y)
  (if t.neg then p.1.negate else p.1, p.2)

/-- The exact value of a floating-point sum, with nv where R95 sets it. -/
def compExact (f : FFmt) (rdn : Bool) (ts : List CTerm) : FVal × Flags :=
  let vs := ts.map (fun t => t.value f)
  let s := sumV rdn (vs.map (fun v => v.1))
  (s.1, flagIf (s.2 || vs.any (fun v => v.2)) fNv |||
    snanFlag f (ts.flatMap (fun t => t.x :: t.y.toList)))

/-- R89, R202: one component of a result; `sh` is the final shift of a ci16 one. -/
def compSum (t : Nat) (rm : RM) (sh : Nat) (ts : List CTerm) : FRes :=
  if t = 0x13 then
    let z := (ts.map CTerm.fixed).sum
    ⟨wrapN 16 (satS 16 (rshr z sh .rne)), flagIf (z % (2 ^ sh : Nat) != 0) fNx⟩
  else
    let f := compFmt t
    let x := compExact f rm.isRdn ts
    let r := roundV f rm x.1 false
    ⟨r.bits, r.flags ||| x.2⟩

/-- A complex result rounded and packed. -/
def cRound (t : Nat) (rm : RM) (sh : Nat) (a : CSum) : FRes :=
  pairRes (typeWidth t / 2) (compSum t rm sh a.re) (compSum t rm sh a.im)

/-- An element-wise complex instruction of two sources. -/
def cBin (vd va vb : BitVec 6) (k : BitVec 3) (f : QEntry → CNum → CNum → CNum → FRes) : VOp :=
  binOp isComplex vd va vb k fun e b x y d => f e (cnum b x) (cnum b y) (cnum b d)

/-- An element-wise complex instruction given as an exact sum. -/
def cSumOp (vd va vb : BitVec 6) (k : BitVec 3) (f : CNum → CNum → CNum → CSum) : VOp :=
  cBin vd va vb k fun e a b d => cRound e.len.type e.mode 15 (f a b d)

def opVcmul (vd va vb : BitVec 6) (k : BitVec 3) : VOp := cSumOp vd va vb k fun a b _ => cProd a b
def opVcmac (vd va vb : BitVec 6) (k : BitVec 3) : VOp :=
  cSumOp vd va vb k fun a b d => (cTerm d).add (cProd a b)
def opVcmacj (vd va vb : BitVec 6) (k : BitVec 3) : VOp :=
  cSumOp vd va vb k fun a b d => (cTerm d).add (cProdJ a b)
/-- R202: only a sign changes; a ci16 component saturates. -/
def opVcconj (vd va : BitVec 6) (k : BitVec 3) : VOp :=
  unOp isComplex vd va k fun e b x =>
    let c := cnum b x
    .plain ((if e.len.type = 0x13 then wrapN 16 (satS 16 (-(sx 16 c.im)))
      else (compFmt e.len.type).flip c.im) * 2 ^ (b / 2) + c.re)
def opVcabs2 (vd va : BitVec 6) (k : BitVec 3) : VOp :=
  unOp isComplex vd va k fun e b x =>
    let c := cnum b x
    compSum e.len.type e.mode 15 [⟨false, c.re, some c.re⟩, ⟨false, c.im, some c.im⟩]

/-- R203: cos or sin of the phase in the component type, rounded RNE. -/
def rotFactor (t : Nat) (cos : Bool) (q : Nat) : FRes :=
  if t = 0x13 then
    let v := (turnValue cos (sx 16 q < 0) (sx 16 q).natAbs (-15)).1
    ⟨wrapN 16 (satS 16 (rshr v (fixP - 15) .rne)), flagIf (v % (2 ^ (fixP - 15) : Nat) != 0) fNx⟩
  else fpTurn (compFmt t) .rne cos q

/-- R203: the phase is an infinity or a NaN. -/
def rotBad (t q : Nat) : Bool :=
  t != 0x13 &&
    (let v := (compFmt t).unpack q
     v.isNan || v.isInf true || v.isInf false)

def opVcrot (vd va vb : BitVec 6) (k : BitVec 3) : VOp :=
  cBin vd va vb k fun e a b _ =>
    let t := e.len.type
    if rotBad t b.re then
      pairRes (typeWidth t / 2) ⟨(compFmt t).nan, fNv⟩ ⟨(compFmt t).nan, fNv⟩
    else
      let c := rotFactor t true b.re
      let n := rotFactor t false b.re
      let r := cRound t e.mode 15 (cProd a ⟨c.bits, n.bits⟩)
      ⟨r.bits, r.flags ||| c.flags ||| n.flags⟩

/-! ### Butterflies (R204-R206) -/

/-- The butterflies of a tile: the rows and the columns below a span, where selected. -/
def flyPlaces (h : Hart) (l : LenRegs) (k : BitVec 3) (span : Nat) : List Nat :=
  (List.range l.rowc).flatMap (fun r =>
    ((List.range span).map (fun j => r * l.colc + j)).filter (fun c => sel h k c))

/-- R204: a whole complex instruction whose outputs at each butterfly are exact sums. -/
def flyOp (vd va vb : BitVec 6) (k : BitVec 3) (radix sh : Nat)
    (f : (Nat → CNum) → (Nat → CNum) → List CSum) : VOp where
  check := fun _ view l => vcheck view [grpReg l vd, grpReg l va, grpReg l vb] (isComplex l.type)
  run := fun s e =>
    let b := e.len.width
    let h := s.hart
    let q := e.len.colc / radix
    putResults s vd b ((flyPlaces h e.len k q).flatMap (fun c =>
      ((f (fun i => cnum b (getElem h va.toNat b (c + i * q)))
          (fun i => cnum b (getElem h vb.toNat b (c + i * q)))).map
        (fun z => cRound e.len.type e.mode sh z)).zipIdx.map (fun p => (c + p.2 * q, p.1))))

def opVbfly (vd va vb : BitVec 6) (k : BitVec 3) : VOp :=
  flyOp vd va vb k 2 16 fun x w =>
    let t := cProd (w 0) (x 1)
    [(cTerm (x 0)).add t, (cTerm (x 0)).add t.minus]
def opVbfly4 (vd va vb : BitVec 6) (k : BitVec 3) : VOp :=
  flyOp vd va vb k 4 17 fun x w =>
    let t1 := cProd (w 1) (x 1)
    let t2 := cProd (w 2) (x 2)
    let t3 := cProd (w 3) (x 3)
    let x0 := cTerm (x 0)
    [x0.add (t1.add (t2.add t3)),
     x0.add (t1.timesJ.minus.add (t2.minus.add t3.timesJ)),
     x0.add (t1.minus.add (t2.add t3.minus)),
     x0.add (t1.timesJ.add (t2.minus.add t3.timesJ.minus))]

def execVcmul (vd va vb : BitVec 6) (k : BitVec 3) (s : State) : Out := vexec0 (.vcmul vd va vb k) (opVcmul vd va vb k) s
def execVcmac (vd va vb : BitVec 6) (k : BitVec 3) (s : State) : Out := vexec0 (.vcmac vd va vb k) (opVcmac vd va vb k) s
def execVcmacj (vd va vb : BitVec 6) (k : BitVec 3) (s : State) : Out := vexec0 (.vcmacj vd va vb k) (opVcmacj vd va vb k) s
def execVcrot (vd va vb : BitVec 6) (k : BitVec 3) (s : State) : Out := vexec0 (.vcrot vd va vb k) (opVcrot vd va vb k) s
def execVbfly (vd va vb : BitVec 6) (k : BitVec 3) (s : State) : Out := vexec0 (.vbfly vd va vb k) (opVbfly vd va vb k) s
def execVbfly4 (vd va vb : BitVec 6) (k : BitVec 3) (s : State) : Out := vexec0 (.vbfly4 vd va vb k) (opVbfly4 vd va vb k) s
def execVcconj (vd va : BitVec 6) (k : BitVec 3) (s : State) : Out := vexec0 (.vcconj vd va k) (opVcconj vd va k) s
def execVcabs2 (vd va : BitVec 6) (k : BitVec 3) (s : State) : Out := vexec0 (.vcabs2 vd va k) (opVcabs2 vd va k) s

end Sys2Proof.Machine
end

