-- ==== Sys2Proof/Machine/VecMem.lean ====
section
/-! DEFINITION. Vector loads and stores, window loads, linked gathers, conditional scatters and
combining updates (R272-R278, R297-R302). -/

namespace Sys2Proof.Machine

/-! ### Checks (R55, R272-R274) -/

/-- R55, R273: a type of width `b` matches the ew code; a 4-bit one matches 0 where allowed. -/
def ewMatches (nib : Bool) (b ew : Nat) : Bool := if b = 4 then nib && ew == 0 else b == 8 * 2 ^ ew

/-- R274: the registers of the index operand, aligned to their number within v0-v31. -/
def indexFits (l : LenRegs) (vx : BitVec 5) : Bool :=
  let n := max 1 (l.grp * 32 / l.width)
  vx.toNat % n == 0 && vx.toNat + n ≤ 32

/-- The checks of a vector memory instruction with an index operand, which check 3 of R63 sees whole. -/
def indexCheck (vd : BitVec 6) (vx : BitVec 5) (acc : LenRegs → Bool) (_w : Nat) (view : Bool) (l : LenRegs) :
    Option (Nat × Nat) :=
  if view && (VRegs.mk vx.toNat (max 1 (l.grp * 32 / l.width))).inTile then some (3, 0x03)
  else vcheck view [grpReg l vd] (acc l && indexFits l vx)

/-- The checks of a vector memory instruction. -/
def memCheck (vd : BitVec 6) (acc : LenRegs → Bool) (_w : Nat) (view : Bool) (l : LenRegs) : Option (Nat × Nat) :=
  vcheck view [grpReg l vd] (acc l)

/-! ### Element groups (R147, R276) -/

/-- The element groups of an instruction that have active elements, each with its first element from
the starting one on; an index operand may be the widest. -/
def memGroups (h : Hart) (l : LenRegs) (k : BitVec 3) (indexed : Bool) : List (Nat × List Nat) :=
  let per := max 1 (64 * h.width / (if indexed then max l.width 32 else l.width))
  let a := activeFrom h l k
  ((List.range ((l.vl + per - 1) / per)).map (fun j => (max l.e0 (j * per), a.filter (fun i => i / per == j)))).filter
    (fun g => g.2 != [])

/-- R167: the entry with its progress at an element. -/
def QEntry.resumeAt (e : QEntry) (i : Nat) : QEntry :=
  { e with begun := e.begun || i != e.len.e0, len := { e.len with rowi := i / e.len.colc, coli := i % e.len.colc } }

/-- R276: element groups performed in order.  `f` performs one group from the state: it answers the
first ring-guard suppression in it, a fault, or that it waits. -/
def runGroups (f : State → List Nat → XRes (Option Trap)) (e : QEntry) :
    List (Nat × List Nat) → Option Trap → State → VRes
  | [], g, s =>
    .done (match g with | none => s | some t => post s true t) noFlags
  | a :: rest, g, s =>
    let told (s : State) : State := match g with | none => s | some t => post s true t
    match f s a.2 with
    | .ok g1 s1 => runGroups f e rest (g.or g1) s1
    | .fault t s1 => .fault (told s1) (e.resumeAt a.1) t
    | .refuse t s1 => .fault (told s1) (e.resumeAt a.1) t
    | .guard t s1 => .fault (told s1) (e.resumeAt a.1) t
    | .wait s1 => .more (told s1) (e.resumeAt a.1)

/-- R276: every element of a group resolved before any is performed. -/
def resolveAll (s : State) (kind : Kind) (n : Nat) : List (Nat × Dword) → XRes (List (Nat × Dword × Target))
  | [] => .ok [] s
  | (i, ea) :: t =>
    (resolve s (acc s .other kind) ea n).bind fun x s1 =>
      (resolveAll s1 kind n t).bind fun r s2 => .ok ((i, ea, x) :: r) s2

/-- The resolved elements read in order. -/
def readAll (s : State) (n : Nat) : List (Nat × Dword × Target) → XRes (List (Nat × Nat))
  | [] => .ok [] s
  | (i, ea, x) :: t =>
    (readT s s.hart.key x ea n).bind fun v s1 =>
      (readAll s1 n t).bind fun r s2 => .ok ((i, v) :: r) s2

/-- The resolved elements written in order: a suppressed one is passed over, and the first of them
is told. -/
def writeAll (s : State) (f : Nat → List Byte) : List (Nat × Dword × Target) → Option Trap → XRes (Option Trap)
  | [], g => .ok g s
  | (i, ea, x) :: t, g =>
    match writeT s s.hart.key x ea (f i) with
    | .guard tr s1 => writeAll s1 f t (g.or (some tr))
    | .ok _ s1 => writeAll s1 f t g
    | .fault tr s1 => .fault tr s1
    | .refuse tr s1 => .refuse tr s1
    | .wait s1 => .wait s1

/-- What an access that failed while it was performed leaves: the state before the group. -/
def XRes.orElse {α : Type} (r : XRes α) (s : State) : XRes α :=
  match r with
  | .ok a s1 => .ok a s1
  | .fault t _ => .fault t s
  | .refuse t _ => .refuse t s
  | .guard t _ => .guard t s
  | .wait s1 => .wait s1

/-! ### Loads and stores (R272-R276) -/

/-- R273: the part of a loaded byte that element `i` takes; in the tile view it is counted from
the start of the row. -/
def nibbleOf (m : VAddr) (e : QEntry) (i v : Nat) : Nat :=
  if e.len.width = 4 then v / 16 ^ ((if m = .rows then i % e.len.colc else i) % 2) % 16 else v

/-- R159: the indices of a load are read before any element is written; the entry keeps them while it
waits between its groups. -/
def QEntry.readIdx (e : QEntry) (h : Hart) (m : VAddr) : QEntry :=
  match m, e.idx with
  | .index vx, none =>
    { e with idx := some ((List.range e.len.vl).map (fun i => BitVec.ofNat 32 (getElem h vx.toNat 32 i))) }
  | _, _ => e

/-- R276: a load, its addresses of `m`. -/
def loadRun (m : VAddr) (idx : Bool) (vd : BitVec 6) (k : BitVec 3) (s : State) (e0 : QEntry) : VRes :=
  let b := e0.len.width
  let h := s.hart
  let e := e0.readIdx h m
  runGroups (fun s a =>
      (resolveAll s .read (memBytes b) (a.map (fun i => (i, m.at h e i)))).bind fun l s1 =>
        (readAll s1 (memBytes b) l).bind fun r s2 =>
          .ok none (updH s2 fun h => putElems h vd.toNat b (r.map (fun p => (p.1, nibbleOf m e p.1 p.2)))))
    e (memGroups s.hart e.len k idx) none s

/-- R273: the byte of a 4-bit store, both nibbles from the register; past the end of a row it is 0. -/
def nibbleByte (m : VAddr) (h : Hart) (e : QEntry) (vd : BitVec 6) (i : Nat) : Nat :=
  let c := if m = .rows then i % e.len.colc else i
  let lo := i - c % 2
  let hi := if m = .rows && e.len.colc ≤ c - c % 2 + 1 then 0 else getElem h vd.toNat 4 (lo + 1)
  getElem h vd.toNat 4 lo + 16 * hi

/-- The bytes element `i` stores. -/
def storeBytes (m : VAddr) (h : Hart) (e : QEntry) (vd : BitVec 6) (i : Nat) : List Byte :=
  let b := e.len.width
  if b = 4 then bytesOfNat 1 (nibbleByte m h e vd i) else bytesOfNat (b / 8) (getElem h vd.toNat b i)

/-- R276: a store. -/
def storeRun (m : VAddr) (idx : Bool) (vd : BitVec 6) (k : BitVec 3) (s : State) (e : QEntry) : VRes :=
  runGroups (fun s a =>
      (resolveAll s .write (memBytes e.len.width) (a.map (fun i => (i, m.at s.hart e i)))).bind fun l s1 =>
        (writeAll s1 (storeBytes m s1.hart e vd) l none).orElse s1)
    e (memGroups s.hart e.len k idx) none s

/-- A load or store without an index operand; `nib` when it takes 4-bit types. -/
def moveOp (store nib : Bool) (m : VAddr) (vd : BitVec 6) (k : BitVec 3) (ew : BitVec 2) : VOp where
  check := memCheck vd fun l => ewMatches nib l.width ew.toNat
  run := (if store then storeRun else loadRun) m false vd k

/-- A load or store with an index operand. -/
def indexOp (store : Bool) (vd : BitVec 6) (vx : BitVec 5) (k : BitVec 3) (ew : BitVec 2) : VOp where
  check := indexCheck vd vx fun l => ewMatches false l.width ew.toNat
  run := (if store then storeRun else loadRun) (.index vx) true vd k

def opVld (vd : BitVec 6) (_sa x : BitVec 5) (k : BitVec 3) (ew : BitVec 2) : VOp := moveOp false true (.unit x) vd k ew
def opVlds (vd : BitVec 6) (_sa _sb : BitVec 5) (k : BitVec 3) (ew : BitVec 2) : VOp := moveOp false false .stride vd k ew
def opVldx (vd : BitVec 6) (_sa x : BitVec 5) (k : BitVec 3) (ew : BitVec 2) : VOp := indexOp false vd x k ew
def opVld2d (vd : BitVec 6) (_sa _sb : BitVec 5) (k : BitVec 3) (ew : BitVec 2) : VOp := moveOp false true .rows vd k ew
def opVst (vd : BitVec 6) (_sa x : BitVec 5) (k : BitVec 3) (ew : BitVec 2) : VOp := moveOp true true (.unit x) vd k ew
def opVsts (vd : BitVec 6) (_sa _sb : BitVec 5) (k : BitVec 3) (ew : BitVec 2) : VOp := moveOp true false .stride vd k ew
def opVstx (vd : BitVec 6) (_sa x : BitVec 5) (k : BitVec 3) (ew : BitVec 2) : VOp := indexOp true vd x k ew
def opVst2d (vd : BitVec 6) (_sa _sb : BitVec 5) (k : BitVec 3) (ew : BitVec 2) : VOp := moveOp true true .rows vd k ew

def execVld (vd : BitVec 6) (sa x : BitVec 5) (k : BitVec 3) (ew : BitVec 2) (s : State) : Out :=
  vexec (.vld vd sa x k ew) (opVld vd sa x k ew) (rdS s sa) 0 s
def execVlds (vd : BitVec 6) (sa sb : BitVec 5) (k : BitVec 3) (ew : BitVec 2) (s : State) : Out :=
  vexec (.vlds vd sa sb k ew) (opVlds vd sa sb k ew) (rdS s sa) (rdS s sb) s
def execVldx (vd : BitVec 6) (sa x : BitVec 5) (k : BitVec 3) (ew : BitVec 2) (s : State) : Out :=
  vexec (.vldx vd sa x k ew) (opVldx vd sa x k ew) (rdS s sa) 0 s
def execVld2d (vd : BitVec 6) (sa sb : BitVec 5) (k : BitVec 3) (ew : BitVec 2) (s : State) : Out :=
  vexec (.vld2d vd sa sb k ew) (opVld2d vd sa sb k ew) (rdS s sa) (rdS s sb) s
def execVst (vd : BitVec 6) (sa x : BitVec 5) (k : BitVec 3) (ew : BitVec 2) (s : State) : Out :=
  vexec (.vst vd sa x k ew) (opVst vd sa x k ew) (rdS s sa) 0 s
def execVsts (vd : BitVec 6) (sa sb : BitVec 5) (k : BitVec 3) (ew : BitVec 2) (s : State) : Out :=
  vexec (.vsts vd sa sb k ew) (opVsts vd sa sb k ew) (rdS s sa) (rdS s sb) s
def execVstx (vd : BitVec 6) (sa x : BitVec 5) (k : BitVec 3) (ew : BitVec 2) (s : State) : Out :=
  vexec (.vstx vd sa x k ew) (opVstx vd sa x k ew) (rdS s sa) 0 s
def execVst2d (vd : BitVec 6) (sa sb : BitVec 5) (k : BitVec 3) (ew : BitVec 2) (s : State) : Out :=
  vexec (.vst2d vd sa sb k ew) (opVst2d vd sa sb k ew) (rdS s sa) (rdS s sb) s

/-! ### Window loads (R277, R278) -/

/-- R277: the window cannot serve the load. -/
def vldwBad (w : Window) (hid chunk : Nat) (l : LenRegs) : Bool :=
  w.mode == 0 || w.mode == 5 || w.owner != hid || w.size < 256 * chunk + (l.vl * l.width + 7) / 8

/-- R277: the byte at a counter value has arrived. -/
def Window.byteIn (w : Window) (c : BitVec 32) : Bool :=
  2 ^ 31 ≤ (c - w.head).toNat || (c - w.head).toNat < w.avail || 
    w.rows.any (fun r => (c - r.1).toNat < 64 && r.2 == BitVec.allOnes 64)

/-- R277: one element group of a window load from head `h`. -/
def vldwGroup (vd : BitVec 6) (wn chunk : Nat) (e : QEntry) (s : State) (a : List Nat) : XRes (Option Trap) :=
  let b := e.len.width
  let n := memBytes b
  let w := getWin s s.hart.core wn
  let pos (i : Nat) : BitVec 32 := e.sb.truncate 32 + BitVec.ofNat 32 (256 * chunk + i * b / 8)
  if !a.all (fun i => (List.range n).all (fun j => w.byteIn (pos i + BitVec.ofNat 32 j))) then .wait s
  else
    let r := a.map (fun i => (i, readWindow s s.hart.core wn (pos i) n))
    if r.any (fun p => p.2 == none) then .wait (askFence s s.hart.core)
    else
      .ok none (updH s fun h => putElems h vd.toNat b (r.map (fun p =>
        (p.1, nibbleOf (.unit 0) e p.1 (natOfBytes (p.2.getD []))))))

def opVldw (vd : BitVec 6) (wn chunk : BitVec 5) (k : BitVec 3) (ew : BitVec 2) : VOp where
  check := memCheck vd fun l => ewMatches true l.width ew.toNat
  run := fun s e =>
    if vldwBad (getWin s s.hart.core wn.toNat) s.hart.hid chunk.toNat e.len then
      .fault s e ⟨0x18, BitVec.ofNat 64 wn.toNat⟩
    else runGroups (vldwGroup vd wn.toNat chunk.toNat e) e (memGroups s.hart e.len k false) none s

/-- A queued `mop` reads the window. -/
def mopNames (h : Hart) (n : Nat) : Bool :=
  h.queue.any (fun e => match e.instr with
    | .mop wa wb ws fmt _ => wa.toNat == n || wb.toNat == n || (tileBlocks fmt.toNat && ws.toNat == n)
    | _ => false)

/-- R278: the head is captured at issue, once no `mop` that names the window is queued. -/
def execVldw (vd : BitVec 6) (wn chunk : BitVec 5) (k : BitVec 3) (ew : BitVec 2) (s : State) : Out :=
  if mopNames s.hart wn.toNat && (opVldw vd wn chunk k ew).check s.hart.width s.hart.mview (lenNow s) = none then
    finish (.stall .order s)
  else
    vexec (.vldw vd wn chunk k ew) (opVldw vd wn chunk k ew) 0
      ((getWin s s.hart.core wn.toNat).head.zeroExtend 64) s

/-! ### Links (R297-R299) -/

/-- R298, R299: the address must resolve to this device's memory. -/
def homeOnly (l : List (Nat × Dword × Target)) (s : State) : XRes (List (Nat × Dword × Target)) :=
  match l.find? (fun p => match p.2.2 with | .mem a _ => !isDram a | _ => true) with
  | some p => .fault ⟨0x17, p.2.1⟩ s
  | none => .ok l s

/-- The elements resolved, a target that is not local-home refusing in element order. -/
def resolveHome (s : State) (kind : Kind) (n : Nat) : List (Nat × Dword) → XRes (List (Nat × Dword × Target))
  | [] => .ok [] s
  | (i, ea) :: t =>
    (resolve s (acc s .other kind) ea n).bind fun x s1 =>
      (homeOnly [(i, ea, x)] s1).bind fun r s2 =>
        (resolveHome s2 kind n t).bind fun q s3 => .ok (r ++ q) s3

/-- The line a target lies in. -/
def lineOf (t : Target) : Nat := match t with | .mem l _ => l / 128 | _ => 0

/-- R297: a link tag set on a line. -/
def setLink (s : State) (g : LinkTag) : State :=
  let put (l : List LinkTag) : List LinkTag := (g :: l.filter (fun x => x.line != g.line)).take 2048
  { s with links := mapUpd [] s.links (homeSlice (g.line * 128)) put }

/-- The hart's tag for a line. -/
def ownLink (s : State) (line : Nat) : LinkTag := ⟨s.hart.key, s.hart.linkGen, line⟩

/-- The line carries the hart's link. -/
def linked (s : State) (line : Nat) : Bool :=
  (mapGet [] s.links (homeSlice (line * 128))).contains (ownLink s line)

/-- R55: the width of a 1-bit ew code. -/
def ew1Width (ew : BitVec 1) : Nat := if ew = 0 then 32 else 64

def opVldl (vd : BitVec 6) (_sa x : BitVec 5) (k : BitVec 3) (ew : BitVec 1) : VOp where
  check := indexCheck vd x fun l => l.width == ew1Width ew
  run := fun s e0 =>
    let b := e0.len.width
    let h := s.hart
    let e := e0.readIdx h (.index x)
    runGroups (fun s a =>
        (resolveHome s .read (b / 8) (a.map (fun i => (i, VAddr.at (.index x) h e i)))).bind fun l s1 =>
          (readAll s1 (b / 8) l).bind fun r s2 =>
            .ok none (updH (l.foldl (fun s p => setLink s (ownLink s (lineOf p.2.2))) s2)
              fun h => putElems h vd.toNat b r))
      e (memGroups s.hart e.len k true) none s

/-- R299: one group of conditional stores: each succeeds or clears its mask bit.  `first` is the
starting element of the instruction. -/
def stcAll (vd : BitVec 6) (vx : BitVec 5) (k : BitVec 3) (e : QEntry) (first : Nat) :
    List (Nat × Dword × Target) → State → XRes (Option Trap)
  | [], s => .ok none s
  | (i, ea, x) :: t, s =>
    let b := e.len.width
    let line := lineOf x
    -- a lower element of the same address that failed found no link, and neither does this one
    let again := (span first i).any (fun j => sel s.hart k j && VAddr.at (.index vx) s.hart e j == ea)
    if linked s line && !again then
      (writeT s s.hart.key x ea (bytesOfNat (b / 8) (getElem s.hart vd.toNat b i))).bind fun _ s1 =>
        -- the hart's own element breaks no tag of the line
        stcAll vd vx k e first t { s1 with links := s.links }
    else stcAll vd vx k e first t (updH s fun h => putMask h k.toNat [(i, false)])

/-- The elements of a group with their addresses. -/
def indexedAddrs (vx : BitVec 5) (h : Hart) (e : QEntry) (a : List Nat) : List (Nat × Dword) :=
  a.map (fun i => (i, VAddr.at (.index vx) h e i))

/-- A translation that an element still waits for. -/
def awaits (s : State) (n : Nat) : List (Nat × Dword) → Option State
  | [] => none
  | (_, ea) :: t =>
    match resolve s (acc s .other .write) ea n with
    | .wait s1 => some s1
    | .ok _ s1 => awaits s1 n t
    | _ => none

/-- R297: the generation advances at completion. -/
def afterStc (r : VRes) : VRes :=
  match r with
  | .done s f => .done (bumpLink s) f
  | x => x

def opVstc (vd : BitVec 6) (_sa x : BitVec 5) (k : BitVec 3) (ew : BitVec 1) : VOp where
  check := indexCheck vd x fun l => l.width == ew1Width ew
  run := fun s e =>
    let n := e.len.width / 8
    match awaits s n (indexedAddrs x s.hart e (activeFrom s.hart e.len k)) with
    | some s1 => .more s1 e
    | none =>
      afterStc (runGroups (fun s a =>
          (resolveHome s .write n (indexedAddrs x s.hart e a)).bind fun l s1 =>
            (stcAll vd x k e e.len.e0 l s1).orElse s1)
        e (memGroups s.hart e.len k true) none s)

def execVldl (vd : BitVec 6) (sa x : BitVec 5) (k : BitVec 3) (ew : BitVec 1) (s : State) : Out :=
  vexec (.vldl vd sa x k ew) (opVldl vd sa x k ew) (rdS s sa) 0 s
def execVstc (vd : BitVec 6) (sa x : BitVec 5) (k : BitVec 3) (ew : BitVec 1) (s : State) : Out :=
  vexec (.vstc vd sa x k ew) (opVstc vd sa x k ew) (rdS s sa) 0 s

/-! ### Combining updates (R300, R302) -/

/-- R300: the address must resolve to a scratchpad of this device. -/
def vamoTargets (s : State) (n : Nat) : List (Nat × Dword) → XRes (List (Nat × Nat))
  | [] => .ok [] s
  | (i, ea) :: t =>
    (resolve s (acc s .other .write) ea n).bind fun x s1 =>
      match x with
      | .mem l _ =>
        if isSpad l then (vamoTargets s1 n t).bind fun r s2 => .ok ((i, l) :: r) s2
        else .fault ⟨0x17, ea⟩ s1
      | _ => .fault ⟨0x17, ea⟩ s1

/-- R255: the bank of a scratchpad byte, as 16 · core + bank. -/
def bankOf (l : Nat) : Nat := 16 * spadCore l + spadOff l / 64 % 16

/-- R302: elements sent to their banks. -/
def sendVamo (op : Nat) (vd : BitVec 6) (e : QEntry) (r : List (Nat × Nat)) (s : State) : State :=
  let b := e.len.width
  let els := r.map (fun p =>
    ({ loc := p.2, core := spadCore p.2, off := spadOff p.2, bytes := b / 8, op := op,
       signed := isSigned e.len.type, operand := BitVec.ofNat 64 (getElem s.hart vd.toNat b p.1),
       sender := s.hart.key, job := s.hart.job.job, order := s.hart.units } : VamoElem))
  let s1 := { s with vamos := s.vamos ++ els }
  updH s1 fun h => { h with job := { h.job with
    banks := (r.map (fun p => bankOf p.2)).foldl (fun l x => if l.contains x then l else l ++ [x]) h.job.banks } }

/-- R300: i32, n32, i64 and n64. -/
def vamoType (t : Nat) : Bool := t == 2 || t == 3 || t == 6 || t == 7

/-- R300: a combining update of an operation. -/
def vamoOp (op : Nat) (vd : BitVec 6) (x : BitVec 5) (k : BitVec 3) (ew : BitVec 1) : VOp where
  check := indexCheck vd x fun l => vamoType l.type && l.width == ew1Width ew
  run := fun s e =>
    runGroups (fun s a =>
        (vamoTargets s (e.len.width / 8) (indexedAddrs x s.hart e a)).bind fun r s1 =>
          .ok none (sendVamo op vd e r s1))
      e (memGroups s.hart e.len k true) none s

def opVamoAdd (vd : BitVec 6) (_sa x : BitVec 5) (k : BitVec 3) (ew : BitVec 1) : VOp := vamoOp 0 vd x k ew
def opVamoMin (vd : BitVec 6) (_sa x : BitVec 5) (k : BitVec 3) (ew : BitVec 1) : VOp := vamoOp 1 vd x k ew
def opVamoMax (vd : BitVec 6) (_sa x : BitVec 5) (k : BitVec 3) (ew : BitVec 1) : VOp := vamoOp 2 vd x k ew
def opVamoOr (vd : BitVec 6) (_sa x : BitVec 5) (k : BitVec 3) (ew : BitVec 1) : VOp := vamoOp 3 vd x k ew
def opVamoXor (vd : BitVec 6) (_sa x : BitVec 5) (k : BitVec 3) (ew : BitVec 1) : VOp := vamoOp 4 vd x k ew

def execVamoAdd (vd : BitVec 6) (sa x : BitVec 5) (k : BitVec 3) (ew : BitVec 1) (s : State) : Out :=
  vexec (.vamoAdd vd sa x k ew) (opVamoAdd vd sa x k ew) (rdS s sa) 0 s
def execVamoMin (vd : BitVec 6) (sa x : BitVec 5) (k : BitVec 3) (ew : BitVec 1) (s : State) : Out :=
  vexec (.vamoMin vd sa x k ew) (opVamoMin vd sa x k ew) (rdS s sa) 0 s
def execVamoMax (vd : BitVec 6) (sa x : BitVec 5) (k : BitVec 3) (ew : BitVec 1) (s : State) : Out :=
  vexec (.vamoMax vd sa x k ew) (opVamoMax vd sa x k ew) (rdS s sa) 0 s
def execVamoOr (vd : BitVec 6) (sa x : BitVec 5) (k : BitVec 3) (ew : BitVec 1) (s : State) : Out :=
  vexec (.vamoOr vd sa x k ew) (opVamoOr vd sa x k ew) (rdS s sa) 0 s
def execVamoXor (vd : BitVec 6) (sa x : BitVec 5) (k : BitVec 3) (ew : BitVec 1) (s : State) : Out :=
  vexec (.vamoXor vd sa x k ew) (opVamoXor vd sa x k ew) (rdS s sa) 0 s

end Sys2Proof.Machine
end

