-- ==== Sys2Proof/Machine/Matrix.lean ====
section
/-! DEFINITION. Matrix mode and the accumulator tile (R215-R242, R99-R101). -/

namespace Sys2Proof.Machine

/-! ### The tile (R215, R218) -/

/-- Accumulator element (i, j) of the tile, as bits. -/
def tileGet (h : Hart) (i j : Nat) : Nat :=
  getElem h (48 + j / 4) 32 (2 * (i / 2 + h.width * (j % 4)) + i % 2)

/-- Accumulator element (i, j) replaced. -/
def tilePut (h : Hart) (i j v : Nat) : Hart :=
  putElem h (48 + j / 4) 32 (2 * (i / 2 + h.width * (j % 4)) + i % 2) v

/-- Every place of the tile, row by row. -/
def tilePlaces (h : Hart) : List (Nat × Nat) :=
  (List.range (2 * h.width)).flatMap (fun i => (List.range 64).map (fun j => (i, j)))

/-- Elements of the tile replaced, with flags merged by the caller. -/
def tileWrite (h : Hart) (l : List ((Nat × Nat) × Nat)) : Hart :=
  l.foldl (fun h p => tilePut h p.1.1 p.1.2 p.2) h

/-! ### Matrix formats (R99, R225, R235) -/

/-- Bits of an element of a format. -/
def matWidth (fmt : Nat) : Nat := if fmt ≤ 1 then 4 else if fmt ≤ 6 then 8 else if fmt ≤ 8 then 16 else 32

/-- The floating-point format of the elements. -/
def matFmt (fmt : Nat) : FFmt :=
  if fmt ≤ 1 then f4 else if fmt == 2 || fmt == 4 then f8a else if fmt == 3 || fmt == 5 then f8b
  else if fmt == 8 then f16 else bf16

/-- cbf16 and ci16. -/
def matComplex (fmt : Nat) : Bool := fmt == 9 || fmt == 0xA

/-- R99, R101: how many k steps make a group. -/
def matGroup (fmt : Nat) : Nat :=
  if tileBlocks fmt then 32 else if fmt = 0 then 8 else if fmt ≤ 6 then 4 else if fmt ≤ 8 then 2 else 1

/-- R225: columns of B. -/
def matCols (fmt : Nat) : Nat := if matComplex fmt then 32 else 64

/-- R225: bytes of one step of A on `w` lanes. -/
def aStep (w fmt : Nat) : Nat := 2 * w * matWidth fmt / 8

/-- R225: bytes of one step of B. -/
def bStep (fmt : Nat) : Nat := matCols fmt * matWidth fmt / 8

/-! ### Groups of products (R99-R101) -/

/-- A floating-point accumulator after one exact group sum. -/
def addGroup (accBits : Nat) (s : FVal × Bool) (fl : Flags) : FRes :=
  if s.1.isNan then ⟨f32.nan, fl ||| flagIf s.2 fNv ||| snanFlag f32 [accBits]⟩
  else
    let t := sumV false [f32.unpack accBits, s.1]
    let r := roundV f32 .rne t.1 false
    ⟨r.bits, r.flags ||| fl ||| flagIf (t.2 || s.2) fNv ||| snanFlag f32 [accBits]⟩

/-- The exact sum of products of pairs of elements of a format, and its nv. -/
def groupSum (f : FFmt) (l : List (Bool × Nat × Nat)) : (FVal × Bool) × Flags :=
  let ps := l.map (fun p =>
    let m := mulV (f.unpack p.2.1) (f.unpack p.2.2)
    (if p.1 then m.1.negate else m.1, m.2))
  let s := sumV false (ps.map (fun p => p.1))
  ((s.1, s.2 || ps.any (fun p => p.2)), snanFlag f (l.flatMap (fun p => [p.2.1, p.2.2])))

/-- R101: one block of a block-scaled format. -/
def addBlock (f : FFmt) (accBits : Nat) (sa sb : Nat) (l : List (Bool × Nat × Nat)) : FRes :=
  if scaleZero sa || scaleZero sb then .plain accBits
  else
    let g := groupSum f l
    if scaleNan sa || scaleNan sb || g.1.1.isNan then ⟨f32.nan, fNv⟩
    else
      addGroup accBits ((mulV (mulV (scaleVal sa) (scaleVal sb)).1 g.1.1).1, g.1.2) g.2

/-- The operands of a product: A[i][s], B[s][j], and the scales of row i and column j in a block. -/
structure MatOps where
  a : Nat → Nat → Nat
  b : Nat → Nat → Nat
  sa : Nat → Nat → Nat
  sb : Nat → Nat → Nat

/-- The steps of group number `g` of `k` steps. -/
def groupSteps (fmt k g : Nat) : List Nat := span (g * matGroup fmt) (min k ((g + 1) * matGroup fmt))

/-- The groups of `k` steps. -/
def groupsOf (fmt k : Nat) : List Nat := List.range ((k + matGroup fmt - 1) / matGroup fmt)

/-- R233: a real accumulator element after every group. -/
def accReal (fmt k : Nat) (o : MatOps) (i j x : Nat) : FRes :=
  (groupsOf fmt k).foldl (fun (r : FRes) (g : Nat) =>
    let ps := (groupSteps fmt k g).map (fun s => (o.a i s, o.b s j))
    if fmt = 6 then .plain (wrapN 32 (r.bits + (ps.map (fun p => sx 8 p.1 * sx 8 p.2)).sum))
    else
      let l := ps.map (fun p => (false, p.1, p.2))
      let f := matFmt fmt
      let q := if tileBlocks fmt then addBlock f r.bits (o.sa i g) (o.sb j g) l
        else let s := groupSum f l; addGroup r.bits s.1 s.2
      ⟨q.bits, r.flags ||| q.flags⟩) (.plain x)

/-- R233: a component of a complex accumulator element after every step. -/
def accComp (fmt k : Nat) (o : MatOps) (im : Bool) (i j x : Nat) : FRes :=
  (List.range k).foldl (fun (r : FRes) (s : Nat) =>
    let a : CNum := cnum 32 (o.a i s)
    let b : CNum := cnum 32 (o.b s j)
    let l := if im then [(false, a.re, b.im), (false, a.im, b.re)] else [(false, a.re, b.re), (true, a.im, b.im)]
    if fmt = 0xA then
      .plain (wrapN 32 (r.bits + (l.map (fun p =>
        (if p.1 then -1 else 1) * (sx 16 p.2.1 * sx 16 p.2.2))).sum))
    else
      let g := groupSum bf16 l
      let q := addGroup r.bits g.1 g.2
      ⟨q.bits, r.flags ||| q.flags⟩) (.plain x)

/-- R233: every accumulator element after `k` steps. -/
def accumulate (fmt k : Nat) (o : MatOps) (h : Hart) : Hart × Flags :=
  let r := (tilePlaces h).map (fun p =>
    (p, if matComplex fmt then accComp fmt k o (p.2 % 2 == 1) p.1 (p.2 / 2) (tileGet h p.1 p.2)
        else accReal fmt k o p.1 p.2 (tileGet h p.1 p.2)))
  (tileWrite h (r.map (fun q => (q.1, q.2.bits))), r.foldl (fun f q => f ||| q.2.flags) 0)

/-! ### Issue (R217, R223) -/

/-- R223: an instruction that needs matrix mode. -/
def inMatrix (extra : Nat → Option (Nat × Nat)) (w : Nat) (view : Bool) (_l : LenRegs) : Option (Nat × Nat) :=
  match extra w with
  | some x => some x
  | none => if view then none else some (3, 0x03)

/-- The decoder's view of the mode once a mode instruction has passed decode (R217). -/
def setView (on : Bool) (r : Res) : Res :=
  match r with
  | .ok s => .ok (updH s fun h => { h with mview := on })
  | x => x

def opMenter : VOp where
  check := fun _ view _ => if view then some (3, 0x03) else none
  run := fun s _ => .done (updH s fun h => { h with mmode := true }) 0
def opMexit : VOp where
  check := inMatrix fun _ => none
  run := fun s _ => .done (updH s fun h => { h with mmode := false }) 0
def opMzero : VOp where
  check := inMatrix fun _ => none
  run := fun s _ => .done (updH s fun h => tileWrite h ((tilePlaces h).map (fun p => (p, 0)))) 0

def execMenter (s : State) : Out := finish (setView true (vissue .menter opMenter 0 0 s))
def execMexit (s : State) : Out := finish (setView false (vissue .mexit opMexit 0 0 s))
def execMzero (s : State) : Out := vexec0 .mzero opMzero s

/-! ### mop and mopv (R224-R234) -/

/-- Element `n` of width `b` of a packed number. -/
def packed (x b n : Nat) : Nat := x / 2 ^ (b * n) % 2 ^ b

/-- R225: the windows a `mop` reads, with the bytes it takes from each. -/
def mopNeeds (w : Nat) (wa wb ws fmt k : Nat) : List (Nat × Nat) :=
  [(wa, k * aStep w fmt), (wb, k * bStep fmt)] ++
    (if tileBlocks fmt then [(ws, k / 32 * (4 * w + 128))] else [])

/-- R224: the first window that cannot serve a `mop`, in the order wa, wb, ws (log entry 44: DESIGN CHOICE). -/
def mopBad (s : State) (needs : List (Nat × Nat)) : Option Nat :=
  (needs.zipIdx.find? (fun p =>
    let w := getWin s s.hart.core p.1.1
    w.mode != 3 || w.owner != s.hart.hid || w.size < roundRow p.1.2 ||
      (needs.take p.2).any (fun q => q.1 == p.1.1))).map (fun p => p.1.1)

/-- R226: every window holds what the `mop` needs. -/
def mopReady (s : State) (needs : List (Nat × Nat)) : Bool :=
  needs.all (fun p => p.2 ≤ (getWin s s.hart.core p.1).avail)

/-- The bytes of the strings, as numbers. -/
def mopStrings (s : State) (needs : List (Nat × Nat)) : List (Option Nat) :=
  needs.map (fun p =>
    (readWindow s s.hart.core p.1 (getWin s s.hart.core p.1).head p.2).map natOfBytes)

/-- R228: each window's head moves past the string, in units of 64 B. -/
def mopPop (s : State) (needs : List (Nat × Nat)) : State :=
  needs.foldl (fun s p =>
    let w := getWin s s.hart.core p.1
    setWin s s.hart.core p.1 { w with head := w.head + BitVec.ofNat 32 (roundRow p.2) }) s

/-- R225: the operands in the strings of the windows. -/
def windowOps (w fmt : Nat) (A B S : Nat) : MatOps where
  a := fun i s => packed A (matWidth fmt) (s * (2 * w) + i)
  b := fun s j => packed B (matWidth fmt) (s * matCols fmt + j)
  sa := fun i g => packed S 16 (g * (2 * w + 64) + i)
  sb := fun j g => packed S 16 (g * (2 * w + 64) + 2 * w + j)

/-- R224-R228: a `mop` at the head of its queue. -/
def mopRun (wa wb ws fmt k : Nat) (s : State) (e : QEntry) : VRes :=
  let needs := mopNeeds s.hart.width wa wb ws fmt k
  match mopBad s needs with
  | some n => .fault s e ⟨0x1A, BitVec.ofNat 64 n⟩
  | none =>
    if !mopReady s needs then .more s e
    else
      match mopStrings s needs with
      | some a :: some b :: rest =>
        if rest.any (fun o => o == none) then .more (askFence s s.hart.core) e
        else
          let r := accumulate fmt k (windowOps s.hart.width fmt a b (rest.headD none |>.getD 0)) s.hart
          .done (mopPop (updH s fun _ => r.1) needs) r.2
      | _ => .more (askFence s s.hart.core) e

def opMop (wa wb ws fmt : BitVec 4) (ks : BitVec 8) : VOp where
  check := inMatrix fun _ => none
  run := mopRun wa.toNat wb.toNat ws.toNat fmt.toNat (ks.toNat + 1)

/-- R234: the registers of a run of `n` bytes. -/
def runRegs (w n : Nat) : Nat := (n + 32 * w - 1) / (32 * w)

def opMopv (va vb : BitVec 6) (fmt : BitVec 4) (ks : BitVec 2) : VOp where
  check := inMatrix fun w =>
    if 48 < va.toNat + runRegs w (2 ^ ks.toNat * aStep w fmt.toNat) ||
       48 < vb.toNat + runRegs w (2 ^ ks.toNat * bStep fmt.toNat) then some (2, 0x02) else none
  run := fun s _ =>
    let h := s.hart
    let b := matWidth fmt.toNat
    let o : MatOps := {
      a := fun i s => getElem h va.toNat b (s * (2 * h.width) + i)
      b := fun s j => getElem h vb.toNat b (s * matCols fmt.toNat + j)
      sa := fun _ _ => 0
      sb := fun _ _ => 0 }
    let r := accumulate fmt.toNat (2 ^ ks.toNat) o h
    .done (updH s fun _ => r.1) r.2

def execMop (wa wb ws fmt : BitVec 4) (ks : BitVec 8) (s : State) : Out :=
  vexec0 (.mop wa wb ws fmt ks) (opMop wa wb ws fmt ks) s
def execMopv (va vb : BitVec 6) (fmt : BitVec 4) (ks : BitVec 2) (s : State) : Out :=
  vexec0 (.mopv va vb fmt ks) (opMopv va vb fmt ks) s

/-! ### mld and mst (R235-R238) -/

/-- R236: the tile address is outside the limits. -/
def tileBad (w fmt B T : Nat) : Bool :=
  B % 32 != 0 || T % 32 != 0 || T < tileRowBytes fmt || 0x80000 < tileExtent w fmt B T

/-- R236: the place of a block's scale. -/
def scaleAt (w B T i blk : Nat) : Nat := B + 2 * w * T + 4 * i + 2 * blk

/-- R237: an accumulator element from a memory element. -/
def loadTile (fmt : Nat) (rm : RM) (scale x : Nat) : FRes :=
  if fmt = 6 then .plain (wrapN 32 (sx 8 x))
  else if fmt = 0xA then .plain (wrapN 32 (sx 16 x * 2 ^ 15))
  else if 0xB ≤ fmt then .plain x
  else
    let f := matFmt fmt
    if tileBlocks fmt then
      if scaleZero scale then .plain 0
      else if scaleNan scale then ⟨f32.nan, fNv⟩
      else
        let r := roundV f32 rm (mulV (f.unpack x) (scaleVal scale)).1 false
        ⟨r.bits, r.flags ||| snanFlag f [x]⟩
    else fpConv f f32 rm false x

/-- Bits of a memory element that column `j` of the tile takes: a component, for complex formats. -/
def tileBits (fmt : Nat) : Nat := if matComplex fmt then 16 else matWidth fmt

/-- The rows of the tile in memory, as numbers. -/
def tileRows (s : State) (fmt B T : Nat) : List (Option Nat) :=
  (List.range (2 * s.hart.width)).map (fun i =>
    (readLoc s 0 (spadLoc s.hart.core (B + i * T)) (tileRowBytes fmt)).map natOfBytes)

/-- The scale words of the rows, as numbers of two words. -/
def tileScales (s : State) (fmt B T : Nat) : List (Option Nat) :=
  (List.range (2 * s.hart.width)).map (fun i =>
    if tileBlocks fmt then
      (readLoc s 0 (spadLoc s.hart.core (scaleAt s.hart.width B T i 0)) 4).map natOfBytes
    else some 0)

def opMld (_sa _sb : BitVec 5) (fmt : BitVec 4) : VOp where
  check := inMatrix fun _ => none
  run := fun s e =>
    let f := fmt.toNat
    if tileBad s.hart.width f e.sa.toNat e.sb.toNat then .fault s e ⟨0x1A, e.sa⟩
    else
      let rows := tileRows s f e.sa.toNat e.sb.toNat
      let scales := tileScales s f e.sa.toNat e.sb.toNat
      if rows.any (fun o => o == none) || scales.any (fun o => o == none) then
        .more (askFence s s.hart.core) e
      else
        let r := (tilePlaces s.hart).map (fun p =>
          (p, loadTile f e.mode (packed ((scales.getD p.1 none).getD 0) 16 (p.2 / 32))
            (packed ((rows.getD p.1 none).getD 0) (tileBits f) p.2)))
        .done (updH s fun h => tileWrite h (r.map (fun q => (q.1, q.2.bits))))
          (r.foldl (fun x q => x ||| q.2.flags) 0)

/-- R238: a memory element from an accumulator element, but for block formats. -/
def storeTile (fmt : Nat) (rm : RM) (sat : Bool) (x : Nat) : FRes :=
  if fmt = 6 then .plain (wrapN 8 (satS 8 (sx 32 x)))
  else if fmt = 0xA then
    ⟨wrapN 16 (satS 16 (rshr (sx 32 x) 15 .rne)), flagIf (x % 2 ^ 15 != 0) fNx⟩
  else if 0xB ≤ fmt then .plain x
  else fpConv f32 (matFmt fmt) rm sat x

/-- The elements of a row packed into its bytes. -/
def packRow (b : Nat) (l : List Nat) : Nat := l.foldr (fun x n => x + 2 ^ b * n) 0

/-- R238: row `i` of the tile in memory: its bytes, its scale words, and the flags. -/
def storeRow (h : Hart) (fmt : Nat) (rm : RM) (sat : Bool) (i : Nat) : List Byte × List Byte × Flags :=
  let xs := (List.range 64).map (fun j => tileGet h i j)
  if tileBlocks fmt then
    let blk (n : Nat) := toBlock (matFmt fmt) rm sat (((xs.drop (32 * n)).take 32).map f32.unpack)
    (bytesOfNat (tileRowBytes fmt) (packRow (matWidth fmt) ((blk 0).2.1 ++ (blk 1).2.1)),
     bytesOfNat 2 (blk 0).1 ++ bytesOfNat 2 (blk 1).1, (blk 0).2.2 ||| (blk 1).2.2)
  else
    let rs := xs.map (storeTile fmt rm sat)
    (bytesOfNat (tileRowBytes fmt) (packRow (tileBits fmt) (rs.map FRes.bits)), [],
     rs.foldl (fun f r => f ||| r.flags) 0)

/-- Bytes written into the own scratchpad; a part of a word that holds an uncorrectable error is dropped
(R265), and no data-error fault follows (R242; log entry 38: DEDUCED). -/
def putPiece (s : State) (off : Nat) (bs : List Byte) : State := (writeParts s 0 (spadLoc s.hart.core off) bs).1

/-- Bytes written into the own scratchpad in units; a guarded unit is passed over (R230). -/
def putUnits (unit : Nat) : Nat → Nat → List Byte → State × Option Trap → State × Option Trap
  | 0, _, _, r => r
  | n + 1, off, bs, (s, g) =>
    if bs = [] then (s, g)
    else
      let piece := bs.take unit
      match guardHit s s.hart.key s.hart.core off piece.length with
      | some o => putUnits unit n (off + unit) (bs.drop unit) (s, g.or (some (guardTrap s.hart.core o)))
      | none =>
        putUnits unit n (off + unit) (bs.drop unit) (putPiece s off piece, g)

/-- A run of bytes written into the own scratchpad, element by element where the guard stops some. -/
def putRow (unit off : Nat) (bs : List Byte) (r : State × Option Trap) : State × Option Trap :=
  if bs = [] then r
  else if guardHit r.1 r.1.hart.key r.1.hart.core off bs.length = none then
    (putPiece r.1 off bs, r.2)
  else putUnits unit bs.length off bs r

/-- The bytes of an element of a memory format. -/
def tileUnit (fmt : Nat) : Nat := max 1 (if 0xB ≤ fmt then 4 else matWidth fmt / 8)

/-- `mst`: the elements of every row in row-major order, then the scale words of the rows (log entry 44:
DESIGN CHOICE). -/
def opMst (_sa _sb : BitVec 5) (fmt : BitVec 4) : VOp where
  check := inMatrix fun _ => none
  run := fun s e =>
    let f := fmt.toNat
    let B := e.sa.toNat
    let T := e.sb.toNat
    if tileBad s.hart.width f B T then .fault s e ⟨0x1A, e.sa⟩
    else
      let rows := (List.range (2 * s.hart.width)).map (fun i => (i, storeRow s.hart f e.mode e.satfp i))
      let r1 := rows.foldl (fun r p => putRow (tileUnit f) (B + p.1 * T) p.2.1 r) (s, none)
      let r2 := rows.foldl (fun r p => putRow 2 (scaleAt s.hart.width B T p.1 0) p.2.2.1 r) r1
      .done (match r2.2 with | none => r2.1 | some t => post r2.1 true t)
        (rows.foldl (fun x p => x ||| p.2.2.2) 0)

def execMld (sa sb : BitVec 5) (fmt : BitVec 4) (s : State) : Out :=
  vexec (.mld sa sb fmt) (opMld sa sb fmt) (rdS s sa) (rdS s sb) s
def execMst (sa sb : BitVec 5) (fmt : BitVec 4) (s : State) : Out :=
  vexec (.mst sa sb fmt) (opMst sa sb fmt) (rdS s sa) (rdS s sb) s

/-! ### mcvt (R239) -/

/-- R97: an exact value converted to i32. -/
def valueToI32 (rm : RM) (v : FVal) : FRes :=
  match v with
  | .nan => ⟨0, fNv⟩
  | .inf n => ⟨if n then 0x80000000 else 0x7FFFFFFF, fNv⟩
  | .fin n m e =>
    let r := toIntV rm 0 n m e
    if r.1 < -(2 ^ 31) then ⟨0x80000000, fNv⟩
    else if 2 ^ 31 ≤ r.1 then ⟨0x7FFFFFFF, fNv⟩
    else ⟨wrapN 32 r.1, flagIf r.2 fNx⟩

/-- R239: one accumulator element converted with the scale `f`. -/
def convertAcc (toF32 : Bool) (rm : RM) (f x : Nat) : FRes :=
  if toF32 then
    let p := mulV (.fin (sx 32 x < 0) (sx 32 x).natAbs 0) (f32.unpack f)
    let r := roundV f32 rm p.1 false
    ⟨r.bits, r.flags ||| flagIf p.2 fNv ||| snanFlag f32 [f]⟩
  else valueToI32 rm (mulV (f32.unpack x) (f32.unpack f)).1

def opMcvt (_sa : BitVec 5) (fmt : BitVec 4) : VOp where
  check := inMatrix fun _ => none
  run := fun s e =>
    let r := (tilePlaces s.hart).map (fun p =>
      (p, convertAcc (fmt == 0xB) e.mode (e.sa.toNat % 2 ^ 32) (tileGet s.hart p.1 p.2)))
    .done (updH s fun h => tileWrite h (r.map (fun q => (q.1, q.2.bits))))
      (r.foldl (fun x q => x ||| q.2.flags) 0)

def execMcvt (sa : BitVec 5) (fmt : BitVec 4) (s : State) : Out :=
  vexec (.mcvt sa fmt) (opMcvt sa fmt) (rdS s sa) 0 s

end Sys2Proof.Machine
end

