-- ==== Sys2Proof/Machine/VecTile.lean ====
section
/-! DEFINITION. The tile-view small-matrix steps (R207-R210). -/

namespace Sys2Proof.Machine

/-- R207: the accepted types: cf32, cf16 and cbf16. -/
def tileType (t : Nat) : Bool := 0x14 ≤ t && t ≤ 0x16

/-- R207: a matrix of a tile as the step sees it: entry (i, j). -/
abbrev CMat := Nat → Nat → CNum

/-- R207: a component: one exact value, rounded once; exactly zero is +0. -/
def tileRound (f : FFmt) (rm : RM) (v : FVal) (st : Bool) (fl : Flags) : FRes :=
  if v.isZero && !st then ⟨0, fl⟩
  else
    let r := roundV f rm v st
    ⟨r.bits, r.flags ||| fl⟩

/-- A component that is an exact sum. -/
def tileComp (f : FFmt) (rm : RM) (ts : List CTerm) : FRes :=
  let x := compExact f false ts
  tileRound f rm x.1 false x.2

/-- A complex result of exact sums. -/
def tileSum (t : Nat) (rm : RM) (a : CSum) : FRes :=
  pairRes (typeWidth t / 2) (tileComp (compFmt t) rm a.re) (tileComp (compFmt t) rm a.im)

/-- The default NaN in both components, with flags. -/
def tileNan (t : Nat) (fl : Flags) : FRes :=
  pairRes (typeWidth t / 2) ⟨(compFmt t).nan, fl⟩ ⟨(compFmt t).nan, fl⟩

/-- The number is packed as it stands. -/
def tileCopy (t : Nat) (a : CNum) : FRes := .plain (a.im * 2 ^ (typeWidth t / 2) + a.re)

/-- R207: the order of the matrices. -/
def tileOrder (l : LenRegs) : Nat := isqrt l.colc

/-- R207: a step on each selected matrix; `f` gives entry (i, j) of the result from the order and
the matrices of `va` and `vb`. -/
def tileOp (regs : LenRegs → List VRegs) (vd va vb : BitVec 6) (k : BitVec 3)
    (f : QEntry → Nat → CMat → CMat → Nat → Nat → FRes) : VOp where
  check := fun _ view l => vcheck view (grpReg l vd :: grpReg l va :: regs l) (tileType l.type && l.colc ≤ 288)
  run := fun s e =>
    let b := e.len.width
    let h := s.hart
    let n := tileOrder e.len
    putResults s vd b (((List.range (if e.len.vl = 0 then 0 else e.len.rowc)).filter (fun r => sel h k (r * e.len.colc))).flatMap
      (fun r => (List.range (n * n)).map (fun p =>
        let m (v : BitVec 6) : CMat := fun i j => cnum b (getElem h v.toNat b (r * e.len.colc + i * n + j))
        (r * e.len.colc + p, f e n (m va) (m vb) (p / n) (p % n)))))

/-! ### Gauss-Jordan (R208) -/

/-- An exact dyadic number m · 2^e. -/
structure Dyad where
  m : Int
  e : Int
  deriving DecidableEq, Repr

/-- The exact value of finite bits. -/
def dyadOf (f : FFmt) (x : Nat) : Dyad :=
  match f.unpack x with
  | .fin n m e => ⟨if n then -(m : Int) else m, e⟩
  | _ => ⟨0, 0⟩

/-- The exact product. -/
def Dyad.mul (a b : Dyad) : Dyad := ⟨a.m * b.m, a.e + b.e⟩

/-- The exact sum. -/
def Dyad.add (a b : Dyad) : Dyad :=
  let q := min a.e b.e
  ⟨a.m * (2 ^ (a.e - q).toNat : Nat) + b.m * (2 ^ (b.e - q).toNat : Nat), q⟩

/-- The negated number. -/
def Dyad.minus (a : Dyad) : Dyad := ⟨-a.m, a.e⟩

/-- An exact complex number. -/
structure CDyad where
  re : Dyad
  im : Dyad
  deriving DecidableEq, Repr

/-- The exact value of a complex element. -/
def cdyad (f : FFmt) (a : CNum) : CDyad := ⟨dyadOf f a.re, dyadOf f a.im⟩

/-- The exact product. -/
def CDyad.mul (a b : CDyad) : CDyad :=
  ⟨(a.re.mul b.re).add (a.im.mul b.im).minus, (a.re.mul b.im).add (a.im.mul b.re)⟩

/-- The exact difference. -/
def CDyad.sub (a b : CDyad) : CDyad := ⟨a.re.add b.re.minus, a.im.add b.im.minus⟩

/-- A number by a real factor. -/
def CDyad.scale (a : CDyad) (d : Dyad) : CDyad := ⟨a.re.mul d, a.im.mul d⟩

/-- The conjugate. -/
def CDyad.conj (a : CDyad) : CDyad := ⟨a.re, a.im.minus⟩

/-- The quotient of exact numbers (a positive divisor), rounded once. -/
def dyadDiv (f : FFmt) (rm : RM) (a d : Dyad) : FRes :=
  if a.m = 0 then .plain 0
  else
    let q := divMag (f.mw + 4) a.m.natAbs d.m.natAbs
    roundV f rm (.fin (a.m < 0) q.1 (a.e - d.e - q.2.1)) q.2.2

/-- The exact complex quotient of `a` by `p`, as numerator and real divisor, rounded. -/
def cdyadDiv (t : Nat) (rm : RM) (num : CDyad) (d : Dyad) : FRes :=
  pairRes (typeWidth t / 2) (dyadDiv (compFmt t) rm num.re d) (dyadDiv (compFmt t) rm num.im d)

/-- R208: a component is infinite or a NaN. -/
def notFinite (f : FFmt) (a : CNum) : Bool :=
  let bad (x : Nat) : Bool := match f.unpack x with | .fin _ _ _ => false | _ => true
  bad a.re || bad a.im

/-- R208: entry (i, j) of Gauss-Jordan step `k`. -/
def gaussJordan (t : Nat) (rm : RM) (k : Nat) (A : CMat) (i j : Nat) : FRes :=
  let f := compFmt t
  let p := A k k
  let P := cdyad f p
  let D := (P.re.mul P.re).add (P.im.mul P.im)
  let reads : List CNum :=
    if i = k then (if j = k then [p] else [p, A k j])
    else if j = k then [p, A i k] else [p, A i j, A i k, A k j]
  let num : CDyad :=
    if i = k then (if j = k then P.conj else (cdyad f (A k j)).mul P.conj)
    else if j = k then (CDyad.sub ⟨⟨0, 0⟩, ⟨0, 0⟩⟩ ((cdyad f (A i k)).mul P.conj))
    else ((cdyad f (A i j)).scale D).sub (((cdyad f (A i k)).mul (cdyad f (A k j))).mul P.conj)
  if (f.unpack p.re).isZero && (f.unpack p.im).isZero then tileNan t fDz
  else if reads.any (notFinite f) then tileNan t fNv
  else cdyadDiv t rm num D

def opVtgj (vd va : BitVec 6) (_sb : BitVec 5) (k : BitVec 3) : VOp :=
  tileOp (fun _ => []) vd va va k fun e n A _ i j =>
    if n ≤ e.sb.toNat then tileCopy e.len.type (A i j)
    else gaussJordan e.len.type e.mode e.sb.toNat A i j

/-! ### Cholesky (R209) -/

/-- A component divided by the pivot's root, rounded. -/
def cholDiv (f : FFmt) (rm : RM) (a d : Nat) : FRes :=
  let q := divV (f.mw + 4) (f.unpack a) (f.unpack d)
  tileRound f rm q.1 q.2.1 (q.2.2 ||| snanFlag f [a])

/-- R209: L[i][k], with its flags. -/
def cholColumn (t : Nat) (rm : RM) (k : Nat) (A : CMat) (d i : Nat) : FRes :=
  pairRes (typeWidth t / 2) (cholDiv (compFmt t) rm (A i k).re d) (cholDiv (compFmt t) rm (A i k).im d)

/-- R209: entry (i, j) of Cholesky step `k`. -/
def cholesky (t : Nat) (rm : RM) (k : Nat) (A : CMat) (i j : Nat) : FRes :=
  let f := compFmt t
  let w := typeWidth t / 2
  let v := f.unpack (A k k).re
  let root := fpSqrt f rm (A k k).re
  if j < k || i < j || i < k then tileCopy t (A i j)
  else if v.isNan || v.isNeg || v.isZero then tileNan t fNv
  else if j = k then (if i = k then pairRes w root (.plain 0) else cholColumn t rm k A root.bits i)
  else
    let L (r : Nat) : CNum := cnum (2 * w) (cholColumn t rm k A root.bits r).bits
    tileSum t rm ((cTerm (A i j)).add (cProdJ (L i) (L j)).minus)

def opVtchol (vd va : BitVec 6) (_sb : BitVec 5) (k : BitVec 3) : VOp :=
  tileOp (fun _ => []) vd va va k fun e n A _ i j =>
    if n ≤ e.sb.toNat then tileCopy e.len.type (A i j)
    else cholesky e.len.type e.mode e.sb.toNat A i j

/-! ### Products (R210) -/

/-- The sum of `n` exact complex terms. -/
def cSumOf (n : Nat) (f : Nat → CSum) : CSum :=
  (List.range n).foldl (fun z m => z.add (f m)) ⟨[], []⟩

def opVtmul (vd va vb : BitVec 6) (k : BitVec 3) : VOp :=
  tileOp (fun l => [grpReg l vb]) vd va vb k fun e n A B i j =>
    tileSum e.len.type e.mode (cSumOf n (fun m => cProd (A i m) (B m j)))
/-- R210: each diagonal imaginary part is +0. -/
def opVtherm (vd va : BitVec 6) (k : BitVec 3) : VOp :=
  tileOp (fun _ => []) vd va va k fun e n A _ i j =>
    let z := cSumOf n (fun m => cProdJ (A m j) (A m i))
    tileSum e.len.type e.mode (if i = j then ⟨z.re, []⟩ else z)

def execVtgj (vd va : BitVec 6) (sb : BitVec 5) (k : BitVec 3) (s : State) : Out :=
  vexec (.vtgj vd va sb k) (opVtgj vd va sb k) 0 (rdS s sb) s
def execVtchol (vd va : BitVec 6) (sb : BitVec 5) (k : BitVec 3) (s : State) : Out :=
  vexec (.vtchol vd va sb k) (opVtchol vd va sb k) 0 (rdS s sb) s
def execVtmul (vd va vb : BitVec 6) (k : BitVec 3) (s : State) : Out :=
  vexec0 (.vtmul vd va vb k) (opVtmul vd va vb k) s
def execVtherm (vd va : BitVec 6) (k : BitVec 3) (s : State) : Out :=
  vexec0 (.vtherm vd va k) (opVtherm vd va k) s

end Sys2Proof.Machine
end

