-- ==== Sys2Proof/Machine/Queue.lean ====
section
/-! DEFINITION. The queue instructions by constructor, and the head of a hart's queue (R160, R310,
R315). -/

namespace Sys2Proof.Machine

/-- What an instruction of a queue does (R160). -/
def vopOf (i : Instr) : Option VOp :=
  match i with
  | .vld vd sa x k ew => some (opVld vd sa x k ew)
  | .vlds vd sa sb k ew => some (opVlds vd sa sb k ew)
  | .vldx vd sa x k ew => some (opVldx vd sa x k ew)
  | .vld2d vd sa sb k ew => some (opVld2d vd sa sb k ew)
  | .vldw vd wn chunk k ew => some (opVldw vd wn chunk k ew)
  | .vldl vd sa x k ew => some (opVldl vd sa x k ew)
  | .vst vd sa x k ew => some (opVst vd sa x k ew)
  | .vsts vd sa sb k ew => some (opVsts vd sa sb k ew)
  | .vstx vd sa x k ew => some (opVstx vd sa x k ew)
  | .vst2d vd sa sb k ew => some (opVst2d vd sa sb k ew)
  | .vstc vd sa x k ew => some (opVstc vd sa x k ew)
  | .vamoAdd vd sa x k ew => some (opVamoAdd vd sa x k ew)
  | .vamoMin vd sa x k ew => some (opVamoMin vd sa x k ew)
  | .vamoMax vd sa x k ew => some (opVamoMax vd sa x k ew)
  | .vamoOr vd sa x k ew => some (opVamoOr vd sa x k ew)
  | .vamoXor vd sa x k ew => some (opVamoXor vd sa x k ew)
  | .vadd vd va vb k => some (opVadd vd va vb k)
  | .vsub vd va vb k => some (opVsub vd va vb k)
  | .vmin vd va vb k => some (opVmin vd va vb k)
  | .vmax vd va vb k => some (opVmax vd va vb k)
  | .vminn vd va vb k => some (opVminn vd va vb k)
  | .vmaxn vd va vb k => some (opVmaxn vd va vb k)
  | .vabs vd va k => some (opVabs vd va k)
  | .vand vd va vb k => some (opVand vd va vb k)
  | .vor vd va vb k => some (opVor vd va vb k)
  | .vxor vd va vb k => some (opVxor vd va vb k)
  | .vsll vd va vb k => some (opVsll vd va vb k)
  | .vsrl vd va vb k => some (opVsrl vd va vb k)
  | .vsra vd va vb k => some (opVsra vd va vb k)
  | .vsadd vd va vb k => some (opVsadd vd va vb k)
  | .vssub vd va vb k => some (opVssub vd va vb k)
  | .vsaddn vd va vb k => some (opVsaddn vd va vb k)
  | .vssubn vd va vb k => some (opVssubn vd va vb k)
  | .vnclip vd va vb k => some (opVnclip vd va vb k)
  | .vwadd vd va vb k => some (opVwadd vd va vb k)
  | .vwmul vd va vb k => some (opVwmul vd va vb k)
  | .vmacc vd va vb k => some (opVmacc vd va vb k)
  | .vmul vd va vb k => some (opVmul vd va vb k)
  | .vmulh vd va vb k => some (opVmulh vd va vb k)
  | .vmulhn vd va vb k => some (opVmulhn vd va vb k)
  | .vdiv vd va vb k => some (opVdiv vd va vb k)
  | .vdivn vd va vb k => some (opVdivn vd va vb k)
  | .vrem vd va vb k => some (opVrem vd va vb k)
  | .vremn vd va vb k => some (opVremn vd va vb k)
  | .vcmp cond kd va vb k => some (opVcmp cond kd va vb k)
  | .vcmpn cond kd va vb k => some (opVcmpn cond kd va vb k)
  | .vfcmp cond kd va vb k => some (opVfcmp cond kd va vb k)
  | .kand kd ka kb => some (opKand kd ka kb)
  | .kor kd ka kb => some (opKor kd ka kb)
  | .kxor kd ka kb => some (opKxor kd ka kb)
  | .kandn kd ka kb => some (opKandn kd ka kb)
  | .knot kd ka => some (opKnot kd ka)
  | .kmov kd ka => some (opKmov kd ka)
  | .kpopc sd ka => some (opKpopc sd ka)
  | .kfirst sd ka => some (opKfirst sd ka)
  | .vmv vd va k => some (opVmv vd va k)
  | .vslideup vd va sb k => some (opVslideup vd va sb k)
  | .vslidedn vd va sb k => some (opVslidedn vd va sb k)
  | .vslide1up vd va sb k => some (opVslide1up vd va sb k)
  | .vslide1dn vd va sb k => some (opVslide1dn vd va sb k)
  | .vgather vd va vb k => some (opVgather vd va vb k)
  | .vcompress vd va k => some (opVcompress vd va k)
  | .vexpand vd va k => some (opVexpand vd va k)
  | .vmerge vd va vb k => some (opVmerge vd va vb k)
  | .vid vd k => some (opVid vd k)
  | .viota vd ka k => some (opViota vd ka k)
  | .vzip vd va vb => some (opVzip vd va vb)
  | .vunzip vd va => some (opVunzip vd va)
  | .vtrn vd va => some (opVtrn vd va)
  | .vbcast vd sb k => some (opVbcast vd sb k)
  | .vmvs sd va sb => some (opVmvs sd va sb)
  | .vins vd sa sb => some (opVins vd sa sb)
  | .vfadd vd va vb k => some (opVfadd vd va vb k)
  | .vfsub vd va vb k => some (opVfsub vd va vb k)
  | .vfmul vd va vb k => some (opVfmul vd va vb k)
  | .vfdiv vd va vb k => some (opVfdiv vd va vb k)
  | .vfsqrt vd va k => some (opVfsqrt vd va k)
  | .vfmin vd va vb k => some (opVfmin vd va vb k)
  | .vfmax vd va vb k => some (opVfmax vd va vb k)
  | .vfsgnj vd va vb k => some (opVfsgnj vd va vb k)
  | .vfmadd vd va vb k => some (opVfmadd vd va vb k)
  | .vfmsub vd va vb k => some (opVfmsub vd va vb k)
  | .vfnmadd vd va vb k => some (opVfnmadd vd va vb k)
  | .vfnmsub vd va vb k => some (opVfnmsub vd va vb k)
  | .vfwmul vd va vb k => some (opVfwmul vd va vb k)
  | .vfwmacc vd va vb k => some (opVfwmacc vd va vb k)
  | .vfabs vd va k => some (opVfabs vd va k)
  | .vfneg vd va k => some (opVfneg vd va k)
  | .vfclass vd va k => some (opVfclass vd va k)
  | .vfrec vd va k => some (opVfrec vd va k)
  | .vfrsqrt vd va k => some (opVfrsqrt vd va k)
  | .vfcvt vd va dt k => some (opVfcvt vd va dt k)
  | .vfcvtRtz vd va dt k => some (opVfcvtRtz vd va dt k)
  | .vfsin vd va k => some (opVfsin vd va k)
  | .vfcos vd va k => some (opVfcos vd va k)
  | .vfsint vd va k => some (opVfsint vd va k)
  | .vfcost vd va k => some (opVfcost vd va k)
  | .vfexp2 vd va k => some (opVfexp2 vd va k)
  | .vflog2 vd va k => some (opVflog2 vd va k)
  | .vfatan2 vd va vb k => some (opVfatan2 vd va vb k)
  | .vftanh vd va k => some (opVftanh vd va k)
  | .vcmul vd va vb k => some (opVcmul vd va vb k)
  | .vcmac vd va vb k => some (opVcmac vd va vb k)
  | .vcmacj vd va vb k => some (opVcmacj vd va vb k)
  | .vcconj vd va k => some (opVcconj vd va k)
  | .vcabs2 vd va k => some (opVcabs2 vd va k)
  | .vcrot vd va vb k => some (opVcrot vd va vb k)
  | .vbfly vd va vb k => some (opVbfly vd va vb k)
  | .vbfly4 vd va vb k => some (opVbfly4 vd va vb k)
  | .vtgj vd va sb k => some (opVtgj vd va sb k)
  | .vtchol vd va sb k => some (opVtchol vd va sb k)
  | .vtmul vd va vb k => some (opVtmul vd va vb k)
  | .vtherm vd va k => some (opVtherm vd va k)
  | .vredsum sd va sb k => some (opVredsum sd va sb k)
  | .vredmin sd va sb k => some (opVredmin sd va sb k)
  | .vredmax sd va sb k => some (opVredmax sd va sb k)
  | .vfredsum sd va sb k => some (opVfredsum sd va sb k)
  | .vfredmin sd va sb k => some (opVfredmin sd va sb k)
  | .vfredmax sd va sb k => some (opVfredmax sd va sb k)
  | .vcredsum sd va sb k => some (opVcredsum sd va sb k)
  | .vredsumw sd va sb k => some (opVredsumw sd va sb k)
  | .mop wa wb ws fmt ks => some (opMop wa wb ws fmt ks)
  | .mopv va vb fmt ks => some (opMopv va vb fmt ks)
  | .mld sa sb fmt => some (opMld sa sb fmt)
  | .mst sa sb fmt => some (opMst sa sb fmt)
  | .mcvt sa fmt => some (opMcvt sa fmt)
  | .menter => some (opMenter)
  | .mexit => some (opMexit)
  | .mzero => some (opMzero)
  | _ => none

/-- The oldest instruction in the queues of the hart in focus runs, unless a trap is pending. -/
def runQueue (s : State) : State :=
  match s.hart.queue with
  | [] => s
  | e :: q => if s.hart.pend = [] && e.live then runHead (vopOf e.instr) e q s else s

end Sys2Proof.Machine
end

