-- ==== Sys2Proof/Machine/Ticket.lean ====
section
/-! DEFINITION. Tickets (R442, R443). -/

namespace Sys2Proof.Machine

/-- The location is a word of a global page: of this device's memory, of the twin's or of the host's. -/
def isGlobal (l : Nat) : Bool := isDram l || isHost l || (2 ^ 49 ≤ l && l < 2 ^ 50)

/-- R442: a ticket word: its location and key tag.  Its address is resolved first (R248); then a site
address or a host page raises the atomic-target fault. -/
def ticketWord (s : State) (ea : Dword) : XRes (Nat × Nat) :=
  (resolve s (acc s .other .write) ea 8).bind fun t s1 =>
    match t with
    | .mem l k => if isHost l || !isGlobal l then .fault ⟨0x17, ea⟩ s1 else .ok (l, k) s1
    | _ => .fault ⟨0x17, ea⟩ s1

/-- The word as it stands. -/
def ticketRead (s : State) (ea : Dword) : XRes (Nat × Nat × Dword) :=
  (ticketWord s ea).bind fun p s1 =>
    match readNat s1 p.2 p.1 8 with
    | some v => .ok (p.1, p.2, BitVec.ofNat 64 v) s1
    | none => .fault ⟨0x16, ea⟩ s1

/-- R443: `tkt.take` and `tkt.give`: the word goes up by one, indivisibly, as by an atomic (R295). -/
def ticketStep (sd sa : BitVec 5) (s : State) : Res :=
  coherent s .write (rdS s sa) 8 fun s =>
    ofLoad (ticketRead s (rdS s sa)) fun p s1 =>
      let s2 := (writeLoc s1 p.2.1 p.1 (bytesOfNat 8 (p.2.2 + 1).toNat)).getD s1
      .ok (wrS (dGone s2 s2.hart.core p.1) sd p.2.2)

def execTktTake (sd sa : BitVec 5) (s : State) : Out := finish (ticketStep sd sa s)
/-- R443: the release comes before the write. -/
def execTktGive (sd sa : BitVec 5) (s : State) : Out :=
  finish (afterQueue (.tktGive sd sa) s fun s => ticketStep sd sa s)

/-! ### Watches (R443) -/

/-- The slice that holds a watch: those of the twin count apart. -/
def watchSlice (l : Nat) : Nat := if isDram l then homeSlice l else 24 + homeSlice (l % 2 ^ 49)

/-- A hart's watches taken away. -/
def unwatch (s : State) (key : Nat) : State :=
  { s with watches := (s.watches.map (fun p => (p.1, p.2.filter (fun w => w.hart != key)))).filter (fun p => p.2 != []) }

/-- The hart still waits. -/
def stillWaits (s : State) (key : Nat) : Bool := (getHart s key).block == .wait

/-- R443: a watch placed, if its slice has one of its 256 free. -/
def placeWatch (s : State) (l tag : Nat) (ticket : Dword) : State :=
  let w : Watch := { hart := s.hart.key, loc := l, tag := tag, ticket := ticket }
  let cur := (mapGet [] s.watches (watchSlice l)).filter (fun x => stillWaits s x.hart || x.hart == s.hart.key)
  if cur.any (fun x => x.hart == w.hart && x.loc == l && x.ticket == ticket) then s
  else if cur.length < 256 then { s with watches := mapSet [] s.watches (watchSlice l) (cur ++ [w]) }
  else s

/-- A watch of the hart in focus has read the ticket. -/
def sawTicket (s : State) (ticket : Dword) : Bool :=
  s.watches.any (fun p => p.2.any (fun w => w.hart == s.hart.key && w.ticket == ticket && w.seen))

/-- The hart has a watch. -/
def hasWatch (s : State) (key : Nat) : Bool := s.watches.any (fun p => p.2.any (fun w => w.hart == key))

/-- A wait whose page is being translated is remembered, so that its limit can end it (R433). -/
def keepWait (i : Instr) (r : Res) : Res :=
  match r with
  | .stall .walk s => stallOn .walk i s
  | r => r

/-- R443: a wait on a ticket: a fresh one drops what an earlier wait left.  It ends once a read of the word, by
the hart or by its watch, has returned the ticket, or once it is decided; `waits` says that its limit was not
past at issue. -/
def ticketWait (i : Instr) (waits : Bool) (sa : BitVec 5) (ticket : Dword) (s : State) (f : Bool → State → Res) : Res :=
  let again := s.hart.blockedBy == some i
  let s0 := if again then s else unwatch s s.hart.key
  if s0.hart.waitEnd.isSome || sawTicket s0 ticket then
    f (s0.hart.waitEnd != some false) (unwatch (dropWalks s0 s0.hart.key) s0.hart.key)
  else
    coherent s0 .read (rdS s0 sa) 8 fun s1 =>
      let r := ofLoad (ticketRead s1 (rdS s1 sa)) fun p s2 =>
        if p.2.2 = ticket then f true (unwatch s2 s2.hart.key) else f false (placeWatch s2 p.1 p.2.1 ticket)
      if again || waits then keepWait i r else r

def execTktWait (sa sb : BitVec 5) (s : State) : Out :=
  finish (ticketWait (.tktWait sa sb) true sa (rdS s sb) s fun b s1 => if b then .ok (acquireIf true s1) else stallOn .wait (.tktWait sa sb) s1)
def execTktWaitt (sd sa sb : BitVec 5) (s : State) : Out :=
  finish (ticketWait (.tktWaitt sd sa sb) (s.nowNs < (rdS s sd).toNat) sa (rdS s sb) s fun b s1 =>
    timedWait (.tktWaitt sd sa sb) sd true b (rdS s sd) s1)

end Sys2Proof.Machine
end

