-- ==== Sys2Proof/Machine/WindowOps.lean ====
section
/-! DEFINITION. The window instructions and the waits on arrivals (R229, R278, R373-R377, R444). -/

namespace Sys2Proof.Machine

/-- R229, R278: a queued `mop` or `vldw` names the window. -/
def windowQueued (h : Hart) (n : Nat) : Bool :=
  mopNames h n || h.queue.any (fun e => match e.instr with | .vldw _ w _ _ _ => w.toNat == n | _ => false)

/-- R229, R278: the front end stalls behind such an instruction. -/
def windowFree (i : Instr) (n : Nat) (s : State) (f : State → Res) : Res :=
  if windowQueued s.hart n then stallOn .order i s else f s

/-- The window of the core in focus. -/
def myWin (s : State) (n : Nat) : Window := getWin s s.hart.core n

/-- R373: unusable: no such window, a mode that is not accepted, or not the caller's. -/
def winUnusable (s : State) (n : Nat) (accepts : Nat → Bool) : Bool :=
  15 < n || !accepts (myWin s n).mode || (myWin s n).owner != s.hart.hid

/-! ### `win.cfg` (R374) -/

/-- Dword `i` of an image. -/
def imageDword (x i : Nat) : Nat := x / 2 ^ (64 * i) % 2 ^ 64

/-- R374: the bits of an image that must be 0. -/
def imageDirty (x : Nat) : Bool :=
  bits (imageDword x 0) 59 56 != 0 || bits (imageDword x 0) 50 19 != 0 || bits (imageDword x 0) 5 0 != 0 ||
    x / 2 ^ 64 != 0

/-- The window an image describes. -/
def imageWindow (x hid : Nat) : Window :=
  let d := imageDword x 0
  { mode := bits d 63 61, guard := bit d 60, lsize := bits d 55 51, owner := hid, base := bits d 18 6 * 64 }

/-- R374: another configured window of the core overlaps. -/
def winOverlaps (s : State) (n : Nat) (w : Window) : Bool :=
  (List.range 16).any (fun m =>
    let o := myWin s m
    m != n && o.mode != 0 && runsMeet w.base w.size o.base o.size)

/-- R374: the image is malformed. -/
def imageBad (s : State) (n x : Nat) : Bool :=
  let w := imageWindow x 0
  5 < w.mode || w.lsize < 10 || 19 < w.lsize || 0x80000 < w.base + w.size || imageDirty x || winOverlaps s n w

/-- R374: `win.cfg` with its image read. -/
def winConfigure (sd : BitVec 5) (n x : Nat) (s : State) : State :=
  let d := myWin s n
  if 15 < n || (d.mode != 0 && d.owner != s.hart.hid) then wrS s sd 1
  else if d.mode != 0 && (d.fill != d.tail || d.claimed) then wrS s sd 2
  else if (imageWindow x 0).mode = 0 then wrS (setWin s s.hart.core n {}) sd 0
  else if imageBad s n x then wrS s sd 3
  else wrS (setWin s s.hart.core n (imageWindow x s.hart.hid)) sd 0

def execWinCfg (sd wn sb : BitVec 5) (s : State) : Out :=
  finish (windowFree (.winCfg sd wn sb) wn.toNat s fun s =>
    readRecord s (rdS s sb) 64 fun x s1 => .ok (winConfigure sd wn.toNat x s1))

/-! ### `win.pop`, `win.get` and `win.arm` (R375-R377) -/

/-- R375: the head moves on. -/
def winPop (sd : BitVec 5) (n : Nat) (v : Dword) (s : State) : State :=
  let w := myWin s n
  if winUnusable s n (fun m => 1 ≤ m && m ≤ 4) then wrS s sd 1
  else if v.toNat % 64 != 0 || w.avail < v.toNat then wrS s sd 3
  else wrS (setWin s s.hart.core n { w with head := w.head + v.truncate 32 }) sd 0

def execWinPop (sd wn sb : BitVec 5) (s : State) : Out :=
  finish (windowFree (.winPop sd wn sb) wn.toNat s fun s => .ok (winPop sd wn.toNat (rdS s sb) s))

/-- R376: the value `sel` names. -/
def winValue (w : Window) (sel : Nat) : Dword :=
  match sel with
  | 0 => w.head.zeroExtend 64
  | 1 => w.tail.zeroExtend 64
  | 2 => BitVec.ofNat 64 w.avail
  | 3 => w.arrived
  | 4 => w.desc 0
  | 5 => w.fill.zeroExtend 64
  | _ => BitVec.allOnes 64

def execWinGet (sd wn sel : BitVec 5) (s : State) : Out :=
  finish (.ok (wrS s sd
    (if 15 < wn.toNat then BitVec.allOnes 64 else winValue (myWin s wn.toNat) sel.toNat)))

/-- R377: the mask armed from the head's slot on. -/
def Window.arm (w : Window) (mask : Dword) : Window :=
  let w1 := { w with origin := w.head &&& ~~~(255 : BitVec 32), armed := mask }
  { w1 with arrived := w1.slotMask }

def execWinArm (sd wn sb : BitVec 5) (s : State) : Out :=
  finish (windowFree (.winArm sd wn sb) wn.toNat s fun s =>
    .ok (if winUnusable s wn.toNat (fun m => 1 ≤ m && m ≤ 4) then wrS s sd 1
      else wrS (setWin s s.hart.core wn.toNat ((myWin s wn.toNat).arm (rdS s sb))) sd 0))

/-! ### Arrival waits (R444) -/

/-- R444: the condition of an arrival wait. -/
def winaHolds (w : Window) (n : Nat) : Bool :=
  if n = 0 then w.armed &&& ~~~w.arrived == 0 else n ≤ w.avail

/-- R444: the statuses given at once. -/
def winaStatus (s : State) (wn n : Nat) : Option Nat :=
  if winUnusable s wn (fun m => 1 ≤ m && m ≤ 4) then some 2
  else if (myWin s wn).size < n then some 3 else none

def execWinaWait (sd wn sb : BitVec 5) (s : State) : Out :=
  let n := (rdS s sb).toNat
  finish (match winaStatus s wn.toNat n with
    | some v => .ok (wrS s sd (BitVec.ofNat 64 v))
    | none => if winaHolds (myWin s wn.toNat) n || s.hart.waitEnd = some true then .ok (wrS s sd 0)
      else stallOn .wait (.winaWait sd wn sb) s)

def execWinaWaitt (sd wn sb : BitVec 5) (s : State) : Out :=
  let n := (rdS s sb).toNat
  finish (match winaStatus s wn.toNat n with
    | some v => .ok (wrS s sd (BitVec.ofNat 64 v))
    | none => timedWait (.winaWaitt sd wn sb) sd false (winaHolds (myWin s wn.toNat) n) (rdS s sd) s)

end Sys2Proof.Machine
end

