-- ==== Sys2Proof/Machine/HartEvents.lean ====
section
/-! DEFINITION. What happens to a hart without its issuing: convoys, retirement, the matrix and
window groups, traps of queued and posted work, waits, binding, pre-emption and expiry (R161, R226,
R308-R312, R315, R335, R336, R340, R341, R360, R433). -/

namespace Sys2Proof.Machine

/-- The first hart, the one in focus before the others, for which something can be done with it in
focus; the focus stays where it was. -/
def onHart (s : State) (f : State → Option State) : Option State :=
  (hartKeys s).findSome? (fun k => (f (focusOn s k)).map (fun t => focusOn t s.hart.key))

/-- What an outcome leaves. -/
def outState (o : Out) (s : State) : State :=
  match o with
  | .next t => t
  | _ => s

/-! ### Convoys and queues (R161, R226, R228, R277) -/

/-- The entries of the convoy at the head begin. -/
def liven : Bool → List QEntry → List QEntry
  | _, [] => []
  | first, e :: t => if first || e.joins then { e with live := true } :: liven false t else e :: t

/-- R161: the convoy at the head of the queues begins once the one before it has drained. -/
def pickConvoy (s : State) : Option State :=
  onHart s fun s =>
    match s.hart.queue with
    | e :: q => if e.live then none else some (updH s fun h => { h with queue := liven true (e :: q) })
    | [] => none

/-- The head of the queue is a live instruction of a kind. -/
def headIs (s : State) (p : QEntry → Bool) : Bool :=
  match s.hart.queue with
  | e :: _ => s.hart.stage == .running && s.hart.pend.isEmpty && e.live && p e
  | [] => false

/-- The head of the queue runs, where that changes anything. -/
def headRuns (s : State) : Option State := if runQueue s = s then none else some (runQueue s)

/-- The instruction is a `mop`. -/
def isMop (i : Instr) : Bool := match i with | .mop .. => true | _ => false

/-- The instruction is a `vldw`. -/
def isVldw (i : Instr) : Bool := match i with | .vldw .. => true | _ => false

/-- R92: a queued vector or matrix instruction runs and retires. -/
def pickRetire (s : State) : Option State :=
  onHart s fun s => if headIs s (fun e => !isMop e.instr && !isVldw e.instr) then headRuns s else none

/-- R277: an element group of a `vldw`. -/
def pickVldw (s : State) : Option State :=
  onHart s fun s => if headIs s (fun e => isVldw e.instr) then headRuns s else none

/-- R226: the windows of a `mop` hold what it needs, so that it begins; one that cannot be served
traps. -/
def beginMop (s : State) : Option State :=
  match s.hart.queue with
  | e :: q =>
    match e.instr with
    | .mop wa wb ws fmt ks =>
      let needs := mopNeeds s.hart.width wa.toNat wb.toNat ws.toNat fmt.toNat (ks.toNat + 1)
      if e.bad.isSome || (mopBad s needs).isSome || !s.hart.mmode then headRuns s
      else if mopReady s needs then some (updH s fun h => { h with queue := { e with begun := true } :: q })
      else none
    | _ => none
  | [] => none

def pickMopBegin (s : State) : Option State :=
  onHart s fun s => if headIs s (fun e => isMop e.instr && !e.begun) then beginMop s else none

/-- R228: a begun `mop` retires and its windows' heads move on. -/
def pickMopRetire (s : State) : Option State :=
  onHart s fun s => if headIs s (fun e => isMop e.instr && e.begun) then headRuns s else none

/-- R240: a begun `mop` runs out before a cut, whatever trap of an earlier instruction is waiting. -/
def finishMop (s : State) : State :=
  let p := s.hart.pend
  let s0 := updH s fun h => { h with pend := [] }
  if headIs s0 (fun e => isMop e.instr && e.begun) then updH (runQueue s0) fun h => { h with pend := p ++ h.pend }
  else s

def execConvoyBegin (s : State) : Out := .next ((pickConvoy s).getD s)
def execVectorRetire (s : State) : Out := .next ((pickRetire s).getD s)
def execVldwGroup (s : State) : Out := .next ((pickVldw s).getD s)
def execMopBegin (s : State) : Out := .next ((pickMopBegin s).getD s)
def execMopRetire (s : State) : Out := .next ((pickMopRetire s).getD s)

/-! ### Posted accesses (R230, R267, R308) -/

/-- The first posted event of a kind comes back as an imprecise trap; a hart that is stopped meets it when
it goes on (R271). -/
def pickPosted (s : State) (guard : Bool) : Option State :=
  onHart s fun s =>
    if s.hart.stage != .running then none
    else
      (s.hart.posted.find? (fun p => p.guard == guard)).map fun p =>
        updH s fun h => { h with posted := h.posted.erase p, pend := h.pend ++ [⟨none, p.trap, p.order⟩] }

def execStoreRefusal (s : State) : Out := .next ((pickPosted s false).getD s)
def execRingGuard (s : State) : Out := .next ((pickPosted s true).getD s)

/-- R310: of several imprecise traps, the one whose instruction is earliest in program order. -/
def firstPend (l : List Pend) : Option Pend := l.find? (fun p => l.all (fun q => p.order ≤ q.order))

/-- R308, R310: an imprecise trap taken at the bundle boundary by the hart in focus; a `mop` that has begun
behind what it comes from runs out first (R240, R312). -/
def takePend (s : State) : Option State :=
  if s.hart.stage != .running then none
  else
    match firstPend s.hart.pend with
    | none => none
    | some p =>
      let s0 := if p.entry = none then finishMop s else s
      let s1 := dropWalks (updH s0 fun h => { h with pend := h.pend.erase p }) s.hart.key
      some (deliver s1 p.trap s1.hart.pc true (p.entry.getD 63))

def pickImprecise (s : State) : Option State := onHart s takePend

def execImpreciseTrap (s : State) : Out := .next ((pickImprecise s).getD s)

/-! ### Stopping (R310) -/

/-- R310, R432: the instructions whose wait an event ends without effect. -/
def Instr.waits (i : Instr) : Bool :=
  match i with
  | .barWait .. | .barWaitt .. | .tktWait .. | .tktWaitt .. | .winaWait .. | .winaWaitt ..
  | .fence .. | .lsync | .vfence | .qfence | .winCfg .. | .winPop .. | .winArm ..
  | .brk .. | .halt | .exitJob .. | .yieldJob => true
  | _ => i.resync

/-- The unit at the boundary cannot issue before what is queued has gone on: a full queue (R160), or the
order of its access behind what is queued (R278, R283, R305).  What is queued may wait for ever (R226). -/
def Block.queued (b : Block) : Bool := b == .queue || b == .order

/-- A resynchronising instruction stands in a queue: the front end waits for it (R115). -/
def Hart.queuedResync (h : Hart) : Bool := h.queue.any (fun e => e.instr.resync)

/-- R310: the hart stands at a bundle boundary where a pending event can be taken: a unit has
completed since the event was raised, or the unit at the boundary waits.  A unit that stalls at its queues
has not begun, and counts as one that waits (R33, R341, R363; log entry 49: DEDUCED). -/
def canStop (h : Hart) : Bool :=
  h.stage == .running &&
    (h.block == .none && h.ranSince || h.blockedBy.any Instr.waits || h.block.queued || h.queuedResync)

/-! ### Resynchronising accesses (R115) -/

/-- A resynchronising instruction performed. -/
def resyncRun (i : Instr) (s : State) : State :=
  match i with
  | .mfc sd c => outState (execMfc sd c s) s
  | .mtc sd sa c => outState (execMtc sd sa c s) s
  | .setc sd sa c => outState (execSetc sd sa c s) s
  | .clrc sd sa c => outState (execClrc sd sa c s) s
  | .vmvs sd va sb => outState (execVmvs sd va sb s) s
  | .kpopc sd ka => outState (execKpopc sd ka s) s
  | .kfirst sd ka => outState (execKfirst sd ka s) s
  | .vredsum sd va sb k => outState (execVredsum sd va sb k s) s
  | .vredmin sd va sb k => outState (execVredmin sd va sb k s) s
  | .vredmax sd va sb k => outState (execVredmax sd va sb k s) s
  | .vfredsum sd va sb k => outState (execVfredsum sd va sb k s) s
  | .vfredmin sd va sb k => outState (execVfredmin sd va sb k s) s
  | .vfredmax sd va sb k => outState (execVfredmax sd va sb k s) s
  | .vcredsum sd va sb k => outState (execVcredsum sd va sb k s) s
  | .vredsumw sd va sb k => outState (execVredsumw sd va sb k s) s
  | _ => s

/-- R115: once every earlier vector and matrix instruction has retired the access is performed; one
in a paired bundle is performed as its bundle issues again. -/
def pickResync (s : State) : Option State :=
  onHart s fun s =>
    match s.hart.blockedBy with
    | some i =>
      if s.hart.stage = .running && s.hart.block = .resync && i.resync && drained s then
        let s1 := updH s fun h => { h with block := .none, blockedBy := none }
        some (if s.hart.x.paired then s1 else resyncRun i s1)
      else none
    | none => none

def execResynchronisingAccess (s : State) : Out := .next ((pickResync s).getD s)

/-! ### Waits (R433, R443) -/

/-- A wait of R432 issued again; every one stands alone. -/
def waitRun (i : Instr) (s : State) : State :=
  match i with
  | .barWait sd sa sel => outState (execBarWait sd sa sel s) s
  | .barWaitt sd sa sb => outState (execBarWaitt sd sa sb s) s
  | .tktWait sa sb => outState (execTktWait sa sb s) s
  | .tktWaitt sd sa sb => outState (execTktWaitt sd sa sb s) s
  | .winaWait sd wn sb => outState (execWinaWait sd wn sb s) s
  | .winaWaitt sd wn sb => outState (execWinaWaitt sd wn sb s) s
  | _ => s

/-- R443: a read of the word returns the ticket, or the hart's watch has read it. -/
def ticketHolds (s : State) (sa sb : BitVec 5) : Bool :=
  sawTicket s (rdS s sb) ||
  match ticketRead s (rdS s sa) with
  | .ok p _ => p.2.2 == rdS s sb
  | _ => false

/-- A poll of the word does something: the read returns the ticket, faults, or asks for its translation. -/
def pollActs (s : State) (sa sb : BitVec 5) : Bool :=
  match ticketRead s (rdS s sa) with
  | .ok p _ => p.2.2 == rdS s sb
  | _ => true

/-- The condition of a wait is true, or it can end without it. -/
def waitHolds (s : State) (i : Instr) : Bool :=
  let bar (h : Dword) : Bool := barMalformed h || barForeign s h || barHolds s h
  let win (wn : Nat) (n : Nat) : Bool := (winaStatus s wn n).isSome || winaHolds (myWin s wn) n
  match i with
  | .barWait _ sa _ => bar (rdS s sa)
  | .barWaitt _ sa _ => bar (rdS s sa)
  | .winaWait _ wn sb => win wn.toNat (rdS s sb).toNat
  | .winaWaitt _ wn sb => win wn.toNat (rdS s sb).toNat
  | .tktWait sa sb => ticketHolds s sa sb
  | .tktWaitt _ sa sb => ticketHolds s sa sb
  | _ => false

/-- The limit of a timed wait. -/
def waitLimit (s : State) (i : Instr) : Option Dword :=
  match i with
  | .barWaitt _ _ sb => some (rdS s sb)
  | .tktWaitt sd _ _ => some (rdS s sd)
  | .winaWaitt sd _ _ => some (rdS s sd)
  | _ => none

/-- The instruction waits on a ticket. -/
def isTicket (i : Instr) : Bool := match i with | .tktWait .. | .tktWaitt .. => true | _ => false

/-- The hart stands at a wait that has begun, a ticket's also while its page is being translated. -/
def Hart.inWait (h : Hart) (i : Instr) : Bool := h.block == .wait || h.block == .walk && isTicket i

/-- R433: how the wait of the hart in focus is decided at this time: by its condition if that holds, else
by its limit.  A ticket wait without a watch sees its word only when it polls (R443). -/
def decideWait (s : State) : State :=
  match s.hart.blockedBy with
  | some i =>
    if s.hart.stage != .running || !s.hart.inWait i || s.hart.waitEnd.isSome then s
    else if waitHolds s i && !(isTicket i && !hasWatch s s.hart.key) then updH s fun h => { h with waitEnd := some true }
    else if (waitLimit s i).any (fun l => l.toNat ≤ s.nowNs) then updH s fun h => { h with waitEnd := some false }
    else s
  | none => s

/-- R433: the waits of every hart decided, the focus staying where it was. -/
def decideWaits (s : State) : State :=
  (hartKeys s).foldl (fun s k =>
    if (getHart s k).blockedBy.any (getHart s k).inWait then atHart s k decideWait else s) s

/-- The first waiting hart of a kind, whose wait is issued again. -/
def onWait (s : State) (p : State → Instr → Bool) : Option State :=
  onHart s fun s =>
    match s.hart.blockedBy with
    | some i =>
      if s.hart.stage = .running && s.hart.inWait i && s.hart.pend.isEmpty && p s i then some (waitRun i s)
      else none
    | none => none

/-- R433: a condition became true. -/
def pickWaitMet (s : State) : Option State :=
  onWait s fun s i => s.hart.waitEnd = some true ||
    s.hart.waitEnd = none && waitHolds s i && !(isTicket i && !hasWatch s s.hart.key)

/-- R433: a limit was reached. -/
def pickWaitLimit (s : State) : Option State :=
  onWait s fun s i => s.hart.waitEnd = some false ||
    s.hart.waitEnd = none && !waitHolds s i && (waitLimit s i).any (fun l => l.toNat ≤ s.nowNs)

/-- R443: a waiter without a watch reads its word. -/
def pickTicketPoll (s : State) : Option State :=
  onWait s fun s i => s.hart.waitEnd = none && s.hart.block = .wait && !hasWatch s s.hart.key &&
    (match i with
     | .tktWait sa sb => pollActs s sa sb
     | .tktWaitt _ sa sb => pollActs s sa sb
     | _ => false)

def execWaitConditionMet (s : State) : Out := .next ((pickWaitMet s).getD s)
def execTimedWaitLimit (s : State) : Out := .next ((pickWaitLimit s).getD s)
def execTicketPoll (s : State) : Out := .next ((pickTicketPoll s).getD s)

/-! ### Binding (R335, R336, R315) -/

/-- R335: the record a core would bind now, and its block; `ran` says whether it has begun. -/
def bindable (s : State) (core : Nat) (ran : Bool) : Option (Job × Nat) :=
  if coreDead s core || s.disp.reclaims.contains core then none
  else
    match readyHead s core with
    | none => none
    | some j =>
      if j.ran != ran || treeAbandoned s j.tree || (j.deadline s).toNat ≤ s.nowNs ||
        (!ran && (mapGet none s.disp.lending core).isSome) then none
      else (freeBlocks s core j.record.width).head?.map (fun b => (j, b))

/-- R335: the first core that can bind a record does. -/
def pickBind (s : State) (ran : Bool) : Option State :=
  (List.range 96).findSome? (fun c => (bindable s c ran).map (fun p => bindJob (takeReady s c p.1) c p.2 p.1))

/-- R336: a record that never ran binds. -/
def execJobBind (s : State) : Out := .next ((pickBind s false).getD s)
/-- R315: a record that has run resumes. -/
def execResume (s : State) : Out := .next ((pickBind s true).getD s)

/-! ### Pre-emption (R340, R341) -/

/-- What a core needs a block for: the ready record, or a gang's reservation, with its key. -/
structure Demand where
  key : Nat × Nat × Nat
  width : Nat
  deriving DecidableEq, Repr

/-- R344: the requests at the heads of their tenants' gang queues. -/
def headGangs (s : State) : List GangReq :=
  s.disp.gangs.filter (fun g =>
    (s.disp.gangs.find? (fun x => x.tenant == g.tenant)).any (fun x => x.arrival == g.arrival))

/-- R346: every core of the mask is of the gang's tenant and stays so. -/
def gangOpen (s : State) (g : GangReq) : Bool :=
  (maskCores g.mask).all (fun c => currentTenant s c == g.tenant && (mapGet none s.disp.lending c).isNone &&
    !s.disp.reclaims.contains c)

/-- R335, R358: a tree's records and reservations can still bind. -/
def treeBinds (s : State) (id : BitVec 32) : Bool := !treeAbandoned s id && s.nowNs < (treeDeadline s id).toNat

/-- R340, R344: the real-time demands on a core that no free block meets. -/
def demands (s : State) (core : Nat) : List Demand :=
  let r := match readyHead s core with
    | some j => if j.deadline s != bestEffort && treeBinds s j.tree then [⟨j.key s, j.record.width⟩] else []
    | none => []
  let g := (headGangs s).filterMap (fun g =>
    if bit g.mask core && !g.held.any (fun b => b.1 == core) && treeDeadline s g.tree != bestEffort &&
        treeBinds s g.tree && gangOpen s g then
      some ⟨((treeDeadline s g.tree).toNat, g.tree.toNat, g.arrival), g.record.width⟩
    else none)
  (r ++ g).filter (fun d => (freeBlocks s core d.width).isEmpty)

/-- R340: the harts of a core bound to lanes of a block. -/
def inBlock (s : State) (core b width : Nat) : List Nat :=
  (boundKeys s core).filter (fun k => blocksMeet (k % 8, (getHart s k).width / 4) (b, width / 4))

/-- R340: the block may be cleared for a demand. -/
def blockEligible (s : State) (core b : Nat) (d : Demand) : Bool :=
  let hs := inBlock s core b d.width
  !hs.isEmpty && hs.all (fun k => (getHart s k).stage != .halted && keyLess d.key ((getHart s k).job.key s)) &&
    !s.disp.gangs.any (fun g => g.held.any (fun x => x.1 == core && blocksMeet (x.2, g.record.width / 4) (b, d.width / 4)))

/-- The smaller of two keys. -/
def minKey (a b : Nat × Nat × Nat) : Nat × Nat × Nat := if keyLess b a then b else a

/-- The key of a block's earliest job. -/
def blockKey (s : State) (core b width : Nat) : Nat × Nat × Nat :=
  (((inBlock s core b width).map (fun k => (getHart s k).job.key s))).foldl minKey (2 ^ 64, 0, 0)

/-- R340: of the eligible blocks, the one whose earliest job is latest. -/
def victimBlock (s : State) (core : Nat) (d : Demand) : Option Nat :=
  ((alignedBlocks d.width).filter (fun b => blockEligible s core b d)).foldl (fun m b =>
    match m with
    | none => some b
    | some x => if keyLess (blockKey s core x d.width) (blockKey s core b d.width) then some b else some x) none

/-- R340: the harts a core is to pre-empt; a reclaim goes before pre-emption (R310). -/
def victims (s : State) (core : Nat) : List Nat :=
  if s.disp.reclaims.contains core then []
  else
    (demands s core).flatMap (fun d =>
      match victimBlock s core d with
      | some b => inBlock s core b d.width
      | none => [])

/-- R341: the hart in focus is pre-empted: saved with reason 1, its record back in its class.  In a
grace handler its tree is abandoned, so that the job ends EXPIRED (R360).  One that the service complex holds
is saved already, and its record is not ready before it is let go; one whose expiry it has still to take ends
EXPIRED (log entry 40: DEDUCED). -/
def preemptNow (s : State) : State :=
  let s0 := finishMop (updH s fun h => { h with preempt := false })
  let s1 := countEv s0 s0.hart.core none 0x13 1
  if s1.hart.stage = .service then (if s1.hart.expiry.isSome then expireFocus s1 else putBack s1 false)
  else if treeAbandoned s1 s1.hart.job.tree then expireFocus s1
  else putBack (saveHart s1 1 false 0 s1.hart.pc 0 63) false

/-- A hart that is to be pre-empted is. -/
def pickFlagged (s : State) : Option State :=
  onHart s fun s =>
    let h := s.hart
    if h.preempt && !s.disp.reclaims.contains h.core && (h.stage == .service || canStop h && h.pend.isEmpty) then
      some (preemptNow s)
    else none

/-- R340: the harts of a block are told to stop. -/
def pickVictims (s : State) : Option State :=
  (List.range 96).findSome? (fun c =>
    let v := (victims s c).filter (fun k => !(getHart s k).preempt)
    if v.isEmpty then none else some (v.foldl (fun s k => updHart s k fun h => { h with preempt := true, ranSince := false }) s))

/-- R340, R341: a hart stops for an earlier record. -/
def pickPreempt (s : State) : Option State :=
  (pickFlagged s).orElse fun _ => (pickVictims s).map (fun t => (pickFlagged t).getD t)

def execPreemption (s : State) : Out := .next ((pickPreempt s).getD s)

/-! ### Expiry and grace (R117, R360) -/

/-- R360: expiry of the hart in focus under its job's policy; on a core under reclaim grace is never
granted (R311).  A halted hart goes on into its handler (R323). -/
def expireNow (tval : Dword) (s : State) : State :=
  let s0 := dropWalks (updH (finishMop s) fun h => { h with
    expiry := none, preempt := false, job := { h.job with lastCause := 0x30 } }) s.hart.key
  let h := s0.hart
  if h.job.record.graceful && h.tr.tvec != 0 && !h.tr.inh && !s.disp.reclaims.contains h.core then
    let s1 := enterHandler (cutQueue (writeRestart s0 0 h.pc 0 63)) 0x30 tval h.pc false true
    updH s1 fun h => { h with
      stage := .running, debugHeld := false, graceEnd := some (tval.toNat + 1000 * h.job.record.grace) }
  else endFocus s0 3

def pickExpiry (s : State) : Option State :=
  onHart s fun s =>
    match s.hart.expiry with
    | some v =>
      if s.hart.stage == .halted || canStop s.hart && s.hart.pend.isEmpty then some (expireNow v s) else none
    | none => none

def execExpiry (s : State) : Out := .next ((pickExpiry s).getD s)

/-- R360: grace runs out: the job is to stop as under the drop policy, and one that does not run
ends at once. -/
def graceOver (s : State) : Option State :=
  match s.hart.graceEnd with
  | some t =>
    if t ≤ s.nowNs && s.hart.stage != .free then
      some (if s.hart.stage = .running then
          updH s fun h => { h with graceEnd := none, expiry := some h.tr.tval, ranSince := false }
        else expireFocus s)
    else none
  | none => none

/-- R360: grace runs out for a job that the service complex holds and that is bound to no hart. -/
def looseGrace (s : State) : Option State :=
  ((looseJobs s).find? (fun j => j.graceEnd.any (fun t => t ≤ s.nowNs))).map fun j =>
    endLoose (removeLoose s (fun x => x == j)) { j with lastCause := 0x30 } 3

def pickGraceEnd (s : State) : Option State := (onHart s graceOver).orElse fun _ => looseGrace s

def execGraceEnd (s : State) : Out := .next ((pickGraceEnd s).getD s)

end Sys2Proof.Machine
end

