-- ==== Sys2Proof/Machine/Dispatcher.lean ====
section
/-! DEFINITION. The dispatcher: deadline and slot timers (R332, R358, R423, R430), placement
(R330-R333), steals (R337), deadline requests (R353), gangs (R344, R345) and saved groups (R365). -/

namespace Sys2Proof.Machine

/-! ### Tree deadlines (R358, R430) -/

/-- The first tree whose deadline device time has reached. -/
def pickTreeDeadline (s : State) : Option State :=
  (s.disp.trees.find? (fun p => match p.2 with
    | some t => !t.abandoned && t.deadline != bestEffort && t.deadline.toNat ≤ s.nowNs
    | none => false)).map (fun p => abandonTree s (BitVec.ofNat 32 p.1) false)

def execTreeDeadline (s : State) : Out := .next ((pickTreeDeadline s).getD s)

/-! ### Slots (R325, R332, R423) -/

/-- R423: the period of a slot in ns. -/
def Slot.ns (e : Slot) : Nat := 1000000 / 2 ^ e.period

/-- T(n) (R332). -/
def Slot.start (e : Slot) (n : Nat) : Nat := n * e.ns + e.phase.toNat

/-- R332: the first slot an entry enabled at time `t` creates. -/
def Slot.firstFrom (e : Slot) (t : Nat) : Nat := (t + e.lead - e.phase.toNat + e.ns - 1) / e.ns

/-- A slot table entry. -/
def getSlot (s : State) (n : Nat) : Slot := mapGet {} s.disp.slots n

/-- A slot table entry replaced. -/
def setSlot (s : State) (n : Nat) (e : Slot) : State :=
  { s with disp := { s.disp with slots := mapSet {} s.disp.slots n e } }

/-- R325: a malformed record of a launch queue or the slot table is skipped and counted. -/
def skipRecord (s : State) (r : JobRec) (tenant : Nat) : State :=
  telemetryOpen (recordUnrun s r tenant 0 255 5) 0x0003 none none

/-- R332: the root job of slot `e.next` of entry `n`. -/
def createSlot (s : State) (n : Nat) : State :=
  let e := getSlot s n
  let t := e.start e.next
  let r := { parseRec e.template.toNat with a3 := BitVec.ofNat 64 t }
  if r.malformed false then
    skipRecord (setSlot s n { e with next := e.next + 1, skipped := e.skipped + 1 }) r e.tenant
  else
    let a := newTree (setSlot s n { e with next := e.next + 1, created := e.created + 1 }) e.tenant
      (BitVec.ofNat 64 (t + e.offset))
    let j := createJob a.2 r e.tenant a.1 255
    pushPool j.2 { j.1 with mask := e.mask, slot := some (n, e.next) }

/-- The first entry whose next slot is due. -/
def pickSlot (s : State) : Option State :=
  ((List.range 128).find? (fun n =>
    let e := getSlot s n
    e.enable && e.start e.next ≤ s.nowNs + e.lead)).map (createSlot s)

def execSlotCreation (s : State) : Out := .next ((pickSlot s).getD s)

/-- R423: a slot's root that its start time found in the pool is skipped and counted; it was created, and
ends ABANDONED, never having begun (R32, R318; log entry 41: DEDUCED). -/
def pickUnplaced (s : State) : Option State :=
  (s.disp.pool.find? (fun j => j.slot.isSome && j.record.a3.toNat ≤ s.nowNs)).map (fun j =>
    let n := (j.slot.getD (0, 0)).1
    let e := getSlot s n
    recordUnrun (setSlot { s with disp := { s.disp with pool := s.disp.pool.erase j } } n
      { e with skipped := e.skipped + 1 }) j.record j.tenant j.job.toNat 255 2)

def execUnplacedSlotSkip (s : State) : Out := .next ((pickUnplaced s).getD s)

/-! ### Placement (R330-R333) -/

/-- The core takes new work: it is not fenced, being lent or under reclaim. -/
def coreOpen (s : State) (c : Nat) : Bool :=
  !coreDead s c && (mapGet none s.disp.lending c).isNone && !s.disp.reclaims.contains c

/-- The cores of a mask that can accept a record of a tenant and deadline (R333, R334); one being
lent or fenced takes none. -/
def acceptors (s : State) (mask tenant : Nat) (dl : Dword) : List Nat :=
  (List.range 96).filter (fun c =>
    bit mask c && currentTenant s c == tenant && coreOpen s c && storeAccepts s c dl)

/-- The core with the fewest ready records, the lowest index on a tie. -/
def fewest (s : State) (l : List Nat) : Option Nat :=
  l.foldl (fun m c => match m with
    | none => some c
    | some x => if (getReady s c).length < (getReady s x).length then some c else some x) none

/-- R333: the core chosen for a record. -/
def chooseCore (s : State) (mask tenant width : Nat) (dl : Dword) : Option Nat :=
  let l := acceptors s mask tenant dl
  (l.find? (fun c => (getReady s c).isEmpty && !(freeBlocks s c width).isEmpty)).or (fewest s l)

/-- R333: a record placed on a core. -/
def place (s : State) (core : Nat) (j : Job) : State := pushReady s core { j with slot := none }

/-- The core for a job of the pool. -/
def jobCore (s : State) (j : Job) : Option Nat := chooseCore s j.mask j.tenant j.record.width (j.deadline s)

/-- The first item of the least key. -/
def leastBy {α : Type} (k : α → Nat) (l : List α) : Option α :=
  l.foldl (fun m x => match m with
    | none => some x
    | some y => if k x < k y then some x else some y) none

/-- R339: the earliest job of the pool that satisfies `p` and can be placed. -/
def poolHead (s : State) (p : Job → Bool) : Option Job :=
  leastBy (fun j => (j.deadline s).toNat * 2 ^ 32 + j.tree.toNat)
    (s.disp.pool.filter (fun j => p j && (jobCore s j).isSome))

/-- A job of the pool placed. -/
def placePool (s : State) (j : Job) : State :=
  match jobCore s j with
  | some c => place { s with disp := { s.disp with pool := s.disp.pool.erase j } } c j
  | none => s

/-- A launch queue. -/
def getQ (s : State) (q : Nat) : LaunchQ := mapGet {} s.disp.queues q

/-- A launch queue replaced. -/
def setQ (s : State) (q : Nat) (l : LaunchQ) : State :=
  { s with disp := { s.disp with queues := mapSet {} s.disp.queues q l } }

/-- R328: real-time queues are numbers 0 to 127. -/
def isRt (q : Nat) : Bool := q < 128

/-- R334: the store of a core can accept a record of a queue: best effort, or of some deadline. -/
def storeOpen (s : State) (core q : Nat) : Bool :=
  if isRt q then (getReady s core).length < 64 && (readyClasses s core).length ≤ 8
  else storeAccepts s core bestEffort

/-- R330: the queue has a record and some core of its mask can accept one. -/
def queueReady (s : State) (q : Nat) : Bool :=
  let l := getQ s q
  l.created && !l.stopped && l.head != l.tail &&
    (List.range 96).any (fun c => bit l.mask c && currentTenant s c == l.tenant && coreOpen s c && storeOpen s c q)

/-- A queue head as the dispatcher read it. -/
structure Head where
  q : Nat
  record : JobRec
  deriving DecidableEq, Repr

/-- R328, R330: the record at a queue's head. -/
def readHead (s : State) (q : Nat) : Option JobRec × State :=
  let l := getQ s q
  let r := readAgent s recordAgent l.tenant (l.base.toNat + 64 * (l.head.toNat % l.size)) 64
  (r.1.map (fun bs => parseRec (natOfBytes bs)), r.2)

/-- The heads of the queues of a list that can be read, and the state the reads leave; one that cannot stays at
its head, and its queue is passed over (log entry 52: DESIGN CHOICE). -/
def readHeads (s : State) : List Nat → List Head × State
  | [] => ([], s)
  | q :: t =>
    if queueReady s q then
      let a := readHead s q
      let b := readHeads a.2 t
      match a.1 with
      | some r => (⟨q, r⟩ :: b.1, b.2)
      | none => b
    else readHeads s t

/-- The deadline a queue gives its head (R327). -/
def Head.deadline (h : Head) : Dword := if isRt h.q then h.record.deadline else bestEffort

/-- The core for a head. -/
def Head.core (s : State) (h : Head) : Option Nat :=
  chooseCore s (getQ s h.q).mask (getQ s h.q).tenant h.record.width h.deadline

/-- R326, R327: a root job from a record. -/
def launchRoot (s : State) (r : JobRec) (tenant : Nat) (dl : Dword) : Job × State :=
  let a := newTree s tenant dl
  createJob a.2 r tenant a.1 255

/-- The head of a queue leaves it. -/
def popHead (s : State) (q : Nat) : State := setQ s q { getQ s q with head := (getQ s q).head + 1 }

/-- A head placed. -/
def placeHead (s : State) (h : Head) : State :=
  match h.core s with
  | none => s
  | some c =>
    let j := launchRoot (popHead s h.q) h.record (getQ s h.q).tenant h.deadline
    place j.2 c { j.1 with mask := (getQ s h.q).mask }

/-- A malformed head skipped (R325). -/
def skipHead (s : State) (h : Head) : State := skipRecord (popHead s h.q) h.record (getQ s h.q).tenant

/-- R331: smooth weighted round-robin among some numbers with weights: the one chosen, and the new
credits. -/
def smooth (credit : SMap Int) (l : List (Nat × Nat)) : Option (Nat × SMap Int) :=
  let c1 := l.foldl (fun m p => mapUpd 0 m p.1 (fun c : Int => c + p.2)) credit
  let total := (l.map (fun p => p.2)).sum
  (l.foldl (fun m p => match m with
    | none => some p.1
    | some x => if mapGet 0 c1 x < mapGet 0 c1 p.1 then some p.1 else some x) none).map
    (fun x => (x, mapUpd 0 c1 x (fun c : Int => c - total)))

/-- R331: one best-effort turn among the placeable heads. -/
def bestEffortTurn (s : State) (hs : List Head) : Option State :=
  let tenants := (List.range 64).filter (fun t => hs.any (fun h => (getQ s h.q).tenant == t))
  (smooth s.disp.tenantCredit (tenants.map (fun t => (t, (mapGet {} s.tab.tenants t).weight)))).bind fun a =>
    let mine := hs.filter (fun h => (getQ s h.q).tenant == a.1)
    (smooth s.disp.queueCredit (mine.map (fun h => (h.q, (getQ s h.q).share)))).bind fun b =>
      (mine.find? (fun h => h.q == b.1)).map fun h =>
        placeHead { s with disp := { s.disp with tenantCredit := a.2, queueCredit := b.2 } } h

/-- The heads of some queues: a malformed one is skipped, else `f` places one. -/
def fromHeads (s : State) (qs : List Nat) (rt : Bool) (f : State → List Head → Option State) : Option State :=
  let r := readHeads s qs
  match r.1.find? (fun h => h.record.malformed rt) with
  | some h => some (skipHead r.2 h)
  | none =>
    match f r.2 (r.1.filter (fun h => (h.core r.2).isSome)) with
    | some t => some t
    | none => if r.2 = s then none else some r.2

/-- R330, R339: the real-time record that is placed: of the pool's and the queue heads, the earliest; a head
has no tree yet, so that a record of the pool with its deadline goes before it. -/
def realTimeTurn (s : State) (hs : List Head) : Option State :=
  match poolHead s (fun j => j.deadline s != bestEffort), leastBy (fun h => h.deadline.toNat) hs with
  | some j, some h => some (if (j.deadline s).toNat ≤ h.deadline.toNat then placePool s j else placeHead s h)
  | some j, none => some (placePool s j)
  | none, some h => some (placeHead s h)
  | none, none => none

/-- R330, R331, R333: one record placed: a real-time one, one of the pool's best-effort ones, or a
best-effort turn (log entry 21: DEDUCED). -/
def pickPlacement (s : State) : Option State :=
  (fromHeads s (List.range 128) true realTimeTurn).orElse fun _ =>
  ((poolHead s fun j => j.deadline s == bestEffort).map (placePool s)).orElse fun _ =>
  fromHeads s ((List.range 64).map (fun i => 128 + i)) false bestEffortTurn

def execDispatcherPlacement (s : State) : Out := .next ((pickPlacement s).getD s)

/-! ### Steals (R337, R338) -/

/-- The next of some cores after the position kept, wrapping. -/
def nextAfter (l : List Nat) (pos : Nat) : Option Nat := (l.find? (fun c => pos ≤ c)).or l.head?

/-- R337: the core may ask: a free lane block, nothing to bind, no grant on its way. -/
def idleCore (s : State) (c : Nat) : Bool :=
  coreOpen s c && (mapGet none s.disp.stealGrant c).isNone &&
    !(freeBlocks s c 4).isEmpty && (bindable s c false).isNone && (bindable s c true).isNone

/-- R337: the core an idle core asks next: the other cores of its tenant in its own group, then the
others. -/
def stealVictim (s : State) (c : Nat) : Option (Nat × Bool) :=
  let peers := (List.range 96).filter (fun d => d != c && currentTenant s d == currentTenant s c)
  let own := peers.filter (fun d => groupOf d == groupOf c)
  let other := peers.filter (fun d => groupOf d != groupOf c)
  let asked := mapGet 0 s.disp.stealAsked c
  if asked < own.length then (nextAfter own (mapGet 0 s.disp.stealOwn c)).map (fun d => (d, true))
  else if asked < own.length + other.length then
    (nextAfter other (mapGet 0 s.disp.stealOther c)).map (fun d => (d, false))
  else none

/-- R337: the record a victim grants. -/
def granted (s : State) (thief victim : Nat) : Option Job :=
  if coreDead s victim then none
  else
    (stealEnd s victim).bind (fun j =>
      if j.steal && !j.ran && !(freeBlocks s thief j.record.width).isEmpty then some j else none)

/-- R337: a steal request of a core, answered by its victim. -/
def stealFrom (s : State) (c victim : Nat) (own : Bool) : State :=
  let s1 := countEv s c none 0x11 1
  let d := s1.disp
  let s2 := { s1 with disp := { d with
    stealOwn := if own then mapSet 0 d.stealOwn c (victim + 1) else d.stealOwn
    stealOther := if own then d.stealOther else mapSet 0 d.stealOther c (victim + 1)
    stealAsked := mapUpd 0 d.stealAsked c (fun n => n + 1) } }
  match granted s2 c victim with
  | none => s2
  | some j =>
    let s3 := countEv (takeReady s2 victim j) c none 0x12 1
    { s3 with disp := { s3.disp with
      stealGrant := mapSet none s3.disp.stealGrant c (some j)
      stealAsked := mapSet 0 s3.disp.stealAsked c 0 } }

/-- The first idle core that still has a core to ask. -/
def pickSteal (s : State) : Option State :=
  (List.range 96).findSome? (fun c =>
    if idleCore s c then (stealVictim s c).map (fun v => stealFrom s c v.1 v.2) else none)

def execStealRequest (s : State) : Out := .next ((pickSteal s).getD s)

/-- R34: a best-effort record while a real-time one is ready on the core. -/
def behindRealTime (s : State) (c : Nat) (j : Job) : Bool :=
  j.deadline s == bestEffort && (readyHead s c).any (fun r => r.deadline s != bestEffort)

/-- R337: a granted record, which no ready store holds, arrives: it binds, or enters the store, or goes to the pool. -/
def arriveGrant (s : State) (c : Nat) (j : Job) : State :=
  let s1 := { s with disp := { s.disp with stealGrant := mapSet none s.disp.stealGrant c none } }
  let opened := coreOpen s1 c && currentTenant s1 c == j.tenant
  let rest := if opened && storeAccepts s1 c (j.deadline s1) then appendReady s1 c j true else pushPool s1 j
  match (freeBlocks s1 c j.record.width).head? with
  | some b =>
    if opened && treeBinds s1 j.tree && !behindRealTime s1 c j then bindFrom (stamp s1 j).2 255 c b (stamp s1 j).1 else rest
  | none => rest

/-- The first core with a grant. -/
def pickGrant (s : State) : Option State :=
  s.disp.stealGrant.findSome? (fun p => p.2.map (arriveGrant s p.1))

def execStealGrant (s : State) : Out := .next ((pickGrant s).getD s)

/-! ### Deadline requests (R353) -/

/-- The request that reached the dispatcher first. -/
def pickSetdl (s : State) : Option State :=
  match s.disp.setdl with
  | r :: t => some (applySetdl { s with disp := { s.disp with setdl := t } } r)
  | [] => none

def execSetdlRequest (s : State) : Out := .next ((pickSetdl s).getD s)

/-! ### Gangs (R344-R346) -/

/-- A gang request replaced. -/
def putGang (s : State) (g : GangReq) : State :=
  { s with disp := { s.disp with gangs := s.disp.gangs.map (fun x => if x.arrival = g.arrival then g else x) } }

/-- R344: the blocks a head request can reserve now. -/
def reservable (s : State) (g : GangReq) : List (Nat × Nat) :=
  if gangOpen s g && s.nowNs < (treeDeadline s g.tree).toNat then
    (maskCores g.mask).filterMap (fun c =>
      if g.held.any (fun b => b.1 == c) || coreDead s c then none
      else (freeBlocks s c g.record.width).head?.map (fun b => (c, b)))
  else []

/-- R344: a head request reserves a block on every core of its mask that has one free. -/
def pickReserve (s : State) : Option State :=
  (headGangs s).findSome? (fun g =>
    let l := reservable s g
    if l.isEmpty then none else some (putGang s { g with held := g.held ++ l }))

def execGangReservation (s : State) : Out := .next ((pickReserve s).getD s)

/-- R345: one member binds to its reserved block. -/
def startMember (g : GangReq) (s : State) (p : Nat × Nat) : State :=
  match g.held.find? (fun b => b.1 == p.1), g.ids[p.2]? with
  | some b, some id =>
    bindFrom s 255 b.1 b.2
      { record := memberRecord g.record p.2, tenant := g.tenant, tree := g.tree, job := id,
        arrival := g.arrival, rank := p.2, size := (maskCores g.mask).length }
  | _, _ => s

/-- R345: every core holds its reservation, so the members bind in rank order. -/
def pickGangStart (s : State) : Option State :=
  ((headGangs s).find? (fun g =>
    gangOpen s g && s.nowNs < (treeDeadline s g.tree).toNat &&
      (maskCores g.mask).all (fun c => g.held.any (fun b => b.1 == c)))).map (fun g =>
    (maskCores g.mask).zipIdx.foldl (startMember g)
      { s with disp := { s.disp with gangs := s.disp.gangs.filter (fun x => x.arrival != g.arrival) } })

def execGangStart (s : State) : Out := .next ((pickGangStart s).getD s)

/-- R346: the reservations of every request that names a core are released; the requests stay at
their places. -/
def releaseGangs (s : State) (core : Nat) : State :=
  { s with disp := { s.disp with gangs := s.disp.gangs.map (fun g =>
      if bit g.mask core then { g with held := [] } else g) } }

/-! ### Saved groups (R317, R365) -/

/-- The bytes of a core image (R317). -/
def imageBytes : Nat := 524288 + 1280

/-- The pages a core image spans, from its first byte on: pairs of an offset and a length. -/
def imageParts (base : Nat) : Nat → Nat → List (Nat × Nat)
  | 0, _ => []
  | fuel + 1, off =>
    if imageBytes ≤ off then []
    else
      let n := min (4096 - (base + off) % 4096) (imageBytes - off)
      (off, n) :: imageParts base fuel (off + n)

/-- R317: the descriptors and arrival state of a core, as bytes of its control window. -/
def imageTail (s : State) (core : Nat) : List Byte :=
  (List.range 160).flatMap (fun i => bytesOfNat 8 (ctlRead s core (0x80000 + 8 * i)).toNat)

/-- A window from the dwords of its descriptor and arrival state. -/
def windowOf (d : Nat → Nat) (a : Nat → Nat) : Window :=
  let w := (List.range 5).foldl (fun w j => Window.store w j (BitVec.ofNat 64 (d j))) ({} : Window)
  { w with
    lsize := bits (d 0) 55 51
    fill := BitVec.ofNat 32 (a 0 / 2 ^ 32)
    tail := BitVec.ofNat 32 (a 0)
    arrived := BitVec.ofNat 64 (a 1) }

/-- R317: the descriptors and arrival state of a core restored from its image. -/
def restoreTail (s : State) (core : Nat) (bs : List Byte) : State :=
  let d (i : Nat) : Nat := natOfBytes ((bs.drop (8 * i)).take 8)
  (List.range 16).foldl (fun s n =>
    setWin s core n (windowOf (fun j => d (8 * n + j)) (fun j => d (128 + 2 * n + j)))) s

/-- A part of a core image read into the core; one that cannot be read leaves the core's bytes (log entry 54:
DESIGN CHOICE). -/
def restorePart (core T base : Nat) (s : State) (p : Nat × Nat) : State :=
  let r := readAgent s recordAgent T (base + p.1) p.2
  match r.1 with
  | none => r.2
  | some bs =>
    let spad := bs.take (524288 - p.1)
    if spad = [] then r.2 else pokeLoc r.2 0 (spadLoc core p.1) spad

/-- The last 1,280 bytes of an image; a dword that cannot be read is 0 (log entry 54: DESIGN CHOICE). -/
def readTail (s : State) (T base : Nat) : List Byte × State :=
  (List.range 160).foldl (fun (a : List Byte × State) i =>
    let r := readAgent a.2 recordAgent T (base + 524288 + 8 * i) 8
    (a.1 ++ r.1.getD (bytesOfNat 8 0), r.2)) ([], s)

/-- R365: the core image is restored on a core. -/
def restoreImage (s : State) (core T base : Nat) : State :=
  let s1 := (imageParts base 131 0).foldl (restorePart core T base) s
  let t := readTail s1 T base
  restoreTail t.2 core t.1

/-- R363: a job the service complex still holds comes back to its lane block without running. -/
def holdJob (s : State) (core : Nat) (j : Job) : State :=
  let ra := BitVec.ofNat 48 (saveDword s j.pages 0x408)
  atHart s (hartKey core j.hid) fun s => updH s fun h =>
    { h.freed with
      stage := .service, width := j.record.width, pc := ra, job := { j with posted := [], graceEnd := none }
      jdl := treeDeadline s j.tree, jprog := j.jprog, lastPc := j.finalPc, units := j.units, posted := j.posted
      graceEnd := j.graceEnd }

/-- R365: the core for a saved group. -/
def groupCore (s : State) (g : SavedGroup) : Option Nat :=
  (List.range 96).find? (fun c =>
    currentTenant s c == g.tenant && coreOpen s c && (heldBlocks s c).isEmpty)

/-- R365: a saved group resumes; a job that had been pre-empted on its core, and whose lanes another
of the group holds, goes to the ready store again. -/
def restoreGroup (s : State) (g : SavedGroup) (core : Nat) : State :=
  let s1 := restoreImage { s with disp := { s.disp with saved := s.disp.saved.erase g } } core g.tenant g.image.toNat
  g.jobs.foldl (fun s j =>
    if (heldBlocks s core).any (fun b => blocksMeet b (j.hid, j.record.width / 4)) then returnReady s core j
    else if j.held then holdJob s core j
    else bindJob s core j.hid j) s1

/-- The pages of an image are translated; a host page whose translation is missing asks for it. -/
def imageWaits (s : State) (T base : Nat) : Bool × State :=
  (imageParts base 131 0).foldl (fun (a : Bool × State) p =>
    match agentXlate a.2 recordAgent T (base + p.1) p.2 .read with
    | .wait s1 => (true, s1)
    | .ok _ _ s1 => (a.1, s1)
    | .fault _ s1 => (a.1, s1)) (false, s)

/-- A saved group restored once every page of its image can be read. -/
def tryRestore (s : State) (g : SavedGroup) : Option State :=
  (groupCore s g).bind fun c =>
    let w := imageWaits s g.tenant g.image.toNat
    if !w.1 then some (restoreGroup w.2 g c) else if w.2 = s then none else some w.2

/-- The first saved group that has a core. -/
def pickRestore (s : State) : Option State := s.disp.saved.findSome? (tryRestore s)

def execSavedGroupRestore (s : State) : Out := .next ((pickRestore s).getD s)

end Sys2Proof.Machine
end

