-- ==== Sys2Proof/Machine/Spool.lean ====
section
/-! DEFINITION. Spools: their lists, sources and commands (R378-R380, R384), moves (R381-R383) and
ends. -/

namespace Sys2Proof.Machine

/-! ### Lists (R384) -/

/-- The lists of a spool in order of acceptance, those served later behind. -/
def getLists (s : State) (n : Nat) : List SpoolList := mapGet [] s.eng.lists n

/-- The lists of a spool replaced. -/
def setLists (s : State) (n : Nat) (l : List SpoolList) : State :=
  { s with eng := { s.eng with lists := mapSet [] s.eng.lists n l } }

/-- One list replaced. -/
def putList (s : State) (n : Nat) (l : SpoolList) : State :=
  setLists s n ((getLists s n).map (fun x => if x.serial = l.serial then l else x))

/-- A list that has had its turn goes behind the others (R384). -/
def turnList (s : State) (n : Nat) (l : SpoolList) : State :=
  setLists s n ((getLists s n).filter (fun x => x.serial != l.serial) ++ [l])

/-- The running lists of a spool in the order they are served: real-time ones first. -/
def served (s : State) (n : Nat) : List SpoolList :=
  let r := (getLists s n).filter (fun l => l.running)
  r.filter (fun l => l.rt) ++ r.filter (fun l => !l.rt)

/-- The spools. -/
def spoolNumbers : List Nat := List.range 24

/-- The first list, in spool order, for which something can be done. -/
def pickOn (s : State) (f : Nat → SpoolList → Option State) : Option State :=
  spoolNumbers.findSome? (fun n => (served s n).findSome? (f n))

/-- The packets of a list that have not landed. -/
def inFlight (s : State) (n serial : Nat) : Bool := s.eng.flight.any (fun p => p.list == (n, serial))

/-- R384, R387: the spool in a core's column on the nearer slice row. -/
def nearSpool (core : Nat) : Nat := if coreY core ≤ 4 then coreX core - 1 else 12 + (coreX core - 1)

/-- A list accepted by a spool; none when the spool holds 8 running and 16 queued ones. -/
def acceptList (s : State) (n : Nat) (l : SpoolList) : Option State :=
  let cur := getLists s n
  if 24 ≤ (cur.filter (fun x => !x.ended)).length then none
  else
    let kept := cur.filter (fun x => !(x.ended && x.addr == l.addr && x.tenant == l.tenant))
    let s1 := setLists s n (kept ++ [{ l with serial := s.eng.serial }])
    some { s1 with eng := { s1.eng with serial := s.eng.serial + 1 } }

/-! ### What a spool reads (R379-R381, R383) -/

/-- What a read gives. -/
inductive SRead where
  | ok (bs : List Byte) (s : State)
  | fault (s : State)
  /-- an uncorrectable error -/
  | bad (s : State)
  | wait (s : State)
  deriving DecidableEq, Repr

/-- The place of `n` bytes at an address of an agent for a tenant: absolute site addresses of scratchpads, and pages of the tenant.
The walks of tenant 0 skip the owner check (R403); `any` says that a page of any owner will do. -/
def addrOf (s : State) (a : Nat) (any : Bool) (T : Nat) (ea : Dword) (n : Nat) (k : Kind) : AX :=
  let v := ea.toNat
  if v / 2 ^ 56 = 0xFE then
    if bits v 43 20 != 0 || bit v 54 || 13 < bits v 53 49 || 9 < bits v 48 44 then .fault 0x12 s
    else
      match siteCheck s { hart := a, tenant := T, form := .other, kind := k } (bit v 55)
          (bits v 53 49) (bits v 48 44) (v % 2 ^ 20) 1 ea with
      | .ok (.mem l t) s1 => .ok l t s1
      | _ => .fault 0x12 s
  else if v / 2 ^ 48 = 0 then
    match agentEntry s a T v k with
    | .ok e s1 => if !any && T = 0 && bits e.leaf.toNat 63 58 != 0 then .fault 0x14 s1 else placeOf s1 e v n
    | .fault c s1 => .fault c s1
    | .wait s1 => .wait s1
  else .fault 0x11 s

/-- An address of a spool: a page of another tenant than the list's fails (R380, R383). -/
def spoolAddr (s : State) (n T : Nat) (ea : Dword) (len : Nat) (k : Kind) : AX :=
  addrOf s (spoolAgent n) false T ea len k

/-- Bytes within one page. -/
def spoolRead (s : State) (n T : Nat) (ea : Dword) (len : Nat) : SRead :=
  match spoolAddr s n T ea len .read with
  | .ok l t s1 =>
    match readLoc s1 t l len with
    | some bs => .ok bs s1
    | none => .bad (if isSpad l then askFence s1 (spadCore l) else s1)
  | .fault _ s1 => .fault s1
  | .wait s1 => .wait s1

/-- The page a spool's read of an address goes through: base and size. -/
def readPage (s : State) (n T : Nat) (ea : Dword) : Nat × Nat :=
  match tlbFind (mapGet [] s.tab.groupTlb (agentGroup (spoolAgent n))) T ea.toNat .read with
  | some e => (e.va, e.size)
  | none => (ea.toNat / 4096 * 4096, 4096)

/-- Bytes that may run into a second page. -/
def spoolReadAt (s : State) (n T : Nat) (ea : Dword) (len : Nat) : SRead :=
  let m := 4096 - ea.toNat % 4096
  if len ≤ m then spoolRead s n T ea len
  else
    match spoolRead s n T ea m with
    | .ok a s1 =>
      match spoolRead s1 n T (ea + BitVec.ofNat 64 m) (len - m) with
      | .ok b s2 => .ok (a ++ b) s2
      | r => r
    | r => r

/-! ### Commands (R378, R380) -/

/-- A list's next command as the spool reads it. -/
inductive CmdRead where
  | cmd (lo hi : Nat) (s : State)
  | fault (s : State)
  | bad (s : State)
  | wait (s : State)
  deriving DecidableEq, Repr

/-- Command `i` of a list. -/
def readCmd (s : State) (n : Nat) (l : SpoolList) (i : Nat) : CmdRead :=
  if l.single then
    if i = 0 then .cmd 0 (3 * 2 ^ 60) s
    else if i = 1 then .cmd l.recAddr.toNat (15 * 2 ^ 60) s
    else .fault s
  else
    match spoolRead s n l.tenant (l.addr + BitVec.ofNat 64 (16 * i)) 16 with
    | .ok bs s1 => .cmd (natOfBytes (bs.take 8)) (natOfBytes (bs.drop 8)) s1
    | .fault s1 => .fault s1
    | .bad s1 => .bad s1
    | .wait s1 => .wait s1

/-- R378: the bits of +0x08 below the opcode that a command uses. -/
def cmdUsed (hi : Nat) : Nat :=
  match bits hi 63 60 with
  | 0x1 => 3 * 2 ^ 58 + (if bits hi 59 58 = 0 then 2 ^ 18 - 1 else 2 ^ 24 - 1)
  | 0x2 => (2 ^ 26 - 1) * 2 ^ 32
  | 0x5 => 2 ^ 24 - 1
  | 0x6 => (2 ^ 14 - 1) * 2 ^ 46
  | 0x7 => 2 ^ 59 + 255 * 2 ^ 48 + (2 ^ 32 - 1)
  | 0x8 => 2 ^ 12 - 1
  | 0xA => 2 ^ 59 + (if bit hi 59 then 0 else 2 ^ 12 - 1)
  | _ => 0

/-- The address is a relative site address. -/
def isRelative (a : Nat) : Bool := a / 2 ^ 56 == 0xFE && bit a 54

/-- R379, R380: the types of a conversion. -/
def convType (t : Nat) : Bool := t == 9 || t == 0xA || t == 0xB || t == 0xC || t == 0xD

/-- R378: the values of a command are in range, and what must be 0 is. -/
def cmdGood (idx lo hi : Nat) : Bool :=
  (hi % 2 ^ 60 &&& cmdUsed hi) == hi % 2 ^ 60 && (idx != 255 || bits hi 63 60 == 0xF) &&
  match bits hi 63 60 with
  | 0x1 => if bits hi 59 58 = 0 then bits hi 17 0 != 0 && !isRelative lo else bits hi 23 0 != 0
  | 0x2 =>
    if bit hi 56 then
      isCoreSite (bits hi 55 51) (bits hi 50 46) && isCoreSite (bits hi 45 41) (bits hi 40 36) &&
        bits hi 55 51 ≤ bits hi 45 41 && bits hi 50 46 ≤ bits hi 40 36
    else isCoreSite (bits hi 55 51) (bits hi 50 46) && bits hi 45 36 == 0 && lo == 0
  | 0x3 => lo == 0
  | 0x4 => lo == 0
  | 0x5 => bits hi 23 0 != 0 && lo % 4 == 0 && !isRelative lo
  | 0x6 => lo == 0 && convType (bits hi 59 55) && convType (bits hi 54 50) && bits hi 49 47 ≤ 4
  | 0x7 => bits hi 55 48 < idx
  | 0x8 => lo == 0
  | 0x9 => true
  | 0xA => if bit hi 59 then !isRelative lo && lo % 64 == 0 else lo == 0
  | 0xB => lo % 32 == 0 && !isRelative lo
  | 0xF => lo % 32 == 0 && !isRelative lo
  | _ => false

/-! ### The source (R379) -/

/-- How many runs the source has. -/
def SpoolList.runs (l : SpoolList) : Nat :=
  match l.gather with
  | some g => g.2
  | none => l.cnt1 * l.cnt2 * l.cnt3

/-- The bytes of the source. -/
def SpoolList.srcBytes (l : SpoolList) : Nat := l.run * l.runs

/-- The size of an element before and after conversion. -/
def SpoolList.sizes (l : SpoolList) : Nat × Nat :=
  match l.conv with
  | some c => (typeWidth c.1 / 8, typeWidth c.2.1 / 8)
  | none => (1, 1)

/-- The bytes after conversion of the first `n` bytes of a run. -/
def SpoolList.converted (l : SpoolList) (n : Nat) : Nat := n / l.sizes.1 * l.sizes.2

/-- The bytes a move delivers. -/
def SpoolList.outBytes (l : SpoolList) : Nat := l.runs * l.converted l.run

/-- What finding a run's address gives. -/
inductive SAddr where
  | ok (a : Dword) (s : State)
  | fault (s : State)
  | bad (s : State)
  | wait (s : State)
  deriving DecidableEq, Repr

/-- The address of run `r`. -/
def runAddr (s : State) (n : Nat) (l : SpoolList) (r : Nat) : SAddr :=
  match l.gather with
  | none =>
    .ok (l.base + BitVec.ofNat 64 (r % l.cnt1) * l.str1 + BitVec.ofNat 64 (r / l.cnt1 % l.cnt2) * l.str2 +
      BitVec.ofNat 64 (r / l.cnt1 / l.cnt2) * l.str3) s
  | some g =>
    match spoolRead s n l.tenant (g.1 + BitVec.ofNat 64 (4 * r)) 4 with
    | .ok bs s1 => .ok (l.base + (BitVec.ofNat 32 (natOfBytes bs)).signExtend 64) s1
    | .fault s1 => .fault s1
    | .bad s1 => .bad s1
    | .wait s1 => .wait s1

/-- R381: the bytes of a chunk that begins at byte `o` of a run at address `a`. -/
def chunkLen (l : SpoolList) (a : Dword) (o : Nat) : Nat := min (256 - (a.toNat + o) % 256) (l.run - o)

/-- R380: bytes converted element by element. -/
def convertBytes (l : SpoolList) (bs : List Byte) : List Byte :=
  match l.conv with
  | none => bs
  | some (f, t, rm, sat) =>
    let n := l.sizes.1
    ((List.range (bs.length / n)).map (fun i =>
      bytesOfNat l.sizes.2
        (cvtFp (fmtOf f) (fmtOf t) (rmOf rm) sat (natOfBytes ((bs.drop (i * n)).take n))).bits)).flatten

/-- R380, R381: the bytes a chunk delivers: the elements whose last byte lies in it. -/
def chunkBytes (s : State) (n : Nat) (l : SpoolList) (a : Dword) (o m : Nat) : SRead :=
  let z := l.sizes.1
  let lo := o / z * z
  match spoolReadAt s n l.tenant (a + BitVec.ofNat 64 lo) ((o + m) / z * z - lo) with
  | .ok bs s1 => .ok (convertBytes l bs) s1
  | r => r

/-- The pages a chunk's bytes are read through (R410). -/
def chunkPages (s : State) (n : Nat) (l : SpoolList) (a : Dword) (o m : Nat) : List (Nat × Nat) :=
  let z := l.sizes.1
  [readPage s n l.tenant (a + BitVec.ofNat 64 (o / z * z)), readPage s n l.tenant (a + BitVec.ofNat 64 (o + m - 1))]

/-! ### Ends (R380, R383) -/

/-- R320: the completion record of a list. -/
def listRecord (n : Nat) (l : SpoolList) (status off idx : Nat) : List Byte :=
  bytesOfNat 8 (recordDword0 l.job.toNat n l.tenant 2 status) ++ bytesOfNat 8 off ++
  bytesOfNat 8 l.refused.toNat ++ bytesOfNat 8 (idx * 2 ^ 56 + l.delivered % 2 ^ 32)

/-- What finding the place of a record gives. -/
inductive RecPlace where
  /-- its location and key tag; none when no address is usable -/
  | at (p : Option (Nat × Nat)) (s : State)
  /-- a translation the place hangs on is outstanding -/
  | wait (s : State)
  deriving DecidableEq, Repr

/-- R380: the place a record's address names, if it is usable. -/
def recPlace (s : State) (n : Nat) (l : SpoolList) (ea : Dword) : RecPlace :=
  if ea.toNat % 32 != 0 || isRelative ea.toNat then .at none s
  else
    match spoolAddr s n l.tenant ea 32 .write with
    | .ok loc t s1 => .at (some (loc, t)) s1
    | .fault _ s1 => .at none s1
    | .wait s1 => .wait s1

/-- A record written at its place. -/
def putRecord (s : State) (p : Option (Nat × Nat)) (bs : List Byte) : State :=
  match p with
  | some (l, t) => (writeLoc s t l bs).getD s
  | none => s

/-- R380: the place the first END behind a failing command names, which is the last one read; `fuel`
bounds the search. -/
def endPlace (s : State) (n : Nat) (l : SpoolList) : Nat → Nat → RecPlace
  | 0, _ => .at none s
  | fuel + 1, i =>
    if 255 < i then .at none s
    else
      match readCmd s n l i with
      | .cmd lo hi s1 =>
        if bits hi 63 60 = 0xF then recPlace s1 n l (BitVec.ofNat 64 lo) else endPlace s1 n l fuel (i + 1)
      | .wait s1 => .wait s1
      | .fault s1 => .at none s1
      | .bad s1 => .at none s1

/-- R380: where the record of a list that ends early at a command is written. -/
def failPlace (s : State) (n : Nat) (l : SpoolList) (idx : Nat) : RecPlace :=
  match endPlace s n l 256 (idx + 1) with
  | .at none s1 => recPlace s1 n l l.recAddr
  | r => r

/-- The list has begun a move into the window, or has packets on their way to it. -/
def movesInto (s : State) (n : Nat) (l : SpoolList) (core w : Nat) : Bool :=
  s.eng.flight.any (fun p => p.list == (n, l.serial) && p.core == core && p.window == w) ||
  match l.move with
  | .idle => false
  | .push off => 0 < off && !l.twin && l.copyTo.isNone && coreAt l.x0 l.y0 == core && l.window == w
  | .mcast _ d => d.any (fun x => x.1 == core && x.2.1 == w)

/-- R369: a spool gives a window up when none of its lists moves into it any more. -/
def unclaim (s : State) (n core w : Nat) : State :=
  let x := getWin s core w
  if x.claimed && x.claimant == n && !(getLists s n).any (fun l => movesInto s n l core w) then
    setWin s core w { x with claimed := false }
  else s

/-- R369, R371: what a list still holds of windows is released. -/
def releaseMove (s : State) (n : Nat) (l : SpoolList) : State :=
  let s0 := putList s n { l with move := .idle }
  match l.move with
  | .idle => s0
  | .push off => if off = 0 || l.twin || l.copyTo.isSome then s0 else unclaim s0 n (coreAt l.x0 l.y0) l.window
  | .mcast _ d =>
    d.foldl (fun s x =>
      let w := getWin s x.1 x.2.1
      if 128 ≤ x.1 then s
      else if w.expects x.2.2 then setWin s x.1 x.2.1 (w.release x.2.2)
      else unclaim s n x.1 x.2.1) s0

/-- What stays of a list that has ended. -/
def SpoolList.over (l : SpoolList) : SpoolList :=
  { serial := l.serial, addr := l.addr, tenant := l.tenant, tree := 0, hostPost := true, ended := true,
    delivered := l.delivered }

/-- The list ends with a status; its record goes to its place, and what its spool still asked for is
asked again by the lists that need it. -/
def endList (s : State) (n : Nat) (l : SpoolList) (p : Option (Nat × Nat)) (status off idx : Nat) : State :=
  let s1 := dropWalks (releaseMove s n l) (spoolAgent n)
  putList (putRecord s1 p (listRecord n l status off idx)) n l.over

/-- R380, R383: the list ends early, once the place of its record is known. -/
def failList (s : State) (n : Nat) (l : SpoolList) (f : SpoolFail) : State :=
  match failPlace s n l f.idx with
  | .at p s1 => endList s1 n l p f.status f.offset f.idx
  | .wait s1 => s1

/-- The list is to end early once its chunks have landed. -/
def markFail (s : State) (n : Nat) (l : SpoolList) (status off : Nat) : State :=
  putList s n { l with fail := some ⟨status, off, l.idx⟩, waiting := false }

/-- A bad command (R380). -/
def badCmd (s : State) (n : Nat) (l : SpoolList) : State := markFail s n l 9 0

/-- The list goes on with its next command. -/
def goOn (s : State) (n : Nat) (l : SpoolList) : State := putList s n { l with idx := l.idx + 1, waiting := false }

end Sys2Proof.Machine
end

