-- ==== Sys2Proof/Machine/SpoolCmds.lean ====
section
/-! DEFINITION. What a spool does by itself: its list commands (R379, R380), chunks (R381, R382),
arrivals (R370), starts and ends of lists (R384, R383). -/

namespace Sys2Proof.Machine

/-- A command event of an opcode: on the first list whose next command it is, `act` is applied to
the command's two dwords; none where the list waits. -/
def onCmd (s : State) (op : Nat → Bool) (act : State → Nat → SpoolList → Nat → Nat → Option State) : Option State :=
  pickOn s fun n l =>
    if l.move != .idle || l.fail.isSome || l.cancel then none
    else
      match readCmd s n l l.idx with
      | .cmd lo hi s1 =>
        if !op hi then none
        else if !cmdGood l.idx lo hi then some (badCmd s1 n l)
        else act s1 n l lo hi
      | .wait s1 => if s1 = s then none else some s1
      | _ => none

/-- The opcode of a command. -/
def opIs (o : Nat) (hi : Nat) : Bool := bits hi 63 60 == o

/-- A command that only changes the list. -/
def onList (s : State) (o : Nat) (f : SpoolList → Nat → Nat → SpoolList) : Option State :=
  onCmd s (opIs o) fun s n l lo hi => some (goOn s n (f l lo hi))

/-- An event: where it is not enabled nothing changes (log entry 23: DESIGN CHOICE). -/
def event (s : State) (o : Option State) : Out := .next (o.getD s)

/-! ### Source, destination, conversion (R379, R380) -/

/-- R379: a dimension of the source. -/
def setSrc (l : SpoolList) (lo hi : Nat) : SpoolList :=
  let c := bits hi 23 0
  let d := BitVec.ofNat 64 lo
  match bits hi 59 58 with
  | 0 => { l with
      base := d, run := bits hi 17 0, hasSrc := true, gather := none
      cnt1 := 1, cnt2 := 1, cnt3 := 1, str1 := 0, str2 := 0, str3 := 0 }
  | 1 => { l with cnt1 := c, str1 := d }
  | 2 => { l with cnt2 := c, str2 := d }
  | _ => { l with cnt3 := c, str3 := d }

/-- R379: the destination. -/
def setDst (l : SpoolList) (lo hi : Nat) : SpoolList :=
  { l with
    hasDst := true, twin := bit hi 57, rect := bit hi 56
    x0 := bits hi 55 51, y0 := bits hi 50 46, x1 := bits hi 45 41, y1 := bits hi 40 36
    window := bits hi 35 32, dmask := BitVec.ofNat 64 lo }

/-- R380: the conversion; a type turned into itself turns it off. -/
def setConv (l : SpoolList) (_lo hi : Nat) : SpoolList :=
  { l with conv := if bits hi 59 55 = bits hi 54 50 then none
    else some (bits hi 59 55, bits hi 54 50, BitVec.ofNat 3 (bits hi 49 47), bit hi 46) }

/-- R380: LOOP. -/
def loopCmd (s : State) (n : Nat) (l : SpoolList) (lo hi : Nat) : State :=
  let lvl1 := bit hi 59
  let c := ((if lvl1 then l.loop1 else l.loop0)).getD (bits hi 31 0)
  let put (v : Option Nat) : SpoolList := if lvl1 then { l with loop1 := v } else { l with loop0 := v }
  if c = 0 then goOn s n (put none)
  else putList s n { put (some (c - 1)) with base := l.base + BitVec.ofNat 64 lo, idx := bits hi 55 48 }

def pickSrc (s : State) : Option State := onList s 1 setSrc
def pickDst (s : State) : Option State := onList s 2 setDst
def pickGather (s : State) : Option State :=
  onList s 5 fun l lo hi => { l with gather := some (BitVec.ofNat 64 lo, bits hi 23 0) }
def pickCvt (s : State) : Option State := onList s 6 setConv
def pickLoop (s : State) : Option State := onCmd s (opIs 7) fun s n l lo hi => some (loopCmd s n l lo hi)

/-! ### Waits (R380, R430) -/

/-- A wait of a list: it goes on when `ready`; else it is marked as waiting, once. -/
def listWait (s : State) (n : Nat) (l : SpoolList) (ready : Bool) : Option State :=
  if ready then some (goOn s n l)
  else if l.waiting then none
  else some (putList s n { l with waiting := true })

/-- R380: WAITD. -/
def pickWaitd (s : State) : Option State :=
  onCmd s (opIs 8) fun s n l _ hi =>
    let c := getCtr s (bits hi 11 0)
    if c.owner != l.tenant then some (badCmd s n l)
    else listWait s n l (c.state == .done || c.state == .error || c.state == .dropped)

/-- R380: AT as it is reached: a time already past lets the list go on. -/
def pickAt (s : State) : Option State :=
  onCmd s (opIs 9) fun s n l lo _ => if l.waiting then none else listWait s n l (lo ≤ s.nowNs)

/-- R430: the time of an AT is reached. -/
def pickAtTimer (s : State) : Option State :=
  onCmd s (opIs 9) fun s n l lo _ => if l.waiting && lo ≤ s.nowNs then some (goOn s n l) else none

/-! ### NOTIFY, REC and END (R380) -/

/-- A command that waits for every earlier chunk. -/
def onLanded (s : State) (op : Nat → Bool) (act : State → Nat → SpoolList → Nat → Nat → Option State) :
    Option State :=
  onCmd s op fun s n l lo hi => if inFlight s n l.serial then none else act s n l lo hi

/-- R380: NOTIFY, kind 0. -/
def pickNotifyDec (s : State) : Option State :=
  onLanded s (fun hi => opIs 0xA hi && !bit hi 59) fun s n l _ hi =>
    let c := bits hi 11 0
    if (getCtr s c).owner != l.tenant then some (badCmd s n l) else some (goOn (depDecStep s c 1) n l)

/-- R380: a job made by a list, in its poster's tree, or in a new one for the host or firmware. -/
def notifyJob (s : State) (l : SpoolList) (r : JobRec) : State :=
  let t := if l.hostPost then newTree s l.tenant r.deadline else (l.tree, s)
  if treeAbandoned t.2 t.1 then t.2
  else
    let j := createJob t.2 r l.tenant t.1 255
    pushPool j.2 j.1

/-- R380: NOTIFY, kind 1. -/
def pickNotifyPost (s : State) : Option State :=
  onLanded s (fun hi => opIs 0xA hi && bit hi 59) fun s n l lo _ =>
    match spoolRead s n l.tenant (BitVec.ofNat 64 lo) 64 with
    | .ok bs s1 =>
      let r := parseRec (natOfBytes bs)
      if r.malformed false then some (badCmd s1 n l) else some (goOn (notifyJob s1 l r) n l)
    | .fault s1 => some (badCmd s1 n l)
    | .bad s1 => some (markFail s1 n l 0xB 0)
    | .wait s1 => if s1 = s then none else some s1

/-- R380: REC: a record of what has been done so far. -/
def pickRec (s : State) : Option State :=
  onLanded s (opIs 0xB) fun s n l lo _ =>
    match recPlace s n l (BitVec.ofNat 64 lo) with
    | .at none s1 => some (badCmd s1 n l)
    | .at p s1 => some (goOn (putRecord s1 p (listRecord n l 1 0 0)) n l)
    | .wait s1 => if s1 = s then none else some s1

/-- The next command cannot be read, or its opcode is reserved. -/
def cmdBroken (s : State) (n : Nat) (l : SpoolList) : Option SpoolFail :=
  match readCmd s n l l.idx with
  | .fault _ => some ⟨9, 0, l.idx⟩
  | .bad _ => some ⟨0xB, 0, l.idx⟩
  | .cmd _ hi _ =>
    if bits hi 63 60 = 0 || bits hi 63 60 = 0xC || bits hi 63 60 = 0xD || bits hi 63 60 = 0xE then some ⟨9, 0, l.idx⟩
    else none
  | .wait _ => none

/-- R359, R383: how a list that is to end early ends. -/
def endsEarly (s : State) (n : Nat) (l : SpoolList) : Option SpoolFail :=
  match l.fail with
  | some f => some f
  | none =>
    if l.cancel then
      some ⟨8, match l.move with | .push o => o | .mcast o _ => o | .idle => 0, l.idx⟩
    else if l.running && l.move == .idle then cmdBroken s n l
    else none

/-- A list ends early, once its chunks have landed; one that is queued still can. -/
def pickEarly (s : State) : Option State :=
  spoolNumbers.findSome? (fun n => (getLists s n).findSome? (fun l =>
    if l.ended || inFlight s n l.serial then none
    else (endsEarly s n l).bind (fun f =>
      let s1 := failList s n l f
      if s1 = s then none else some s1)))

/-- R380: END. -/
def pickEndCmd (s : State) : Option State :=
  onLanded s (opIs 0xF) fun s n l lo _ =>
    match recPlace s n l (BitVec.ofNat 64 lo) with
    | .at none s1 => some (badCmd s1 n l)
    | .at p s1 => some (endList s1 n l p (if l.refused = 0 then 1 else 0xA) 0
        (if l.refused = 0 then 0 else l.refusedIdx))
    | .wait s1 => if s1 = s then none else some s1

/-- A list ends, early or at its END. -/
def pickEnd (s : State) : Option State := (pickEarly s).orElse fun _ => pickEndCmd s

/-! ### Moves (R381, R382) -/

/-- R379, R380: a move under a destination of a form can begin. -/
def canMove (l : SpoolList) (rect : Bool) : Bool :=
  l.hasSrc && l.hasDst && l.rect == rect && l.run % l.sizes.1 == 0

/-- R381: PUSH. -/
def pickPush (s : State) : Option State :=
  onCmd s (opIs 3) fun s n l _ _ =>
    if canMove l false then some (putList s n { l with move := .push 0 }) else some (badCmd s n l)

/-- R383: why a core of the twin takes nothing from a tenant's list: the tether is down, its site is
fenced, or it is another tenant's. -/
def twinRefuses (s : State) (core tenant : Nat) : Option Nat :=
  let e := mapGet ({} : CoreEntry) s.tab.twinCores core
  if !s.tetherUp then some 9
  else if e.fenced then some 6
  else if tenant != 0 && e.current != tenant then some 9
  else none

/-- R382: an enabled receiver accepts: it reserves the whole count and is claimed.  What the window of a
core of the twin answers is a free value (log entry 24: DESIGN CHOICE). -/
def offer (s : State) (n : Nat) (l : SpoolList) (core : Nat) : Option (Nat × BitVec 32) × State :=
  let w := getWin s core l.window
  if l.twin then
    let f := freshFree s
    (if (twinRefuses s core l.tenant).isNone && f.1.getLsbD 0 then some (128 + core, 0) else none, f.2)
  else if (coreEntry s core).fenced || !admits s core l.tenant || w.claimed ||
      (w.mode != 1 && w.mode != 3) then
    (none, s)
  else
    match w.reserve l.outBytes with
    | none => (none, s)
    | some w1 =>
      (some (core, w.fill), setWin s core l.window { w1 with claimed := true, claimant := n })

/-- R379: the core of receiver `r`. -/
def receiver (l : SpoolList) (r : Nat) : Nat :=
  let c := l.x1 - l.x0 + 1
  coreAt (l.x0 + r % c) (l.y0 + r / c)

/-- R382, R386: the enabled receivers of a rectangle. -/
def receivers (l : SpoolList) : List Nat :=
  (List.range (min 64 ((l.x1 - l.x0 + 1) * (l.y1 - l.y0 + 1)))).filter (fun r => (l.dmask &&& l.andMask).getLsbD r)

/-- R382: every enabled receiver is offered the whole count. -/
def offerAll (s : State) (n : Nat) (l : SpoolList) : List Nat → List (Nat × Nat × BitVec 32) → Dword →
    State × List (Nat × Nat × BitVec 32) × Dword
  | [], d, m => (s, d, m)
  | r :: t, d, m =>
    let o := offer s n l (receiver l r)
    match o.1 with
    | some p => offerAll o.2 n l t (d ++ [(p.1, l.window, p.2)]) m
    | none => offerAll o.2 n l t d (m ||| BitVec.ofNat 64 (2 ^ r))

/-- R382: MCAST. -/
def pickMcast (s : State) : Option State :=
  onCmd s (opIs 4) fun s n l _ _ =>
    if !canMove l true then some (badCmd s n l)
    else
      let o := offerAll s n l (receivers l) [] 0
      let l1 := { l with
        refused := l.refused ||| o.2.2
        refusedIdx := if l.refused = 0 then l.idx else l.refusedIdx }
      if o.2.1 = [] then some (goOn o.1 n l1)
      else some (putList o.1 n { l1 with move := .mcast 0 o.2.1 })

/-- R381 step 1: how a window stands to a chunk of a spool. -/
inductive Space where
  | taken (w : Window)
  | full
  | failed (status : Nat)
  deriving DecidableEq, Repr

/-- R381: another spool's claim, or another list of this spool that moves into the window, keeps a PUSH
waiting. -/
def windowBusy (s : State) (n : Nat) (l : SpoolList) (core : Nat) (w : Window) : Bool :=
  w.claimed && (w.claimant != n ||
    (getLists s n).any (fun x => x.serial != l.serial && movesInto s n x core l.window))

/-- R381: the window of the twin has room at this moment: a free value (log entry 24: DESIGN CHOICE). -/
def twinRoom (s : State) (core window : Nat) : Bool :=
  (Config.freeValue (2 ^ 64 * (1 + 16 * core + window) + s.nowNs)).getLsbD 0

/-- R381, R383: the destination of a PUSH asked for `m` bytes; a fenced core comes before another tenant's (log
entry 57: DESIGN CHOICE). -/
def pushSpace (s : State) (n : Nat) (l : SpoolList) (m : Nat) : Space :=
  let core := coreAt l.x0 l.y0
  let w := getWin s core l.window
  if (coreEntry s core).fenced then .failed 6
  else if !admits s core l.tenant then .failed 9
  else if (w.mode != 1 && w.mode != 3) || windowBusy s n l core w then .full
  else
    match w.reserve m with
    | none => .full
    | some w1 => .taken { w1 with claimed := true, claimant := n }

/-- A packet sent. -/
def sendPacket (s : State) (p : Packet) : State := { s with eng := { s.eng with flight := s.eng.flight ++ [p] } }

/-- The list once a chunk that ends at source byte `next` has been sent. -/
def afterChunk (s : State) (n : Nat) (l : SpoolList) (next : Nat) (mv : SpoolMove) : State :=
  if l.srcBytes ≤ next then turnList s n { l with move := .idle, idx := l.idx + 1, waiting := false }
  else turnList s n { l with move := mv, waiting := false }

/-- A list that waits: marked once. -/
def stay (s : State) (n : Nat) (l : SpoolList) : Option State :=
  if l.waiting then none else some (putList s n { l with waiting := true })

/-- R381 steps 1 to 3 for a chunk of `m` source bytes at offset `off`, at address `a + o`. -/
def pushChunk (s : State) (n : Nat) (l : SpoolList) (off : Nat) (a : Dword) (o m : Nat) : Option State :=
  let core := coreAt l.x0 l.y0
  let out := l.converted (o + m) - l.converted o
  let next := off + m
  let pkt (s : State) (c : Nat) (pos : BitVec 32) (bs : List Byte) : Packet :=
    { core := c, window := l.window, pos := pos, data := bs, list := (n, l.serial), idx := l.idx, off := off,
      tenant := l.tenant, pages := chunkPages s n l a o m }
  if l.twin then
    match twinRefuses s core l.tenant with
    | some st => some (markFail s n l st off)
    | none =>
      if !twinRoom s core l.window then stay s n l
      else
        match chunkBytes s n l a o m with
        | .ok bs s1 => some (afterChunk (sendPacket s1 (pkt s1 (128 + core) 0 bs)) n l next (.push next))
        | .fault s1 => some (markFail s1 n l 9 off)
        | .bad s1 => some (markFail s1 n l 0xB off)
        | .wait s1 => if s1 = s then none else some s1
  else
    match pushSpace s n l out with
    | .failed st => some (markFail s n l st off)
    | .full => stay s n l
    | .taken w =>
      let pos := (getWin s core l.window).fill
      match chunkBytes s n l a o m with
      | .ok bs s1 =>
        some (afterChunk (sendPacket (setWin s1 core l.window w) (pkt s1 core pos bs)) n l next (.push next))
      -- the reservation made for the chunk is released (R371)
      | .fault s1 => some (markFail (setWin s1 core l.window (w.release pos)) n l 9 off)
      | .bad s1 => some (markFail (setWin s1 core l.window (w.release pos)) n l 0xB off)
      | .wait s1 => if s1 = s then none else some s1

/-- R382: a chunk of an MCAST goes to every accepting receiver. -/
def mcastChunk (s : State) (n : Nat) (l : SpoolList) (off : Nat) (d : List (Nat × Nat × BitVec 32))
    (a : Dword) (o m : Nat) : Option State :=
  let r := off / l.run
  let at0 := r * l.converted l.run + l.converted o
  match chunkBytes s n l a o m with
  | .ok bs s1 =>
    let s2 := d.foldl (fun s x => sendPacket s
      { core := x.1, window := x.2.1, pos := x.2.2 + BitVec.ofNat 32 at0, data := bs, list := (n, l.serial),
        idx := l.idx, off := off, tenant := l.tenant, pages := chunkPages s1 n l a o m }) s1
    some (afterChunk s2 n l (off + m) (.mcast (off + m) d))
  | .fault s1 => some (markFail s1 n l 9 off)
  | .bad s1 => some (markFail s1 n l 0xB off)
  | .wait s1 => if s1 = s then none else some s1

/-- Bytes written by a COPY, page by page. -/
def copyOut (n : Nat) (l : SpoolList) : Nat → Dword → List Byte → State → SRead
  | 0, _, _, s => .ok [] s
  | fuel + 1, ea, bs, s =>
    if bs = [] then .ok [] s
    else
      let part := bs.take (4096 - ea.toNat % 4096)
      match spoolAddr s n l.tenant ea part.length .write with
      | .ok loc t s1 =>
        match writeLoc s1 t loc part with
        | some s2 => copyOut n l fuel (ea + BitVec.ofNat 64 part.length) (bs.drop part.length) s2
        | none => .bad s1
      | .fault _ s1 => .fault s1
      | .wait s1 => .wait s1

/-- R456: a chunk of a COPY. -/
def copyChunk (s : State) (n : Nat) (l : SpoolList) (dst : Dword) (off : Nat) (a : Dword) (o m : Nat) : Option State :=
  match chunkBytes s n l a o m with
  | .ok bs s1 =>
    match copyOut n l 2 (dst + BitVec.ofNat 64 off) bs s1 with
    | .ok _ s2 => some (afterChunk s2 n { l with delivered := l.delivered + 1 } (off + m) (.push (off + m)))
    | .fault s2 => some (markFail s2 n l 9 off)
    | .bad s2 => some (markFail s2 n l 0xB off)
    | .wait s2 => if s2 = s then none else some s2
  | .fault s1 => some (markFail s1 n l 9 off)
  | .bad s1 => some (markFail s1 n l 0xB off)
  | .wait s1 => if s1 = s then none else some s1

/-- A source of no bytes cannot be, so a move always has a next chunk; the list's move given. -/
def chunkOf (s : State) (n : Nat) (l : SpoolList) (off : Nat)
    (f : State → Dword → Nat → Nat → Option State) : Option State :=
  let r := off / l.run
  let o := off % l.run
  match runAddr s n l r with
  | .ok a s1 => f s1 a o (chunkLen l a o)
  | .fault s1 => some (markFail s1 n l 9 off)
  | .bad s1 => some (markFail s1 n l 0xB off)
  | .wait s1 => if s1 = s then none else some s1

/-- R381, R382, R384: the next chunk of the first list that can send one. -/
def pickChunk (s : State) : Option State :=
  pickOn s fun n l =>
    if l.fail.isSome || l.cancel then none
    else
      match l.move with
      | .idle => none
      | .push off =>
        chunkOf s n l off fun s1 a o m =>
          match l.copyTo with
          | some dst => copyChunk s1 n l dst off a o m
          | none => pushChunk s1 n l off a o m
      | .mcast off d => chunkOf s n l off fun s1 a o m => mcastChunk s1 n l off d a o m

/-! ### Arrivals (R370, R383) -/

/-- The list that sent a packet. -/
def senderOf (s : State) (p : Packet) : Option SpoolList :=
  (getLists s p.list.1).find? (fun l => l.serial == p.list.2 && !l.ended)

/-- R383: why a packet cannot land; a fenced core comes before another tenant's (log entry 57: DESIGN CHOICE).  A
window of the twin may have been turned off on the way: a free
value (log entry 24: DESIGN CHOICE). -/
def landFails (s : State) (p : Packet) (tenant : Nat) : Option Nat :=
  let w := getWin s p.core p.window
  if 128 ≤ p.core then
    (twinRefuses s (p.core - 128) tenant).or (if (Config.freeValue s.free).getLsbD 1 then some 9 else none)
  else if (coreEntry s p.core).fenced then some 6
  else if !admits s p.core tenant then some 9
  else if w.mode != 1 && w.mode != 3 then some 9
  else if p.data != [] && !w.expects p.pos then some 9
  else none

/-- R370: a chunk lands: its bytes are in the window, which moves on; the Bool says that a part was
dropped (R265). -/
def landIn (s : State) (p : Packet) : State × Bool :=
  if 128 ≤ p.core then ({ s with free := s.free + 1 }, false)
  else
    let r := putWindow s p.core p.window p.pos p.data
    let s1 := countEv r.1 p.core none 0x15 1
    (setWin s1 p.core p.window ((getWin s1 p.core p.window).land p.pos p.data.length), r.2)

/-- R371: the reservation of a packet that is refused where it should land is released. -/
def refusePacket (s : State) (p : Packet) : State :=
  let w := getWin s p.core p.window
  if 128 ≤ p.core then { s with free := s.free + 1 }
  else if w.expects p.pos then setWin s p.core p.window (w.release p.pos)
  else s

/-- A list whose packet has failed is to end early; the first failure counts. -/
def failOnce (l : SpoolList) (st : Nat) (p : Packet) : SpoolList :=
  if l.fail.isSome then l else { l with fail := some ⟨st, p.off, p.idx⟩, waiting := false }

/-- A packet arrives; with the last one of a move the window is given up (R369). -/
def landPacket (s : State) (p : Packet) : State :=
  let n := p.list.1
  match senderOf s p with
  | none => s
  | some l =>
    let t := match landFails s p l.tenant with
      | some st => putList (refusePacket s p) n (failOnce l st p)
      | none =>
        let r := landIn s p
        putList r.1 n (if r.2 then failOnce l 0xB p else { l with delivered := l.delivered + 1 })
    unclaim t n p.core p.window

/-- The oldest packet arrives. -/
def pickLand (s : State) : Option State :=
  match s.eng.flight with
  | [] => none
  | p :: t => some (landPacket { s with eng := { s.eng with flight := t } } p)

/-- R381, R479: a chunk of a list of the twin reserves its space and lands; one that a window does not take
stays with the twin. -/
def twinPushIn (s : State) (core n tenant : Nat) (bs : List Byte) : State :=
  let w := getWin s core n
  if !s.tetherUp || 96 ≤ core || (coreEntry s core).fenced || !admits s core tenant ||
      (w.mode != 1 && w.mode != 3) || w.claimed then s
  else
    match w.reserve bs.length with
    | none => s
    | some w1 =>
      let s1 := (putWindow (setWin s core n w1) core n w.fill bs).1
      countEv (setWin s1 core n ((getWin s1 core n).land w.fill bs.length)) core none 0x15 1

/-- A chunk of the twin at the head of the inputs, or the oldest packet of this device. -/
def pickArrival (s : State) : Option State :=
  (takeInput s fun i s1 =>
    match i with
    | .twinPush core n tenant bs => some (twinPushIn s1 core (n % 16) tenant bs)
    | _ => none).orElse fun _ => pickLand s

/-! ### Starts (R384) -/

/-- R384, R479: a list that the twin posts here, its commands in a scratchpad of this device, goes to the spool
in that core's column on the nearer slice row, to spool 0 where the address names none; a full one does not take
it, and its tree is the twin's affair (log entry 24: DESIGN CHOICE). -/
def twinPost (s : State) (addr : Dword) (tenant : Nat) (job : BitVec 32) (mask : Dword) (rt : Bool) : State :=
  let x := bits addr.toNat 53 49
  let y := bits addr.toNat 48 44
  let here := addr &&& ~~~(1 <<< 55 : Dword)
  let l : SpoolList :=
    { serial := 0, addr := here, tenant := tenant, tree := 0, hostPost := true, job := job, rt := rt, andMask := mask
      recAddr := here &&& ~~~(31 : Dword) }
  if !s.tetherUp then s else (acceptList s (if isCoreSite x y then nearSpool (coreAt x y) else 0) l).getD s

/-- A list of the twin at the head of the inputs. -/
def pickTwinList (s : State) : Option State :=
  takeInput s fun i s1 =>
    match i with
    | .twinList addr tenant job mask rt => some (twinPost s1 addr tenant job mask rt)
    | _ => none

/-- R384: a queued list starts on a spool that runs fewer than 8. -/
def pickStart (s : State) : Option State :=
  spoolNumbers.findSome? (fun n =>
    let ls := getLists s n
    if 8 ≤ (ls.filter (fun l => l.running)).length then none
    else
      (ls.find? (fun l => !l.running && !l.ended && !l.cancel)).map (fun l => putList s n { l with running := true }))

/-! ### The events -/

def execListStart (s : State) : Out := event s ((pickTwinList s).orElse fun _ => pickStart s)
def execSpoolChunk (s : State) : Out := event s (pickChunk s)
def execChunkArrival (s : State) : Out := event s (pickArrival s)
def execSrc (s : State) : Out := event s (pickSrc s)
def execDst (s : State) : Out := event s (pickDst s)
def execPush (s : State) : Out := event s (pickPush s)
def execMcast (s : State) : Out := event s (pickMcast s)
def execGather (s : State) : Out := event s (pickGather s)
def execCvt (s : State) : Out := event s (pickCvt s)
def execClistLoop (s : State) : Out := event s (pickLoop s)
def execWaitd (s : State) : Out := event s (pickWaitd s)
def execAtTime (s : State) : Out := event s (pickAt s)
def execAtTimer (s : State) : Out := event s (pickAtTimer s)
def execNotifyDec (s : State) : Out := event s (pickNotifyDec s)
def execNotifyPost (s : State) : Out := event s (pickNotifyPost s)
def execRecRecord (s : State) : Out := event s (pickRec s)
def execEndList (s : State) : Out := event s (pickEnd s)

end Sys2Proof.Machine
end

