-- ==== Sys2Proof/Machine/SpoolOps.lean ====
section
/-! DEFINITION. The spool instructions (R385-R388). -/

namespace Sys2Proof.Machine

/-- R385: the page of an address as the hart translates it: location, and the owner in its leaf. -/
def splPage (s : State) (ea : Dword) (n : Nat) : XRes (Nat × Nat) :=
  (resolve s (acc s .other .read) ea n).bind fun t s1 =>
    (xlate s1 s1.hart.key s1.hart.job.tenant ea.toNat .read).bind fun e s2 =>
      match t with
      | .mem l _ => .ok (l, bits e.leaf.toNat 63 58) s2
      | _ => .fault ⟨0x12, ea⟩ s2

/-- The list of a post by the hart in focus. -/
def newList (s : State) (ea : Dword) (mask : Dword) (rec : Dword) : SpoolList :=
  let j := s.hart.job
  { serial := 0, addr := ea, tenant := j.tenant, tree := j.tree, job := j.job,
    rt := treeDeadline s j.tree != bestEffort, grace := s.hart.tr.grc, andMask := mask, recAddr := rec }

/-- R385: a list accepted or not. -/
def giveList (sd : BitVec 5) (n : Nat) (l : SpoolList) (s : State) : Res :=
  match acceptList s n l with
  | some s1 => .ok (wrS s1 sd 0)
  | none => .ok (wrS s sd 1)

/-- R384, R479: the address names the twin. -/
def namesTwin (ea : Dword) : Bool := ea.toNat / 2 ^ 56 == 0xFE && bit ea.toNat 55

/-- R384, R385, R480: what the twin answers about a list of its spools: a free value in the form of the register
(log entry 24: DESIGN CHOICE). -/
def twinAnswer (i : Instr) (sd : BitVec 5) (ea : Dword) (keep : Dword) (s : State) : Res :=
  if !s.tetherUp then xtrap 0x12 ea s
  else afterQueue i s fun s1 => .ok (wrS (freshFree s1).2 sd ((freshFree s1).1 &&& keep))

/-- R385: what every post does before it is posted; the order is that of log entry 42 (DEDUCED). -/
def splPost (i : Instr) (sd : BitVec 5) (ea : Dword) (n : Nat) (s : State) (f : Nat → State → Res) : Res :=
  if treeAbandoned s s.hart.job.tree && !s.hart.tr.grc then .ok (wrS s sd 5)
  else if ea.toNat % n != 0 then xtrap 0x10 ea s
  else if namesTwin ea && n == 16 then twinAnswer i sd ea 1 s
  else if ea.toNat / 2 ^ 56 = 0xFE then .ok (wrS s sd 3)
  else
    ofLoad (splPage s ea n) fun p s1 =>
      if s1.hart.job.tenant = 0 && p.2 != 0 then .ok (wrS s1 sd 3)
      else afterQueue i s1 (f p.1)

/-- R384: the spool a list runs on. -/
def spoolFor (s : State) (l : Nat) : Nat := if isDram l then homeSlice l else nearSpool s.hart.core

/-- R386: a list posted as written, or with its receiver masks ANDed. -/
def splList (i : Instr) (sd sa : BitVec 5) (mask : Dword) (s : State) : Res :=
  let ea := rdS s sa
  splPost i sd ea 16 s fun loc s1 =>
    giveList sd (spoolFor s1 loc) (newList s1 ea mask (ea &&& ~~~(31 : Dword))) s1

def execSplRun (sd sa : BitVec 5) (s : State) : Out :=
  finish (splList (.splRun sd sa) sd sa (BitVec.allOnes 64) s)
def execSplMcast (sd sa sb : BitVec 5) (s : State) : Out :=
  finish (splList (.splMcast sd sa sb) sd sa (rdS s sb) s)

/-! ### `spl.push` (R387) -/

/-- R387: the site a push block names, if it is a core site. -/
def pushSite (core : Nat) (d : Nat) : Option (Nat × Nat) :=
  let v := BitVec.ofNat 64 d
  let x : Int := if bit d 54 then (coreX core : Int) + (v.extractLsb' 49 5).toInt else bits d 53 49
  let y : Int := if bit d 54 then (coreY core : Int) + (v.extractLsb' 44 5).toInt else bits d 48 44
  if 1 ≤ x ∧ x ≤ 12 ∧ 1 ≤ y ∧ y ≤ 8 then some (x.toNat, y.toNat) else none

/-- R387: the fields of a push block that must be 0 are, and its count is in range. -/
def pushGood (x : Nat) : Bool :=
  let d := imageD x
  d 1 / 2 ^ 56 == 0xFE && bits (d 1) 43 20 == 0 && bits (d 1) 19 4 == 0 && d 2 / 2 ^ 32 == 0 &&
    1 ≤ d 2 && d 2 ≤ 16777215
where
  imageD (x i : Nat) : Nat := x / 2 ^ (64 * i) % 2 ^ 64

/-- R387: where the first source byte lies, if it is on a local-home page; a site address and one without a
translation count as any other (log entry 56: DESIGN CHOICE). -/
def firstHome (s : State) (va : Nat) : Option Nat :=
  if va / 2 ^ 48 != 0 then none
  else
    match walkNow s s.hart.job.tenant va .read with
    | .entry e s1 => if e.home = 0 then some (homeSlice (e.place s1 va).1) else none
    | _ => none

/-- R387: the one-PUSH list of a block. -/
def pushList (s : State) (ea : Dword) (x : Nat) (site : Nat × Nat) : SpoolList :=
  let d (i : Nat) : Nat := x / 2 ^ (64 * i) % 2 ^ 64
  { newList s ea (BitVec.allOnes 64) (BitVec.ofNat 64 (d 3)) with
    single := true, hasSrc := true, base := BitVec.ofNat 64 (d 0), run := d 2
    hasDst := true, twin := bit (d 1) 55, x0 := site.1, y0 := site.2, window := bits (d 1) 3 0 }

/-- R387: a block read and posted. -/
def splPushR (sd sa : BitVec 5) (s : State) : Res :=
  let ea := rdS s sa
  splPost (.splPush sd sa) sd ea 32 s fun _ s1 =>
    readRecord s1 ea 32 fun x s2 =>
      match pushSite s2.hart.core (x / 2 ^ 64 % 2 ^ 64) with
      | none => .ok (wrS s2 sd 3)
      | some site =>
        if pushGood x then
          giveList sd ((firstHome s2 (x % 2 ^ 64)).getD (nearSpool s2.hart.core)) (pushList s2 ea x site) s2
        else .ok (wrS s2 sd 3)

def execSplPush (sd sa : BitVec 5) (s : State) : Out := finish (splPushR sd sa s)

/-! ### `spl.stat` (R388) -/

/-- R388: the state of a list. -/
def SpoolList.code (l : SpoolList) : Nat :=
  if l.ended then 0 else if !l.running then 1 else if l.waiting then 3 else 2

/-- R388: the latest list posted from an address by a tenant. -/
def latestList (s : State) (ea : Dword) (tenant : Nat) : Option SpoolList :=
  (spoolNumbers.flatMap (fun n => getLists s n)).foldl (fun m l =>
    if l.addr = ea && l.tenant == tenant then
      match m with
      | none => some l
      | some k => if k.serial < l.serial then some l else m
    else m) none

/-- R388: what `spl.stat` gives. -/
def listState (s : State) (ea : Dword) : Dword :=
  match latestList s ea s.hart.job.tenant with
  | none => 0
  | some l => BitVec.ofNat 64 (l.delivered % 2 ^ 32 * 2 ^ 32 + l.code)

def execSplStat (sd sa : BitVec 5) (s : State) : Out :=
  let ea := rdS s sa
  finish (if ea.toNat % 16 != 0 then xtrap 0x10 ea s
    else if namesTwin ea then
      (match twinAnswer (.splStat sd sa) sd ea 0xFFFFFFFF00000003 s with
        | .ok s1 => .ok (acquireIf true s1)
        | r => r)
    else if ea.toNat / 2 ^ 56 = 0xFE then .ok (wrS s sd 0)
    else ofLoad (splPage s ea 16) fun _ s1 =>
      afterQueue (.splStat sd sa) s1 fun s2 => .ok (wrS (acquireIf true s2) sd (listState s2 ea)))

end Sys2Proof.Machine
end

