-- ==== Sys2Proof/Machine/Service.lean ====
section
/-! DEFINITION. The host command queues: their registers and rings (R451, R452, R475, R476), the
journal (R459, R460), and how a command commits (R450, R453, R458). -/

namespace Sys2Proof.Machine

/-! ### Functions, results and notices (R452, R475, R476) -/

/-- A function's registers. -/
def getFn (s : State) (f : Nat) : Fn := mapGet {} s.svc.fns f

/-- A function's registers replaced. -/
def setFn (s : State) (f : Nat) (n : Fn) : State :=
  { s with svc := { s.svc with fns := mapSet {} s.svc.fns f n } }

/-- R452, R476: a result written at the result tail, and MSI-X vector 0 sent. -/
def putResult (s : State) (f : Nat) (seq : BitVec 32) (op status : Nat) (r0 r1 : Dword) (time : Nat) : State :=
  let n := getFn s f
  let phase := Config.firstPhase != bit n.resTail.toNat n.order
  let bs := bytesOfNat 8 (seq.toNat * 2 ^ 32 + op * 2 ^ 16 + b2n phase * 2 ^ 15 + status) ++
    bytesOfNat 8 r0.toNat ++ bytesOfNat 8 r1.toNat ++ bytesOfNat 8 time
  setFn (pokeLoc s 0 (hostLoc (n.results.toNat + 32 * (n.resTail.toNat % 2 ^ n.order))) bs) f
    { n with resTail := n.resTail + 1, msix := n.msix + 1 }

/-- R464, R465: a notice to a function; the seq of a posted one and the status of either are not
given (log entry 29: DESIGN CHOICE). -/
def notice (s : State) (f op : Nat) (seq : Option (BitVec 32)) (r0 r1 : Dword) : State :=
  let a := freshFree s
  let b := freshFree a.2
  putResult b.2 f (seq.getD (a.1.truncate 32)) op (b.1.toNat % 256) r0 r1 b.2.nowNs

/-! ### BAR0 (R475) -/

/-- The queue has commands that can be taken. -/
def Fn.pending (n : Fn) : Bool := n.head != n.tail && !n.err && !n.needTail

/-- An event stands in the queue, or its source holds it (R449). -/
def eventWaits (s : State) (e : SvcEvent) : Bool := s.svc.events.contains e || s.svc.held.contains e

/-- R450: the ordering lock of a queue is held. -/
def locked (s : State) (f : Nat) : Bool := s.svc.cmds.any (fun h => h.cmd.fn == f)

/-- R449, R450: a doorbell's event, once for each queue whose lock is free. -/
def ringFn (s : State) (f : Nat) : State :=
  if (getFn s f).pending && !locked s f && !eventWaits s (.command f) then pushEvent s (.command f) else s

/-- R475: a host write of the command tail. -/
def writeTail (s : State) (f : Nat) (v : BitVec 32) : State :=
  let n := getFn s f
  let bad := (v - n.head).toNat > 2 ^ n.order
  ringFn (setFn s f { n with tail := v, err := n.err || bad, needTail := n.err || bad }) f

/-- R475: a host write of a register of BAR0. -/
def writeBar0 (s : State) (f off : Nat) (v : Dword) : State :=
  let n := getFn s f
  let idle := n.head == n.tail
  match off with
  | 0x000 => if idle then setFn s f { n with ring := v &&& ~~~(63 : Dword) } else s
  | 0x008 =>
    if idle && 4 ≤ v.toNat % 16 && v.toNat % 16 ≤ 12 then setFn s f { n with order := v.toNat % 16 } else s
  | 0x010 => if idle then setFn s f { n with results := v &&& ~~~(31 : Dword) } else s
  | 0x018 => writeTail s f (v.truncate 32)
  | 0x030 => if v.getLsbD 1 then setFn s f { n with err := false } else s
  | _ => s

/-- R475: a read of a register of BAR0; ready is a bit of the physical function. -/
def readBar0 (s : State) (f off : Nat) : Dword :=
  let n := getFn s f
  match off with
  | 0x000 => n.ring
  | 0x008 => BitVec.ofNat 64 n.order
  | 0x010 => n.results
  | 0x018 => n.tail.zeroExtend 64
  | 0x020 => n.head.zeroExtend 64
  | 0x028 => n.resTail.zeroExtend 64
  | 0x030 => BitVec.ofNat 64 (2 * b2n n.err + b2n (f == 0 && s.svc.ready))
  | _ => 0

/-- R475: a host write of a doorbell through BAR2; the queue of another tenant discards it. -/
def writeBar2 (s : State) (f off : Nat) (v : Dword) : State :=
  let q := off / 16
  if off % 16 = 0 && q < 192 && (getQ s q).created && (getQ s q).tenant == f then doorbell s q (v.truncate 32) else s

/-- R329, R475: a host read of a doorbell through BAR2: tail, then head; 0 for the queue of another tenant. -/
def readBar2 (s : State) (f off : Nat) : Dword :=
  let q := getQ s (off / 16)
  if off / 16 < 192 && q.created && q.tenant == f then
    if off % 16 = 0 then q.tail.zeroExtend 64 else if off % 16 = 8 then q.head.zeroExtend 64 else 0
  else 0

/-! ### Commands (R450-R453, R459, R460) -/

/-- The stored result of a seq (R459). -/
def journalled (s : State) (f : Nat) (seq : BitVec 32) : Option JEntry :=
  (getFn s f).journal.find? (fun e => e.seq == seq)

/-- The deferred work of a command is still under way (R458). -/
def stillDeferred (s : State) (f : Nat) (seq : BitVec 32) : Bool :=
  s.svc.deferred.any (fun d => d.fn == f && d.seq == seq)

/-- R459: an entry put into the journal, which keeps the last 256. -/
def journal (s : State) (f : Nat) (e : JEntry) : State :=
  let n := getFn s f
  let j := n.journal ++ [e]
  let top := match n.highest with
    | none => e.seq
    | some h => if h.toNat < e.seq.toNat then e.seq else h
  setFn s f { n with journal := j.drop (j.length - 256), highest := some top }

/-- R452: a command as the ring holds it. -/
def parseCmd (f x : Nat) : Command :=
  let d (i : Nat) : Nat := x / 2 ^ (64 * i) % 2 ^ 64
  let p (i : Nat) : Dword := BitVec.ofNat 64 (d (i + 1))
  { fn := f, seq := BitVec.ofNat 32 (d 0 / 2 ^ 32), op := d 0 % 2 ^ 16, bad := bits (d 0) 31 16 != 0
    p0 := p 0, p1 := p 1, p2 := p 2, p3 := p 3, p4 := p 4, p5 := p 5, p6 := p 6 }

/-- The command at the head of a ring, not yet taken. -/
def headCmd (s : State) (f : Nat) : Command :=
  let n := getFn s f
  parseCmd f (natOfBytes (getBytes s.mem (hostLoc (n.ring.toNat + 64 * (n.head.toNat % 2 ^ n.order))) 64))

/-- R453, R459: a command ends in one indivisible commit with its journal entry and its result. -/
def commitNow (s : State) (c : Command) (status : Nat) (r0 r1 : Dword) : State :=
  putResult (journal s c.fn ⟨c.seq, c.op, 1, status, r0, r1, s.nowNs⟩) c.fn c.seq c.op status r0 r1 s.nowNs

/-- R458: a command commits and its result is left to the end of its work. -/
def commitLater (s : State) (c : Command) (k : DeferKind) : State :=
  let s1 := journal s c.fn ⟨c.seq, c.op, 1, 0, 0, 0, s.nowNs⟩
  { s1 with svc := { s1.svc with deferred := s1.svc.deferred ++ [⟨c.fn, c.seq, c.op, s.nowNs, k⟩] } }

/-- R450, R460: the next command of a queue is taken by a service core: a known seq has its stored result
written again, one below the highest is stale, an unknown opcode and a reserved bit are refused, and any
other command is in hand. -/
def takeCmd (s : State) (f core : Nat) : State :=
  let n := getFn s f
  let c := headCmd s f
  let s1 := setFn s f { n with head := n.head + 1 }
  match journalled s f c.seq with
  | some e =>
    let a := freshFree s1
    let b := freshFree a.2
    if stillDeferred s f c.seq then putResult b.2 f c.seq e.op 6 a.1 b.1 e.time
    else putResult s1 f c.seq e.op 6 e.r0 e.r1 e.time
  | none =>
    if n.highest.any (fun h => c.seq.toNat < h.toNat) then putResult s1 f c.seq c.op 8 0 0 s.nowNs
    else if c.op = 0 || 0x1B < c.op then commitNow s1 c 1 0 0
    else if c.bad then commitNow s1 c 2 0 0
    else { s1 with svc := { s1.svc with cmds := s1.svc.cmds ++ [⟨core, s.nowNs, c⟩] } }

/-- The oldest event taken out of the queue; an event that its source held enters. -/
def dropEvent (s : State) : State :=
  { s with svc := { s.svc with events := s.svc.events.drop 1 ++ s.svc.held.take 1, held := s.svc.held.drop 1 } }

/-- R449, R450, R473: the idle service core that takes the oldest event: the lowest-numbered one of the
twelve (log entry 39: DESIGN CHOICE). -/
def idleService (s : State) : Option Nat :=
  if s.svc.restarting || s.svc.boot < 3 then none
  else (List.range 12).find? (fun c => !s.svc.cmds.any (fun h => h.core == c))

/-- The oldest event, while a service core is idle. -/
def nextSvc (s : State) : Option SvcEvent := if (idleService s).isSome then s.svc.events.head? else none

/-- R449, R450: an idle service core takes a doorbell; it rings again while commands wait.  A queue whose lock
is held rings again when it is freed. -/
def pickTake (s : State) : Option State :=
  match idleService s, s.svc.events with
  | some core, .command f :: _ =>
    let s1 := dropEvent s
    some (if (getFn s1 f).pending && !locked s1 f then ringFn (takeCmd s1 f core) f else s1)
  | _, _ => none

/-! ### The outcome of a command -/

/-- How a command's own work ends. -/
inductive CmdOut where
  | done (status : Nat) (r0 r1 : Dword) (s : State)
  | later (k : DeferKind) (s : State)
  /-- a host page it names is being translated -/
  | wait (s : State)
  deriving DecidableEq, Repr

/-- How many operands a command uses (R455). -/
def operandsUsed (op : Nat) : Nat :=
  [0, 6, 1, 5, 1, 2, 4, 1, 2, 2, 2, 1, 2, 4, 2, 2, 3, 4, 1, 2, 1, 2, 1, 3, 4, 1, 1, 1].getD op 0

/-- R455: the operands not listed are 0. -/
def Command.clean (c : Command) : Bool :=
  ([c.p0, c.p1, c.p2, c.p3, c.p4, c.p5, c.p6].drop (operandsUsed c.op)).all (fun v => v == 0)

/-- The commands of the service complex as a requester of translations. -/
def cmdAgent : Nat := 1101

/-- What an outcome leaves of the machine: a command that ends frees its lock and its service core; one
that waits lets the others in hand go first. -/
def settleCmd (h : Handled) (o : CmdOut) : State :=
  let clear (s : State) : State := dropWalks { s with svc := { s.svc with cmds := s.svc.cmds.drop 1 } } cmdAgent
  match o with
  | .done st r0 r1 s => ringFn (commitNow (clear s) h.cmd st r0 r1) h.cmd.fn
  | .later k s => ringFn (commitLater (clear s) h.cmd k) h.cmd.fn
  | .wait s => { s with svc := { s.svc with cmds := s.svc.cmds.drop 1 ++ [h] } }

/-- The first command in hand runs, if it has this opcode: R454 for the physical function's commands,
then the unlisted operands, then its own meaning (log entry 30: DESIGN CHOICE). -/
def runCmd (op : Nat) (pf : Bool) (s : State) (f : Command → State → CmdOut) : Out :=
  match s.svc.cmds with
  | [] => .next s
  | h :: _ =>
    if h.cmd.op != op then .next s
    else
      .next (settleCmd h
        (if pf && h.cmd.fn != 0 then .done 3 0 0 s else if !h.cmd.clean then .done 2 0 0 s else f h.cmd s))

/-- A refusal. -/
def refuseCmd (status : Nat) (s : State) : CmdOut := .done status 0 0 s

/-! ### Addresses of commands (R451) -/

/-- How an access of a run of bytes went. -/
inductive Span where
  | ok (s : State)
  | fault (s : State)
  | wait (s : State)
  deriving DecidableEq, Repr

/-- The pieces of a run that lie in one page each: offsets and lengths. -/
def spanParts (ea len : Nat) : Nat → Nat → List (Nat × Nat)
  | 0, _ => []
  | fuel + 1, off =>
    if len ≤ off then []
    else
      let n := min (4096 - (ea + off) % 4096) (len - off)
      (off, n) :: spanParts ea len fuel (off + n)

/-- The pieces of a run of bytes. -/
def spanOf (ea : Dword) (len : Nat) : List (Nat × Nat) := spanParts ea.toNat len (len / 4096 + 2) 0

/-- The place of a command's address; a relative site address is refused (R451), and the pages of tenant
0's walks have any owner (R403). -/
def cmdPlace (s : State) (T : Nat) (ea : Dword) (n : Nat) (k : Kind) : AX :=
  if isRelative ea.toNat then .fault 0x12 s else addrOf s cmdAgent true T ea n k

/-- Every page of a run can be accessed. -/
def spanCheck (s : State) (T : Nat) (ea : Dword) (len : Nat) (k : Kind) : Span :=
  (spanOf ea len).foldl (fun r p =>
    match r with
    | .ok s1 =>
      match cmdPlace s1 T (ea + BitVec.ofNat 64 p.1) p.2 k with
      | .ok _ _ s2 => .ok s2
      | .fault _ s2 => .fault s2
      | .wait s2 => .wait s2
    | r => r) (.ok s)

/-- A piece read at its place. -/
def pieceRead (T : Nat) (ea : Dword) (a : Option (List Byte) × State) (p : Nat × Nat) :
    Option (List Byte) × State :=
  match cmdPlace a.2 T (ea + BitVec.ofNat 64 p.1) p.2 .read with
  | .ok l t s1 =>
    match a.1, readLoc s1 t l p.2 with
    | some x, some y => (some (x ++ y), s1)
    | _, _ => (none, if isSpad l then askFence s1 (spadCore l) else s1)
  | .fault _ s1 => (none, s1)
  | .wait s1 => (none, s1)

/-- Bytes read for a command: malformed where they cannot be read (log entry 30: DESIGN CHOICE). -/
def withBytes (s : State) (T : Nat) (ea : Dword) (len : Nat) (f : List Byte → State → CmdOut) : CmdOut :=
  match spanCheck s T ea len .read with
  | .wait s1 => .wait s1
  | .fault s1 => refuseCmd 2 s1
  | .ok s1 =>
    let r := (spanOf ea len).foldl (pieceRead T ea) (some [], s1)
    match r.1 with
    | some bs => f bs r.2
    | none => refuseCmd 2 r.2

/-- A piece written at its place. -/
def pieceWrite (T : Nat) (ea : Dword) (bs : List Byte) (s : State) (p : Nat × Nat) : State :=
  match cmdPlace s T (ea + BitVec.ofNat 64 p.1) p.2 .write with
  | .ok l t s1 => (writeLoc s1 t l ((bs.drop p.1).take p.2)).getD s1
  | .fault _ s1 => s1
  | .wait s1 => s1

/-- Bytes written for a command. -/
def putBytesAt (s : State) (T : Nat) (ea : Dword) (bs : List Byte) : State :=
  (spanOf ea bs.length).foldl (pieceWrite T ea bs) s

/-- A command goes on once every page of a buffer can be written. -/
def withBuffer (s : State) (T : Nat) (ea : Dword) (len : Nat) (f : State → CmdOut) : CmdOut :=
  match spanCheck s T ea len .write with
  | .wait s1 => .wait s1
  | .fault s1 => refuseCmd 2 s1
  | .ok s1 => f s1

/-! ### Deferred work (R458) -/

/-- R458: deferred work ends, and its result is written and kept in the journal. -/
def endDeferred (s : State) (d : Deferred) (status : Nat) (r0 r1 : Dword) : State :=
  let s1 := { s with svc := { s.svc with deferred := s.svc.deferred.erase d } }
  let n := getFn s1 d.fn
  let s2 := setFn s1 d.fn { n with journal := n.journal.map (fun e =>
    if e.seq = d.seq then { e with status := status, r0 := r0, r1 := r1 } else e) }
  putResult s2 d.fn d.seq d.op status r0 r1 d.time

/-- The work of a COPY has ended. -/
def copyEnded (s : State) (n serial : Nat) : Bool :=
  !(getLists s n).any (fun l => l.serial == serial && !l.ended)

/-- The result of deferred work that has ended. -/
def deferredResult (s : State) (d : Deferred) : Option (Nat × Dword × Dword) :=
  match d.kind with
  | .done st r0 r1 => some (st, r0, r1)
  | .lend _ => none
  | .reclaim _ => none
  | .fence c => if s.fenceReq.contains c then none else some (0, 0, 0)
  | .copy n serial => if copyEnded s n serial then some (0, 0, 0) else none
  | .inval t => if s.tab.invals.any (fun v => !v.host && v.tenant == t) then none else some (0, 0, 0)

/-- R449: deferred work that has ended puts a completion event into the queue. -/
def pickFinished (s : State) : Option State :=
  (s.svc.deferred.find? (fun d => (deferredResult s d).isSome && !eventWaits s (.completion d.fn d.seq))).map (fun d =>
    pushEvent s (.completion d.fn d.seq))

/-- R449, R458: a service core takes a completion event and writes the result; or deferred work ends. -/
def pickDeferred (s : State) : Option State :=
  match nextSvc s with
  | some (.completion f q) =>
    let s1 := dropEvent s
    some (((s1.svc.deferred.find? (fun d => d.fn == f && d.seq == q)).bind (fun d =>
      (deferredResult s1 d).map (fun r => endDeferred s1 d r.1 r.2.1 r.2.2))).getD s1)
  | _ => pickFinished s

def execDeferredCompletion (s : State) : Out := .next ((pickDeferred s).getD s)

/-- The deferred LENDs of a core end with a status. -/
def lendEnds (s : State) (core status : Nat) : State :=
  { s with svc := { s.svc with deferred := s.svc.deferred.map (fun d =>
      match d.kind with
      | .lend c => if c = core then { d with kind := .done status 0 0 } else d
      | _ => d) } }

end Sys2Proof.Machine
end

