-- ==== Sys2Proof/Machine/Lending.lean ====
section
/-! DEFINITION. Lending and reclaim (R362-R365), fencing (R321, R322, R425), partition reset (R458)
and uncorrectable errors (R262-R265). -/

namespace Sys2Proof.Machine

/-! ### Clearing a core (R362 step 3, R445) -/

/-- A core entry replaced. -/
def setCore (s : State) (core : Nat) (e : CoreEntry) : State :=
  { s with tab := { s.tab with cores := mapSet {} s.tab.cores core e } }

/-- The cells of a core's scratchpad dropped, so that its bytes read 0. -/
def clearSpad (s : State) (core : Nat) : State :=
  lookWatches { s with
    mem := s.mem.filter (fun p => !(spadLoc core 0 ≤ p.1 && p.1 < spadLoc core 0 + 2 ^ 19))
    bad := s.bad.filter (fun w => !(spadLoc core 0 ≤ 8 * w && 8 * w < spadLoc core 0 + 2 ^ 19)) }
    (spadLoc core 0) (2 ^ 19)

/-- The registers of every hart of a core cleared. -/
def clearHarts (s : State) (core : Nat) : State :=
  (List.range 8).foldl (fun s h => updHart s (hartKey core h) Hart.freed) s

/-- R362 step 3, R445: scratchpad, registers, mask files, window descriptors and performance
counters of a core cleared. -/
def clearCore (s : State) (core : Nat) : State :=
  let s1 := clearHarts (clearSpad s core) core
  { s1 with
    eng := { s1.eng with windows := s1.eng.windows.filter (fun p => p.1 / 16 != core) }
    pmc := s1.pmc.filter (fun p => p.1 / 8 != core)
    combine := s1.combine.filter (fun p => p.1 / 16 != core) }

/-- The core's translations of other tenants do not serve it; its instruction cache starts empty. -/
def newTenant (s : State) (core : Nat) : State :=
  { s with
    icache := mapErase s.icache core
    disp := { s.disp with stealAsked := mapSet 0 s.disp.stealAsked core 0 } }

/-- R362 step 2, R365: a core's records that never began go back to the dispatcher. -/
def returnUnrun (s : State) (core : Nat) : State :=
  let l := getReady s core
  (l.filter (fun j => !j.ran)).foldl pushPool (setReady s core (l.filter (fun j => j.ran)))

/-! ### Lending (R362) -/

/-- R362 steps 1 and 2: the core is being lent. -/
def startLend (s : State) (core : Nat) (l : Lending) : State :=
  let s1 := returnUnrun (releaseGangs s core) core
  { s1 with disp := { s1.disp with lending := mapSet none s1.disp.lending core (some l) } }

/-- R362 steps 3 and 4: the core can change its tenant. -/
def lendReady (s : State) (core : Nat) : Bool :=
  (heldBlocks s core).isEmpty && (getReady s core).isEmpty && !coreDead s core

/-- R362: the core is cleared and belongs to the borrower; its RECLAIM_AT time and image area are
set. -/
def finishLend (s : State) (core : Nat) (l : Lending) : State :=
  let s1 := setCore (clearCore s core) core { coreEntry s core with lent := true, borrower := l.borrower }
  let d := s1.disp
  lendEnds (newTenant { s1 with disp := { d with
    lending := mapSet none d.lending core none
    imageArea := mapSet 0 d.imageArea core l.image
    reclaimAt := mapSet none d.reclaimAt core
      (if l.time = BitVec.allOnes 64 then mapGet none d.reclaimAt core else some l.time) } } core) core 0

/-- The first lending with something to do: records that came to the core meanwhile go to the dispatcher
(R362 step 2), or it ends. -/
def pickLend (s : State) : Option State :=
  s.disp.lending.findSome? (fun p =>
    match p.2 with
    | some l =>
      if (getReady s p.1).any (fun j => !j.ran) then some (returnUnrun s p.1)
      else if lendReady s p.1 then some (finishLend s p.1 l)
      else none
    | none => none)

def execLendComplete (s : State) : Out := .next ((pickLend s).getD s)

/-- R363: a RECLAIM before step 4 cancels the LEND, whose result is status 0x04 (R461). -/
def cancelLend (s : State) (core : Nat) : State :=
  lendEnds { s with disp := { s.disp with lending := mapSet none s.disp.lending core none } } core 4

/-! ### Reclaim (R363, R365) -/

/-- R316, R363: the header of a save that a reclaim joins to its group: reason 2, image bit 1. -/
def joinHeader (s : State) (pages : List SavePage) : State :=
  let d := saveDword s pages 0
  savePut s pages 0 (bytesOfNat 8 (d / 256 * 256 + 2 + (if bit d 40 then 0 else 2 ^ 40)))

/-- R363 steps 1, 2 and 5 for the hart in focus: it is saved with reason 2, unless the service
complex holds it and its state is saved already.  The job of an abandoned tree, which binds nowhere any more,
ends EXPIRED (R311, R358, R360); one that the service complex holds in its grace handler joins the group and is
ended by the service complex or when its grace runs out (log entry 40: DEDUCED). -/
def saveReclaimed (s : State) : State :=
  let s1 := finishMop (dropWalks s s.hart.key)
  if s1.hart.stage = .service then
    if s1.hart.expiry.isSome then expireFocus s1 else joinHeader s1 s1.hart.job.pages
  else
    let s2 := saveHart s1 2 true 0 s1.hart.pc 0 63
    if treeAbandoned s2 s2.hart.job.tree then expireFocus s2 else s2

/-- A byte of a core's image (R317). -/
def imageByte (s : State) (core : Nat) (tail : List Byte) (i : Nat) : Byte :=
  if i < 524288 then memByte s.mem (spadLoc core i) else tail.getD (i - 524288) 0

/-- R363: the scratchpad and windows of a core written to the image area (R317). -/
def writeImage (s : State) (core T : Nat) (base : Dword) : State :=
  let tail := imageTail s core
  (imageParts base.toNat 131 0).foldl (fun s p =>
    writeRecord s T (base.toNat + p.1) ((List.range p.2).map (fun i => imageByte s core tail (p.1 + i)))) s

/-- R371: every window of a core releases what it still expects. -/
def releaseWindows (s : State) (core : Nat) : State :=
  (List.range 16).foldl (fun s n => setWin s core n (getWin s core n).releaseAll) s

/-- R301: every `vamo` element on its way to a core arrives, and every entry retires. -/
def drainVamo (s : State) (core : Nat) : State := retireCore (arriveWhere s fun v => v.core == core) core

/-- R363 step 1: every borrower hart has stopped, or can. -/
def reclaimReady (s : State) (core : Nat) : Bool :=
  !coreDead s core && (boundKeys s core).all (fun k =>
    let h := getHart s k
    h.stage != .running || (canStop h && h.pend.isEmpty && h.posted.isEmpty && h.expiry.isNone))

/-- R363 steps 1 to 6, R365: the harts are saved, the image is written, the begun jobs form one
group, the other records go back to the dispatcher, and the core returns to its owner. -/
def reclaimCore (s : State) (core : Nat) : State :=
  let e := coreEntry s core
  let keys := boundKeys s core
  let s1 := keys.foldl (fun s k => atHart s k saveReclaimed) (releaseGangs s core)
  let s2 := releaseWindows (drainVamo s1 core) core
  let bound := (boundKeys s2 core).map (fun k => (getHart s2 k).jobNow)
  let loose := (getReady s2 core).filter (fun j => j.ran)
  let s3 := returnUnrun (loose.foldl (fun s j => joinHeader s j.pages) s2) core
  let image := mapGet 0 s.disp.imageArea core
  let s4 := writeImage (setReady s3 core []) core e.current image
  let s5 := if bound ++ loose = [] then s4
    else { s4 with disp := { s4.disp with
      saved := s4.disp.saved ++ [{ tenant := e.current, image := image, jobs := bound ++ loose }] } }
  let s6 := setCore (clearCore s5 core) core { e with lent := false, borrower := 0 }
  newTenant { s6 with disp := { s6.disp with
    reclaims := s6.disp.reclaims.filter (fun c => c != core)
    imageArea := mapSet 0 s6.disp.imageArea core 0
    reclaimAt := mapSet none s6.disp.reclaimAt core none } } core

/-- The deferred RECLAIMs of a core end, with the whole µs taken since they committed. -/
def reclaimEnds (s : State) (core status : Nat) : State :=
  { s with svc := { s.svc with deferred := s.svc.deferred.map (fun d =>
      match d.kind with
      | .reclaim c =>
        let us := if status = 0 then (s.nowNs - d.time) / 1000 else 0
        if c = core then { d with kind := .done status (BitVec.ofNat 64 us) 0 } else d
      | _ => d) } }

/-- R310, R363: a reclaim of a lent core begins: its harts are to stop. -/
def beginReclaim (s : State) (core : Nat) : State :=
  if (coreEntry s core).lent && !s.disp.reclaims.contains core then
    let s1 := (boundKeys s core).foldl (fun s k => updHart s k fun h => { h with ranSince := false, preempt := false }) s
    { s1 with disp := { s1.disp with reclaims := s1.disp.reclaims ++ [core] } }
  else s

/-- R363: a reclaim of a core: a LEND under way is cancelled. -/
def askReclaim (s : State) (core : Nat) : State :=
  beginReclaim (if (mapGet none s.disp.lending core).isSome then cancelLend s core else s) core

/-- R264: a word of a core's scratchpad holds an uncorrectable error. -/
def spadBad (s : State) (core : Nat) : Bool :=
  s.bad.any (fun w => spadLoc core 0 ≤ 8 * w && 8 * w < spadLoc core 0 + 2 ^ 19)

/-- R363: the first core under reclaim whose harts have stopped; the read of its scratchpad for the image finds
an uncorrectable error, and the core is fenced (R264). -/
def pickReclaim (s : State) : Option State :=
  (s.disp.reclaims.find? (fun c => reclaimReady s c && !s.fenceReq.contains c)).map (fun c =>
    if spadBad s c then askFence s c else reclaimEnds (reclaimCore s c) c 0)

/-- R430: the programmed reclaim time of a core is reached. -/
def pickReclaimAt (s : State) : Option State :=
  (s.disp.reclaimAt.find? (fun p => p.2.any (fun t => t.toNat ≤ s.nowNs))).map (fun p =>
    askReclaim { s with disp := { s.disp with reclaimAt := mapSet none s.disp.reclaimAt p.1 none } } p.1)

def execReclaimAtTimer (s : State) : Out := .next ((pickReclaimAt s).getD s)

/-- R455 RECLAIM: by the function of the core's owner; the result is written once the core has
returned. -/
def reclaimCmd (c : Command) (s : State) : CmdOut :=
  let core := c.p0.toNat
  if 96 ≤ core then refuseCmd 2 s
  else if (coreEntry s core).owner != c.fn then refuseCmd 3 s
  else
    let s1 := askReclaim s core
    if s1.disp.reclaims.contains core then .later (.reclaim core) s1
    else .later (.done 0 0 0) s1

/-- R363: the command, or the stop and save it has asked for. -/
def execReclaim (s : State) : Out :=
  if s.svc.cmds.head?.any (fun h => h.cmd.op == 7) then runCmd 7 false s reclaimCmd
  else .next ((pickReclaim s).getD s)

/-! ### What a fence does (R322, R425) -/

/-- R322: the `vamo` elements on their way to a fenced core are refused, and their senders told. -/
def refuseVamo (s : State) (core : Nat) : State :=
  (s.vamos.filter (fun v => v.core == core)).foldl (fun s v =>
    postTo s v.sender v.job ⟨false, mkTrap 0x12 (siteAddr false (coreX core) (coreY core) v.off), v.order⟩)
    { s with vamos := s.vamos.filter (fun v => v.core != core) }

/-- R322: a core is fenced: its harts end, a `mop` that has begun running out first (R240), its records go back
or end FENCED, and what its banks and link tags held is lost.  The barrier units and the TLB at its router go on
(R16; log entry 48: DESIGN CHOICE). -/
def fenceNow (s : State) (core : Nat) : State :=
  let e := coreEntry s core
  let s1 := (boundKeys s core).foldl (fun s k => endHart (atHart s k finishMop) k 6) (releaseGangs s core)
  let s2 := returnUnrun s1 core
  let s3 := (getReady s2 core).foldl (fun s j => endLoose s j 6) s2
  let s4 := setCore (setReady s3 core []) core { e with fenced := true }
  let s5 := refuseVamo s4 core
  reclaimEnds { s5 with
    fenceReq := s5.fenceReq.filter (fun c => c != core)
    combine := s5.combine.filter (fun p => p.1 / 16 != core)
    -- what waits at the core's interfaces enters no router any more (R23)
    others := s5.others.map (fun p => if p.1 / 8 = core then (p.1, { p.2 with outbox := [] }) else p)
    hart := if s5.hart.core = core then { s5.hart with outbox := [] } else s5.hart
    links := s5.links.map (fun p => (p.1, p.2.filter (fun g => g.hart / 8 != core)))
    disp := { s5.disp with reclaims := s5.disp.reclaims.filter (fun c => c != core) } } core 4

/-- The sites of the mesh that are not fenced, where a route may turn. -/
def openSites (s : State) : List (Nat × Nat) :=
  (List.range 140).filterMap (fun i =>
    let x := i % 14
    let y := i / 14
    if isCoreSite x y && (coreEntry s (coreAt x y)).fenced then none else some (x, y))

/-- R425: a routing entry for a fenced core; which site that is not fenced is the waypoint is the service
complex's choice, a free value, and none is observed (log entry 4: DESIGN CHOICE). -/
def addRoute (s : State) (core : Nat) : State :=
  match (List.range 16).find? (fun i => !(mapGet {} s.tab.routes i).valid) with
  | none => s
  | some i =>
    let f := freshFree s
    let w := (openSites s).getD (f.1.toNat % (openSites s).length) (0, 0)
    let r : Route := { valid := true, fx := coreX core, fy := coreY core, wx := w.1, wy := w.2 }
    { f.2 with tab := { f.2.tab with routes := mapSet {} f.2.tab.routes i r } }

/-- R363, R264: a lent core is taken back at once; one whose scratchpad cannot be read for its image is fenced. -/
def takeBack (s : State) (core : Nat) : State :=
  if spadBad s core then addRoute (fenceNow s core) core else reclaimEnds (reclaimCore s core) core 0

/-! ### Partition reset (R458, R416, R418) -/

/-- The cores of a partition. -/
def partCores (s : State) (part : Nat) : List Nat :=
  (List.range 96).filter (fun c => (coreEntry s c).part == part)

/-- R458: a job that is not bound ends RESET. -/
def resetLoose (s : State) (j : Job) : State :=
  if j.ran then endLoose s j 0xC else recordUnrun s j.record j.tenant j.job.toNat (unrunIndex s j) 0xC

/-- The packets of a list are not delivered, and their reservations are released (R371). -/
def dropPackets (s : State) (n serial : Nat) : State :=
  (s.eng.flight.filter (fun p => p.list == (n, serial))).foldl refusePacket
    { s with eng := { s.eng with flight := s.eng.flight.filter (fun p => p.list != (n, serial)) } }

/-- R458: the lists that satisfy a condition end RESET; one whose record's page is still being translated
ends once it is. -/
def resetLists (s : State) (p : SpoolList → Bool) : State :=
  spoolNumbers.foldl (fun s n =>
    ((getLists s n).filter (fun l => !l.ended && p l)).foldl (fun s l =>
      let f : SpoolFail := ⟨0xC, 0, l.idx⟩
      let l1 := { l with fail := some f, waiting := false }
      failList (putList (dropPackets s n l.serial) n l1) n l1 f) s) s

/-- R319, R458: the coding commands that satisfy a condition and have not begun end RESET; one that has
begun is never cut. -/
def resetCoding (s : State) (p : CodingCmd → Bool) : State :=
  engineNumbers.foldl (fun s n =>
    let e := getEng s n
    (e.queue.filter p).foldl (fun s c => codingRecord s n c 0xC 0)
      (setEng s n { e with queue := e.queue.filter (fun c => !p c) })) s

/-- R431, R434, R458: the counters of a tenant become IDLE without an owner; its barriers take their reset
values. -/
def resetObjects (s : State) (tenant : Nat) : State :=
  { s with
    disp := { s.disp with counters := s.disp.counters.map (fun p =>
      if p.2.owner = tenant then (p.1, { p.2 with owner := 0, state := .idle }) else p) }
    barriers := s.barriers.filter (fun p => p.2.owner != tenant) }

/-- The routing entry of a core's site is free again (R425). -/
def freeRoute (s : State) (core : Nat) : State :=
  { s with tab := { s.tab with routes := s.tab.routes.map (fun p =>
      if p.2.fx = coreX core ∧ p.2.fy = coreY core then (p.1, { p.2 with valid := false }) else p) } }

/-- The ids of the jobs on a core. -/
def coreJobIds (s : State) (core : Nat) : List (BitVec 32) :=
  (boundKeys s core).map (fun k => (getHart s k).job.job) ++ (getReady s core).map (fun j => j.job)

/-- R458, R416: a core of a reset partition: what is lent is reclaimed, its jobs end RESET, it is
cleared, and its entry takes its reset value. -/
def resetCore (s : State) (core : Nat) : State :=
  let s0 := if (mapGet none s.disp.lending core).isSome then cancelLend s core else s
  let s1 := if (coreEntry s0 core).lent then takeBack s0 core else s0
  let s2 := (boundKeys s1 core).foldl (fun s k => endHart s k 0xC) (releaseGangs s1 core)
  let s3 := (getReady s2 core).foldl resetLoose s2
  let s4 := setCore (clearCore (setReady s3 core []) core) core {}
  newTenant (freeRoute { s4 with fenceReq := s4.fenceReq.filter (fun c => c != core) } core) core

/-- R458: what a tenant without a core still has ends RESET: its jobs on lent cores and in the dispatcher,
its gang requests, its lists and its coding commands. -/
def endTenant (s : State) (tenant : Nat) : State :=
  let mine (j : Job) : Bool := j.tenant == tenant
  let lent := (List.range 96).filter (fun c => (coreEntry s c).lent && (coreEntry s c).borrower == tenant)
  let s0 := lent.foldl takeBack s
  let s1 := removeLoose ((looseJobs s0).filter mine |>.foldl resetLoose s0) mine
  let s2 := { s1 with disp := { s1.disp with gangs := s1.disp.gangs.filter (fun g => g.tenant != tenant) } }
  let s3 := (s1.disp.gangs.filter (fun g => g.tenant == tenant)).foldl (fun s g =>
    g.ids.zipIdx.foldl (fun s p => recordUnrun s (memberRecord g.record p.2) tenant p.1.toNat 255 0xC) s) s2
  resetCoding (resetLists s3 (fun l => l.tenant == tenant)) (fun c => c.tenant == tenant)

/-- R415, R418: a tenant without a partition is not valid any more, nor are its keys. -/
def dropTenant (s : State) (tenant : Nat) : State :=
  { s with tab := { s.tab with
      tenants := mapUpd {} s.tab.tenants tenant fun e => { e with valid := false }
      keys := s.tab.keys.map (fun p => if p.2.tenant = tenant then (p.1, { p.2 with valid := false }) else p) } }

/-- R458: a partition is reset. -/
def resetPartition (s : State) (part : Nat) : State :=
  let cores := partCores s part
  match cores with
  | [] => s
  | c :: _ =>
    let tenant := (coreEntry s c).owner
    let last := (List.range 96).all (fun c => (coreEntry s c).owner != tenant || cores.contains c)
    let ids := (cores.filter (fun c => !(coreEntry s c).lent)).flatMap (coreJobIds s)
    let s1 := cores.foldl resetCore s
    let s2 := resetCoding (resetLists s1 (fun l => !l.hostPost && ids.contains l.job)) (fun c => ids.contains c.job)
    let s3 := resetObjects (if last then endTenant s2 tenant else s2) tenant
    if last && tenant != 0 then dropTenant s3 tenant else s3

/-! ### Fencing (R321, R322, R425) -/

/-- R321, R322, R425: a core is fenced; when the routing table is full its partition is reset. -/
def fenceCore (s : State) (core : Nat) : State :=
  if (coreEntry s core).fenced then { s with fenceReq := s.fenceReq.filter (fun c => c != core) }
  else
    let s1 := fenceNow s core
    if (List.range 16).all (fun i => (mapGet {} s1.tab.routes i).valid) then
      resetPartition s1 (coreEntry s1 core).part
    else addRoute s1 core

/-- The first core to be fenced. -/
def pickFence (s : State) : Option State := s.fenceReq.head?.map (fenceCore s)

/-- R321: firmware asks for a core to be fenced. -/
def pickFenceInput (s : State) : Option State :=
  takeInput s fun i s1 =>
    match i with
    | .fence core => some (if core < 96 then askFence s1 core else s1)
    | _ => none

def execFencing (s : State) : Out := .next (((pickFenceInput s).orElse fun _ => pickFence s).getD s)

end Sys2Proof.Machine
end

