-- ==== Sys2Proof/Machine/Messages.lean ====
section
/-! DEFINITION. Messages: `msg.send`, `msg.sendv`, and the posted ones on their way (R304,
R393-R395). -/

namespace Sys2Proof.Machine

/-- R394: the answer of a destination. -/
inductive Answer where
  | appended (s : State)
  | full
  | unusable
  | tenantRefused
  | noSite
  deriving DecidableEq, Repr

/-- R394: the site of a destination address, resolved against a core: 128 more on the twin. -/
def destCore (core : Nat) (d : Dword) : Option Nat :=
  let v := d.toNat
  let x : Int := if bit v 54 then (coreX core : Int) + (d.extractLsb' 49 5).toInt else bits v 53 49
  let y : Int := if bit v 54 then (coreY core : Int) + (d.extractLsb' 44 5).toInt else bits v 48 44
  if v / 2 ^ 56 = 0xFE ∧ bits v 43 20 = 0 ∧ 1 ≤ x ∧ x ≤ 12 ∧ 1 ≤ y ∧ y ≤ 8 then
    some (coreAt x.toNat y.toNat + 128 * b2n (bit v 55))
  else none

/-- R393: the first dword of a message's header. -/
def msgHeader (job : BitVec 32) (core tenant len : Nat) : Dword :=
  BitVec.ofNat 64 (job.toNat * 2 ^ 32 + core * 2 ^ 24 + tenant * 2 ^ 16 + len)

/-- R370, R393: bytes appended whole at a window's tail, if there is room.  A part of a word that holds an
uncorrectable error is dropped; a message has no record to report that in (log entry 38: DEDUCED). -/
def appendWhole (s : State) (core n : Nat) (bs : List Byte) : Option State :=
  let w := getWin s core n
  (w.reserve bs.length).map (fun w1 =>
    let s1 := (putWindow (setWin s core n w1) core n w.fill bs).1
    setWin s1 core n ((getWin s1 core n).land w.fill bs.length))

/-- R393, R394: a message offered to a window of this device; a fenced core comes before another tenant's (log
entry 57: DESIGN CHOICE). -/
def offerMsg (s : State) (core n tenant : Nat) (bs : List Byte) : Answer :=
  let w := getWin s core n
  if (coreEntry s core).fenced then .noSite
  else if !admits s core tenant then .tenantRefused
  else if (w.mode != 2 && w.mode != 5) || w.size < roundRow bs.length then .unusable
  else
    match appendWhole s core n bs with
    | some s1 => .appended s1
    | none => .full

/-- What the twin answers is a free value (log entry 24: DESIGN CHOICE). -/
def offerTwin (s : State) : Answer × State :=
  if !s.tetherUp then (.noSite, s)
  else
    let f := freshFree s
    (match f.1.toNat % 5 with
      | 0 => .appended f.2
      | 1 => .full
      | 2 => .unusable
      | 3 => .tenantRefused
      | _ => .noSite, f.2)

/-- A message offered to its destination. -/
def offerTo (s : State) (core : Option Nat) (n tenant : Nat) (bs : List Byte) : Answer × State :=
  match core with
  | none => (.noSite, s)
  | some c => if 128 ≤ c then offerTwin s else (offerMsg s c n tenant bs, s)

/-! ### `msg.send` (R394) -/

/-- Dword `i` of a block. -/
def blockD (x i : Nat) : Nat := x / 2 ^ (64 * i) % 2 ^ 64

/-- R394: the block is malformed. -/
def sendBad (x : Nat) : Bool :=
  let d := blockD x
  d 0 / 2 ^ 56 != 0xFE || bits (d 0) 43 20 != 0 || bits (d 0) 19 4 != 0 || 16384 < d 2

/-- The hart has a posted message to the window that is still to be accepted (R304). -/
def msgBehind (s : State) (core : Option Nat) (n : Nat) : Bool :=
  (s.hart.outbox ++ s.eng.messages.filter (fun m => m.sender == s.hart.key)).any (fun m =>
    m.core == core && m.window == n)

/-- The payload read, in pieces that lie in one page each. -/
def readPayload (s : State) : Nat → Dword → Nat → XRes (List Byte)
  | 0, _, _ => .ok [] s
  | fuel + 1, ea, n =>
    if n = 0 then .ok [] s
    else
      let m := min n (4096 - ea.toNat % 4096)
      (resolve s (acc s .other .read) ea 1).bind fun t s1 =>
        match t with
        | .mem l k =>
          match readLoc s1 k l m with
          | some a =>
            let s2 := useLines s1 (pageCache s1 (acc s .other .read) ea) l m
            (readPayload s2 fuel (ea + BitVec.ofNat 64 m) (n - m)).bind fun b s3 => .ok (a ++ b) s3
          | none => .fault ⟨0x16, ea⟩ (if isSpad l then askFence s1 (spadCore l) else s1)
        | _ => .fault ⟨0x12, ea⟩ s1

/-- R394: the status an answer gives. -/
def answerStatus (sd : BitVec 5) (r : Answer × State) : Res :=
  match r.1 with
  | .appended s1 => .ok (wrS s1 sd 0)
  | .full => .ok (wrS r.2 sd 1)
  | .unusable => .ok (wrS r.2 sd 2)
  | .tenantRefused => .ok (wrS r.2 sd 3)
  | .noSite => .ok (wrS r.2 sd 6)

/-- R393: a message of the hart in focus, whole. -/
def messageBytes (s : State) (user : Nat) (bs : List Byte) : List Byte :=
  let h := s.hart
  bytesOfNat 8 (msgHeader h.job.job h.core h.job.tenant bs.length).toNat ++ bytesOfNat 8 user ++ bs

/-- R394: a well-formed block sent: the destination is asked first, and the payload read only when it
accepts.  Where that read faults nothing is appended (log entry 38: DEDUCED). -/
def sendBlock (sd : BitVec 5) (x : Nat) (s : State) : Res :=
  let h := s.hart
  let core := destCore h.core (BitVec.ofNat 64 (blockD x 0))
  let n := bits (blockD x 0) 3 0
  let ask (s : State) (bs : List Byte) := offerTo s core n h.job.tenant (messageBytes s (blockD x 3) bs)
  if msgBehind s core n then .stall .order s
  else
    let r := ask s (List.replicate (blockD x 2) 0)
    match r.1 with
    | .appended _ =>
      ofLoad (readPayload s 6 (BitVec.ofNat 64 (blockD x 1)) (blockD x 2)) fun bs s1 =>
        answerStatus sd (ask s1 bs)
    | _ => answerStatus sd r

def execMsgSend (sd sa : BitVec 5) (s : State) : Out :=
  finish (readRecord s (rdS s sa) 32 fun x s1 =>
    if sendBad x then .ok (wrS s1 sd 4) else afterQueue (.msgSend sd sa) s1 (sendBlock sd x))

/-! ### `msg.sendv` (R395) -/

/-- R395: the payload in a register group. -/
def groupBytes (h : Hart) (l : LenRegs) (vs : Nat) : List Byte :=
  (List.range ((l.vl * l.width + 7) / 8)).map (fun i => BitVec.ofNat 8 (getElem h vs 8 i))

/-- R395: the message of the hart in focus. -/
def vectorMessage (s : State) (vs : Nat) (dest user : Dword) : Message :=
  let h := s.hart
  let p := groupBytes h (lenNow s) vs
  { core := destCore h.core dest, window := bits dest.toNat 3 0, dest := dest
    header0 := msgHeader h.job.job h.core h.job.tenant p.length, user := user, payload := p
    sender := h.key, tenant := h.job.tenant, order := h.units }

/-- R395: `msg.sendv` copies its payload and goes on. -/
def execMsgSendv (vs sa sb : BitVec 5) (s : State) : Out :=
  let g := (lenNow s).grp
  finish (if vs.toNat % g != 0 || 32 < vs.toNat + g then illegal 4 s
    else afterQueue (.msgSendv vs sa sb) s fun s1 =>
      .ok { s1 with eng := { s1.eng with
        messages := s1.eng.messages ++ [vectorMessage s1 vs.toNat (rdS s1 sa) (rdS s1 sb)] } })

/-- The bytes of a message. -/
def Message.bytes (m : Message) : List Byte := bytesOfNat 8 m.header0.toNat ++ bytesOfNat 8 m.user.toNat ++ m.payload

/-- R395: a message's trap goes to the job that sent it. -/
def msgTrap (s : State) (m : Message) (t : Trap) : State :=
  postTo s m.sender (BitVec.ofNat 32 (bits m.header0.toNat 63 32)) ⟨false, t, m.order⟩

/-- Two messages go to one window. -/
def Message.sameTarget (a b : Message) : Bool := a.core == b.core && a.window == b.window

/-- R395: an answer to a posted message; `keep` puts it back where it waits. -/
def settleMsg (m : Message) (r : Answer × State) (keep : State → State) : State :=
  match r.1 with
  | .appended s1 => s1
  | .full => keep r.2
  | .unusable => msgTrap r.2 m ⟨0x18, BitVec.ofNat 64 m.window⟩
  | .tenantRefused => msgTrap r.2 m ⟨0x13, m.dest⟩
  | .noSite => msgTrap r.2 m ⟨0x12, m.dest⟩

/-- A message put at the end of its sender's outbox; the interface of a fenced core sends nothing more
(R23, R322). -/
def toOutbox (m : Message) (s : State) : State :=
  if (coreEntry s (m.sender / 8)).fenced then s
  else updHart s m.sender fun h => { h with outbox := h.outbox ++ [m] }

/-- R395: the oldest message in flight arrives: behind an earlier one to its window, or before a
full one, it waits at its sender's interface. -/
def appendMsg (s : State) (m : Message) : State :=
  if (getHart s m.sender).outbox.any m.sameTarget then toOutbox m s
  else settleMsg m (offerTo s m.core m.window m.tenant m.bytes) (toOutbox m)

/-- The oldest posted message in flight arrives. -/
def pickMessage (s : State) : Option State :=
  match s.eng.messages with
  | [] => none
  | m :: t => some (appendMsg { s with eng := { s.eng with messages := t } } m)

/-- R393, R479: a message of the twin is appended with its header's bit 23 set; one that is not taken stays
with the twin. -/
def twinMessageIn (s : State) (core n tenant : Nat) (header user : Dword) (payload : List Byte) : State :=
  if !s.tetherUp || 96 ≤ core then s
  else
    let h := header ||| (1 <<< 23 : Dword)
    match offerMsg s core n tenant (bytesOfNat 8 h.toNat ++ bytesOfNat 8 user.toNat ++ payload) with
    | .appended s1 => s1
    | _ => s

/-- A message of the twin at the head of the inputs, or the oldest one in flight. -/
def pickMessageIn (s : State) : Option State :=
  (takeInput s fun i s1 =>
    match i with
    | .twinMessage core n tenant header user p => some (twinMessageIn s1 core (n % 16) tenant header user p)
    | _ => none).orElse fun _ => pickMessage s

def execMessageAppend (s : State) : Out := .next ((pickMessageIn s).getD s)

/-- The first message of an outbox whose retry ends its wait, with the outbox before and behind it. -/
def retryOne (s : State) (key : Nat) : List Message → List Message → Option State
  | _, [] => none
  | seen, m :: t =>
    if seen.any m.sameTarget then retryOne s key (seen ++ [m]) t
    else
      match offerTo s m.core m.window m.tenant m.bytes with
      | (.full, _) => retryOne s key (seen ++ [m]) t
      | r => some (settleMsg m r id |> fun s1 => updHart s1 key fun h => { h with outbox := seen ++ t })

/-- R395: a posted message that waits for space is retried. -/
def pickRetry (s : State) : Option State :=
  (hartKeys s).findSome? (fun k => retryOne s k [] (getHart s k).outbox)

def execMsgSendvRetry (s : State) : Out := .next ((pickRetry s).getD s)

end Sys2Proof.Machine
end

