-- ==== Sys2Proof/Machine/Ports.lean ====
section
/-! DEFINITION. The Ethernet ports: ingress (R396, R420, R421, R481, R484), egress (R397, R422,
R482), and block floating point (R90). -/

namespace Sys2Proof.Machine

/-! ### Bridle entries (R419) -/

/-- A bridle entry of a port. -/
def getBridle (s : State) (p n : Nat) : Bridle := mapGet {} s.eng.bridles (1024 * p + n)

/-- A bridle entry replaced. -/
def setBridle (s : State) (p n : Nat) (b : Bridle) : State :=
  { s with eng := { s.eng with bridles := mapSet {} s.eng.bridles (1024 * p + n) b } }

/-- A field of an entry's first dword. -/
def Bridle.f (b : Bridle) (hi lo : Nat) : Nat := bits b.cfg0.toNat hi lo

/-- The entry is valid and of a direction: 0 ingress, 1 egress. -/
def Bridle.live (b : Bridle) (dir : Nat) : Bool := b.f 63 63 == 1 && b.f 62 62 == dir

/-- The core of an entry's site. -/
def Bridle.core (b : Bridle) : Nat := coreAt (b.f 29 25) (b.f 24 20)

/-- The mantissa bits of an entry (R90). -/
def Bridle.mant (b : Bridle) : Nat := match b.f 13 12 with | 0 => 9 | 1 => 12 | _ => 14

/-- R420: the entry that steers a frame, the lowest-numbered one. -/
def matchIn (s : State) (f : Frame) : Option Nat :=
  (List.range 1024).find? (fun n =>
    let b := getBridle s f.port n
    b.live 0 && b.f 61 60 == f.msgType / 2 && b.f 51 36 == f.eaxc && b.f 59 56 ≤ f.symbol && f.symbol ≤ b.f 55 52)

/-! ### Block floating point (R90) -/

/-- The bits of bytes, most significant first. -/
def msbBits (bs : List Byte) : List Bool := bs.flatMap (fun b => (List.range 8).map (fun i => b.getLsbD (7 - i)))

/-- The natural number of bits, most significant first. -/
def ofMsb (l : List Bool) : Nat := l.foldl (fun n b => 2 * n + b2n b) 0

/-- Bits, most significant first, packed into bytes. -/
def packMsb (l : List Bool) : List Byte :=
  (List.range ((l.length + 7) / 8)).map (fun i => BitVec.ofNat 8 (ofMsb ((List.range 8).map (fun j => l.getD (8 * i + j) false))))

/-- The `n` bits of a number, most significant first. -/
def toMsb (n x : Nat) : List Bool := (List.range n).map (fun i => bit x (n - 1 - i))

/-- A two's-complement number of `n` bits. -/
def signedOf (n x : Nat) : Int := if bit x (n - 1) then (x : Int) - 2 ^ n else x

/-- A component limited to 16 bits, and whether that changed it. -/
def sat16 (v : Int) : Int × Bool := if v < -32768 then (-32768, true) else if 32767 < v then (32767, true) else (v, false)

/-- An integer's low 16 bits, little-endian. -/
def le16 (v : Int) : List Byte := bytesOfNat 2 (v % 65536).toNat

/-- R90: a PRB decompressed: its 48 bytes of ci16, and how many components were saturated. -/
def unpackPrb (n : Nat) (bs : List Byte) : List Byte × Nat :=
  let x := (bs.getD 0 0).toNat % 16
  let m := msbBits (bs.drop 1)
  let vals := (List.range 24).map (fun i => sat16 (signedOf n (ofMsb ((m.drop (n * i)).take n)) * 2 ^ x))
  (vals.flatMap (fun v => le16 v.1), (vals.filter (fun v => v.2)).length)

/-- An uncompressed PRB: 24 components, each most significant byte first (log entry 31: DESIGN CHOICE). -/
def plainPrb (bs : List Byte) : List Byte := (List.range 24).flatMap (fun i => [bs.getD (2 * i + 1) 0, bs.getD (2 * i) 0])

/-- R396: the payload of a record, and the components saturated. -/
def recordBody (b : Bridle) (f : Frame) : List Byte × Nat :=
  if f.msgType != 0 then (f.payload, 0)
  else if b.f 15 14 = 1 then
    let z := 1 + 3 * b.mant
    let p := (List.range f.prbs).map (fun i => unpackPrb b.mant ((f.payload.drop (z * i)).take z))
    (p.flatMap (fun x => x.1), (p.map (fun x => x.2)).sum)
  else ((List.range f.prbs).flatMap (fun i => plainPrb ((f.payload.drop (48 * i)).take 48)), 0)

/-- Rounding to nearest even of `c / 2^x`. -/
def rshrRne (c : Int) (x : Nat) : Int :=
  let q := c / 2 ^ x
  let r := c % 2 ^ x
  if 2 * r < 2 ^ x || (2 * r == 2 ^ x && q % 2 == 0) then q else q + 1

/-- R90: the exponent of a PRB. -/
def prbExp (n : Nat) (c : List Int) : Nat :=
  ((List.range 16).find? (fun x => c.all (fun v => -(2 ^ (n - 1 + x)) ≤ v && v < 2 ^ (n - 1 + x)))).getD 15

/-- R90: a mantissa of `n` bits. -/
def satBits (n : Nat) (v : Int) : Int := if v < -(2 ^ (n - 1)) then -(2 ^ (n - 1)) else if 2 ^ (n - 1) ≤ v then 2 ^ (n - 1) - 1 else v

/-- The components of a PRB of ci16. -/
def prbParts (bs : List Byte) : List Int := (List.range 24).map (fun i => signedOf 16 (natOfBytes ((bs.drop (2 * i)).take 2)))

/-- R90: a PRB compressed, and how many components were saturated. -/
def packPrb (n : Nat) (bs : List Byte) : List Byte × Nat :=
  let c := prbParts bs
  let x := prbExp n c
  let m := c.map (fun v => rshrRne v x)
  (BitVec.ofNat 8 x :: packMsb (m.flatMap (fun v => toMsb n (satBits n v % 2 ^ n).toNat)),
    (m.filter (fun v => satBits n v != v)).length)

/-- R397: the payload a port sends for a message, and the components saturated. -/
def egressBody (b : Bridle) (bs : List Byte) : List Byte × Nat :=
  if b.f 61 60 = 1 then (bs, 0)
  else
    let prb (i : Nat) : List Byte := (bs.drop (48 * i)).take 48
    let p := (List.range ((bs.length + 47) / 48)).map (fun i =>
      if b.f 15 14 = 1 then packPrb b.mant (prb i) else (plainPrb (prb i), 0))
    (p.flatMap (fun x => x.1), (p.map (fun x => x.2)).sum)

/-! ### Ingress (R396, R420, R421, R481) -/

/-- R484: the timestamp of a frame that is taken in now, in 2^-16 ns. -/
def stampOf (s : State) (f : Frame) : Nat := s.fine - f.age

/-- R421: the nominal time of a frame with a timestamp, in ns. -/
def nominal (e : Slot) (f : Frame) (arrival : Nat) : Int :=
  let m := 1000000 / e.ns
  let k := 10 * m * f.frame + m * f.subframe + f.slot
  let pp : Int := e.ns * 65536
  let c : Int := 2560 * m
  let x : Int := (arrival : Int) - e.phase.toNat * 65536
  let num := 2 * (x - k * pp) - c * pp
  let j := -((-num) / (2 * c * pp))
  (k + c * j) * e.ns + e.phase.toNat + f.symbol * (e.ns / 14)

/-- R421: early, late, or neither. -/
def timingClass (s : State) (b : Bridle) (f : Frame) : Bool × Bool :=
  let a := stampOf s f
  let n := nominal (getSlot s (b.f 6 0)) f a
  let lo := (n - bits b.cfg1.toNat 63 32) * 65536
  let hi := (n + bits b.cfg1.toNat 31 0) * 65536
  ((a : Int) < lo, hi < (a : Int))

/-- R396: the header of a record. -/
def frameHeader (f : Frame) (sat early late : Bool) : List Byte :=
  bytesOfNat 8 (f.eaxc % 2 ^ 16 * 2 ^ 48 + f.frame % 256 * 2 ^ 40 + f.subframe % 16 * 2 ^ 36 + f.slot % 64 * 2 ^ 30 +
    f.symbol % 64 * 2 ^ 24 + f.sect % 4096 * 2 ^ 12 + b2n (f.msgType != 0) * 8 + b2n sat * 4 + b2n early * 2 + b2n late) ++
  bytesOfNat 8 (f.prbs % 512 * 2 ^ 10 + f.startPrb % 1024)

/-- R396: a record appended to a fhin window. -/
def appendFrame (s : State) (b : Bridle) (rec : List Byte) : Option State :=
  let core := b.core
  if (coreEntry s core).fenced || (getWin s core (b.f 19 16)).mode != 4 then none
  else appendWhole s core (b.f 19 16) rec

/-- R420, R421: a matched frame delivered or dropped, with its entry's counters. -/
def steer (s : State) (f : Frame) (n : Nat) : State :=
  let b := getBridle s f.port n
  if currentTenant s b.core != b.f 35 30 || s.disp.reclaims.contains b.core then setBridle s f.port n { b with dropped := b.dropped + 1 }
  else
    let t := timingClass s b f
    let body := recordBody b f
    let b1 := { b with early := if t.1 then b.early + 1 else b.early, late := if t.2 then b.late + 1 else b.late }
    if t.2 && b.f 11 11 = 1 then setBridle s f.port n { b1 with dropped := b1.dropped + 1 }
    else
      match appendFrame s b (frameHeader f (body.2 != 0) t.1 t.2 ++ body.1) with
      | some s1 =>
        setBridle s1 f.port n { b1 with frames := b1.frames + 1, saturated := b1.saturated + BitVec.ofNat 16 body.2 }
      | none => setBridle s f.port n { b1 with dropped := b1.dropped + 1 }

/-- A port's registers changed. -/
def updPort (s : State) (p : Nat) (g : Port → Port) : State :=
  { s with eng := { s.eng with ports := mapUpd {} s.eng.ports p g } }

/-- R420, R481: a frame that is not steered is counted as unmatched (log entry 31: DESIGN CHOICE). -/
def unmatched (s : State) (p : Nat) : State := updPort s p fun q => { q with unmatched := q.unmatched + 1 }

/-- R481: the frame is addressed to another unicast station than the port's, has two tags, or is too long. -/
def Frame.dropped (f : Frame) (q : Port) : Bool :=
  (!f.dest.getLsbD 40 && f.dest != q.station) || 2 ≤ f.tags || 9000 < f.length

/-- R396, R420, R481, R484: a received frame, which its port timestamps. -/
def receive (s0 : State) (f : Frame) : State :=
  let s := updPort s0 f.port fun q => { q with stampIn := stampOf s0 f }
  let q : Port := mapGet {} s.eng.ports f.port
  if q.mode = 0 then s0
  else if !f.fcsOk then updPort s f.port fun q => { q with fcs := q.fcs + 1 }
  else if f.dropped q then unmatched s f.port
  else if f.isPtp then s
  else if !f.ecpri || (f.msgType != 0 && f.msgType != 2) then unmatched s f.port
  else
    match matchIn s f with
    | some n => steer s f n
    | none => unmatched s f.port

/-- The frame at the head of the inputs is received. -/
def pickFrame (s : State) : Option State :=
  takeInput s fun i s1 =>
    match i with
    | .frame f => some (receive s1 f)
    | _ => none

def execIngressFrame (s : State) : Out := .next ((pickFrame s).getD s)

/-! ### Egress (R397, R422) -/

/-- R422: the port and entry that send the messages of a window: the lowest-numbered entry, of the lowest
port (log entry 31: DESIGN CHOICE). -/
def matchOut (s : State) (core n : Nat) : Option (Nat × Nat) :=
  (s.eng.bridles.find? (fun p => p.2.live 1 && p.2.core == core && p.2.f 19 16 == n)).map (fun p =>
    (p.1 / 1024, p.1 % 1024))

/-- The message at the head of a window: its launch time, its payload, and what it takes. -/
def headMsg (s : State) (core n : Nat) : Option (Nat × List Byte × Nat) :=
  let w := getWin s core n
  if w.avail < 16 then none
  else
    (readWindow s core n w.head 16).bind (fun h =>
      let len := bits (natOfBytes (h.take 8)) 14 0
      (readWindow s core n (w.head + 16) len).map (fun bs => (natOfBytes (h.drop 8), bs, roundRow (16 + len))))

/-- The head of a window has a message that cannot be read (R264). -/
def headBad (s : State) (core n : Nat) : Bool := 16 ≤ (getWin s core n).avail && (headMsg s core n).isNone

/-- The head of a window moves past a message. -/
def passMsg (s : State) (core n z : Nat) : State :=
  let w := getWin s core n
  setWin s core n { w with head := w.head + BitVec.ofNat 32 z }

/-- R90, R397, R482, R484: a message sent as one eCPRI frame and timestamped; one whose frame would carry more
than 9,000 B, its 8 bytes of eCPRI headers included, is dropped and counted (R481; log entry 31: DESIGN CHOICE). -/
def transmit (s : State) (p n : Nat) (bs : List Byte) : State :=
  let b := getBridle s p n
  let q : Port := mapGet {} s.eng.ports p
  let id := b.f 51 36
  let seq := mapGet (0 : BitVec 8) q.seq id
  let body := egressBody b bs
  if 9000 < 8 + body.1.length then setBridle s p n { b with dropped := b.dropped + 1 }
  else
    let s1 := updPort (setBridle s p n { b with saturated := b.saturated + BitVec.ofNat 16 body.2 }) p fun q =>
      { q with seq := mapSet 0 q.seq id (seq + 1), stampOut := s.fine }
    let out : Sent :=
      { port := p, dest := q.peer, source := q.station, vlan := if q.vlanTag then some q.vlanId else none,
        cplane := b.f 61 60 == 1, eaxc := id, seq := seq, payload := body.1 }
    { s1 with eng := { s1.eng with sent := out :: s1.eng.sent } }

/-- R397, R422: the message at the head of a fhout window, found at a time, is sent once that is its launch
time, or dropped. -/
def drainOut (s : State) (t core n : Nat) : Option State :=
  (headMsg s core n).bind (fun m =>
    match matchOut s core n with
    | none => some (passMsg s core n m.2.2)
    | some (p, e) =>
      let b := getBridle s p e
      if t < m.1 then none
      else if m.1 + bits b.cfg1.toNat 31 0 < t then
        some (passMsg (setBridle s p e { b with dropped := b.dropped + 1 }) core n m.2.2)
      else some (passMsg (transmit s p e m.2.1) core n m.2.2))

/-- R430: the messages of a window that go at their launch times while device time comes to the present, the
one before them having gone at `t`. -/
def drainOn (core n : Nat) : Nat → Nat → State → State
  | 0, _, s => s
  | k + 1, t, s =>
    match headMsg s core n with
    | none => s
    | some m =>
      if s.nowNs < m.1 then s
      else
        match drainOut s (max t m.1) core n with
        | some s1 => drainOn core n k (max t m.1) s1
        | none => s

/-- R483: the port that sends the messages of a window is off. -/
def outOff (s : State) (core n : Nat) : Bool :=
  (matchOut s core n).any (fun p => (mapGet ({} : Port) s.eng.ports p.1).mode == 0)

/-- The port drains the window of a core that is not fenced (R23, R322), unless it is off (R483). -/
def drains (s : State) (p : Nat × Window) : Bool :=
  p.2.mode == 5 && !coreDead s (p.1 / 16) && !outOff s (p.1 / 16) (p.1 % 16)

/-- R397, R430: what the ports send as device time goes on from `t`: the messages that wait for their launch
times. -/
def launchDue (t : Nat) (s : State) : State :=
  (s.eng.windows.filter (drains s)).foldl (fun s p =>
    let core := p.1 / 16
    let n := p.1 % 16
    if (headMsg s core n).any (fun m => t < m.1) then drainOn core n ((getWin s core n).avail / 64 + 1) t s else s) s

/-- A message of a window that goes now; one that cannot be read fences the core (R264). -/
def launchNow (s : State) (core n : Nat) : Option State :=
  if headBad s core n then some (askFence s core) else drainOut s s.nowNs core n

/-- The first fhout window with a message that can go. -/
def pickLaunch (s : State) : Option State :=
  s.eng.windows.findSome? (fun p => if drains s p then launchNow s (p.1 / 16) (p.1 % 16) else none)

def execFhoutLaunch (s : State) : Out := .next ((pickLaunch s).getD s)

end Sys2Proof.Machine
end

