-- ==== Sys2Proof/Machine/Sha3.lean ====
section
/-! DEFINITION. SHA3-512 (FIPS 202), which R466 names. -/

namespace Sys2Proof.Machine

/-- The lanes of a Keccak state: 25 words of 64 bits, lane (x, y) at 5y + x. -/
abbrev Lanes := List (BitVec 64)

/-- Lane (x, y). -/
def lane (a : Lanes) (x y : Nat) : BitVec 64 := a.getD (5 * (y % 5) + x % 5) 0

/-- Every lane anew. -/
def lanesOf (f : Nat → Nat → BitVec 64) : Lanes := (List.range 25).map (fun i => f (i % 5) (i / 5))

/-- θ. -/
def keccakTheta (a : Lanes) : Lanes :=
  let c := (List.range 5).map (fun x => lane a x 0 ^^^ lane a x 1 ^^^ lane a x 2 ^^^ lane a x 3 ^^^ lane a x 4)
  let d := (List.range 5).map (fun x => c.getD ((x + 4) % 5) 0 ^^^ (c.getD ((x + 1) % 5) 0).rotateLeft 1)
  lanesOf fun x y => lane a x y ^^^ d.getD x 0

/-- How far ρ turns each lane. -/
def keccakTurns : List Nat :=
  [0, 1, 62, 28, 27, 36, 44, 6, 55, 20, 3, 10, 43, 25, 39, 41, 45, 15, 21, 8, 18, 2, 61, 56, 14]

/-- ρ and π. -/
def keccakRhoPi (a : Lanes) : Lanes :=
  lanesOf fun x y => (lane a (x + 3 * y) x).rotateLeft (keccakTurns.getD (5 * x + (x + 3 * y) % 5) 0)

/-- χ. -/
def keccakChi (a : Lanes) : Lanes := lanesOf fun x y => lane a x y ^^^ (~~~lane a (x + 1) y &&& lane a (x + 2) y)

/-- The constants of ι. -/
def keccakIota : List (BitVec 64) :=
  [0x0000000000000001, 0x0000000000008082, 0x800000000000808A, 0x8000000080008000, 0x000000000000808B,
   0x0000000080000001, 0x8000000080008081, 0x8000000000008009, 0x000000000000008A, 0x0000000000000088,
   0x0000000080008009, 0x000000008000000A] ++
  [0x000000008000808B, 0x800000000000008B, 0x8000000000008089, 0x8000000000008003, 0x8000000000008002,
   0x8000000000000080, 0x000000000000800A, 0x800000008000000A, 0x8000000080008081, 0x8000000000008080,
   0x0000000080000001, 0x8000000080008008]

/-- One round. -/
def keccakRound (a : Lanes) (rc : BitVec 64) : Lanes :=
  match keccakChi (keccakRhoPi (keccakTheta a)) with
  | l :: t => (l ^^^ rc) :: t
  | [] => []

/-- The permutation Keccak-f[1600]. -/
def keccakF (a : Lanes) : Lanes := keccakIota.foldl keccakRound a

/-- The 64-bit word that eight bytes make, the first the least significant. -/
def laneOfBytes (bs : List Byte) : BitVec 64 := bs.foldr (fun b n => n <<< 8 ||| b.zeroExtend 64) 0

/-- A block of 72 bytes absorbed. -/
def absorb (a : Lanes) (block : List Byte) : Lanes :=
  keccakF (a.zipIdx.map (fun p => if p.2 < 9 then p.1 ^^^ laneOfBytes ((block.drop (8 * p.2)).take 8) else p.1))

/-- The message padded to whole blocks of 72 bytes: 01 and pad10*1. -/
def sha3Pad (bs : List Byte) : List Byte :=
  let n := 72 - bs.length % 72
  bs ++ (if n = 1 then [0x86] else 0x06 :: List.replicate (n - 2) 0 ++ [0x80])

/-- The blocks of a message absorbed one after another. -/
def absorbAll : Nat → Lanes → List Byte → Lanes
  | 0, a, _ => a
  | n + 1, a, bs => absorbAll n (absorb a (bs.take 72)) (bs.drop 72)

/-- SHA3-512 of a byte string, its first byte the least significant. -/
def sha3 (bs : List Byte) : BitVec 512 :=
  let m := sha3Pad bs
  let a := absorbAll (m.length / 72) (List.replicate 25 0) m
  (a.take 8).foldr (fun l n => n <<< 64 ||| l.zeroExtend 512) 0

end Sys2Proof.Machine
end

