-- ==== Sys2Proof/Machine/System.lean ====
section
/-! DEFINITION. The system instructions `nop`, `svc`, `brk`, `tret`, `halt` and `isync` (R66,
R138-R143). -/

namespace Sys2Proof.Machine

/-- R66: nothing. -/
def execNop (s : State) : Out := finish (.ok s)

/-- R139: the svc trap, with the next instruction as resume address. -/
def execSvc (imm : BitVec 19) (s : State) : Out :=
  .next (countLeft s (deliver s ⟨0x08, imm.zeroExtend 64⟩ (s.hart.x.iaddr + 4) false 63))

/-- A debug session is open on the partition of the hart's core (R140, R455). -/
def underSession (s : State) : Bool := s.svc.sessions.contains (coreEntry s s.hart.core).part

/-- R140, R141, R316, R323: the hart halts and its state is written with reason 4.  A pre-emption request
is dropped (R310 rank 4). -/
def haltAt (s : State) (ra : BitVec 48) : State :=
  updH (saveHart s 4 false 0 ra 0 63) fun h =>
    { h.fresh with stage := .halted, preempt := false, pc := ra, debugPc := ra, debugHeld := true }

/-- R140: after the queues have retired, a halt under a debug session, else the brk trap. -/
def execBrk (imm : BitVec 19) (s : State) : Out :=
  finish (afterQueue (.brk imm) s fun s =>
    if underSession s then .left (haltAt s s.hart.x.iaddr) else xtrap 0x09 (imm.zeroExtend 64) s)

/-- R141: after the queues have retired, a halt under a debug session, else the end HALTED. -/
def execHalt (s : State) : Out :=
  finish (afterQueue .halt s fun s =>
    let s1 := updH s fun h => { h with lastPc := h.x.iaddr }
    .left (countLeft s1 (if underSession s1 then haltAt s1 (s1.hart.x.iaddr + 4) else endFocus s1 7)))

/-- R65, R142: the address a `tret` returns to is legal: a multiple of 4, and not the second word of
a paired bundle. -/
def tretTarget (s : State) (f : State → Res) : Res :=
  let t := s.hart.tr.xpc
  let bad (s : State) : Res := xtrap 0x05 (t.zeroExtend 64) s
  if t &&& 3 != 0 then bad s
  else if t.getLsbD 2 then
    match fetchBundle s (t - 4) with
    | .ok w s1 => if w.getLsbD 31 then bad s1 else f s1
    | .wait s1 => .stall .walk s1
    -- the bundle cannot be fetched: the transfer completes and the fetch at the target faults (R108)
    | .fault _ s1 => f s1
    | .refuse _ s1 => f s1
    | .guard _ s1 => f s1
  else f s

/-- R142: return from a handler; under the grace policy it ends the job. -/
def execTret (s : State) : Out :=
  finish (if !s.hart.tr.inh then illegal 6 s
    else tretTarget s fun s1 =>
      if s1.hart.tr.grc then .left (countLeft s1 (endFocus (updH s1 fun h => { h with lastPc := h.x.iaddr }) 4))
      else
        let g := s1.hart.tr.imp
        let t := s1.hart.tr.xpc
        let s2 := updH s1 fun h => { h with tr := { h.tr with grc := false, imp := false, inh := false } }
        .ok (jumpTo (if g then reissue s2 else s2) t))

/-- R143: the core's instruction cache is invalidated, so later fetches see every earlier store. -/
def execIsync (s : State) : Out :=
  finish (afterQueue .isync s fun s =>
    .ok { s with icache := mapErase s.icache s.hart.core })

end Sys2Proof.Machine
end

