-- ==== Sys2Proof/Machine/Translate.lean ====
section
/-! DEFINITION. Walks, ATS and PRI, invalidations (R403-R414), and errors in storage (R262-R265,
R301, R321). -/

namespace Sys2Proof.Machine

/-! ### Walks (R403, R405, R407, R408) -/

/-- The requester is a hart. -/
def ofHart (r : WalkReq) : Bool := r.hart < 1000

/-- R407: a translation fills the group's TLB and those of the requesting cores. -/
def fillAll (s : State) (reqs : List WalkReq) (e : TlbEntry) : State :=
  reqs.foldl (fun s r => if ofHart r then fillCore (fillGroup s r.group e) (r.hart / 8) e else fillGroup s r.group e) s

/-- R408: a fault that each requester takes on its own access. -/
def faultAll (s : State) (reqs : List WalkReq) (cause : Nat) : State :=
  { s with tab := { s.tab with faults := s.tab.faults ++ reqs.map (fun r => ⟨r, cause⟩) } }

/-! ### ATS (R412) -/

/-- R412, R477: the entry a completion makes of a host leaf: the smaller of the leaf and the range, with
the permissions ATS gave. -/
def hostEntry (T va leaf size hpa range : Nat) (r w x : Bool) : TlbEntry :=
  let z := min size (max range 4096)
  { leafEntry T va leaf z with
    host := hpa + (va / z * z) % max range 4096
    hostR := r
    hostW := w
    hostX := x }

/-- A spool made the request. -/
def ofSpool (r : WalkReq) : Bool := 1000 ≤ r.hart && r.hart < 1024

/-- R413: a page request of its own number goes to the controller, unless one for the same PASID, page and kind
is there, which it joins, or the host has switched page requests off.  One beyond the 512 that the controller
holds stands behind them (log entry 58: DESIGN CHOICE). -/
def askPri (s : State) (pasid va : Nat) (kind : Kind) : Option Nat × State :=
  if s.tab.priOff then (none, s)
  else
    match s.tab.pri.find? (fun p => p.pasid == pasid && p.va == va && p.kind == kind) with
    | some p => (some p.id, s)
    | none =>
      let n := s.tab.priSerial
      (some n, { s with tab := { s.tab with pri := s.tab.pri ++ [⟨pasid, va, kind, n⟩], priSerial := n + 1 } })

/-- R412, R413: the page request of a requester, and what it waits for then: the job of a hart, or the
records of the page; a spool makes none. -/
def askPage (pasid : Nat) (s : State) (r : WalkReq) : State :=
  if ofSpool r then s
  else
    let a := askPri s pasid r.va r.kind
    let s1 := a.2
    if ofHart r then
      let wait : List PageWait := a.1.toList.map fun n => { id := n, va := r.va, kind := r.kind }
      updHart s1 r.hart fun h =>
        let rest := h.job.page.filter (fun p => p.va != r.va || (!s.tab.priOff && p.kind != r.kind))
        { h with job := { h.job with page := rest ++ wait } }
    else
      let late := if s.tab.priOff then s1.eng.late.filter (fun w => !(w.on r))
        else s1.eng.late.map (fun w => if w.on r then { w with asked := a.1 } else w)
      { s1 with eng := { s1.eng with late := late } }

/-- Records whose page has been translated, or can be asked for again, are written. -/
def writeLate (s : State) : State :=
  (s.eng.late.filter (fun w => w.asked.isNone)).foldl (fun s w => writeRecord s w.tenant w.va w.bytes)
    { s with eng := { s.eng with late := s.eng.late.filter (fun w => w.asked.isSome) } }

/-- R408: a refusal given to its requesters; the records of a page that cannot be translated are not
written (log entry 25: DESIGN CHOICE). -/
def refuseAll (s : State) (reqs : List WalkReq) (cause : Nat) : State :=
  let s1 := faultAll s (reqs.filter (fun r => r.hart != recordAgent || r.kind != .write)) cause
  { s1 with eng := { s1.eng with late := s1.eng.late.filter (fun w =>
      w.asked.isSome || !reqs.any (fun r => r.hart == recordAgent && r.kind == .write && w.on r)) } }

/-- A walk for a miss and those that joined it; a host leaf without a translation asks ATS (R412). -/
def walkFor (s : State) (r : WalkReq) (mine : List WalkReq) : State :=
  match walkNow s r.tenant r.va r.kind with
  | .entry e s1 => writeLate (fillAll s1 mine e)
  | .host l pa z => sendAts s r mine l pa z
  | .fault c => refuseAll s mine c

/-- The oldest miss is walked. -/
def pickWalk (s : State) : Option State :=
  match s.tab.walks with
  | [] => none
  | r :: t =>
    some (walkFor { s with tab := { s.tab with walks := t.filter (fun x => !r.same x) } } r (r :: t.filter r.same))

def execPageWalk (s : State) : Out := .next ((pickWalk s).getD s)

/-- R412, R477: a completion's permissions cover an access of a kind. -/
def atsCovers (k : Kind) (r w x : Bool) : Bool :=
  match k with
  | .read => r
  | .write => w
  | .fetch => r && x

/-- R405: the update of a leaf by a compare-and-swap on the word its walk read; none where that has changed. -/
def swapLeaf (s : State) (k : Kind) (leaf pa : Nat) : Option (State × Nat) :=
  let m := markLeaf s k leaf pa
  if m.2 = leaf || readNat s 0 pa 8 = some leaf then some m else none

/-- R412, R414: a completion answers a request and those that joined it.  After an invalidation of its
page it fills no TLB, and each of them walks again (R410); where its leaf has changed the walk restarts from
level 0 (R405). -/
def completeAts (s : State) (q : AtsReq) (hpa range : Nat) (rOk wOk xOk abort : Bool) : State :=
  let r := q.req
  let s1 := { s with tab := { s.tab with ats := s.tab.ats.erase q } }
  if q.stale then s1
  else if abort then refuseAll s1 q.joined 0x14
  else if atsCovers r.kind rOk wOk xOk then
    match swapLeaf s1 r.kind q.leaf q.pa with
    | none => walkFor s1 r q.joined
    | some m => fillAll m.1 q.joined (hostEntry r.tenant r.va m.2 q.size hpa range rOk wOk xOk)
  else refuseAll (q.joined.foldl (askPage q.pasid) s1) q.joined 0x15

/-- The completion at the head of the inputs answers a request in flight. -/
def pickAts (s : State) : Option State :=
  takeInput s fun i s1 =>
    match i with
    | .atsCompletion nth hpa size r w x abort =>
      some (match s1.tab.ats[nth % s1.tab.ats.length]? with
        | none => s1
        | some q => writeLate (completeAts s1 q hpa size r w x abort))
    | _ => none

def execAtsCompletion (s : State) : Out := .next ((pickAts s).getD s)

/-! ### Jobs at the service complex (R413, R464) -/

/-- A held job's hart. -/
def heldHart (s : State) (id : BitVec 32) : Option Nat :=
  (hartKeys s).find? (fun k =>
    let h := getHart s k
    h.stage == .service && h.job.held && h.job.job == id)

/-- The held jobs that have no hart: pre-empted ones, and those of saved groups. -/
def heldLoose (s : State) : List Job := (looseJobs s).filter (fun j => j.held)

/-- A held job, bound or not. -/
def heldJob (s : State) (id : BitVec 32) : Option Job :=
  match heldHart s id with
  | some k => some (getHart s k).job
  | none => (heldLoose s).find? (fun j => j.job == id)

/-- A held job without a hart changed. -/
def updSaved (s : State) (id : BitVec 32) (f : Job → Job) : State :=
  mapLoose s (fun j => if j.job = id then f j else j)

/-- R465: `s1` of a saved job. -/
def putS1 (s : State) (j : Job) (v : Dword) : State := savePut s j.pages 0x208 (bytesOfNat 8 v.toNat)

/-- R464: the job ends with a status; one of a saved group ends alone (R363). -/
def endHeld (s : State) (id : BitVec 32) (status : Nat) : State :=
  match heldHart s id, heldJob s id with
  | some k, _ => endHart s k status
  | none, some j => endLoose (removeLoose s (fun x => x.held && x.job == id)) j status
  | none, none => s

/-- R360: a held job of an abandoned tree that is bound to no hart ends EXPIRED when it is let go. -/
def expireLoose (s : State) (id : BitVec 32) : State :=
  endHeld (updSaved s id fun j => { j with lastCause := 0x30 }) id 3

/-- R464, R363: the job goes on: its record is put back, or is ready, or a saved group takes it along.  In an
abandoned tree, where no record binds (R358), a bound one goes on in place, to take its expiry or to finish its
grace handler, and any other ends EXPIRED (R360; log entry 40: DEDUCED). -/
def repairJob (s : State) (id : BitVec 32) : State :=
  let free (j : Job) : Job := { j with held := false, page := [] }
  let gone (j : Job) : Bool := treeAbandoned s j.tree
  match heldHart s id with
  | some k =>
    atHart s k fun s =>
      let s1 := updH s fun h => { h with job := free h.job }
      if gone s1.hart.job then resumeHere s1 else putBack s1 false
  | none => if (heldJob s id).any gone then expireLoose s id else updSaved s id free

/-- R464: the trap of a job as its restart record gives it: cause and `tval`. -/
def heldTrap (s : State) (j : Job) : Nat × Nat :=
  (bits (saveDword s j.pages 0x400) 15 8, saveDword s j.pages 0x410)

/-- R464: a job ends FAULT, and its tenant's function is told. -/
def faultJob (s : State) (j : Job) : State :=
  let t := heldTrap s j
  notice (endHeld s j.job 5) j.tenant 0xFF (some 0) (j.job.zeroExtend 64)
    (BitVec.ofNat 64 (t.1 * 2 ^ 56 + t.2 % 2 ^ 56))

/-- R413: the code of a PRG Response acted on for a held job. -/
def actPage (s : State) (j : Job) (code : Nat) : State := if code = 0 then repairJob s j.job else faultJob s j

/-- The job waits for the answer to a page request. -/
def waitsPage (id : Nat) (j : Job) : Bool := j.page.any (fun p => p.id == id)

/-- The page its trap stands at, of those a held job asked for: the last one asked for at `tval`. -/
def trapPage (s : State) (j : Job) : Option PageWait :=
  (j.page.filter (fun p => p.va == (heldTrap s j).2 / 4096 * 4096)).getLast?

/-- The job stands at the service complex with a host-page fault. -/
def atPage (s : State) (j : Job) : Bool := j.held && (heldTrap s j).1 == 0x15

/-- R413: the response is kept for a job whose trap has not been taken up by the service complex. -/
def keepCode (id code : Nat) (s : State) : State :=
  let mark (j : Job) : Job := { j with page := j.page.map (fun p => if p.id = id then { p with code := some code } else p) }
  let s1 := (hartKeys s).foldl (fun s key => updHart s key fun h =>
    if waitsPage id h.job then { h with job := mark h.job } else h) s
  mapLoose s1 mark

/-- Every job whose trap the service complex has taken up and that is held for a page request. -/
def pageJobs (s : State) (id : Nat) : List Job :=
  (((boundJobs s).map (fun p => p.2)) ++ heldLoose s).filter (fun j =>
    (trapPage s j).any (fun p => p.id == id) && atPage s j && !eventWaits s (.trap j.job))

/-- R413: the records that wait for a page request: a Success lets them be tried again, else they are not
written (log entry 25: DESIGN CHOICE). -/
def pageRecords (s : State) (id code : Nat) : State :=
  let mine (w : LateWrite) : Bool := w.asked == some id
  if code = 0 then
    writeLate { s with eng := { s.eng with late := s.eng.late.map (fun w => if mine w then { w with asked := none } else w) } }
  else { s with eng := { s.eng with late := s.eng.late.filter (fun w => !mine w) } }

/-- The PRG Response of an event: the request's number and the code. -/
def prgEvent (e : SvcEvent) : Option (Nat × Nat) :=
  match e with
  | .prg n c => some (n, c)
  | _ => none

/-- R413: the service complex acts on a response. -/
def servePrg (s : State) : Option State :=
    ((nextSvc s).bind prgEvent).map (fun e =>
      let s1 := dropEvent s
      pageRecords ((pageJobs s1 e.1).foldl (fun s j => actPage s j e.2) (keepCode e.1 e.2 s1)) e.1 e.2)

/-- R413: the page requests outstanding at the host: its allocation, of those the controller holds. -/
def priOut (s : State) : List PageReq := s.tab.pri.take (min 512 s.tab.priAlloc)

/-- R413: the host answers a page request; a Response Failure stops page requests. -/
def pickPrgInput (s : State) : Option State :=
  takeInput s fun i s1 =>
    match i with
    | .prgResponse nth code =>
      some (match (priOut s1)[nth % (priOut s1).length]? with
        | none => s1
        | some p =>
          pushEvent { s1 with tab := { s1.tab with pri := s1.tab.pri.erase p, priOff := s1.tab.priOff || 2 ≤ code } }
            (.prg p.id code))
    | _ => none

/-- R413: a response arrives, or the service complex acts on one. -/
def pickPrg (s : State) : Option State := (pickPrgInput s).orElse fun _ => servePrg s

def execPrgResponse (s : State) : Out := .next ((pickPrg s).getD s)

/-- R413: the host re-enables PRI. -/
def pickPri (s : State) : Option State :=
  takeInput s fun i s1 =>
    match i with
    | .priReenable => some { s1 with tab := { s1.tab with priOff := false } }
    | _ => none

def execPriReenable (s : State) : Out := .next ((pickPri s).getD s)

/-! ### Invalidation (R410, R411, R414) -/

/-- R410 step 1: every entry of a tenant that overlaps a range is dropped. -/
def dropRange (s : State) (T va size : Nat) : State :=
  let keep (l : List TlbEntry) : List TlbEntry :=
    l.filter (fun e => !(e.tenant == T && e.va < va + size && va < e.va + e.size))
  { s with tab := { s.tab with
      coreTlb := (s.tab.coreTlb.map (fun p => (p.1, keep p.2))).filter (fun p => p.2 != [])
      groupTlb := (s.tab.groupTlb.map (fun p => (p.1, keep p.2))).filter (fun p => p.2 != []) } }

/-- An invalidation meets a page of its tenant. -/
def Inval.meets (v : Inval) (p : Nat × Nat) : Bool := p.1 < v.va + v.size && v.va < p.1 + p.2

/-- R410: the uses an invalidation finds of translations it drops: chunks under way and coding commands. -/
def markUses (v : Inval) (e : Engines) : Engines :=
  let ofCmd (c : CodingCmd) : CodingCmd :=
    if c.tenant = v.tenant ∧ c.pages.any (fun p => v.meets p.leaf) then { c with invals := v.id :: c.invals } else c
  { e with
    flight := e.flight.map (fun p =>
      if p.tenant = v.tenant ∧ p.pages.any v.meets then { p with invals := v.id :: p.invals } else p)
    coding := e.coding.map (fun q =>
      (q.1, { q.2 with running := q.2.running.map ofCmd, queue := q.2.queue.map ofCmd })) }

/-- R410: an invalidation begins: entries go, walks in progress fill nothing, and its completion waits for the
uses there are. -/
def invalidate (s : State) (v0 : Inval) : State :=
  let v := { v0 with id := s.tab.invalSerial }
  let s1 := dropRange s v.tenant v.va v.size
  { s1 with
    eng := markUses v s1.eng
    tab := { s1.tab with
      ats := s1.tab.ats.map (fun q =>
        if q.req.tenant = v.tenant ∧ v.meets (q.req.va / q.size * q.size, q.size) then { q with stale := true } else q)
      invals := s1.tab.invals ++ [v]
      invalSerial := s1.tab.invalSerial + 1 } }

/-- The host's invalidations whose completion is outstanding. -/
def hostInvals (s : State) : Nat := (s.tab.invals.filter (fun v => v.host)).length

/-- R410, R477: the host asks for an invalidation; 32 of them are accepted at a time. -/
def pickInval (s : State) : Option State :=
  if 32 ≤ hostInvals s then none
  else
    takeInput s fun i s1 =>
      match i with
      | .invalidate fn va size => some (invalidate s1 { tenant := fn, va := va, size := size })
      | _ => none

def execInvalidateRequest (s : State) : Out := .next ((pickInval s).getD s)

/-- R410, R411: a use that an invalidation found is still under way: a chunk that has not landed, or a coding
command. -/
def inUse (s : State) (id : Nat) : Bool :=
  s.eng.flight.any (fun p => p.invals.contains id) ||
    s.eng.coding.any (fun p => (p.2.running.toList ++ p.2.queue).any (fun c => c.invals.contains id))

/-- R410 step 3: an invalidation is complete: one of the host's is answered by an Invalidate Completion,
one of a command lets its result be written. -/
def pickInvalDone (s : State) : Option State :=
  (s.tab.invals.find? (fun v => !inUse s v.id)).map (fun v =>
    { s with tab := { s.tab with
      invals := s.tab.invals.erase v, invalDone := s.tab.invalDone + b2n v.host } })

def execInvalidateCompletion (s : State) : Out := .next ((pickInvalDone s).getD s)

/-! ### Errors (R262-R265, R321) -/

/-- An error input: its outcome.  A clean line of a cache is refetched when it is next wanted (R263); what
an entry of a return stack reads as is a free value, since R264 gives an error there no effect (log entry
22: DESIGN CHOICE). -/
def errorIn (s : State) (i : Input) : Option Out :=
  match i with
  | .error loc =>
    some (.next (if (isDram loc || isSpad loc) && !s.bad.contains (loc / 8) then { s with bad := s.bad ++ [loc / 8] }
      else s))
  | .coreError core => some (.next (if core < 96 then askFence s core else s))
  | .lineError core fetch line =>
    let drop (m : SMap (List CLine)) : SMap (List CLine) :=
      mapSet [] m core ((mapGet [] m core).filter (fun x => x.line != line))
    some (.next (if fetch then { s with icache := drop s.icache } else { s with dcache := drop s.dcache }))
  | .stackError key i =>
    let f := freshFree s
    some (.next (if i < (getHart s key).rs.length then
        updHart f.2 key fun h => { h with rs := h.rs.set i (f.1.truncate 48) }
      else s))
  | .sramError => some (.fault .errorWithoutEffect)
  | .corrected ch =>
    some (.next (telemetryOpen { s with eccCount := mapUpd 0 s.eccCount (ch % 32) (fun n => n + 1) } 0x0002 none none))
  | _ => none

/-- R262, R264: an error appears in storage, or is corrected; what a read makes of an uncorrectable
one is with the accesses. -/
def execUncorrectableError (s : State) : Out :=
  match s.inputs with
  | [] => .next s
  | i :: t => (errorIn { s with inputs := t } i.2).getD (.next s)

/-- R321: a drain that takes too long fences its core. -/
def pickDrain (s : State) : Option State :=
  takeInput s fun i s1 =>
    match i with
    | .drainTimeout core => some (if s1.disp.reclaims.contains core then askFence s1 core else s1)
    | _ => none

def execReclaimDrainTimeout (s : State) : Out := .next ((pickDrain s).getD s)

/-! ### Combining (R301) -/

/-- The oldest element on its way arrives at its bank. -/
def pickVamo (s : State) : Option State :=
  match s.vamos with
  | [] => none
  | v :: t => some (arriveVamo { s with vamos := t } v)

def execVamoArrival (s : State) : Out := .next ((pickVamo s).getD s)

/-- R301: 4,096 cycles in ns. -/
def combineLife : Nat := 2048

/-- The first bank with an entry that has stood 4,096 cycles. -/
def pickCombine (s : State) : Option State :=
  (s.combine.find? (fun p => p.2.any (fun c => c.time + combineLife ≤ s.nowNs))).map (fun p =>
    retireWhere s p.1 fun c => c.time + combineLife ≤ s.nowNs)

def execCombiningTimeout (s : State) : Out := .next ((pickCombine s).getD s)

end Sys2Proof.Machine
end

