-- ==== Sys2Proof/Machine/HostCmds.lean ====
section
/-! DEFINITION. The host commands (R455-R458, R461), one definition for each. -/

namespace Sys2Proof.Machine

/-! ### Launch queues (R328) -/

/-- A 96-bit core mask of two operands; none when it names a core beyond 95. -/
def maskOf (lo hi : Dword) : Option Nat := if hi.toNat / 2 ^ 32 = 0 then some (hi.toNat * 2 ^ 64 + lo.toNat) else none

/-- R328: the operands of QUEUE_CREATE are in range. -/
def queueGood (s : State) (c : Command) : Bool :=
  let n := c.p2.toNat
  c.p0.toNat < 192 && c.p1.toNat % 64 == 0 && c.p1.toNat < 2 ^ 48 && 2 ≤ n && n ≤ 4096 && 2 ^ n.log2 == n &&
    (maskOf c.p3 c.p4).isSome && bits c.p5.toNat 63 16 == 0 && bits c.p5.toNat 7 6 == 0 &&
    (c.p0.toNat < 128 || bits c.p5.toNat 15 8 != 0) && (mapGet {} s.tab.tenants (c.p5.toNat % 64)).valid

/-- QUEUE_CREATE. -/
def queueCreateCmd (c : Command) (s : State) : CmdOut :=
  let q := c.p0.toNat
  let t := c.p5.toNat % 64
  if !queueGood s c then refuseCmd 2 s
  else if t != c.fn || ((getQ s q).created && (getQ s q).tenant != c.fn) then refuseCmd 3 s
  else if (getQ s q).created && !(getQ s q).stopped then refuseCmd 4 s
  else
    let l : LaunchQ :=
      { created := true, tenant := t, base := c.p1, size := c.p2.toNat, mask := (maskOf c.p3 c.p4).getD 0,
        share := bits c.p5.toNat 15 8 }
    .done 0 0 0 (setQ s q l)

/-- QUEUE_DESTROY. -/
def queueDestroyCmd (c : Command) (s : State) : CmdOut :=
  let q := c.p0.toNat
  if 192 ≤ q || !(getQ s q).created then refuseCmd 2 s
  else if (getQ s q).tenant != c.fn then refuseCmd 3 s
  else .done 0 0 0 (setQ s q {})

/-! ### Tenants (R415, R416) -/

/-- The partition numbers that no core outside a mask uses; 0 stays tenant 0's, whose cores a reset makes
(R416). -/
def spareParts (s : State) (mask : Nat) : List Nat :=
  (List.range 96).filter (fun p => p != 0 && (List.range 96).all (fun c => bit mask c || (coreEntry s c).part != p))

/-- The number of a new partition: one that is not in use, which one is a free value (log entry 30:
DESIGN CHOICE). -/
def freePart (s : State) (mask : Nat) : Nat × State :=
  let l := spareParts s mask
  (l.getD ((freshFree s).1.toNat % l.length) 0, (freshFree s).2)

/-- R456: a core of tenant 0's partitions that nothing holds. -/
def coreIdle (s : State) (c : Nat) : Bool :=
  (coreEntry s c).owner == 0 && !(coreEntry s c).lent && coreOpen s c && (boundKeys s c).isEmpty &&
    !(getReady s c).any (fun j => j.ran)

/-- R416: a core joins a new tenant's partition. -/
def joinTenant (t part : Nat) (s : State) (c : Nat) : State :=
  let s1 := returnUnrun (releaseGangs s c) c
  newTenant { setCore s1 c { coreEntry s1 c with part := part, owner := t } with
    pmc := s1.pmc.filter (fun p => p.1 / 8 != c) } c

/-- TENANT_CREATE. -/
def tenantCreateCmd (c : Command) (s : State) : CmdOut :=
  let t := c.p0.toNat
  let mask := (maskOf c.p3 c.p4).getD 0
  if t = 0 || 63 < t || c.p1 = 0 || 255 < c.p1.toNat || bits c.p2.toNat 62 20 != 0 || mask = 0 then refuseCmd 2 s
  else if (mapGet {} s.tab.tenants t).valid || !(maskCores mask).all (coreIdle s) then refuseCmd 4 s
  else
    let part := (freePart s mask).1
    let s0 := (freePart s mask).2
    let s1 := { s0 with tab := { s0.tab with tenants := mapUpd {} s0.tab.tenants t fun e => { e with
      valid := true, weight := c.p1.toNat, pv := bit c.p2.toNat 63, pasid := bits c.p2.toNat 19 0 } } }
    .done 0 (BitVec.ofNat 64 part) 0 ((maskCores mask).foldl (joinTenant t part) s1)

/-- R455: the partitions of a tenant, and then the tenant itself. -/
def destroyTenant (s : State) (t : Nat) : State :=
  let parts := (List.range 96).filter (fun p => (partCores s p).any (fun c => (coreEntry s c).owner == t))
  dropTenant (resetObjects (endTenant (parts.foldl resetPartition s) t) t) t

/-- TENANT_DESTROY. -/
def tenantDestroyCmd (c : Command) (s : State) : CmdOut :=
  let t := c.p0.toNat
  if t = 0 || 63 < t || !(mapGet {} s.tab.tenants t).valid then refuseCmd 2 s
  else .later (.done 0 0 0) (destroyTenant s t)

/-- PT_ATTACH; the old translations of the tenant are dropped, and the result is written once their uses
have finished (R410; log entry 30: DESIGN CHOICE). -/
def ptAttachCmd (c : Command) (s : State) : CmdOut :=
  let t := c.p0.toNat
  if 63 < t || !(mapGet {} s.tab.tenants t).valid || c.p1.toNat % 4096 != 0 || dramSize ≤ c.p1.toNat then refuseCmd 2 s
  else if (boundJobs s).any (fun p => p.2.tenant == t) then refuseCmd 4 s
  else
    let e := { mapGet {} s.tab.tenants t with root := c.p1.toNat }
    .later (.inval t) (invalidate { s with tab := { s.tab with tenants := mapSet {} s.tab.tenants t e } }
      { tenant := t, va := 0, size := 2 ^ 48, host := false })

/-! ### Lending (R362, R363) -/

/-- LEND. -/
def lendCmd (c : Command) (s : State) : CmdOut :=
  let core := c.p0.toNat
  let b := c.p1.toNat
  if 96 ≤ core || 63 < b || !(mapGet {} s.tab.tenants b).valid || 2 ^ 48 ≤ c.p3.toNat then refuseCmd 2 s
  else if (coreEntry s core).owner != c.fn then refuseCmd 3 s
  else if (coreEntry s core).lent || !coreOpen s core || b = (coreEntry s core).owner then refuseCmd 4 s
  else .later (.lend core) (startLend s core { borrower := b, time := c.p2, image := c.p3, fn := c.fn, seq := c.seq })

/-- RECLAIM_AT. -/
def reclaimAtCmd (c : Command) (s : State) : CmdOut :=
  let core := c.p0.toNat
  if 96 ≤ core then refuseCmd 2 s
  else if (coreEntry s core).owner != c.fn then refuseCmd 3 s
  else .done 0 0 0 { s with disp := { s.disp with reclaimAt := mapSet none s.disp.reclaimAt core (some c.p1) } }

/-! ### Slot and bridle tables (R419, R423, R424) -/

/-- Dword `i` of bytes read for a command. -/
def dwordAt (bs : List Byte) (i : Nat) : Nat := natOfBytes ((bs.drop (8 * i)).take 8)

/-- R423, R424: an entry's image is acceptable. -/
def slotGood (bs : List Byte) : Bool :=
  let d := dwordAt bs
  bits (d 0) 62 60 ≤ 3 && bits (d 0) 59 6 == 0 && bits (d 2) 63 32 == 0 && bits (d 3) 63 32 == 0 &&
    bits (d 5) 63 32 == 0 && bits (d 2) 31 0 ≤ 4 * (1000000 / 2 ^ bits (d 0) 62 60)

/-- R423, R332: the entry an image sets at a device time; its counters start at 0. -/
def slotOf (bs : List Byte) (now : Nat) : Slot :=
  let d := dwordAt bs
  let e : Slot :=
    { enable := bit (d 0) 63, period := bits (d 0) 62 60, tenant := bits (d 0) 5 0, phase := BitVec.ofNat 64 (d 1),
      lead := bits (d 2) 31 0, offset := bits (d 3) 31 0, mask := bits (d 5) 31 0 * 2 ^ 64 + d 4,
      template := BitVec.ofNat 512 (natOfBytes ((bs.drop 64).take 64)) }
  { e with next := e.firstFrom now }

/-- SLOT_SET. -/
def slotSetCmd (c : Command) (s : State) : CmdOut :=
  if 128 ≤ c.p0.toNat then refuseCmd 2 s
  else withBytes s c.fn c.p1 128 fun bs s1 =>
    if slotGood bs then .done 0 0 0 (setSlot s1 c.p0.toNat (slotOf bs s1.nowNs)) else refuseCmd 2 s1

/-- R419: a bridle entry's image is acceptable. -/
def bridleGood (s : State) (bs : List Byte) : Bool :=
  let b : Bridle := { cfg0 := BitVec.ofNat 64 (dwordAt bs 0) }
  b.f 61 60 ≤ 1 && b.f 15 14 ≤ 1 && b.f 13 12 ≤ 2 && b.f 10 7 == 0 && bits (dwordAt bs 3) 31 0 == 0 &&
    b.f 59 56 ≤ b.f 55 52 && b.f 55 52 ≤ 13 && isCoreSite (b.f 29 25) (b.f 24 20) &&
    currentTenant s b.core == b.f 35 30

/-- BRIDLE_SET: the configuration is replaced and the counters are cleared. -/
def bridleSetCmd (c : Command) (s : State) : CmdOut :=
  let p := c.p0.toNat
  if bits p 15 4 != 0 || bits p 63 26 != 0 then refuseCmd 2 s
  else withBytes s c.fn c.p1 32 fun bs s1 =>
    if bridleGood s1 bs then
      .done 0 0 0 (setBridle s1 (p % 16) (bits p 25 16)
        { cfg0 := BitVec.ofNat 64 (dwordAt bs 0), cfg1 := BitVec.ofNat 64 (dwordAt bs 1) })
    else refuseCmd 2 s1

/-! ### Launches (R456) -/

/-- A record of 64 bytes, aligned, read for a command. -/
def withRecord (s : State) (c : Command) (f : JobRec → State → CmdOut) : CmdOut :=
  if c.p0.toNat % 64 != 0 then refuseCmd 2 s
  else withBytes s c.fn c.p0 64 fun bs s1 =>
    let r := parseRec (natOfBytes bs)
    if r.malformed false then refuseCmd 2 s1 else f r s1

/-- LAUNCH. -/
def launchCmd (c : Command) (s : State) : CmdOut :=
  withRecord s c fun r s1 =>
    if 16384 ≤ s1.disp.pool.length then refuseCmd 5 s1
    else
      let j := launchRoot s1 r c.fn r.deadline
      .done 0 (j.1.tree.zeroExtend 64) 0 (pushPool j.2 j.1)

/-- GANG_LAUNCH. -/
def gangLaunchCmd (c : Command) (s : State) : CmdOut :=
  withRecord s c fun r s1 =>
    if c.p1.toNat % 16 != 0 then refuseCmd 2 s1
    else withBytes s1 c.fn c.p1 16 fun bs s2 =>
      let m := natOfBytes bs
      if m = 0 || 2 ^ 96 ≤ m then refuseCmd 2 s2
      else if gangMaskBad s2 m c.fn then refuseCmd 3 s2
      else if gangFull s2 c.fn then refuseCmd 5 s2
      else
        let t := newTree s2 c.fn r.deadline
        .done 0 (t.1.zeroExtend 64) 0 (queueGang t.2 c.fn t.1 r m)

/-- R456: the spool of a COPY. -/
def copySpool (s : State) (T : Nat) (ea : Dword) : Option Nat × State :=
  match cmdPlace s T ea 0 .read with
  | .ok l _ s1 => (some (if isDram l then homeSlice l else 0), s1)
  | .fault _ s1 => (some 0, s1)
  | .wait s1 => (none, s1)

/-- COPY. -/
def copyCmd (c : Command) (s : State) : CmdOut :=
  if isRelative c.p0.toNat || isRelative c.p1.toNat || isRelative c.p3.toNat || c.p2 = 0 || 2 ^ 32 ≤ c.p2.toNat ||
      c.p3 = 0 || c.p3.toNat % 32 != 0 then refuseCmd 2 s
  else
    match copySpool s c.fn c.p0 with
    | (none, s1) => .wait s1
    | (some n, s1) =>
      let l : SpoolList :=
        { serial := s1.eng.serial, addr := BitVec.allOnes 64, tenant := c.fn, tree := 0, hostPost := true,
          single := true, hasSrc := true, hasDst := true, base := c.p0, run := c.p2.toNat, copyTo := some c.p1,
          recAddr := c.p3 }
      match acceptList s1 n l with
      | some s2 => .later (.copy n s1.eng.serial) s2
      | none => refuseCmd 5 s1

/-- SIGNAL. -/
def signalCmd (c : Command) (s : State) : CmdOut :=
  let n := c.p0.toNat
  if 4096 ≤ n then refuseCmd 2 s
  else if (getCtr s n).owner != c.fn then refuseCmd 3 s
  else .done 0 0 0 (depDecStep s n (if c.p1 = 0 then 1 else c.p1.toNat))

/-- CODING_CFG (R457). -/
def codingCfgCmd (c : Command) (s : State) : CmdOut :=
  let n := c.p0.toNat
  if 26 ≤ n then refuseCmd 2 s else .done 0 0 0 (setEng s n { getEng s n with denied := ~~~c.p1 })

/-! ### Telemetry and attestation (R466, R472) -/

/-- R472: the entry of a sequence is complete. -/
def entryDone (s : State) (q : BitVec 32) : Bool :=
  natOfBytes (getBytes s.mem (ringLoc (32 * (q.toNat % 4096) + 24)) 4) == (q + 1).toNat

/-- R472: how many entries from a sequence on are complete, up to `n`. -/
def doneRun (s : State) : Nat → BitVec 32 → Nat
  | 0, _ => 0
  | n + 1, q => if q != s.svc.claim && entryDone s q then 1 + doneRun s n (q + 1) else 0

/-- R472: the first sequence that can be copied: one that was overwritten is skipped past. -/
def firstSeq (s : State) (p : BitVec 32) : BitVec 32 :=
  let behind := (s.svc.claim - p).toNat
  if 4096 < behind && behind < 2 ^ 31 then s.svc.claim - 4096 else p

/-- TELEMETRY. -/
def telemetryCmd (c : Command) (s : State) : CmdOut :=
  if 2 ^ 32 ≤ c.p1.toNat then refuseCmd 2 s
  else
    let q := firstSeq s (c.p1.truncate 32)
    let n := doneRun s (min c.p2.toNat 4096) q
    let bs := (List.range n).flatMap (fun i => getBytes s.mem (ringLoc (32 * ((q.toNat + i) % 4096))) 32)
    withBuffer s c.fn c.p0 bs.length fun s1 =>
      .done 0 (BitVec.ofNat 64 n) ((q + BitVec.ofNat 32 n).zeroExtend 64) (putBytesAt s1 c.fn c.p0 bs)

/-- R415: a tenant entry's bytes. -/
def TenantEntry.bytes (e : TenantEntry) : List Byte :=
  bytesOfNat 8 (b2n e.valid * 2 ^ 63 + e.root + e.weight) ++ bytesOfNat 8 (b2n e.pv * 2 ^ 63 + e.pasid)

/-- R416: a core entry's bytes. -/
def CoreEntry.bytes (e : CoreEntry) : List Byte :=
  bytesOfNat 8 (e.borrower * 2 ^ 15 + b2n e.lent * 2 ^ 14 + e.part * 2 ^ 7 + b2n e.fenced * 2 ^ 6 + e.owner)

/-- R423: a slot entry's bytes. -/
def Slot.bytes (e : Slot) : List Byte :=
  bytesOfNat 8 (b2n e.enable * 2 ^ 63 + e.period * 2 ^ 60 + e.tenant) ++ bytesOfNat 8 e.phase.toNat ++
  bytesOfNat 8 e.lead ++ bytesOfNat 8 e.offset ++ bytesOfNat 16 e.mask ++ bytesOfNat 8 e.created.toNat ++
  bytesOfNat 8 e.skipped.toNat ++ bytesOfNat 64 e.template.toNat

/-- R419: a bridle entry's bytes. -/
def Bridle.bytes (b : Bridle) : List Byte :=
  bytesOfNat 8 b.cfg0.toNat ++ bytesOfNat 8 b.cfg1.toNat ++
  bytesOfNat 8 (b.frames.toNat * 2 ^ 32 + b.late.toNat * 2 ^ 16 + b.dropped.toNat) ++
  bytesOfNat 8 (b.early.toNat * 2 ^ 48 + b.saturated.toNat * 2 ^ 32)

/-- R466: the tables a report digests. -/
def tableBytes (s : State) : List Byte :=
  (List.range 64).flatMap (fun t => (mapGet {} s.tab.tenants t).bytes) ++
  (List.range 96).flatMap (fun c => (coreEntry s c).bytes) ++
  (List.range 63).flatMap (fun k =>
    let e := mapGet ({} : KeyEntry) s.tab.keys (k + 1)
    bytesOfNat 8 (b2n e.valid * 2 ^ 63 + e.tenant)) ++
  (List.range 128).flatMap (fun n => (getSlot s n).bytes) ++
  (List.range 16384).flatMap (fun n => (mapGet ({} : Bridle) s.eng.bridles n).bytes)

/-- R466: the report up to its signature. -/
def reportHead (s : State) (nonce : List Byte) : List Byte :=
  bytesOfNat 8 (2 ^ 32 + 4851) ++ bytesOfNat 8 Config.serial.toNat ++ nonce ++ bytesOfNat 8 s.nowNs ++
  bytesOfNat 64 (sha3 (getBytes s.mem (romLoc 0) (2 ^ 21))).toNat ++
  bytesOfNat 64 (sha3 (tableBytes s)).toNat ++
  bytesOfNat 8 ((List.range 64).foldl (fun m t => if (mapGet {} s.tab.tenants t).valid then m + 2 ^ t else m) 0)

/-- R466: the report. -/
def report (s : State) (nonce : List Byte) : List Byte :=
  let h := reportHead s nonce
  let d := sha3 h
  h ++ (List.range 4627).map (fun i => Config.signature d i)

/-- R466: the output written to the buffer. -/
def attestOut (c : Command) (s : State) (bs : List Byte) : CmdOut :=
  if c.p2.toNat < bs.length then refuseCmd 5 s
  else withBuffer s c.fn c.p1 bs.length fun s1 =>
    .later (.done 0 (BitVec.ofNat 64 bs.length) 0) (putBytesAt s1 c.fn c.p1 bs)

/-- ATTEST. -/
def attestCmd (c : Command) (s : State) : CmdOut :=
  if c.p3 = 1 then attestOut c s ((List.range 2592).map Config.publicKey)
  else if c.p3 = 0 then withBytes s c.fn c.p0 64 fun n s1 => attestOut c s1 (report s1 n)
  else refuseCmd 2 s

/-- PART_RESET. -/
def partResetCmd (c : Command) (s : State) : CmdOut :=
  if 96 ≤ c.p0.toNat then refuseCmd 2 s else .later (.done 0 0 0) (resetPartition s c.p0.toNat)

/-! ### Debugging (R323, R455, R456) -/

/-- The hart an operand names; none when it names none or has another bit set. -/
def debugHart (c : Command) : Option Nat :=
  if bits c.p0.toNat 63 11 = 0 ∧ c.p0.toNat % 256 < 96 then some (hartKey (c.p0.toNat % 256) (bits c.p0.toNat 10 8))
  else none

/-- R140, R141: a halted hart goes on from its saved state; an expiry that is pending for it stays. -/
def unhalt (s : State) (key : Nat) : State :=
  atHart s key fun s =>
    let h := s.hart
    bumpLink (updH s fun _ =>
      { resumedHart s { h.freed with linkGen := h.linkGen } h.jobNow with
        expiry := h.expiry, graceEnd := h.graceEnd })

/-- R456: every hart that a session halted goes on. -/
def closeSession (s : State) (part : Nat) : State :=
  let s1 := { s with svc := { s.svc with sessions := s.svc.sessions.filter (fun p => p != part) } }
  ((hartKeys s1).filter (fun k => (getHart s1 k).debugHeld && (coreEntry s1 (k / 8)).part == part)).foldl (fun s k =>
    if (getHart s k).stage = .halted then unhalt s k
    else updHart s k fun h => { h with debugHeld := false }) s1

/-- DEBUG_SESSION. -/
def debugSessionCmd (c : Command) (s : State) : CmdOut :=
  let p := c.p0.toNat
  if 96 ≤ p || 1 < c.p1.toNat then refuseCmd 2 s
  else if c.p1 = 0 then .done 0 0 0 (closeSession s p)
  else if s.svc.sessions.contains p then .done 0 0 0 s
  else .done 0 0 0 { s with svc := { s.svc with sessions := s.svc.sessions ++ [p] } }

/-- A debug command on a hart of a partition under a session. -/
def onDebug (c : Command) (s : State) (f : Nat → CmdOut) : CmdOut :=
  match debugHart c with
  | none => refuseCmd 2 s
  | some k => if s.svc.sessions.contains (coreEntry s (k / 8)).part then f k else refuseCmd 3 s

/-- R323: the hart can halt now: its queues have retired, and the unit it stands at has not begun, whatever
it waits for. -/
def canHalt (h : Hart) : Bool := h.stage == .running && h.queue.isEmpty && h.pend.isEmpty && h.posted.isEmpty

/-- DEBUG_HALT: the hart issues nothing more, and halts once its queues have retired; until then it only
stands still, and an interrupted command lets it go on (R459). -/
def debugHaltCmd (c : Command) (s : State) : CmdOut :=
  onDebug c s fun k =>
    let h := getHart s k
    if h.stage = .free then refuseCmd 2 s
    else if h.stage = .halted then .done 0 0 0 s
    else if h.stage = .service then refuseCmd 4 s
    else if canHalt h then .done 0 0 0 (atHart s k fun s => haltAt (dropWalks s k) s.hart.pc)
    else .wait (updHart s k fun h => { h with debugHeld := true })

/-- DEBUG_READ: the saved state of a halted hart. -/
def debugReadCmd (c : Command) (s : State) : CmdOut :=
  onDebug c s fun k =>
    let h := getHart s k
    if h.stage != .halted then refuseCmd 4 s
    else
      let n := 5120 + 2560 * h.width
      withBuffer s c.fn c.p1 n fun s1 =>
        .later (.done 0 0 0) (putBytesAt s1 c.fn c.p1 (saveGet s1 h.job.pages 0 n))

/-- DEBUG_RESUME. -/
def debugResumeCmd (c : Command) (s : State) : CmdOut :=
  onDebug c s fun k => if (getHart s k).stage = .halted then .done 0 0 0 (unhalt s k) else refuseCmd 4 s

/-! ### Keys, allocation, fencing, power, query -/

/-- KEY_SET: the key is read, and zeros are written over it. -/
def keySetCmd (c : Command) (s : State) : CmdOut :=
  let n := c.p0.toNat
  if n = 0 || 63 < n || 63 < c.p1.toNat || !(mapGet {} s.tab.tenants c.p1.toNat).valid then refuseCmd 2 s
  else withBytes s c.fn c.p2 64 fun bs s1 =>
    withBuffer s1 c.fn c.p2 64 fun s2 =>
      let e : KeyEntry := { valid := true, tenant := c.p1.toNat, key := BitVec.ofNat 512 (natOfBytes bs) }
      let s3 := putBytesAt s2 c.fn c.p2 (bytesOfNat 64 0)
      .done 0 0 0 { s3 with tab := { s3.tab with keys := mapSet {} s3.tab.keys n e } }

/-- R431: a counter allocated. -/
def giveCounter (t : Nat) (s : State) (n : Nat) : State :=
  setCtr s n { getCtr s n with owner := t, state := .idle, copy := none }

/-- R434: a barrier allocated. -/
def giveBarrier (t : Nat) (s : State) (n : Nat) : State :=
  if (mapGet {} s.barriers n : Barrier).owner = t then s
  else { s with barriers := mapSet {} s.barriers n { owner := t } }

/-- ALLOC. -/
def allocCmd (c : Command) (s : State) : CmdOut :=
  let first := c.p1.toNat
  let n := c.p2.toNat
  let t := c.p3.toNat
  let range := (List.range n).map (fun i => first + i)
  if 1 < c.p0.toNat || 63 < t || !(mapGet {} s.tab.tenants t).valid then refuseCmd 2 s
  else if c.p0 = 0 then
    if 4096 < first + n then refuseCmd 2 s
    else if range.any (fun i => (getCtr s i).state == .pending) then refuseCmd 4 s
    else .done 0 0 0 (range.foldl (giveCounter t) s)
  else if 384 < first + n then refuseCmd 2 s
  else if range.any (fun i => (mapGet {} s.barriers i : Barrier).count != 0) then refuseCmd 4 s
  else .done 0 0 0 (range.foldl (giveBarrier t) s)

/-- FENCE. -/
def fenceCmdR (c : Command) (s : State) : CmdOut :=
  if 96 ≤ c.p0.toNat then refuseCmd 2 s else .later (.fence c.p0.toNat) (askFence s c.p0.toNat)

/-- POWER_LIMIT. -/
def powerLimitCmd (c : Command) (s : State) : CmdOut :=
  if c.p0.toNat < 180 || 360 < c.p0.toNat then refuseCmd 2 s
  else .done 0 (BitVec.ofNat 64 s.svc.powerLimit) 0 (setPowerLimit s c.p0.toNat)

/-- R461: the answer for a journalled command; the result of deferred work under way is not known
(log entry 30: DESIGN CHOICE). -/
def queryEntry (s : State) (f : Nat) (e : JEntry) : CmdOut :=
  if e.state = 2 then .done 0 2 0 s
  else if stillDeferred s f e.seq then .done 0 1 (freshFree s).1 (freshFree s).2
  else .done 0 1 (BitVec.ofNat 64 (e.status * 2 ^ 56 + e.r0.toNat % 2 ^ 56)) s

/-- QUERY_RESULT. -/
def queryCmd (c : Command) (s : State) : CmdOut :=
  let j := (getFn s c.fn).journal
  if 2 ^ 32 ≤ c.p0.toNat then refuseCmd 2 s
  else
    match journalled s c.fn (c.p0.truncate 32) with
    | some e => queryEntry s c.fn e
    | none => if 256 ≤ j.length && j.head?.any (fun e => c.p0.toNat < e.seq.toNat) then refuseCmd 8 s else .done 0 0 0 s

/-! ### The rows -/

def execQueueCreate (s : State) : Out := runCmd 0x01 false s queueCreateCmd
def execQueueDestroy (s : State) : Out := runCmd 0x02 false s queueDestroyCmd
def execTenantCreate (s : State) : Out := runCmd 0x03 true s tenantCreateCmd
def execTenantDestroy (s : State) : Out := runCmd 0x04 true s tenantDestroyCmd
def execPtAttach (s : State) : Out := runCmd 0x05 true s ptAttachCmd
def execLend (s : State) : Out := runCmd 0x06 false s lendCmd
def execReclaimAt (s : State) : Out := runCmd 0x08 false s reclaimAtCmd
def execSlotSet (s : State) : Out := runCmd 0x09 true s slotSetCmd
def execBridleSet (s : State) : Out := runCmd 0x0A true s bridleSetCmd
def execLaunch (s : State) : Out := runCmd 0x0B false s launchCmd
def execGangLaunch (s : State) : Out := runCmd 0x0C false s gangLaunchCmd
def execCopy (s : State) : Out := runCmd 0x0D false s copyCmd
def execSignal (s : State) : Out := runCmd 0x0E false s signalCmd
def execCodingCfg (s : State) : Out := runCmd 0x0F true s codingCfgCmd
def execTelemetry (s : State) : Out := runCmd 0x10 true s telemetryCmd
def execAttest (s : State) : Out := runCmd 0x11 false s attestCmd
def execPartReset (s : State) : Out := runCmd 0x12 true s partResetCmd
def execDebugSession (s : State) : Out := runCmd 0x13 true s debugSessionCmd
def execDebugHalt (s : State) : Out := runCmd 0x14 true s debugHaltCmd
def execDebugRead (s : State) : Out := runCmd 0x15 true s debugReadCmd
def execDebugResume (s : State) : Out := runCmd 0x16 true s debugResumeCmd
def execKeySet (s : State) : Out := runCmd 0x17 true s keySetCmd
def execAlloc (s : State) : Out := runCmd 0x18 true s allocCmd
def execFenceCmd (s : State) : Out := runCmd 0x19 true s fenceCmdR
def execPowerLimit (s : State) : Out := runCmd 0x1A true s powerLimitCmd
def execQueryResult (s : State) : Out := runCmd 0x1B false s queryCmd

end Sys2Proof.Machine
end

