-- ==== Sys2Proof/Machine/LoadStore.lean ====
section
/-! DEFINITION. The scalar loads and stores (R269-R271). -/

namespace Sys2Proof.Machine

/-- R269: the address of a scalar access. -/
def scalarAddr (s : State) (sa : BitVec 5) (sz : BitVec 2) (off : BitVec 8) : Dword :=
  rdS s sa + off.signExtend 64 * BitVec.ofNat 64 (2 ^ sz.toNat)

/-- R269: a loaded value extended to a register. -/
def loadValue (sx : Bool) (sz : BitVec 2) (v : Nat) : Dword :=
  if sx then (BitVec.ofNat (8 * 2 ^ sz.toNat) v).signExtend 64 else BitVec.ofNat 64 v

/-- R269, R286: a load.  An acquire at group scope or wider ends what the data cache holds of device
memory (R258); it orders nothing further in a model that performs every access at once (log entry 4:
DESIGN CHOICE). -/
def execLds (sd sa : BitVec 5) (sz : BitVec 2) (sx : BitVec 1) (ord : BitVec 3) (off : BitVec 8)
    (s : State) : Out :=
  let ea := scalarAddr s sa sz off
  finish (coherent s .read ea (2 ^ sz.toNat) fun s =>
    ofLoad (loadX s (acc s .load .read) ea (2 ^ sz.toNat)) fun v s1 =>
      .ok (wrS (acquireIf (3 ≤ ord.toNat) s1) sd (loadValue (sx == 1) sz v)))

/-- R269, R271, R286: a posted store of the low bytes of `sd`; a release comes after every earlier
access. -/
def execSts (sd sa : BitVec 5) (sz : BitVec 2) (ord : BitVec 3) (off : BitVec 8) (s : State) : Out :=
  let ea := scalarAddr s sa sz off
  finish (released (ord != 0) (.sts sd sa sz ord off) s fun s =>
    coherent s .write ea (2 ^ sz.toNat) fun s =>
      ofStore (storeX s (acc s .store .write) ea (bytesOfNat (2 ^ sz.toNat) (rdS s sd).toNat)))

end Sys2Proof.Machine
end

