-- ==== Sys2Proof/Machine/Management.lean ====
section
/-! DEFINITION. Stores to registers from outside the harts (R8, R251, R329, R366, R475, R483), the
management registers (R468-R472), and the management core's reset (R467). -/

namespace Sys2Proof.Machine

/-! ### Kinds of register (R8) -/

/-- What a store of a service core or the host writes. -/
inductive RegKind where
  | launchBell
  | powerLimit
  | portMode
  | descriptor
  | other
  deriving DecidableEq, Repr

/-- The accessor of a service core: tenant 0 (R448). -/
def serviceAcc : Acc := { hart := hartKey mgmtCore 0, tenant := 0, form := .store, kind := .write }

/-- What an absolute site address names to a store of 8 bytes. -/
def storeTarget (s : State) (a : Dword) : Option (Target × State) :=
  let v := a.toNat
  if v / 2 ^ 56 != 0xFE || bit v 54 || bits v 43 20 != 0 || v % 8 != 0 then none
  else
    match siteCheck s serviceAcc (bit v 55) (bits v 53 49) (bits v 48 44) (v % 2 ^ 20) 8 a with
    | .ok t s1 => some (t, s1)
    | _ => none

/-- The kind of the register a target is. -/
def kindOf (t : Target) : RegKind :=
  match t with
  | .io x y off =>
    if x = 0 && off % 0x100 = 0 then .portMode
    else if x = 13 && y = 0 && off % 16 = 0 then .launchBell
    else if x = 13 && y = 7 && off = 0x80490 then .powerLimit
    else .other
  | .ctl _ off => if off < 0x80400 then .descriptor else .other
  | _ => .other

/-- The store performed. -/
def storeAt (s : State) (t : Target) (v : Dword) : State :=
  match t with
  | .io x y off => ioWrite s x y off v
  | .ctl core off => ctlWrite s core off v
  | .mem l k => (writeLoc s k l (bytesOfNat 8 v.toNat)).getD s
  | .far => s

/-- A store at the head of the inputs to a register of a kind. -/
def pickStore (k : RegKind) (s : State) : Option State :=
  takeInput s fun i s1 =>
    match i with
    | .store a v =>
      match storeTarget s1 a with
      | some (t, s2) => if kindOf t = k then some (storeAt s2 t v) else none
      | none => if k = .other then some s1 else none
    | _ => none

/-- R329, R475: a doorbell, from a service core or through BAR2. -/
def pickBell (s : State) : Option State :=
  (pickStore .launchBell s).orElse fun _ =>
    takeInput s fun i s1 =>
      match i with
      | .bar2 f off v => some (writeBar2 s1 f off v)
      | _ => none

def execLaunchDoorbell (s : State) : Out := .next ((pickBell s).getD s)
/-- R470: the power limit register. -/
def execPowerLimitRegisterWrite (s : State) : Out := .next ((pickStore .powerLimit s).getD s)
/-- R483: a port's mode; no frame is in flight between two steps (log entry 31: DESIGN CHOICE). -/
def execPortModeWrite (s : State) : Out := .next ((pickStore .portMode s).getD s)
/-- R366: a window descriptor. -/
def execWindowDescriptorStore (s : State) : Out := .next ((pickStore .descriptor s).getD s)

/-- R451, R475: a host write of the command tail, or a service core taking a command. -/
def pickCmdBell (s : State) : Option State :=
  (takeInput s fun i s1 =>
    match i with
    | .bar0 f off v => if off = 0x018 then some (writeTail s1 f (v.truncate 32)) else none
    | _ => none).orElse fun _ => pickTake s

def execCommandDoorbell (s : State) : Out := .next ((pickCmdBell s).getD s)

/-- A number no hart of this device has: a hart of the twin as one that writes here. -/
def twinHart : Nat := 8 * 128

/-- R230, R479, R480: a write by a hart of the twin to device memory, under the cacheability of its page, or to
the scratchpad of a core that is not fenced, where the ring guard checks it as it does any hart; what it stores
to control windows is a store of tenant 0 from outside, as a service core's. -/
def twinWrite (s : State) (l cache : Nat) (bs : List Byte) : State :=
  let open_ := s.tetherUp && (isDram l || (isSpad l && !(coreEntry s (spadCore l)).fenced))
  if open_ && (guardStops s twinHart l bs.length).isNone then (writeParts (useLines s cache l bs.length) 0 l bs).1 else s

/-- R8: any other register write, a sensor's reading, and what the host and the twin store. -/
def pickRegister (s : State) : Option State :=
  (pickStore .other s).orElse fun _ =>
    takeInput s fun i s1 =>
      match i with
      | .bar0 f off v => if off = 0x018 then none else some (writeBar0 s1 f off v)
      | .priAllocation n => some { s1 with tab := { s1.tab with priAlloc := n } }
      | .selectPort n => some { s1 with time := { s1.time with port := n % 16 } }
      | .hostStore a bs => some (pokeLoc s1 0 (hostLoc a) bs)
      | .twinStore l cache bs => some (twinWrite s1 l cache bs)
      | .temperature n v => some { s1 with svc := { s1.svc with sensors := mapSet 0 s1.svc.sensors (n % 120) v } }
      | _ => none

def execRegisterWrite (s : State) : Out := .next ((pickRegister s).getD s)

/-- R472: a load of the claim register by an appender outside the harts. -/
def pickClaim (s : State) : Option State :=
  takeInput s fun i s1 =>
    match i with
    | .claim => some (ioRead s1 13 7 0x804A0).2
    | _ => none

def execTelemetryClaim (s : State) : Out := .next ((pickClaim s).getD s)

/-! ### Trip hold and power step (R470, R471) -/

/-- A sensor's reading, in 1/16 °C. -/
def sensor (s : State) (n : Nat) : Int := (mapGet 0 s.svc.sensors n).toInt

/-- The sensor with the highest reading, the lowest number on a tie. -/
def hottest (s : State) : Nat := (List.range 120).foldl (fun m n => if sensor s m < sensor s n then n else m) 0

/-- The entry of a trip hold's begin or end. -/
def tripEntry (s : State) (on : Bool) (n : Nat) : State :=
  telemetry { s with svc := { s.svc with trip := on } } 0x0011 (n * 256 + b2n on) (mapGet 0 s.svc.sensors n).toNat

/-- R470: a sensor reads 110.0 °C or more. -/
def pickTrip (s : State) : Option State :=
  if s.svc.trip then none else ((List.range 120).find? (fun n => 1760 ≤ sensor s n)).map (tripEntry s true)

/-- R470: every sensor reads below 100.0 °C. -/
def pickTripEnd (s : State) : Option State :=
  if s.svc.trip && (List.range 120).all (fun n => sensor s n < 1600) then some (tripEntry s false (hottest s)) else none

def execTripHoldBegin (s : State) : Out := .next ((pickTrip s).getD s)
def execTripHoldEnd (s : State) : Out := .next ((pickTripEnd s).getD s)

/-- R470: the step after 1 ms of an average power. -/
def nextStep (st limit w : Nat) : Nat :=
  if limit < w then min 15 (st + 1) else if 100 * w < 95 * limit then st - 1 else st

/-- R470: the end of 1 ms. -/
def powerEnd (s : State) (w : Nat) : State :=
  let n := nextStep s.svc.powerStep s.svc.powerLimit w
  let s1 := { s with svc := { s.svc with power := w, powerStep := n } }
  if n = s.svc.powerStep then s1 else telemetry s1 0x0012 n w

/-- The average power of a ms at the head of the inputs. -/
def pickPower (s : State) : Option State :=
  takeInput s fun i s1 =>
    match i with
    | .power w => some (powerEnd s1 w)
    | _ => none

def execPowerStep (s : State) : Out := .next ((pickPower s).getD s)

/-- R469: the step a group's cores are throttled by. -/
def effectiveStep (s : State) (g : Nat) : Nat :=
  max (mapGet 0 s.svc.throttle g).toNat (max (if s.svc.trip then 15 else 0) s.svc.powerStep)

/-! ### The management core (R467) -/

/-- R467: the management core's hart. -/
def mgmtKey : Nat := hartKey mgmtCore 0

/-- R467: the reset of the management core. -/
def execMgmtCoreReset (s : State) : Out := .next (atHart s mgmtKey mgmtReset)

end Sys2Proof.Machine
end

