-- ==== Sys2Proof/Machine/ScalarFp.lean ====
section
/-! DEFINITION. Scalar floating point (R133-R136). -/

namespace Sys2Proof.Machine

/-- R92, R94, R136: a scalar floating-point instruction ends.  Its flags are merged; an enabled one
is a precise trap, and then nothing is written. -/
def fpResult (s : State) (sd : BitVec 5) (f : Flags) (v : Dword) : Out :=
  let s1 := mergeFlags s f
  finish
    (if fpTraps (fcsrNow s) f then
      xtrap 0x20 (((fcsrEnables (fcsrNow s) &&& f).zeroExtend 64) <<< 8) s1
    else .ok (wrS s1 sd v))

/-- The format of `pr`. -/
def prFmt (pr : BitVec 1) : FFmt := if pr = 0 then f32 else f64

/-- R107: an operand of a format, from the low bits of a register. -/
def fpOperand (f : FFmt) (s : State) (r : BitVec 5) : Nat := (rdS s r).toNat % 2 ^ f.width

/-- An arithmetic form of two operands. -/
def fpScalar (sd sa sb : BitVec 5) (pr : BitVec 1) (op : FFmt → RM → Nat → Nat → FRes) (s : State) : Out :=
  let f := prFmt pr
  let r := op f (fcsrRm (fcsrNow s)) (fpOperand f s sa) (fpOperand f s sb)
  fpResult s sd r.flags (BitVec.ofNat 64 r.bits)

def execFadd (sd sa sb : BitVec 5) (pr : BitVec 1) (s : State) : Out := fpScalar sd sa sb pr fpAdd s
def execFsub (sd sa sb : BitVec 5) (pr : BitVec 1) (s : State) : Out := fpScalar sd sa sb pr fpSub s
def execFmul (sd sa sb : BitVec 5) (pr : BitVec 1) (s : State) : Out := fpScalar sd sa sb pr fpMul s
def execFdiv (sd sa sb : BitVec 5) (pr : BitVec 1) (s : State) : Out := fpScalar sd sa sb pr fpDiv s
def execFsqrt (sd sa : BitVec 5) (pr : BitVec 1) (s : State) : Out :=
  fpScalar sd sa sa pr (fun f rm a _ => fpSqrt f rm a) s
def execFmadd (sd sa sb sc : BitVec 5) (pr : BitVec 1) (s : State) : Out :=
  fpScalar sd sa sb pr (fun f rm a b => fpFma f rm false false a b (fpOperand f s sc)) s
def execFmin (sd sa sb : BitVec 5) (pr : BitVec 1) (s : State) : Out :=
  fpScalar sd sa sb pr (fun f _ => fpMinMax f false) s
def execFmax (sd sa sb : BitVec 5) (pr : BitVec 1) (s : State) : Out :=
  fpScalar sd sa sb pr (fun f _ => fpMinMax f true) s

/-- R134: the relation as 1 or 0. -/
def execFcmp (sd sa sb : BitVec 5) (cond : BitVec 5) (pr : BitVec 1) (s : State) : Out :=
  let f := prFmt pr
  let r := fpCmp f cond.toNat (fpOperand f s sa) (fpOperand f s sb)
  fpResult s sd r.2 (flag01 r.1)

/-- R134: an integer of a type placed in a register. -/
def placeInt (t x : Nat) : Dword := BitVec.ofInt 64 (extElem t (typeWidth t) x)

/-- R134: the value of type `src` in a register converted to `dst`, as it is placed there. -/
def scalarCvt (src dst : Nat) (rm : RM) (sat : Bool) (a : Nat) : Flags × Dword :=
  let x := a % 2 ^ typeWidth src
  if isInt src && isInt dst then
    (noFlags, placeInt dst (wrapN (typeWidth dst) (extElem src (typeWidth src) x)))
  else
    let r := cvtElem src dst rm sat x
    (r.flags, if isInt dst then placeInt dst r.bits else BitVec.ofNat 64 r.bits)

def execFcvt (sd sa : BitVec 5) (st dt : BitVec 5) (s : State) : Out :=
  let r := scalarCvt st.toNat dt.toNat (fcsrRm (fcsrNow s)) (fcsrSat (fcsrNow s)) (rdS s sa).toNat
  fpResult s sd r.1 r.2
def execFclass (sd sa : BitVec 5) (pr : BitVec 1) (s : State) : Out :=
  result s sd (BitVec.ofNat 64 (fpClass (prFmt pr) (fpOperand (prFmt pr) s sa)))
/-- R134: the bits move unchanged. -/
def execFmv (sd sa : BitVec 5) (pr : BitVec 1) (s : State) : Out :=
  result s sd (BitVec.ofNat 64 (fpOperand (prFmt pr) s sa))

end Sys2Proof.Machine
end

