-- ==== Sys2Proof/Machine/TimeLink.lean ====
section
/-! DEFINITION. Device time (R427, R428, R485), and the state of the links (R22, R480). -/

namespace Sys2Proof.Machine

/-- The time unit changed. -/
def updTime (s : State) (f : TimeUnit → TimeUnit) : State := { s with time := f s.time }

/-- Device time set, in 2^-16 ns. -/
def setFine (s : State) (t : Nat) : State :=
  updTime s fun u => { u with now := BitVec.ofNat 64 (t / 65536), frac := BitVec.ofNat 16 t }

/-- R428: what slewing adds to a step of `d`: at most 100 ppm of it, towards no offset. -/
def slewPart (d : Nat) (off : Int) : Int :=
  let m : Int := d / 10000
  if m < off then m else if off < -m then -m else off

/-- R428: device time goes on by `d` (in 2^-16 ns), slewed. -/
def passTime (s : State) (d : Nat) : State :=
  let a := slewPart d s.time.slew
  updTime (setFine s (s.fine + ((d : Int) + a).toNat)) fun u => { u with slew := u.slew - a }

/-! ### PTP (R427, R428, R485) -/

/-- R484, R485: a PTP message that came at a port when the master's time was `master`, `age` before it is taken in:
the port timestamps it, and on the selected port the offset that shows is removed by slewing. -/
def takePtp (s : State) (port master age : Nat) : State :=
  let stamp := s.fine - age
  let s1 := { s with eng := { s.eng with ports := mapUpd {} s.eng.ports port fun q => { q with stampIn := stamp } } }
  if (mapGet ({} : Port) s.eng.ports port).mode = 0 then s
  else if port = s.time.port && s.time.stepped then updTime s1 fun u => { u with slew := (master : Int) - stamp }
  else s1

/-- The PTP message at the head of the inputs. -/
def pickPtp (s : State) : Option State :=
  takeInput s fun i s1 =>
    match i with
    | .ptp port master age => some (takePtp s1 port master age)
    | _ => none

def execPtpFrame (s : State) : Out := .next ((pickPtp s).getD s)

/-- R485: the service complex keeps the quality level an ESMC message brings on the selected port. -/
def pickEsmc (s : State) : Option State :=
  takeInput s fun i s1 =>
    match i with
    | .esmc port ql => some (if port = s1.time.port then updTime s1 fun u => { u with ssm := ql } else s1)
    | _ => none

def execEsmcMessage (s : State) : Out := .next ((pickEsmc s).getD s)

/-- R427: the slots a step passes over are counted as skipped. -/
def passSlots (s : State) (t : Nat) : State :=
  (List.range 128).foldl (fun s n =>
    let e := getSlot s n
    let k := e.firstFrom t
    if e.enable && e.next < k then setSlot s n { e with next := k, skipped := e.skipped + BitVec.ofNat 64 (k - e.next) }
    else s) s

/-- R427: the trees whose deadlines a step passes over are abandoned at once. -/
def passDeadlines (s : State) : State :=
  s.disp.trees.foldl (fun s p =>
    match p.2 with
    | some t =>
      if t.deadline != bestEffort && t.deadline.toNat ≤ s.nowNs then abandonTree s (BitVec.ofNat 32 p.1) false else s
    | none => s) s

/-- R427: the first lock: device time steps forward, once. -/
def firstLock (s : State) (t : Dword) : State :=
  if s.time.stepped then s
  else
    let s1 := updTime s fun u => { u with stepped := true, lock := 1 }
    let s2 := if s.time.now.toNat < t.toNat then setFine s1 (t.toNat * 65536) else s1
    telemetryOpen (passDeadlines (passSlots s2 s2.nowNs)) 0x0004 none none

/-- The first lock at the head of the inputs. -/
def pickTimeStep (s : State) : Option State :=
  takeInput s fun i s1 =>
    match i with
    | .timeStep t => some (firstLock s1 t)
    | _ => none

def execTimeStep (s : State) : Out := .next ((pickTimeStep s).getD s)

/-- R428: a change of lock state, which the telemetry ring records. -/
def pickLock (s : State) : Option State :=
  takeInput s fun i s1 =>
    match i with
    | .lock st =>
      some (if s1.time.lock = st || 3 ≤ st || (st = 1 && !s1.time.stepped) then s1
        else telemetryOpen (updTime s1 fun u => { u with lock := st }) 0x0004 none none)
    | _ => none

def execLockStateChange (s : State) : Out := .next ((pickLock s).getD s)

/-! ### Links (R22) -/

/-- R22: the replays of a link within the last ms. -/
def recentReplays (s : State) (l : Nat) : List Nat :=
  (mapGet [] s.replays l).filter (fun t => s.nowNs < t + 1000000)

/-- R22: a flit is replayed. -/
def pickReplay (s : State) : Option State :=
  takeInput s fun i s1 =>
    match i with
    | .flitReplay l => some { s1 with replays := mapSet [] s1.replays l (recentReplays s1 l ++ [s1.nowNs]) }
    | _ => none

def execFlitReplay (s : State) : Out := .next ((pickReplay s).getD s)

/-- R22: a link has retrained, at half width or not. -/
def retrain (s : State) (l : Nat) (half : Bool) : State :=
  let rest := s.meshHalf.filter (fun x => x != l)
  telemetryOpen { s with
    meshHalf := if half then rest ++ [l] else rest
    replays := mapSet [] s.replays l [] } 0x0001 none none

/-- R22: a link with more than 16 replays within 1 ms retrains; whether its lanes fail then is a
free value (log entry 19: DESIGN CHOICE). -/
def pickWorn (s : State) : Option State :=
  (s.replays.find? (fun p => 16 < (recentReplays s p.1).length)).map (fun p =>
    retrain (freshFree s).2 p.1 ((freshFree s).1.getLsbD 0))

/-- A retraining at the head of the inputs, or one that replays call for. -/
def pickRetrain (s : State) : Option State :=
  (takeInput s fun i s1 =>
    match i with
    | .linkRetrain l half => some (retrain s1 l half)
    | _ => none).orElse fun _ => pickWorn s

def execLinkRetrain (s : State) : Out := .next ((pickRetrain s).getD s)

/-! ### The tether (R480) -/

/-- R480: the tether's state, recorded when it changes. -/
def setTether (s : State) (up : Bool) : State :=
  if s.tetherUp = up then s else telemetryOpen { s with tetherUp := up } 0x0001 none none

/-- The tether goes down. -/
def pickTetherDown (s : State) : Option State :=
  takeInput s fun i s1 =>
    match i with
    | .tetherDown => some (setTether s1 false)
    | _ => none

/-- The tether comes up. -/
def pickTetherUp (s : State) : Option State :=
  takeInput s fun i s1 =>
    match i with
    | .tetherUp => some (setTether s1 true)
    | _ => none

def execTetherDown (s : State) : Out := .next ((pickTetherDown s).getD s)
def execTetherUp (s : State) : Out := .next ((pickTetherUp s).getD s)

end Sys2Proof.Machine
end

