-- ==== Sys2Proof/Machine/ServiceEvents.lean ====
section
/-! DEFINITION. Traps at the service complex and the `svc` services (R464, R465), the watchdog, the
restart and ballast (R462, R463), and bring-up (R473). -/

namespace Sys2Proof.Machine

/-! ### Traps (R464, R465) -/

/-- R449, R464: the oldest event, if it is a trap whose cause and `tval` are a row's, is taken. -/
def pickTrap (s : State) (p : Nat → Nat → Bool) (act : State → Job → State) : Option State :=
  match nextSvc s with
  | some (.trap id) =>
    let s1 := dropEvent s
    match heldJob s id with
    | none => if p 0 0 then some s1 else none
    | some j =>
      if p (heldTrap s j).1 (heldTrap s j).2 then some (act s1 j) else none
  | _ => none

/-- R465: an `svc` of a code. -/
def isSvc (n : Nat) (cause tval : Nat) : Bool := cause == 8 && tval == n

/-- R465: the services a code from 0 to 3 asks for. -/
def isService (cause tval : Nat) : Bool := cause == 8 && tval ≤ 3

/-- R413: what becomes of a job with a host-page fault: its response has come, is outstanding, or
cannot come. -/
def pageTrap (s : State) (j : Job) : State :=
  match trapPage s j with
  | none => faultJob s j
  | some p =>
    match p.code with
    | some c => actPage s j c
    | none =>
      let asked := s.tab.pri.any (fun q => q.id == p.id) ||
        (s.svc.events ++ s.svc.held).any (fun e => (prgEvent e).any (fun x => x.1 == p.id))
      if asked then s else faultJob s j

/-- R464: every trap but the services of R465. -/
def trapAct (s : State) (j : Job) : State := if (heldTrap s j).1 = 0x15 then pageTrap s j else faultJob s j

def execServiceTrap (s : State) : Out := .next ((pickTrap s (fun c v => !isService c v) trapAct).getD s)

/-- R465: `s1` is written, and the job goes on. -/
def serve (s : State) (j : Job) (v : Dword) : State := repairJob (putS1 s j v) j.job

/-- A saved scalar register of a job (R316). -/
def savedS (s : State) (j : Job) (r : Nat) : Dword := BitVec.ofNat 64 (saveDword s j.pages (0x200 + 8 * r))

/-- R465 code 1. -/
def serveNotice (s : State) (j : Job) : State :=
  serve (notice s j.tenant 0xFE none (savedS s j 2) (savedS s j 3)) j 0

/-- R465 code 2. -/
def serveLog (s : State) (j : Job) : State :=
  serve (telemetry s 0x0100 (savedS s j 2).toNat (savedS s j 3).toNat) j 0

def execSvcNone (s : State) : Out := .next ((pickTrap s (isSvc 0) fun s j => serve s j 0).getD s)
def execSvcNotice (s : State) : Out := .next ((pickTrap s (isSvc 1) serveNotice).getD s)
def execSvcTelemetry (s : State) : Out := .next ((pickTrap s (isSvc 2) serveLog).getD s)
def execSvcTimeLock (s : State) : Out :=
  .next ((pickTrap s (isSvc 3) fun s j => serve s j (BitVec.ofNat 64 s.time.lock)).getD s)

/-! ### Timers, watchdog, restart (R449, R462) -/

/-- R449: a firmware timer event is put into the queue, or taken by a service core; it does nothing
the spec names. -/
def pickFirmware (s : State) : Option State :=
  (takeInput s fun i s1 =>
    match i with
    | .firmwareTimer => some (pushEvent s1 .timer)
    | _ => none).orElse fun _ =>
    if nextSvc s = some .timer then some (dropEvent s) else none

def execFirmwareTimer (s : State) : Out := .next ((pickFirmware s).getD s)

/-- R459, R462: a hart that a DEBUG_HALT was still waiting for goes on issuing. -/
def dropHalt (s : State) (c : Command) : State :=
  match debugHart c with
  | some k =>
    if c.op = 0x14 ∧ (getHart s k).stage ≠ .halted then updHart s k fun h => { h with debugHeld := false } else s
  | none => s

/-- R462: a command that has not committed is interrupted; its walks are dropped. -/
def interrupt (s : State) (h : Handled) : State :=
  let c := h.cmd
  putResult (journal (dropWalks (dropHalt s c) cmdAgent) c.fn ⟨c.seq, c.op, 2, 7, 0, 0, s.nowNs⟩) c.fn c.seq c.op 7 0 0
    s.nowNs

/-- R462: the watchdog resets the service cores. -/
def expireWatchdog (s : State) (core : Nat) : State :=
  let s1 := telemetryOpen s 0x0021 (some (core % 12)) none
  let s2 := s1.svc.cmds.foldl interrupt { s1 with svc := { s1.svc with cmds := [] } }
  { s2 with svc := { s2.svc with restarting := true, hung := some core, expiredAt := s.nowNs, restartDue := false } }

/-- R462: an event is not finished 2 ms after it was taken. -/
def pickOverdue (s : State) : Option State :=
  if s.svc.restarting then none
  else (s.svc.cmds.find? (fun h => h.since + 2000000 ≤ s.nowNs)).map (fun h => expireWatchdog s h.core)

/-- R462: a service core has hung, or is overdue. -/
def pickWatchdog (s : State) : Option State :=
  (takeInput s fun i s1 =>
    match i with
    | .hang core => some (if s1.svc.restarting then s1 else expireWatchdog s1 core)
    | _ => none).orElse fun _ => pickOverdue s

def execWatchdogExpiry (s : State) : Out := .next ((pickWatchdog s).getD s)

/-- R462, R463: the service cores have restarted and ballast has stopped, as many µs after the expiry as the
entry says; queues it stopped at are served again. -/
def restarted (s : State) : State :=
  let s1 := telemetryOpen s 0x0020 (some ((s.nowNs - s.svc.expiredAt) / 1000)) none
  let s2 := { s1 with svc := { s1.svc with restarting := false, restartDue := false, hung := none } }
  (List.range 64).foldl (fun s f => ringFn (setFn s f { getFn s f with halted := false }) f) s2

/-- The service cores are ready to go on: at once, or when ballast has finished the command it has taken. -/
def askRestart (s : State) : State :=
  if !s.svc.restarting then s
  else if s.svc.cmds.isEmpty then restarted s
  else { s with svc := { s.svc with restartDue := true } }

/-- The restart at the head of the inputs, or one that waited for ballast. -/
def pickRestart (s : State) : Option State :=
  (takeInput s fun i s1 =>
    match i with
    | .serviceRestart => some (askRestart s1)
    | _ => none).orElse fun _ =>
    if s.svc.restartDue && s.svc.restarting && s.svc.cmds.isEmpty then some (restarted s) else none

def execServiceRestart (s : State) : Out := .next ((pickRestart s).getD s)

/-! ### Ballast (R463) -/

/-- R463: ballast executes the opcode. -/
def ballastOp (op : Nat) : Bool := op == 0x0B || op == 0x0C || op == 0x0E

/-- R463: one turn of ballast at a queue: a command of its three is taken, any other stops it. -/
def ballastAt (s : State) (f : Nat) : State :=
  let s1 := { s with svc := { s.svc with ballastTurn := (f + 1) % 64 } }
  if ballastOp (headCmd s1 f).op then takeCmd s1 f 12 else setFn s1 f { getFn s1 f with halted := true }

/-- R463: the next queue that ballast serves. -/
def pickBallast (s : State) : Option State :=
  if !s.svc.restarting || s.svc.restartDue || !s.svc.cmds.isEmpty then none
  else
    (((List.range 64).map (fun i => (s.svc.ballastTurn + i) % 64)).find? (fun f =>
      (getFn s f).pending && !(getFn s f).halted)).map (ballastAt s)

def execBallastTurn (s : State) : Out := .next ((pickBallast s).getD s)

/-! ### Bring-up (R473) -/

/-- R473: what a reset leaves; what stands outside the device and its inputs stay. -/
def bringUp (s : State) : State :=
  { State.reset with
    inputs := s.inputs, ticks := s.ticks, free := s.free, twinRole := s.twinRole, tetherUp := s.tetherUp,
    tab := { State.reset.tab with twinCores := s.tab.twinCores } }

/-- The location is one of host memory, of the twin's memory, or of the ROM. -/
def isOutside (l : Nat) : Bool := isHost l || (2 ^ 49 ≤ l && l < 2 ^ 52)

/-- R473, R9: the power comes on. -/
def powerUp (s : State) : State := { bringUp s with mem := s.mem.filter (fun p => isOutside p.1) }

/-- R473: the next step of the bring-up: the management core starts; it trains the memory channels and the
mesh links; the service cores and then the host controller are released; the service cores set every core
to partition 0 of tenant 0, clear the tables and start the time unit free-running (R427); and the device
reports ready. -/
def bootStep (s : State) : State :=
  let s1 := { s with svc := { s.svc with boot := s.svc.boot + 1 } }
  match s.svc.boot with
  | 0 => setHart s1 (hartKey mgmtCore 0) { core := mgmtCore, stage := .running, width := 4 }
  | 1 => { s1 with meshHalf := [], replays := [], eccCount := [] }
  | 2 => s1
  | 3 =>
    { s1 with
      tab := { s1.tab with tenants := State.reset.tab.tenants, cores := [], keys := [], routes := [] }
      disp := { s1.disp with slots := [] }
      eng := { s1.eng with bridles := [] }
      time := {} }
  | _ => { s1 with svc := { s1.svc with ready := true } }

/-- R473: a step of the bring-up that is still to be done. -/
def pickBoot (s : State) : Option State := if s.svc.boot < 5 then some (bootStep s) else none

/-- R473: power-on, or the next step of the bring-up. -/
def pickPowerOn (s : State) : Option State :=
  (takeInput s fun i s1 =>
    match i with
    | .powerOn => some (powerUp s1)
    | _ => none).orElse fun _ => pickBoot s

def execPowerOn (s : State) : Out := .next ((pickPowerOn s).getD s)

/-- R473: device reset; device memory keeps what it holds (log entry 1: DESIGN CHOICE). -/
def execDeviceReset (s : State) : Out :=
  .next { bringUp (match s.inputs with | (_, .deviceReset) :: t => { s with inputs := t } | _ => s) with
    mem := s.mem.filter (fun p => isDram p.1 || isOutside p.1)
    bad := s.bad.filter (fun w => isDram (8 * w)) }

end Sys2Proof.Machine
end

