-- ==== Sys2Proof/Machine/TimePmc.lean ====
section
/-! DEFINITION. `now` (R429) and the performance counters (R445-R447). -/

namespace Sys2Proof.Machine

/-- R30, R429: what `now` reads: the time unit's value, at every site (log entry 35: DESIGN CHOICE). -/
def timeValue (t : TimeUnit) (sel : Nat) : Dword :=
  match sel with
  | 0 => t.now
  | 1 => (t.now.extractLsb' 0 48) ++ t.frac
  | _ => BitVec.allOnes 64

def execNow (sd sel : BitVec 5) (s : State) : Out := finish (.ok (wrS s sd (timeValue s.time sel.toNat)))

/-- Counter `n` of the core in focus. -/
def getPmc (s : State) (n : Nat) : Pmc := mapGet {} s.pmc (8 * s.hart.core + n)

/-- R447: what a read of a counter gives; one that does not exist reads as all ones. -/
def pmcRead (s : State) (n : Nat) : Dword :=
  if 8 ≤ n then BitVec.allOnes 64 else (getPmc s n).count.zeroExtend 64

def execPmc (sd n : BitVec 5) (s : State) : Out := finish (.ok (wrS s sd (pmcRead s n.toNat)))

/-- R446: a select as it is written: a reserved event is off. -/
def pmcSelect (v : Dword) : BitVec 16 :=
  let x := v.truncate 16
  if 0x15 < x.toNat % 256 then x &&& 0xFF00 else x

/-- R447: a counter selected and cleared; `sd` takes the old select. -/
def execPmcCfg (sd : BitVec 5) (n : BitVec 3) (sb : BitVec 5) (s : State) : Out :=
  let k := 8 * s.hart.core + n.toNat
  let s1 := updH { s with pmc := mapSet {} s.pmc k { count := 0, select := pmcSelect (rdS s sb) } } fun h =>
    { h with x := { h.x with cfgd := k :: h.x.cfgd } }
  finish (.ok (wrS s1 sd ((getPmc s n.toNat).select.zeroExtend 64)))

end Sys2Proof.Machine
end

