-- ==== Sys2Proof/Machine/Dispatch.lean ====
section
/-! DEFINITION. The dispatch of every instruction to its meaning, one arm for each. -/

namespace Sys2Proof.Machine

/-- The meaning of every instruction, command and event. -/
def exec (i : Instr) (s : State) : Host.Outcome State Fault Refusal :=
  match i with
  | .nop => Sys2Proof.Machine.execNop s
  | .svc imm => Sys2Proof.Machine.execSvc imm s
  | .brk imm => Sys2Proof.Machine.execBrk imm s
  | .tret => Sys2Proof.Machine.execTret s
  | .halt => Sys2Proof.Machine.execHalt s
  | .isync => Sys2Proof.Machine.execIsync s
  | .mfc sd creg => Sys2Proof.Machine.execMfc sd creg s
  | .mtc sd sa creg => Sys2Proof.Machine.execMtc sd sa creg s
  | .setc sd sa creg => Sys2Proof.Machine.execSetc sd sa creg s
  | .clrc sd sa creg => Sys2Proof.Machine.execClrc sd sa creg s
  | .add sd sa sb => Sys2Proof.Machine.execAdd sd sa sb s
  | .sub sd sa sb => Sys2Proof.Machine.execSub sd sa sb s
  | .and sd sa sb => Sys2Proof.Machine.execAnd sd sa sb s
  | .or sd sa sb => Sys2Proof.Machine.execOr sd sa sb s
  | .xor sd sa sb => Sys2Proof.Machine.execXor sd sa sb s
  | .sll sd sa sb => Sys2Proof.Machine.execSll sd sa sb s
  | .srl sd sa sb => Sys2Proof.Machine.execSrl sd sa sb s
  | .sra sd sa sb => Sys2Proof.Machine.execSra sd sa sb s
  | .min sd sa sb => Sys2Proof.Machine.execMin sd sa sb s
  | .max sd sa sb => Sys2Proof.Machine.execMax sd sa sb s
  | .minn sd sa sb => Sys2Proof.Machine.execMinn sd sa sb s
  | .maxn sd sa sb => Sys2Proof.Machine.execMaxn sd sa sb s
  | .slt sd sa sb => Sys2Proof.Machine.execSlt sd sa sb s
  | .sltn sd sa sb => Sys2Proof.Machine.execSltn sd sa sb s
  | .addi sd sa imm => Sys2Proof.Machine.execAddi sd sa imm s
  | .andi sd sa imm => Sys2Proof.Machine.execAndi sd sa imm s
  | .ori sd sa imm => Sys2Proof.Machine.execOri sd sa imm s
  | .xori sd sa imm => Sys2Proof.Machine.execXori sd sa imm s
  | .slli sd sa sh => Sys2Proof.Machine.execSlli sd sa sh s
  | .srli sd sa sh => Sys2Proof.Machine.execSrli sd sa sh s
  | .srai sd sa sh => Sys2Proof.Machine.execSrai sd sa sh s
  | .slti sd sa imm => Sys2Proof.Machine.execSlti sd sa imm s
  | .sltin sd sa imm => Sys2Proof.Machine.execSltin sd sa imm s
  | .lui sd imm => Sys2Proof.Machine.execLui sd imm s
  | .adpc sd imm => Sys2Proof.Machine.execAdpc sd imm s
  | .sitea sd sa twin x y => Sys2Proof.Machine.execSitea sd sa twin x y s
  | .siteaRel sd sa twin x y => Sys2Proof.Machine.execSiteaRel sd sa twin x y s
  | .here sd => Sys2Proof.Machine.execHere sd s
  | .mul sd sa sb => Sys2Proof.Machine.execMul sd sa sb s
  | .mulh sd sa sb => Sys2Proof.Machine.execMulh sd sa sb s
  | .mulhn sd sa sb => Sys2Proof.Machine.execMulhn sd sa sb s
  | .div sd sa sb => Sys2Proof.Machine.execDiv sd sa sb s
  | .divn sd sa sb => Sys2Proof.Machine.execDivn sd sa sb s
  | .rem sd sa sb => Sys2Proof.Machine.execRem sd sa sb s
  | .remn sd sa sb => Sys2Proof.Machine.execRemn sd sa sb s
  | .clz sd sa => Sys2Proof.Machine.execClz sd sa s
  | .ctz sd sa => Sys2Proof.Machine.execCtz sd sa s
  | .popc sd sa => Sys2Proof.Machine.execPopc sd sa s
  | .bswap sd sa => Sys2Proof.Machine.execBswap sd sa s
  | .ext sd sa sign width => Sys2Proof.Machine.execExt sd sa sign width s
  | .beq sa sb off => Sys2Proof.Machine.execBeq sa sb off s
  | .bne sa sb off => Sys2Proof.Machine.execBne sa sb off s
  | .blt sa sb off => Sys2Proof.Machine.execBlt sa sb off s
  | .bge sa sb off => Sys2Proof.Machine.execBge sa sb off s
  | .bltn sa sb off => Sys2Proof.Machine.execBltn sa sb off s
  | .bgen sa sb off => Sys2Proof.Machine.execBgen sa sb off s
  | .j off => Sys2Proof.Machine.execJ off s
  | .call off => Sys2Proof.Machine.execCall off s
  | .jr sa => Sys2Proof.Machine.execJr sa s
  | .callr sa => Sys2Proof.Machine.execCallr sa s
  | .ret => Sys2Proof.Machine.execRet s
  | .loop sa off => Sys2Proof.Machine.execLoop sa off s
  | .lds sd sa sz sx ord off => Sys2Proof.Machine.execLds sd sa sz sx ord off s
  | .sts sd sa sz ord off => Sys2Proof.Machine.execSts sd sa sz ord off s
  | .amoAdd sd sa sb sz sem scope => Sys2Proof.Machine.execAmoAdd sd sa sb sz sem scope s
  | .amoAnd sd sa sb sz sem scope => Sys2Proof.Machine.execAmoAnd sd sa sb sz sem scope s
  | .amoOr sd sa sb sz sem scope => Sys2Proof.Machine.execAmoOr sd sa sb sz sem scope s
  | .amoXor sd sa sb sz sem scope => Sys2Proof.Machine.execAmoXor sd sa sb sz sem scope s
  | .amoMin sd sa sb sz sem scope => Sys2Proof.Machine.execAmoMin sd sa sb sz sem scope s
  | .amoMax sd sa sb sz sem scope => Sys2Proof.Machine.execAmoMax sd sa sb sz sem scope s
  | .amoMinn sd sa sb sz sem scope => Sys2Proof.Machine.execAmoMinn sd sa sb sz sem scope s
  | .amoMaxn sd sa sb sz sem scope => Sys2Proof.Machine.execAmoMaxn sd sa sb sz sem scope s
  | .amoSwap sd sa sb sz sem scope => Sys2Proof.Machine.execAmoSwap sd sa sb sz sem scope s
  | .amoCas sd sa sb sz sem scope => Sys2Proof.Machine.execAmoCas sd sa sb sz sem scope s
  | .amoFadd sd sa sb sz sem scope => Sys2Proof.Machine.execAmoFadd sd sa sb sz sem scope s
  | .fence kind scope => Sys2Proof.Machine.execFence kind scope s
  | .lsync => Sys2Proof.Machine.execLsync s
  | .vfence => Sys2Proof.Machine.execVfence s
  | .qfence => Sys2Proof.Machine.execQfence s
  | .vld vd sa x k ew => Sys2Proof.Machine.execVld vd sa x k ew s
  | .vlds vd sa sb k ew => Sys2Proof.Machine.execVlds vd sa sb k ew s
  | .vldx vd sa x k ew => Sys2Proof.Machine.execVldx vd sa x k ew s
  | .vld2d vd sa sb k ew => Sys2Proof.Machine.execVld2d vd sa sb k ew s
  | .vldw vd wn chunk k ew => Sys2Proof.Machine.execVldw vd wn chunk k ew s
  | .vldl vd sa x k ew => Sys2Proof.Machine.execVldl vd sa x k ew s
  | .vst vd sa x k ew => Sys2Proof.Machine.execVst vd sa x k ew s
  | .vsts vd sa sb k ew => Sys2Proof.Machine.execVsts vd sa sb k ew s
  | .vstx vd sa x k ew => Sys2Proof.Machine.execVstx vd sa x k ew s
  | .vst2d vd sa sb k ew => Sys2Proof.Machine.execVst2d vd sa sb k ew s
  | .vstc vd sa x k ew => Sys2Proof.Machine.execVstc vd sa x k ew s
  | .vamoAdd vd sa x k ew => Sys2Proof.Machine.execVamoAdd vd sa x k ew s
  | .vamoMin vd sa x k ew => Sys2Proof.Machine.execVamoMin vd sa x k ew s
  | .vamoMax vd sa x k ew => Sys2Proof.Machine.execVamoMax vd sa x k ew s
  | .vamoOr vd sa x k ew => Sys2Proof.Machine.execVamoOr vd sa x k ew s
  | .vamoXor vd sa x k ew => Sys2Proof.Machine.execVamoXor vd sa x k ew s
  | .setvl sd sa typ grp => Sys2Proof.Machine.execSetvl sd sa typ grp s
  | .setvli sd typ grp imm => Sys2Proof.Machine.execSetvli sd typ grp imm s
  | .settile sd sa sb => Sys2Proof.Machine.execSettile sd sa sb s
  | .spawn sd sa => Sys2Proof.Machine.execSpawn sd sa s
  | .gang sd sa sb => Sys2Proof.Machine.execGang sd sa sb s
  | .exitJob sa => Sys2Proof.Machine.execExitJob sa s
  | .yieldJob => Sys2Proof.Machine.execYieldJob s
  | .abandon sd sa => Sys2Proof.Machine.execAbandon sd sa s
  | .setdl sd sa => Sys2Proof.Machine.execSetdl sd sa s
  | .depInit sd sa sb => Sys2Proof.Machine.execDepInit sd sa sb s
  | .depAdd sd sa sb => Sys2Proof.Machine.execDepAdd sd sa sb s
  | .depDec sd sa sb => Sys2Proof.Machine.execDepDec sd sa sb s
  | .depGet sd sa => Sys2Proof.Machine.execDepGet sd sa s
  | .barInit sd sa sb => Sys2Proof.Machine.execBarInit sd sa sb s
  | .barArrive sd sa => Sys2Proof.Machine.execBarArrive sd sa s
  | .barWait sd sa sel => Sys2Proof.Machine.execBarWait sd sa sel s
  | .barWaitt sd sa sb => Sys2Proof.Machine.execBarWaitt sd sa sb s
  | .barArriveFsum sd sa sb => Sys2Proof.Machine.execBarArriveFsum sd sa sb s
  | .barArriveFsum2 sd sa sb => Sys2Proof.Machine.execBarArriveFsum2 sd sa sb s
  | .barArriveIsum sd sa sb => Sys2Proof.Machine.execBarArriveIsum sd sa sb s
  | .tktTake sd sa => Sys2Proof.Machine.execTktTake sd sa s
  | .tktWait sa sb => Sys2Proof.Machine.execTktWait sa sb s
  | .tktGive sd sa => Sys2Proof.Machine.execTktGive sd sa s
  | .tktWaitt sd sa sb => Sys2Proof.Machine.execTktWaitt sd sa sb s
  | .winCfg sd wn sb => Sys2Proof.Machine.execWinCfg sd wn sb s
  | .winPop sd wn sb => Sys2Proof.Machine.execWinPop sd wn sb s
  | .winGet sd wn sel => Sys2Proof.Machine.execWinGet sd wn sel s
  | .winArm sd wn sb => Sys2Proof.Machine.execWinArm sd wn sb s
  | .winaWait sd wn sb => Sys2Proof.Machine.execWinaWait sd wn sb s
  | .winaWaitt sd wn sb => Sys2Proof.Machine.execWinaWaitt sd wn sb s
  | .splRun sd sa => Sys2Proof.Machine.execSplRun sd sa s
  | .splPush sd sa => Sys2Proof.Machine.execSplPush sd sa s
  | .splMcast sd sa sb => Sys2Proof.Machine.execSplMcast sd sa sb s
  | .splStat sd sa => Sys2Proof.Machine.execSplStat sd sa s
  | .cpost sd sa sb => Sys2Proof.Machine.execCpost sd sa sb s
  | .cstat sd sa => Sys2Proof.Machine.execCstat sd sa s
  | .msgSend sd sa => Sys2Proof.Machine.execMsgSend sd sa s
  | .msgSendv vs sa sb => Sys2Proof.Machine.execMsgSendv vs sa sb s
  | .now sd sel => Sys2Proof.Machine.execNow sd sel s
  | .pmc sd n => Sys2Proof.Machine.execPmc sd n s
  | .pmcCfg sd n sb => Sys2Proof.Machine.execPmcCfg sd n sb s
  | .vadd vd va vb k => Sys2Proof.Machine.execVadd vd va vb k s
  | .vsub vd va vb k => Sys2Proof.Machine.execVsub vd va vb k s
  | .vmin vd va vb k => Sys2Proof.Machine.execVmin vd va vb k s
  | .vmax vd va vb k => Sys2Proof.Machine.execVmax vd va vb k s
  | .vminn vd va vb k => Sys2Proof.Machine.execVminn vd va vb k s
  | .vmaxn vd va vb k => Sys2Proof.Machine.execVmaxn vd va vb k s
  | .vabs vd va k => Sys2Proof.Machine.execVabs vd va k s
  | .vand vd va vb k => Sys2Proof.Machine.execVand vd va vb k s
  | .vor vd va vb k => Sys2Proof.Machine.execVor vd va vb k s
  | .vxor vd va vb k => Sys2Proof.Machine.execVxor vd va vb k s
  | .vsll vd va vb k => Sys2Proof.Machine.execVsll vd va vb k s
  | .vsrl vd va vb k => Sys2Proof.Machine.execVsrl vd va vb k s
  | .vsra vd va vb k => Sys2Proof.Machine.execVsra vd va vb k s
  | .vsadd vd va vb k => Sys2Proof.Machine.execVsadd vd va vb k s
  | .vssub vd va vb k => Sys2Proof.Machine.execVssub vd va vb k s
  | .vsaddn vd va vb k => Sys2Proof.Machine.execVsaddn vd va vb k s
  | .vssubn vd va vb k => Sys2Proof.Machine.execVssubn vd va vb k s
  | .vnclip vd va vb k => Sys2Proof.Machine.execVnclip vd va vb k s
  | .vwadd vd va vb k => Sys2Proof.Machine.execVwadd vd va vb k s
  | .vwmul vd va vb k => Sys2Proof.Machine.execVwmul vd va vb k s
  | .vmacc vd va vb k => Sys2Proof.Machine.execVmacc vd va vb k s
  | .vmul vd va vb k => Sys2Proof.Machine.execVmul vd va vb k s
  | .vmulh vd va vb k => Sys2Proof.Machine.execVmulh vd va vb k s
  | .vmulhn vd va vb k => Sys2Proof.Machine.execVmulhn vd va vb k s
  | .vdiv vd va vb k => Sys2Proof.Machine.execVdiv vd va vb k s
  | .vdivn vd va vb k => Sys2Proof.Machine.execVdivn vd va vb k s
  | .vrem vd va vb k => Sys2Proof.Machine.execVrem vd va vb k s
  | .vremn vd va vb k => Sys2Proof.Machine.execVremn vd va vb k s
  | .vcmp cond kd va vb k => Sys2Proof.Machine.execVcmp cond kd va vb k s
  | .vcmpn cond kd va vb k => Sys2Proof.Machine.execVcmpn cond kd va vb k s
  | .vfcmp cond kd va vb k => Sys2Proof.Machine.execVfcmp cond kd va vb k s
  | .kand kd ka kb => Sys2Proof.Machine.execKand kd ka kb s
  | .kor kd ka kb => Sys2Proof.Machine.execKor kd ka kb s
  | .kxor kd ka kb => Sys2Proof.Machine.execKxor kd ka kb s
  | .kandn kd ka kb => Sys2Proof.Machine.execKandn kd ka kb s
  | .knot kd ka => Sys2Proof.Machine.execKnot kd ka s
  | .kmov kd ka => Sys2Proof.Machine.execKmov kd ka s
  | .kpopc sd ka => Sys2Proof.Machine.execKpopc sd ka s
  | .kfirst sd ka => Sys2Proof.Machine.execKfirst sd ka s
  | .vmv vd va k => Sys2Proof.Machine.execVmv vd va k s
  | .vslideup vd va sb k => Sys2Proof.Machine.execVslideup vd va sb k s
  | .vslidedn vd va sb k => Sys2Proof.Machine.execVslidedn vd va sb k s
  | .vslide1up vd va sb k => Sys2Proof.Machine.execVslide1up vd va sb k s
  | .vslide1dn vd va sb k => Sys2Proof.Machine.execVslide1dn vd va sb k s
  | .vgather vd va vb k => Sys2Proof.Machine.execVgather vd va vb k s
  | .vcompress vd va k => Sys2Proof.Machine.execVcompress vd va k s
  | .vexpand vd va k => Sys2Proof.Machine.execVexpand vd va k s
  | .vmerge vd va vb k => Sys2Proof.Machine.execVmerge vd va vb k s
  | .vid vd k => Sys2Proof.Machine.execVid vd k s
  | .viota vd ka k => Sys2Proof.Machine.execViota vd ka k s
  | .vzip vd va vb => Sys2Proof.Machine.execVzip vd va vb s
  | .vunzip vd va => Sys2Proof.Machine.execVunzip vd va s
  | .vtrn vd va => Sys2Proof.Machine.execVtrn vd va s
  | .vbcast vd sb k => Sys2Proof.Machine.execVbcast vd sb k s
  | .vmvs sd va sb => Sys2Proof.Machine.execVmvs sd va sb s
  | .vins vd sa sb => Sys2Proof.Machine.execVins vd sa sb s
  | .vfadd vd va vb k => Sys2Proof.Machine.execVfadd vd va vb k s
  | .vfsub vd va vb k => Sys2Proof.Machine.execVfsub vd va vb k s
  | .vfmul vd va vb k => Sys2Proof.Machine.execVfmul vd va vb k s
  | .vfdiv vd va vb k => Sys2Proof.Machine.execVfdiv vd va vb k s
  | .vfsqrt vd va k => Sys2Proof.Machine.execVfsqrt vd va k s
  | .vfmin vd va vb k => Sys2Proof.Machine.execVfmin vd va vb k s
  | .vfmax vd va vb k => Sys2Proof.Machine.execVfmax vd va vb k s
  | .vfsgnj vd va vb k => Sys2Proof.Machine.execVfsgnj vd va vb k s
  | .vfmadd vd va vb k => Sys2Proof.Machine.execVfmadd vd va vb k s
  | .vfmsub vd va vb k => Sys2Proof.Machine.execVfmsub vd va vb k s
  | .vfnmadd vd va vb k => Sys2Proof.Machine.execVfnmadd vd va vb k s
  | .vfnmsub vd va vb k => Sys2Proof.Machine.execVfnmsub vd va vb k s
  | .vfwmul vd va vb k => Sys2Proof.Machine.execVfwmul vd va vb k s
  | .vfwmacc vd va vb k => Sys2Proof.Machine.execVfwmacc vd va vb k s
  | .vfabs vd va k => Sys2Proof.Machine.execVfabs vd va k s
  | .vfneg vd va k => Sys2Proof.Machine.execVfneg vd va k s
  | .vfclass vd va k => Sys2Proof.Machine.execVfclass vd va k s
  | .vfrec vd va k => Sys2Proof.Machine.execVfrec vd va k s
  | .vfrsqrt vd va k => Sys2Proof.Machine.execVfrsqrt vd va k s
  | .vfcvt vd va dt k => Sys2Proof.Machine.execVfcvt vd va dt k s
  | .vfcvtRtz vd va dt k => Sys2Proof.Machine.execVfcvtRtz vd va dt k s
  | .vfsin vd va k => Sys2Proof.Machine.execVfsin vd va k s
  | .vfcos vd va k => Sys2Proof.Machine.execVfcos vd va k s
  | .vfsint vd va k => Sys2Proof.Machine.execVfsint vd va k s
  | .vfcost vd va k => Sys2Proof.Machine.execVfcost vd va k s
  | .vfexp2 vd va k => Sys2Proof.Machine.execVfexp2 vd va k s
  | .vflog2 vd va k => Sys2Proof.Machine.execVflog2 vd va k s
  | .vfatan2 vd va vb k => Sys2Proof.Machine.execVfatan2 vd va vb k s
  | .vftanh vd va k => Sys2Proof.Machine.execVftanh vd va k s
  | .vcmul vd va vb k => Sys2Proof.Machine.execVcmul vd va vb k s
  | .vcmac vd va vb k => Sys2Proof.Machine.execVcmac vd va vb k s
  | .vcmacj vd va vb k => Sys2Proof.Machine.execVcmacj vd va vb k s
  | .vcconj vd va k => Sys2Proof.Machine.execVcconj vd va k s
  | .vcabs2 vd va k => Sys2Proof.Machine.execVcabs2 vd va k s
  | .vcrot vd va vb k => Sys2Proof.Machine.execVcrot vd va vb k s
  | .vbfly vd va vb k => Sys2Proof.Machine.execVbfly vd va vb k s
  | .vbfly4 vd va vb k => Sys2Proof.Machine.execVbfly4 vd va vb k s
  | .vtgj vd va sb k => Sys2Proof.Machine.execVtgj vd va sb k s
  | .vtchol vd va sb k => Sys2Proof.Machine.execVtchol vd va sb k s
  | .vtmul vd va vb k => Sys2Proof.Machine.execVtmul vd va vb k s
  | .vtherm vd va k => Sys2Proof.Machine.execVtherm vd va k s
  | .vredsum sd va sb k => Sys2Proof.Machine.execVredsum sd va sb k s
  | .vredmin sd va sb k => Sys2Proof.Machine.execVredmin sd va sb k s
  | .vredmax sd va sb k => Sys2Proof.Machine.execVredmax sd va sb k s
  | .vfredsum sd va sb k => Sys2Proof.Machine.execVfredsum sd va sb k s
  | .vfredmin sd va sb k => Sys2Proof.Machine.execVfredmin sd va sb k s
  | .vfredmax sd va sb k => Sys2Proof.Machine.execVfredmax sd va sb k s
  | .vcredsum sd va sb k => Sys2Proof.Machine.execVcredsum sd va sb k s
  | .vredsumw sd va sb k => Sys2Proof.Machine.execVredsumw sd va sb k s
  | .fadd sd sa sb pr => Sys2Proof.Machine.execFadd sd sa sb pr s
  | .fsub sd sa sb pr => Sys2Proof.Machine.execFsub sd sa sb pr s
  | .fmul sd sa sb pr => Sys2Proof.Machine.execFmul sd sa sb pr s
  | .fdiv sd sa sb pr => Sys2Proof.Machine.execFdiv sd sa sb pr s
  | .fsqrt sd sa pr => Sys2Proof.Machine.execFsqrt sd sa pr s
  | .fmadd sd sa sb sc pr => Sys2Proof.Machine.execFmadd sd sa sb sc pr s
  | .fmin sd sa sb pr => Sys2Proof.Machine.execFmin sd sa sb pr s
  | .fmax sd sa sb pr => Sys2Proof.Machine.execFmax sd sa sb pr s
  | .fcmp sd sa sb cond pr => Sys2Proof.Machine.execFcmp sd sa sb cond pr s
  | .fcvt sd sa st dt => Sys2Proof.Machine.execFcvt sd sa st dt s
  | .fclass sd sa pr => Sys2Proof.Machine.execFclass sd sa pr s
  | .fmv sd sa pr => Sys2Proof.Machine.execFmv sd sa pr s
  | .menter => Sys2Proof.Machine.execMenter s
  | .mexit => Sys2Proof.Machine.execMexit s
  | .mzero => Sys2Proof.Machine.execMzero s
  | .mop wa wb ws fmt ks => Sys2Proof.Machine.execMop wa wb ws fmt ks s
  | .mopv va vb fmt ks => Sys2Proof.Machine.execMopv va vb fmt ks s
  | .mld sa sb fmt => Sys2Proof.Machine.execMld sa sb fmt s
  | .mst sa sb fmt => Sys2Proof.Machine.execMst sa sb fmt s
  | .mcvt sa fmt => Sys2Proof.Machine.execMcvt sa fmt s
  | .powerOn => Sys2Proof.Machine.execPowerOn s
  | .deviceReset => Sys2Proof.Machine.execDeviceReset s
  | .convoyBegin => Sys2Proof.Machine.execConvoyBegin s
  | .vectorRetire => Sys2Proof.Machine.execVectorRetire s
  | .resynchronisingAccess => Sys2Proof.Machine.execResynchronisingAccess s
  | .mopBegin => Sys2Proof.Machine.execMopBegin s
  | .mopRetire => Sys2Proof.Machine.execMopRetire s
  | .vldwGroup => Sys2Proof.Machine.execVldwGroup s
  | .storeRefusal => Sys2Proof.Machine.execStoreRefusal s
  | .ringGuard => Sys2Proof.Machine.execRingGuard s
  | .impreciseTrap => Sys2Proof.Machine.execImpreciseTrap s
  | .resume => Sys2Proof.Machine.execResume s
  | .jobBind => Sys2Proof.Machine.execJobBind s
  | .preemption => Sys2Proof.Machine.execPreemption s
  | .expiry => Sys2Proof.Machine.execExpiry s
  | .treeDeadline => Sys2Proof.Machine.execTreeDeadline s
  | .slotCreation => Sys2Proof.Machine.execSlotCreation s
  | .reclaimAtTimer => Sys2Proof.Machine.execReclaimAtTimer s
  | .graceEnd => Sys2Proof.Machine.execGraceEnd s
  | .timedWaitLimit => Sys2Proof.Machine.execTimedWaitLimit s
  | .waitConditionMet => Sys2Proof.Machine.execWaitConditionMet s
  | .atTimer => Sys2Proof.Machine.execAtTimer s
  | .fhoutLaunch => Sys2Proof.Machine.execFhoutLaunch s
  | .reclaimDrainTimeout => Sys2Proof.Machine.execReclaimDrainTimeout s
  | .fencing => Sys2Proof.Machine.execFencing s
  | .uncorrectableError => Sys2Proof.Machine.execUncorrectableError s
  | .dispatcherPlacement => Sys2Proof.Machine.execDispatcherPlacement s
  | .stealRequest => Sys2Proof.Machine.execStealRequest s
  | .stealGrant => Sys2Proof.Machine.execStealGrant s
  | .setdlRequest => Sys2Proof.Machine.execSetdlRequest s
  | .gangReservation => Sys2Proof.Machine.execGangReservation s
  | .gangStart => Sys2Proof.Machine.execGangStart s
  | .lendComplete => Sys2Proof.Machine.execLendComplete s
  | .savedGroupRestore => Sys2Proof.Machine.execSavedGroupRestore s
  | .vamoArrival => Sys2Proof.Machine.execVamoArrival s
  | .combiningTimeout => Sys2Proof.Machine.execCombiningTimeout s
  | .pageWalk => Sys2Proof.Machine.execPageWalk s
  | .atsCompletion => Sys2Proof.Machine.execAtsCompletion s
  | .prgResponse => Sys2Proof.Machine.execPrgResponse s
  | .invalidateRequest => Sys2Proof.Machine.execInvalidateRequest s
  | .invalidateCompletion => Sys2Proof.Machine.execInvalidateCompletion s
  | .listStart => Sys2Proof.Machine.execListStart s
  | .spoolChunk => Sys2Proof.Machine.execSpoolChunk s
  | .chunkArrival => Sys2Proof.Machine.execChunkArrival s
  | .src => Sys2Proof.Machine.execSrc s
  | .dst => Sys2Proof.Machine.execDst s
  | .push => Sys2Proof.Machine.execPush s
  | .mcast => Sys2Proof.Machine.execMcast s
  | .gather => Sys2Proof.Machine.execGather s
  | .cvt => Sys2Proof.Machine.execCvt s
  | .clistLoop => Sys2Proof.Machine.execClistLoop s
  | .waitd => Sys2Proof.Machine.execWaitd s
  | .atTime => Sys2Proof.Machine.execAtTime s
  | .notifyDec => Sys2Proof.Machine.execNotifyDec s
  | .notifyPost => Sys2Proof.Machine.execNotifyPost s
  | .recRecord => Sys2Proof.Machine.execRecRecord s
  | .endList => Sys2Proof.Machine.execEndList s
  | .codingCommandStart => Sys2Proof.Machine.execCodingCommandStart s
  | .codingCommandEnd => Sys2Proof.Machine.execCodingCommandEnd s
  | .messageAppend => Sys2Proof.Machine.execMessageAppend s
  | .msgSendvRetry => Sys2Proof.Machine.execMsgSendvRetry s
  | .ingressFrame => Sys2Proof.Machine.execIngressFrame s
  | .ptpFrame => Sys2Proof.Machine.execPtpFrame s
  | .esmcMessage => Sys2Proof.Machine.execEsmcMessage s
  | .timeStep => Sys2Proof.Machine.execTimeStep s
  | .lockStateChange => Sys2Proof.Machine.execLockStateChange s
  | .flitReplay => Sys2Proof.Machine.execFlitReplay s
  | .linkRetrain => Sys2Proof.Machine.execLinkRetrain s
  | .tetherDown => Sys2Proof.Machine.execTetherDown s
  | .barrierArrival => Sys2Proof.Machine.execBarrierArrival s
  | .ticketPoll => Sys2Proof.Machine.execTicketPoll s
  | .launchDoorbell => Sys2Proof.Machine.execLaunchDoorbell s
  | .commandDoorbell => Sys2Proof.Machine.execCommandDoorbell s
  | .telemetryClaim => Sys2Proof.Machine.execTelemetryClaim s
  | .powerLimitRegisterWrite => Sys2Proof.Machine.execPowerLimitRegisterWrite s
  | .portModeWrite => Sys2Proof.Machine.execPortModeWrite s
  | .windowDescriptorStore => Sys2Proof.Machine.execWindowDescriptorStore s
  | .registerWrite => Sys2Proof.Machine.execRegisterWrite s
  | .queueCreate => Sys2Proof.Machine.execQueueCreate s
  | .queueDestroy => Sys2Proof.Machine.execQueueDestroy s
  | .tenantCreate => Sys2Proof.Machine.execTenantCreate s
  | .tenantDestroy => Sys2Proof.Machine.execTenantDestroy s
  | .ptAttach => Sys2Proof.Machine.execPtAttach s
  | .lend => Sys2Proof.Machine.execLend s
  | .reclaim => Sys2Proof.Machine.execReclaim s
  | .reclaimAt => Sys2Proof.Machine.execReclaimAt s
  | .slotSet => Sys2Proof.Machine.execSlotSet s
  | .bridleSet => Sys2Proof.Machine.execBridleSet s
  | .launch => Sys2Proof.Machine.execLaunch s
  | .gangLaunch => Sys2Proof.Machine.execGangLaunch s
  | .copy => Sys2Proof.Machine.execCopy s
  | .signal => Sys2Proof.Machine.execSignal s
  | .codingCfg => Sys2Proof.Machine.execCodingCfg s
  | .telemetry => Sys2Proof.Machine.execTelemetry s
  | .attest => Sys2Proof.Machine.execAttest s
  | .partReset => Sys2Proof.Machine.execPartReset s
  | .debugSession => Sys2Proof.Machine.execDebugSession s
  | .debugHalt => Sys2Proof.Machine.execDebugHalt s
  | .debugRead => Sys2Proof.Machine.execDebugRead s
  | .debugResume => Sys2Proof.Machine.execDebugResume s
  | .keySet => Sys2Proof.Machine.execKeySet s
  | .alloc => Sys2Proof.Machine.execAlloc s
  | .fenceCmd => Sys2Proof.Machine.execFenceCmd s
  | .powerLimit => Sys2Proof.Machine.execPowerLimit s
  | .queryResult => Sys2Proof.Machine.execQueryResult s
  | .serviceTrap => Sys2Proof.Machine.execServiceTrap s
  | .svcNone => Sys2Proof.Machine.execSvcNone s
  | .svcNotice => Sys2Proof.Machine.execSvcNotice s
  | .svcTelemetry => Sys2Proof.Machine.execSvcTelemetry s
  | .svcTimeLock => Sys2Proof.Machine.execSvcTimeLock s
  | .deferredCompletion => Sys2Proof.Machine.execDeferredCompletion s
  | .firmwareTimer => Sys2Proof.Machine.execFirmwareTimer s
  | .watchdogExpiry => Sys2Proof.Machine.execWatchdogExpiry s
  | .serviceRestart => Sys2Proof.Machine.execServiceRestart s
  | .ballastTurn => Sys2Proof.Machine.execBallastTurn s
  | .mgmtCoreReset => Sys2Proof.Machine.execMgmtCoreReset s
  | .tripHoldBegin => Sys2Proof.Machine.execTripHoldBegin s
  | .tripHoldEnd => Sys2Proof.Machine.execTripHoldEnd s
  | .powerStep => Sys2Proof.Machine.execPowerStep s
  | .tetherUp => Sys2Proof.Machine.execTetherUp s
  | .priReenable => Sys2Proof.Machine.execPriReenable s
  | .unplacedSlotSkip => Sys2Proof.Machine.execUnplacedSlotSkip s

end Sys2Proof.Machine
end

