-- ==== Sys2Proof/Machine/Issue.lean ====
section
/-! DEFINITION. One issue unit of the hart in focus: fetch, the checks of the bundle, lone and paired
units (R36-R43, R63-R65, R467, R505), and a program's first word put where the next step fetches. -/

namespace Sys2Proof.Machine

/-! ### One word -/

/-- R467: the majors of which the management core executes every instruction. -/
def mgmtMajor (w : BitVec 32) : Bool :=
  let m := (fld w 24 6).toNat
  (2 ≤ m && m ≤ 0x11) || m == 0x32 || m == 0x33

/-- R467: what else the management core executes. -/
def mgmtRuns (i : Instr) : Bool :=
  match i with
  | .nop | .isync | .fence .. | .lsync | .now .. => true
  | _ => false

/-- Check 2 of R63 as far as the unit and the hart decide it: an instruction that must stand alone in
a paired bundle, or one the management core does not have. -/
def barred (s : State) (w : BitVec 32) (i : Instr) : Bool :=
  (s.hart.x.paired && i.standsAlone) || (s.hart.core == mgmtCore && !mgmtMajor w && !mgmtRuns i)

/-- The instruction decoded from a word of the unit executes. -/
def runInstr (w : BitVec 32) (i : Instr) (s : State) : Out :=
  if barred s w i then finish (illegal 2 s) else exec i s

/-- A word of the unit: decoded and executed. -/
noncomputable def runWord (w : BitVec 32) (s : State) : Out :=
  match decodeWord w with
  | .ok i => runInstr w i s
  | .error _ => finish (illegal 2 s)

/-- R505: the scalar destination a word names; 0 where it names none. -/
noncomputable def wordDest (w : BitVec 32) : BitVec 5 :=
  match decodeWord w with
  | .ok i => i.scalarDest
  | .error _ => 0

/-! Compiled code for the two (see `decodeWord`). -/

/-- The five instructions that compiled code cannot build, each given to its own continuation. -/
def farWord {α : Type} (w : BitVec 32) (bad : α) (adpc : BitVec 5 → BitVec 19 → α)
    (fcmp : BitVec 5 → BitVec 5 → BitVec 5 → BitVec 5 → BitVec 1 → α)
    (fcvt : BitVec 5 → BitVec 5 → BitVec 5 → BitVec 5 → α)
    (fclass fmv : BitVec 5 → BitVec 5 → BitVec 1 → α) : α :=
  if (fld w 24 6).toNat = 0x08 then adpc (fld w 19 5) (fld w 0 19)
  else
    match (fld w 0 3).toNat with
    | 0 => if (fld w 4 5).toNat ≤ 7 then fcmp (fld w 19 5) (fld w 14 5) (fld w 9 5) (fld w 4 5) (fld w 3 1) else bad
    | 1 =>
      if fld w 3 1 == 0 && fcvtCode (fld w 9 5) && fcvtCode (fld w 4 5) then
        fcvt (fld w 19 5) (fld w 14 5) (fld w 9 5) (fld w 4 5)
      else bad
    | 2 => if fld w 4 10 == 0 then fclass (fld w 19 5) (fld w 14 5) (fld w 3 1) else bad
    | 3 => if fld w 4 10 == 0 then fmv (fld w 19 5) (fld w 14 5) (fld w 3 1) else bad
    | _ => bad

/-- `runWord` for the compiler; the five run on every core, in either kind of unit. -/
def runWordC (w : BitVec 32) (s : State) : Out :=
  if (fld w 24 6).toNat = 0x08 || (fld w 24 6).toNat = 0x33 then
    farWord w (finish (illegal 2 s)) (fun sd i => execAdpc sd i s) (fun a b c d e => execFcmp a b c d e s)
      (fun a b c d => execFcvt a b c d s) (fun a b c => execFclass a b c s) (fun a b c => execFmv a b c s)
  else
    match decodeLow w with
    | .ok i => runInstr w i s
    | .error _ => finish (illegal 2 s)

/-- `wordDest` for the compiler. -/
def wordDestC (w : BitVec 32) : BitVec 5 :=
  if (fld w 24 6).toNat = 0x08 || (fld w 24 6).toNat = 0x33 then
    farWord w 0 (fun sd _ => sd) (fun sd _ _ _ _ => sd) (fun sd _ _ _ => sd) (fun sd _ _ => sd) (fun sd _ _ => sd)
  else
    match decodeLow w with
    | .ok i => i.scalarDest
    | .error _ => 0

/-- `farWord` takes a word of major 0x33 apart as the decoder does. -/
theorem farWord_fp {α : Type} (w : BitVec 32) (h : (fld w 24 6).toNat ≠ 0x08) (bad : α)
    (p : BitVec 5 → BitVec 19 → α) (f : Instr → α) :
    (match decFpMisc w with
      | .ok i => f i
      | .error _ => bad) =
      farWord w bad p (fun a b c d e => f (.fcmp a b c d e)) (fun a b c d => f (.fcvt a b c d))
        (fun a b c => f (.fclass a b c)) (fun a b c => f (.fmv a b c)) := by
  unfold decFpMisc farWord
  rw [if_neg h]
  generalize (fld w 0 3).toNat = n
  match n with
  | 0 => simp only [accept, Instr.wf, decide_eq_true_eq]; split_ifs <;> rfl
  | 1 =>
    cases h3 : (fld w 3 1 == 0)
    · simp only [Bool.false_and, Bool.false_eq_true, if_false]
    · simp only [accept, Instr.wf, Bool.true_and, if_true]
      rcases Bool.eq_false_or_eq_true (fcvtCode (fld w 9 5) && fcvtCode (fld w 4 5)) with hc | hc
      · rw [if_pos hc]; simp only [hc, if_true]
      · simp only [hc, Bool.false_eq_true, if_false]
  | 2 => simp only [accept, Instr.wf, if_true]; split_ifs <;> rfl
  | 3 => simp only [accept, Instr.wf, if_true]; split_ifs <;> rfl
  | _ + 4 => rfl

/-- The five instructions are barred nowhere. -/
theorem runInstr_far (w : BitVec 32) (i : Instr) (s : State) (hm : mgmtMajor w = true) (hi : i.standsAlone = false) :
    runInstr w i s = exec i s := by
  have : barred s w i = false := by simp [barred, hm, hi]
  rw [runInstr, this]; rfl

/-- The compiled code does what the definition says. -/
@[csimp] theorem runWord_eq : @runWord = @runWordC := by
  funext w s
  by_cases h8 : (fld w 24 6).toNat = 0x08
  · have e : runWord w s = runInstr w (.adpc (fld w 19 5) (fld w 0 19)) s := by
      simp only [runWord, decodeWord, h8, if_true, decAdpc, accept]; rfl
    rw [e, runInstr_far w _ s (by simp [mgmtMajor, h8]) rfl]
    simp only [runWordC, farWord, h8]; rfl
  · by_cases h33 : (fld w 24 6).toNat = 0x33
    · have hm : mgmtMajor w = true := by simp [mgmtMajor, h33]
      have e := farWord_fp w h8 (finish (illegal 2 s)) (fun sd i => execAdpc sd i s) (fun i => runInstr w i s)
      simp only [runInstr_far w (.fcmp _ _ _ _ _) s hm rfl, runInstr_far w (.fcvt _ _ _ _) s hm rfl,
        runInstr_far w (.fclass _ _ _) s hm rfl, runInstr_far w (.fmv _ _ _) s hm rfl] at e
      simp only [runWord, decodeWord, h33, runWordC]
      exact e
    · simp only [runWord, decodeWord, h8, h33, if_false, runWordC, decide_false, Bool.or_self]
      rfl

/-- The compiled code does what the definition says. -/
@[csimp] theorem wordDest_eq : @wordDest = @wordDestC := by
  funext w
  by_cases h8 : (fld w 24 6).toNat = 0x08
  · have e : wordDest w = fld w 19 5 := by
      simp only [wordDest, decodeWord, h8, if_true, decAdpc, accept]; rfl
    rw [e]
    simp only [wordDestC, farWord, h8]; rfl
  · by_cases h33 : (fld w 24 6).toNat = 0x33
    · have e := farWord_fp w h8 (0 : BitVec 5) (fun sd _ => sd) Instr.scalarDest
      simp only [wordDest, decodeWord, h33, wordDestC]
      exact e
    · simp only [wordDest, decodeWord, h8, h33, if_false, wordDestC, decide_false, Bool.or_self]
      rfl

/-! ### Units (R38-R43) -/

/-- R43: a unit continues the convoy. -/
def unitJoins (s : State) (w : BitVec 32) : Bool := wordK w && !s.hart.convoy.fresh

/-- The hart stands at a unit: what the unit sees of itself, and the convoy it continues or begins. -/
def standAt (s : State) (c : Ctx) : State :=
  updH s fun h => { h with
    x := c
    block := .none
    -- a ticket wait that had to ask for its page again is the wait it was (R443)
    blockedBy := if h.block = .walk then h.blockedBy else none
    convoy := if c.joins then h.convoy else { fresh := false } }

/-- R39: a lone instruction. -/
def issueLone (s : State) (a : BitVec 48) (w : BitVec 32) : Out :=
  runWord w (standAt s { iaddr := a, iword := w, joins := unitJoins s w })

/-- What both words of a paired bundle see: registers as they stood before it (R38). -/
def pairCtx (s : State) (a : BitVec 48) (w : BitVec 32) (hold joins : Bool) : Ctx :=
  { iaddr := a, iword := w, paired := true, hold := hold, joins := joins, half := !hold && drained s
    snapS := some s.hart.s, snapLen := s.hart.len, snapFcsr := s.hart.fcsr }

/-- The unit goes on with word 1, a transfer of word 0 kept (R41). -/
def atWord1 (s : State) (c : Ctx) : State := updH s fun h => { h with x := { c with npc := h.x.npc } }

/-- The word neither trapped nor has to wait. -/
def wentWell (t : State) : Bool := t.hart.x.trap.isNone && !t.hart.x.stalled

/-- R42: the unit traps by its word 1, so that its word 0 has no effect; flags that word 1 merged
stay (R94). -/
def trapWord1 (s0 : State) (t : Trap) (a : BitVec 48) (flags : Dword) : State :=
  let s1 := dropWalks s0 s0.hart.key
  deliver (if t.cause = 0x20 then updH s1 fun h => { h with fcsr := flags } else s1) t a false 63

/-- The unit waits with no effect of either word, for what word 1 waits for. -/
def stallWord1 (s0 t1 : State) : State :=
  updH s0 fun h => { h with
    x := { h.x with hold := false, stalled := true }
    block := t1.hart.block
    blockedBy := t1.hart.blockedBy }

/-- R42: what a paired bundle at `a` leaves: from the state before it, what its words left, and the
`fcsr` word 1 leaves by itself. -/
def settlePair (s0 t0 t1 : State) (a : BitVec 48) (flags : Dword) : State :=
  let stall0 : State := updH t0 fun h => { h with x := { h.x with hold := false } }
  match t0.hart.x.trap, t1.hart.x.trap with
  | some p, some q => if t1.hart.x.check < t0.hart.x.check then trapWord1 s0 q a flags else deliver t0 p a false 63
  | some p, none => deliver t0 p a false 63
  | none, some q => if t0.hart.x.stalled && t1.hart.x.check = 6 then stall0 else trapWord1 s0 q a flags
  | none, none => if t0.hart.x.stalled then stall0 else if t1.hart.x.stalled then stallWord1 s0 t1 else t1

/-- What an outcome leaves, if it is a next state. -/
def thenNext (o : Out) (f : State → Out) : Out :=
  match o with
  | .next t => f t
  | o => o

/-- R38: a paired bundle. -/
def issuePair (s : State) (a : BitVec 48) (w0 w1 : BitVec 32) : Out :=
  let j := unitJoins s w0
  let s0 := standAt s (pairCtx s a w0 true j)
  let c1 := pairCtx s a w1 false j
  thenNext (runWord w0 s0) fun t0 =>
    thenNext (runWord w1 (atWord1 (if wentWell t0 then t0 else s0) c1)) fun t1 =>
      thenNext (runWord w1 (atWord1 s0 c1)) fun alone => .next (settlePair s0 t0 t1 a alone.hart.fcsr)

/-- Check 1 of R63. -/
def bundleBad (w0 w1 : BitVec 32) : Bool :=
  w1.getLsbD 31 ||
    (wordP w0 && (!wordIsC w0 || wordIsC w1 || wordK w1 || (wordDest w0 != 0 && wordDest w0 == wordDest w1)))

/-- R36, R39, R40: the unit at an instruction address of a fetched bundle. -/
def issueUnit (s : State) (a : BitVec 48) (b : Dword) : Out :=
  let w0 := b.extractLsb' 0 32
  let w1 := b.extractLsb' 32 32
  if bundleBad w0 w1 then .next (deliver (standAt s { iaddr := a }) ⟨0x01, b⟩ (a &&& ~~~(7 : BitVec 48)) false 63)
  else if a.getLsbD 2 then issueLone s a w1
  else if wordP w0 then issuePair s a w0 w1
  else issueLone s a w0

/-- R108: the hart in focus issues the unit at its pc; a page that cannot be fetched traps there. -/
def issue (s : State) : Out :=
  let a := s.hart.pc
  match fetchBundle s (a &&& ~~~(7 : BitVec 48)) with
  | .ok b s1 => issueUnit s1 a b
  | .fault t s1 => .next (deliver (standAt s1 { iaddr := a }) ⟨t.cause, a.zeroExtend 64⟩ a false 63)
  | .refuse t s1 => .next (deliver (standAt s1 { iaddr := a }) ⟨t.cause, a.zeroExtend 64⟩ a false 63)
  | .guard t s1 => .next (deliver (standAt s1 { iaddr := a }) ⟨t.cause, a.zeroExtend 64⟩ a false 63)
  | .wait s1 => .next (updH s1 fun h => { h with block := .walk })

/-- The hart has a walk or an ATS request under way. -/
def walking (s : State) : Bool :=
  s.tab.walks.any (fun r => r.hart == s.hart.key) || s.tab.ats.any (fun q => q.joined.any (fun r => r.hart == s.hart.key))

/-- A `mop` that has begun stands at the head of the hart's queue: it retires before the hart issues again,
so that no trap of a later unit finds it under way (R240, R312; log entry 3: DESIGN CHOICE). -/
def midMop (h : Hart) : Bool := h.queue.head?.any (fun e => isMop e.instr && e.begun && e.live)

/-- R26: the hart in focus can issue.  A resynchronising access and a wait are ended by their own
events (R115, R433); one that stands in a queue is waited for. -/
def canIssue (s : State) : Bool :=
  s.hart.stage == .running && !midMop s.hart && !s.hart.queuedResync && s.hart.pend.isEmpty && !s.hart.debugHeld && !s.fenceReq.contains s.hart.core &&
    (match s.hart.block with
     | .none => true
     | .queue => true
     | .order => true
     | .wait => false
     | .resync => !s.hart.blockedBy.any Instr.resync
     | .walk => !walking s)

/-! ### A program's first word -/

/-- The leaf of a page of this device that may be fetched: valid, executable, accessed, a leaf. -/
def fetchLeaf (frame : Nat) : Dword := BitVec.ofNat 64 (frame * 4096 + 0x59)

/-- The translation that a fetch of the hart in focus at `va` uses; one of the same page of device
memory is put into its core's TLB where there is none. -/
def fetchEntry (s : State) (va : Nat) : TlbEntry × State :=
  let T := s.hart.job.tenant
  match tlbFind (mapGet [] s.tab.coreTlb s.hart.core) T va .fetch with
  | some e => (e, s)
  | none =>
    let e : TlbEntry :=
      { tenant := T, va := va / 4096 * 4096, size := 4096, leaf := fetchLeaf (va % dramSize / 4096), wr := false }
    (e, fillCore s s.hart.core e)

/-- A bundle stored at a location under a key, and no longer held by an instruction cache. -/
def storeBundle (s : State) (tag l : Nat) (b : List Byte) : State :=
  { pokeLoc s tag l b with
    icache := s.icache.map (fun p => (p.1, p.2.filter (fun x => x.line != l / 128)))
    bad := s.bad.filter (fun w => w != l / 8) }

/-- The hart in focus holds a job and can issue. -/
def readyHart (h : Hart) : Hart :=
  { h with
    stage := .running
    width := if h.width = 0 then 4 else h.width
    block := .none
    blockedBy := none
    pend := []
    debugHeld := false }

/-- A bundle put where the hart in focus fetches next, so that the next step issues it (log entry 14: DESIGN CHOICE). -/
def placeBundle (s : State) (b : List Byte) : State :=
  let va := (s.hart.pc &&& ~~~(7 : BitVec 48)).toNat
  let s0 := { updH s readyHart with turn := .hart, fenceReq := s.fenceReq.filter (fun c => c != s.hart.core) }
  if s.hart.core = mgmtCore then storeBundle s0 0 (romLoc va) b
  else
    let r := fetchEntry s0 va
    storeBundle r.2 (r.1.place r.2 va).2 (r.1.place r.2 va).1 b

/-- The bundle of one word at an instruction address, the other word a `nop`. -/
def loneBundle (a : BitVec 48) (w : BitVec 32) : List Byte :=
  if a.getLsbD 2 then wordBytes 0 ++ wordBytes w else wordBytes w ++ wordBytes 0

end Sys2Proof.Machine
end

