-- ==== Sys2Proof/Machine/Device.lean ====
section
/-! DEFINITION. What happens outside the issue of instructions: which input is taken and which event
happens next, and how device time goes on (log entries 2, 3: DESIGN CHOICE). -/

namespace Sys2Proof.Machine

/-! ### Inputs -/

/-- The row of the table that a store from outside is. -/
def storeEventRow (s : State) (a : Dword) : Instr :=
  match storeTarget s a with
  | some (t, _) =>
    match kindOf t with
    | .launchBell => .launchDoorbell
    | .powerLimit => .powerLimitRegisterWrite
    | .portMode => .portModeWrite
    | .descriptor => .windowDescriptorStore
    | .other => .registerWrite
  | none => .registerWrite

/-- The row of the table that an input is. -/
def inputRow (s : State) (i : Input) : Instr :=
  match i with
  | .powerOn => .powerOn
  | .deviceReset => .deviceReset
  | .error _ | .coreError _ | .lineError .. | .stackError .. | .sramError | .corrected _ => .uncorrectableError
  | .atsCompletion .. => .atsCompletion
  | .prgResponse .. => .prgResponse
  | .invalidate .. => .invalidateRequest
  | .frame _ => .ingressFrame
  | .ptp .. => .ptpFrame
  | .twinList .. => .listStart
  | .esmc .. => .esmcMessage
  | .timeStep _ => .timeStep
  | .lock _ => .lockStateChange
  | .flitReplay _ => .flitReplay
  | .linkRetrain .. => .linkRetrain
  | .tetherDown => .tetherDown
  | .tetherUp => .tetherUp
  | .bar0 _ off _ => if off = 0x018 then .commandDoorbell else .registerWrite
  | .bar2 .. => .launchDoorbell
  | .hostStore .. | .twinStore .. | .temperature .. | .priAllocation _ | .selectPort _ => .registerWrite
  | .twinPush .. => .chunkArrival
  | .twinMessage .. => .messageAppend
  | .claim => .telemetryClaim
  | .firmwareTimer => .firmwareTimer
  | .hang _ => .watchdogExpiry
  | .serviceRestart => .serviceRestart
  | .power _ => .powerStep
  | .priReenable => .priReenable
  | .fence _ => .fencing
  | .drainTimeout _ => .reclaimDrainTimeout
  | .store a _ => storeEventRow s a

/-- The device takes the input now; only an Invalidate Request can find no room (R410, R477). -/
def takesInput (s : State) (i : Input) : Bool :=
  match i with
  | .invalidate .. => hostInvals s < 32
  | _ => true

/-- The input that is there and that the device takes, if one is. -/
def dueInput (s : State) : Option Input :=
  match s.inputs with
  | (t, i) :: _ => if t ≤ s.nowNs && takesInput s i then some i else none
  | [] => none

/-! ### Events -/

/-- A row of the table, when its event can happen. -/
def row (i : Instr) (p : State → Option State) (s : State) : Option Instr := if (p s).isSome then some i else none

/-- A row whose event can happen when something is there. -/
def rowIf (i : Instr) (p : State → Bool) (s : State) : Option Instr := if p s then some i else none

/-- R452, R455: the row of the command in hand; while the service cores restart, one of ballast's. -/
def cmdRow (s : State) : Option Instr :=
  match s.svc.cmds with
  | [] => none
  | h :: _ =>
    if s.svc.restarting && !ballastOp h.cmd.op then none
    else
      [Instr.queueCreate, .queueDestroy, .tenantCreate, .tenantDestroy, .ptAttach, .lend, .reclaim, .reclaimAt,
        .slotSet, .bridleSet, .launch, .gangLaunch, .copy, .signal, .codingCfg, .telemetry, .attest, .partReset,
        .debugSession, .debugHalt, .debugRead, .debugResume, .keySet, .alloc, .fenceCmd, .powerLimit,
        .queryResult][h.cmd.op - 1]?

/-- The row of the oldest trap at the service complex (R464, R465). -/
def trapRow (s : State) : Option Instr :=
  if (pickTrap s (fun c v => !isService c v) trapAct).isSome then some .serviceTrap
  else if (pickTrap s (isSvc 0) fun s _ => s).isSome then some .svcNone
  else if (pickTrap s (isSvc 1) fun s _ => s).isSome then some .svcNotice
  else if (pickTrap s (isSvc 2) fun s _ => s).isSome then some .svcTelemetry
  else if (pickTrap s (isSvc 3) fun s _ => s).isSome then some .svcTimeLock
  else none

/-- What goes before everything else, in order: fencing, timers, and what stops a hart (R310, R430).
A `mop` that has begun runs out before its hart is cut (R240). -/
def urgentRows : List (State → Option Instr) :=
  [row .powerOn pickBoot, row .watchdogExpiry pickOverdue, row .serviceRestart pickRestart, row .fencing pickFence, row .treeDeadline pickTreeDeadline, row .slotCreation pickSlot,
   row .unplacedSlotSkip pickUnplaced, row .reclaimAtTimer pickReclaimAt, row .graceEnd pickGraceEnd,
   row .atTimer pickAtTimer, row .timedWaitLimit pickWaitLimit, row .fhoutLaunch pickLaunch, row .storeRefusal (fun s => pickPosted s false), row .ringGuard (fun s => pickPosted s true),
   row .mopRetire pickMopRetire, row .impreciseTrap pickImprecise, row .expiry pickExpiry,
   rowIf .reclaim (fun s => !s.svc.cmds.head?.any (fun h => h.cmd.op == 7) && (pickReclaim s).isSome),
   row .preemption pickPreempt, row .lendComplete pickLend]

/-- R161, R226, R277: the queues of the harts. -/
def queueRows : List (State → Option Instr) :=
  [row .convoyBegin pickConvoy, row .vectorRetire pickRetire, row .vldwGroup pickVldw, row .mopBegin pickMopBegin]

/-- R115, R433, R443: waits. -/
def waitRows : List (State → Option Instr) :=
  [row .resynchronisingAccess pickResync, row .ticketPoll pickTicketPoll, row .waitConditionMet pickWaitMet]

/-- The dispatcher: a reservation goes before a bind (R344). -/
def dispatchRows : List (State → Option Instr) :=
  [row .gangReservation pickReserve, row .gangStart pickGangStart, row .savedGroupRestore pickRestore,
   row .resume (fun s => pickBind s true), row .jobBind (fun s => pickBind s false), row .stealGrant pickGrant,
   row .stealRequest pickSteal, row .setdlRequest pickSetdl, row .dispatcherPlacement pickPlacement]

/-- Walks, atomics at memory, and arrivals. -/
def memoryRows : List (State → Option Instr) :=
  [row .pageWalk pickWalk, row .vamoArrival pickVamo, row .combiningTimeout pickCombine,
   rowIf .barrierArrival (fun s => !s.arrivals.isEmpty), row .chunkArrival pickLand,
   rowIf .messageAppend (fun s => !s.eng.messages.isEmpty), row .msgSendvRetry pickRetry,
   row .invalidateCompletion pickInvalDone, row .linkRetrain pickWorn]

/-- The spools and the coding engines. -/
def engineRows : List (State → Option Instr) :=
  [row .listStart pickStart, row .src pickSrc, row .dst pickDst, row .push pickPush, row .mcast pickMcast,
   row .gather pickGather, row .cvt pickCvt, row .clistLoop pickLoop, row .waitd pickWaitd, row .atTime pickAt,
   row .notifyDec pickNotifyDec, row .notifyPost pickNotifyPost, row .recRecord pickRec, row .endList pickEnd,
   row .spoolChunk pickChunk, rowIf .codingCommandStart (fun s => (pickCodingStart s).isSome),
   rowIf .codingCommandEnd (fun s => (pickCodingEnd s).isSome)]

/-- The service complex (R449, R463), sensors and power. -/
def serviceRows : List (State → Option Instr) :=
  [trapRow, row .prgResponse servePrg, row .deferredCompletion pickDeferred, row .commandDoorbell pickTake,
   row .firmwareTimer pickFirmware, row .ballastTurn pickBallast, row .tripHoldBegin pickTrip,
   row .tripHoldEnd pickTripEnd, cmdRow]

/-- The groups that take turns at being first. -/
def eventGroups : List (List (State → Option Instr)) :=
  [queueRows, waitRows, dispatchRows, memoryRows, engineRows, serviceRows]

/-- A list that begins at another place. -/
def rotated {α : Type} (n : Nat) (l : List α) : List α := l.drop (n % l.length) ++ l.take (n % l.length)

/-- Half nanoseconds of device time: cycles (log entry 2: DESIGN CHOICE). -/
def cyclesOf (t : Nat) : Nat := t / 0x8000

/-- The event that happens next (log entry 3: DESIGN CHOICE). -/
def nextEvent (s : State) : Option Instr :=
  (urgentRows ++ (rotated (cyclesOf s.fine / 2) eventGroups).flatten).findSome? (fun r => r s)

/-- An event happens; inputs that are not there yet stay out of it. -/
def runEvent (i : Instr) (s : State) : Out :=
  thenNext (exec i { s with inputs := [] }) fun t => .next { t with inputs := s.inputs }

/-- What the device does in its turn: an input that is there, or the next event. -/
def deviceAct (s : State) : Out :=
  match dueInput s with
  | some i => exec (inputRow s i) s
  | none =>
    match nextEvent s with
    | some i => runEvent i s
    | none => .next s

/-! ### Time and turns -/

/-- R446: cycles counted: every one, those of a waiting instruction, and those at a full queue. -/
def countCycles (s : State) (n : Nat) : State :=
  if s.pmc.isEmpty || n = 0 then s
  else
    let s1 := { s with pmc := s.pmc.map (fun p =>
      if p.2.counts 0x01 none then (p.1, { p.2 with count := p.2.count + BitVec.ofNat 48 n }) else p) }
    (hartKeys s1).foldl (fun s k =>
      let h := getHart s k
      match h.block with
      | .wait => countEv s h.core (some h.hid) 0x0D n
      | .walk => if h.blockedBy.any isTicket then countEv s h.core (some h.hid) 0x0D n else s
      | .queue => countEv s h.core (some h.hid) 0x0B n
      | _ => s) s1

/-- Device time goes on: by a cycle, or as far as the state says (log entry 2: DESIGN CHOICE).  Messages go
at their launch times (R397), and waits are decided by what has come by then (R433). -/
def passStep (s : State) : State :=
  let s1 := decideWaits (launchDue s.nowNs (passTime { s with ticks := s.ticks.drop 1 } (s.ticks.headD 0x8000)))
  countCycles s1 (cyclesOf s1.fine - cyclesOf s.fine)

/-- The running harts that are not in focus. -/
def runningOthers (s : State) : List Nat :=
  s.others.filterMap (fun p => if p.2.stage = .running then some p.1 else none)

/-- The focus goes on to the next running hart. -/
def nextFocus (s : State) : State :=
  let ks := runningOthers s
  match (ks.find? (fun k => s.hart.key < k)).or ks.head? with
  | some k => focusOn s k
  | none => s

/-- The turn of the hart in focus. -/
def hartTurn (s : State) : Out :=
  thenNext (if canIssue s then issue s else .next s) fun t => .next { passStep t with turn := .device }

/-- The turn of the rest of the device. -/
def deviceTurn (s : State) : Out :=
  thenNext (deviceAct s) fun t => .next { nextFocus (passStep t) with turn := .hart }

end Sys2Proof.Machine
end

