-- ==== Sys2Proof/Machine/Step.lean ====
section
/-! DEFINITION. One step of the machine. -/

namespace Sys2Proof.Machine

/-- One step: the hart in focus may issue, or something else of the device happens (log entry 3: DESIGN CHOICE). -/
def step (s : State) : Out :=
  match s.turn with
  | .hart => hartTurn s
  | .device => deviceTurn s

/-- The instruction word `w` put where the next step fetches (log entry 14: DESIGN CHOICE). -/
def State.withFetchWord (s : State) (_nbits w : Nat) : State :=
  placeBundle s (loneBundle s.hart.pc (BitVec.ofNat 32 w))

end Sys2Proof.Machine
end

