-- ==== Sys2Proof/Safety.lean ====
section
/-! DEFINITION. The terms the statements use: what it means that an instruction completes, what a
hart's own bookkeeping is, and what an instruction may leave changed. -/

namespace Sys2Proof.Safety

open Sys2Proof.Machine

/-- A scalar register as it stands; s0 reads as 0 (R107). -/
def reg (s : State) (r : BitVec 5) : Dword := if r = 0 then 0 else mapGet 0 s.hart.s r.toNat

/-- Where the hart stands once an instruction with effect `u` has ended (R39-R41): at the target of
a taken transfer, else behind its unit; word 0 of a paired bundle leaves the pc to word 1. -/
def pcAfter (u : State) : BitVec 48 :=
  if u.hart.x.hold then u.hart.pc
  else u.hart.x.npc.getD (u.hart.x.iaddr + (if u.hart.x.paired then 8 else 4))

/-- A state without what issuing changes for every instruction alike: the program counter and what
the hart remembers of its last unit (the stages of its issue, its convoy, how many units it has issued), the performance counters, which
count the unit (R445), and the numbers of the lines that the home slices hold (R28), which no
instruction reads. -/
def idle (s : State) : State :=
  { s with
    pmc := []
    slices := []
    hart := { s.hart with
      pc := 0, lastPc := 0, units := 0, ranSince := false, block := .none, blockedBy := none, waitEnd := none, convoy := {}, x := {} } }

/-- The instruction completes with an answer that satisfies `P`. -/
def Completes (i : Instr) (s : State) (P : State → Prop) : Prop := ∃ t, exec i s = .next t ∧ P t

/-- The instruction completes, its whole effect being to turn the state into `u`, and the hart
stands behind it. -/
def Does (i : Instr) (s u : State) : Prop := Completes i s fun t => idle t = idle u ∧ t.hart.pc = pcAfter u

/-- The instruction writes one scalar register and nothing else; a write of s0 writes nothing. -/
def Writes (i : Instr) (s : State) (sd : BitVec 5) (v : Dword) : Prop :=
  Completes i s fun t =>
    (∀ r, reg t r = if r = sd ∧ r ≠ 0 then v else reg s r) ∧ t.hart.pc = pcAfter s ∧
      idle { t with hart := { t.hart with s := [] } } = idle { s with hart := { s.hart with s := [] } }

/-- The hart changed only by a transfer to `t` (R41). -/
def goTo (s : State) (t : BitVec 48) : State :=
  { s with hart := { s.hart with x := { s.hart.x with npc := some t } } }

end Sys2Proof.Safety
end

