-- ==== Sys2Proof/Certificates/Slice0/Obligations.lean ====
section
/-! DEFINITION. The statements about the machine, and the tables of values they refer to, written
from the rules and not from the meanings. -/

namespace Sys2Proof.Rules

open Sys2Proof.Machine Sys2Proof.Safety

/-! ### Scalar values (R78, R123-R127) -/

/-- A truth value as a register value. -/
def truth (c : Prop) [Decidable c] : Dword := if c then 1 else 0

/-- R123: the instructions of majors 0x02 and 0x0A with their results from a and b. -/
def arithmetic : List ((BitVec 5 → BitVec 5 → BitVec 5 → Instr) × (Dword → Dword → Dword)) :=
  [ (.add, fun a b => BitVec.ofNat 64 (a.toNat + b.toNat)),
    (.sub, fun a b => BitVec.ofInt 64 (a.toNat - b.toNat)),
    (.and, fun a b => a &&& b),
    (.or, fun a b => a ||| b),
    (.xor, fun a b => a ^^^ b),
    (.sll, fun a b => BitVec.ofNat 64 (a.toNat * 2 ^ (b.toNat % 64))),
    (.srl, fun a b => BitVec.ofNat 64 (a.toNat / 2 ^ (b.toNat % 64))),
    (.sra, fun a b => BitVec.ofInt 64 (a.toInt / 2 ^ (b.toNat % 64))),
    (.min, fun a b => if a.toInt ≤ b.toInt then a else b),
    (.max, fun a b => if a.toInt ≤ b.toInt then b else a),
    (.minn, fun a b => if a.toNat ≤ b.toNat then a else b),
    (.maxn, fun a b => if a.toNat ≤ b.toNat then b else a),
    (.slt, fun a b => truth (a.toInt < b.toInt)),
    (.sltn, fun a b => truth (a.toNat < b.toNat)),
    (.mul, fun a b => BitVec.ofNat 64 (a.toNat * b.toNat)),
    (.mulh, fun a b => BitVec.ofInt 64 (a.toInt * b.toInt / 2 ^ 64)),
    (.mulhn, fun a b => BitVec.ofNat 64 (a.toNat * b.toNat / 2 ^ 64)),
    (.div, fun a b => if b = 0 then BitVec.ofInt 64 (-1) else BitVec.ofInt 64 (a.toInt.tdiv b.toInt)),
    (.divn, fun a b => if b = 0 then BitVec.ofInt 64 (-1) else BitVec.ofNat 64 (a.toNat / b.toNat)),
    (.rem, fun a b => if b = 0 then a else BitVec.ofInt 64 (a.toInt.tmod b.toInt)),
    (.remn, fun a b => if b = 0 then a else BitVec.ofNat 64 (a.toNat % b.toNat)) ]

/-- R123: the bit counts and the byte swap, with their results from a. -/
def counting : List ((BitVec 5 → BitVec 5 → Instr) × (Dword → Dword)) :=
  [ (.clz, fun a => BitVec.ofNat 64 (((List.range 64).find? (fun i => a.getLsbD (63 - i))).getD 64)),
    (.ctz, fun a => BitVec.ofNat 64 (((List.range 64).find? (fun i => a.getLsbD i)).getD 64)),
    (.popc, fun a => BitVec.ofNat 64 ((List.range 64).countP (fun i => a.getLsbD i))),
    (.bswap, fun a => a.extractLsb' 0 8 ++ a.extractLsb' 8 8 ++ a.extractLsb' 16 8 ++ a.extractLsb' 24 8 ++
      a.extractLsb' 32 8 ++ a.extractLsb' 40 8 ++ a.extractLsb' 48 8 ++ a.extractLsb' 56 8) ]

/-- The natural value of `w` low bits read as signed. -/
def signedLow (w n : Nat) : Int := if n % 2 ^ w < 2 ^ (w - 1) then (n % 2 ^ w : Nat) else (n % 2 ^ w : Nat) - 2 ^ w

/-- R126: an address of a site from its twin and relative bits, its coordinates and an offset. -/
def sitePointer (twin rel : BitVec 1) (x y : BitVec 5) (o : Dword) : Dword :=
  (0xFE : BitVec 8) ++ twin ++ rel ++ x ++ y ++ (0 : BitVec 24) ++ o.extractLsb' 0 20

/-- The address of the bundle that holds the instruction (R41). -/
def bundleOf (s : State) : Nat := s.hart.x.iaddr.toNat / 8 * 8

/-- R128: the branches with their conditions on a and b. -/
def branches : List ((BitVec 5 → BitVec 5 → BitVec 11 → Instr) × (Dword → Dword → Bool)) :=
  [ (.beq, fun a b => a.toNat = b.toNat), (.bne, fun a b => a.toNat ≠ b.toNat),
    (.blt, fun a b => a.toInt < b.toInt), (.bge, fun a b => b.toInt ≤ a.toInt),
    (.bltn, fun a b => a.toNat < b.toNat), (.bgen, fun a b => b.toNat ≤ a.toNat) ]

/-- The target of a signed offset in bundles (R41, R128, R129). -/
def target {n : Nat} (s : State) (off : BitVec n) : BitVec 48 := BitVec.ofInt 48 (bundleOf s + off.toInt * 8)

end Sys2Proof.Rules

namespace Sys2Proof.Rules

open Sys2Proof.Machine Sys2Proof.Safety

/-! ### Control registers, lengths and traps -/

/-- The hart in focus changed. -/
def withHart (s : State) (f : Hart → Hart) : State := { s with hart := f s.hart }

/-- R111: the control registers. -/
def controlRegisters : List Nat :=
  [0x000, 0x001, 0x002, 0x003, 0x004, 0x005, 0x008, 0x010, 0x011, 0x020, 0x021, 0x022, 0x023, 0x024, 0x028,
   0x029, 0x030, 0x031, 0x032, 0x033, 0x034, 0x035, 0x036, 0x040, 0x041, 0x042]

/-- R111, R115: the registers whose access resynchronises. -/
def resyncRegisters : List Nat := [0x008, 0x010, 0x011]

/-- The instructions a resynchronising access waits for have all retired (R115). -/
def Retired (s : State) : Prop := s.hart.queue = [] ∧ s.hart.pend = []

/-- R115: what a resynchronising access counts. -/
def counted (n : Nat) (s : State) : State :=
  if n ∈ resyncRegisters then withHart s fun h => { h with vsync := h.vsync + 1 } else s

/-- R116, R152, R91: what a register whose fields are simply RW holds after the value `v` is written,
`none` for the other registers. -/
def writtenField (n : Nat) (v : Dword) : Option Nat :=
  match n with
  | 0x004 | 0x005 => some (v.toNat % 2 ^ 15)
  | 0x029 | 0x034 | 0x036 => some v.toNat
  | 0x030 => some (v.toNat % 2 ^ 48 / 8 * 8)
  | 0x031 => some (v.toNat % 2 ^ 6)
  | 0x033 => some (v.toNat % 2 ^ 8)
  | 0x035 | 0x040 => some (v.toNat % 2 ^ 48)
  | _ => none

/-- R111: the registers no instruction writes. -/
def readOnlyRegisters : List Nat := [0x010, 0x011, 0x020, 0x021, 0x022, 0x023, 0x024, 0x028, 0x032, 0x041, 0x042]

/-- R151: the lengths of a grant of `r` rows and `c` columns, where `m` is vmax. -/
def granted (l : LenRegs) (m r c : Nat) : LenRegs :=
  let col := if r = 0 ∨ c = 0 then 0 else min c m
  let row := if r = 0 ∨ c = 0 then 1 else min r (m / col)
  { vtype := l.vtype, rowc := row, colc := col, vl := row * col, rowi := 0, coli := 0 }

/-- R149: the widths of the element types. -/
def widthOfType (t : Nat) : Nat :=
  if t ∈ [0x0E, 0x10] then 4
  else if t ∈ [0x00, 0x04, 0x0C, 0x0D, 0x11, 0x12] then 8
  else if t ∈ [0x01, 0x05, 0x0A, 0x0B] then 16
  else if t ∈ [0x02, 0x06, 0x09, 0x13, 0x14, 0x15] then 32
  else 64

/-- R149: vmax of `w` lanes under a `vtype`. -/
def largestLength (w : Nat) (vtype : BitVec 7) : Nat :=
  2 ^ (vtype.toNat / 32) * w * 256 / widthOfType (vtype.toNat % 32)

/-- R150: the length and view registers of a hart read as these. -/
def LengthsRead (h : Hart) (l : LenRegs) : Prop :=
  cregVal h 0 = BitVec.ofNat 64 l.vl ∧ cregVal h 1 = l.vtype.zeroExtend 64 ∧ cregVal h 2 = BitVec.ofNat 64 l.rowc ∧
    cregVal h 3 = BitVec.ofNat 64 l.colc ∧ cregVal h 4 = BitVec.ofNat 64 l.rowi ∧ cregVal h 5 = BitVec.ofNat 64 l.coli

/-- R152: what a written length register leaves: these lengths, and every other control register as it was. -/
def LengthsWritten (h : Hart) (n : Nat) (v : Dword) (l : LenRegs) : Prop :=
  LengthsRead (cregWrite h n v) l ∧ ∀ m ∈ controlRegisters, 6 ≤ m → cregVal (cregWrite h n v) m = cregVal h m

/-- The instruction may stand where it stands in its convoy (R46 rule 3). -/
def MayConfigure (s : State) : Prop := s.hart.x.joins = false ∨ s.hart.convoy.count = 0

/-- R117: the causes each enable bit of `tenab` covers (R116, R309). -/
def coveredBy : List (Nat × Nat) :=
  [(0x08, 0), (0x09, 1), (0x01, 2), (0x02, 2), (0x03, 2), (0x04, 2), (0x05, 2), (0x0A, 3), (0x0B, 3), (0x20, 4),
   (0x16, 5), (0x19, 5)]

/-- R117: the trap goes to the job's handler. -/
def HandlerTakes (h : Hart) (cause : Nat) : Prop :=
  (∃ b, (cause, b) ∈ coveredBy ∧ h.tr.tenab.getLsbD b = true) ∧ h.tr.tvec ≠ 0 ∧ h.tr.inh = false

/-- R42, R118: what a precise trap found at a check of R63 (6: an execution fault) makes of a state: it is taken
with the instruction's own address as resume address, or kept for the end of a paired bundle. -/
def trappedAt (check : Nat) (s : State) (cause : Nat) (tval : Dword) : State :=
  if s.hart.x.paired = true then withHart s fun h => { h with x := { h.x with trap := some ⟨cause, tval⟩, check := check } }
  else deliver s ⟨cause, tval⟩ s.hart.x.iaddr false 63

/-- The instruction takes a precise trap by an execution fault, and does nothing else (R42, R118). -/
def Traps (i : Instr) (s : State) (cause : Nat) (tval : Dword) : Prop := exec i s = .next (trappedAt 6 s cause tval)

/-- R65, R142: a `tret` may return to `xpc`: it is a bundle address, or the second word of a bundle
that is not paired, whose fetch leaves `s1`. -/
def MayReturn (s s1 : State) : Prop :=
  (s.hart.tr.xpc.toNat % 8 = 0 ∧ s1 = s) ∨
  (s.hart.tr.xpc.toNat % 8 = 4 ∧ ∃ w, fetchBundle s (s.hart.tr.xpc - 4) = .ok w s1 ∧ w.getLsbD 31 = false)

/-- R283: no queued access of the hart may name one of the `n` bytes at a location. -/
def Unnamed (s : State) (l n : Nat) : Prop :=
  ∀ i e, s.hart.queue[i]? = some e → entryMeets s (s.hart.queue.take i) e l n = false

/-- A return address that a call pushes (R129). -/
def returnPoint (s : State) : BitVec 48 := BitVec.ofNat 48 (bundleOf s + 8)

/-- R120: the place of entry `j` of the spill area. -/
def spillPlace (s : State) (j : Nat) : Nat := spadLoc s.hart.core (s.hart.rsBase + 8 * j)

/-- R120: a return address pushed where there is room. -/
def pushed (s : State) : State :=
  if s.hart.rs.length < 16 then withHart s fun h => { h with rs := h.rs ++ [returnPoint s] }
  else
    withHart (pokeLoc s 0 (spillPlace s s.hart.spilled) (bytesOfNat 8 (s.hart.rs.headD 0).toNat)) fun h =>
      { h with rs := h.rs.drop 1 ++ [returnPoint s], spilled := h.spilled + 1 }

/-- R120: the return stack and its spill area have room for one more address. -/
def HasRoom (s : State) : Prop :=
  s.hart.rs.length < 16 ∨ (s.hart.spilled ≠ s.hart.rsCap ∧ s.hart.rsBase + 8 * (s.hart.spilled + 1) ≤ 0x80000)

/-- R121, R283: where a push spills, no queued access of the hart may name the bytes it spills to. -/
def MaySpill (s : State) : Prop := 16 ≤ s.hart.rs.length → Unnamed s (spillPlace s s.hart.spilled) 8

/-- R121, R283: a fill reads an entry that no queued access of the hart may name: the value there. -/
def FillsFrom (s : State) (v : Nat) : Prop :=
  s.hart.rs = [] ∧ s.hart.spilled ≠ 0 ∧ Unnamed s (spillPlace s (s.hart.spilled - 1)) 8 ∧
    readNat s 0 (spillPlace s (s.hart.spilled - 1)) 8 = some v

end Sys2Proof.Rules

namespace Sys2Proof.Rules

open Sys2Proof.Machine Sys2Proof.Safety

/-! ### Vector instructions: when they issue, and what they leave -/

/-- R46: the instruction may stand in the convoy that is being formed. -/
def MayJoin (i : Instr) (s : State) : Prop :=
  s.hart.convoy.used &&& i.res = 0 ∧ s.hart.convoy.count < 4 ∧ s.hart.convoy.resync = false ∧
    s.hart.convoy.mode = false ∧ (i.changesMode = true → s.hart.convoy.count = 0)

/-- The instruction may issue, and nothing queued stands before it: it runs at once (R160, R161). -/
def Issues (i : Instr) (s : State) : Prop := Retired s ∧ MayJoin i s

/-- R63 checks 3 and 4, R148: `n` registers from a register on are a group of the file, and not in
the tile while the hart is in matrix mode. -/
def Fits (s : State) (v : BitVec 6) (n : Nat) : Prop :=
  n ≤ 8 ∧ v.toNat % n = 0 ∧ v.toNat + n ≤ 64 ∧ (s.hart.mview = true → v.toNat + n ≤ 48)

/-- The type code, the element width and the registers of a group under `vtype` (R53, R146, R149). -/
def typeNow (s : State) : Nat := (lenNow s).vtype.toNat % 32
def widthNow (s : State) : Nat := typeWidth (typeNow s)
def groupNow (s : State) : Nat := 2 ^ ((lenNow s).vtype.toNat / 32)

/-- The rounding mode in force (R91). -/
def modeNow (s : State) : RM := rmOf ((fcsrNow s).extractLsb' 0 3)

/-- R157: bit `i` of the mask operand; operand 0 is unmasked. -/
def selected (s : State) (k : BitVec 3) (i : Nat) : Bool := k = 0 || (getMask s.hart k.toNat).getLsbD i

/-- R157: the active elements of an element-wise instruction. -/
def active (s : State) (k : BitVec 3) : List Nat :=
  (List.range (lenNow s).vl).filter fun i =>
    (lenNow s).rowi * (lenNow s).colc + (lenNow s).coli ≤ i && selected s k i

/-- R157: the active elements of a whole instruction. -/
def activeWhole (s : State) (k : BitVec 3) : List Nat := (List.range (lenNow s).vl).filter fun i => selected s k i

/-- An element of a register group as the instruction reads it. -/
def elem (s : State) (v : BitVec 6) (b i : Nat) : Nat := getElem s.hart v.toNat b i

/-- R153: the view registers cleared as the instruction issues. -/
def viewCleared (s : State) : State := withHart s fun h => { h with len := { h.len with rowi := 0, coli := 0 } }

/-- The flags some results set together (R92). -/
def flagsOf (l : List FRes) : Flags := l.foldl (fun f r => f ||| r.flags) 0

/-- What an instruction leaves that writes results to elements of a group of width `b`, and retires
with their flags (R92, R94, R153). -/
def landedAt (s : State) (vd : BitVec 6) (b : Nat) (l : List (Nat × FRes)) : State :=
  retire (withHart (viewCleared s) fun h => putElems h vd.toNat b (l.map fun p => (p.1, p.2.bits)))
    (flagsOf (l.map fun p => p.2))

/-- The same for an instruction that gives element `i` of some the result `val i`. -/
def landed (s : State) (vd : BitVec 6) (b : Nat) (act : List Nat) (val : Nat → FRes) : State :=
  landedAt s vd b (act.map fun i => (i, val i))

/-- The result without a flag. -/
def exact (x : Nat) : FRes := ⟨x, 0⟩

/-- R189, R190, R193: integer instructions of two sources, with their results from the element width,
the two elements and the old destination element. -/
def vectorInts : List ((BitVec 6 → BitVec 6 → BitVec 6 → BitVec 3 → Instr) × (Nat → Nat → Nat → Nat → Nat)) :=
  [ (.vadd, fun b x y _ => wrapN b (x + y)),
    (.vsub, fun b x y _ => wrapN b (x - y)),
    (.vmin, fun b x y _ => if sx b x ≤ sx b y then x else y),
    (.vmax, fun b x y _ => if sx b x ≤ sx b y then y else x),
    (.vminn, fun _ x y _ => if x ≤ y then x else y),
    (.vmaxn, fun _ x y _ => if x ≤ y then y else x),
    (.vsll, fun b x y _ => wrapN b (x * 2 ^ (y % b))),
    (.vsrl, fun b x y _ => x / 2 ^ (y % b)),
    (.vsra, fun b x y _ => wrapN b (sx b x / 2 ^ (y % b))),
    (.vsadd, fun b x y _ => wrapN b (max (-(2 ^ (b - 1))) (min (2 ^ (b - 1) - 1) (sx b x + sx b y)))),
    (.vssub, fun b x y _ => wrapN b (max (-(2 ^ (b - 1))) (min (2 ^ (b - 1) - 1) (sx b x - sx b y)))),
    (.vsaddn, fun b x y _ => min (2 ^ b - 1) (x + y)),
    (.vssubn, fun _ x y _ => x - y),
    (.vmacc, fun b x y d => wrapN b (d + x * y)),
    (.vmul, fun b x y _ => wrapN b (x * y)),
    (.vmulh, fun b x y _ => wrapN b (sx b x * sx b y / 2 ^ b)),
    (.vmulhn, fun b x y _ => x * y / 2 ^ b),
    (.vdiv, fun b x y _ => if y = 0 then 2 ^ b - 1 else wrapN b ((sx b x).tdiv (sx b y))),
    (.vdivn, fun b x y _ => if y = 0 then 2 ^ b - 1 else x / y),
    (.vrem, fun b x y _ => if y = 0 then x else wrapN b ((sx b x).tmod (sx b y))),
    (.vremn, fun _ x y _ => if y = 0 then x else x % y) ]

/-- R189: the bitwise instructions. -/
def vectorBits : List ((BitVec 6 → BitVec 6 → BitVec 6 → BitVec 3 → Instr) × (Nat → Nat → Nat)) :=
  [(.vand, fun x y => x &&& y), (.vor, fun x y => x ||| y), (.vxor, fun x y => x ^^^ y)]

/-- An element read by a type: signed for the i types (R192). -/
def readAs (t b x : Nat) : Int := if t < 4 then sx b x else x

/-- Two register groups share no register (R186). -/
def Apart (a : BitVec 6) (n : Nat) (b : BitVec 6) (m : Nat) : Prop := a.toNat + n ≤ b.toNat ∨ b.toNat + m ≤ a.toNat

/-- R194: floating-point instructions of two sources with the operation each applies in the format
and the rounding mode. -/
def vectorFloats : List ((BitVec 6 → BitVec 6 → BitVec 6 → BitVec 3 → Instr) × (FFmt → RM → Nat → Nat → Nat → FRes)) :=
  [ (.vfadd, fun f rm x y _ => fpAdd f rm x y), (.vfsub, fun f rm x y _ => fpSub f rm x y),
    (.vfmul, fun f rm x y _ => fpMul f rm x y), (.vfdiv, fun f rm x y _ => fpDiv f rm x y),
    (.vfmin, fun f _ x y _ => fpMinMax f false x y), (.vfmax, fun f _ x y _ => fpMinMax f true x y),
    (.vfsgnj, fun f _ x y _ => exact (x % 2 ^ (f.width - 1) + y / 2 ^ (f.width - 1) % 2 * 2 ^ (f.width - 1))),
    (.vfmadd, fun f rm x y d => fpFma f rm false false x y d), (.vfmsub, fun f rm x y d => fpFma f rm false true x y d),
    (.vfnmadd, fun f rm x y d => fpFma f rm true true x y d), (.vfnmsub, fun f rm x y d => fpFma f rm true false x y d) ]

/-- R194: those of one source. -/
def vectorFloats1 : List ((BitVec 6 → BitVec 6 → BitVec 3 → Instr) × (FFmt → RM → Nat → FRes)) :=
  [ (.vfsqrt, fpSqrt), (.vfrec, fpRec), (.vfrsqrt, fpRsqrt), (.vfclass, fun f _ x => exact (fpClass f x)),
    (.vfabs, fun f _ x => exact (x % 2 ^ (f.width - 1))),
    (.vfneg, fun f _ x => exact (if x / 2 ^ (f.width - 1) % 2 = 1 then x - 2 ^ (f.width - 1) else x + 2 ^ (f.width - 1))) ]

/-- R199: the special functions of one operand. -/
def vectorSpecials : List ((BitVec 6 → BitVec 6 → BitVec 3 → Instr) × (FFmt → RM → Nat → FRes)) :=
  [ (.vfsin, fun f rm => fpSinCos f rm false), (.vfcos, fun f rm => fpSinCos f rm true),
    (.vfsint, fun f rm => fpTurn f rm false), (.vfcost, fun f rm => fpTurn f rm true), (.vfexp2, fpExp2),
    (.vflog2, fpLog2), (.vftanh, fpTanh) ]

/-- What a compare leaves in a mask register: bits from the starting element below vl (R169). -/
def comparedBits (s : State) (k : BitVec 3) (rel : Nat → Bool × Flags) : List (Nat × (Bool × Flags)) :=
  ((List.range (lenNow s).vl).filter fun i => (lenNow s).rowi * (lenNow s).colc + (lenNow s).coli ≤ i).map fun i =>
    (i, if selected s k i then rel i else (false, 0))

/-- What a compare leaves (R92, R169). -/
def compared (s : State) (kd k : BitVec 3) (rel : Nat → Bool × Flags) : State :=
  retire (withHart (viewCleared s) fun h => putMask h kd.toNat ((comparedBits s k rel).map fun p => (p.1, p.2.1)))
    ((comparedBits s k rel).foldl (fun f p => f ||| p.2.2) 0)

/-- R169: the relations of the integer compares. -/
def relation (cond : BitVec 3) (x y : Int) : Bool :=
  match cond.toNat with
  | 0 => x = y | 1 => x ≠ y | 2 => x < y | 3 => y ≤ x | 4 => x ≤ y | _ => y < x

/-- R170: the mask logic. -/
def maskLogic : List ((BitVec 3 → BitVec 3 → BitVec 3 → Instr) × (Bool → Bool → Bool)) :=
  [(.kand, fun x y => x && y), (.kor, fun x y => x || y), (.kxor, fun x y => x ^^ y), (.kandn, fun x y => x && !y),
   (fun kd ka _ => .knot kd ka, fun x _ => !x), (fun kd ka _ => .kmov kd ka, fun x _ => x)]

/-- The indices below vl of the ones of a mask register (R171). -/
def onesOf (s : State) (ka : BitVec 3) : List Nat :=
  (List.range (lenNow s).vl).filter fun i => (getMask s.hart ka.toNat).getLsbD i

/-- What an instruction leaves that resynchronises and writes a scalar register (R115, R153). -/
def answered (s : State) (sd : BitVec 5) (v : Dword) (f : Flags) : State :=
  retire (wrS (withHart (viewCleared s) fun h => { h with vsync := h.vsync + 1 }) sd v) f

end Sys2Proof.Rules

namespace Sys2Proof.Rules

open Sys2Proof.Machine Sys2Proof.Safety

/-! ### Permutes, complex numbers, tiles, reductions, scalar floating point -/

/-- What a permute leaves (R172). -/
def moved (s : State) (vd : BitVec 6) (b : Nat) (l : List (Nat × Nat)) : State :=
  landedAt s vd b (l.map fun p => (p.1, exact p.2))

/-- Each of some elements with its value. -/
def each (l : List Nat) (f : Nat → Nat) : List (Nat × Nat) := l.map fun i => (i, f i)

/-- R175: the slides, with what each writes to element `i` from the elements of va, the scalar and
vl; `none` leaves the element. -/
def slides : List ((BitVec 6 → BitVec 6 → BitVec 5 → BitVec 3 → Instr) × ((Nat → Nat) → Nat → Nat → Nat → Nat → Option Nat)) :=
  [ (.vslideup, fun x n _ _ i => if n ≤ i then some (x (i - n)) else none),
    (.vslidedn, fun x n _ vl i => some (if i + n < vl then x (i + n) else 0)),
    (.vslide1up, fun x n b _ i => some (if i = 0 then n % 2 ^ b else x (i - 1))),
    (.vslide1dn, fun x n b vl i => some (if i + 1 = vl then n % 2 ^ b else x (i + 1))) ]

/-- The complex element (R88). -/
def celem (s : State) (v : BitVec 6) (i : Nat) : CNum := cnum (widthNow s) (elem s v (widthNow s) i)

/-- R202: complex instructions whose result is an exact sum rounded once, from a, b and d. -/
def complexSums : List ((BitVec 6 → BitVec 6 → BitVec 6 → BitVec 3 → Instr) × (CNum → CNum → CNum → CSum)) :=
  [ (.vcmul, fun a b _ => cProd a b), (.vcmac, fun a b d => (cTerm d).add (cProd a b)),
    (.vcmacj, fun a b d => (cTerm d).add (cProdJ a b)) ]

/-- R202: the first component of a ci16 product, as an integer rounded and saturated once. -/
def fixedReal (a b : CNum) : Nat :=
  wrapN 16 (max (-(2 ^ 15)) (min (2 ^ 15 - 1)
    (rshr (sx 16 a.re * sx 16 b.re - sx 16 a.im * sx 16 b.im) 15 .rne)))

/-- R204-R206: the columns of the butterflies of radix `r`, as elements: of each row, those below
colc / r that the mask operand selects. -/
def butterflies (s : State) (k : BitVec 3) (r : Nat) : List Nat :=
  (List.range (lenNow s).rowc).flatMap fun row =>
    ((List.range ((lenNow s).colc / r)).map fun j => row * (lenNow s).colc + j).filter (selected s k)

/-- R207: the rows of the tile view whose matrix the mask operand selects. -/
def matricesOf (s : State) (k : BitVec 3) : List Nat :=
  (List.range (if (lenNow s).vl = 0 then 0 else (lenNow s).rowc)).filter fun r => selected s k (r * (lenNow s).colc)

/-- R207: entry (i, j) of the matrix of a row. -/
def matrixOf (s : State) (v : BitVec 6) (row : Nat) : CMat := fun i j =>
  celem s v (row * (lenNow s).colc + i * tileOrder (lenNow s) + j)

/-- R207: what a small-matrix step leaves whose result has entry `f row i j`. -/
def stepped (s : State) (vd : BitVec 6) (k : BitVec 3) (f : Nat → Nat → Nat → FRes) : State :=
  let n := tileOrder (lenNow s)
  landedAt s vd (widthNow s) ((matricesOf s k).flatMap fun r =>
    (List.range (n * n)).map fun p => (r * (lenNow s).colc + p, f r (p / n) (p % n)))

/-- R212: the elements of a reduction, an inactive one being none. -/
def leaves (s : State) (va : BitVec 6) (k : BitVec 3) : List (Option Nat) :=
  (List.range (lenNow s).vl).map fun i => if selected s k i then some (elem s va (widthNow s) i) else none

/-- R213: the integer reductions, with the function each folds with. -/
def integerReductions : List ((BitVec 5 → BitVec 6 → BitVec 5 → BitVec 3 → Instr) × (Int → Int → Int)) :=
  [(.vredsum, fun x y => x + y), (.vredmin, fun x y => min x y), (.vredmax, fun x y => max x y)]

/-- R213: the floating-point reductions, with the operation of each. -/
def floatReductions : List ((BitVec 5 → BitVec 6 → BitVec 5 → BitVec 3 → Instr) × (FFmt → RM → Nat → Nat → FRes)) :=
  [(.vfredsum, fpAdd), (.vfredmin, fun f _ => fpMinMax f false), (.vfredmax, fun f _ => fpMinMax f true)]

/-- The value of a fold over the active elements read by type `t` in `n` bits, as a register takes
it (R103, R213). -/
def foldedValue (t b n init : Nat) (l : List (Option Nat)) (f : Int → Int → Int) : Dword :=
  let v := (l.filterMap id).foldl (fun x y => f x (readAs t b y)) (readAs t n (init % 2 ^ n))
  BitVec.ofInt 64 (readAs t n (wrapN n v))

/-- The format of the pr field, and an operand of it (R107, R133). -/
def formatOf (pr : BitVec 1) : FFmt := if pr = 0 then f32 else f64
def operand (s : State) (pr : BitVec 1) (r : BitVec 5) : Nat := (rdS s r).toNat % 2 ^ (formatOf pr).width

/-- R133: the scalar instructions of two sources. -/
def scalarFloats : List ((BitVec 5 → BitVec 5 → BitVec 5 → BitVec 1 → Instr) × (FFmt → RM → Nat → Nat → FRes)) :=
  [(.fadd, fpAdd), (.fsub, fpSub), (.fmul, fpMul), (.fdiv, fpDiv), (.fmin, fun f _ => fpMinMax f false),
   (.fmax, fun f _ => fpMinMax f true)]

/-- R92, R94, R136: a scalar floating-point instruction with this result merges its flags; it then
writes its result, or takes the precise trap of an enabled one, whose tval holds the enabled flags. -/
def FloatResult (i : Instr) (s : State) (sd : BitVec 5) (f : Flags) (v : Dword) : Prop :=
  (fcsrEnables (fcsrNow s) &&& f = 0 → Does i s (wrS (mergeFlags s f) sd v)) ∧
  (fcsrEnables (fcsrNow s) &&& f ≠ 0 →
    exec i s = .next (trappedAt 6 (mergeFlags s f) 0x20 (((fcsrEnables (fcsrNow s) &&& f).zeroExtend 64) <<< 8)))

end Sys2Proof.Rules

namespace Sys2Proof.Rules

open Sys2Proof.Machine Sys2Proof.Safety

/-! ### Memory -/

/-- The bytes of a scalar access, its address being s[sa] and an offset in units of them (R269). -/
def accessBytes (sz : BitVec 2) : Nat := 2 ^ sz.toNat
def accessAddr (s : State) (sa : BitVec 5) (sz : BitVec 2) (off : BitVec 8) : Dword :=
  BitVec.ofInt 64 ((rdS s sa).toNat + off.toInt * accessBytes sz)

/-- R283: no queued access of the hart may name a byte of the access. -/
def Coherent (s : State) (k : Kind) (ea : Dword) (n : Nat) : Prop :=
  ∀ l t s1, resolve s (acc s .other k) ea n = .ok (.mem l t) s1 → Unnamed s l n

/-- Two states that differ only in what caches hold: the cores' data caches (R258), the numbers of the lines
that the home slices hold (R28), and the free values used for them. -/
def SameButCaches (s t : State) : Prop := { s with dcache := t.dcache, slices := t.slices, free := t.free } = t

/-- The instruction completes as `Does` says, what caches hold apart. -/
def DoesButCaches (i : Instr) (s u : State) : Prop :=
  Completes i s fun t => SameButCaches (idle t) (idle u) ∧ t.hart.pc = pcAfter u

/-- R258: no data cache line of device memory is left at the core in focus. -/
def Acquired (t : State) : Prop := ∀ x ∈ dLines t t.hart.core, isDram (64 * x.line) = false

/-- R252, R258: what a scalar load of `n` bytes at a place reads: a write-back line of device memory from the
core's data cache where that holds it, which may be older than the bytes at the place; else those. -/
def loadSees (s : State) (ea : Dword) (l tag n : Nat) (fresh : Nat) : Nat :=
  if isDram l = true ∧ pageCache s (acc s .load .read) ea = 0 then
    match dLine s (s.hart.key / 8) l tag with
    | some x => natOfBytes ((x.data.drop (l % 64)).take n)
    | none => fresh
  else fresh

/-- The value a load leaves in its register (R269). -/
def loadedValue (sx1 : BitVec 1) (n v : Nat) : Dword :=
  if sx1 = 1 then BitVec.ofInt 64 (signedLow (8 * n) v) else BitVec.ofNat 64 v

/-- No word of `n` bytes at a location holds an uncorrectable error (R264). -/
def Sound (s : State) (l n : Nat) : Prop := ∀ w ∈ s.bad, w < l / 8 ∨ (l + n - 1) / 8 < w

/-- A little-endian number of `n` bytes at a location (R4), deciphered under a key tag (R418). -/
def storedNat (s : State) (tag l n : Nat) : Nat :=
  (List.range n).foldl (fun x i => x + (plainByte s tag (l + i)).toNat * 256 ^ i) 0

/-- R4, R418: `t` holds `n` bytes `f` at a location, as they were written under a key tag, and every other byte as
`s` does: one of their 16-byte blocks as that key deciphers it, and any outside of them as it is stored, where the
write has no key every one. -/
def Wrote (s t : State) (tag l n : Nat) (f : Nat → Byte) : Prop :=
  (∀ a, l ≤ a → a < l + n → plainByte t tag a = f (a - l)) ∧
  (∀ a, a < l ∨ l + n ≤ a → plainByte t tag a = plainByte s tag a ∨ a < l / 16 * 16 ∨ (l + n + 15) / 16 * 16 ≤ a) ∧
  (∀ a, a < l / 16 * 16 ∨ (l + n + 15) / 16 * 16 ≤ a → memByte t.mem a = memByte s.mem a) ∧
  (tag = 0 ∨ isDram l = false → ∀ a, a < l ∨ l + n ≤ a → memByte t.mem a = memByte s.mem a)

/-- Byte `i` of the little-endian number `x` (R4). -/
def byteOf (x i : Nat) : Byte := BitVec.ofNat 8 (x / 256 ^ i)

/-- R294: the atomics with the value each stores from the old one, the operand and the expected one,
as naturals of `w` bits; `none` stores nothing. -/
def atomics : List ((BitVec 5 → BitVec 5 → BitVec 5 → BitVec 1 → BitVec 2 → BitVec 2 → Instr) ×
    (Nat → Nat → Nat → Nat → Option Nat)) :=
  [ (.amoAdd, fun w x y _ => some ((x + y) % 2 ^ w)), (.amoAnd, fun _ x y _ => some (x &&& y)),
    (.amoOr, fun _ x y _ => some (x ||| y)), (.amoXor, fun _ x y _ => some (x ^^^ y)),
    (.amoMin, fun w x y _ => some (if sx w x ≤ sx w y then x else y)),
    (.amoMax, fun w x y _ => some (if sx w x ≤ sx w y then y else x)),
    (.amoMinn, fun _ x y _ => some (min x y)), (.amoMaxn, fun _ x y _ => some (max x y)),
    (.amoSwap, fun _ _ y _ => some y), (.amoCas, fun _ x y c => if x = c then some y else none),
    (.amoFadd, fun w x y _ => some ((fpAdd (if w = 32 then f32 else f64) .rne x y).bits)) ]

/-- R295: the atomics a host page takes. -/
def OnHost (i : Instr) : Prop :=
  match i with
  | .amoAdd .. | .amoSwap .. | .amoCas .. => True
  | _ => False

/-- R274: the address of element `i` of `b` bits in each way of addressing. -/
def unitAddr (s : State) (sa off : BitVec 5) (b i : Nat) : Dword :=
  BitVec.ofInt 64 ((rdS s sa).toNat + off.toInt * 64 + (i * b / 8 : Nat))
def strideAddr (s : State) (sa sb : BitVec 5) (i : Nat) : Dword :=
  BitVec.ofNat 64 ((rdS s sa).toNat + i * (rdS s sb).toNat)
def rowAddr (s : State) (sa sb : BitVec 5) (b i : Nat) : Dword :=
  BitVec.ofNat 64 ((rdS s sa).toNat + i / (lenNow s).colc * (rdS s sb).toNat + i % (lenNow s).colc * b / 8)
def indexAddr (s : State) (sa x : BitVec 5) (i : Nat) : Dword :=
  BitVec.ofInt 64 ((rdS s sa).toNat + sx 32 (getElem s.hart x.toNat 32 i))

/-- R55, R273, R274: the type's width is the one the instruction names (4-bit types go as bytes where
`nib` allows it). -/
def WidthIs (s : State) (nib : Bool) (ew : Nat) : Prop :=
  (widthNow s = 4 ∧ nib = true ∧ ew = 0) ∨ (widthNow s ≠ 4 ∧ widthNow s = 8 * 2 ^ ew)

/-- R274: the index operand is a group of v0-v31. -/
def IndexFits (s : State) (x : BitVec 5) : Prop :=
  let n := max 1 (groupNow s * 32 / widthNow s)
  x.toNat % n = 0 ∧ x.toNat + n ≤ 32

/-- The bytes of one element's access (R273). -/
def elemBytes (s : State) : Nat := if widthNow s = 4 then 1 else widthNow s / 8

/-- Every active element's address resolves, by the core's own TLB, to bytes of memory that hold no error
and may be accessed so (R248, R264); `loc` and `tag` give their places. -/
def Reaches (s : State) (k : Kind) (act : List Nat) (addr : Nat → Dword) (loc tag : Nat → Nat) : Prop :=
  ∀ i ∈ act, Sound s (loc i) (elemBytes s) ∧
    ∃ s1, resolve s (acc s .other k) (addr i) (elemBytes s) = .ok (.mem (loc i) (tag i)) s1 ∧ { s1 with slices := s.slices } = s

/-- R230: no active element's store meets a guarded region. -/
def Unguarded (s : State) (act : List Nat) (loc : Nat → Nat) : Prop :=
  ∀ i ∈ act, guardStops s s.hart.key (loc i) (elemBytes s) = none

/-- The value the bytes of element `i` hold as the hart sees them (R418). -/
def seen (s : State) (loc tag : Nat → Nat) (i : Nat) : Nat :=
  (List.range (elemBytes s)).foldl (fun x j => x + (plainByte s (tag i) (loc i + j)).toNat * 256 ^ j) 0

/-- R273: the part of a loaded byte that a 4-bit element takes, by its place `c` in its row. -/
def partOf (s : State) (c v : Nat) : Nat := if widthNow s = 4 then v / 16 ^ (c % 2) % 16 else v

/-- R273: the bytes element `i` stores; a byte of two 4-bit elements comes whole from the register,
`c` and `n` being the place in and the length of its row. -/
def bytesOfElem (s : State) (vd : BitVec 6) (c n i : Nat) : List Byte :=
  if widthNow s = 4 then
    [BitVec.ofNat 8 (elem s vd 4 (i - c % 2) + 16 * (if n ≤ c - c % 2 + 1 then 0 else elem s vd 4 (i - c % 2 + 1)))]
  else (List.range (elemBytes s)).map fun j => byteOf (elem s vd (widthNow s) i) j

/-- A vector load, its elements taken from the bytes at their places. -/
def LoadsElements (i : Instr) (s : State) (vd : BitVec 6) (k : BitVec 3) (addr : Nat → Dword) (c : Nat → Nat) : Prop :=
  ∀ loc tag, Issues i s → Fits s vd (groupNow s) → Reaches s .read (active s k) addr loc tag →
    Does i s (moved s vd (widthNow s) (each (active s k) fun j => partOf s (c j) (seen s loc tag j)))

/-- Each of some runs of bytes stored in order; the core's own data cache loses their lines (R258). -/
def storeAll (s : State) (l : List (Nat × Nat × List Byte)) : State :=
  l.foldl (fun s p => dDrop (pokeLoc s p.2.1 p.1 p.2.2) (s.hart.key / 8) p.1) s

/-- A vector store: each active element's bytes go to its place, in order. -/
def StoresElements (i : Instr) (s : State) (k : BitVec 3) (addr : Nat → Dword) (bytes : Nat → List Byte) : Prop :=
  ∀ loc tag, Issues i s → Reaches s .write (active s k) addr loc tag → Unguarded s (active s k) loc →
    Does i s (storeAll (viewCleared s) ((active s k).map fun j => (loc j, tag j, bytes j)))

/-- R300: the combining updates with the code of each operation. -/
def combiningOps : List ((BitVec 6 → BitVec 5 → BitVec 5 → BitVec 3 → BitVec 1 → Instr) × Nat) :=
  [(.vamoAdd, 0), (.vamoMin, 1), (.vamoMax, 2), (.vamoOr, 3), (.vamoXor, 4)]

/-- R300-R302: the elements a combining update sends to their banks. -/
def updates (s : State) (op : Nat) (vd : BitVec 6) (act : List Nat) (loc : Nat → Nat) : List VamoElem :=
  act.map fun i =>
    { loc := loc i, core := (loc i - 2 ^ 48) / 2 ^ 20, off := (loc i - 2 ^ 48) % 2 ^ 20, bytes := widthNow s / 8,
      op := op, signed := typeNow s < 4, operand := BitVec.ofNat 64 (elem s vd (widthNow s) i),
      sender := s.hart.key, job := s.hart.job.job, order := s.hart.units }

/-! ### The accumulator tile -/

/-- Every place of the tile (R215). -/
def places (s : State) : List (Nat × Nat) :=
  (List.range (2 * s.hart.width)).flatMap fun i => (List.range 64).map fun j => (i, j)

/-- What an instruction leaves that gives every accumulator element a result (R92, R221, R233). -/
def tileLanded (s : State) (f : Nat → Nat → FRes) : State :=
  retire (withHart s fun h => tileWrite h ((places s).map fun p => (p, (f p.1 p.2).bits)))
    (flagsOf ((places s).map fun p => f p.1 p.2))

/-- R233: an accumulator element after the products of `k` steps. -/
def accumulated (s : State) (fmt k : Nat) (o : MatOps) (i j : Nat) : FRes :=
  if fmt = 9 ∨ fmt = 0xA then accComp fmt k o (j % 2 = 1) i (j / 2) (tileGet s.hart i j)
  else accReal fmt k o i j (tileGet s.hart i j)

/-- R225: the windows of a `mop` with the bytes it takes from each. -/
def stringsOf (s : State) (wa wb ws fmt : BitVec 4) (k : Nat) : List (Nat × Nat) :=
  [(wa.toNat, k * (2 * s.hart.width * matWidth fmt.toNat / 8)), (wb.toNat, k * (matCols fmt.toNat * matWidth fmt.toNat / 8))] ++
    if fmt = 1 ∨ fmt = 4 ∨ fmt = 5 then [(ws.toNat, k / 32 * (4 * s.hart.width + 128))] else []

/-- R224, R226: the windows are distinct operand windows of the hart and hold what the `mop` takes. -/
def Serve (s : State) (l : List (Nat × Nat)) : Prop :=
  (l.map fun p => p.1).Nodup ∧ ∀ p ∈ l,
    let w := getWin s s.hart.core p.1
    w.mode = 3 ∧ w.owner = s.hart.hid ∧ roundRow p.2 ≤ w.size ∧ p.2 ≤ w.avail

/-- R228: each window's head moves past its string, in units of 64 bytes. -/
def poppedAll (s : State) (l : List (Nat × Nat)) : State :=
  l.foldl (fun s p => setWin s s.hart.core p.1
    { getWin s s.hart.core p.1 with head := (getWin s s.hart.core p.1).head + BitVec.ofNat 32 ((p.2 + 63) / 64 * 64) }) s

/-- R236: the tile's place in the scratchpad is legal. -/
def TileLies (s : State) (fmt B T : Nat) : Prop :=
  B % 32 = 0 ∧ T % 32 = 0 ∧ tileRowBytes fmt ≤ T ∧ tileExtent s.hart.width fmt B T ≤ 0x80000

end Sys2Proof.Rules

namespace Sys2Proof.Rules

open Sys2Proof.Machine Sys2Proof.Safety

/-! ### Jobs and waits -/

/-- What an instruction leaves alone that writes at most one scalar register: the hart's other
registers; its pc goes on. -/
def Quiet (s t : State) (sd : BitVec 5) : Prop :=
  t.hart.pc = pcAfter s ∧ (∀ r, r ≠ sd → reg t r = reg s r) ∧ t.hart.v = s.hart.v ∧ t.hart.k = s.hart.k ∧
    t.hart.fcsr = s.hart.fcsr ∧ t.hart.len = s.hart.len ∧ t.hart.tr = s.hart.tr ∧ t.hart.queue = s.hart.queue

/-- R326, R327: a job just made from a record: its tenant and tree, and the next id of its creator. -/
def IsNew (s : State) (r : JobRec) (tenant : Nat) (tree : BitVec 32) (creator : Nat) (j : Job) : Prop :=
  let q := (mapGet (0 : BitVec 24) s.disp.seqs creator).toNat
  j.record = r ∧ j.tenant = tenant ∧ j.tree = tree ∧ j.steal = r.steal ∧ j.ran = false ∧ j.rank = 0 ∧ j.size = 1 ∧
    j.job = BitVec.ofNat 32 (creator * 2 ^ 24 + if q = 2 ^ 24 - 1 then 1 else q + 1)

/-- Little-endian dwords (R4). -/
def dwords (l : List Nat) : List Byte := l.flatMap fun x => (List.range 8).map fun i => byteOf x i

/-- R355: the codes of a counter's states. -/
def counterCode (d : DepState) : Nat :=
  match d with
  | .idle => 0 | .pending => 1 | .done => 2 | .error => 3 | .dropped => 4

/-- R104, R438: the arrival forms with what each adds to an object. -/
def arrivalForms (sb : BitVec 5) (s : State) : List ((BitVec 5 → BitVec 5 → Instr) × (Barrier → Barrier)) :=
  let x := rdS s sb
  let y := rdS s (sb + 1)
  [ (fun sd sa => .barArrive sd sa, id),
    (fun sd sa => .barArriveFsum sd sa sb, fun b =>
      { b with acc0 := BitVec.ofInt 2176 (b.acc0.toInt + barFixed x), flags0 := b.flags0 ||| barFlag x }),
    (fun sd sa => .barArriveFsum2 sd sa sb, fun b =>
      { b with acc0 := BitVec.ofInt 2176 (b.acc0.toInt + barFixed x), flags0 := b.flags0 ||| barFlag x,
               acc1 := BitVec.ofInt 2176 (b.acc1.toInt + barFixed y), flags1 := b.flags1 ||| barFlag y }),
    (fun sd sa => .barArriveIsum sd sa sb, fun b => { b with iacc := BitVec.ofNat 64 (b.iacc.toNat + x.toNat) }) ]

/-- The instruction cannot go on: the hart stays at it, and nothing else changes. -/
def StallsAs (b : Block) (i : Instr) (s : State) : Prop :=
  exec i s = .next (withHart s fun h =>
    { h with block := b, blockedBy := some i, x := { h.x with stalled := true } })

/-- R432: the instruction waits. -/
def StaysAt (i : Instr) (s : State) : Prop := StallsAs .wait i s

/-- R433: a wait that is not decided yet, or whose condition came true first. -/
def MayHold (s : State) (holds : Prop) : Prop :=
  s.hart.waitEnd = some true ∨ s.hart.waitEnd = none ∧ holds

/-- R433: a wait that is not decided yet and whose condition does not hold. -/
def Unmet (s : State) (holds : Prop) : Prop := s.hart.waitEnd = none ∧ ¬ holds

/-- R433: a timed wait with its condition, and whether its limit is reached: whichever came first decides. -/
def TimedBy (i : Instr) (s : State) (sd : BitVec 5) (holds due : Prop) : Prop :=
  (MayHold s holds → DoesButCaches i s (wrS s sd 0)) ∧
    (s.hart.waitEnd = some false ∨ Unmet s holds ∧ due → Does i s (wrS s sd 1)) ∧
    (Unmet s holds → ¬ due → StaysAt i s)

/-- R442: a ticket word on a global page of this device's or the twin's memory, with its value. -/
def TicketAt (s : State) (ea : Dword) (l tag : Nat) (s1 : State) (v : Nat) : Prop :=
  resolve s (acc s .other .write) ea 8 = .ok (.mem l tag) s1 ∧ isGlobal l = true ∧ isHost l = false ∧
    readNat s1 tag l 8 = some v

/-- R442: the place an address names is no ticket word: a site's, or one on a host page. -/
def NoTicket (t : Target) : Prop := ∀ l tag, t = .mem l tag → isGlobal l = false ∨ isHost l = true

/-- R320: the bytes of the completion record of the job on the hart in focus, whose last completed
instruction is the one it stands at. -/
def lastRecord (s : State) (cause status : Nat) : List Byte :=
  dwords [s.hart.job.job.toNat * 2 ^ 32 + s.hart.core * 2 ^ 24 + s.hart.job.tenant * 2 ^ 16 + 1 * 2 ^ 8 + status,
    s.hart.hid * 2 ^ 56 + cause * 2 ^ 48 + s.hart.x.iaddr.toNat, s.hart.jprog.toNat, s.time.now.toNat]

end Sys2Proof.Rules

namespace Sys2Proof.Rules

open Sys2Proof.Machine Sys2Proof.Safety

/-! ### Windows, spools, coding engines and messages -/

/-- R368: every byte of slot `j` of a window armed at its head has been written or consumed: rows of
64 bytes, those below tail or recorded as written. -/
def slotArrived (w : Window) (j : Nat) : Prop :=
  let h := w.head.toNat % 256
  256 * j + 256 ≤ h + (w.fill - w.head).toNat ∧ ∀ q < 4,
    256 * j + 64 * q < h ∨ 256 * j + 64 * q + 64 ≤ h + (w.tail - w.head).toNat ∨
      (BitVec.ofNat 32 (w.head.toNat - h + 256 * j + 64 * q), BitVec.allOnes 64) ∈ w.rows

/-- R366, R374: the window of an image, for an owner. -/
def imageWin (x owner : Nat) : Window :=
  { mode := x / 2 ^ 61 % 8, guard := x / 2 ^ 60 % 2 = 1, lsize := x / 2 ^ 51 % 32, owner := owner, base := x / 64 % 2 ^ 13 * 64 }

/-- R374: the image may not be configured as window `n`. -/
def ImageRefused (s : State) (n x : Nat) : Prop :=
  let w := imageWin x 0
  5 < w.mode ∨ w.lsize < 10 ∨ 19 < w.lsize ∨ 0x80000 < w.base + 2 ^ w.lsize ∨
    x ≠ w.mode * 2 ^ 61 + x / 2 ^ 60 % 2 * 2 ^ 60 + w.lsize * 2 ^ 51 + w.base ∨
    ∃ m < 16, m ≠ n ∧ (getWin s s.hart.core m).mode ≠ 0 ∧
      w.base < (getWin s s.hart.core m).base + 2 ^ (getWin s s.hart.core m).lsize ∧
      (getWin s s.hart.core m).base < w.base + 2 ^ w.lsize

/-- R376: what `win.get` reads. -/
def windowValue (w : Window) (sel : Nat) : Dword :=
  match sel with
  | 0 => w.head.zeroExtend 64
  | 1 => w.tail.zeroExtend 64
  | 2 => (w.tail - w.head).zeroExtend 64
  | 3 => w.arrived
  | 4 => BitVec.ofNat 64 (w.mode * 2 ^ 61 + (if w.guard then 2 ^ 60 else 0) + w.lsize * 2 ^ 51 + w.owner * 2 ^ 48 + w.base)
  | 5 => w.fill.zeroExtend 64
  | _ => BitVec.allOnes 64

/-- R384: the lists a spool runs or has queued. -/
def liveLists (s : State) (n : Nat) : List SpoolList := (getLists s n).filter fun l => !l.ended

/-- R384: the spool of the slice row nearer to a compute core, in its column. -/
def columnSpool (core : Nat) : Nat := if core < 48 then core % 12 else 12 + core % 12

/-- R385: a list accepted by spool `n`: it is queued behind the others, as a new list of the poster. -/
def Accepted (s t : State) (n : Nat) (P : SpoolList → Prop) : Prop :=
  ∃ l before, getLists t n = before ++ [l] ∧ (∀ x ∈ before, x ∈ getLists s n) ∧ P l ∧ l.tenant = s.hart.job.tenant ∧
    l.tree = s.hart.job.tree ∧ l.job = s.hart.job.job ∧ l.running = false ∧ l.ended = false ∧ l.idx = 0 ∧
    l.rt = (treeDeadline s s.hart.job.tree != bestEffort) ∧ l.serial = s.eng.serial

/-- Dword `i` of a block. -/
def dwordOf (x i : Nat) : Nat := x / 2 ^ (64 * i) % 2 ^ 64

/-- R14: where a core stands; the management core, number 96, at (13, 7). -/
def standsAt (core : Nat) : Nat × Nat := if core = 96 then (13, 7) else (core % 12 + 1, core / 12 + 1)

/-- R248: x and y of the site an address names, resolved against a core. -/
def siteOf (core d : Nat) : Int × Int :=
  if d / 2 ^ 54 % 2 = 1 then
    ((standsAt core).1 + signedLow 5 (d / 2 ^ 49), (standsAt core).2 + signedLow 5 (d / 2 ^ 44))
  else ((d / 2 ^ 49 % 32 : Nat), (d / 2 ^ 44 % 32 : Nat))

/-- x and y are those of a core site (R246). -/
def OnCore (p : Int × Int) : Prop := 1 ≤ p.1 ∧ p.1 ≤ 12 ∧ 1 ≤ p.2 ∧ p.2 ≤ 8

/-- R248, R387, R394: a destination address: reserved bits 0, and a window number in its last four. -/
def DestGood (d : Nat) : Prop := d / 2 ^ 56 = 0xFE ∧ d / 2 ^ 20 % 2 ^ 24 = 0 ∧ d / 16 % 2 ^ 16 = 0

/-- R249, R363, R416: a core admits what another site sends it for a tenant: tenant 0, or its current tenant, which is
its borrower while it is lent, but that one no more from the first step of a reclaim on. -/
abbrev Admits (s : State) (core tenant : Nat) : Prop :=
  let e := coreEntry s core
  tenant = 0 ∨ ((if e.lent then e.borrower else e.owner) = tenant ∧ core ∉ s.disp.reclaims)

/-- R393: a message of the hart in focus. -/
def messageOf (s : State) (user : Nat) (payload : List Byte) : List Byte :=
  dwords [s.hart.job.job.toNat * 2 ^ 32 + s.hart.core * 2 ^ 24 + s.hart.job.tenant * 2 ^ 16 + payload.length, user] ++ payload

/-- R393, R394: whether a window of a core of this device takes a message of `n` bytes, as the status
`msg.send` answers; a fenced core comes before another tenant's (log entry 57: DESIGN CHOICE). -/
def messageStatus (s : State) (core w tenant n : Nat) : Nat :=
  let e := coreEntry s core
  let x := getWin s core w
  if e.fenced then 6
  else if ¬ Admits s core tenant then 3
  else if (x.mode ≠ 2 ∧ x.mode ≠ 5) ∨ 2 ^ x.lsize < (n + 63) / 64 * 64 then 2
  else if 2 ^ x.lsize < (x.fill - x.head).toNat + (n + 63) / 64 * 64 then 1
  else 0

/-- R370, R393: `t` is `s` with a message appended whole at a window's tail. -/
def Appended (s t : State) (core w : Nat) (bs : List Byte) : Prop :=
  (getWin t core w).fill = (getWin s core w).fill + BitVec.ofNat 32 ((bs.length + 63) / 64 * 64) ∧
    (getWin t core w).head = (getWin s core w).head ∧
    ((getWin s core w).resv = [] → (getWin t core w).tail = (getWin t core w).fill) ∧
    t.mem = (putWindow s core w (getWin s core w).fill bs).1.mem

/-- R393, R479: the next input is no message and no chunk of the twin. -/
def NoTwinInput (s : State) : Prop :=
  ∀ d i rest, s.inputs = (d, i) :: rest →
    (∀ c n t h u p, i ≠ .twinMessage c n t h u p) ∧ (∀ c n t b, i ≠ .twinPush c n t b)

/-- R390-R392: the input of a coding command, and its buffer where it combines, as far as no error, no fenced core
and no lost tether keeps them from it. -/
def codingInput (s : State) (c : CodingCmd) : Option (List Byte × List Byte) :=
  match codeGet s c (c.dword 1) (((codeBits c).1 + 7) / 8),
      if c.dword 6 / 2 ^ 45 % 2 = 1 then codeGet s c (c.dword 3) (harqBytes c) else some [] with
  | some x, some h => some (x, h)
  | _, _ => none

/-- R391, R489: every LLR of an LDPC decode that combines with no buffer says bit 0: the zero word is decoded (log
entry 9: DEDUCED). -/
abbrev ZeroWord (c : CodingCmd) (x : List Byte) : Prop :=
  c.dword 0 / 2 ^ 60 = 1 ∧ c.dword 6 / 2 ^ 45 % 2 = 0 ∧ ∀ b ∈ x, 0 < b.toInt

end Sys2Proof.Rules

namespace Sys2Proof.Rules

open Sys2Proof.Machine Sys2Proof.Safety

/-! ### What spools do -/

/-- R384: list `l` of spool `n` is the next to be served. -/
def FirstList (s : State) (n : Nat) (l : SpoolList) : Prop :=
  n < 24 ∧ (∀ m < n, served s m = []) ∧ (served s n).head? = some l

/-- R378, R379: the next command of a list, with its opcode, read and in range. -/
structure NextCommand (s : State) (n : Nat) (l : SpoolList) (s1 : State) (op lo hi : Nat) : Prop where
  first : FirstList s n l
  idle : l.move = .idle ∧ l.fail = none ∧ l.cancel = false
  read : readCmd s n l l.idx = .cmd lo hi s1
  op : hi / 2 ^ 60 % 16 = op
  good : cmdGood l.idx lo hi = true

/-- R379: the list goes on with its next command. -/
def nextOf (s : State) (n : Nat) (l : SpoolList) : State := putList s n { l with idx := l.idx + 1, waiting := false }

/-- R380: the list is to end with a status before its END. -/
def endsWith (s : State) (n : Nat) (l : SpoolList) (status off : Nat) : State :=
  putList s n { l with fail := some ⟨status, off, l.idx⟩, waiting := false }

/-- R380: every chunk the list has sent has arrived. -/
def AllLanded (s : State) (n : Nat) (l : SpoolList) : Prop := ∀ p ∈ s.eng.flight, p.list ≠ (n, l.serial)

/-- R379: the source after a SRC. -/
def sourceSet (l : SpoolList) (lo hi : Nat) : SpoolList :=
  let c := hi % 2 ^ 24
  let d := BitVec.ofNat 64 lo
  if hi / 2 ^ 58 % 4 = 0 then
    { l with
      base := d, run := hi % 2 ^ 18, hasSrc := true, gather := none
      cnt1 := 1, cnt2 := 1, cnt3 := 1, str1 := 0, str2 := 0, str3 := 0 }
  else if hi / 2 ^ 58 % 4 = 1 then { l with cnt1 := c, str1 := d }
  else if hi / 2 ^ 58 % 4 = 2 then { l with cnt2 := c, str2 := d }
  else { l with cnt3 := c, str3 := d }

/-- R379: the destination after a DST. -/
def destSet (l : SpoolList) (lo hi : Nat) : SpoolList :=
  { l with
    hasDst := true, twin := hi / 2 ^ 57 % 2 = 1, rect := hi / 2 ^ 56 % 2 = 1
    x0 := hi / 2 ^ 51 % 32, y0 := hi / 2 ^ 46 % 32, x1 := hi / 2 ^ 41 % 32, y1 := hi / 2 ^ 36 % 32
    window := hi / 2 ^ 32 % 16, dmask := BitVec.ofNat 64 lo }

/-- R380: the conversion after a CVT. -/
def conversionSet (hi : Nat) : Option (Nat × Nat × BitVec 3 × Bool) :=
  let f := hi / 2 ^ 55 % 32
  let t := hi / 2 ^ 50 % 32
  if f = t then none else some (f, t, BitVec.ofNat 3 (hi / 2 ^ 47 % 8), hi / 2 ^ 46 % 2 == 1)

/-- R320: the record of a list. -/
def spoolRecord (n : Nat) (l : SpoolList) (status off idx : Nat) : List Byte :=
  dwords [l.job.toNat * 2 ^ 32 + n * 2 ^ 24 + l.tenant * 2 ^ 16 + 2 * 2 ^ 8 + status, off, l.refused.toNat,
    idx * 2 ^ 56 + l.delivered % 2 ^ 32]

/-- The size of an element of a type in bytes, 1 where there is no conversion (R380). -/
def fromSize (l : SpoolList) : Nat := match l.conv with | some c => widthOfType c.1 / 8 | none => 1
def toSize (l : SpoolList) : Nat := match l.conv with | some c => widthOfType c.2.1 / 8 | none => 1

/-- R379: the runs of the source. -/
def runsOf (l : SpoolList) : Nat := match l.gather with | some g => g.2 | none => l.cnt1 * l.cnt2 * l.cnt3

/-- R379: the core of receiver `r`, and whether it is enabled (R386). -/
def receiverCore (l : SpoolList) (r : Nat) : Nat :=
  (l.y0 + r / (l.x1 - l.x0 + 1) - 1) * 12 + (l.x0 + r % (l.x1 - l.x0 + 1) - 1)
def Enabled (l : SpoolList) (r : Nat) : Prop :=
  r < 64 ∧ r < (l.x1 - l.x0 + 1) * (l.y1 - l.y0 + 1) ∧ l.dmask.getLsbD r = true ∧ l.andMask.getLsbD r = true

/-- R378: the rectangle of a destination lies in the core array. -/
def OnArray (l : SpoolList) : Prop :=
  1 ≤ l.x0 ∧ l.x0 ≤ l.x1 ∧ l.x1 ≤ 12 ∧ 1 ≤ l.y0 ∧ l.y0 ≤ l.y1 ∧ l.y1 ≤ 8

/-- R249, R363: the tenant of a list may reach a core, which is not fenced. -/
def MayReach (s : State) (tenant core : Nat) : Prop :=
  (coreEntry s core).fenced = false ∧ Admits s core tenant

/-- R370: a window has room for `n` more bytes. -/
def FitsIn (w : Window) (n : Nat) : Prop := (w.fill - w.head).toNat + (n + 63) / 64 * 64 ≤ 2 ^ w.lsize

/-- R382: a core accepts a multicast of `n` bytes. -/
def Accepts (s : State) (l : SpoolList) (core n : Nat) : Prop :=
  let w := getWin s core l.window
  MayReach s l.tenant core ∧ (w.mode = 1 ∨ w.mode = 3) ∧ w.claimed = false ∧ FitsIn w n

/-- R370, R381: a window with `n` bytes reserved and claimed for a spool. -/
def reservedBy (w : Window) (n spool : Nat) : Window :=
  let m := (n + 63) / 64 * 64
  { w with
    fill := w.fill + BitVec.ofNat 32 m, claimed := true, claimant := spool
    resv := w.resv ++ [{ start := w.fill, len := m, data := n, todo := n }] }

/-- R369, R381: a list of spool `n` has begun a move into a window, or has chunks on their way to it. -/
def MovesInto (s : State) (n : Nat) (x : SpoolList) (core w : Nat) : Prop :=
  (∃ p ∈ s.eng.flight, p.list = (n, x.serial) ∧ p.core = core ∧ p.window = w) ∨
  (∃ off, x.move = .push off ∧ 0 < off ∧ x.twin = false ∧ x.copyTo = none ∧
    (x.y0 - 1) * 12 + (x.x0 - 1) = core ∧ x.window = w) ∨
  (∃ off d, x.move = .mcast off d ∧ ∃ y ∈ d, y.1 = core ∧ y.2.1 = w)

end Sys2Proof.Rules

namespace Sys2Proof.Rules

open Sys2Proof.Machine Sys2Proof.Safety

/-! ### Harts that do not issue -/

/-- R161: the convoy at the head of a queue has begun. -/
def begunConvoy (e : QEntry) (q : List QEntry) : List QEntry :=
  { e with live := true } :: ((q.takeWhile fun x => x.joins).map fun x => { x with live := true }) ++
    q.dropWhile fun x => x.joins

/-- R310: of several pending imprecise traps the one whose instruction is earliest in program order. -/
def Earliest (l : List Pend) (p : Pend) : Prop :=
  ∃ a b, l = a ++ p :: b ∧ (∀ x ∈ a, p.order < x.order) ∧ ∀ x ∈ b, p.order ≤ x.order

/-- R310: the hart stands where an event can be taken: between units, one having completed since the event was
raised, at a unit that waits or stalls at its queues (log entry 49: DEDUCED), or behind a resynchronising
instruction in a queue. -/
def AtBoundary (h : Hart) : Prop :=
  h.stage = .running ∧ h.pend = [] ∧
    ((h.block = .none ∧ h.ranSince = true) ∨ (∃ i, h.blockedBy = some i ∧ Machine.Instr.waits i = true) ∨
      h.block = .queue ∨ h.block = .order ∨ ∃ e ∈ h.queue, e.instr.resync = true)

/-- R240, R312: no `mop` that has begun stands at the head of the queue, to run out before a cut. -/
def NoBegunMop (h : Hart) : Prop := ∀ e q, h.queue = e :: q → isMop e.instr = true → e.begun = false

/-- A job's deadline, the first part of its place in the order of records (R339). -/
def keyOf (s : State) (j : Job) : Nat := (treeDeadline s j.tree).toNat

/-- R339: record `x` comes before `y`: by deadline, tree id and arrival. -/
def Before (s : State) (x y : Job) : Prop :=
  keyOf s x < keyOf s y ∨
    (keyOf s x = keyOf s y ∧ (x.tree.toNat < y.tree.toNat ∨ (x.tree = y.tree ∧ x.arrival < y.arrival)))

/-- R335: the record a core would bind: of those the service complex does not hold, one of the earliest
deadline, and first in its class. -/
def FirstReady (s : State) (c : Nat) (j : Job) : Prop :=
  ∃ a b, ((getReady s c).filter fun x => !x.held) = a ++ j :: b ∧ (∀ x ∈ a, keyOf s j < keyOf s x) ∧
    ∀ x ∈ b, keyOf s j ≤ keyOf s x

/-- R341: the record of job `j`, which has run, comes back into the store of core `c`, at the spawn end of its
class, but behind a record of that class that comes before it and is to bind (log entry 40: DEDUCED). -/
def ComesBack (s t : State) (c : Nat) (j : Job) : Prop := ∃ r : Job,
  let comesFirst (d : Job) := FirstReady s c d ∧ keyOf s d = keyOf s j ∧ keyOf s d ≠ 2 ^ 64 - 1 ∧ Before s d j
  (∀ d, comesFirst d → ∃ a b, getReady s c = a ++ d :: b ∧ d ∉ a ∧ getReady t c = a ++ d :: r :: b) ∧
  ((∀ d, ¬ comesFirst d) → getReady t c = r :: getReady s c) ∧
  r.job = j.job ∧ r.tree = j.tree ∧ r.tenant = j.tenant ∧ r.record = j.record ∧ r.ran = true ∧ r.steal = false ∧
  r.arrival = j.arrival

/-- R335, R362: core `c` may bind job `j` now, and no earlier core has a record; one being lent binds none
that has not begun. -/
def MayBind (s : State) (c : Nat) (j : Job) : Prop :=
  c < 96 ∧ (∀ d < c, getReady s d = []) ∧ coreDead s c = false ∧ c ∉ s.disp.reclaims ∧
    (j.ran = false → mapGet none s.disp.lending c = none) ∧ FirstReady s c j ∧ treeAbandoned s j.tree = false ∧
    s.time.now.toNat < keyOf s j

/-- R336: the pages of a job's save area, translated. -/
def SaveArea (s : State) (j : Job) (pages : List SavePage) (s1 : State) : Prop :=
  translateSave s j.tenant ((List.range ((5120 + 2560 * j.record.width + 4095) / 4096)).map fun i =>
    j.record.save.toNat + 4096 * i) = (some pages, s1)

/-- The hart of lane block `b` of core `c` stands under its own number. -/
def InPlace (s : State) (c b : Nat) : Prop := (getHart s (8 * c + b)).core = c ∧ (getHart s (8 * c + b)).hid = b

/-- R110: the registers and control registers of a job that begins at a hart. -/
def Begins (s : State) (j : Job) (h : Hart) : Prop :=
  h.stage = .running ∧ h.width = j.record.width ∧ h.pc = j.record.entry ∧
    (∀ r, mapGet 0 h.s r = match r with
      | 1 => j.record.a0 | 2 => j.record.a1 | 3 => j.record.a2 | 4 => j.record.a3
      | 5 => BitVec.ofNat 64 j.rank | 6 => BitVec.ofNat 64 j.size | 7 => j.job.zeroExtend 64 | _ => 0) ∧
    h.tr = {} ∧ h.fcsr = 0 ∧ h.len = {} ∧ h.v = [] ∧ h.k = [] ∧ h.rs = [] ∧ h.spilled = 0 ∧ h.mmode = false ∧
    h.queue = [] ∧ h.jprog = 0 ∧ h.vsync = 0 ∧ h.jdl = treeDeadline s j.tree ∧
    h.rsBase = 64 * j.record.spill ∧ h.rsCap = j.record.cap ∧
    h.job.tenant = j.tenant ∧ h.job.tree = j.tree ∧ h.job.job = j.job

/-- R271, R315, R316, R336: what a job that resumes finds in its save area, whose translations its core has
kept, the mode its header gives (log entry 50: DEDUCED), and the posted traps that have not reached it. -/
def Resumes (s : State) (j : Job) (h : Hart) : Prop :=
  let pages := j.pages
  let d (off : Nat) := saveDword s pages off
  h.stage = .running ∧ h.width = j.record.width ∧ h.pc = BitVec.ofNat 48 (d 0x408) ∧
    (∀ r, 1 ≤ r → r < 32 → mapGet 0 h.s r = BitVec.ofNat 64 (d (0x200 + 8 * r))) ∧
    h.jprog = BitVec.ofNat 64 (d (8 * 11)) ∧ h.tr.tval = BitVec.ofNat 64 (d (8 * 16)) ∧
    h.tr.tscratch = BitVec.ofNat 64 (d (8 * 18)) ∧ h.len.vl = d 8 % 2 ^ 15 ∧
    (∀ r < 64, mapGet 0 h.v r = BitVec.ofNat 8192
      (natOfBytes (saveGet s pages (0x1400 + 512 * j.record.width + 32 * j.record.width * r) (32 * j.record.width)))) ∧
    h.job.tenant = j.tenant ∧ h.job.tree = j.tree ∧ h.job.job = j.job ∧ h.posted = j.posted ∧
    (h.mmode = true ↔ d 0 / 2 ^ 41 % 2 = 1) ∧ h.units = j.units + 1

end Sys2Proof.Rules

namespace Sys2Proof.Rules

open Sys2Proof.Machine Sys2Proof.Safety

/-! ### Inputs, host commands and the service complex -/

/-- The input that comes next. -/
def Given (s : State) (i : Input) : Prop := ∃ t rest, s.inputs = (t, i) :: rest

/-- The machine once that input is taken. -/
def taken (s : State) : State := { s with inputs := s.inputs.drop 1 }

/-- R452, R476: what a result does to a function's registers. -/
def resultFn (n : Fn) : Fn := { n with resTail := n.resTail + 1, msix := n.msix + 1 }

/-- R452: a result written at the result tail of a function: header, r0, r1 and the time. -/
def withResult (s : State) (f : Nat) (seq : BitVec 32) (op st : Nat) (r0 r1 : Dword) (time : Nat) : State :=
  let n := getFn s f
  setFn (pokeLoc s 0 (hostLoc (n.results.toNat + 32 * (n.resTail.toNat % 2 ^ n.order)))
    (dwords [seq.toNat * 2 ^ 32 + op * 2 ^ 16 + (if Config.firstPhase = n.resTail.toNat.testBit n.order then 0 else 1) * 2 ^ 15 + st,
      r0.toNat, r1.toNat, time])) f (resultFn n)

/-- R459: a function's journal with an entry more, of which the last 256 stay. -/
def journalled256 (n : Fn) (e : JEntry) : Fn :=
  { n with
    journal := (n.journal ++ [e]).drop ((n.journal ++ [e]).length - 256)
    highest := some (match n.highest with
      | some h => if e.seq.toNat ≤ h.toNat then h else e.seq
      | none => e.seq) }

/-- R449: an event enters the queue of 1,024, or its source holds it. -/
def withEvent (s : State) (e : SvcEvent) : State :=
  if s.svc.events.length < 1024 then { s with svc := { s.svc with events := s.svc.events ++ [e] } }
  else { s with svc := { s.svc with held := s.svc.held ++ [e] } }

/-- R449, R450: a queue that has commands to take and whose lock is free has its doorbell's event once. -/
def rung (s : State) (f : Nat) : State :=
  let n := getFn s f
  if n.head ≠ n.tail ∧ n.err = false ∧ n.needTail = false ∧ (∀ h ∈ s.svc.cmds, h.cmd.fn ≠ f) ∧
      SvcEvent.command f ∉ s.svc.events ∧ SvcEvent.command f ∉ s.svc.held then withEvent s (.command f) else s

/-- The first command in hand is done with, and the translations that were asked for it with it. -/
def freeHands (s : State) : State :=
  { s with
    svc := { s.svc with cmds := s.svc.cmds.drop 1 }
    tab := { s.tab with
      walks := s.tab.walks.filter fun r => r.hart != 1101
      ats := s.tab.ats.map fun q => { q with joined := q.joined.filter fun r => r.hart != 1101 }
      faults := s.tab.faults.filter fun f => f.req.hart != 1101 } }

/-- R450, R453, R459: the command ends in one commit: its entry in the journal and its result; its queue's lock
is free again. -/
def committed (s : State) (c : Command) (st : Nat) (r0 r1 : Dword) : State :=
  let u := freeHands s
  let t := s.time.now.toNat
  rung (withResult (setFn u c.fn (journalled256 (getFn u c.fn) ⟨c.seq, c.op, 1, st, r0, r1, t⟩)) c.fn c.seq c.op st r0 r1 t) c.fn

/-- R458: the command commits, and its result is left to the end of its work. -/
def deferred (s : State) (c : Command) (k : DeferKind) : State :=
  let t := s.time.now.toNat
  let u := setFn (freeHands s) c.fn (journalled256 (getFn s c.fn) ⟨c.seq, c.op, 1, 0, 0, 0, t⟩)
  rung { u with svc := { u.svc with deferred := s.svc.deferred ++ [⟨c.fn, c.seq, c.op, t, k⟩] } } c.fn

/-- The command in hand ends with a status and results, having turned the machine into some `u`. -/
def Answers (i : Instr) (s : State) (c : Command) (st : Nat) (r0 r1 : Dword) (P : State → Prop) : Prop :=
  ∃ u, exec i s = .next (committed u c st r0 r1) ∧ P u

/-- The command in hand commits with deferred work, having turned the machine into some `u`. -/
def Defers (i : Instr) (s : State) (c : Command) (k : DeferKind) (P : State → Prop) : Prop :=
  ∃ u, exec i s = .next (deferred u c k) ∧ P u

/-- R453: the command in hand is refused with a status, and nothing else changes. -/
def Refused (i : Instr) (s : State) (c : Command) (st : Nat) : Prop := exec i s = .next (committed s c st 0 0)

/-- The operands of a command. -/
def operands (c : Command) : List Dword := [c.p0, c.p1, c.p2, c.p3, c.p4, c.p5, c.p6]

/-- R454, R455: the host commands: instruction, opcode, how many operands it lists, and whether only the
physical function may give it. -/
def hostCommands : List (Instr × Nat × Nat × Bool) :=
  [(.queueCreate, 0x01, 6, false), (.queueDestroy, 0x02, 1, false), (.tenantCreate, 0x03, 5, true),
   (.tenantDestroy, 0x04, 1, true), (.ptAttach, 0x05, 2, true), (.lend, 0x06, 4, false), (.reclaim, 0x07, 1, false),
   (.reclaimAt, 0x08, 2, false), (.slotSet, 0x09, 2, true), (.bridleSet, 0x0A, 2, true), (.launch, 0x0B, 1, false),
   (.gangLaunch, 0x0C, 2, false), (.copy, 0x0D, 4, false), (.signal, 0x0E, 2, false), (.codingCfg, 0x0F, 2, true),
   (.telemetry, 0x10, 3, true), (.attest, 0x11, 4, false), (.partReset, 0x12, 1, true), (.debugSession, 0x13, 2, true),
   (.debugHalt, 0x14, 1, true), (.debugRead, 0x15, 2, true), (.debugResume, 0x16, 1, true), (.keySet, 0x17, 3, true),
   (.alloc, 0x18, 4, true), (.fenceCmd, 0x19, 1, true), (.powerLimit, 0x1A, 1, true), (.queryResult, 0x1B, 1, false)]

/-- The command `c` is the first of those in hand. -/
def First (s : State) (c : Command) : Prop := ∃ h rest, s.svc.cmds = h :: rest ∧ h.cmd = c

/-- The command `c` of an instruction is in hand, its function may give it, and the operands it does not
list are 0. -/
def InHand (i : Instr) (s : State) (c : Command) : Prop :=
  First s c ∧ ∃ n pf, (i, c.op, n, pf) ∈ hostCommands ∧ (∀ v ∈ (operands c).drop n, v = 0) ∧ (pf = true → c.fn = 0)

/-- R449, R473: a service core is idle, released from reset and able to take an event. -/
def SvcIdle (s : State) : Prop :=
  s.svc.restarting = false ∧ 3 ≤ s.svc.boot ∧ ∃ c < 12, ∀ h ∈ s.svc.cmds, h.core ≠ c

/-- R449: the oldest event is taken, and one that its source held enters the queue of `rest`. -/
def EventTaken (s t : State) (rest : List SvcEvent) : Prop :=
  t.svc.events = rest ++ s.svc.held.take 1 ∧ t.svc.held = s.svc.held.drop 1

/-- R408, R413: a refusal reaches its requesters; records of a page that cannot be translated are not
written (log entry 25: DESIGN CHOICE). -/
def refused (s : State) (l : List WalkReq) (cause : Nat) : State :=
  let record (x : WalkReq) : Bool := x.hart == 1100 && x.kind == .write
  { s with
    tab := { s.tab with faults := s.tab.faults ++ (l.filter fun x => !record x).map fun x => ⟨x, cause⟩ }
    eng := { s.eng with late := s.eng.late.filter fun w => w.asked.isSome ||
      !(l.any fun x => record x && w.tenant == x.tenant && w.va / 4096 * 4096 == x.va) } }

/-- R402: the fields of a page entry that is a leaf: owner, key, home, cacheability, page frame, c64, the marks access
and dirty, and the permissions write and execute. -/
structure Leaf where
  owner : Nat
  key : Nat
  home : Nat
  cache : Nat
  frame : Nat
  c64 : Nat
  marks : Nat
  perms : Nat

/-- R402: the fields' widths. -/
def Leaf.InRange (f : Leaf) : Prop :=
  f.owner < 64 ∧ f.key < 64 ∧ f.home < 4 ∧ f.cache < 4 ∧ f.frame < 2 ^ 28 ∧ f.c64 < 2 ∧ f.marks < 4 ∧ f.perms < 4

/-- R402: the entry. -/
def Leaf.word (f : Leaf) : Nat :=
  f.owner * 2 ^ 58 + f.key * 2 ^ 52 + f.home * 2 ^ 50 + f.cache * 2 ^ 48 + f.frame * 2 ^ 12 + f.c64 * 2 ^ 7 + 2 ^ 6 +
    f.marks * 2 ^ 4 + f.perms * 2 ^ 2 + 1

/-- R401: the size of the page of a leaf at a level. -/
def Leaf.size (f : Leaf) (lvl : Nat) : Nat :=
  if lvl = 1 then 2 ^ 30 else if lvl = 2 then 2 ^ 21 else if f.c64 = 1 then 2 ^ 16 else 2 ^ 12

/-- R401: where the entry of an address stands in a table of a level. -/
def slotOf (va tb lvl : Nat) : Nat := tb + 8 * (va / 2 ^ (39 - 9 * lvl) % 512)

/-- R401-R403: the walk of an address reaches the table at `tb` as that of a level. -/
def TableAt (s : State) (root va : Nat) : Nat → Nat → Prop
  | 0, tb => tb = root
  | n + 1, tb => tb % 4096 = 0 ∧ tb < 2 ^ 40 ∧ ∃ t, TableAt s root va n t ∧ slotOf va t n < 192 * 2 ^ 30 ∧
      readNat s 0 (slotOf va t n) 8 = some (tb + 1)

/-- R403: the checks of a leaf. -/
def LeafGood (s : State) (T va : Nat) (kind : Kind) (lvl : Nat) (f : Leaf) : Prop :=
  lvl ≠ 0 ∧ (f.c64 = 1 → lvl = 3 ∧ f.frame % 16 = va / 2 ^ 12 % 16) ∧ (lvl = 1 → f.frame % 2 ^ 18 = 0) ∧
  (lvl = 2 → f.frame % 2 ^ 9 = 0) ∧ f.home ≠ 3 ∧ f.cache ≠ 3 ∧ (T ≠ 0 → f.owner = T) ∧
  (f.home = 0 → f.frame * 4096 / f.size lvl * f.size lvl + f.size lvl ≤ 192 * 2 ^ 30) ∧ (f.home = 2 → f.frame = 0) ∧
  (f.key ≠ 0 → f.home = 0 ∧ (mapGet {} s.tab.keys f.key).valid = true ∧ (mapGet {} s.tab.keys f.key).tenant = f.owner) ∧
  (kind = .write → f.perms % 2 = 1) ∧ (kind = .fetch → f.perms / 2 = 1)

/-- R412: an ATS Translation Request of the tenant's PASID for a walk that ended at a host leaf. -/
def asksAts (s : State) (r : WalkReq) (mine : List WalkReq) (leaf pa size : Nat) : State :=
  { s with tab := { s.tab with ats := s.tab.ats ++ [{
      req := r, pasid := (mapGet ({} : TenantEntry) s.tab.tenants r.tenant).pasid, joined := mine
      leaf := leaf, pa := pa, size := size }] } }

/-- R451: bytes that a command reads, or a page of them that it cannot, with what the translations left. -/
def ReadsAt (s : State) (T : Nat) (ea : Dword) (bs : List Byte) (u : State) : Prop :=
  ∃ s1, spanCheck s T ea bs.length .read = .ok s1 ∧
    (spanOf ea bs.length).foldl (pieceRead T ea) (some [], s1) = (some bs, u)

/-- Dword `i` of a buffer. -/
def dw (bs : List Byte) (i : Nat) : Nat := natOfBytes ((bs.drop (8 * i)).take 8)

/-- R464: the hart in focus stands at the service complex with the oldest event there, its trap; its cause and
`tval` are those of its restart record. -/
def TrapOf (s : State) (j : Job) (rest : List SvcEvent) (cause tval : Nat) : Prop :=
  SvcIdle s ∧ s.svc.events = .trap j.job :: rest ∧ s.hart.stage = .service ∧ s.hart.job = j ∧ j.held = true ∧
    s.hart.core < 96 ∧ s.hart.hid < 8 ∧ saveDword s j.pages 0x400 / 256 % 256 = cause ∧ saveDword s j.pages 0x410 = tval

/-- The first 8 bytes of a ring entry are its time, and the sequence word closes it (R471, R472). -/
def LoggedAt (s t : State) (kind : Nat) : Prop :=
  t.svc.claim = s.svc.claim + 1 ∧
    natOfBytes (getBytes t.mem (ringLoc (32 * (s.svc.claim.toNat % 4096))) 8) = t.time.now.toNat ∧
    natOfBytes (getBytes t.mem (ringLoc (32 * (s.svc.claim.toNat % 4096) + 14)) 2) = kind ∧
    natOfBytes (getBytes t.mem (ringLoc (32 * (s.svc.claim.toNat % 4096) + 24)) 8) = (s.svc.claim + 1).toNat

end Sys2Proof.Rules

namespace Sys2Proof.Rules

open Sys2Proof.Machine Sys2Proof.Safety

/-! ### The host commands, one by one -/

/-- R328, R455: QUEUE_CREATE. -/
def QueueCreateRule (s : State) (c : Command) : Prop :=
  InHand .queueCreate s c → let q := c.p0.toNat
    let t := c.p5.toNat % 64
    let good := q < 192 ∧ c.p1.toNat % 64 = 0 ∧ c.p1.toNat < 2 ^ 48 ∧ (∃ k, 1 ≤ k ∧ k ≤ 12 ∧ c.p2.toNat = 2 ^ k) ∧
      c.p4.toNat < 2 ^ 32 ∧ c.p5.toNat < 2 ^ 16 ∧ c.p5.toNat / 64 % 4 = 0 ∧ (128 ≤ q → 256 ≤ c.p5.toNat) ∧
      (mapGet {} s.tab.tenants t : TenantEntry).valid = true
    let own := t = c.fn ∧ ((getQ s q).created = true → (getQ s q).tenant = c.fn)
    let free := (getQ s q).created = false ∨ (getQ s q).stopped = true
    (¬ good → Refused .queueCreate s c 2) ∧ (good → ¬ own → Refused .queueCreate s c 3) ∧
    (good → own → ¬ free → Refused .queueCreate s c 4) ∧
    (good → own → free → Answers .queueCreate s c 0 0 0 fun u => u = setQ s q
      ⟨true, t, c.p1, c.p2.toNat, c.p4.toNat * 2 ^ 64 + c.p3.toNat, c.p5.toNat / 256, 0, 0, false⟩)

/-- R328: QUEUE_DESTROY. -/
def QueueDestroyRule (s : State) (c : Command) : Prop :=
  InHand .queueDestroy s c → let q := c.p0.toNat
    (192 ≤ q ∨ (getQ s q).created = false → Refused .queueDestroy s c 2) ∧
    (q < 192 → (getQ s q).created = true → (getQ s q).tenant ≠ c.fn → Refused .queueDestroy s c 3) ∧
    (q < 192 → (getQ s q).created = true → (getQ s q).tenant = c.fn → Answers .queueDestroy s c 0 0 0 fun u => u = setQ s q {})

/-- R415, R416, R456: TENANT_CREATE. -/
def TenantCreateRule (s : State) (c : Command) : Prop :=
  InHand .tenantCreate s c → let t := c.p0.toNat
    let mask := c.p4.toNat * 2 ^ 64 + c.p3.toNat
    let good := 1 ≤ t ∧ t ≤ 63 ∧ 1 ≤ c.p1.toNat ∧ c.p1.toNat ≤ 255 ∧ c.p2.toNat / 2 ^ 20 % 2 ^ 43 = 0 ∧
      c.p4.toNat < 2 ^ 32 ∧ mask ≠ 0
    let free := (mapGet {} s.tab.tenants t : TenantEntry).valid = false ∧ ∀ k < 96, mask.testBit k = true → coreIdle s k = true
    (¬ good → Refused .tenantCreate s c 2) ∧ (good → ¬ free → Refused .tenantCreate s c 4) ∧
    (good → free → ∃ p, p < 96 ∧ Answers .tenantCreate s c 0 (BitVec.ofNat 64 p) 0 fun u =>
      mapGet {} u.tab.tenants t = { (mapGet {} s.tab.tenants t : TenantEntry) with
        valid := true, weight := c.p1.toNat, pv := c.p2.toNat.testBit 63, pasid := c.p2.toNat % 2 ^ 20 } ∧
      (∀ k < 96, mask.testBit k = true → (coreEntry u k).owner = t ∧ (coreEntry u k).part = p) ∧
      (∀ k < 96, mask.testBit k = false → coreEntry u k = coreEntry s k ∧ (coreEntry s k).part ≠ p))

/-- R415, R418, R455, R458: TENANT_DESTROY. -/
def TenantDestroyRule (s : State) (c : Command) : Prop :=
  InHand .tenantDestroy s c → let t := c.p0.toNat
    let good := 1 ≤ t ∧ t ≤ 63 ∧ (mapGet {} s.tab.tenants t : TenantEntry).valid = true
    (¬ good → Refused .tenantDestroy s c 2) ∧
    (good → Defers .tenantDestroy s c (.done 0 0 0) fun u =>
      mapGet {} u.tab.tenants t = { (mapGet {} s.tab.tenants t : TenantEntry) with valid := false } ∧
      ∀ k ∈ u.tab.keys, k.2.tenant = t → k.2.valid = false)

/-- R410, R415, R456: PT_ATTACH. -/
def PtAttachRule (s : State) (c : Command) : Prop :=
  InHand .ptAttach s c → let t := c.p0.toNat
    let good := t ≤ 63 ∧ (mapGet {} s.tab.tenants t : TenantEntry).valid = true ∧ c.p1.toNat % 4096 = 0 ∧ c.p1.toNat < 192 * 2 ^ 30
    let busy := ∃ x ∈ boundJobs s, x.2.tenant = t
    (¬ good → Refused .ptAttach s c 2) ∧ (good → busy → Refused .ptAttach s c 4) ∧
    (good → ¬ busy → Defers .ptAttach s c (.inval t) fun u =>
      mapGet {} u.tab.tenants t = { (mapGet {} s.tab.tenants t : TenantEntry) with root := c.p1.toNat } ∧
      u.tab.invals = s.tab.invals ++ [{ tenant := t, va := 0, size := 2 ^ 48, host := false }] ∧
      ∀ k, ∀ e ∈ mapGet [] u.tab.coreTlb k ++ mapGet [] u.tab.groupTlb k, e.tenant = t → e.va < 2 ^ 48 → e.size = 0)

/-- R362, R458: LEND. -/
def LendRule (s : State) (c : Command) : Prop :=
  InHand .lend s c → let k := c.p0.toNat
    let b := c.p1.toNat
    let good := k < 96 ∧ b ≤ 63 ∧ (mapGet {} s.tab.tenants b : TenantEntry).valid = true ∧ c.p3.toNat < 2 ^ 48
    let free := (coreEntry s k).lent = false ∧ coreOpen s k = true ∧ b ≠ (coreEntry s k).owner
    (¬ good → Refused .lend s c 2) ∧ (good → (coreEntry s k).owner ≠ c.fn → Refused .lend s c 3) ∧
    (good → (coreEntry s k).owner = c.fn → ¬ free → Refused .lend s c 4) ∧
    (good → (coreEntry s k).owner = c.fn → free → Defers .lend s c (.lend k) fun u =>
      mapGet none u.disp.lending k = some { borrower := b, time := c.p2, image := c.p3, fn := c.fn, seq := c.seq } ∧
      getReady u k = (getReady s k).filter (fun j => j.ran) ∧
      u.disp.pool = s.disp.pool ++ (getReady s k).filter (fun j => !j.ran) ∧ u.tab = s.tab ∧ u.mem = s.mem)

/-- R363, R461: RECLAIM, which also cancels a LEND. -/
def ReclaimRule (s : State) (c : Command) : Prop :=
  InHand .reclaim s c → let k := c.p0.toNat
    (96 ≤ k → Refused .reclaim s c 2) ∧ (k < 96 → (coreEntry s k).owner ≠ c.fn → Refused .reclaim s c 3) ∧
    (k < 96 → (coreEntry s k).owner = c.fn → mapGet none s.disp.lending k = none → (coreEntry s k).lent = true →
      k ∉ s.disp.reclaims → Defers .reclaim s c (.reclaim k) fun u => u.disp.reclaims = s.disp.reclaims ++ [k] ∧ u.mem = s.mem) ∧
    (k < 96 → (coreEntry s k).owner = c.fn → (coreEntry s k).lent = false → k ∉ s.disp.reclaims → ∀ l,
      mapGet none s.disp.lending k = some l → Defers .reclaim s c (.done 0 0 0) fun u =>
        mapGet none u.disp.lending k = none ∧ u.tab = s.tab ∧
        ∀ d, d ∈ s.svc.deferred → d.kind = .lend k → { d with kind := .done 4 0 0 } ∈ u.svc.deferred)

/-- R430: RECLAIM_AT. -/
def ReclaimAtRule (s : State) (c : Command) : Prop :=
  InHand .reclaimAt s c → let k := c.p0.toNat
    (96 ≤ k → Refused .reclaimAt s c 2) ∧ (k < 96 → (coreEntry s k).owner ≠ c.fn → Refused .reclaimAt s c 3) ∧
    (k < 96 → (coreEntry s k).owner = c.fn → Answers .reclaimAt s c 0 0 0 fun u =>
      u = { s with disp := { s.disp with reclaimAt := mapSet none s.disp.reclaimAt k (some c.p1) } })

/-- R423, R424, R456: SLOT_SET. -/
def SlotSetRule (s : State) (c : Command) : Prop :=
  ∀ bs u, InHand .slotSet s c → (128 ≤ c.p0.toNat → Refused .slotSet s c 2) ∧
    (c.p0.toNat < 128 → bs.length = 128 → ReadsAt s c.fn c.p1 bs u →
      let period := dw bs 0 / 2 ^ 60 % 8
      let good := period ≤ 3 ∧ dw bs 0 / 2 ^ 6 % 2 ^ 54 = 0 ∧ dw bs 2 < 2 ^ 32 ∧ dw bs 3 < 2 ^ 32 ∧ dw bs 5 < 2 ^ 32 ∧
        dw bs 2 ≤ 4 * (1000000 / 2 ^ period)
      (¬ good → Answers .slotSet s c 2 0 0 fun v => v = u) ∧
      (good → Answers .slotSet s c 0 0 0 fun v => v.mem = u.mem ∧ let e := getSlot v c.p0.toNat;
        e.enable = (dw bs 0).testBit 63 ∧ e.period = period ∧ e.tenant = dw bs 0 % 64 ∧ e.phase.toNat = dw bs 1 ∧
        e.lead = dw bs 2 ∧ e.offset = dw bs 3 ∧ e.mask = dw bs 5 * 2 ^ 64 + dw bs 4 ∧ e.created = 0 ∧ e.skipped = 0 ∧
        e.template = BitVec.ofNat 512 (natOfBytes (bs.drop 64))))

/-- R419: BRIDLE_SET. -/
def BridleSetRule (s : State) (c : Command) : Prop :=
  ∀ bs u, InHand .bridleSet s c → c.p0.toNat / 16 % 2 ^ 12 = 0 → c.p0.toNat < 2 ^ 26 → bs.length = 32 →
    ReadsAt s c.fn c.p1 bs u →
    let f (hi lo : Nat) := dw bs 0 / 2 ^ lo % 2 ^ (hi + 1 - lo)
    let good := f 61 60 ≤ 1 ∧ f 15 14 ≤ 1 ∧ f 13 12 ≤ 2 ∧ f 10 7 = 0 ∧ dw bs 3 % 2 ^ 32 = 0 ∧
      f 59 56 ≤ f 55 52 ∧ f 55 52 ≤ 13 ∧ 1 ≤ f 29 25 ∧ f 29 25 ≤ 12 ∧ 1 ≤ f 24 20 ∧ f 24 20 ≤ 8 ∧
      currentTenant u ((f 24 20 - 1) * 12 + (f 29 25 - 1)) = f 35 30
    (¬ good → Answers .bridleSet s c 2 0 0 fun v => v = u) ∧
    (good → Answers .bridleSet s c 0 0 0 fun v => v.mem = u.mem ∧
      getBridle v (c.p0.toNat % 16) (c.p0.toNat / 2 ^ 16) = { cfg0 := BitVec.ofNat 64 (dw bs 0), cfg1 := BitVec.ofNat 64 (dw bs 1) })

/-- R457: CODING_CFG. -/
def CodingCfgRule (s : State) (c : Command) : Prop :=
  InHand .codingCfg s c → (26 ≤ c.p0.toNat → Refused .codingCfg s c 2) ∧
    (c.p0.toNat < 26 → Answers .codingCfg s c 0 0 0 fun u =>
      (getEng u c.p0.toNat).denied = ~~~ c.p1 ∧ (∀ k, k ≠ c.p0.toNat → getEng u k = getEng s k) ∧ u.mem = s.mem)

/-- R431, R434, R456: ALLOC. -/
def AllocRule (s : State) (c : Command) : Prop :=
  InHand .alloc s c → let n := c.p1.toNat
    let z := c.p2.toNat
    let t := c.p3.toNat
    let good := c.p0.toNat ≤ 1 ∧ t ≤ 63 ∧ (mapGet {} s.tab.tenants t : TenantEntry).valid = true ∧
      n + z ≤ (if c.p0 = 0 then 4096 else 384)
    let busy := if c.p0 = 0 then ∃ k < z, (getCtr s (n + k)).state = .pending
      else ∃ k < z, (mapGet {} s.barriers (n + k) : Barrier).count ≠ 0
    (¬ good → Refused .alloc s c 2) ∧ (good → busy → Refused .alloc s c 4) ∧
    (good → ¬ busy → Answers .alloc s c 0 0 0 fun u => u.mem = s.mem ∧
      (∀ k < z, (c.p0 = 0 → (getCtr u (n + k)).owner = t ∧ (getCtr u (n + k)).state = .idle) ∧
        (c.p0 = 1 → (mapGet {} u.barriers (n + k) : Barrier).owner = t)) ∧
      ∀ k, k < n ∨ n + z ≤ k → getCtr u k = getCtr s k ∧ (mapGet {} u.barriers k : Barrier) = mapGet {} s.barriers k)

/-- R418, R456: KEY_SET. -/
def KeySetRule (s : State) (c : Command) : Prop :=
  ∀ bs s1 u, InHand .keySet s c → let n := c.p0.toNat
    1 ≤ n → n ≤ 63 → c.p1.toNat ≤ 63 → (mapGet {} s.tab.tenants c.p1.toNat : TenantEntry).valid = true →
    bs.length = 64 → ReadsAt s c.fn c.p2 bs s1 → spanCheck s1 c.fn c.p2 64 .write = .ok u →
    Answers .keySet s c 0 0 0 fun v => v.mem = (putBytesAt u c.fn c.p2 (List.replicate 64 0)).mem ∧
      (mapGet {} v.tab.keys n : KeyEntry) = { valid := true, tenant := c.p1.toNat, key := BitVec.ofNat 512 (natOfBytes bs) }

/-- R321, R458: FENCE. -/
def FenceRule (s : State) (c : Command) : Prop :=
  InHand .fenceCmd s c → (96 ≤ c.p0.toNat → Refused .fenceCmd s c 2) ∧
    (c.p0.toNat < 96 → Defers .fenceCmd s c (.fence c.p0.toNat) fun u =>
      u = { s with fenceReq := if c.p0.toNat ∈ s.fenceReq then s.fenceReq else s.fenceReq ++ [c.p0.toNat] })

/-- R470: POWER_LIMIT. -/
def PowerLimitRule (s : State) (c : Command) : Prop :=
  InHand .powerLimit s c → let w := c.p0.toNat
    (w < 180 ∨ 360 < w → Refused .powerLimit s c 2) ∧
    (180 ≤ w → w ≤ 360 → Answers .powerLimit s c 0 (BitVec.ofNat 64 s.svc.powerLimit) 0 fun u =>
      u = { s with svc := { s.svc with powerLimit := w } })

/-- R458: PART_RESET. -/
def PartResetRule (s : State) (c : Command) : Prop :=
  InHand .partReset s c → (96 ≤ c.p0.toNat → Refused .partReset s c 2) ∧
    (c.p0.toNat < 96 → Defers .partReset s c (.done 0 0 0) fun u => u = resetPartition s c.p0.toNat) ∧
    ∀ k, c.p0.toNat < 96 → partCores s c.p0.toNat = [k] → (coreEntry s k).lent = false → (coreEntry s k).owner = 0 →
      mapGet none s.disp.lending k = none → boundKeys s k = [] → looseJobs s = [] → s.disp.gangs = [] → s.eng.lists = [] →
      (∀ d < 96, (coreEntry s d).lent = true → (coreEntry s d).borrower ≠ 0) →
      s.eng.coding = [] → (s.disp.counters.map fun x => x.1).Nodup → (s.barriers.map fun x => x.1).Nodup →
      let u := resetPartition s c.p0.toNat
      coreEntry u k = {} ∧ k ∉ u.fenceReq ∧ (∀ n < 16, getWin u k n = {}) ∧ (∀ a < 2 ^ 19, memByte u.mem (spadLoc k a) = 0) ∧
        (∀ n, (getCtr s n).owner = 0 → (getCtr u n).owner = 0 ∧ (getCtr u n).state = .idle) ∧ (∀ n, (mapGet {} s.barriers n : Barrier).owner = 0 →
          (mapGet {} u.barriers n : Barrier) = {}) ∧ ∀ d, d ≠ k → coreEntry u d = coreEntry s d

/-- R326, R327, R456: LAUNCH. -/
def LaunchRule (s : State) (c : Command) : Prop :=
  ∀ bs u, InHand .launch s c → let r := parseRec (natOfBytes bs)
    (c.p0.toNat % 64 ≠ 0 → Refused .launch s c 2) ∧
    (c.p0.toNat % 64 = 0 → bs.length = 64 → ReadsAt s c.fn c.p0 bs u →
      (r.malformed false = true → Answers .launch s c 2 0 0 fun v => v = u) ∧
      (r.malformed false = false → 16384 ≤ u.disp.pool.length → Answers .launch s c 5 0 0 fun v => v = u) ∧
      (r.malformed false = false → u.disp.pool.length < 16384 →
        Answers .launch s c 0 (u.disp.nextTree.zeroExtend 64) 0 fun v => v.mem = u.mem ∧
          getTree v u.disp.nextTree = some { tenant := c.fn, deadline := r.deadline } ∧
          ∃ k : Job, v.disp.pool = u.disp.pool ++ [k] ∧ k.mask = 2 ^ 96 - 1 ∧ IsNew u r c.fn u.disp.nextTree 255 k))

/-- R343, R456: GANG_LAUNCH. -/
def GangLaunchRule (s : State) (c : Command) : Prop :=
  ∀ bs ms u w, InHand .gangLaunch s c → c.p0.toNat % 64 = 0 → bs.length = 64 → ReadsAt s c.fn c.p0 bs u →
    let r := parseRec (natOfBytes bs)
    let m := natOfBytes ms
    let own := ∀ k < 96, m.testBit k = true → currentTenant w k = c.fn
    let room := (w.disp.gangs.filter fun g => g.tenant = c.fn).length < 16
    (r.malformed false = true → Answers .gangLaunch s c 2 0 0 fun v => v = u) ∧
    (r.malformed false = false → c.p1.toNat % 16 = 0 → ms.length = 16 → ReadsAt u c.fn c.p1 ms w →
      (m = 0 ∨ 2 ^ 96 ≤ m → Answers .gangLaunch s c 2 0 0 fun v => v = w) ∧
      (m ≠ 0 → m < 2 ^ 96 → ¬ own → Answers .gangLaunch s c 3 0 0 fun v => v = w) ∧
      (m ≠ 0 → m < 2 ^ 96 → own → ¬ room → Answers .gangLaunch s c 5 0 0 fun v => v = w) ∧
      (m ≠ 0 → m < 2 ^ 96 → own → room → Answers .gangLaunch s c 0 (w.disp.nextTree.zeroExtend 64) 0 fun v =>
        getTree v w.disp.nextTree = some { tenant := c.fn, deadline := r.deadline } ∧
        ∃ g : GangReq, v.disp.gangs = w.disp.gangs ++ [g] ∧ g.tenant = c.fn ∧ g.tree = w.disp.nextTree ∧ g.record = r ∧ g.mask = m ∧
          g.ids.length = ((List.range 96).filter fun k => m.testBit k).length ∧ g.held = []))

/-- R379, R456: COPY. -/
def CopyRule (s : State) (c : Command) : Prop :=
  InHand .copy s c →
    let relative (a : Dword) := a.toNat / 2 ^ 56 = 0xFE ∧ a.toNat.testBit 54 = true
    let good := ¬ relative c.p0 ∧ ¬ relative c.p1 ∧ ¬ relative c.p3 ∧ 1 ≤ c.p2.toNat ∧ c.p2.toNat < 2 ^ 32 ∧
      c.p3 ≠ 0 ∧ c.p3.toNat % 32 = 0
    (¬ good → Refused .copy s c 2) ∧
    ∀ n u, good → copySpool s c.fn c.p0 = (some n, u) → let lists := getLists u n
      let busy := (lists.filter fun l => !l.ended).length
      (24 ≤ busy → Answers .copy s c 5 0 0 fun v => v = u) ∧
      (busy < 24 → (∀ l ∈ lists, l.ended = false) → Defers .copy s c (.copy n u.eng.serial) fun v =>
        v.mem = u.mem ∧ ∃ l : SpoolList, getLists v n = lists ++ [l] ∧ l.serial = u.eng.serial ∧ l.tenant = c.fn ∧
          l.base = c.p0 ∧ l.run = c.p2.toNat ∧ l.copyTo = some c.p1 ∧ l.recAddr = c.p3 ∧ l.single = true ∧ l.hostPost = true)

/-- R356, R456: SIGNAL. -/
def SignalRule (s : State) (c : Command) : Prop :=
  InHand .signal s c → let n := c.p0.toNat
    (4096 ≤ n → Refused .signal s c 2) ∧ (n < 4096 → (getCtr s n).owner ≠ c.fn → Refused .signal s c 3) ∧
    (n < 4096 → (getCtr s n).owner = c.fn → let d := if c.p1 = 0 then 1 else c.p1.toNat
      ((getCtr s n).state = .pending → d < (getCtr s n).count → Answers .signal s c 0 0 0 fun u =>
        getCtr u n = { getCtr s n with count := (getCtr s n).count - d } ∧ u.mem = s.mem) ∧
      ((getCtr s n).state = .pending → d = (getCtr s n).count → (getCtr s n).copy = none → Answers .signal s c 0 0 0 fun u =>
        getCtr u n = { getCtr s n with count := 0, state := .done } ∧ u.mem = s.mem) ∧
      ((getCtr s n).state = .dropped → Answers .signal s c 0 0 0 fun u => u = s) ∧
      ((getCtr s n).state = .pending ∧ (getCtr s n).count < d ∨ (getCtr s n).state ∈ [DepState.idle, .done, .error] →
        (getCtr s n).copy = none → Answers .signal s c 0 0 0 fun u =>
          getCtr u n = { getCtr s n with state := .error } ∧ u.mem = s.mem))

/-- R323, R456: DEBUG_SESSION. -/
def DebugSessionRule (s : State) (c : Command) : Prop :=
  InHand .debugSession s c → let p := c.p0.toNat
    (96 ≤ p ∨ 1 < c.p1.toNat → Refused .debugSession s c 2) ∧
    (p < 96 → c.p1 = 1 → Answers .debugSession s c 0 0 0 fun u =>
      u = { s with svc := { s.svc with sessions := if p ∈ s.svc.sessions then s.svc.sessions else s.svc.sessions ++ [p] } }) ∧
    (p < 96 → c.p1 = 0 → (∀ k ∈ hartKeys s, (getHart s k).debugHeld = false) → Answers .debugSession s c 0 0 0 fun u =>
      u = { s with svc := { s.svc with sessions := s.svc.sessions.filter fun x => x ≠ p } }) ∧
    (p < 96 → c.p1 = 0 → s.others = [] → s.hart.debugHeld = true → s.hart.stage = .halted →
      (coreEntry s s.hart.core).part = p → s.hart.core < 96 → s.hart.hid < 8 → Answers .debugSession s c 0 0 0 fun u =>
        p ∉ u.svc.sessions ∧ Resumes s s.hart.jobNow u.hart ∧ u.hart.debugHeld = false ∧
        u.hart.expiry = s.hart.expiry ∧ u.hart.graceEnd = s.hart.graceEnd)

/-- R140, R323, R456: DEBUG_HALT, DEBUG_READ and DEBUG_RESUME. -/
def DebugHartRule (s : State) (c : Command) : Prop :=
  ∀ i, i ∈ [Instr.debugHalt, .debugRead, .debugResume] → InHand i s c →
    let core := c.p0.toNat % 256
    let k := 8 * core + c.p0.toNat / 256 % 8
    let h := getHart s k
    let good := c.p0.toNat < 2 ^ 11 ∧ core < 96
    let open_ := (coreEntry s core).part ∈ s.svc.sessions
    (¬ good → Refused i s c 2) ∧ (good → ¬ open_ → Refused i s c 3) ∧
    (good → open_ →
      (i = .debugHalt → (h.stage = .free → Refused i s c 2) ∧ (h.stage = .service → Refused i s c 4) ∧
        (h.stage = .halted → Answers i s c 0 0 0 fun u => u = s) ∧
        (h.stage = .running → s.hart.key = k → h.queue = [] → h.pend = [] → h.posted = [] → Answers i s c 0 0 0 fun u =>
            u.hart.stage = .halted ∧ u.hart.pc = h.pc ∧ u.hart.debugPc = h.pc ∧ u.hart.debugHeld = true ∧
            u.mem = (saveHart s 4 false 0 h.pc 0 63).mem) ∧
        (h.stage = .running → s.hart.key = k → h.queue ≠ [] ∨ h.pend ≠ [] ∨ h.posted ≠ [] →
          exec i s = .next (withHart { s with svc := { s.svc with cmds := s.svc.cmds.drop 1 ++ s.svc.cmds.take 1 } }
            fun h => { h with debugHeld := true }))) ∧
      (i = .debugRead → (h.stage ≠ .halted → Refused i s c 4) ∧
        (∀ u, h.stage = .halted → spanCheck s c.fn c.p1 (5120 + 2560 * h.width) .write = .ok u →
          Defers i s c (.done 0 0 0) fun v => v.mem = (putBytesAt u c.fn c.p1
            (saveGet u h.job.pages 0 (5120 + 2560 * h.width))).mem)) ∧
      (i = .debugResume → (h.stage ≠ .halted → Refused i s c 4) ∧
        (h.stage = .halted → s.hart.key = k → Answers i s c 0 0 0 fun u => Resumes s h.jobNow u.hart ∧ u.mem = s.mem ∧
          u.hart.expiry = h.expiry ∧ u.hart.graceEnd = h.graceEnd)))

/-- R472: TELEMETRY. -/
def TelemetryRule (s : State) (c : Command) : Prop :=
  InHand .telemetry s c → (2 ^ 32 ≤ c.p1.toNat → Refused .telemetry s c 2) ∧
    ∀ n u, c.p1.toNat + c.p2.toNat < 2 ^ 32 → c.p1.toNat ≤ s.svc.claim.toNat → s.svc.claim.toNat ≤ c.p1.toNat + 4096 →
      c.p1.toNat + n ≤ s.svc.claim.toNat → n ≤ c.p2.toNat →
      let entry (q : Nat) := getBytes s.mem (ringLoc (32 * (q % 4096))) 32
      let complete (q : Nat) := natOfBytes ((entry q).drop 24 |>.take 4) = (q + 1) % 2 ^ 32
      (∀ k < n, complete (c.p1.toNat + k)) →
      (n = c.p2.toNat ∨ c.p1.toNat + n = s.svc.claim.toNat ∨ ¬ complete (c.p1.toNat + n)) →
      spanCheck s 0 c.p0 (32 * n) .write = .ok u → n ≤ 4096 →
      Answers .telemetry s c 0 (BitVec.ofNat 64 n) (BitVec.ofNat 64 (c.p1.toNat + n)) fun v =>
        v.mem = (putBytesAt u 0 c.p0 ((List.range n).flatMap fun k => entry (c.p1.toNat + k))).mem

/-- R466: ATTEST. -/
def AttestRule (s : State) (c : Command) : Prop :=
  ∀ nonce u w, InHand .attest s c →
    let key := (List.range 2592).map Config.publicKey
    let text := report u nonce
    (2 ≤ c.p3.toNat → Refused .attest s c 2) ∧
    (c.p3 = 1 → c.p2.toNat < 2592 → Refused .attest s c 5) ∧
    (c.p3 = 1 → 2592 ≤ c.p2.toNat → spanCheck s c.fn c.p1 2592 .write = .ok w → Defers .attest s c
      (.done 0 2592 0) fun v => v = putBytesAt w c.fn c.p1 key) ∧
    (c.p3 = 0 → nonce.length = 64 → ReadsAt s c.fn c.p0 nonce u → text.length ≤ c.p2.toNat →
      spanCheck u c.fn c.p1 text.length .write = .ok w → Defers .attest s c (.done 0 (BitVec.ofNat 64 text.length) 0) fun v =>
        v = putBytesAt w c.fn c.p1 text)

/-- R461: QUERY_RESULT. -/
def QueryRule (s : State) (c : Command) : Prop :=
  InHand .queryResult s c → let f := getFn s c.fn
    let known := f.journal.find? fun e => e.seq.toNat = c.p0.toNat
    (2 ^ 32 ≤ c.p0.toNat → Refused .queryResult s c 2) ∧
    (c.p0.toNat < 2 ^ 32 → known = none → f.journal.length < 256 → Answers .queryResult s c 0 0 0 fun u => u = s) ∧
    (∀ e more, c.p0.toNat < 2 ^ 32 → known = none → f.journal = e :: more → 255 ≤ more.length → c.p0.toNat < e.seq.toNat →
      Refused .queryResult s c 8) ∧
    (∀ e, known = some e → e.state = 2 → Answers .queryResult s c 0 2 0 fun u => u = s) ∧
    (∀ e, known = some e → e.state ≠ 2 → (∀ d ∈ s.svc.deferred, d.fn = c.fn → d.seq ≠ e.seq) →
      Answers .queryResult s c 0 1 (BitVec.ofNat 64 (e.status * 2 ^ 56 + e.r0.toNat % 2 ^ 56)) fun u => u = s)

end Sys2Proof.Rules

open Sys2Proof Sys2Proof.Machine Sys2Proof.Safety Sys2Proof.Rules

/-! ### The scalar instructions -/

/-- R123, R78, R79: each register-register instruction writes its result to sd, from a and b as they
stood before it, and changes nothing else. -/
def Obligations.ArithmeticWritesItsResult : Prop :=
  ∀ r ∈ arithmetic, ∀ sd sa sb s, Writes (r.1 sd sa sb) s sd (r.2 (rdS s sa) (rdS s sb))

/-- R123: the bit counts, `bswap`, and `ext` for every sign and width. -/
def Sys2Proof.Rules.CountsAndExtensions : Prop :=
  (∀ r ∈ counting, ∀ sd sa s, Writes (r.1 sd sa) s sd (r.2 (rdS s sa))) ∧
  ∀ sd sa s, ∀ w : BitVec 2, w.toNat ≤ 2 →
    Writes (.ext sd sa 1 w) s sd (BitVec.ofInt 64 (signedLow (8 * 2 ^ w.toNat) (rdS s sa).toNat)) ∧
    Writes (.ext sd sa 0 w) s sd (BitVec.ofNat 64 ((rdS s sa).toNat % 2 ^ (8 * 2 ^ w.toNat)))

/-- R124, R125: the immediate forms, `lui` and `adpc`. -/
def Sys2Proof.Rules.Immediates : Prop :=
  ∀ sd sa s,
    (∀ imm, Writes (.addi sd sa imm) s sd (BitVec.ofInt 64 ((rdS s sa).toInt + imm.toInt))) ∧
    (∀ imm, Writes (.andi sd sa imm) s sd (rdS s sa &&& BitVec.ofInt 64 imm.toInt)) ∧
    (∀ imm, Writes (.ori sd sa imm) s sd (rdS s sa ||| BitVec.ofInt 64 imm.toInt)) ∧
    (∀ imm, Writes (.xori sd sa imm) s sd (rdS s sa ^^^ BitVec.ofInt 64 imm.toInt)) ∧
    (∀ sh, Writes (.slli sd sa sh) s sd (BitVec.ofNat 64 ((rdS s sa).toNat * 2 ^ sh.toNat))) ∧
    (∀ sh, Writes (.srli sd sa sh) s sd (BitVec.ofNat 64 ((rdS s sa).toNat / 2 ^ sh.toNat))) ∧
    (∀ sh, Writes (.srai sd sa sh) s sd (BitVec.ofInt 64 ((rdS s sa).toInt / 2 ^ sh.toNat))) ∧
    (∀ imm, Writes (.slti sd sa imm) s sd (truth ((rdS s sa).toInt < imm.toInt))) ∧
    (∀ imm, Writes (.sltin sd sa imm) s sd (truth ((rdS s sa).toNat < (BitVec.ofInt 64 imm.toInt).toNat))) ∧
    (∀ imm, Writes (.lui sd imm) s sd (BitVec.ofInt 64 (imm.toInt * 2 ^ 13))) ∧
    (∀ imm, Writes (.adpc sd imm) s sd (BitVec.ofInt 64 ((bundleOf s + imm.toInt * 2 ^ 13) % 2 ^ 48)))

/-- R126, R127, R429: addresses of sites from their fields, and the time. -/
def Sys2Proof.Rules.SiteAddressesAndTime : Prop :=
  ∀ sd sa s,
    (∀ twin x y, Writes (.sitea sd sa twin x y) s sd (sitePointer twin 0 x y (rdS s sa))) ∧
    (∀ twin x y, Writes (.siteaRel sd sa twin x y) s sd (sitePointer twin 1 x y (rdS s sa))) ∧
    (s.hart.core < 96 → Writes (.here sd) s sd (sitePointer 0 0 (BitVec.ofNat 5 (s.hart.core % 12 + 1))
      (BitVec.ofNat 5 (s.hart.core / 12 + 1)) 0)) ∧
    (s.hart.core = 96 → Writes (.here sd) s sd (sitePointer 0 0 13 7 0)) ∧
    Writes (.now sd 0) s sd s.time.now ∧
    Writes (.now sd 1) s sd (BitVec.ofNat 64 (s.time.now.toNat * 2 ^ 16 + s.time.frac.toNat)) ∧
    (∀ sel : BitVec 5, 2 ≤ sel.toNat → Writes (.now sd sel) s sd (BitVec.ofInt 64 (-1)))

/-- R123-R127, R429: the bit counts and extensions, the immediate forms, the addresses of sites and the time,
each written to sd and changing nothing else. The model's own choices in it: log entries 35 (DESIGN CHOICE: the core's
copy of the time is the time unit's), 46 (DEDUCED: `here` on the management core). -/
def Obligations.CountsImmediatesAndAddressesAreWritten : Prop :=
  CountsAndExtensions ∧ Immediates ∧ SiteAddressesAndTime

/-- R128, R129, R131: the branches, `j`, `jr` to a bundle address, and `loop`, which writes its
counter; each changes nothing else, and the hart stands at the target when the transfer is taken. -/
def Obligations.BranchesAndJumpsTransfer : Prop :=
  (∀ r ∈ branches, ∀ sa sb off s,
    Does (r.1 sa sb off) s (if r.2 (rdS s sa) (rdS s sb) then goTo s (target s off) else s)) ∧
  (∀ off s, Does (.j off) s (goTo s (target s off))) ∧
  (∀ sa s, (rdS s sa).toNat % 8 = 0 → Does (.jr sa) s (goTo s (BitVec.ofNat 48 (rdS s sa).toNat))) ∧
  (∀ sa off s, sa ≠ 0 →
    let c := BitVec.ofInt 64 ((rdS s sa).toNat - 1)
    Completes (.loop sa off) s fun t =>
      reg t sa = c ∧ (∀ r, r ≠ sa → reg t r = reg s r) ∧
      t.hart.pc = pcAfter (if c.toNat ≠ 0 then goTo s (target s off) else s) ∧
      idle { t with hart := { t.hart with s := [] } } = idle { s with hart := { s.hart with s := [] } })

/-! ### Calls, traps and control registers -/

/-- R120, R129, R130: calls push the next bundle's address, spilling the oldest entry of a full
stack into the core's scratchpad, and returns pop it and stand at it. -/
def Sys2Proof.Rules.CallsPushAndReturnsPop : Prop :=
  ∀ s,
    (HasRoom s → MaySpill s → ∀ off, Does (.call off) s (goTo (pushed s) (target s off))) ∧
    (HasRoom s → MaySpill s → ∀ sa, (rdS s sa).toNat % 8 = 0 →
      Does (.callr sa) s (goTo (pushed s) (BitVec.ofNat 48 (rdS s sa).toNat))) ∧
    (∀ t, s.hart.rs.getLast? = some t → t.toNat % 8 = 0 →
      Does .ret s (goTo (withHart s fun h => { h with rs := h.rs.dropLast }) t)) ∧
    (∀ v, FillsFrom s v → v % 8 = 0 →
      Does .ret s (goTo (withHart s fun h => { h with spilled := h.spilled - 1 }) (BitVec.ofNat 48 v)))

/-- R65, R120, R129, R130: the traps of the transfers: a full stack without room to spill, an empty
one, and a target that is no bundle address; none of them transfers, pushes or pops. -/
def Sys2Proof.Rules.TransfersTrap : Prop :=
  ∀ s,
    (¬ HasRoom s → ∀ off, Traps (.call off) s 0x0A ((returnPoint s).zeroExtend 64)) ∧
    (¬ HasRoom s → ∀ sa, (rdS s sa).toNat % 8 = 0 → Traps (.callr sa) s 0x0A ((returnPoint s).zeroExtend 64)) ∧
    (∀ sa, (rdS s sa).toNat % 8 ≠ 0 →
      Traps (.jr sa) s 0x05 (BitVec.ofNat 64 ((rdS s sa).toNat % 2 ^ 48)) ∧
      Traps (.callr sa) s 0x05 (BitVec.ofNat 64 ((rdS s sa).toNat % 2 ^ 48))) ∧
    (s.hart.rs = [] → s.hart.spilled = 0 → Traps .ret s 0x0B 0) ∧
    (∀ t, s.hart.rs.getLast? = some t → t.toNat % 8 ≠ 0 → Traps .ret s 0x05 (t.zeroExtend 64)) ∧
    (∀ v, FillsFrom s v → v % 8 ≠ 0 → Traps .ret s 0x05 (BitVec.ofNat 64 (v % 2 ^ 48)))

/-- R41, R65, R120, R129, R130: calls and returns with the hardware return stack and its spill area, and the
traps of the transfers, which leave everything as it was. -/
def Obligations.CallsReturnsAndTheirTraps : Prop :=
  CallsPushAndReturnsPop ∧ TransfersTrap

/-- R117, R118: a precise trap whose cause an enable bit covers enters the handler; it leaves
registers, return stack, `fcsr`, vector state and memory alone. -/
def Sys2Proof.Rules.TrapEntersTheHandler : Prop :=
  ∀ s c v ra, s.hart.core ≠ 96 → HandlerTakes s.hart c →
    let t := deliver s ⟨c, v⟩ ra false 63
    t.hart.pc = s.hart.tr.tvec ∧
    t.hart.tr = { s.hart.tr with
      xpc := ra, tcause := BitVec.ofNat 8 c, tval := v, grc := false, imp := false, inh := true } ∧
    t.hart.convoy.fresh = true ∧ t.hart.stage = s.hart.stage ∧ t.mem = s.mem ∧ t.svc = s.svc ∧
    t.hart.s = s.hart.s ∧ t.hart.rs = s.hart.rs ∧ t.hart.spilled = s.hart.spilled ∧ t.hart.fcsr = s.hart.fcsr ∧
    t.hart.len = s.hart.len ∧ t.hart.v = s.hart.v ∧ t.hart.k = s.hart.k ∧ t.hart.queue = s.hart.queue

/-- R117, R449, R464: every other trap goes to the service complex: the hart keeps its job and stands
at the resume address, the event waits behind the earlier ones, held back where 1,024 wait already, and
the job's queue is cut. -/
def Sys2Proof.Rules.OtherTrapsGoToService : Prop :=
  ∀ s c v ra, s.hart.core ≠ 96 → ¬ HandlerTakes s.hart c →
    let t := deliver s ⟨c, v⟩ ra false 63
    t.hart.stage = .service ∧ t.hart.pc = ra ∧ t.hart.queue = [] ∧ t.hart.job.held = true ∧
    (s.svc.events.length < 1024 → t.svc.events = s.svc.events ++ [.trap s.hart.job.job] ∧ t.svc.held = s.svc.held) ∧
    (1024 ≤ s.svc.events.length → t.svc.events = s.svc.events ∧ t.svc.held = s.svc.held ++ [.trap s.hart.job.job]) ∧
    t.hart.s = s.hart.s ∧ t.hart.rs = s.hart.rs ∧ t.hart.tr = s.hart.tr ∧ t.hart.v = s.hart.v ∧ t.hart.k = s.hart.k

/-- R117, R118, R449, R464: a trap enters the job's handler where an enable bit covers its cause, and goes
to the service complex otherwise. The model's own choices in it: log entry 17 (DEDUCED). -/
def Obligations.TrapsAreTaken : Prop :=
  TrapEntersTheHandler ∧ OtherTrapsGoToService

/-- R446: what a unit leaves by which the hart of `s` leaves its program: it is counted as issued. -/
def Sys2Proof.Rules.issued (s t : State) : State := countEv t s.hart.core (some s.hart.hid) 0x02 1

/-- R66, R139-R143: the system instructions. `svc` traps with the next instruction as resume address; `brk`
and `halt` wait for retirement and then halt under a debug session, or trap and end the job HALTED; `tret`
goes to `xpc` with `tstat` cleared, or traps where that is no instruction address; `isync` empties the core's instruction cache. The model's own choices in
it: log entries 6, 17, 47 (DEDUCED). -/
def Obligations.SystemInstructions : Prop :=
  ∀ s,
    Does .nop s s ∧
    (∀ c, exec (.svc c) s = .next (issued s (deliver s ⟨0x08, c.zeroExtend 64⟩ (s.hart.x.iaddr + 4) false 63))) ∧
    (Retired s → ∀ c, ¬ s.svc.sessions.contains (coreEntry s s.hart.core).part →
      Traps (.brk c) s 0x09 (c.zeroExtend 64)) ∧
    (Retired s → s.svc.sessions.contains (coreEntry s s.hart.core).part → ∀ c,
      Completes (.brk c) s fun t => t.hart.stage = .halted ∧ t.hart.pc = s.hart.x.iaddr ∧ t.hart.debugHeld = true) ∧
    (Retired s → s.svc.sessions.contains (coreEntry s s.hart.core).part →
      Completes .halt s fun t =>
        t.hart.stage = .halted ∧ t.hart.debugPc = s.hart.x.iaddr + 4 ∧ t.hart.debugHeld = true) ∧
    (Retired s → ¬ s.svc.sessions.contains (coreEntry s s.hart.core).part →
      exec .halt s = .next (issued s (endFocus (withHart s fun h => { h with lastPc := h.x.iaddr }) 7))) ∧
    (s.hart.tr.inh = true → ∀ s1, MayReturn s s1 → s1.hart.tr.grc = false →
      Does .tret s (goTo ((if s1.hart.tr.imp then reissue else id)
        (withHart s1 fun h => { h with tr := { h.tr with grc := false, imp := false, inh := false } }))
        s1.hart.tr.xpc)) ∧
    (s.hart.tr.inh = true → ∀ s1, MayReturn s s1 → s1.hart.tr.grc = true →
      exec .tret s = .next (issued s1 (endFocus (withHart s1 fun h => { h with lastPc := h.x.iaddr }) 4))) ∧
    (s.hart.tr.inh = true → s.hart.tr.xpc.toNat % 4 ≠ 0 → Traps .tret s 0x05 (s.hart.tr.xpc.zeroExtend 64)) ∧
    (∀ w s1, s.hart.tr.inh = true → s.hart.tr.xpc.toNat % 8 = 4 → fetchBundle s (s.hart.tr.xpc - 4) = .ok w s1 →
      w.getLsbD 31 = true → exec .tret s = .next (trappedAt 6 s1 0x05 (s.hart.tr.xpc.zeroExtend 64))) ∧
    (s.hart.tr.inh = false → Traps .tret s 0x02 (s.hart.x.iword.zeroExtend 64)) ∧
    (Retired s → Does .isync s { s with icache := mapErase s.icache s.hart.core })

/-- R112, R115, R137: the moves of control registers return the whole register, those that write name a register
whose access is RW, `setc` and `clrc` set and clear the bits of s[sa] in it, and a resynchronising move counts in
`vsync`. -/
def Sys2Proof.Rules.ControlRegisterMoves : Prop :=
  ∀ sd sa (n : BitVec 12) s, n.toNat ∈ controlRegisters → (n.toNat ∈ resyncRegisters → Retired s) →
    let u := counted n.toNat s
    let old := cregVal u.hart n.toNat
    Does (.mfc sd n) s (wrS u sd old) ∧
    (n.toNat ∉ readOnlyRegisters → (n.toNat < 4 → MayConfigure s) →
      Does (.mtc sd sa n) s (wrS (withHart u fun h => cregWrite h n.toNat (rdS s sa)) sd old) ∧
      Does (.setc sd sa n) s (wrS (withHart u fun h => cregWrite h n.toNat (old ||| rdS s sa)) sd old) ∧
      Does (.clrc sd sa n) s (wrS (withHart u fun h => cregWrite h n.toNat (old &&& ~~~ rdS s sa)) sd old))

/-- R91, R111, R112, R116, R151, R152: a written control register reads back what its RW fields took, a length
register what is granted, and no write of one reaches another register of the list, but that a grant sets the
lengths together; a move that writes a read-only or a reserved register is no instruction. -/
def Sys2Proof.Rules.ControlRegisterWrites : Prop :=
  ∀ h v,
    (∀ n x, writtenField n v = some x →
      cregVal (cregWrite h n v) n = BitVec.ofNat 64 x ∧
      ∀ m ∈ controlRegisters, m ≠ n → cregVal (cregWrite h n v) m = cregVal h m) ∧
    (h.width ∈ [4, 8, 16, 32] →
      let x := v.toNat % 2 ^ 15
      (typeCodeKnown (h.len.vtype.extractLsb' 0 5) = true →
        let m := largestLength h.width h.len.vtype
        LengthsWritten h 0x000 v (granted h.len m 1 x) ∧ LengthsWritten h 0x002 v (granted h.len m x h.len.colc) ∧
          LengthsWritten h 0x003 v (granted h.len m h.len.rowc x)) ∧
      (typeCodeKnown (v.extractLsb' 0 5) = true →
        let l := { h.len with vtype := v.extractLsb' 0 7 }
        LengthsWritten h 0x001 v (granted l (largestLength h.width l.vtype) h.len.rowc h.len.colc)) ∧
      (typeCodeKnown (v.extractLsb' 0 5) = false → LengthsWritten h 0x001 v h.len)) ∧
    (∀ sd sa, ∀ n : BitVec 12, n.toNat ∈ readOnlyRegisters ∨ n.toNat ∉ controlRegisters →
      (Instr.mtc sd sa n).wf = false ∧ (Instr.setc sd sa n).wf = false ∧ (Instr.clrc sd sa n).wf = false ∧
        (n.toNat ∉ controlRegisters → (Instr.mfc sd n).wf = false)) ∧
    (v.toNat % 8 < 5 → cregVal (cregWrite h 0x008 v) 0x008 = v &&& 0x3F3F0F) ∧
    (5 ≤ v.toNat % 8 → cregVal (cregWrite h 0x008 v) 0x008 = (v &&& 0x3F3F08) ||| (h.fcsr &&& 7))

/-- R91, R111, R112, R115, R116, R137, R151, R152: the moves of the control registers, and what a written one
holds. -/
def Obligations.ControlRegistersMoveAndReadBack : Prop :=
  ControlRegisterMoves ∧ ControlRegisterWrites

/-- R149, R151, R152, R168: the length instructions set `vtype` and grant lengths; sd takes vl, or
the rows of `settile`. -/
def Obligations.LengthInstructionsGrant : Prop :=
  ∀ sd sa sb s, MayConfigure s → s.hart.width ∈ [4, 8, 16, 32] →
    (∀ (typ : BitVec 5) (grp : BitVec 2), typeCodeKnown typ = true →
      let m := largestLength s.hart.width (grp ++ typ)
      let l (n : Nat) : LenRegs := granted { vtype := grp ++ typ } m 1 n
      let u (n : Nat) : State := wrS (withHart s fun h => { h with len := l n }) sd (BitVec.ofNat 64 (min n m))
      Does (.setvl sd sa typ grp) s (u (rdS s sa).toNat) ∧ ∀ imm, Does (.setvli sd typ grp imm) s (u imm.toNat)) ∧
    (typeCodeKnown (s.hart.len.vtype.extractLsb' 0 5) = true →
      let l := granted s.hart.len (largestLength s.hart.width s.hart.len.vtype) (rdS s sa).toNat (rdS s sb).toNat
      Does (.settile sd sa sb) s (wrS (withHart s fun h => { h with len := l }) sd (BitVec.ofNat 64 l.rowc)))

/-- R446, R447: reads of the performance counters and their configuration, which clears the counter it
selects and reads a reserved event as off. -/
def Obligations.PerformanceCountersAreReadAndSelected : Prop :=
  ∀ sd s,
    (∀ n : BitVec 5, n.toNat < 8 → Writes (.pmc sd n) s sd ((getPmc s n.toNat).count.zeroExtend 64)) ∧
    (∀ n : BitVec 5, 8 ≤ n.toNat → Writes (.pmc sd n) s sd (BitVec.ofInt 64 (-1))) ∧
    (∀ (n : BitVec 3) sb,
      let v := (rdS s sb).toNat % 2 ^ 16
      Completes (.pmcCfg sd n sb) s fun t =>
        (sd ≠ 0 → reg t sd = (getPmc s n.toNat).select.zeroExtend 64) ∧ (∀ r, r ≠ sd → reg t r = reg s r) ∧
        (getPmc t n.toNat).select = BitVec.ofNat 16 (if 0x15 < v % 256 then v / 256 * 256 else v) ∧
        (getPmc t n.toNat).count = 0)

/-! ### The vector instructions -/

/-- R189, R190, R193: the integer instructions write each active element and no other. -/
def Sys2Proof.Rules.VectorIntegersWrite : Prop :=
  ∀ vd va vb k s, Fits s vd (groupNow s) → Fits s va (groupNow s) → Fits s vb (groupNow s) →
    (∀ r ∈ vectorInts, typeNow s < 8 → Issues (r.1 vd va vb k) s →
      Does (r.1 vd va vb k) s (landed s vd (widthNow s) (active s k) fun i =>
        exact (r.2 (widthNow s) (elem s va (widthNow s) i) (elem s vb (widthNow s) i) (elem s vd (widthNow s) i)))) ∧
    (∀ r ∈ vectorBits, (typeNow s < 0x10 ∨ 0x13 ≤ typeNow s) → Issues (r.1 vd va vb k) s →
      Does (r.1 vd va vb k) s (landed s vd (widthNow s) (active s k) fun i =>
        exact (r.2 (elem s va (widthNow s) i) (elem s vb (widthNow s) i)))) ∧
    (typeNow s < 4 → Issues (.vabs vd va k) s →
      Does (.vabs vd va k) s (landed s vd (widthNow s) (active s k) fun i =>
        exact (wrapN (widthNow s) |sx (widthNow s) (elem s va (widthNow s) i)|)))

/-- R191, R192: the widening instructions write elements of twice the width, and `vnclip` narrows
with a rounded shift and saturation. -/
def Sys2Proof.Rules.VectorIntegersWiden : Prop :=
  ∀ vd va vb k s,
    let t := typeNow s
    let b := widthNow s
    let g := groupNow s
    (t < 8 → b ≠ 64 → Fits s vd (2 * g) → Fits s va g → Fits s vb g → Apart vd (2 * g) va g → Apart vd (2 * g) vb g →
      (Issues (.vwadd vd va vb k) s →
        Does (.vwadd vd va vb k) s (landed s vd (2 * b) (active s k) fun i =>
          exact (wrapN (2 * b) (readAs t b (elem s va b i) + readAs t b (elem s vb b i))))) ∧
      (Issues (.vwmul vd va vb k) s →
        Does (.vwmul vd va vb k) s (landed s vd (2 * b) (active s k) fun i =>
          exact (wrapN (2 * b) (readAs t b (elem s va b i) * readAs t b (elem s vb b i)))))) ∧
    (t < 8 → b ≠ 64 → Fits s vd g → Fits s va (2 * g) → Fits s vb g → Apart vd g va (2 * g) →
      Issues (.vnclip vd va vb k) s →
      Does (.vnclip vd va vb k) s (landed s vd b (active s k) fun i =>
        let r := rshr (readAs t (2 * b) (elem s va (2 * b) i)) (elem s vb b i % (2 * b)) (modeNow s)
        exact (wrapN b (if t < 4 then max (-(2 ^ (b - 1))) (min (2 ^ (b - 1) - 1) r) else max 0 (min (2 ^ b - 1) r)))))

/-- R189-R193: the integer vector instructions, of one width and between widths. -/
def Obligations.VectorIntegersAreComputed : Prop :=
  VectorIntegersWrite ∧ VectorIntegersWiden

/-- R194, R196: the floating-point instructions write each active element's result in the type's
format under the rounding mode, and their flags are merged. -/
def Sys2Proof.Rules.VectorFloatsWrite : Prop :=
  ∀ vd va vb k s,
    let t := typeNow s
    let b := widthNow s
    Fits s vd (groupNow s) → Fits s va (groupNow s) → Fits s vb (groupNow s) → 8 ≤ t → t ≤ 0xB →
    (∀ r ∈ vectorFloats, Issues (r.1 vd va vb k) s →
      Does (r.1 vd va vb k) s (landed s vd b (active s k) fun i =>
        r.2 (fmtOf t) (modeNow s) (elem s va b i) (elem s vb b i) (elem s vd b i))) ∧
    (∀ r ∈ vectorFloats1, Issues (r.1 vd va k) s →
      Does (r.1 vd va k) s (landed s vd b (active s k) fun i => r.2 (fmtOf t) (modeNow s) (elem s va b i))) ∧
    (t ≠ 8 →
      (∀ r ∈ vectorSpecials, Issues (r.1 vd va k) s →
        Does (r.1 vd va k) s (landed s vd b (active s k) fun i => r.2 (fmtOf t) (modeNow s) (elem s va b i))) ∧
      (Issues (.vfatan2 vd va vb k) s →
        Does (.vfatan2 vd va vb k) s (landed s vd b (active s k) fun i =>
          fpAtan2 (fmtOf t) (modeNow s) (elem s va b i) (elem s vb b i))))

/-- R197, R198: the widening products, and the conversions of one type to another. -/
def Sys2Proof.Rules.VectorFloatsWiden : Prop :=
  ∀ vd va vb k s,
    let t := typeNow s
    let b := widthNow s
    let g := groupNow s
    (9 ≤ t → t ≤ 0xB → Fits s vd (2 * g) → Fits s va g → Fits s vb g → Apart vd (2 * g) va g → Apart vd (2 * g) vb g →
      let w := if t = 9 then f64 else f32
      (Issues (.vfwmul vd va vb k) s →
        Does (.vfwmul vd va vb k) s (landed s vd (2 * b) (active s k) fun i =>
          fpWide (fmtOf t) w (modeNow s) (elem s va b i) (elem s vb b i) none)) ∧
      (Issues (.vfwmacc vd va vb k) s →
        Does (.vfwmacc vd va vb k) s (landed s vd (2 * b) (active s k) fun i =>
          fpWide (fmtOf t) w (modeNow s) (elem s va b i) (elem s vb b i) (some (elem s vd (2 * b) i))))) ∧
    (∀ dt : BitVec 5,
      let c := typeWidth dt.toNat
      let n := max 1 (g * c / b)
      Fits s vd n → Fits s va g → (c = b ∨ Apart vd n va g) →
      ((8 ≤ t ∧ t ≤ 0xE ∧ (dt.toNat < 8 ∨ 8 ≤ dt.toNat ∧ dt.toNat ≤ 0xE)) ∨ (t < 8 ∧ 8 ≤ dt.toNat ∧ dt.toNat ≤ 0xE) ∨
        (0x13 ≤ t ∧ t ≤ 0x16 ∧ 0x13 ≤ dt.toNat ∧ dt.toNat ≤ 0x16)) →
      (Issues (.vfcvt vd va dt k) s →
        Does (.vfcvt vd va dt k) s (landed s vd c (active s k) fun i =>
          cvtElem t dt.toNat (modeNow s) (fcsrSat (fcsrNow s)) (elem s va b i))) ∧
      (Issues (.vfcvtRtz vd va dt k) s →
        Does (.vfcvtRtz vd va dt k) s (landed s vd c (active s k) fun i =>
          cvtElem t dt.toNat .rtz (fcsrSat (fcsrNow s)) (elem s va b i))))

/-- R194-R198: the floating-point vector instructions, of one width and between widths. The model's own
choices in it: log entries 12, 26, 43 (DEDUCED). -/
def Obligations.VectorFloatsAreComputed : Prop :=
  VectorFloatsWrite ∧ VectorFloatsWiden

/-- R169-R171: compares write one mask bit for each element from the starting one below vl, cleared
where the mask operand does not select it; the mask logic writes the bits below vl; and the counts
of ones and the first one go to a scalar register. -/
def Obligations.MasksAreComparedCombinedAndCounted : Prop :=
  ∀ s,
    (∀ cond kd va vb k,
      let t := typeNow s
      let b := widthNow s
      Fits s va (groupNow s) → Fits s vb (groupNow s) →
      (t < 8 → Issues (.vcmp cond kd va vb k) s →
        Does (.vcmp cond kd va vb k) s (compared s kd k fun i =>
          (relation cond (sx b (elem s va b i)) (sx b (elem s vb b i)), 0))) ∧
      (t < 8 → Issues (.vcmpn cond kd va vb k) s →
        Does (.vcmpn cond kd va vb k) s (compared s kd k fun i => (relation cond (elem s va b i) (elem s vb b i), 0))) ∧
      (8 ≤ t → t ≤ 0xB → Issues (.vfcmp cond kd va vb k) s →
        Does (.vfcmp cond kd va vb k) s (compared s kd k fun i =>
          fpCmp (fmtOf t) cond.toNat (elem s va b i) (elem s vb b i)))) ∧
    (∀ r ∈ maskLogic, ∀ kd ka kb, Issues (r.1 kd ka kb) s →
      Does (r.1 kd ka kb) s (retire (withHart (viewCleared s) fun h =>
        putMask h kd.toNat ((List.range (lenNow s).vl).map fun i =>
          (i, r.2 ((getMask s.hart ka.toNat).getLsbD i) ((getMask s.hart kb.toNat).getLsbD i)))) 0)) ∧
    (∀ sd ka, Issues (.kpopc sd ka) s →
      Does (.kpopc sd ka) s (answered s sd (BitVec.ofNat 64 (onesOf s ka).length) 0)) ∧
    (∀ sd ka, Issues (.kfirst sd ka) s →
      Does (.kfirst sd ka) s (answered s sd
        (match (onesOf s ka).head? with | some i => BitVec.ofNat 64 i | none => BitVec.ofInt 64 (-1)) 0))

/-- R174-R179, R181, R183: the permutes and moves. -/
def Obligations.PermutesMoveElements : Prop :=
  ∀ vd va vb k s,
    let b := widthNow s
    let vl := (lenNow s).vl
    Fits s vd (groupNow s) → Fits s va (groupNow s) → Fits s vb (groupNow s) →
    (Issues (.vmv vd va k) s → Does (.vmv vd va k) s (moved s vd b (each (active s k) (elem s va b)))) ∧
    (Issues (.vmerge vd va vb k) s → Does (.vmerge vd va vb k) s (moved s vd b (each (active s 0) fun i =>
      if selected s k i then elem s va b i else elem s vb b i))) ∧
    (∀ r ∈ slides, ∀ sb, Issues (r.1 vd va sb k) s →
      Does (r.1 vd va sb k) s (moved s vd b ((activeWhole s k).filterMap fun i =>
        (r.2 (elem s va b) (rdS s sb).toNat b vl i).map fun x => (i, x)))) ∧
    (Issues (.vgather vd va vb k) s → Does (.vgather vd va vb k) s (moved s vd b (each (activeWhole s k) fun i =>
      if elem s vb b i < vl then elem s va b (elem s vb b i) else 0))) ∧
    (Issues (.vcompress vd va k) s → Does (.vcompress vd va k) s (moved s vd b
      ((activeWhole s k).zipIdx.map fun p => (p.2, elem s va b p.1)))) ∧
    (Issues (.vexpand vd va k) s → Does (.vexpand vd va k) s (moved s vd b
      ((activeWhole s k).zipIdx.map fun p => (p.1, elem s va b p.2)))) ∧
    (typeNow s < 8 → Issues (.vid vd k) s →
      Does (.vid vd k) s (moved s vd b (each (active s k) fun i => i % 2 ^ b))) ∧
    (∀ ka, typeNow s < 8 → Issues (.viota vd ka k) s →
      Does (.viota vd ka k) s (moved s vd b (each (activeWhole s k) fun i =>
        ((List.range i).countP fun j => (getMask s.hart ka.toNat).getLsbD j) % 2 ^ b))) ∧
    (Issues (.vzip vd va vb) s → Does (.vzip vd va vb) s (moved s vd b (each (List.range vl) fun i =>
      if i % 2 = 0 then elem s va b (i / 2) else elem s vb b (i / 2)))) ∧
    (Issues (.vunzip vd va) s → Does (.vunzip vd va) s (moved s vd b (each (List.range vl) fun i =>
      if i < (vl + 1) / 2 then elem s va b (2 * i) else elem s va b (2 * (i - (vl + 1) / 2) + 1)))) ∧
    (Issues (.vtrn vd va) s → Does (.vtrn vd va) s (moved s vd b (each (List.range vl) fun i =>
      elem s va b (i % (lenNow s).rowc * (lenNow s).colc + i / (lenNow s).rowc)))) ∧
    (∀ sb, Issues (.vbcast vd sb k) s →
      Does (.vbcast vd sb k) s (moved s vd b (each (active s k) fun _ => (rdS s sb).toNat % 2 ^ b))) ∧
    (∀ sa sb, Issues (.vins vd sa sb) s →
      Does (.vins vd sa sb) s (moved s vd b (if (rdS s sa).toNat < vl then [((rdS s sa).toNat, (rdS s sb).toNat % 2 ^ b)]
        else [])))

/-- R202, R203, R205, R206: complex products, rotations and butterflies; every result is an exact sum
rounded once. -/
def Obligations.ComplexNumbersAndButterflies : Prop :=
  ∀ vd va vb k s,
    let t := typeNow s
    let b := widthNow s
    let m := modeNow s
    Fits s vd (groupNow s) → Fits s va (groupNow s) → Fits s vb (groupNow s) → 0x13 ≤ t → t ≤ 0x16 →
    (∀ r ∈ complexSums, Issues (r.1 vd va vb k) s →
      Does (r.1 vd va vb k) s (landed s vd b (active s k) fun i =>
        cRound t m 15 (r.2 (celem s va i) (celem s vb i) (celem s vd i)))) ∧
    (∀ a c : CNum, (cRound 0x13 m 15 (cProd a c)).bits % 2 ^ 16 = fixedReal a c) ∧
    (Issues (.vcconj vd va k) s →
      Does (.vcconj vd va k) s (landed s vd b (active s k) fun i =>
        let c := celem s va i
        exact ((if t = 0x13 then wrapN 16 (min (2 ^ 15 - 1) (-(sx 16 c.im))) else (compFmt t).flip c.im) * 2 ^ (b / 2) +
          c.re))) ∧
    (Issues (.vcabs2 vd va k) s →
      Does (.vcabs2 vd va k) s (landed s vd b (active s k) fun i =>
        compSum t m 15 (cProdJ (celem s va i) (celem s va i)).re)) ∧
    (Issues (.vcrot vd va vb k) s →
      Does (.vcrot vd va vb k) s (landed s vd b (active s k) fun i =>
        let q := (celem s vb i).re
        if rotBad t q then pairRes (b / 2) ⟨(compFmt t).nan, fNv⟩ ⟨(compFmt t).nan, fNv⟩
        else
          let c := rotFactor t true q
          let n := rotFactor t false q
          let r := cRound t m 15 (cProd (celem s va i) ⟨c.bits, n.bits⟩)
          ⟨r.bits, r.flags ||| c.flags ||| n.flags⟩)) ∧
    (Issues (.vbfly vd va vb k) s →
      let q := (lenNow s).colc / 2
      Does (.vbfly vd va vb k) s (landedAt s vd b ((butterflies s k 2).flatMap fun c =>
        let t1 := cProd (celem s vb c) (celem s va (c + q))
        let x0 := cTerm (celem s va c)
        [(c, cRound t m 16 (x0.add t1)), (c + q, cRound t m 16 (x0.add t1.minus))]))) ∧
    (Issues (.vbfly4 vd va vb k) s →
      let q := (lenNow s).colc / 4
      Does (.vbfly4 vd va vb k) s (landedAt s vd b ((butterflies s k 4).flatMap fun c =>
        let x0 := cTerm (celem s va c)
        let t1 := cProd (celem s vb (c + q)) (celem s va (c + q))
        let t2 := cProd (celem s vb (c + 2 * q)) (celem s va (c + 2 * q))
        let t3 := cProd (celem s vb (c + 3 * q)) (celem s va (c + 3 * q))
        [(c, cRound t m 17 (x0.add (t1.add (t2.add t3)))),
         (c + q, cRound t m 17 (x0.add (t1.timesJ.minus.add (t2.minus.add t3.timesJ)))),
         (c + 2 * q, cRound t m 17 (x0.add (t1.minus.add (t2.add t3.minus)))),
         (c + 3 * q, cRound t m 17 (x0.add (t1.timesJ.add (t2.minus.add t3.timesJ.minus))))])))

/-- R207-R210: the small-matrix steps on each selected matrix of the tile view. -/
def Obligations.SmallMatrixSteps : Prop :=
  ∀ vd va vb sb k s,
    let t := typeNow s
    let m := modeNow s
    let n := tileOrder (lenNow s)
    let A := matrixOf s va
    let B := matrixOf s vb
    let K := (rdS s sb).toNat
    Fits s vd (groupNow s) → Fits s va (groupNow s) → Fits s vb (groupNow s) → 0x14 ≤ t → t ≤ 0x16 →
    (lenNow s).colc ≤ 288 →
    (Issues (.vtgj vd va sb k) s →
      Does (.vtgj vd va sb k) s (stepped s vd k fun r i j =>
        if n ≤ K then tileCopy t (A r i j) else gaussJordan t m K (A r) i j)) ∧
    (Issues (.vtchol vd va sb k) s →
      Does (.vtchol vd va sb k) s (stepped s vd k fun r i j =>
        if n ≤ K then tileCopy t (A r i j) else cholesky t m K (A r) i j)) ∧
    (Issues (.vtmul vd va vb k) s →
      Does (.vtmul vd va vb k) s (stepped s vd k fun r i j =>
        tileSum t m (cSumOf n fun l => cProd (A r i l) (B r l j)))) ∧
    (Issues (.vtherm vd va k) s →
      Does (.vtherm vd va k) s (stepped s vd k fun r i j =>
        let z := cSumOf n fun l => cProdJ (A r l j) (A r l i)
        tileSum t m (if i = j then ⟨z.re, []⟩ else z)))

/-- R102, R103, R182, R212, R213: the reductions and `vmvs` resynchronise and write one scalar
register. -/
def Obligations.ReductionsAnswerInAScalarRegister : Prop :=
  ∀ sd va sb k s,
    let t := typeNow s
    let b := widthNow s
    let l := leaves s va k
    let x := (rdS s sb).toNat
    Fits s va (groupNow s) →
    (t < 8 →
      (∀ r ∈ integerReductions, Issues (r.1 sd va sb k) s →
        Does (r.1 sd va sb k) s (answered s sd (foldedValue t b b x l r.2) 0)) ∧
      (b ≠ 64 → Issues (.vredsumw sd va sb k) s →
        Does (.vredsumw sd va sb k) s (answered s sd (foldedValue t b (2 * b) x l fun x y => x + y) 0))) ∧
    (8 ≤ t → t ≤ 0xB → ∀ r ∈ floatReductions, Issues (r.1 sd va sb k) s →
      let q := treeReduce (r.2 (fmtOf t) (modeNow s)) (x % 2 ^ b) l
      Does (r.1 sd va sb k) s (answered s sd (BitVec.ofNat 64 q.bits) q.flags)) ∧
    (0x13 ≤ t → t ≤ 0x16 → Issues (.vcredsum sd va sb k) s →
      let w := b / 2
      let q := pairRes w (compRed t (modeNow s) (x % 2 ^ w) (l.map fun o => o.map fun x => x % 2 ^ w))
        (compRed t (modeNow s) (x / 2 ^ w % 2 ^ w) (l.map fun o => o.map fun x => x / 2 ^ w))
      Does (.vcredsum sd va sb k) s (answered s sd (BitVec.ofNat 64 q.bits) q.flags)) ∧
    (Issues (.vmvs sd va sb) s →
      Does (.vmvs sd va sb) s (answered s sd
        (if x < (lenNow s).vl then BitVec.ofInt 64 (readAs t b (elem s va b x)) else 0) 0))

/-- R133-R136: scalar floating point. The model's own choices in it: log entry 26 (DEDUCED). -/
def Obligations.ScalarFloatsWriteOrTrap : Prop :=
  ∀ sd sa sb sc pr s,
    let f := formatOf pr
    let a := operand s pr sa
    let b := operand s pr sb
    (∀ r ∈ scalarFloats, FloatResult (r.1 sd sa sb pr) s sd (r.2 f (modeNow s) a b).flags
      (BitVec.ofNat 64 (r.2 f (modeNow s) a b).bits)) ∧
    FloatResult (.fsqrt sd sa pr) s sd (fpSqrt f (modeNow s) a).flags (BitVec.ofNat 64 (fpSqrt f (modeNow s) a).bits) ∧
    FloatResult (.fmadd sd sa sb sc pr) s sd (fpFma f (modeNow s) false false a b (operand s pr sc)).flags
      (BitVec.ofNat 64 (fpFma f (modeNow s) false false a b (operand s pr sc)).bits) ∧
    (∀ cond, FloatResult (.fcmp sd sa sb cond pr) s sd (fpCmp f cond.toNat a b).2
      (truth ((fpCmp f cond.toNat a b).1 = true))) ∧
    (∀ st dt, FloatResult (.fcvt sd sa st dt) s sd
      (scalarCvt st.toNat dt.toNat (modeNow s) (fcsrSat (fcsrNow s)) (rdS s sa).toNat).1
      (scalarCvt st.toNat dt.toNat (modeNow s) (fcsrSat (fcsrNow s)) (rdS s sa).toNat).2) ∧
    Writes (.fclass sd sa pr) s sd (BitVec.ofNat 64 (fpClass f a)) ∧
    Writes (.fmv sd sa pr) s sd (BitVec.ofNat 64 a)

/-! ### Memory and the tile -/

/-- R248, R252, R258, R269, R286: an aligned load whose address resolves to readable bytes of memory writes
their value to sd, or the one that the core's data cache still holds for them, and one that acquires empties
that cache of device memory; an aligned store puts the low bytes of sd there and changes no other byte; a
misaligned access takes the alignment trap. The model's own choices in it: log entries 4, 11, 33 (DESIGN CHOICE). -/
def Obligations.ScalarLoadsAndStores : Prop :=
  ∀ sd sa sz ord off s,
    let n := accessBytes sz
    let ea := accessAddr s sa sz off
    (∀ sx1 l tag s1, Coherent s .read ea n → resolve s (acc s .load .read) ea n = .ok (.mem l tag) s1 →
      Sound s1 l n →
      DoesButCaches (.lds sd sa sz sx1 ord off) s
        (wrS s1 sd (loadedValue sx1 n (loadSees s1 ea l tag n (storedNat s1 tag l n)))) ∧
      (3 ≤ ord.toNat → Completes (.lds sd sa sz sx1 ord off) s Acquired)) ∧
    (∀ l tag s1, (ord ≠ 0 → Retired s) → Coherent s .write ea n → resolve s (acc s .store .write) ea n = .ok (.mem l tag) s1 →
      Sound s1 l n → guardStops s1 s.hart.key l n = none →
      Completes (.sts sd sa sz ord off) s fun t =>
        Wrote s t tag l n (byteOf (rdS s sd).toNat) ∧
        t.hart.pc = pcAfter s ∧ (∀ r, reg t r = reg s r) ∧ t.hart.v = s.hart.v ∧ t.hart.k = s.hart.k ∧
        t.hart.fcsr = s.hart.fcsr ∧ t.hart.len = s.hart.len ∧ t.hart.tr = s.hart.tr) ∧
    (ea.toNat % n ≠ 0 →
      (∀ sx1, Traps (.lds sd sa sz sx1 ord off) s 0x10 ea) ∧
      ((ord ≠ 0 → Retired s) → Traps (.sts sd sa sz ord off) s 0x10 ea))

/-- R258, R293-R296: an atomic reads and replaces the bytes at its address in one step and returns the old
value; a failed `cas` writes nothing; one that acquires empties the core's data cache of device memory; a
host page takes only add, swap and cas, and the host may leave those undone as well, which takes the same
fault. The model's own choices in it: log entries 4, 11, 33, 36 (DESIGN CHOICE). -/
def Obligations.AtomicsReadAndReplaceInOneStep : Prop :=
  ∀ r ∈ atomics, ∀ sd sa sb sz sem scope s l tag s1,
    let n := if sz = 0 then 4 else 8
    let ea := rdS s sa
    let i := r.1 sd sa sb sz sem scope
    (2 ≤ sem.toNat → Retired s) → Coherent s .write ea n →
    resolve s (acc s .other .write) ea n = .ok (.mem l tag) s1 →
    let trapped (u : State) : Prop := exec i s = .next (trappedAt 6 u 0x17 ea)
    (Sound s1 l n →
      let old := storedNat s1 tag l n
      let new := r.2 (8 * n) old ((rdS s sb).toNat % 2 ^ (8 * n)) ((rdS s sd).toNat % 2 ^ (8 * n))
      let read : Prop := DoesButCaches i s (wrS s1 sd (BitVec.ofNat 64 old))
      let written (v : Nat) : Prop := Completes i s fun t =>
        Wrote s t tag l n (byteOf v) ∧
        (∀ q, reg t q = if q = sd ∧ q ≠ 0 then BitVec.ofNat 64 old else reg s q) ∧ t.hart.pc = pcAfter s
      (isHost l = false →
        (new = none → read) ∧ (∀ v, new = some v → guardStops s1 s.hart.key l n = none → written v) ∧
        ((∀ v, new = some v → guardStops s1 s.hart.key l n = none) → sem.toNat % 2 = 1 → 1 ≤ scope.toNat →
          Completes i s Acquired)) ∧
      (isHost l = true → OnHost i →
        (new = none → read ∨ trapped { s1 with free := s1.free + 1 }) ∧
        (∀ v, new = some v → written v ∨ trapped { s1 with free := s1.free + 1 }))) ∧
    (isHost l = true → ¬ OnHost i → trapped s1)

/-- R273-R276: vector loads take each active element from the bytes at its address, in every way of
addressing, and change no other element. -/
def Sys2Proof.Rules.VectorLoads : Prop :=
  ∀ vd sa sb x k ew s,
    let b := widthNow s
    (WidthIs s true ew.toNat →
      LoadsElements (.vld vd sa x k ew) s vd k (unitAddr s sa x b) (fun i => i) ∧
      LoadsElements (.vld2d vd sa sb k ew) s vd k (rowAddr s sa sb b) (fun i => i % (lenNow s).colc)) ∧
    (WidthIs s false ew.toNat →
      LoadsElements (.vlds vd sa sb k ew) s vd k (strideAddr s sa sb) (fun i => i) ∧
      (IndexFits s x → LoadsElements (.vldx vd sa x k ew) s vd k (indexAddr s sa x) (fun i => i)))

/-- R273-R276: vector stores put each active element's bytes at its address, in element order, and
write nothing else. -/
def Sys2Proof.Rules.VectorStores : Prop :=
  ∀ vd sa sb x k ew s, Fits s vd (groupNow s) →
    let b := widthNow s
    let row := (lenNow s).colc
    (WidthIs s true ew.toNat →
      StoresElements (.vst vd sa x k ew) s k (unitAddr s sa x b) (fun i => bytesOfElem s vd i (i + 2) i) ∧
      StoresElements (.vst2d vd sa sb k ew) s k (rowAddr s sa sb b) (fun i => bytesOfElem s vd (i % row) row i)) ∧
    (WidthIs s false ew.toNat →
      StoresElements (.vsts vd sa sb k ew) s k (strideAddr s sa sb) (fun i => bytesOfElem s vd i (i + 2) i) ∧
      (IndexFits s x →
        StoresElements (.vstx vd sa x k ew) s k (indexAddr s sa x) (fun i => bytesOfElem s vd i (i + 2) i)))

/-- R273-R276: the vector loads and stores in every addressing form. The model's own choices in it: log
entries 4, 11 (DESIGN CHOICE). -/
def Obligations.VectorLoadsAndStoresMoveElements : Prop :=
  VectorLoads ∧ VectorStores

/-- R277, R297-R302: window loads, linked gathers, conditional scatters (all of whose links hold, or none)
and combining updates. The model's own choices in it: log entries 4, 7 (DESIGN CHOICE 4; DEDUCED 7). -/
def Obligations.WindowLoadsLinksAndCombiningUpdates : Prop :=
  ∀ vd sa x k s,
    let b := widthNow s
    let act := active s k
    Fits s vd (groupNow s) →
    (∀ (wn chunk : BitVec 5) (ew : BitVec 2) (bytes : Nat → List Byte), WidthIs s true ew.toNat →
      Issues (.vldw vd wn chunk k ew) s →
      let w := getWin s s.hart.core wn.toNat
      let pos (i : Nat) : BitVec 32 := w.head + BitVec.ofNat 32 (256 * chunk.toNat + i * b / 8)
      w.mode ≠ 0 → w.mode ≠ 5 → w.owner = s.hart.hid → 256 * chunk.toNat + ((lenNow s).vl * b + 7) / 8 ≤ w.size →
      (∀ i ∈ act, readWindow s s.hart.core wn.toNat (pos i) (elemBytes s) = some (bytes i) ∧
        ∀ j, j < elemBytes s → (pos i + BitVec.ofNat 32 j - w.head).toNat < w.avail) →
      Does (.vldw vd wn chunk k ew) s (moved s vd b (each act fun i => partOf s i (natOfBytes (bytes i))))) ∧
    (∀ ew : BitVec 1, b = (if ew = 0 then 32 else 64) → IndexFits s x → ∀ loc tag,
      let lines := act.map fun i => ownLink s (loc i / 128)
      (Issues (.vldl vd sa x k ew) s → Reaches s .read act (indexAddr s sa x) loc tag →
        (∀ i ∈ act, isDram (loc i) = true) →
        Does (.vldl vd sa x k ew) s (moved (lines.foldl setLink s) vd b (each act (seen s loc tag)))) ∧
      (Issues (.vstc vd sa x k ew) s → Reaches s .write act (indexAddr s sa x) loc tag →
        (∀ i ∈ act, isDram (loc i) = true) → s.bad = [] →
        ((∀ i ∈ act, linked s (loc i / 128) = true) → (act.map (indexAddr s sa x)).Nodup →
          Completes (.vstc vd sa x k ew) s fun t =>
            t.hart.k = s.hart.k ∧ t.hart.linkGen = s.hart.linkGen + 1 ∧ t.hart.pc = pcAfter s ∧
            t.mem = (storeAll s (act.map fun i => (loc i, tag i, bytesOfElem s vd i (i + 2) i))).mem) ∧
        ((∀ i ∈ act, linked s (loc i / 128) = false) →
          Completes (.vstc vd sa x k ew) s fun t =>
            t.mem = s.mem ∧ t.hart.linkGen = s.hart.linkGen + 1 ∧ t.hart.pc = pcAfter s ∧
            ∀ i, i < 512 * s.hart.width → k ≠ 0 →
              (getMask t.hart k.toNat).getLsbD i = ((getMask s.hart k.toNat).getLsbD i && !act.contains i))) ∧
      (∀ r ∈ combiningOps, Issues (r.1 vd sa x k ew) s → typeNow s ∈ [2, 3, 6, 7] →
        Reaches s .write act (indexAddr s sa x) loc tag → (∀ i ∈ act, isSpad (loc i) = true) →
        Completes (r.1 vd sa x k ew) s fun t =>
          t.vamos = s.vamos ++ updates s r.2 vd act loc ∧ t.hart.pc = pcAfter s ∧ t.mem = s.mem ∧
          (∀ c, c ∈ t.hart.job.banks ↔ c ∈ s.hart.job.banks ∨ ∃ i ∈ act, c = bankOf (loc i)) ∧
          t.hart.v = s.hart.v ∧ t.hart.k = s.hart.k ∧ t.hart.s = s.hart.s))

/-- R215-R221, R233, R234, R239: the mode instructions, the cleared tile, the products from windows
and from registers, and the conversion of the tile. -/
def Sys2Proof.Rules.MatrixModeAndProducts : Prop :=
  ∀ s,
    (s.hart.mview = false → Issues .menter s →
      Does .menter s (withHart s fun h => { h with mmode := true, mview := true })) ∧
    (s.hart.mview = true →
      (Issues .mexit s → Does .mexit s (withHart s fun h => { h with mmode := false, mview := false })) ∧
      (Issues .mzero s → Does .mzero s (tileLanded s fun _ _ => exact 0)) ∧
      (∀ wa wb ws fmt ks, Issues (.mop wa wb ws fmt ks) s →
        let l := stringsOf s wa wb ws fmt (ks.toNat + 1)
        ∀ strings : List (List Byte), Serve s l →
        (l.map fun p => readWindow s s.hart.core p.1 (getWin s s.hart.core p.1).head p.2) = strings.map some →
        let x (n : Nat) : Nat := natOfBytes (strings.getD n [])
        Does (.mop wa wb ws fmt ks) s (poppedAll (tileLanded s (accumulated s fmt.toNat (ks.toNat + 1)
          (windowOps s.hart.width fmt.toNat (x 0) (x 1) (x 2)))) l)) ∧
      (∀ va vb fmt ks, Issues (.mopv va vb fmt ks) s →
        let k := 2 ^ ks.toNat
        let b := matWidth fmt.toNat
        let n := matCols fmt.toNat
        va.toNat + (k * (2 * s.hart.width * b / 8) + 32 * s.hart.width - 1) / (32 * s.hart.width) ≤ 48 →
        vb.toNat + (k * (n * b / 8) + 32 * s.hart.width - 1) / (32 * s.hart.width) ≤ 48 →
        Does (.mopv va vb fmt ks) s (tileLanded s (accumulated s fmt.toNat k
          { a := fun i t => elem s va b (t * (2 * s.hart.width) + i), b := fun t j => elem s vb b (t * n + j),
            sa := fun _ _ => 0, sb := fun _ _ => 0 }))) ∧
      (∀ sa fmt, Issues (.mcvt sa fmt) s →
        Does (.mcvt sa fmt) s (tileLanded s fun i j =>
          convertAcc (fmt = 0xB) (modeNow s) ((rdS s sa).toNat % 2 ^ 32) (tileGet s.hart i j))))

/-- R235-R238: the tile loaded from the own scratchpad, and stored there row by row, its scales
behind its rows. -/
def Sys2Proof.Rules.TileLoadsAndStores : Prop :=
  ∀ sa sb fmt s, s.hart.mview = true → TileLies s fmt.toNat (rdS s sa).toNat (rdS s sb).toNat → s.bad = [] →
    let f := fmt.toNat
    let B := (rdS s sa).toNat
    let T := (rdS s sb).toNat
    let spad (off : Nat) : Nat := spadLoc s.hart.core off
    (Issues (.mld sa sb fmt) s →
      Does (.mld sa sb fmt) s (tileLanded s fun i j =>
        loadTile f (modeNow s)
          (if f = 1 ∨ f = 4 ∨ f = 5 then
            packed (natOfBytes (getBytes s.mem (spad (B + 2 * s.hart.width * T + 4 * i)) 4)) 16 (j / 32) else 0)
          (packed (natOfBytes (getBytes s.mem (spad (B + i * T)) (tileRowBytes f))) (tileBits f) j))) ∧
    (Issues (.mst sa sb fmt) s → (∀ off, byteGuarded s s.hart.key s.hart.core off = false) →
      let row (i : Nat) := storeRow s.hart f (modeNow s) (fcsrSat (fcsrNow s)) i
      let rows := List.range (2 * s.hart.width)
      Does (.mst sa sb fmt) s (retire
        (storeAll s ((rows.map fun i => (spad (B + i * T), 0, (row i).1)) ++
          ((rows.map fun i => (spad (B + 2 * s.hart.width * T + 4 * i), 0, (row i).2.1)).filter fun p => p.2.2 ≠ [])))
        (rows.foldl (fun x i => x ||| (row i).2.2) 0)))

/-- R215-R221, R232-R239: matrix mode, the products from windows and registers, and the tile moved between the
accumulator and the own scratchpad. -/
def Obligations.MatrixModeProductsAndTiles : Prop :=
  MatrixModeAndProducts ∧ TileLoadsAndStores

/-- R258, R290-R292, R302, R305: the fences wait for retirement and leave everything as it is, but that an
acquiring `fence` at group scope or wider empties the core's data cache of device memory and `vfence`
flushes the hart's combining updates. The model's own choices in it: log entry 4 (DESIGN CHOICE). -/
def Obligations.FencesCompleteWhenEarlierWorkIsDone : Prop :=
  ∀ s,
    (∀ kind scope, Retired s → DoesButCaches (.fence kind scope) s s ∧
      (kind.toNat % 2 = 1 → 3 ≤ scope.toNat → Completes (.fence kind scope) s Acquired) ∧
      (kind.toNat % 2 = 0 ∨ scope.toNat < 3 → Does (.fence kind scope) s s)) ∧
    (Retired s → s.hart.posted = [] → Does .lsync s s) ∧
    (Retired s → Does .vfence s (flushVamo s)) ∧
    (s.hart.outbox = [] → (∀ m ∈ s.eng.messages, m.sender ≠ s.hart.key) → Does .qfence s s) ∧
    (¬ Retired s → ∀ kind scope, Completes (.fence kind scope) s fun t =>
      t.hart.pc = s.hart.pc ∧ t.hart.block = .resync ∧ t.hart.x.stalled = true ∧ t.mem = s.mem)

/-! ### Jobs, counters, barriers and waits -/

/-- R326, R327, R348, R349: `spawn` and `gang` answer why they refuse, in the order of their rules; else
`spawn` puts a new job of the caller's tree at the spawn end of the own store, or into the pool, and
`gang` queues its request behind those of its tenant. -/
def Obligations.SpawnAndGangCreateJobs : Prop :=
  ∀ sd sa sb s x s1, Coherent s .read (rdS s sa) 64 → loadX s (acc s .other .read) (rdS s sa) 64 = .ok x s1 →
    let r := parseRec x
    let h := s.hart
    let dead := treeAbandoned s1 h.job.tree
    (dead = true → Does (.spawn sd sa) s (wrS s1 sd 5)) ∧
    (dead = false → r.malformed false = true → Does (.spawn sd sa) s (wrS s1 sd 4)) ∧
    (dead = false → r.malformed false = false → Retired s →
      (storeAccepts s1 h.core (treeDeadline s1 h.job.tree) = true →
        Completes (.spawn sd sa) s fun t => Quiet s t sd ∧ (sd ≠ 0 → reg t sd = 0) ∧ t.mem = s1.mem ∧
          ∃ j : Job, getReady t h.core = j :: getReady s1 h.core ∧ IsNew s1 r h.job.tenant h.job.tree h.core j) ∧
      (storeAccepts s1 h.core (treeDeadline s1 h.job.tree) = false → s1.disp.pool.length < 16384 →
        Completes (.spawn sd sa) s fun t => Quiet s t sd ∧ (sd ≠ 0 → reg t sd = 1) ∧ t.mem = s1.mem ∧
          ∃ j : Job, t.disp.pool = s1.disp.pool ++ [j] ∧ IsNew s1 r h.job.tenant h.job.tree h.core j) ∧
      (storeAccepts s1 h.core (treeDeadline s1 h.job.tree) = false → 16384 ≤ s1.disp.pool.length →
        Does (.spawn sd sa) s (wrS s1 sd 2))) ∧
    ∀ m s2, Coherent s1 .read (rdS s1 sb) 16 → loadX s1 (acc s1 .other .read) (rdS s1 sb) 16 = .ok m s2 →
      let maskBad := m = 0 ∨ 2 ^ 96 ≤ m ∨ ∃ c, c < 96 ∧ m.testBit c = true ∧ currentTenant s2 c ≠ h.job.tenant
      let mine := s2.disp.gangs.filter fun g => g.tenant == h.job.tenant
      (dead = true → Does (.gang sd sa sb) s (wrS s2 sd 5)) ∧
      (dead = false → r.malformed false = true → Does (.gang sd sa sb) s (wrS s2 sd 4)) ∧
      (dead = false → r.malformed false = false → maskBad → Does (.gang sd sa sb) s (wrS s2 sd 3)) ∧
      (dead = false → r.malformed false = false → ¬ maskBad → 16 ≤ mine.length → Does (.gang sd sa sb) s (wrS s2 sd 2)) ∧
      (dead = false → r.malformed false = false → ¬ maskBad → mine.length < 16 → Retired s →
        Completes (.gang sd sa sb) s fun t => Quiet s t sd ∧ (sd ≠ 0 → reg t sd = 0) ∧ t.mem = s2.mem ∧
          ∃ g : GangReq, t.disp.gangs = s2.disp.gangs ++ [g] ∧ g.tenant = h.job.tenant ∧ g.tree = h.job.tree ∧ g.record = r ∧
            g.mask = m ∧ g.held = [] ∧ g.ids.length = ((List.range 96).filter m.testBit).length)

/-- R318, R320, R350, R351, R354, R487: `exit` flushes, decrements the exit counter and the one it names,
writes the record of status DONE and frees the hart, whose registers stay as they are until the next job; `yield` saves it with reason 5 and puts its
record at the steal end of its class; in a tree that is abandoned, where nothing binds any more, the job ends
EXPIRED after it was saved. The model's own choice in it: log entry 40 (DEDUCED). -/
def Obligations.ExitAndYieldLeaveTheHart : Prop :=
  ∀ sa s, let s1 := flushVamo s
    Retired s → s.hart.posted = [] → s1.hart.posted = [] →
    let j := s.hart.job
    (let s2 := if j.record.xce then decOwned s1 j.record.exitCtr 1 j.tenant else s1
      let s3 := if sa = 0 then s2 else decOwned s2 ((rdS s1 sa).toNat % 4096) 1 j.tenant
      Completes (.exitJob sa) s fun t =>
        t.hart.stage = .free ∧ t.hart.width = 0 ∧ t.hart.linkGen = s.hart.linkGen ∧ t.hart.s = s.hart.s ∧
        t.hart.v = s.hart.v ∧ t.hart.k = s.hart.k ∧ t.hart.len = s.hart.len ∧ t.hart.fcsr = s.hart.fcsr ∧
        t.hart.vsync = s.hart.vsync ∧ t.hart.jprog = s.hart.jprog ∧
        t.mem = (writeRecord s3 j.tenant j.record.compl.toNat (lastRecord s j.lastCause 1)).mem) ∧
    let saved := saveHart s1 5 false 0 (s.hart.x.iaddr + 4) 0 63
    (treeAbandoned s1 j.tree = true → Completes .yieldJob s fun t =>
      t.hart.stage = .free ∧ t.hart.width = 0 ∧
      t.mem = (writeRecord saved j.tenant j.record.compl.toNat (lastRecord s 0x30 3)).mem) ∧
    (treeAbandoned s1 j.tree = false → Completes .yieldJob s fun t =>
      t.hart.stage = .free ∧ t.hart.width = 0 ∧ t.mem = saved.mem ∧
      ∃ q : Job, getReady t s.hart.core = getReady s1 s.hart.core ++ [q] ∧ q.record = j.record ∧ q.job = j.job ∧
        q.tree = j.tree ∧ q.tenant = j.tenant ∧ q.ran = true ∧ q.steal = false ∧ q.arrival = j.arrival)

/-- R352, R353, R358, R359: `abandon` and the deadline timer begin a tree's abandonment: the tree is marked,
none of its jobs stays in a store, and none of its counters stays PENDING; `setdl` asks for another deadline
and returns the one before it, waiting while an earlier request of the tree is on its way; a request that reaches the
dispatcher re-keys the tree, and one that device time has reached abandons it. The model's own choices in
it: log entries 3, 35, 61 (DESIGN CHOICE 3, 35; DEDUCED 61). -/
def Obligations.TreesAreAbandonedAndRekeyed : Prop :=
  ∀ sd sa s, let j := s.hart.job
    let v := if sa = 0 then j.tree.toNat else (rdS s sa).toNat
    (v < 2 ^ 32 → treeLive s (BitVec.ofNat 32 v) j.tenant = true →
      Does (.abandon sd sa) s (wrS (abandonTree s (BitVec.ofNat 32 v) true) sd 0)) ∧
    (¬ (v < 2 ^ 32 ∧ treeLive s (BitVec.ofNat 32 v) j.tenant = true) → Does (.abandon sd sa) s (wrS s sd 1)) ∧
    ((∀ r ∈ s.disp.setdl, r.tree ≠ j.tree) → Does (.setdl sd sa) s
      (wrS { s with disp := { s.disp with setdl := s.disp.setdl ++ [⟨j.tree, rdS s sa⟩] } } sd (treeDeadline s j.tree))) ∧
    ((∃ r ∈ s.disp.setdl, r.tree = j.tree) → exec (.setdl sd sa) s = .next (withHart s fun h =>
      { h with block := .order, x := { h.x with stalled := true } })) ∧
    (∀ id t byOp, getTree s id = some t → t.abandoned = false →
      let u := abandonTree s id byOp
      (∃ t1, getTree u id = some t1 ∧ t1.abandoned = true ∧ t1.deadline = t.deadline) ∧
      (∀ q ∈ u.disp.pool, q.tree ≠ id) ∧ (∀ c, ∀ q ∈ mapGet [] u.disp.ready c, q.tree ≠ id) ∧
      (∀ g ∈ u.disp.gangs, g.tree ≠ id) ∧
      (∀ n, (getCtr u n).state = .pending → (getCtr u n).tree ≠ id)) ∧
    (∀ p t, s.disp.trees.find? (fun p => match p.2 with
        | some t => !t.abandoned && t.deadline != bestEffort && decide (t.deadline.toNat ≤ s.time.now.toNat)
        | none => false) = some p → p.2 = some t →
      exec .treeDeadline s = .next (abandonTree s (BitVec.ofNat 32 p.1) false)) ∧
    (∀ r rest t, s.disp.setdl = r :: rest → getTree s r.tree = some t →
      (t.deadline = bestEffort ∨ r.deadline = bestEffort ∨ t.abandoned = true →
        exec .setdlRequest s = .next { s with disp := { s.disp with setdl := rest } }) ∧
      (t.deadline ≠ bestEffort → r.deadline ≠ bestEffort → t.abandoned = false →
        (s.time.now.toNat < r.deadline.toNat →
          Completes .setdlRequest s fun u => u.disp.setdl = rest ∧ treeDeadline u r.tree = r.deadline ∧
            treeAbandoned u r.tree = false ∧ u.mem = s.mem ∧ (∀ k ∈ hartKeys s, (getHart u k).preempt = false) ∧
            ∀ p ∈ boundJobs s, p.2.tree = r.tree → (getHart u p.1).jdl = r.deadline) ∧
        (r.deadline.toNat ≤ s.time.now.toNat →
          Completes .setdlRequest s fun u => u.disp.setdl = rest ∧ treeAbandoned u r.tree = true)))

/-- R355-R357: the dependence instructions, with their error answers in the order of the rule; a
counter that reaches zero is DONE and turns its copy into a job of the pool; `dep.get` acquires (R303). The
model's own choice in it: log entry 42 (DEDUCED). -/
def Obligations.DependenceCountersCount : Prop :=
  ∀ sd sa sb s, let v := (rdS s sa).toNat
    let n := v % 4096
    let c := getCtr s n
    let clean := v / 4096 % 2 ^ 20 = 0
    let mine := c.owner = s.hart.job.tenant
    let armed (k : Option JobRec) : DepCounter :=
      { owner := c.owner, state := .pending, count := v / 2 ^ 32, tree := s.hart.job.tree, tenant := s.hart.job.tenant, copy := k }
    (∀ i ∈ [Instr.depInit sd sa sb, .depAdd sd sa sb, .depDec sd sa sb],
      (¬ clean → Does i s (wrS s sd 4)) ∧ (clean → ¬ mine → Does i s (wrS s sd 3))) ∧
    (clean → mine →
      (treeAbandoned s s.hart.job.tree = true → Does (.depInit sd sa sb) s (wrS s sd 5)) ∧
      (treeAbandoned s s.hart.job.tree = false → c.state = .pending → Does (.depInit sd sa sb) s (wrS s sd 2)) ∧
      (treeAbandoned s s.hart.job.tree = false → c.state ≠ .pending →
        (rdS s sb = 0 → v / 2 ^ 32 ≠ 0 → Does (.depInit sd sa sb) s (wrS (setCtr s n (armed none)) sd 0)) ∧
        (rdS s sb = 0 → v / 2 ^ 32 = 0 →
          Does (.depInit sd sa sb) s (wrS (setCtr s n { armed none with state := .done }) sd 0)) ∧
        (rdS s sb ≠ 0 → ∀ x s1, Coherent s .read (rdS s sb) 64 → loadX s (acc s .other .read) (rdS s sb) 64 = .ok x s1 →
          ((parseRec x).malformed false = true → Does (.depInit sd sa sb) s (wrS s1 sd 4)) ∧
          ((parseRec x).malformed false = false → v / 2 ^ 32 ≠ 0 →
            Does (.depInit sd sa sb) s (wrS (setCtr s1 n (armed (some (parseRec x)))) sd 0)) ∧
          ((parseRec x).malformed false = false → v / 2 ^ 32 = 0 →
            Completes (.depInit sd sa sb) s fun t => Quiet s t sd ∧ (sd ≠ 0 → reg t sd = 0) ∧
              getCtr t n = { armed none with state := .done } ∧
              ∃ j : Job, t.disp.pool = s1.disp.pool ++ [j] ∧
                IsNew s1 (parseRec x) s.hart.job.tenant s.hart.job.tree 255 j))) ∧
      (c.state ≠ .pending → Does (.depAdd sd sa sb) s (wrS s sd 1)) ∧
      (c.state = .pending → c.count + (rdS s sb).toNat < 2 ^ 32 →
        Does (.depAdd sd sa sb) s (wrS (setCtr s n { c with count := c.count + (rdS s sb).toNat }) sd 0)) ∧
      (c.state = .pending → 2 ^ 32 ≤ c.count + (rdS s sb).toNat → c.copy = none →
        Does (.depAdd sd sa sb) s (wrS (setCtr s n { c with state := .error }) sd 0)) ∧
      (let d := if sb = 0 then 1 else (rdS s sb).toNat;
        (c.state = .pending → d < c.count →
          Does (.depDec sd sa sb) s (wrS (setCtr s n { c with count := c.count - d }) sd 0)) ∧
        (c.state = .pending → d = c.count → c.copy = none →
          Does (.depDec sd sa sb) s (wrS (setCtr s n { c with count := 0, state := .done }) sd 0)) ∧
        (c.state = .pending → d = c.count → ∀ r, c.copy = some r →
          Completes (.depDec sd sa sb) s fun t => Quiet s t sd ∧ (sd ≠ 0 → reg t sd = 0) ∧
            getCtr t n = { c with count := 0, state := .done, copy := none } ∧
            ∃ j : Job, t.disp.pool = s.disp.pool ++ [j] ∧ IsNew s r c.tenant c.tree 255 j) ∧
        (c.state = .dropped → Does (.depDec sd sa sb) s (wrS s sd 0)) ∧
        (c.state ≠ .dropped → (c.state = .pending → c.count < d) → c.copy = none →
          Does (.depDec sd sa sb) s (wrS (setCtr s n { c with state := .error }) sd 0)))) ∧
    DoesButCaches (.depGet sd sa) s (wrS s sd (
      if ¬ clean then 0xFFFFFFFF00000004 else if ¬ mine then 0xFFFFFFFF00000003
      else BitVec.ofNat 64 (counterCode c.state * 2 ^ 32 + c.count))) ∧
    Completes (.depGet sd sa) s Acquired

/-- R104, R435-R439: `bar.init` and the arrival forms, which add their contribution and count one; the
arrival that makes the count as expected completes the phase with its results. The model's own choices in
it: log entries 3, 4 (DESIGN CHOICE). -/
def Obligations.BarriersArriveAndComplete : Prop :=
  ∀ sd sa sb s, let h := rdS s sa
    let o := h.toNat % 512
    let b := getBar s o
    let bad := 2 ^ 32 ≤ h.toNat ∨ h.toNat / 512 % 128 ≠ 0 ∨ 383 < o
    let n := (rdS s sb).toNat
    (bad ∨ n = 0 ∨ 4096 < n → Does (.barInit sd sa sb) s (wrS s sd 4)) ∧
    (¬ bad → 1 ≤ n → n ≤ 4096 →
      (b.owner ≠ s.hart.job.tenant → Does (.barInit sd sa sb) s (wrS s sd 3)) ∧
      (b.owner = s.hart.job.tenant → b.count ≠ 0 → Does (.barInit sd sa sb) s (wrS s sd 2)) ∧
      (b.owner = s.hart.job.tenant → b.count = 0 →
        Does (.barInit sd sa sb) s (wrS (setBar s o { owner := b.owner, expected := n }) sd 0))) ∧
    ∀ r ∈ arrivalForms sb s, ∀ i, i = r.1 sd sa →
      (bad ∨ b.owner ≠ s.hart.job.tenant ∨ b.expected = 0 → Does i s (wrS s sd (BitVec.ofInt 64 (-1)))) ∧
      (¬ bad → b.owner = s.hart.job.tenant → b.expected ≠ 0 → Retired s → s.arrivals = [] →
        let c := { r.2 b with count := b.count + 1 }
        let d : Barrier :=
          if c.count = b.expected then
            { owner := b.owner, expected := b.expected, phases := b.phases + 1, res0 := barResult c.acc0 c.flags0,
              res1 := barResult c.acc1 c.flags1, resi := c.iacc }
          else c
        Does i s (wrS (setBar s o d) sd (BitVec.ofNat 64 (b.phases.toNat % 2 ^ 16 * 2 ^ 16 + o)))) ∧
      (∀ a rest, s.arrivals = a :: rest → a.hart = s.hart.key → a.form = 0 → (getBar s a.object).owner = a.tenant →
        (getBar s a.object).expected ≠ 0 → (getBar s a.object).count + 1 ≠ (getBar s a.object).expected →
        exec .barrierArrival s = .next (wrS
          (setBar { s with arrivals := rest } a.object
            { getBar s a.object with count := (getBar s a.object).count + 1 }) a.sd
          (BitVec.ofNat 64 ((getBar s a.object).phases.toNat % 2 ^ 16 * 2 ^ 16 + a.object))))

/-- R303, R432, R433, R440, R444: a wait whose condition holds, or came true first, completes with its value or
status, and one for a barrier then acquires; one that cannot wait answers at once, a timed one answers 1 from
its limit on, and any other waits with nothing changed but the hart's being blocked. -/
def Obligations.WaitsHoldOrTimeOut : Prop :=
  ∀ sd sa sb s, let h := rdS s sa
    let b := getBar s (h.toNat % 512)
    let bad := 2 ^ 32 ≤ h.toNat ∨ h.toNat / 512 % 128 ≠ 0 ∨ 383 < h.toNat % 512
    let due (l : Dword) := l.toNat ≤ s.time.now.toNat
    let barrier := b.phases.toNat % 2 ^ 16 ≠ h.toNat / 2 ^ 16 % 2 ^ 16
    let w := getWin s s.hart.core sa.toNat
    let unusable := 15 < sa.toNat ∨ w.mode ∉ [1, 2, 3, 4] ∨ w.owner ≠ s.hart.hid
    let n := (rdS s sb).toNat
    let arrived := if n = 0 then w.armed &&& ~~~w.arrived = 0 else n ≤ w.avail
    (∀ sel : BitVec 5,
      (bad ∨ b.owner ≠ s.hart.job.tenant → Does (.barWait sd sa sel) s (wrS s sd (BitVec.ofInt 64 (-1)))) ∧
      (¬ bad → b.owner = s.hart.job.tenant →
        (barrier ∨ s.hart.waitEnd = some true →
          DoesButCaches (.barWait sd sa sel) s (wrS s sd (
            if sel = 0 then b.res0 else if sel = 1 then b.res1 else if sel = 2 then b.resi
            else if sel = 3 then b.phases.zeroExtend 64 else BitVec.ofInt 64 (-1))) ∧
          Completes (.barWait sd sa sel) s Acquired) ∧
        (¬ (barrier ∨ s.hart.waitEnd = some true) → StaysAt (.barWait sd sa sel) s))) ∧
    (bad → Does (.barWaitt sd sa sb) s (wrS s sd 4)) ∧
    (¬ bad → b.owner ≠ s.hart.job.tenant → Does (.barWaitt sd sa sb) s (wrS s sd 3)) ∧
    (¬ bad → b.owner = s.hart.job.tenant → TimedBy (.barWaitt sd sa sb) s sd barrier (due (rdS s sb)) ∧
      (MayHold s barrier → Completes (.barWaitt sd sa sb) s Acquired)) ∧
    (∀ i ∈ [Instr.winaWait sd sa sb, .winaWaitt sd sa sb],
      (unusable → Does i s (wrS s sd 2)) ∧ (¬ unusable → w.size < n → Does i s (wrS s sd 3))) ∧
    (¬ unusable → n ≤ w.size →
      (arrived ∨ s.hart.waitEnd = some true → Does (.winaWait sd sa sb) s (wrS s sd 0)) ∧
      (¬ (arrived ∨ s.hart.waitEnd = some true) → StaysAt (.winaWait sd sa sb) s) ∧
      TimedBy (.winaWaitt sd sa sb) s sd arrived (due (rdS s sd)) ∧
      (MayHold s arrived → Does (.winaWaitt sd sa sb) s (wrS s sd 0)))

/-- R248, R295, R296, R303, R433, R442, R443: `tkt.take` and `tkt.give` return the ticket word and raise it by one,
and its line leaves the core's data cache; a ticket wait completes, and acquires, when a read of the word, by the
hart or by its watch, has returned its ticket, or when it was decided so; a timed one answers 1 when its limit came
first; one whose page is being translated goes on waiting; a word of a site or of a host page takes the
atomic-target fault, a misaligned one the alignment trap. The model's own choices in it: log entry 28 (DEDUCED). -/
def Obligations.TicketsCountUpAndWaitForEquality : Prop :=
  ∀ sd sa sb s, let ea := rdS s sa
    (∀ i ∈ [Instr.tktTake sd sa, .tktGive sd sa], (i = .tktGive sd sa → Retired s) → Coherent s .write ea 8 →
      (∀ l tag s1 v, TicketAt s ea l tag s1 v →
        Does i s (wrS (dGone ((writeLoc s1 tag l (bytesOfNat 8 ((v + 1) % 2 ^ 64))).getD s1) s.hart.core l) sd (BitVec.ofNat 64 v))) ∧
      (∀ t s1, resolve s (acc s .other .write) ea 8 = .ok t s1 → NoTicket t → exec i s = .next (trappedAt 6 s1 0x17 ea)) ∧
      (ea.toNat % 8 ≠ 0 → Traps i s 0x10 ea)) ∧
    (∀ i ∈ [Instr.tktWait sa sb, .tktWaitt sd sa sb], let s0 := if s.hart.blockedBy = some i then s else unwatch s s.hart.key
      let done (u : State) (v : Dword) : State := if i = .tktWait sa sb then unwatch u u.hart.key else wrS (unwatch u u.hart.key) sd v
      let left : State := dropWalks s0 s.hart.key
      let open_ : Prop := s.hart.waitEnd = none ∧ sawTicket s0 (rdS s sb) = false
      let limited : Prop := i = .tktWaitt sd sa sb ∧ (rdS s sd).toNat ≤ s.time.now.toNat
      (MayHold s (sawTicket s0 (rdS s sb) = true) → DoesButCaches i s (done left 0) ∧ Completes i s Acquired) ∧
      (i = .tktWaitt sd sa sb → s.hart.waitEnd = some false → Does i s (done left 1)) ∧
      (open_ → Coherent s0 .read ea 8 →
        (∀ l tag s1 v, TicketAt s0 ea l tag s1 v →
          (BitVec.ofNat 64 v = rdS s sb → DoesButCaches i s (done s1 0) ∧ Completes i s Acquired) ∧
          (BitVec.ofNat 64 v ≠ rdS s sb → limited →
            Completes i s fun t => Quiet s t sd ∧ (sd ≠ 0 → reg t sd = 1) ∧ t.mem = s1.mem) ∧
          (BitVec.ofNat 64 v ≠ rdS s sb → ¬ limited →
            Completes i s fun t => t.hart.pc = s.hart.pc ∧ t.hart.block = .wait ∧ t.hart.blockedBy = some i ∧
              t.hart.x.stalled = true ∧ t.hart.s = s.hart.s ∧ t.mem = s1.mem)) ∧
        (∀ s1, resolve s0 (acc s .other .write) ea 8 = .wait s1 → s.hart.blockedBy = some i ∨ ¬ limited →
          exec i s = .next (withHart s1 fun h =>
            { h with block := .walk, blockedBy := some i, x := { h.x with stalled := true } }))))

/-- R115, R433, R443: what ends a wait of the hart in focus performs the waiting instruction, and the hart goes
on behind it: a condition that became true, a limit that was reached first, a ticket read without a watch,
and, for a resynchronising access, the retirement of all that was queued before it. The model's own choices
in it: log entry 28 (DEDUCED). -/
def Obligations.WaitingInstructionsArePerformed : Prop :=
  ∀ s i, s.hart.stage = .running → s.hart.pend = [] → s.hart.blockedBy = some i →
    (s.hart.block = .wait → (∃ sd sa sb, i = .barWait sd sa sb ∨ i = .barWaitt sd sa sb ∨ i = .winaWait sd sa sb ∨
        i = .winaWaitt sd sa sb) →
      (MayHold s (waitHolds s i = true) →
        exec .waitConditionMet s = exec i s ∧
        Completes .waitConditionMet s fun t => t.hart.pc = pcAfter s ∧ t.mem = s.mem ∧
          (s.hart.x.hold = false → t.hart.block = .none)) ∧
      (∀ l sd sa sb, i = .barWaitt sd sa sb ∨ i = .winaWaitt sd sa sb → waitLimit s i = some l →
        waitHolds s i = false → s.hart.waitEnd ≠ some true →
        s.hart.waitEnd = some false ∨ l.toNat ≤ s.time.now.toNat →
        exec .timedWaitLimit s = exec i s ∧
        Completes .timedWaitLimit s fun t => t.hart.pc = pcAfter s ∧ t.mem = s.mem ∧ (sd ≠ 0 → reg t sd = 1))) ∧
    (s.hart.block = .wait → ∀ sa sb l tag s1, i = .tktWait sa sb → s.hart.waitEnd = none →
      TicketAt s (rdS s sa) l tag s1 (rdS s sb).toNat → Coherent s .read (rdS s sa) 8 →
      let ends (e : Instr) : Prop := exec e s = exec i s ∧
        Completes e s fun t => t.hart.pc = pcAfter s ∧ t.mem = s.mem ∧ (s.hart.x.hold = false → t.hart.block = .none)
      (hasWatch s s.hart.key = true → ends .waitConditionMet) ∧
      (hasWatch s s.hart.key = false → ends .ticketPoll)) ∧
    (s.hart.block = .wait ∨ s.hart.block = .walk → ∀ sd sa sb, i = .tktWaitt sd sa sb → s.hart.waitEnd = some false →
      exec .timedWaitLimit s = exec i s ∧
      Completes .timedWaitLimit s fun t => t.hart.pc = pcAfter s ∧ t.mem = s.mem ∧ (sd ≠ 0 → reg t sd = 1)) ∧
    (s.hart.block = .resync → s.hart.queue = [] → s.hart.x.paired = false → ∀ sd n, i = .mfc sd n →
      n.toNat ∈ resyncRegisters →
      exec .resynchronisingAccess s = exec i (withHart s fun h => { h with block := .none, blockedBy := none }) ∧
      Completes .resynchronisingAccess s fun t => t.hart.pc = pcAfter s ∧ t.mem = s.mem ∧
        (sd ≠ 0 → reg t sd = cregVal s.hart n.toNat) ∧ t.hart.vsync = s.hart.vsync + 1)

/-! ### Windows, spools, coding engines and messages -/

/-- R229, R278, R366, R368, R373-R377: the window instructions, with their statuses in the order of their
rules; `win.cfg`, `win.pop` and `win.arm` stall behind a queued instruction that names the window. -/
def Obligations.WindowsAreConfiguredAndConsumed : Prop :=
  ∀ sd wn sb s, let n := wn.toNat
    let w := getWin s s.hart.core n
    let v := rdS s sb
    let unusable := 15 < n ∨ w.mode ∉ [1, 2, 3, 4] ∨ w.owner ≠ s.hart.hid
    (∀ i ∈ [Instr.winCfg sd wn sb, .winPop sd wn sb, .winArm sd wn sb],
      windowQueued s.hart n = true → StallsAs .order i s) ∧
    (windowQueued s.hart n = false →
      (unusable → Does (.winPop sd wn sb) s (wrS s sd 1) ∧ Does (.winArm sd wn sb) s (wrS s sd 1)) ∧
      (¬ unusable →
        (v.toNat % 64 ≠ 0 ∨ w.avail < v.toNat → Does (.winPop sd wn sb) s (wrS s sd 3)) ∧
        (v.toNat % 64 = 0 → v.toNat ≤ w.avail → Does (.winPop sd wn sb) s
          (wrS (setWin s s.hart.core n { w with head := w.head + BitVec.ofNat 32 v.toNat }) sd 0)) ∧
        ∀ m : Dword, (∀ j < 64, m.getLsbD j = true ↔ slotArrived w j) → Does (.winArm sd wn sb) s
          (wrS (setWin s s.hart.core n
            { w with origin := BitVec.ofNat 32 (w.head.toNat / 256 * 256), armed := v, arrived := m }) sd 0)) ∧
      ∀ x s1, Coherent s .read v 64 → loadX s (acc s .other .read) v 64 = .ok x s1 → getWin s1 s.hart.core n = w → s1.hart = s.hart →
        let foreign := 15 < n ∨ (w.mode ≠ 0 ∧ w.owner ≠ s.hart.hid)
        let busy := w.mode ≠ 0 ∧ (w.fill ≠ w.tail ∨ w.claimed = true)
        let off := x / 2 ^ 61 % 8 = 0
        (foreign → Does (.winCfg sd wn sb) s (wrS s1 sd 1)) ∧
        (¬ foreign → busy → Does (.winCfg sd wn sb) s (wrS s1 sd 2)) ∧
        (¬ foreign → ¬ busy → off → Does (.winCfg sd wn sb) s (wrS (setWin s1 s.hart.core n {}) sd 0)) ∧
        (¬ foreign → ¬ busy → ¬ off → ImageRefused s1 n x → Does (.winCfg sd wn sb) s (wrS s1 sd 3)) ∧
        (¬ foreign → ¬ busy → ¬ off → ¬ ImageRefused s1 n x → Does (.winCfg sd wn sb) s
          (wrS (setWin s1 s.hart.core n (imageWin x s.hart.hid)) sd 0))) ∧
    Does (.winGet sd wn sb) s (wrS s sd (if 15 < n then BitVec.allOnes 64 else windowValue w sb.toNat))

/-- R303, R384-R388, R479: the spool instructions of a compute core: why a post is refused, in order, the list that
a spool accepts, the state `spl.stat` gives of the latest one, which acquires, and lists of the twin's spools, about
which the twin answers while the tether is up. The model's own choices in it: log entries 24, 28, 42, 56 (DESIGN
CHOICE 24, 56; DEDUCED 28, 42: among them the order status 5, alignment trap, status 3, translation). -/
def Obligations.SpoolInstructionsPostLists : Prop :=
  ∀ sd sa sb s, s.hart.core < 96 → let ea := rdS s sa
    let gone := treeAbandoned s s.hart.job.tree = true ∧ s.hart.tr.grc = false
    let site := ea.toNat / 2 ^ 56 = 0xFE
    let twin := ea.toNat / 2 ^ 55 % 2 = 1
    let run := (Instr.splRun sd sa, 16)
    let mcast := (Instr.splMcast sd sa sb, 16)
    (∀ p ∈ [run, mcast, (Instr.splPush sd sa, 32)],
      (gone → Does p.1 s (wrS s sd 5)) ∧ (¬ gone → ea.toNat % p.2 ≠ 0 → Traps p.1 s 0x10 ea) ∧
      (¬ gone → ea.toNat % p.2 = 0 → site → ¬ (twin ∧ p.2 = 16) → Does p.1 s (wrS s sd 3)) ∧
      (¬ gone → ea.toNat % p.2 = 0 → site → twin → p.2 = 16 → (s.tetherUp = false → Traps p.1 s 0x12 ea) ∧
        (s.tetherUp = true → Retired s → ∃ v, v < 2 ∧ Does p.1 s (wrS { s with free := s.free + 1 } sd (BitVec.ofNat 64 v)))) ∧
      (¬ gone → ea.toNat % p.2 = 0 → ¬ site → ∀ l owner s1, splPage s ea p.2 = .ok (l, owner) s1 →
        s1.hart = s.hart → s1.disp = s.disp → s1.eng = s.eng →
        (s.hart.job.tenant = 0 → owner ≠ 0 → Does p.1 s (wrS s1 sd 3)) ∧
        ((s.hart.job.tenant = 0 → owner = 0) → Retired s →
          (p.2 = 16 → let k := if isDram l then homeSlice l else columnSpool s.hart.core;
            (24 ≤ (liveLists s k).length → Does p.1 s (wrS s1 sd 1)) ∧
            ((liveLists s k).length < 24 → Completes p.1 s fun t => Quiet s t sd ∧ (sd ≠ 0 → reg t sd = 0) ∧
              Accepted s t k fun q => q.addr = ea ∧ q.single = false ∧ q.hostPost = false ∧
                q.andMask = (if p = run then BitVec.allOnes 64 else rdS s sb))) ∧
          (p.2 = 32 → ∀ x s2, loadX s1 (acc s1 .other .read) ea 32 = .ok x s2 → s2.hart = s.hart →
              s2.eng = s.eng → s2.disp = s.disp →
            let good := DestGood (dwordOf x 1) ∧ dwordOf x 2 / 2 ^ 32 = 0 ∧ 1 ≤ dwordOf x 2 ∧
              dwordOf x 2 ≤ 16777215 ∧ OnCore (siteOf s.hart.core (dwordOf x 1))
            let k := (firstHome s2 (dwordOf x 0)).getD (columnSpool s.hart.core)
            (¬ good → Does p.1 s (wrS s2 sd 3)) ∧
            (good → 24 ≤ (liveLists s k).length → Does p.1 s (wrS s2 sd 1)) ∧
            (good → (liveLists s k).length < 24 → Completes p.1 s fun t => Quiet s t sd ∧ (sd ≠ 0 → reg t sd = 0) ∧
              Accepted s t k fun q => q.single = true ∧ q.base.toNat = dwordOf x 0 ∧ q.run = dwordOf x 2 ∧
                q.twin = (dwordOf x 1 / 2 ^ 55 % 2 = 1) ∧ q.recAddr.toNat = dwordOf x 3 ∧
                q.window = dwordOf x 1 % 16 ∧ ((q.x0 : Int), (q.y0 : Int)) = siteOf s.hart.core (dwordOf x 1)))))) ∧
    (ea.toNat % 16 ≠ 0 → Traps (.splStat sd sa) s 0x10 ea) ∧
    (ea.toNat % 16 = 0 → site → ¬ twin → Does (.splStat sd sa) s (wrS s sd 0)) ∧
    (ea.toNat % 16 = 0 → site → twin → (s.tetherUp = false → Traps (.splStat sd sa) s 0x12 ea) ∧
      (s.tetherUp = true → Retired s → Completes (.splStat sd sa) s Acquired ∧
        ∃ v : Dword, v.toNat / 4 % 2 ^ 30 = 0 ∧ DoesButCaches (.splStat sd sa) s (wrS { s with free := s.free + 1 } sd v))) ∧
    (ea.toNat % 16 = 0 → ¬ site → ∀ p s1, splPage s ea 16 = .ok p s1 → s1.hart = s.hart → s1.eng = s.eng → Retired s →
      let mine (q : SpoolList) := (∃ n < 24, q ∈ getLists s n) ∧ q.addr = ea ∧ q.tenant = s.hart.job.tenant
      Completes (.splStat sd sa) s Acquired ∧
      ((∀ q, ¬ mine q) → DoesButCaches (.splStat sd sa) s (wrS s1 sd 0)) ∧
      (∀ q, mine q → (∀ r, mine r → r ≠ q → r.serial < q.serial) →
        DoesButCaches (.splStat sd sa) s (wrS s1 sd (BitVec.ofNat 64 (q.delivered % 2 ^ 32 * 2 ^ 32 +
          (if q.ended then 0 else if !q.running then 1 else if q.waiting then 3 else 2))))))

/-- R303, R389-R392: `cstat` acquires what it reports; `cpost` answers why it refuses, else puts its command into the queue of the permitted engine
with the fewest; an engine begins the next one of its queue, and one that ends writes its output, its buffer
and its record. The model's own choices in it: log entries 9, 27, 55, 59
(DESIGN CHOICE 9, 55; PRESUMED 27; DEDUCED 59). -/
def Obligations.CodingCommandsArePostedAndRun : Prop :=
  ∀ sd sa sb s, let e := getEng s ((rdS s sa).toNat % 32)
    Completes (.cstat sd sa) s Acquired ∧
    DoesButCaches (.cstat sd sa) s (wrS s sd (if 25 < (rdS s sa).toNat % 32 then BitVec.allOnes 64
      else BitVec.ofNat 64 ((if e.running = none then 0 else 2 ^ 16) + e.queue.length))) ∧
    (∀ x s1, Coherent s .read (rdS s sb) 64 → loadX s (acc s .other .read) (rdS s sb) 64 = .ok x s1 → s1.hart = s.hart →
      let c : CodingCmd :=
        { cmd := BitVec.ofNat 512 x, tenant := s.hart.job.tenant, tree := s.hart.job.tree, job := s.hart.job.job,
          core := s.hart.core, grace := s.hart.tr.grc, pages := [] }
      (c.good = false → Does (.cpost sd sa sb) s (wrS s1 sd 4)) ∧
      (c.good = true → ∀ pages s2,
        postPages s1 ((codeExtents c).flatMap fun e => (extentPages e.1 e.2.1).map fun a => (a, e.2.2)) = .ok pages s2 →
        s2.hart = s.hart → s2.eng = s.eng → Retired s →
        let allowed (n : Nat) := n ∈ selectEngines ((rdS s sa).toNat % 64) ∧
          (getEng s n).denied.getLsbD s.hart.job.tenant = false
        let load (n : Nat) := (getEng s n).queue.length + if (getEng s n).running = none then 0 else 1
        ((∀ n, ¬ allowed n) → Does (.cpost sd sa sb) s (wrS s2 sd 3)) ∧
        ∀ n, allowed n → (∀ m, allowed m → load n < load m ∨ (load n = load m ∧ n ≤ m)) →
          (64 ≤ (getEng s n).queue.length → Does (.cpost sd sa sb) s (wrS s2 sd 1)) ∧
          ((getEng s n).queue.length < 64 → Does (.cpost sd sa sb) s
            (wrS (setEng s2 n { getEng s n with queue := (getEng s n).queue ++ [{ c with pages := pages }] }) sd 0)))) ∧
    (∀ n c rest, n < 26 → (∀ m < n, (getEng s m).running ≠ none ∨ (getEng s m).queue = []) →
      (getEng s n).running = none → (getEng s n).queue = c :: rest →
      exec .codingCommandStart s = .next (setEng s n { getEng s n with running := some c, queue := rest })) ∧
    (∀ n c, n < 26 → (∀ m < n, (getEng s m).running = none) → (getEng s n).running = some c →
      c.dword 0 / 2 ^ 59 % 2 = 0 →
      let s0 := setEng s n { getEng s n with running := none }
      let done (u : State) (status d1 : Nat) := Completes .codingCommandEnd s fun t =>
        getEng t n = { getEng s n with running := none } ∧
        t.mem = (codeStore u c (c.dword 4) (dwords
          [c.job.toNat * 2 ^ 32 + n * 2 ^ 24 + c.tenant * 2 ^ 16 + 3 * 2 ^ 8 + status, d1, c.dword 5, s.time.now.toNat])).1.mem
      (codingInput s c = none → done s0 0x0B 0) ∧
      (∀ x h s2 s3, codingInput s c = some (x, h) →
        let key := c.dword 6 + 2 ^ 64 * c.dword 7 + 2 ^ 128 * (c.dword 0 / 2 ^ 60)
        codeStore s0 c (c.dword 2) (if ZeroWord c x then List.replicate (((codeBits c).2 + 7) / 8) 0
          else freeBits (Config.codingOut key (x ++ h)) (codeBits c).2) = (s2, false) →
        codeStore s2 c (c.dword 3) (freeBits (Config.codingHarq key (x ++ h)) (8 * harqBytes c)) = (s3, false) →
        let v := Config.codingDword1 key (x ++ h)
        done s3 1 (codeResult c (if ZeroWord c x then
          BitVec.ofNat 64 (0x300 + if c.dword 6 / 2 ^ 44 % 2 = 1 then 1 else v.toNat % 256) else v))))

/-- R304, R393-R395, R479: `msg.send` asks its destination first, answers what that answers, and reads and
appends its message where it accepts; `msg.sendv` posts its message, which is appended, waits for space, or
traps at its sender; a message of the twin is appended with its own header bit. The model's own choices in
it: log entries 24, 28, 38, 57 (DESIGN CHOICE 24, 57: a fenced core comes before another tenant's; DEDUCED 28, 38). -/
def Obligations.MessagesAreAppendedOrAnswered : Prop :=
  ∀ sd sa s x s1, Coherent s .read (rdS s sa) 32 → loadX s (acc s .other .read) (rdS s sa) 32 = .ok x s1 → s1.hart = s.hart →
    let d := dwordOf x
    let core (p : Int × Int) : Nat := ((p.2 - 1) * 12 + (p.1 - 1)).toNat
    (¬ DestGood (d 0) ∨ 16384 < d 2 → Does (.msgSend sd sa) s (wrS s1 sd 4)) ∧
    (DestGood (d 0) → d 2 ≤ 16384 → Retired s → s.hart.outbox = [] → s1.eng.messages = [] →
      let p := siteOf s.hart.core (d 0)
      let answer (u : State) := messageStatus u (core p) (d 0 % 16) s.hart.job.tenant
      let st := answer s1 (16 + d 2)
      (¬ OnCore p → Does (.msgSend sd sa) s (wrS s1 sd 6)) ∧
      (OnCore p → d 0 / 2 ^ 55 % 2 = 1 → s1.tetherUp = false → Does (.msgSend sd sa) s (wrS s1 sd 6)) ∧
      (OnCore p → d 0 / 2 ^ 55 % 2 = 0 → st ≠ 0 → Does (.msgSend sd sa) s (wrS s1 sd (BitVec.ofNat 64 st))) ∧
      (OnCore p → d 0 / 2 ^ 55 % 2 = 0 → st = 0 →
        (∀ bytes s2, readPayload s1 6 (BitVec.ofNat 64 (d 1)) (d 2) = .ok bytes s2 → s2.hart = s.hart →
          s2.eng = s1.eng → answer s2 (16 + bytes.length) = 0 →
          Completes (.msgSend sd sa) s fun t => Quiet s t sd ∧ (sd ≠ 0 → reg t sd = 0) ∧
            Appended s2 t (core p) (d 0 % 16) (messageOf s (d 3) bytes)) ∧
        (∀ t s2, readPayload s1 6 (BitVec.ofNat 64 (d 1)) (d 2) = .fault t s2 →
          s2.hart = s.hart → exec (.msgSend sd sa) s = .next (trappedAt 6 s2 t.cause t.tval)))) ∧
    (∀ vs sb : BitVec 5, let g := groupNow s
      let m : Message :=
        { core := destCore s.hart.core (rdS s sa), window := (rdS s sa).toNat % 16, dest := rdS s sa
          header0 := msgHeader s.hart.job.job s.hart.core s.hart.job.tenant (((lenNow s).vl * widthNow s + 7) / 8)
          user := rdS s sb
          payload := (List.range (((lenNow s).vl * widthNow s + 7) / 8)).map fun i =>
            BitVec.ofNat 8 (getElem s.hart vs.toNat 8 i)
          sender := s.hart.core * 8 + s.hart.hid, tenant := s.hart.job.tenant, order := s.hart.units }
      (vs.toNat % g ≠ 0 ∨ 32 < vs.toNat + g → exec (.msgSendv vs sa sb) s =
        .next (trappedAt 4 s 2 (s.hart.x.iword.zeroExtend 64))) ∧
      (vs.toNat % g = 0 → vs.toNat + g ≤ 32 → Retired s → Does (.msgSendv vs sa sb) s
        { s with eng := { s.eng with messages := s.eng.messages ++ [m] } }) ∧
      (vs.toNat % g = 0 → vs.toNat + g ≤ 32 → ¬ Retired s → StallsAs .resync (.msgSendv vs sa sb) s)) ∧
    (∀ e c n tenant header user p rest, s.inputs = (e, .twinMessage c n tenant header user p) :: rest →
      s.tetherUp = true → c < 96 → header.getLsbD 23 = false →
      messageStatus s c (n % 16) tenant (16 + p.length) = 0 →
      Completes .messageAppend s fun t => t.inputs = rest ∧
        Appended s t c (n % 16) (dwords [header.toNat + 2 ^ 23, user.toNat] ++ p)) ∧
    (∀ m rest c, NoTwinInput s → s.eng.messages = m :: rest → m.core = some c → c < 96 → (getHart s m.sender).outbox = [] →
      (getHart s m.sender).stage = .running → (getHart s m.sender).job.job.toNat = m.header0.toNat / 2 ^ 32 →
      let s0 := { s with eng := { s.eng with messages := rest } }
      let bs := dwords [m.header0.toNat, m.user.toNat] ++ m.payload
      let st := messageStatus s c m.window m.tenant bs.length
      let trapped (cause : Nat) (v : Dword) := updHart s0 m.sender fun h => { h with posted := h.posted ++ [⟨false, ⟨cause, v⟩, m.order⟩] }
      (st = 6 → exec .messageAppend s = .next (trapped 0x12 m.dest)) ∧
      (st = 3 → exec .messageAppend s = .next (trapped 0x13 m.dest)) ∧
      (st = 2 → exec .messageAppend s = .next (trapped 0x18 (BitVec.ofNat 64 m.window))) ∧
      (st = 1 → (coreEntry s (m.sender / 8)).fenced = false →
        exec .messageAppend s = .next (updHart s0 m.sender fun h => { h with outbox := [m] })) ∧
      (st = 0 → Completes .messageAppend s fun t => t.eng.messages = rest ∧ Appended s t c m.window bs)) ∧
    (∀ m rest c, s.hart.outbox = m :: rest → m.core = some c → c < 96 →
      let bs := dwords [m.header0.toNat, m.user.toNat] ++ m.payload
      messageStatus s c m.window m.tenant bs.length = 0 →
      Completes .msgSendvRetry s fun t => t.hart.outbox = rest ∧ Appended s t c m.window bs)

/-- R378-R380, R384, R430: a queued list starts where fewer than 8 run, and its commands act in order: those
that change the list, those that wait, NOTIFY, REC and END. One that the twin posts is queued, unless its spool is
full or the tether is down. The model's own choices in it: log entries 3, 24, 28, 42 (DESIGN CHOICE 3, 24; DEDUCED
28, 42). -/
def Obligations.SpoolCommandsRunInOrder : Prop :=
  ∀ s n l s1 lo hi, let is (op : Nat) := NextCommand s n l s1 op lo hi
    let go (l1 : SpoolList) := Host.Outcome.next (nextOf s1 n l1)
    let bad := Host.Outcome.next (endsWith s1 n l 9 0)
    let ctr := getCtr s1 (hi % 2 ^ 12)
    let landed := AllLanded s1 n l
    let at0 := BitVec.ofNat 64 lo
    (is 1 → exec .src s = go (sourceSet l lo hi)) ∧ (is 2 → exec .dst s = go (destSet l lo hi)) ∧
    (is 5 → exec .gather s = go { l with gather := some (at0, hi % 2 ^ 24) }) ∧
    (is 6 → exec .cvt s = go { l with conv := conversionSet hi }) ∧
    (is 7 → let c := ((if hi / 2 ^ 59 % 2 = 1 then l.loop1 else l.loop0).getD (hi % 2 ^ 32));
      let put (v : Option Nat) : SpoolList := if hi / 2 ^ 59 % 2 = 1 then { l with loop1 := v } else { l with loop0 := v };
      (c = 0 → exec .clistLoop s = go (put none)) ∧
      (c ≠ 0 → exec .clistLoop s = .next (putList s1 n
        { put (some (c - 1)) with base := l.base + at0, idx := hi / 2 ^ 48 % 256 }))) ∧
    (is 8 → (ctr.owner ≠ l.tenant → exec .waitd s = bad) ∧
      (ctr.owner = l.tenant → ctr.state ∈ [.done, .error, .dropped] → exec .waitd s = go l) ∧
      (ctr.owner = l.tenant → ctr.state ∈ [.idle, .pending] → l.waiting = false →
        exec .waitd s = .next (putList s1 n { l with waiting := true }))) ∧
    (is 9 → (l.waiting = false → lo ≤ s1.time.now.toNat → exec .atTime s = go l) ∧
      (l.waiting = false → s1.time.now.toNat < lo → exec .atTime s = .next (putList s1 n { l with waiting := true })) ∧
      (l.waiting = true → lo ≤ s1.time.now.toNat → exec .atTimer s = go l)) ∧
    (is 0xA → landed → hi / 2 ^ 59 % 2 = 0 → (ctr.owner ≠ l.tenant → exec .notifyDec s = bad) ∧
      (ctr.owner = l.tenant → exec .notifyDec s = .next (nextOf (depDecStep s1 (hi % 2 ^ 12) 1) n l)) ∧
      (ctr.owner = l.tenant → ctr.state = .pending → 1 < ctr.count → exec .notifyDec s =
        .next (nextOf (setCtr s1 (hi % 2 ^ 12) { ctr with count := ctr.count - 1 }) n l))) ∧
    (is 0xA → landed → hi / 2 ^ 59 % 2 = 1 → ∀ bs s2, spoolRead s1 n l.tenant at0 64 = .ok bs s2 →
      let r := parseRec (natOfBytes bs)
      (r.malformed false = true → exec .notifyPost s = .next (endsWith s2 n l 9 0)) ∧
      (r.malformed false = false → l.hostPost = false → treeAbandoned s2 l.tree = false →
        Completes .notifyPost s fun t => getLists t n = getLists (nextOf s2 n l) n ∧
          ∃ j : Job, t.disp.pool = s2.disp.pool ++ [j] ∧ IsNew s2 r l.tenant l.tree 255 j)) ∧
    (is 0xB → landed → ∀ p s2, recPlace s1 n l at0 = .at p s2 →
      (p ≠ none → exec .recRecord s = .next (nextOf (putRecord s2 p (spoolRecord n l 1 0 0)) n l)) ∧
      (p = none → exec .recRecord s = .next (endsWith s2 n l 9 0))) ∧
    (is 0xF → landed → ∀ p s2, recPlace s1 n l at0 = .at (some p) s2 →
      (∀ m < 24, ∀ q ∈ getLists s m, q.fail = none ∧ q.cancel = false) →
      (∀ m < 24, ∀ q ∈ getLists s m, (m = n ∧ q = l) ∨ q.running = false ∨ q.move ≠ .idle) →
      Completes .endList s fun t =>
        t.mem = (putRecord s2 (some p) (spoolRecord n l (if l.refused = 0 then 1 else 0xA) 0
          (if l.refused = 0 then 0 else l.refusedIdx))).mem ∧
        ∀ q ∈ getLists t n, q.serial = l.serial → q.ended = true ∧ q.running = false ∧ q.delivered = l.delivered) ∧
    (n < 24 → (∀ e a T j m rt rest, s.inputs ≠ (e, .twinList a T j m rt) :: rest) →
      (∀ m < n, ∀ q ∈ getLists s m, q.running = true ∨ q.ended = true ∨ q.cancel = true) →
      ((getLists s n).filter fun q => q.running).length < 8 →
      (getLists s n).find? (fun q => !q.running && !q.ended && !q.cancel) = some l →
      exec .listStart s = .next (putList s n { l with running := true })) ∧
    (∀ e (a : Dword) T j m rt rest, s.inputs = (e, .twinList a T j m rt) :: rest →
      let x := a.toNat / 2 ^ 49 % 32
      let y := a.toNat / 2 ^ 44 % 32
      let k := if 1 ≤ x ∧ x ≤ 12 ∧ 1 ≤ y ∧ y ≤ 8 then columnSpool ((y - 1) * 12 + (x - 1)) else 0
      let s0 := { s with inputs := rest }
      (s.tetherUp = false ∨ 24 ≤ (liveLists s k).length → exec .listStart s = .next s0) ∧
      (s.tetherUp = true → (liveLists s k).length < 24 → Completes .listStart s fun t =>
        ∃ q before, getLists t k = before ++ [q] ∧ (∀ z ∈ before, z ∈ getLists s k) ∧ q.tenant = T ∧ q.job = j ∧
          q.andMask = m ∧ q.rt = rt ∧ q.hostPost = true ∧ q.running = false ∧ q.idx = 0 ∧
          q.addr = a &&& ~~~(0x80000000000000 : Dword) ∧ t.mem = s.mem))

/-- R370, R379-R383, R479: PUSH and MCAST begin a move; a chunk is sent into space it has reserved, or waits
for it; a chunk that arrives stands in its window, whose tail moves on, also one that a list of the twin
pushes; with the last one the window is given up; a fenced core ends the list FENCED, before it is another tenant's, which like one beyond a tether that is
down ends it PARTIAL. The model's own choices in it: log entries 3, 24, 57 (DESIGN CHOICE). -/
def Obligations.SpoolMovesReserveSendAndLand : Prop :=
  ∀ s n l s1 lo hi, let ready (rect : Bool) := l.hasSrc = true ∧ l.hasDst = true ∧ l.rect = rect ∧ l.run % fromSize l = 0
    let bytes := runsOf l * (l.run / fromSize l * toSize l)
    (NextCommand s n l s1 3 lo hi →
      (ready false → exec .push s = .next (putList s1 n { l with move := .push 0 })) ∧
      (¬ ready false → exec .push s = .next (endsWith s1 n l 9 0))) ∧
    (NextCommand s n l s1 4 lo hi →
      (¬ ready true → exec .mcast s = .next (endsWith s1 n l 9 0)) ∧
      (ready true → l.twin = false → OnArray l → Completes .mcast s fun t =>
        (∀ r, Enabled l r → let k := receiverCore l r;
          (Accepts s1 l k bytes → getWin t k l.window = reservedBy (getWin s1 k l.window) bytes n) ∧
          (¬ Accepts s1 l k bytes → getWin t k l.window = getWin s1 k l.window)) ∧
        (∀ k w, (∀ r, Enabled l r → (k, w) ≠ (receiverCore l r, l.window)) → getWin t k w = getWin s1 k w) ∧
        t.eng.flight = s1.eng.flight ∧
        ∀ q ∈ getLists t n, q.serial = l.serial → ∃ m d,
          q.refused = l.refused ||| m ∧
          (∀ r < 64, m.getLsbD r = true ↔ Enabled l r ∧ ¬ Accepts s1 l (receiverCore l r) bytes) ∧
          (∀ k w c, (k, w, c) ∈ d ↔ ∃ r, Enabled l r ∧ Accepts s1 l (receiverCore l r) bytes ∧
            (k, w, c) = (receiverCore l r, l.window, (getWin s1 (receiverCore l r) l.window).fill)) ∧
          (d ≠ [] → q.move = .mcast 0 d ∧ q.idx = l.idx) ∧ (d = [] → q.move = .idle ∧ q.idx = l.idx + 1))) ∧
    (∀ off a, FirstList s n l → l.move = .push off → l.fail = none → l.cancel = false → l.copyTo = none → l.twin = false →
      runAddr s n l (off / l.run) = .ok a s1 →
      let o := off % l.run
      let m := min (256 - (a.toNat + o) % 256) (l.run - o)
      let out := (o + m) / fromSize l * toSize l - o / fromSize l * toSize l
      let k := (l.y0 - 1) * 12 + (l.x0 - 1)
      let w := getWin s1 k l.window
      let open_ := (w.mode = 1 ∨ w.mode = 3) ∧ FitsIn w out ∧ (w.claimed = true → w.claimant = n ∧
        ∀ x ∈ getLists s1 n, x.serial ≠ l.serial → ¬ MovesInto s1 n x k l.window)
      ((coreEntry s1 k).fenced = true → exec .spoolChunk s = .next (endsWith s1 n l 6 off)) ∧
      ((coreEntry s1 k).fenced = false → ¬ MayReach s1 l.tenant k → exec .spoolChunk s = .next (endsWith s1 n l 9 off)) ∧
      (MayReach s1 l.tenant k → ¬ open_ → l.waiting = false →
        exec .spoolChunk s = .next (putList s1 n { l with waiting := true })) ∧
      (MayReach s1 l.tenant k → open_ → ∀ bs s2, chunkBytes s1 n l a o m = .ok bs s2 →
        Completes .spoolChunk s fun t =>
          t.eng.flight = s2.eng.flight ++ [{
            core := k, window := l.window, pos := w.fill, data := bs, list := (n, l.serial), idx := l.idx
            off := off, tenant := l.tenant, pages := chunkPages s2 n l a o m }] ∧
          getWin t k l.window = reservedBy w out n ∧ t.mem = s2.mem ∧
          (getLists t n).getLast? = some (if l.run * runsOf l ≤ off + m
            then { l with move := .idle, idx := l.idx + 1, waiting := false }
            else { l with move := .push (off + m), waiting := false }))) ∧
    (∀ off a, FirstList s n l → l.move = .push off → l.fail = none → l.cancel = false → l.copyTo = none → l.twin = true →
      runAddr s n l (off / l.run) = .ok a s1 →
      let e := mapGet ({} : CoreEntry) s1.tab.twinCores ((l.y0 - 1) * 12 + (l.x0 - 1))
      (s1.tetherUp = false → exec .spoolChunk s = .next (endsWith s1 n l 9 off)) ∧
      (s1.tetherUp = true → e.fenced = true → exec .spoolChunk s = .next (endsWith s1 n l 6 off)) ∧
      (s1.tetherUp = true → e.fenced = false → l.tenant ≠ 0 → (if e.lent then e.borrower else e.owner) ≠ l.tenant →
        exec .spoolChunk s = .next (endsWith s1 n l 9 off))) ∧
    (∀ e c v tenant bs rest, s.inputs = (e, .twinPush c v tenant bs) :: rest → s.tetherUp = true → c < 96 →
      let w := getWin s c (v % 16)
      MayReach s tenant c → (w.mode = 1 ∨ w.mode = 3) → w.claimed = false → FitsIn w bs.length →
      Completes .chunkArrival s fun t => t.inputs = rest ∧ Appended s t c (v % 16) bs) ∧
    (∀ p rest, NoTwinInput s → s.eng.flight = p :: rest → p.core < 96 → p.list.1 = n →
      (getLists s n).find? (fun q => q.serial == p.list.2 && !q.ended) = some l →
      MayReach s l.tenant p.core → let w := getWin s p.core p.window;
      (w.mode = 1 ∨ w.mode = 3) → ∀ r, w.resv = [r] → r.start = p.pos → r.todo = p.data.length → p.data ≠ [] →
        p.data.length ≤ r.len → r.len < 2 ^ 32 → (putWindow s p.core p.window p.pos p.data).2 = false →
        Completes .chunkArrival s fun t => t.eng.flight = rest ∧
          t.mem = (putWindow s p.core p.window p.pos p.data).1.mem ∧
          (getWin t p.core p.window).tail = r.start + BitVec.ofNat 32 r.len ∧
          (getWin t p.core p.window).head = w.head ∧ (getWin t p.core p.window).fill = w.fill ∧
          ∀ q ∈ getLists t n, q.serial = l.serial → q.delivered = l.delivered + 1) ∧
    (∀ p rest, NoTwinInput s → s.eng.flight = p :: rest → p.core < 96 → p.list.1 = n →
      (getLists s n).find? (fun q => q.serial == p.list.2 && !q.ended) = some l → l.fail = none →
      let w := getWin s p.core p.window
      let s0 := { s with eng := { s.eng with flight := rest } }
      ∀ st, ((coreEntry s p.core).fenced = true ∧ st = 6 ∨ (coreEntry s p.core).fenced = false ∧ st = 9 ∧
          (MayReach s l.tenant p.core → ¬ (w.mode = 1 ∨ w.mode = 3))) →
        Completes .chunkArrival s fun t => t.eng.flight = rest ∧ t.mem = s.mem ∧
          (∀ q ∈ getLists t n, q.serial = l.serial → q.fail = some ⟨st, p.off, p.idx⟩ ∧ q.delivered = l.delivered) ∧
          (w.claimant = n → (∀ x ∈ getLists s n, ¬ MovesInto s0 n x p.core p.window) →
            (getWin t p.core p.window).claimed = false))

/-! ### Harts, jobs and the dispatcher -/

/-- R92, R161, R226, R228, R277, R308: a queued convoy begins; the head of the queue runs and retires with
what its instruction does, or traps; a `mop` begins once its windows hold what it needs. The model's own
choices in it: log entry 7 (DEDUCED). -/
def Obligations.QueuedInstructionsBeginAndRetire : Prop :=
  ∀ s e q, s.hart.queue = e :: q →
    (e.live = false → exec .convoyBegin s = .next (withHart s fun h => { h with queue := begunConvoy e q })) ∧
    (s.hart.stage = .running → s.hart.pend = [] → e.live = true → e.bad = none →
      let s0 := withHart s fun h => { h with queue := q }
      let event (i : Instr) := (isVldw e.instr = true ∧ i = .vldwGroup) ∨ (isMop e.instr = true ∧ e.begun = true ∧ i = .mopRetire) ∨
        (isVldw e.instr = false ∧ isMop e.instr = false ∧ i = .vectorRetire)
      let runs := withHart s fun h => { h with
        queue := q, units := e.order, vsync := if e.instr.resync = true then h.vsync + 1 else h.vsync }
      let after (u : State) := withHart u fun h => { h with units := s.hart.units }
      (∀ i op, event i → vopOf e.instr = some op → op.check s.hart.width s.hart.mmode e.len = none → s.pmc = [] →
        (∀ u f, op.run runs e = .done u f → u.hart.core = s.hart.core → u.hart.hid = s.hart.hid → u.pmc = [] →
          exec i s = .next (after (retire (withHart u fun h => { h with queue := q }) (e.flags ||| f)))) ∧
        (∀ u e1 t, op.run runs e = .fault u e1 t → u.hart.core = s.hart.core → u.hart.hid = s.hart.hid → u.pmc = [] →
          exec i s = .next (after (withHart u fun h => { h with
            queue := e1 :: q, pend := h.pend ++ [⟨some 0, t, h.units⟩] })))) ∧
      (∀ kd ka, e.instr = .kmov kd ka → e.flags = 0 → s.pmc = [] →
        exec .vectorRetire s = .next (withHart s0 fun h => setMask h kd.toNat (getMask h ka.toNat))) ∧
      ∀ wa wb ws fmt ks, e.instr = .mop wa wb ws fmt ks → e.begun = false → s.hart.mmode = true →
        (Serve s (stringsOf s wa wb ws fmt (ks.toNat + 1)) →
          exec .mopBegin s = .next (withHart s fun h => { h with queue := { e with begun := true } :: q })))

/-- R117, R118, R308-R312, R340, R341, R360: posted events come back as imprecise traps, taken with the
resume address at the bundle boundary; a hart told to stop is saved and its record goes back into its class,
or it expires or enters its grace handler, whose end is another expiry; a halted one expires where it is, and
one that the service complex holds is pre-empted as it is. The model's own choices in it: log entries 3, 32,
40, 49 (DESIGN CHOICE 3; DEDUCED 32, 40, 49). -/
def Obligations.EventsStopAHart : Prop :=
  ∀ s, s.hart.core < 96 → s.hart.hid < 8 → let h := s.hart
    let j := h.job
    (∀ p, h.posted.find? (fun x => x.guard == p.guard) = some p → h.stage = .running →
      exec (if p.guard then .ringGuard else .storeRefusal) s = .next (withHart s fun h =>
        { h with posted := h.posted.erase p, pend := h.pend ++ [⟨none, p.trap, p.order⟩] })) ∧
    (∀ p, h.stage = .running → Earliest h.pend p → NoBegunMop h →
      Completes .impreciseTrap s fun t =>
        t.hart.queue = [] ∧
        (HandlerTakes h p.trap.cause →
          t.hart.pc = h.tr.tvec ∧ t.hart.stage = .running ∧ t.hart.s = h.s ∧ t.hart.tr = { h.tr with
            xpc := h.pc, tcause := BitVec.ofNat 8 p.trap.cause, tval := p.trap.tval, grc := false, imp := true, inh := true } ∧
          t.mem = (writeRestart s p.trap.cause h.pc p.trap.tval (p.entry.getD 63)).mem) ∧
        (¬ HandlerTakes h p.trap.cause →
          t.hart.stage = .service ∧ t.hart.pc = h.pc ∧ (s.svc.events.length < 1024 → t.svc.events = s.svc.events ++ [.trap j.job]) ∧
          (1024 ≤ s.svc.events.length → t.svc.events = s.svc.events ∧ t.svc.held = s.svc.held ++ [.trap j.job]))) ∧
    (h.preempt = true → h.core ∉ s.disp.reclaims → NoBegunMop h →
      let returned (t : State) : Prop := t.hart.stage = .free ∧ ComesBack s t h.core j
      (AtBoundary h → treeAbandoned s j.tree = false → Completes .preemption s fun t =>
        returned t ∧ t.mem = (saveHart s 1 false 0 h.pc 0 63).mem) ∧
      (h.stage = .service → h.expiry = none → Completes .preemption s fun t => returned t ∧ t.mem = s.mem)) ∧
    (∀ v, AtBoundary h ∨ h.stage = .halted → h.expiry = some v → NoBegunMop h →
      let grace := j.record.policy = true ∧ j.record.grace ≠ 0 ∧ h.tr.tvec ≠ 0 ∧ h.tr.inh = false ∧ h.core ∉ s.disp.reclaims
      (grace → Completes .expiry s fun t =>
        t.hart.pc = h.tr.tvec ∧ t.hart.queue = [] ∧ t.hart.expiry = none ∧
        t.hart.graceEnd = some (v.toNat + 1000 * j.record.grace) ∧ t.hart.tr = { h.tr with
          xpc := h.pc, tcause := 0x30, tval := v, grc := true, imp := false, inh := true } ∧
        t.mem = (writeRestart s 0 h.pc 0 63).mem) ∧
      (¬ grace → Completes .expiry s fun t => t.hart.stage = .free ∧ t.hart.width = 0 ∧
        t.mem = (writeRecord (dropWalks s h.key) j.tenant j.record.compl.toNat (dwords
          [j.job.toNat * 2 ^ 32 + h.core * 2 ^ 24 + j.tenant * 2 ^ 16 + 1 * 2 ^ 8 + 3,
            h.hid * 2 ^ 56 + 0x30 * 2 ^ 48 + h.lastPc.toNat, h.jprog.toNat, s.time.now.toNat])).mem)) ∧
    (∀ l, h.graceEnd = some l → l ≤ s.time.now.toNat →
      (h.stage = .running → exec .graceEnd s = .next (withHart s fun h =>
        { h with graceEnd := none, expiry := some h.tr.tval, ranSince := false })) ∧
      (h.stage = .halted ∨ h.stage = .service → exec .graceEnd s = .next (endFocus (withHart s fun h => { h with job := { h.job with lastCause := 0x30 } }) 3)))

/-- R110, R315, R316, R335, R336, R345: a core binds the record at the head of its store to a free lane
block: a job that begins finds its arguments and everything else cleared, one that resumes finds what its
save area holds; the members of a gang begin together. The model's own choices in it: log entries 3, 21, 50
(DESIGN CHOICE 3; DEDUCED 21, 50). -/
def Obligations.JobsBindToLaneBlocks : Prop :=
  ∀ s c j b pages s1,
    (MayBind s c j → InPlace s c b → (freeBlocks s c j.record.width).head? = some b →
      (j.ran = false → SaveArea (setReady s c ((getReady s c).erase j)) j pages s1 → Completes .jobBind s fun t =>
        Begins s j (getHart t (8 * c + b)) ∧ getReady t c = (getReady s c).erase j ∧ t.mem = s1.mem ∧
        (getHart t (8 * c + b)).linkGen = (getHart s (8 * c + b)).linkGen + 1) ∧
      (j.ran = true → Completes .resume s fun t =>
        Resumes s j (getHart t (8 * c + b)) ∧ getReady t c = (getReady s c).erase j)) ∧
    (∀ g rest, s.disp.gangs = g :: rest → g.mask = 2 ^ c → c < 96 → currentTenant s c = g.tenant →
      mapGet none s.disp.lending c = none → c ∉ s.disp.reclaims → s.time.now.toNat < (treeDeadline s g.tree).toNat →
      (g.held = [] → coreDead s c = false → (freeBlocks s c g.record.width).head? = some b →
        (∀ x ∈ rest, x.arrival ≠ g.arrival) →
        exec .gangReservation s = .next { s with disp := { s.disp with gangs := { g with held := [(c, b)] } :: rest } }) ∧
      (∀ id, InPlace s c b → g.held = [(c, b)] → g.ids = [id] → (∀ x ∈ rest, x.arrival ≠ g.arrival) →
        let m : Job := { record := g.record, tenant := g.tenant, tree := g.tree, job := id, arrival := g.arrival,
                         rank := 0, size := 1 }
        SaveArea { s with disp := { s.disp with gangs := rest } } m pages s1 →
        Completes .gangStart s fun t => Begins s m (getHart t (8 * c + b)) ∧ t.disp.gangs = rest))

/-- R327, R330-R333, R337, R423: the dispatcher places what its pool or a queue holds on a core that accepts
it, an idle core asks the next of its tenant and takes the record granted to it, and the slot table creates
the root job of the slot that is due, or skips it once its start time has come. The model's own choices in
it: log entries 3, 21, 35, 41 (DESIGN CHOICE 3, 35; DEDUCED 21, 41). -/
def Obligations.RecordsArePlacedStolenAndCreated : Prop :=
  ∀ s j c,
    (s.disp.pool = [j] → chooseCore s j.mask j.tenant j.record.width (treeDeadline s j.tree) = some c →
      (∀ q < 192, queueReady s q = false) →
      Completes .dispatcherPlacement s fun t => t.disp.pool = [] ∧
        getReady t c = { j with slot := none, arrival := s.disp.arrivals } :: getReady s c ∧
        t.disp.arrivals = s.disp.arrivals + 1 ∧ t.hart = s.hart ∧ t.mem = s.mem) ∧
    (∀ q r s1, s.disp.pool = [] → q < 192 → (∀ k < 192, k ≠ q → queueReady s k = false) → queueReady s q = true →
      readHead s q = (some r, s1) → let l := getQ s q;
      let dl := if q < 128 then r.deadline else bestEffort
      (l.tenant < 64 → r.malformed (q < 128) = false → chooseCore s1 l.mask l.tenant r.width dl = some c →
        Completes .dispatcherPlacement s fun t =>
          (getQ t q).head = l.head + 1 ∧ getTree t s.disp.nextTree = some { tenant := l.tenant, deadline := dl } ∧
          ∃ k : Job, getReady t c = k :: getReady s c ∧ IsNew s r l.tenant s.disp.nextTree 255 k) ∧
      (r.malformed (q < 128) = true → Completes .dispatcherPlacement s fun t =>
        (getQ t q).head = l.head + 1 ∧ t.disp.pool = [] ∧ t.disp.ready = s.disp.ready)) ∧
    (∀ v, c < 96 → (∀ d < c, idleCore s d = false) → idleCore s c = true → v < 96 → v ≠ c →
      currentTenant s v = currentTenant s c → (∀ d < 96, d ≠ c → d ≠ v → currentTenant s d ≠ currentTenant s c) →
      mapGet 0 s.disp.stealAsked c = 0 → coreDead s v = false → (getReady s v).getLast? = some j →
      (∀ x ∈ getReady s v, keyOf s j ≤ keyOf s x) → (getReady s v).Nodup →
      j.steal = true → j.ran = false → (freeBlocks s c j.record.width) ≠ [] →
      Completes .stealRequest s fun t => mapGet none t.disp.stealGrant c = some j ∧
        getReady t v = (getReady s v).dropLast ∧ t.mem = s.mem) ∧
    (∀ rest b pages s1, InPlace s c b → s.disp.stealGrant = (c, some j) :: rest → (∀ p ∈ rest, p.1 ≠ c) → c < 96 →
      currentTenant s c = j.tenant → coreDead s c = false → mapGet none s.disp.lending c = none →
      c ∉ s.disp.reclaims → s.time.now.toNat < keyOf s j → treeAbandoned s j.tree = false →
      (treeDeadline s j.tree ≠ bestEffort ∨ ∀ x ∈ getReady s c, x.held = true ∨ treeDeadline s x.tree = bestEffort) →
      (freeBlocks s c j.record.width).head? = some b → j.ran = false →
      SaveArea { s with disp := { s.disp with stealGrant := rest, arrivals := s.disp.arrivals + 1 } } j pages s1 →
      Completes .stealGrant s fun t => t.disp.stealGrant = rest ∧ Begins s j (getHart t (8 * c + b))) ∧
    (∀ n, n < 128 → (∀ m < n, (getSlot s m).enable = false) → let e := getSlot s n;
      let start := e.next * (1000000 / 2 ^ e.period) + e.phase.toNat
      e.enable = true → start ≤ s.time.now.toNat + e.lead → (parseRec e.template.toNat).malformed false = false →
      Completes .slotCreation s fun t =>
        getSlot t n = { e with next := e.next + 1, created := e.created + 1 } ∧
        getTree t s.disp.nextTree = some { tenant := e.tenant, deadline := BitVec.ofNat 64 (start + e.offset) } ∧
        ∃ k : Job, t.disp.pool = s.disp.pool ++ [k] ∧ k.mask = e.mask ∧
          IsNew s { parseRec e.template.toNat with a3 := BitVec.ofNat 64 start } e.tenant s.disp.nextTree 255 k) ∧
    (∀ n k rest, s.disp.pool = j :: rest → j.slot = some (n, k) → j.record.a3.toNat ≤ s.time.now.toNat →
      Completes .unplacedSlotSkip s fun t => t.disp.pool = rest ∧
        getSlot t n = { getSlot s n with skipped := (getSlot s n).skipped + 1 } ∧
        t.mem = (recordUnrun s j.record j.tenant j.job.toNat 255 2).mem)

/-! ### Cores lent, reclaimed and fenced -/

/-- R317, R321, R322, R362-R365, R425, R430: a lent core changes its tenant once nothing of the lender holds
it, cleared; a reclaim begins at its programmed time, and returns the core, cleared, to its owner, its begun
jobs waiting as one group, which resumes on an idle core of its tenant, a job of an abandoned tree ending
EXPIRED; one whose scratchpad the image cannot be read from is fenced instead (R264); a core that is to be fenced
is fenced, and its route turns at no fenced site. The model's own choices in it: log entries 2, 4, 17, 21, 40, 49,
50 (DESIGN CHOICE 2, 4; DEDUCED 17, 21, 40, 49, 50). -/
def Obligations.CoresAreLentReclaimedAndFenced : Prop :=
  ∀ s c, c < 96 → let cleared (t : State) : Prop :=
      (∀ a < 2 ^ 19, memByte t.mem (spadLoc c a) = 0) ∧ (∀ n < 16, getWin t c n = {}) ∧
        (∀ b < 8, let h := getHart t (8 * c + b); h.stage = .free ∧ h.s = [] ∧ h.v = [] ∧ h.k = [])
    (∀ l rest, s.disp.lending = (c, some l) :: rest → (∀ p ∈ rest, p.1 ≠ c) → heldBlocks s c = [] →
      getReady s c = [] → coreDead s c = false → (∀ b < 8, InPlace s c b) →
      Completes .lendComplete s fun t =>
        coreEntry t c = { coreEntry s c with lent := true, borrower := l.borrower } ∧ t.disp.lending = rest ∧
        mapGet 0 t.disp.imageArea c = l.image ∧ cleared t ∧
        mapGet none t.disp.reclaimAt c = (if l.time.toNat = 2 ^ 64 - 1 then mapGet none s.disp.reclaimAt c else some l.time) ∧
        ∀ a, (∀ b < 2 ^ 19, a ≠ spadLoc c b) → memByte t.mem a = memByte s.mem a) ∧
    (∀ time rest, s.disp.reclaimAt = (c, some time) :: rest → (∀ p ∈ rest, p.1 ≠ c) → time.toNat ≤ s.time.now.toNat →
      mapGet none s.disp.lending c = none → (coreEntry s c).lent = true → c ∉ s.disp.reclaims →
      Completes .reclaimAtTimer s fun t => t.disp.reclaims = s.disp.reclaims ++ [c] ∧ t.disp.reclaimAt = rest ∧ t.mem = s.mem) ∧
    (∀ rest, (s.svc.cmds.head?.any fun h => h.cmd.op == 7) = false → s.disp.reclaims = c :: rest → c ∉ rest → coreDead s c = false → (∀ b < 8, InPlace s c b) →
      (∀ k ∈ boundKeys s c, let h := getHart s k; h.stage = .running → AtBoundary h ∧ h.posted = [] ∧ h.expiry = none) →
      let unread := ∃ w ∈ s.bad, spadLoc c 0 ≤ 8 * w ∧ 8 * w < spadLoc c 0 + 2 ^ 19
      let began := (getReady s c).filter fun j => j.ran
      let ends (k : Nat) : Prop := let h := getHart s k;
        if h.stage = .service then h.expiry ≠ none else treeAbandoned s h.job.tree = true
      (unread → exec .reclaim s = .next { s with fenceReq := s.fenceReq ++ [c] }) ∧
      (¬ unread → Completes .reclaim s fun t =>
        coreEntry t c = { coreEntry s c with lent := false, borrower := 0 } ∧ t.disp.reclaims = rest ∧ cleared t ∧
        (began = [] → boundKeys s c = [] ∨ (∃ k, boundKeys s c = [k] ∧ ends k) → t.disp.saved = s.disp.saved) ∧
        ((∀ k ∈ boundKeys s c, ¬ ends k) → (boundKeys s c ≠ [] ∨ began ≠ []) →
          ∃ g : SavedGroup, t.disp.saved = s.disp.saved ++ [g] ∧
            g.tenant = currentTenant s c ∧ g.image = mapGet 0 s.disp.imageArea c ∧
            ∀ id, (∃ j ∈ g.jobs, j.job = id) ↔
              (∃ k ∈ boundKeys s c, (getHart s k).job.job = id) ∨ ∃ j ∈ began, j.job = id))) ∧
    (∀ j b image rest, s.disp.saved = { tenant := j.tenant, image := image, jobs := [j] } :: rest → j.hid = b →
      (∀ d < c, currentTenant s d ≠ j.tenant) → currentTenant s c = j.tenant → coreOpen s c = true → heldBlocks s c = [] →
      InPlace s c b → j.held = false → j.ran = true → b < 8 → b * 4 + j.record.width ≤ 32 →
      ∀ s0 s1, imageWaits s j.tenant image.toNat = (false, s0) →
        s1 = restoreImage { s0 with disp := { s0.disp with saved := rest } } c j.tenant image.toNat →
        InPlace s1 c b → heldBlocks s1 c = [] →
        Completes .savedGroupRestore s fun t => t.disp.saved = rest ∧ Resumes s1 j (getHart t (8 * c + b))) ∧
    (Given s (.fence c) → Completes .fencing s fun t => t.fenceReq = (if c ∈ s.fenceReq then s.fenceReq else s.fenceReq ++ [c])) ∧
    (s.inputs = [] → s.fenceReq.head? = some c → (coreEntry s c).fenced = false → boundKeys s c = [] → getReady s c = [] →
      s.disp.gangs = [] → s.vamos = [] → s.tab.routes = [] →
      Completes .fencing s fun t =>
        (coreEntry t c) = { coreEntry s c with fenced := true } ∧ t.fenceReq = s.fenceReq.filter (fun d => d ≠ c) ∧
        (∃ r, t.tab.routes = [(0, r)] ∧ r.valid = true ∧ r.fx = c % 12 + 1 ∧ r.fy = c / 12 + 1 ∧ r.wx < 14 ∧ r.wy < 10 ∧
          ∀ d < 96, (coreEntry t d).fenced = true → ¬ (r.wx = d % 12 + 1 ∧ r.wy = d / 12 + 1)) ∧ t.mem = s.mem ∧
        t.hart = if s.hart.core = c then { s.hart with outbox := [] } else s.hart) ∧
    (∀ k, s.inputs = [] → s.fenceReq = [c] → (coreEntry s c).fenced = false → boundKeys s c = [k] → k = 8 * c + k % 8 →
      getReady s c = [] → s.disp.gangs = [] → s.vamos = [] → s.tab.routes = [] → InPlace s c (k % 8) → NoBegunMop (getHart s k) →
      Completes .fencing s fun t => (getHart t k).stage = .free ∧ (coreEntry t c).fenced = true ∧
        t.mem = (recordEnd s (getHart s k).job 6 c (k % 8) (getHart s k).lastPc (getHart s k).jprog).mem) ∧
    (Given s (.drainTimeout c) → c ∈ s.disp.reclaims → Completes .reclaimDrainTimeout s fun t =>
      t.fenceReq = (if c ∈ s.fenceReq then s.fenceReq else s.fenceReq ++ [c]))

/-! ### Translation, combining buffers and errors -/

/-- R401-R405: a walk goes down from the root of its tenant through entries that name the next table, and ends at
the first entry that is not valid or is malformed, with a translation fault, at a word that cannot be read, with a
data error, or at a leaf: of 1 GiB, 2 MiB, 64 KiB or 4 KiB, in this device with or without a key, in the twin, or
in the host, for which ATS is asked. A leaf that its level, its fields or its permissions rule out is a translation
fault; one that gives a translation is marked accessed, and written. The model's own choices in it: log entries 24,
34, 60 (DESIGN CHOICE 24; DEDUCED 34, 60). -/
def Obligations.WalksFollowThePageTable : Prop :=
  ∀ s T va (kind : Kind) lvl tb, let root := (mapGet {} s.tab.tenants T).root
    let pa := slotOf va tb lvl
    let faults (cause : Nat) : Prop := walkNow s T va kind = .fault cause
    lvl < 4 → TableAt s root va lvl tb → pa < 192 * 2 ^ 30 →
    (readNat s 0 pa 8 = none → faults 0x16) ∧
    ∀ e, readNat s 0 pa 8 = some e →
      (e % 2 = 0 ∨ e / 2 % 2 = 1 ∨ e / 2 ^ 8 % 16 ≠ 0 ∨ e / 2 ^ 40 % 256 ≠ 0 → faults 0x14) ∧
      (e / 64 % 2 = 0 → lvl = 3 ∨ e % 4096 ≠ 1 ∨ 2 ^ 40 ≤ e → faults 0x14) ∧
      ∀ f : Leaf, f.InRange → e = f.word → let size := f.size lvl
        (¬ LeafGood s T va kind lvl f → faults 0x14) ∧
        (LeafGood s T va kind lvl f → f.home = 2 →
          ((mapGet {} s.tab.tenants T).pv = true → walkNow s T va kind = .host e pa size) ∧
          ((mapGet {} s.tab.tenants T).pv = false → faults 0x14)) ∧
        (LeafGood s T va kind lvl f → f.home ≠ 2 →
          let g := { f with marks := f.marks ||| (if kind = Kind.write then 3 else 1) }
          let a := f.frame * 4096 / size * size + va % size
          ∃ x u, walkNow s T va kind = .entry x u ∧ x.tenant = T ∧ x.va = va / size * size ∧ x.size = size ∧
            x.leaf.toNat = g.word ∧ x.wr = (decide (f.perms % 2 = 1) && g.marks.testBit 1) ∧
            (f.home = 0 → x.place u va = (a, if f.key = 0 then 0 else (mapGet {} s.tab.keys f.key).key.toNat + 1)) ∧
            (f.home = 1 → x.place u va = (twinLoc a, 0)) ∧
            ∃ z, u = { (if g.marks = f.marks then s else pokeLoc s 0 pa (bytesOfNat 8 g.word)) with slices := z })

/-- R407-R410, R412-R414, R449, R477: a walk answers every miss of its group for the page, with an entry in
both TLBs, an ATS request of the tenant's PASID, or a fault; a completion answers one request and those that
joined it, with an entry, a page request, or a fault, and with nothing once its page was invalidated; a page
response reaches the service complex, which resumes the job or ends it; an invalidation drops the entries it
overlaps, keeps requests whose leaf it overlaps from filling a TLB, and is answered once no use it found is left; a
completion whose leaf has changed meanwhile walks again. The model's own choices in it: log entries 16, 24, 25, 39,
40, 58 (DESIGN CHOICE 16, 24, 25, 39, 58; DEDUCED 40). -/
def Obligations.TranslationsAreAnsweredAndInvalidated : Prop :=
  ∀ s, let settled (t : State) : Prop := ∀ w ∈ t.eng.late, w.asked ≠ none
    (∀ r rest, s.tab.walks = r :: rest →
      let group (x : WalkReq) : Nat := if x.hart < 1000 then groupOf (x.hart / 8) else agentGroup x.hart
      let like (x : WalkReq) : Bool := group r = group x ∧ r.tenant = x.tenant ∧ r.va = x.va
      let s0 := { s with tab := { s.tab with walks := rest.filter fun x => !like x } }
      let mine := r :: rest.filter like
      (∀ e u, walkNow s0 r.tenant r.va r.kind = .entry e u → settled s → Completes .pageWalk s fun t =>
        t.mem = u.mem ∧ t.tab.walks = s0.tab.walks ∧ (mapGet [] t.tab.groupTlb (group r)).head? = some e ∧
        ∀ x ∈ mine, x.hart < 1000 → (mapGet [] t.tab.coreTlb (x.hart / 8)).head? = some e) ∧
      (∀ l pa z, walkNow s0 r.tenant r.va r.kind = .host l pa z → exec .pageWalk s = .next (asksAts s0 r mine l pa z)) ∧
      (∀ c, walkNow s0 r.tenant r.va r.kind = .fault c → exec .pageWalk s = .next (refused s0 mine c))) ∧
    (∀ nth q hpa range (r w x abort : Bool), Given s (.atsCompletion nth hpa range r w x abort) →
      s.tab.ats[nth % s.tab.ats.length]? = some q →
      let s0 := { taken s with tab := { s.tab with ats := s.tab.ats.erase q } }
      let k := q.req
      let covers : Prop := match k.kind with
        | .read => r = true
        | .write => w = true
        | .fetch => r = true ∧ x = true
      (q.stale = true → settled s → exec .atsCompletion s = .next s0) ∧
      (q.stale = false → abort = true → settled (refused s0 q.joined 0x14) → exec .atsCompletion s = .next (refused s0 q.joined 0x14)) ∧
      (q.stale = false → abort = false → ¬ covers → q.joined = [k] →
        (∀ w ∈ s.eng.late, w.asked = none → k.hart = 1100 ∧ k.kind = .write ∧ w.tenant = k.tenant ∧ w.va / 4096 * 4096 = k.va) →
        let like (p : PageReq) : Bool := p.pasid = q.pasid ∧ p.va = k.va ∧ p.kind = k.kind
        let asks (t : State) (n : Nat) : Prop :=
          (∃ p, s.tab.pri.find? like = some p ∧ n = p.id ∧ t.tab.pri = s.tab.pri) ∨
          (s.tab.pri.find? like = none ∧ n = s.tab.priSerial ∧ t.tab.priSerial = n + 1 ∧
            t.tab.pri = s.tab.pri ++ [⟨q.pasid, k.va, k.kind, n⟩])
        Completes .atsCompletion s fun t => t.mem = s.mem ∧ t.tab.ats = s0.tab.ats ∧
          (k.hart ≠ 1100 ∨ k.kind ≠ .write → t.tab.faults = s.tab.faults ++ [⟨k, 0x15⟩]) ∧
          (1000 ≤ k.hart → k.hart < 1024 → t.tab.pri = s.tab.pri) ∧
          (s.tab.priOff = true → t.tab.pri = s.tab.pri) ∧
          (k.hart = s.hart.key → k.hart < 1000 →
            (s.tab.priOff = true → ∀ p ∈ t.hart.job.page, p.va ≠ k.va) ∧
            (s.tab.priOff = false → ∃ n, asks t n ∧ { id := n, va := k.va, kind := k.kind } ∈ t.hart.job.page)) ∧
          (k.hart = 1100 → k.kind = .write → t.tab.faults = s.tab.faults ∧
            (s.tab.priOff = false → ∃ n, asks t n ∧ t.eng.late = s.eng.late.map fun w =>
              if w.tenant = k.tenant ∧ w.va / 4096 * 4096 = k.va then { w with asked := some n } else w))) ∧
      (∀ l pa z, q.stale = false → abort = false → covers → settled s → readNat s 0 q.pa 8 ≠ some q.leaf →
        q.leaf / 16 % 2 = 0 ∨ k.kind = .write ∧ q.leaf / 32 % 2 = 0 → walkNow s0 k.tenant k.va k.kind = .host l pa z →
        exec .atsCompletion s = .next (asksAts s0 k q.joined l pa z)) ∧
      (∀ n, q.stale = false → abort = false → covers → settled s → range = 2 ^ n → 12 ≤ n →
        q.size ∈ [2 ^ 12, 2 ^ 16, 2 ^ 21, 2 ^ 30] → readNat s 0 q.pa 8 = some q.leaf → q.leaf / 2 ^ 50 % 4 = 2 →
        Completes .atsCompletion s fun t => t.tab.ats = s0.tab.ats ∧
          ∀ m ∈ q.joined, m.hart < 1000 → ∃ y, (mapGet [] t.tab.coreTlb (m.hart / 8)).head? = some y ∧
            y.tenant = k.tenant ∧ y.size = min q.size range ∧ y.va = k.va / y.size * y.size ∧ y.hostR = r ∧ y.hostW = w ∧
            y.hostX = x ∧ (y.place t k.va).1 = hostLoc (hpa + k.va % range))) ∧
    (∀ nth code p, Given s (.prgResponse nth code) → let out := s.tab.pri.take (min 512 s.tab.priAlloc)
      out[nth % out.length]? = some p →
      exec .prgResponse s = .next (withEvent
        { taken s with tab := { s.tab with pri := s.tab.pri.erase p, priOff := s.tab.priOff || decide (2 ≤ code) } }
        (.prg p.id code))) ∧
    (∀ j id va kind code, s.inputs = [] → SvcIdle s → s.svc.events = [.prg id code] → s.svc.held = [] →
      s.others = [] → (∀ x ∈ looseJobs s, x.held = false ∧ x.page = []) → s.eng.late = [] →
      s.hart.stage = .service → s.hart.job = j → j.held = true → j.page = [{ id := id, va := va, kind := kind }] →
      saveDword s j.pages 0x400 / 256 % 256 = 0x15 → saveDword s j.pages 0x410 / 4096 * 4096 = va →
      treeAbandoned s j.tree = false → s.hart.core < 96 → s.hart.hid < 8 →
      (code = 0 → Completes .prgResponse s fun t => t.svc.events = [] ∧ t.hart.stage = .free ∧ t.mem = s.mem ∧
        ComesBack s t s.hart.core j ∧ ∀ x ∈ getReady t s.hart.core, x ∈ getReady s s.hart.core ∨ x.held = false ∧ x.page = []) ∧
      (code ≠ 0 → Completes .prgResponse s fun t => t.svc.events = [] ∧ t.hart.stage = .free ∧
        getReady t s.hart.core = getReady s s.hart.core ∧
        (getFn t j.tenant).resTail = (getFn s j.tenant).resTail + 1)) ∧
    (Given s .priReenable → exec .priReenable s = .next { taken s with tab := { s.tab with priOff := false } }) ∧
    (∀ fn va size, Given s (.invalidate fn va size) → let asked := (s.tab.invals.filter fun v => v.host).length
      (32 ≤ asked → exec .invalidateRequest s = .next s) ∧
      (asked < 32 → Completes .invalidateRequest s fun t =>
        t.tab.invals = s.tab.invals ++ [{ tenant := fn, va := va, size := size, host := true, id := s.tab.invalSerial }] ∧
        t.tab.invalSerial = s.tab.invalSerial + 1 ∧ t.mem = s.mem ∧ t.hart = s.hart ∧
        let meets (a : Nat × Nat) : Bool := a.1 < va + size ∧ va < a.1 + a.2
        let used (c : CodingCmd) : CodingCmd := if c.tenant = fn ∧ c.pages.any (fun p => meets p.leaf)
          then { c with invals := s.tab.invalSerial :: c.invals } else c
        t.tab.ats = (s.tab.ats.map fun q =>
          if q.req.tenant = fn ∧ meets (q.req.va / q.size * q.size, q.size) then { q with stale := true } else q) ∧
        t.eng.flight = (s.eng.flight.map fun p =>
          if p.tenant = fn ∧ p.pages.any meets then { p with invals := s.tab.invalSerial :: p.invals } else p) ∧
        t.eng.coding = (s.eng.coding.map fun p =>
          (p.1, { p.2 with running := p.2.running.map used, queue := p.2.queue.map used })) ∧
        ((s.tab.coreTlb.map fun p => p.1).Nodup → (s.tab.groupTlb.map fun p => p.1).Nodup →
          ∀ c e, let kept := ¬ (e.tenant = fn ∧ e.va < va + size ∧ va < e.va + e.size);
          (e ∈ mapGet [] t.tab.coreTlb c ↔ e ∈ mapGet [] s.tab.coreTlb c ∧ kept) ∧
          (e ∈ mapGet [] t.tab.groupTlb c ↔ e ∈ mapGet [] s.tab.groupTlb c ∧ kept)))) ∧
    let inUse (n : Nat) : Prop := (∃ p ∈ s.eng.flight, n ∈ p.invals) ∨
      ∃ p ∈ s.eng.coding, ∃ c ∈ p.2.running.toList ++ p.2.queue, n ∈ c.invals
    (∀ v rest, s.tab.invals = v :: rest → ¬ inUse v.id → exec .invalidateCompletion s = .next
      { s with tab := { s.tab with invals := rest, invalDone := s.tab.invalDone + if v.host = true then 1 else 0 } }) ∧
    ((∀ v ∈ s.tab.invals, inUse v.id) → exec .invalidateCompletion s = .next s)

/-- R262-R265, R300, R301, R321: elements of `vamo` combine in their bank's buffer and are applied to their
word when their time is over; errors in storage are found by what reads it, those in a core's registers
fence the core, a clean line of a cache is missed and fetched again, and corrected ones are counted. The
model's own choices in it: log entries 3, 22 (DESIGN CHOICE). -/
def Obligations.CombiningBuffersAndErrors : Prop :=
  ∀ s,
    (∀ v rest, s.vamos = v :: rest → (∀ i < v.bytes, byteGuarded s v.sender v.core (v.off + i) = false) →
      let bank := 16 * v.core + v.off / 64 % 16
      let l := mapGet [] s.combine bank
      let same (c : Combine) : Bool := c.loc = v.loc ∧ c.bytes = v.bytes ∧ c.op = v.op ∧ c.signed = v.signed
      ((∀ c ∈ l, c.loc ≠ v.loc) → l.length < 16 → Completes .vamoArrival s fun t =>
        mapGet [] t.combine bank = l ++ [⟨v.loc, v.core, v.bytes, v.op, v.signed, v.operand, s.time.now.toNat⟩] ∧ t.vamos = rest ∧ t.mem = s.mem) ∧
      (∀ a c b, l = a ++ c :: b → same c = true → (∀ x ∈ a ++ b, same x = false) →
        let z := BitVec.ofNat 64 (combineValue v.op v.signed (8 * v.bytes) c.operand.toNat v.operand.toNat)
        Completes .vamoArrival s fun t =>
          mapGet [] t.combine bank = a ++ { c with operand := z } :: b ∧ t.vamos = rest ∧ t.mem = s.mem)) ∧
    (∀ v rest, s.vamos = v :: rest → v.sender = s.hart.key → v.job = s.hart.job.job → s.hart.stage = .running → s.pmc = [] → 0 < v.bytes →
      byteGuarded s v.sender v.core v.off = true →
      exec .vamoArrival s = .next (withHart { s with vamos := rest } fun h =>
        { h with posted := h.posted ++ [⟨true, guardTrap v.core v.off, v.order⟩] })) ∧
    (∀ bank c x, s.combine = [(bank, [c])] → c.time + 2048 ≤ s.time.now.toNat → readNat s 0 c.loc c.bytes = some x →
      Completes .combiningTimeout s fun t => t.combine = [] ∧ t.mem = (pokeLoc s 0 c.loc (bytesOfNat c.bytes
        (combineValue c.op c.signed (8 * c.bytes) x c.operand.toNat))).mem ∧ t.hart = s.hart) ∧
    (∀ loc, Given s (.error loc) → isDram loc = true ∨ isSpad loc = true → Completes .uncorrectableError s fun t =>
      (∀ a n, 0 < n → a / 8 ≤ loc / 8 → loc / 8 ≤ (a + n - 1) / 8 → readLoc t 0 a n = none) ∧ t.mem = s.mem ∧ t.hart = s.hart) ∧
    (∀ c, Given s (.coreError c) → c < 96 → Completes .uncorrectableError s fun t => c ∈ t.fenceReq ∧ t.mem = s.mem) ∧
    (∀ core fetch line, Given s (.lineError core fetch line) → Completes .uncorrectableError s fun t => ∃ d i,
      t = { taken s with dcache := d, icache := i } ∧
      ∀ k, let drop (l : List CLine) (f : Bool) : List CLine :=
          if k = core ∧ fetch = f then l.filter fun x => x.line != line else l
        mapGet [] d k = drop (mapGet [] s.dcache k) false ∧ mapGet [] i k = drop (mapGet [] s.icache k) true) ∧
    (∀ key i, Given s (.stackError key i) → (getHart s key).rs.length ≤ i → exec .uncorrectableError s = .next (taken s)) ∧
    (∀ key i, Given s (.stackError key i) → i < (getHart s key).rs.length → Completes .uncorrectableError s fun t =>
      getHart t key = { getHart s key with rs := (getHart s key).rs.set i ((Config.freeValue s.free).truncate 48) } ∧
      t.mem = s.mem ∧ ∀ k, k ≠ key → getHart t k = getHart s k) ∧
    (∀ ch, Given s (.corrected ch) → Completes .uncorrectableError s fun t =>
      mapGet 0 t.eccCount (ch % 32) = mapGet 0 s.eccCount (ch % 32) + 1 ∧ LoggedAt s t 0x0002) ∧
    (Given s .sramError → exec .uncorrectableError s = .fault .errorWithoutEffect)

/-! ### Ports, time and links -/

/-- R23, R90, R264, R396, R397, R419-R422, R430, R481-R484: a frame that no entry takes is counted, a steered
one is appended as a record, or dropped, with its entry's counters; a window's head message leaves at its launch
time, in a frame of its port, or is dropped when it is too late or no entry sends it; a fenced core's windows
send nothing, nor does a port that is off, and one whose head cannot be read has its core fenced. Ports timestamp
what they receive and send. The model's own choices in it: log entries 31, 35 (DESIGN CHOICE). -/
def Obligations.FramesAreReceivedAndSent : Prop :=
  ∀ s,
    (∀ f, Given s (.frame f) → let p := f.port
      let port (u : State) : Port := mapGet {} u.eng.ports p
      let stamped : Port := { port s with stampIn := s.time.now.toNat * 2 ^ 16 + s.time.frac.toNat - f.age }
      let foreign := (f.dest.getLsbD 40 = false ∧ f.dest ≠ (port s).station) ∨ 2 ≤ f.tags ∨ 9000 < f.length
      let drop := foreign ∨ (f.isPtp = false ∧ (f.ecpri = false ∨ (f.msgType ≠ 0 ∧ f.msgType ≠ 2)))
      ((port s).mode = 0 → exec .ingressFrame s = .next (taken s)) ∧
      ((port s).mode ≠ 0 → f.fcsOk = false → Completes .ingressFrame s fun t =>
        port t = { stamped with fcs := (port s).fcs + 1 } ∧ t.mem = s.mem ∧ t.eng.windows = s.eng.windows) ∧
      ((port s).mode ≠ 0 → f.fcsOk = true → ¬ foreign → f.isPtp = true → Completes .ingressFrame s fun t =>
        port t = stamped ∧ t.mem = s.mem ∧ t.eng.windows = s.eng.windows ∧ t.eng.bridles = s.eng.bridles) ∧
      ((port s).mode ≠ 0 → f.fcsOk = true → drop → Completes .ingressFrame s fun t =>
        port t = { stamped with unmatched := (port s).unmatched + 1 } ∧ t.mem = s.mem ∧ t.eng.windows = s.eng.windows) ∧
      ((port s).mode ≠ 0 → f.fcsOk = true → ¬ foreign → f.isPtp = false → f.ecpri = true →
        f.msgType = 0 ∨ f.msgType = 2 →
        let b (n : Nat) := getBridle s p n
        let field (n hi lo : Nat) := (b n).cfg0.toNat / 2 ^ lo % 2 ^ (hi + 1 - lo)
        let takes (n : Nat) := field n 63 63 = 1 ∧ field n 62 62 = 0 ∧ field n 61 60 = f.msgType / 2 ∧
          field n 51 36 = f.eaxc ∧ field n 59 56 ≤ f.symbol ∧ f.symbol ≤ field n 55 52
        ((∀ n < 1024, ¬ takes n) → Completes .ingressFrame s fun t =>
          port t = { stamped with unmatched := (port s).unmatched + 1 } ∧ t.mem = s.mem ∧ t.eng.windows = s.eng.windows) ∧
        ∀ n, n < 1024 → takes n → (∀ m < n, ¬ takes m) →
          let core := (field n 24 20 - 1) * 12 + (field n 29 25 - 1)
          let win := field n 19 16
          let admitted := currentTenant s core = field n 35 30 ∧ core ∉ s.disp.reclaims
          let class' := timingClass s (b n) f
          let body := recordBody (b n) f
          let dropped := { b n with dropped := (b n).dropped + 1 }
          let timed (x : Bridle) : Bridle := { x with
            early := if class'.1 then x.early + 1 else x.early
            late := if class'.2 then x.late + 1 else x.late }
          (¬ admitted → Completes .ingressFrame s fun t =>
            getBridle t p n = dropped ∧ t.mem = s.mem ∧ t.eng.windows = s.eng.windows) ∧
          let record := dwords
              [f.eaxc % 2 ^ 16 * 2 ^ 48 + f.frame % 2 ^ 8 * 2 ^ 40 + f.subframe % 2 ^ 4 * 2 ^ 36 + f.slot % 2 ^ 6 * 2 ^ 30 +
                f.symbol % 2 ^ 6 * 2 ^ 24 + f.sect % 2 ^ 12 * 2 ^ 12 + (if f.msgType = 0 then 0 else 8) +
                (if body.2 = 0 then 0 else 4) + (if class'.1 then 2 else 0) + (if class'.2 then 1 else 0),
               f.prbs % 2 ^ 9 * 2 ^ 10 + f.startPrb % 2 ^ 10] ++ body.1
          let fits := ¬ (class'.2 = true ∧ field n 11 11 = 1) ∧ (coreEntry s core).fenced = false ∧ (getWin s core win).mode = 4
          (admitted → ¬ fits ∨ appendWhole (taken s) core win record = none →
            Completes .ingressFrame s fun t => getBridle t p n = timed dropped ∧ t.mem = s.mem ∧ t.eng.windows = s.eng.windows) ∧
          (∀ u, admitted → fits → appendWhole (taken s) core win record = some u →
            Completes .ingressFrame s fun t => t.mem = u.mem ∧ t.eng.windows = u.eng.windows ∧
              getBridle t p n = { timed (b n) with
                frames := (b n).frames + 1, saturated := (b n).saturated + BitVec.ofNat 16 body.2 }))) ∧
    (∀ c n w rest, s.eng.windows = (16 * c + n, w) :: rest → n < 16 → w.mode = 5 → (∀ x ∈ rest, x.2.mode ≠ 5) →
      (coreDead s c = true → exec .fhoutLaunch s = .next s) ∧
      let off := ∃ p e, matchOut s c n = some (p, e) ∧ (mapGet {} s.eng.ports p : Port).mode = 0
      (off → exec .fhoutLaunch s = .next s) ∧
      (coreDead s c = false → ¬ off → 16 ≤ w.avail → headMsg s c n = none →
        exec .fhoutLaunch s = .next { s with fenceReq := s.fenceReq ++ [c] }) ∧
      ∀ time body z, coreDead s c = false → (∀ x ∈ rest, x.1 ≠ 16 * c + n) → headMsg s c n = some (time, body, z) →
      let passed (t : State) := t.eng.windows = (if { w with head := w.head + BitVec.ofNat 32 z } = ({} : Window) then rest
        else mapInsert rest (16 * c + n) { w with head := w.head + BitVec.ofNat 32 z })
      (matchOut s c n = none → Completes .fhoutLaunch s fun t => passed t ∧ t.eng.sent = s.eng.sent) ∧
      ∀ p e, matchOut s c n = some (p, e) → let b := getBridle s p e
        let q : Port := mapGet {} s.eng.ports p
        let id := b.cfg0.toNat / 2 ^ 36 % 2 ^ 16
        let lateBy := b.cfg1.toNat % 2 ^ 32
        let sends := 8 + (egressBody b body).1.length ≤ 9000
        let onTime := time ≤ s.time.now.toNat ∧ s.time.now.toNat ≤ time + lateBy
        q.mode ≠ 0 →
        (s.time.now.toNat < time → exec .fhoutLaunch s = .next s) ∧
        (time + lateBy < s.time.now.toNat → Completes .fhoutLaunch s fun t =>
          passed t ∧ t.eng.sent = s.eng.sent ∧ getBridle t p e = { b with dropped := b.dropped + 1 }) ∧
        (onTime → ¬ sends → Completes .fhoutLaunch s fun t =>
          passed t ∧ t.eng.sent = s.eng.sent ∧ getBridle t p e = { b with dropped := b.dropped + 1 }) ∧
        (onTime → sends → Completes .fhoutLaunch s fun t =>
          passed t ∧ getBridle t p e = { b with saturated := b.saturated + BitVec.ofNat 16 (egressBody b body).2 } ∧
          (∃ out : Sent, t.eng.sent = out :: s.eng.sent ∧ out.port = p ∧ out.dest = q.peer ∧ out.source = q.station ∧
            out.vlan = (if q.vlanTag then some q.vlanId else none) ∧ out.eaxc = id ∧ out.seq = mapGet 0 q.seq id ∧
            out.cplane = decide (b.cfg0.toNat / 2 ^ 60 % 4 = 1) ∧ (b.cfg0.toNat / 2 ^ 60 % 4 = 1 → out.payload = body)) ∧
          (mapGet {} t.eng.ports p : Port).stampOut = s.time.now.toNat * 2 ^ 16 + s.time.frac.toNat ∧
          mapGet 0 (mapGet {} t.eng.ports p : Port).seq id = mapGet 0 q.seq id + 1) ∧
        ∀ t0, sends → t0 < time → time ≤ s.time.now.toNat → ∃ out ∈ (launchDue t0 s).eng.sent, out.port = p ∧ out.eaxc = id ∧
          out.seq = mapGet 0 q.seq id)

/-- R22, R427, R428, R480, R484, R485: device time steps forward once, at the first lock, and what it passes over
is skipped or abandoned; later offsets, which PTP messages show at the selected port, are removed by slewing; changes of lock, retrained links and the
tether's state are recorded. The model's own choices in it: log entries 18, 19, 29 (DESIGN CHOICE). -/
def Obligations.TimeIsDisciplinedAndLinksChange : Prop :=
  ∀ s,
    (∀ port master age, Given s (.ptp port master age) → let q : Port := mapGet {} s.eng.ports port
      let stamp : Nat := s.time.now.toNat * 2 ^ 16 + s.time.frac.toNat - age
      (q.mode = 0 → exec .ptpFrame s = .next (taken s)) ∧
      (q.mode ≠ 0 → Completes .ptpFrame s fun t => t.mem = s.mem ∧ t.hart = s.hart ∧
        (mapGet {} t.eng.ports port : Port) = { q with stampIn := stamp } ∧
        t.time = if port = s.time.port ∧ s.time.stepped = true then { s.time with slew := (master : Int) - stamp }
          else s.time)) ∧
    (∀ port ql, Given s (.esmc port ql) → exec .esmcMessage s = .next { taken s with time :=
      if port = s.time.port then { s.time with ssm := ql } else s.time }) ∧
    (∀ v, Given s (.timeStep v) →
      (s.time.stepped = true → exec .timeStep s = .next (taken s)) ∧
      (s.time.stepped = false → s.disp.trees = [] → Completes .timeStep s fun t =>
        t.time.stepped = true ∧ t.time.lock = 1 ∧ t.time.now.toNat = max s.time.now.toNat v.toNat ∧ LoggedAt s t 0x0004 ∧
        ∀ n < 128, let e := getSlot s n;
          (e.enable = false → getSlot t n = e) ∧
          (e.enable = true → let k := max e.next (e.firstFrom t.time.now.toNat)
            getSlot t n = { e with next := k, skipped := e.skipped + BitVec.ofNat 64 (k - e.next) })) ∧
      (∀ k tr, s.time.stepped = false → s.disp.slots = [] → s.disp.trees = [(k, some tr)] → s.time.now.toNat < v.toNat →
        let u := { taken s with time := { s.time with now := v, frac := 0, stepped := true, lock := 1 } }
        exec .timeStep s = .next (telemetryOpen
          (if tr.deadline.toNat ≠ 2 ^ 64 - 1 ∧ tr.deadline.toNat ≤ v.toNat then abandonTree u (BitVec.ofNat 32 k) false else u)
          0x0004 none none))) ∧
    (∀ d off : Nat, s.time.slew = (off : Int) → s.time.now.toNat < 2 ^ 63 → d < 2 ^ 62 →
      let t := passTime s d
      let extra := min off (d / 10000)
      t.time.now.toNat * 2 ^ 16 + t.time.frac.toNat = s.time.now.toNat * 2 ^ 16 + s.time.frac.toNat + d + extra ∧
        t.time.slew = (off : Int) - extra) ∧
    (∀ st, Given s (.lock st) → let keep := s.time.lock = st ∨ 3 ≤ st ∨ (st = 1 ∧ s.time.stepped = false)
      (keep → exec .lockStateChange s = .next (taken s)) ∧
      (¬ keep → Completes .lockStateChange s fun t => t.time = { s.time with lock := st } ∧ LoggedAt s t 0x0004)) ∧
    (∀ l, Given s (.flitReplay l) → Completes .flitReplay s fun t => t.hart = s.hart ∧ t.mem = s.mem ∧
      mapGet [] t.replays l = (mapGet [] s.replays l).filter (fun x => s.time.now.toNat < x + 1000000) ++ [s.time.now.toNat]) ∧
    (∀ l half, Given s (.linkRetrain l half) → Completes .linkRetrain s fun t =>
      (l ∈ t.meshHalf ↔ half = true) ∧ (∀ x, x ≠ l → (x ∈ t.meshHalf ↔ x ∈ s.meshHalf)) ∧ mapGet [] t.replays l = [] ∧
        LoggedAt s t 0x0001) ∧
    (∀ l rest times, s.inputs = [] → s.replays = (l, times) :: rest → 16 < times.length →
      (∀ x ∈ times, s.time.now.toNat < x + 1000000) → Completes .linkRetrain s fun t =>
        mapGet [] t.replays l = [] ∧ LoggedAt s t 0x0001 ∧ ∀ x, x ≠ l → (x ∈ t.meshHalf ↔ x ∈ s.meshHalf)) ∧
    (∀ i up, (i, up) ∈ [(Instr.tetherDown, false), (.tetherUp, true)] → Given s (if up then .tetherUp else .tetherDown) →
      (s.tetherUp = up → exec i s = .next (taken s)) ∧
      (s.tetherUp ≠ up → Completes i s fun t => t.tetherUp = up ∧ LoggedAt s t 0x0001))

/-! ### Registers written from outside, doorbells and the command queues -/

/-- R8, R251, R329, R366, R451, R468-R472, R475, R483: what a doorbell, a register of BAR0 and a store to a
control window change; a queue or a function whose new tail is too far ahead stops. A store of the host (log entry 8)
and one of the twin land, unless the ring guard or the tether stops the twin's (R230, R480; log entry 24); the service
complex selects the port of PTP (R485), and the host sets its page request allocation (R413; log entry 58). The
model's own choices in it: log entries 8, 17, 20, 24, 58 (DEDUCED 17; DESIGN CHOICE 8, 20, 24, 58). -/
def Obligations.RegistersAndDoorbellsAreWritten : Prop :=
  ∀ s,
    (∀ q v i, q < 192 →
      (∃ f, Given s (.bar2 f (16 * q) v) ∧ (getQ s q).created = true ∧ (getQ s q).tenant = f) ∨
        Given s (.store (sitePointer 0 0 13 0 (BitVec.ofNat 64 (0x80000 + 16 * q))) v) → i = Instr.launchDoorbell →
      let l := getQ s q
      let tail := BitVec.ofNat 32 v.toNat
      let bad := l.size < (tail - l.head).toNat
      (l.created = false → Completes i s fun t => getQ t q = l ∧ t.mem = s.mem) ∧
      (l.created = true → ¬ bad → Completes i s fun t => getQ t q = { l with tail := tail } ∧ t.mem = s.mem ∧ t.hart = s.hart ∧
        ∀ r, r ≠ q → getQ t r = getQ s r) ∧
      (l.created = true → bad → Completes i s fun t => getQ t q = { l with tail := tail, stopped := true } ∧
        (l.stopped = false → LoggedAt s t 0x0003))) ∧
    (∀ f off v, Given s (.bar2 f off v) → off % 16 ≠ 0 ∨ 192 ≤ off / 16 ∨ (getQ s (off / 16)).created = false ∨
        (getQ s (off / 16)).tenant ≠ f →
      exec .launchDoorbell s = .next (taken s)) ∧
    (∀ f v, Given s (.bar0 f 0x018 v) → let n := getFn s f
      let tail := BitVec.ofNat 32 v.toNat
      let bad := 2 ^ n.order < (tail - n.head).toNat
      (bad → exec .commandDoorbell s = .next (setFn (taken s) f { n with tail := tail, err := true, needTail := true })) ∧
      (¬ bad → exec .commandDoorbell s = .next (rung (setFn (taken s) f { n with tail := tail, needTail := n.err }) f))) ∧
    (∀ f off v, Given s (.bar0 f off v) → off ≠ 0x018 → let n := getFn s f
      let idle := n.head = n.tail
      Completes .registerWrite s fun t => getFn t f = { n with
        ring := if off = 0x000 ∧ idle then BitVec.ofNat 64 (v.toNat / 64 * 64) else n.ring
        order := if off = 0x008 ∧ idle ∧ 4 ≤ v.toNat % 16 ∧ v.toNat % 16 ≤ 12 then v.toNat % 16 else n.order
        results := if off = 0x010 ∧ idle then BitVec.ofNat 64 (v.toNat / 32 * 32) else n.results
        err := if off = 0x030 ∧ v.toNat.testBit 1 then false else n.err } ∧
        t.svc.events = s.svc.events ∧ t.mem = s.mem ∧ ∀ g, g ≠ f → getFn t g = getFn s g) ∧
    (∀ v, Given s (.store (sitePointer 0 0 13 7 0x80490) v) → Completes .powerLimitRegisterWrite s fun t =>
      t.svc.powerLimit = (if 180 ≤ v.toNat % 512 ∧ v.toNat % 512 ≤ 360 then v.toNat % 512 else s.svc.powerLimit) ∧
      t.mem = s.mem ∧ t.hart = s.hart) ∧
    (∀ p v, p < 16 → Given s (.store (sitePointer 0 0 0 (BitVec.ofNat 5 (p / 2 + 1)) (BitVec.ofNat 64 (0x80000 + 0x100 * (p % 2)))) v) →
      let old : Port := mapGet {} s.eng.ports p
      Completes .portModeWrite s fun t => (mapGet {} t.eng.ports p : Port) = { old with
        vlanTag := v.toNat.testBit 28, vlanId := BitVec.ofNat 12 (v.toNat / 2 ^ 16), mode := BitVec.ofNat 2 v.toNat } ∧
        ∀ r, r ≠ p → (mapGet {} t.eng.ports r : Port) = mapGet {} s.eng.ports r) ∧
    (∀ c n j v, c < 96 → n < 16 → j < 8 → (coreEntry s c).fenced = false →
      Given s (.store (sitePointer 0 0 (BitVec.ofNat 5 (c % 12 + 1)) (BitVec.ofNat 5 (c / 12 + 1))
        (BitVec.ofNat 64 (0x80000 + 64 * n + 8 * j))) v) →
      Completes .windowDescriptorStore s fun t => getWin t c n = (getWin s c n).store j v ∧
        (∀ m, (m < 16 ∧ m ≠ n) → getWin t c m = getWin s c m) ∧ t.mem = s.mem ∧ t.hart = s.hart) ∧
    (∀ g v, g < 12 → Given s (.store (sitePointer 0 0 13 7 (BitVec.ofNat 64 (0x80400 + 8 * g))) v) →
      Completes .registerWrite s fun t => (mapGet 0 t.svc.throttle g).toNat = v.toNat % 16 ∧
        ∀ h, h ≠ g → mapGet 0 t.svc.throttle h = mapGet 0 s.svc.throttle h) ∧
    (∀ c k v, c < 96 → k < 8 → (coreEntry s c).fenced = false →
      Given s (.store (sitePointer 0 0 (BitVec.ofNat 5 (c % 12 + 1)) (BitVec.ofNat 5 (c / 12 + 1))
        (BitVec.ofNat 64 (0x81000 + 8 * k))) v) →
      Completes .registerWrite s fun t => (mapGet {} t.pmc (8 * c + k) : Pmc).count = BitVec.ofNat 48 v.toNat ∧
        (mapGet {} t.pmc (8 * c + k) : Pmc).select = (mapGet {} s.pmc (8 * c + k) : Pmc).select) ∧
    (∀ n v, Given s (.temperature n v) → n < 120 → Completes .registerWrite s fun t =>
      mapGet 0 t.svc.sensors n = v ∧ ∀ m, m ≠ n → mapGet 0 t.svc.sensors m = mapGet 0 s.svc.sensors m) ∧
    (∀ a bs, Given s (.hostStore a bs) → Completes .registerWrite s fun t => (∀ i < bs.length,
      memByte t.mem (hostLoc (a + i)) = bs.getD i 0) ∧ t.hart = s.hart ∧
      ∀ b, (∀ i < bs.length, b ≠ hostLoc (a + i)) → memByte t.mem b = memByte s.mem b) ∧
    (∀ l cache bs, Given s (.twinStore l cache bs) → let spad := isSpad l = true ∧ (coreEntry s (spadCore l)).fenced = false
      (s.tetherUp = false ∨ (isDram l = false ∧ ¬ spad) → exec .registerWrite s = .next (taken s)) ∧
      (isSpad l = true → (∃ i < bs.length, byteGuarded s (8 * 128) (spadCore l) (spadOff l + i) = true) →
        exec .registerWrite s = .next (taken s)) ∧
      (s.tetherUp = true → isDram l = true ∨ (spad ∧ ∀ i < bs.length, byteGuarded s (8 * 128) (spadCore l) (spadOff l + i) = false) →
        isTwinSpad l = false → s.bad = [] → Completes .registerWrite s fun t => t.hart = s.hart ∧
          (∀ i < bs.length, memByte t.mem (l + i) = bs.getD i 0) ∧
          ∀ b, (∀ i < bs.length, b ≠ l + i) → memByte t.mem b = memByte s.mem b)) ∧
    (∀ n, Given s (.selectPort n) → exec .registerWrite s = .next { taken s with time := { s.time with port := n % 16 } }) ∧
    (∀ n, Given s (.priAllocation n) → exec .registerWrite s = .next { taken s with tab := { s.tab with priAlloc := n } }) ∧
    (Given s .claim → exec .telemetryClaim s = .next { taken s with svc := { s.svc with claim := s.svc.claim + 1 } })

/-- R449, R450, R452, R458-R460: an idle service core takes the command at the head of a ring; one whose result
the journal holds is answered again, an older one is stale, an unknown opcode and a reserved bit are refused;
deferred work that has ended is an event, whose taking writes its result, which the journal keeps. The model's
own choices in it: log entries 17, 30, 39 (DEDUCED 17; DESIGN CHOICE 30, 39). -/
def Obligations.CommandsAreTakenOnce : Prop :=
  ∀ s, SvcIdle s → s.inputs = [] →
    (∀ f rest, s.svc.events = .command f :: rest → let n := getFn s f
      let c := headCmd s f
      let free := ∀ h ∈ s.svc.cmds, h.cmd.fn ≠ f
      (n.head = n.tail ∨ n.err = true ∨ n.needTail = true ∨ ¬ free → exec .commandDoorbell s = .next
        { s with svc := { s.svc with events := rest ++ s.svc.held.take 1, held := s.svc.held.drop 1 } }) ∧
      (n.head ≠ n.tail → n.err = false → n.needTail = false → free →
        let entries := getBytes s.mem (hostLoc (n.ring.toNat + 64 * (n.head.toNat % 2 ^ n.order))) 64
        let known := n.journal.find? fun e => e.seq = c.seq
        let old := ∃ h, n.highest = some h ∧ c.seq.toNat < h.toNat
        let done (t : State) := ∃ u, t = rung u f ∧ EventTaken s u rest ∧ u.svc.cmds = s.svc.cmds ∧
          (getFn u f).head = n.head + 1 ∧ (getFn u f).resTail = n.resTail + 1
        let result (t : State) (at_ : Nat) :=
          natOfBytes (getBytes t.mem (hostLoc (n.results.toNat + 32 * (n.resTail.toNat % 2 ^ n.order) + at_)) 8)
        let status (t : State) := result t 0 % 256
        (c.seq.toNat = dw entries 0 / 2 ^ 32 ∧ c.op = dw entries 0 % 2 ^ 16 ∧
          (c.bad = true ↔ dw entries 0 / 2 ^ 16 % 2 ^ 16 ≠ 0) ∧
          (operands c).map (fun v => v.toNat) = (List.range 7).map fun i => dw entries (i + 1)) ∧
        (known = none → ¬ old → 1 ≤ c.op → c.op ≤ 0x1B → c.bad = false → Completes .commandDoorbell s fun t =>
          (∃ k < 12, (∀ h ∈ s.svc.cmds, h.core ≠ k) ∧ t.svc.cmds = s.svc.cmds ++ [⟨k, s.time.now.toNat, c⟩]) ∧
          getFn t f = { n with head := n.head + 1 } ∧ t.mem = s.mem ∧ EventTaken s t rest) ∧
        (known = none → ¬ old → c.op = 0 ∨ 0x1B < c.op → Completes .commandDoorbell s fun t => done t ∧ status t = 1) ∧
        (known = none → ¬ old → 1 ≤ c.op → c.op ≤ 0x1B → c.bad = true → Completes .commandDoorbell s fun t => done t ∧ status t = 2) ∧
        (known = none → old → Completes .commandDoorbell s fun t => done t ∧ status t = 8 ∧ (getFn t f).journal = n.journal) ∧
        (∀ e, known = some e → Completes .commandDoorbell s fun t =>
          done t ∧ status t = 6 ∧ (getFn t f).journal = n.journal ∧ result t 24 = e.time % 2 ^ 64 ∧
          ((∀ d ∈ s.svc.deferred, d.fn = f → d.seq ≠ c.seq) → result t 8 = e.r0.toNat ∧ result t 16 = e.r1.toNat)))) ∧
    (∀ d st r0 r1 more, s.svc.deferred = d :: more →
      (d.kind = .done st r0 r1 ∨ ((st, r0, r1) = (0, 0, 0) ∧ ((∃ c, d.kind = .fence c ∧ c ∉ s.fenceReq) ∨
        (∃ n k, d.kind = .copy n k ∧ ∀ l ∈ getLists s n, l.serial = k → l.ended = true) ∨
        ∃ t, d.kind = .inval t ∧ ∀ v ∈ s.tab.invals, v.host = true ∨ v.tenant ≠ t))) →
      (s.svc.events = [] → s.svc.held = [] →
        exec .deferredCompletion s = .next { s with svc := { s.svc with events := [.completion d.fn d.seq] } }) ∧
      (∀ rest, s.svc.events = .completion d.fn d.seq :: rest →
        exec .deferredCompletion s = .next (withResult
          (setFn { s with svc := { s.svc with
              deferred := more, events := rest ++ s.svc.held.take 1, held := s.svc.held.drop 1 } } d.fn { getFn s d.fn with
            journal := (getFn s d.fn).journal.map fun e => if e.seq = d.seq then { e with status := st, r0 := r0, r1 := r1 } else e })
          d.fn d.seq d.op st r0 r1 d.time)))

/-! ### Host commands -/

/-- R140, R321, R323, R326-R328, R343, R356, R362, R363, R410, R415-R419, R423, R431, R434, R454-R461, R466,
R470, R472: the checks that go before every host command, then each command: its refusals, its effect, its
result and its journal entry. The model's own choices in it: log entries 9, 10, 30 (DESIGN CHOICE). -/
def Obligations.HostCommandsAreExecuted : Prop :=
  ∀ s c,
    (∀ i op n pf, (i, op, n, pf) ∈ hostCommands → First s c → c.op = op →
      (pf = true → c.fn ≠ 0 → Refused i s c 3) ∧
      ((pf = true → c.fn = 0) → (∃ v ∈ (operands c).drop n, v ≠ 0) → Refused i s c 2)) ∧
    QueueCreateRule s c ∧ QueueDestroyRule s c ∧ TenantCreateRule s c ∧ TenantDestroyRule s c ∧
    PtAttachRule s c ∧ LendRule s c ∧ ReclaimRule s c ∧ ReclaimAtRule s c ∧ SlotSetRule s c ∧
    BridleSetRule s c ∧ CodingCfgRule s c ∧ AllocRule s c ∧ KeySetRule s c ∧ FenceRule s c ∧
    PowerLimitRule s c ∧ PartResetRule s c ∧
    LaunchRule s c ∧ GangLaunchRule s c ∧ CopyRule s c ∧ SignalRule s c ∧ DebugSessionRule s c ∧
    DebugHartRule s c ∧ TelemetryRule s c ∧ AttestRule s c ∧ QueryRule s c

/-! ### The service complex, power and reset -/

/-- R117, R311, R359, R360, R449, R464, R465: the oldest trap is served: `svc` codes 0 to 3 write s1 and put the job
back into its ready store, 1 with a notice to the tenant's function, 2 with a telemetry entry, 3 with the lock state
in s1; a job of an abandoned tree, whose record binds no more, goes on where it is, to take its expiry or to finish
its grace handler (log entry 40: the model's inference). Any other trap ends the job FAULT with a notice; one with a
host page whose response is outstanding waits, and a Success lets the job go on. The model's own choices in it: log
entries 17, 29, 39, 40, 50 (DEDUCED 17, 40, 50; DESIGN CHOICE 29, 39). -/
def Obligations.TrapsAreServed : Prop :=
  ∀ s j rest cause tval, TrapOf s j rest cause tval →
    let saved (r : Nat) := saveDword s j.pages (0x200 + 8 * r)
    let answer (u : State) (v : Dword) := savePut u j.pages 0x208 (bytesOfNat 8 v.toNat)
    let back (t : State) := EventTaken s t rest ∧ t.hart.stage = .free ∧ ComesBack s t s.hart.core j ∧
      ∀ x ∈ getReady t s.hart.core, x ∈ getReady s s.hart.core ∨ x.held = false
    let goesOn (t u : State) := EventTaken s t rest ∧ Resumes u s.hart.jobNow t.hart ∧ t.hart.expiry = s.hart.expiry ∧
      t.hart.graceEnd = s.hart.graceEnd ∧ t.mem = (let d := saveDword u j.pages 0x400
        if d / 2 ^ 16 % 2 = 1 then savePut u j.pages 0x400 (bytesOfNat 8 (d - 2 ^ 16)) else u).mem
    let told (seq : BitVec 32) (st : Nat) :=
      withResult s j.tenant seq 0xFE st (BitVec.ofNat 64 (saved 2)) (BitVec.ofNat 64 (saved 3)) s.time.now.toNat
    let page := j.page.filter fun p => p.va = tval / 4096 * 4096
    let asked (p : PageWait) := (∃ q ∈ s.tab.pri, q.id = p.id) ∨ ∃ code, SvcEvent.prg p.id code ∈ rest ++ s.svc.held
    (treeAbandoned s j.tree = false →
      (cause = 8 → tval = 0 → Completes .svcNone s fun t => back t ∧ t.mem = (answer s 0).mem) ∧
      (cause = 8 → tval = 1 → Completes .svcNotice s fun t => back t ∧ ∃ seq st, st < 256 ∧
        t.mem = (answer (told seq st) 0).mem ∧ t.svc.fns = (told seq st).svc.fns) ∧
      (cause = 8 → tval = 2 → Completes .svcTelemetry s fun t => back t ∧ t.svc.claim = s.svc.claim + 1 ∧
        t.mem = (answer (telemetry s 0x0100 (saved 2) (saved 3)) 0).mem) ∧
      (cause = 8 → tval = 3 → Completes .svcTimeLock s fun t => back t ∧
        t.mem = (answer s (BitVec.ofNat 64 s.time.lock)).mem) ∧
      (∀ p, cause = 0x15 → page.getLast? = some p → p.code = some 0 → Completes .serviceTrap s fun t => back t ∧ t.mem = s.mem)) ∧
    (treeAbandoned s j.tree = true →
      (cause = 8 → tval = 0 → Completes .svcNone s fun t => goesOn t (answer s 0)) ∧
      (cause = 8 → tval = 1 → Completes .svcNotice s fun t => ∃ seq st, st < 256 ∧ goesOn t (answer (told seq st) 0) ∧
        t.svc.fns = (told seq st).svc.fns) ∧
      (cause = 8 → tval = 2 → Completes .svcTelemetry s fun t => goesOn t (answer (telemetry s 0x0100 (saved 2) (saved 3)) 0) ∧
        t.svc.claim = s.svc.claim + 1) ∧
      (cause = 8 → tval = 3 → Completes .svcTimeLock s fun t => goesOn t (answer s (BitVec.ofNat 64 s.time.lock))) ∧
      (∀ p, cause = 0x15 → page.getLast? = some p → p.code = some 0 → Completes .serviceTrap s fun t => goesOn t s)) ∧
    (∀ p, cause = 0x15 → page.getLast? = some p → p.code = none → asked p → exec .serviceTrap s = .next
      { s with svc := { s.svc with events := rest ++ s.svc.held.take 1, held := s.svc.held.drop 1 } }) ∧
    (¬ (cause = 8 ∧ tval ≤ 3) →
      (cause = 0x15 → ∀ p, page.getLast? = some p → p.code ≠ some 0 ∧ (p.code = none → ¬ asked p)) →
      Completes .serviceTrap s fun t =>
        EventTaken s t rest ∧ t.hart.stage = .free ∧ t.hart.width = 0 ∧ ∃ st, st < 256 ∧
          let u := recordEnd s j 5 s.hart.core s.hart.hid s.hart.lastPc s.hart.jprog
          t.mem = (withResult u j.tenant 0 0xFF st (j.job.zeroExtend 64) (BitVec.ofNat 64 (cause * 2 ^ 56 + tval % 2 ^ 56))
            s.time.now.toNat).mem)

/-- R449, R462, R463: a service core that hangs, or has not finished 2 ms after it took a command, has the
commands in hand interrupted, and all restart; meanwhile ballast takes the commands of its three and stops at
any other; the restart waits for the command ballast has in hand, and after it every queue is served again. The model's own choices in it: log entries 17, 29, 39
(DEDUCED 17; DESIGN CHOICE 29, 39). -/
def Obligations.ServiceCoresRestart : Prop :=
  ∀ s,
    (Given s .firmwareTimer → exec .firmwareTimer s = .next (withEvent (taken s) .timer)) ∧
    (∀ rest, s.inputs = [] → SvcIdle s → s.svc.events = .timer :: rest → exec .firmwareTimer s = .next
      { s with svc := { s.svc with events := rest ++ s.svc.held.take 1, held := s.svc.held.drop 1 } }) ∧
    (∀ k, Given s (.hang k) →
      (s.svc.restarting = true → exec .watchdogExpiry s = .next (taken s)) ∧
      (s.svc.restarting = false → s.svc.cmds = [] → Completes .watchdogExpiry s fun t =>
        t.svc.restarting = true ∧ t.svc.hung = some k ∧ t.svc.restartDue = false ∧ t.svc.expiredAt = s.time.now.toNat ∧
          t.svc.events = s.svc.events ∧ LoggedAt s t 0x0021) ∧
      (∀ h, s.svc.restarting = false → s.svc.cmds = [h] → let c := h.cmd
        Completes .watchdogExpiry s fun t =>
        t.svc.restarting = true ∧ t.svc.hung = some k ∧ t.svc.cmds = [] ∧
        getFn t c.fn = resultFn (journalled256 (getFn s c.fn) ⟨c.seq, c.op, 2, 7, 0, 0, s.time.now.toNat⟩) ∧
        natOfBytes (getBytes t.mem (hostLoc ((getFn s c.fn).results.toNat +
          32 * ((getFn s c.fn).resTail.toNat % 2 ^ (getFn s c.fn).order))) 1) = 7)) ∧
    (∀ h rest, s.inputs = [] → s.svc.restarting = false → s.svc.cmds = h :: rest →
      (h.since + 2000000 ≤ s.time.now.toNat → Completes .watchdogExpiry s fun t =>
        t.svc.restarting = true ∧ t.svc.hung = some h.core ∧ t.svc.cmds = [] ∧ ∃ e ∈ (getFn t h.cmd.fn).journal,
          e.seq = h.cmd.seq ∧ e.state = 2 ∧ e.status = 7) ∧
      ((∀ x ∈ s.svc.cmds, s.time.now.toNat < x.since + 2000000) → exec .watchdogExpiry s = .next s)) ∧
    (Given s .serviceRestart →
      (s.svc.restarting = false → exec .serviceRestart s = .next (taken s)) ∧
      (s.svc.restarting = true → s.svc.cmds ≠ [] →
        exec .serviceRestart s = .next { taken s with svc := { s.svc with restartDue := true } })) ∧
    (s.svc.restarting = true → s.svc.cmds = [] → Given s .serviceRestart ∨ (s.inputs = [] ∧ s.svc.restartDue = true) →
      Completes .serviceRestart s fun t =>
        t.svc.restarting = false ∧ t.svc.restartDue = false ∧ t.svc.hung = none ∧ LoggedAt s t 0x0020 ∧
        natOfBytes (getBytes t.mem (ringLoc (32 * (s.svc.claim.toNat % 4096) + 8)) 6) =
          (s.time.now.toNat - s.svc.expiredAt) / 1000 % 2 ^ 48 ∧ ∀ f < 64,
          getFn t f = { getFn s f with halted := false } ∧
          ((getFn s f).head ≠ (getFn s f).tail → (getFn s f).err = false → (getFn s f).needTail = false →
            SvcEvent.command f ∈ t.svc.events ++ t.svc.held)) ∧
    (∀ f, s.svc.restarting = true → s.svc.restartDue = false → s.svc.cmds = [] → s.svc.ballastTurn = f → f < 64 → let n := getFn s f
      n.head ≠ n.tail → n.err = false → n.needTail = false → n.halted = false →
      let s1 := { s with svc := { s.svc with ballastTurn := (f + 1) % 64 } }
      ((headCmd s f).op ∈ [0x0B, 0x0C, 0x0E] → exec .ballastTurn s = .next (takeCmd s1 f 12)) ∧
      ((headCmd s f).op ∉ [0x0B, 0x0C, 0x0E] → exec .ballastTurn s = .next (setFn s1 f { n with halted := true })))

/-- R467, R469-R471, R473: the management core's reset, the trip hold, the power step, what power-on and a
device reset leave, and the five steps of the bring-up that follow. What the spec gives no reset value has the model's
(log entry 15), and what stands outside the device stays (log entry 24). The model's own choices in it: log entries 1,
13, 15, 20, 24 (DESIGN CHOICE). -/
def Obligations.PowerAndReset : Prop :=
  ∀ s, let heat (n : Nat) : Int := (mapGet 0 s.svc.sensors n : Dword).toInt
    (InPlace s 96 0 → Completes .mgmtCoreReset s fun t => getHart t 768 = { core := 96, hid := 0, stage := .running, width := 4 } ∧
      LoggedAt s t 0x0021) ∧
    (∀ n, s.svc.trip = false → n < 120 → 1760 ≤ heat n → (∀ m < n, heat m < 1760) → exec .tripHoldBegin s = .next
      (telemetry { s with svc := { s.svc with trip := true } } 0x0011 (n * 256 + 1) (mapGet 0 s.svc.sensors n : Dword).toNat)) ∧
    (s.svc.trip = true → (∀ n < 120, heat n < 1600) → ∃ n, n < 120 ∧ (∀ m < 120, heat m ≤ heat n) ∧ exec .tripHoldEnd s = .next
      (telemetry { s with svc := { s.svc with trip := false } } 0x0011 (n * 256) (mapGet 0 s.svc.sensors n : Dword).toNat)) ∧
    (∀ w, Given s (.power w) → s.svc.powerStep ≤ 15 → let z := s.svc.powerStep
      let z' := if s.svc.powerLimit < w then min 15 (z + 1) else if 100 * w < 95 * s.svc.powerLimit then z - 1 else z
      (z' = z → exec .powerStep s = .next { taken s with svc := { s.svc with power := w } }) ∧
      (z' ≠ z → exec .powerStep s = .next
        (telemetry { taken s with svc := { s.svc with power := w, powerStep := z' } } 0x0012 z' w))) ∧
    (∀ i, i ∈ [(Instr.powerOn, Input.powerOn), (.deviceReset, .deviceReset)] → Given s i.2 → Completes i.1 s fun t =>
      { t with mem := [], bad := [] } = { State.reset with
        inputs := s.inputs.drop 1, ticks := s.ticks, free := s.free, twinRole := s.twinRole, tetherUp := s.tetherUp,
        tab := { State.reset.tab with twinCores := s.tab.twinCores } } ∧
      (∀ a, 2 ^ 80 ≤ a → memByte t.mem a = memByte s.mem a) ∧ (∀ c a, c < 96 → a < 2 ^ 19 → memByte t.mem (spadLoc c a) = 0) ∧
      ∀ a < 192 * 2 ^ 30, memByte t.mem a = if i.1 = .powerOn then 0 else memByte s.mem a) ∧
    (¬ Given s .powerOn → let boot (n : Nat) : State := { s with svc := { s.svc with boot := n } }
      (s.svc.boot = 0 → Completes .powerOn s fun t => t.svc = (boot 1).svc ∧ t.mem = s.mem ∧
        getHart t 768 = { core := 96, hid := 0, stage := .running, width := 4 } ∧ ∀ k, k ≠ 768 → getHart t k = getHart s k) ∧
      (s.svc.boot = 1 → exec .powerOn s = .next { boot 2 with meshHalf := [], replays := [], eccCount := [] }) ∧
      (s.svc.boot = 2 → exec .powerOn s = .next (boot 3)) ∧
      (s.svc.boot = 3 → exec .powerOn s = .next { boot 4 with
        tab := { s.tab with tenants := State.reset.tab.tenants, cores := [], keys := [], routes := [] }
        disp := { s.disp with slots := [] }
        eng := { s.eng with bridles := [] }
        time := {} }) ∧
      (s.svc.boot = 4 → exec .powerOn s = .next { s with svc := { s.svc with boot := 5, ready := true } }) ∧
      (5 ≤ s.svc.boot → exec .powerOn s = .next s))

/-! ### The machine as a whole -/

/-- R9, R107-R119, R326, R366, R415-R418, R427, R434, R445, R457, R459, R468, R470, R473, R475: what the
spec says reset leaves; memory begins in the canonical form that every step keeps. The model's own choices in it: log entries 13, 15 (DESIGN CHOICE). -/
def Obligations.ResetIsAsStated : Prop :=
  let r := State.reset
  r.time.now = 0 ∧ r.time.lock = 0 ∧ r.time.stepped = false ∧ r.svc.ready = false ∧ r.svc.boot = 0 ∧ r.svc.restarting = false ∧
  r.svc.trip = false ∧ r.svc.powerStep = 0 ∧ r.svc.powerLimit = 300 ∧ r.svc.events = [] ∧ r.svc.held = [] ∧ r.svc.cmds = [] ∧
  (∀ t, (mapGet {} r.tab.tenants t : TenantEntry) = if t = 0 then { valid := true, root := 0, weight := 1 } else { weight := 1 }) ∧
  (∀ c, coreEntry r c = { owner := 0, part := 0, lent := false, fenced := false, borrower := 0 }) ∧
  (∀ k, (mapGet {} r.tab.keys k : KeyEntry).valid = false) ∧ r.tab.routes = [] ∧ r.tab.coreTlb = [] ∧ r.tab.groupTlb = [] ∧
  (∀ c n, getWin r c n = {}) ∧ (∀ n, (getCtr r n).state = .idle ∧ (getCtr r n).owner = 0) ∧
  (∀ n, (mapGet {} r.barriers n : Barrier) = {}) ∧ (∀ n, (mapGet {} r.pmc n : Pmc) = {}) ∧
  (∀ q, (getQ r q).created = false) ∧ (∀ n, (getSlot r n).enable = false) ∧ r.disp.nextTree = 1 ∧ r.disp.pool = [] ∧
  (∀ n, (getEng r n).denied = 0) ∧ (∀ p n, getBridle r p n = {}) ∧ (∀ p, (mapGet {} r.eng.ports p : Port) = {}) ∧
  (∀ f, getFn r f = { ring := 0, order := 4, results := 0, tail := 0, head := 0, resTail := 0, err := false, journal := [] }) ∧
  (∀ c b, c < 96 → b < 8 → let h := getHart r (8 * c + b); h.stage = .free ∧ h.width = 0 ∧ h.s = [] ∧ h.v = [] ∧ h.k = [] ∧
    h.fcsr = 0 ∧ h.tr = {} ∧ h.rs = [] ∧ h.jdl = BitVec.allOnes 64 ∧ h.len.vl = 0 ∧ h.len.rowc = 1 ∧ h.mmode = false ∧ h.queue = []) ∧
  r.dcache = [] ∧ r.icache = [] ∧ r.slices = [] ∧
  (let m := getHart r 768; m.core = 96 ∧ m.stage = .free ∧ m.pc = 0 ∧ m.s = []) ∧ memWf r.mem = true

/-- R46, R62, R63 checks 3 to 5, R145: an instruction that names the tile in matrix mode, one of the matrix unit
outside it and `menter` in it trap as illegal in this mode; one whose type or groups `vtype` does not allow as
illegal; one that conflicts with its convoy as an illegal convoy. None of them does anything else. -/
def Sys2Proof.Rules.ChecksTrap : Prop :=
  ∀ s vd va vb k, let g := groupNow s
    let word := s.hart.x.iword.zeroExtend 64
    let tile (v : BitVec 6) : Prop := s.hart.mview = true ∧ 48 < v.toNat + g
    let file (v : BitVec 6) : Prop := g ≤ 8 ∧ v.toNat % g = 0 ∧ v.toNat + g ≤ 64
    (∀ i (type : Prop), ((∃ r ∈ vectorInts, i = r.1 vd va vb k) ∧ type = (typeNow s < 8)) ∨
        ((∃ r ∈ vectorFloats, i = r.1 vd va vb k) ∧ type = (8 ≤ typeNow s ∧ typeNow s ≤ 0xB)) →
      (tile vd ∨ tile va ∨ tile vb → exec i s = .next (trappedAt 3 s 0x03 word)) ∧
      (¬ (tile vd ∨ tile va ∨ tile vb) → ¬ (type ∧ file vd ∧ file va ∧ file vb) →
        exec i s = .next (trappedAt 4 s 0x02 word)) ∧
      (¬ (tile vd ∨ tile va ∨ tile vb) → type → file vd → file va → file vb → ¬ MayJoin i s →
        exec i s = .next (trappedAt 5 s 0x04 word))) ∧
    (∀ wa wb ws fmt fmt' ks ks' sa sb, s.hart.mview = false → ∀ i ∈ [Instr.mexit, .mzero, .mop wa wb ws fmt ks,
      .mopv va vb fmt' ks', .mld sa sb fmt', .mst sa sb fmt', .mcvt sa fmt'], exec i s = .next (trappedAt 3 s 0x03 word)) ∧
    (s.hart.mview = true → exec .menter s = .next (trappedAt 3 s 0x03 word))

/-- R36-R43, R46, R62, R63, R108, R145, R505: a step at which the hart in focus issues runs the instruction that the word
at its pc decodes to, or the two of a paired bundle; a word that decodes to none, or that must stand alone and is
paired, traps as illegal, an ill-formed bundle as an illegal bundle. An instruction that names the tile in matrix
mode, one of the matrix unit outside it, `menter` in it, one whose type or groups `vtype` does not allow, and one that
its convoy excludes trap as checks 3 to 5 give, and do nothing else. Of a paired bundle one of whose words traps
neither takes effect, and the trap of the earlier check is taken, of word 0 where they fail the same one. The
model's own choices in it: log entries 3, 32 (DESIGN CHOICE 3; DEDUCED 32). -/
def Obligations.StepRunsTheDecodedInstruction : Prop :=
  ChecksTrap ∧
  ∀ s b s1, s.turn = .hart → canIssue s = true → s.hart.core < 96 →
    fetchBundle s (s.hart.pc &&& ~~~(7 : BitVec 48)) = .ok b s1 →
    let w0 := b.extractLsb' 0 32
    let w1 := b.extractLsb' 32 32
    let ends (o : Out) : Out := match o with
      | .next t => .next { passStep t with turn := .device }
      | .fault f => .fault f
      | .refused r => .refused r
    let joins (w : BitVec 32) : Bool := w.getLsbD 30 && !s1.hart.convoy.fresh
    let stands (x : Ctx) : State := withHart s1 fun h =>
      { h with x := x, block := .none, blockedBy := if h.block = .walk then h.blockedBy else none, convoy := if x.joins then h.convoy else { fresh := false } }
    let clash := ∃ i0 i1, decodeWord w0 = .ok i0 ∧ decodeWord w1 = .ok i1 ∧ i0.scalarDest ≠ 0 ∧ i0.scalarDest = i1.scalarDest
    let illFormed := b.getLsbD 63 = true ∨ (b.getLsbD 31 = true ∧
      (32 ≤ w0.toNat / 2 ^ 24 % 64 ∨ w1.toNat / 2 ^ 24 % 64 < 32 ∨ b.getLsbD 62 = true ∨ clash))
    (illFormed → step s = ends (.next (deliver (stands { iaddr := s.hart.pc }) ⟨0x01, b⟩ (s.hart.pc &&& ~~~(7 : BitVec 48)) false 63))) ∧
    (¬ illFormed → b.getLsbD 31 = false → let w := if s.hart.pc.getLsbD 2 then w1 else w0
      let at_ := stands { iaddr := s.hart.pc, iword := w, joins := joins w }
      (∀ i, decodeWord w = .ok i → step s = ends (exec i at_)) ∧
      (∀ e, decodeWord w = .error e → step s = ends (.next (deliver at_ ⟨0x02, w.zeroExtend 64⟩ s.hart.pc false 63)))) ∧
    (¬ illFormed → b.getLsbD 31 = true → s.hart.pc.getLsbD 2 = false →
      let x (w : BitVec 32) (hold : Bool) : Ctx :=
        { iaddr := s.hart.pc, iword := w, paired := true, hold := hold, joins := joins w0, half := !hold && drained s1
          snapS := some s1.hart.s, snapLen := s1.hart.len, snapFcsr := s1.hart.fcsr }
      let run (w : BitVec 32) (u : State) : Out := match decodeWord w with
        | .ok i => if i.standsAlone = true then .next (trappedAt 2 u 0x02 (w.zeroExtend 64)) else exec i u
        | .error _ => .next (trappedAt 2 u 0x02 (w.zeroExtend 64))
      let s0 := stands (x w0 true)
      let word1 (u : State) : State := withHart u fun h => { h with x := { x w1 false with npc := h.x.npc } }
      ∀ t0 t1 alone, let c0 := t0.hart.x
        let c1 := t1.hart.x
        let well := c0.trap = none ∧ c0.stalled = false
        run w0 s0 = .next t0 → (well → run w1 (word1 t0) = .next t1) → (¬ well → run w1 (word1 s0) = .next t1) →
        run w1 (word1 s0) = .next alone →
        (well → c1.trap = none → c1.stalled = false → step s = ends (.next t1)) ∧
        (∀ p, c0.trap = some p → c1.trap = none ∨ c0.check ≤ c1.check →
          step s = ends (.next (deliver t0 p s.hart.pc false 63))) ∧
        (∀ q, c1.trap = some q → well ∨ (∃ p, c0.trap = some p ∧ c1.check < c0.check) →
          let u := dropWalks s0 s0.hart.key
          step s = ends (.next (deliver (if q.cause = 0x20 then withHart u fun h => { h with fcsr := alone.hart.fcsr } else u)
            q s.hart.pc false 63))))

/-- R49-R62: a few words, each written out from the encoding tables and one of each kind of format, decode
to the instruction they stand for; a word of a reserved major, of a reserved function, with a reserved
field that is not 0, or with a reserved code, to none. -/
def Obligations.WordsDecodeAsEncoded : Prop :=
  (∀ x ∈ ([(0x00000000, .nop), (0x072891A2, .lui 5 0x091A2), (0x03295678, .addi 5 5 0x1678), (0x05414003, .slli 8 5 3),
      (0x014A2031, .setc 9 8 0x031), (0x0C2207FB, .bne 2 0 0x7FB), (0x0931C146, .sitea 6 7 0 5 3), (0x104A2000, .lds 9 8 2 0 0 0),
      (0x14096010, .vld 2 11 0 0 2), (0x15184935, .vstc 6 2 9 1 0), (0x1748C580, .setvl 9 3 2 3), (0x1A01000A, .tktGive 0 4),
      (0x1B180805, .winaWaitt 3 0 4), (0x1C2A8000, .splRun 5 10), (0x1D214C00, .cpost 4 5 6), (0x1E308001, .pmc 6 2),
      (0x280C0480, .vbcast 3 9 0), (0x291C7100, .vfadd 7 7 4 0), (0x34000002, .mzero), (0x3523443F, .mop 2 3 4 4 63)] :
        List (BitVec 32 × Instr)), decodeWord x.1 = .ok x.2) ∧
  ∀ w ∈ ([0x3F000000, 0x1F000000, 0x34000003, 0x02000200 + 0x1FF, 0x00300001, 0x1748C7FF, 0x00000001, 0x1748DE00] : List (BitVec 32)),
    (decodeWord w).toOption = none

/-- R49-R62: every well-formed instruction of the core is read back from its word, whatever the pairing and
convoy bits above it, and every word that decodes is the word of the instruction it decodes to. -/
def Obligations.EncodingRoundTrip : Prop :=
  (∀ i n, i.wf = true → encodeNat i = some n → ∀ pk : BitVec 2,
    n < 2 ^ 30 ∧ decodeWord (BitVec.ofNat 32 (n + pk.toNat * 2 ^ 30)) = .ok i) ∧
  ∀ w i, decodeWord w = .ok i → i.wf = true ∧ encodeNat i = some (w.toNat % 2 ^ 30)

/-- R4, R6, R255, R265, R280, R418: bytes written at a location read back under their key, every other byte
reads as before under it, those of other 16-byte blocks under every key, no write leaves a cell that an unlisted address equals or a cell out of order. The
model's own choices in it: log entries 1, 11 (DESIGN CHOICE). -/
def Obligations.MemoryReadsBackAndStaysCanonical : Prop :=
  memWf State.reset.mem = true ∧
  (∀ m l bs, memWf m = true → memWf (putBytes m l bs) = true ∧ getBytes (putBytes m l bs) l bs.length = bs ∧
    ∀ a, a < l ∨ l + bs.length ≤ a → memByte (putBytes m l bs) a = memByte m a) ∧
  ∀ s t l bs, memWf s.mem = true → let u := pokeLoc s t l bs
    memWf u.mem = true ∧ (∀ i < bs.length, plainByte u t (l + i) = bs.getD i 0) ∧
    (∀ a, a < l ∨ l + bs.length ≤ a → plainByte u t a = plainByte s t a) ∧
    (∀ t' a, (∀ i < bs.length, (l + i) / 16 ≠ a / 16) → plainByte u t' a = plainByte s t' a) ∧
    ∀ v, writeLoc s t l bs = some v → memWf v.mem = true ∧ readLoc v t l bs.length = some bs

/-- R265, R280: no step leaves memory out of its canonical form. The model's own choices in it: log entry 1
(DESIGN CHOICE). -/
def Obligations.StepKeepsMemoryCanonical : Prop :=
  ∀ s t, memWf s.mem = true → step s = .next t → memWf t.mem = true

/-- R40, R42, R62, R66, R117, R465: no instruction and no event is refused, and only an uncorrectable error
in storage whose effect the spec does not give ends a run: every other step answers a next state. The
model's own choices in it: log entries 22, 23 (DESIGN CHOICE). -/
def Obligations.NothingIsRefused : Prop :=
  (∀ i s, (∃ t, exec i s = .next t) ∨
    (i = .uncorrectableError ∧ Given s .sramError ∧ exec i s = .fault .errorWithoutEffect)) ∧
  ∀ s, (∃ t, step s = .next t) ∨ (s.turn = .device ∧ Given s .sramError ∧ step s = .fault .errorWithoutEffect)
end

