-- ==== Sys2Proof/Laws/Basic.lean ====
section
/-! SUPPORT. Scalar registers, the end of an instruction, and how completion follows from a meaning. -/

namespace Sys2Proof.Laws

open Sys2Proof.Machine Sys2Proof.Safety

/-! ### Sparse tables -/

theorem mapGet_erase_same {α : Type} (d : α) (m : SMap α) (k : Nat) : mapGet d (mapErase m k) k = d := by
  induction m with
  | nil => rfl
  | cons p t ih =>
    by_cases h : p.1 = k
    · simpa [mapErase, h] using ih
    · simpa [mapErase, h, mapGet] using ih

theorem mapGet_erase_other {α : Type} (d : α) (m : SMap α) {k j : Nat} (h : j ≠ k) :
    mapGet d (mapErase m k) j = mapGet d m j := by
  induction m with
  | nil => rfl
  | cons p t ih =>
    by_cases hp : p.1 = k
    · have : p.1 ≠ j := fun e => h (e ▸ hp)
      simpa [mapErase, hp, mapGet, this, Ne.symm h] using ih
    · by_cases hj : p.1 = j
      · simp [mapErase, mapGet, hj, h]
      · simpa [mapErase, hp, mapGet, hj] using ih

theorem mapGet_insert_same {α : Type} (d : α) (m : SMap α) (k : Nat) (v : α) (h : ∀ p ∈ m, p.1 ≠ k) :
    mapGet d (mapInsert m k v) k = v := by
  induction m with
  | nil => simp [mapInsert, mapGet]
  | cons p t ih =>
    have hp := h p (by simp)
    have ht := ih fun q hq => h q (by simp [hq])
    by_cases hk : k < p.1 <;> simp [mapInsert, hk, mapGet, hp, ht]

theorem mapGet_insert_other {α : Type} (d : α) (m : SMap α) {k j : Nat} (v : α) (h : j ≠ k) :
    mapGet d (mapInsert m k v) j = mapGet d m j := by
  induction m with
  | nil => simp [mapInsert, mapGet, Ne.symm h]
  | cons p t ih => by_cases hk : k < p.1 <;> simp [mapInsert, hk, mapGet, Ne.symm h, ih]

theorem not_mem_erase {α : Type} (m : SMap α) (k : Nat) : ∀ p ∈ mapErase m k, p.1 ≠ k := by
  intro p hp
  simpa using (List.mem_filter.1 hp).2

/-- A table read back at the key it was set at. -/
theorem mapGet_set_same {α : Type} [DecidableEq α] (d : α) (m : SMap α) (k : Nat) (v : α) :
    mapGet d (mapSet d m k v) k = v := by
  unfold mapSet
  split
  · rw [mapGet_erase_same, ‹v = d›]
  · exact mapGet_insert_same d _ k v (not_mem_erase m k)

/-- A table read at another key. -/
theorem mapGet_set_other {α : Type} [DecidableEq α] (d : α) (m : SMap α) {k j : Nat} (v : α) (h : j ≠ k) :
    mapGet d (mapSet d m k v) j = mapGet d m j := by
  unfold mapSet
  split
  · exact mapGet_erase_other d m h
  · rw [mapGet_insert_other d _ v h, mapGet_erase_other d m h]

/-! ### Registers -/

/-- A register after a write of one. -/
theorem reg_wrS (s : State) (sd : BitVec 5) (v : Dword) (r : BitVec 5) :
    reg (wrS s sd v) r = if r = sd ∧ r ≠ 0 then v else reg s r := by
  unfold reg wrS
  by_cases h0 : r = 0
  · rw [if_pos h0, if_neg (fun h => h.2 h0), if_pos h0]
  · rw [if_neg h0, if_neg h0]
    by_cases hs : sd = 0
    · rw [if_pos hs, if_neg fun h => h0 (h.1.trans hs)]
    · rw [if_neg hs]
      by_cases hr : r = sd
      · rw [if_pos ⟨hr, h0⟩, hr]; exact mapGet_set_same _ _ _ _
      · rw [if_neg fun h => hr h.1]
        exact mapGet_set_other 0 s.hart.s v fun e => hr (BitVec.eq_of_toNat_eq e)

/-- Nothing but the scalar registers changes in a write of one. -/
theorem wrS_rest (s : State) (sd : BitVec 5) (v : Dword) :
    { wrS s sd v with hart := { (wrS s sd v).hart with s := [] } } = { s with hart := { s.hart with s := [] } } := by
  unfold wrS; split <;> rfl

@[simp] theorem wrS_x (s : State) (sd : BitVec 5) (v : Dword) : (wrS s sd v).hart.x = s.hart.x := by
  unfold wrS; split <;> rfl

@[simp] theorem wrS_pc (s : State) (sd : BitVec 5) (v : Dword) : (wrS s sd v).hart.pc = s.hart.pc := by
  unfold wrS; split <;> rfl

theorem pcAfter_wrS (s : State) (sd : BitVec 5) (v : Dword) : pcAfter (wrS s sd v) = pcAfter s := by
  simp [pcAfter]

/-! ### The end of an instruction -/

theorem countEv_hart (s : State) (c : Nat) (h : Option Nat) (ev n : Nat) : (countEv s c h ev n).hart = s.hart := by
  unfold countEv; split <;> rfl

theorem countEv_idle (s : State) (c : Nat) (h : Option Nat) (ev n : Nat) : idle (countEv s c h ev n) = idle s := by
  unfold countEv; split <;> rfl

/-- A unit counted changes the performance counters only. -/
theorem countUnit_pmc (s : State) : ∃ p, countUnit s = { s with pmc := p } := by
  have step : ∀ (l : List Nat) (t : State), (∃ p, t = { s with pmc := p }) →
      ∃ p, l.foldl (fun t n => { t with pmc := mapSet {} t.pmc n (mapGet {} s.pmc n) }) t = { s with pmc := p } := by
    intro l
    induction l with
    | nil => exact fun t h => h
    | cons n l ih => exact fun t ⟨p, h⟩ => ih _ ⟨mapSet {} p n (mapGet {} s.pmc n), by subst h; rfl⟩
  refine step _ _ ?_
  unfold countEv
  split
  · exact ⟨s.pmc, rfl⟩
  · exact ⟨_, rfl⟩

@[simp] theorem countUnit_hart (s : State) : (countUnit s).hart = s.hart := by
  obtain ⟨p, h⟩ := countUnit_pmc s; rw [h]

theorem countUnit_idle (s : State) : idle (countUnit s) = idle s := by
  obtain ⟨p, h⟩ := countUnit_pmc s; rw [h]; rfl

/-- The unit's end changes nothing but the hart's bookkeeping. -/
theorem advance_idle (u : State) : idle (advance u) = idle u := by
  unfold advance
  cases hh : u.hart.x.hold
  · obtain ⟨p, e⟩ := countUnit_pmc u
    simp [idle, updH, e, hh]
  · simp [idle, updH, hh]

/-- The unit's end moves the hart. -/
theorem advance_pc (u : State) : (advance u).hart.pc = pcAfter u := by
  unfold advance pcAfter
  cases hh : u.hart.x.hold <;> simp [updH, hh]

@[simp] theorem advance_s (u : State) : (advance u).hart.s = u.hart.s := by
  unfold advance
  cases hh : u.hart.x.hold <;> simp [updH, hh]

theorem reg_advance (u : State) (r : BitVec 5) : reg (advance u) r = reg u r := by simp [reg]

/-- An instruction whose own work ends in `u` completes with that effect. -/
theorem does_of_ok {i : Instr} {s u : State} (h : exec i s = finish (.ok u)) : Does i s u :=
  ⟨advance u, h, advance_idle u, advance_pc u⟩

/-- An instruction whose meaning is a register result writes that register. -/
theorem writes_of_result {i : Instr} {s : State} {sd : BitVec 5} {v : Dword} (h : exec i s = result s sd v) :
    Writes i s sd v := by
  refine ⟨advance (wrS s sd v), h, fun r => by rw [reg_advance, reg_wrS], by rw [advance_pc, pcAfter_wrS], ?_⟩
  have e := advance_idle (wrS s sd v)
  have f := congrArg (fun t : State => idle { t with hart := { t.hart with s := [] } }) (wrS_rest s sd v)
  have g : ∀ a b : State, idle a = idle b →
      idle { a with hart := { a.hart with s := [] } } = idle { b with hart := { b.hart with s := [] } } := by
    intro a b hab
    have := congrArg (fun t : State => ({ t with hart := { t.hart with s := [] } } : State)) hab
    exact this
  exact (g _ _ e).trans f

end Sys2Proof.Laws
end

