-- ==== Sys2Proof/Laws/Layouts.lean ====
section
/-! SUPPORT. Where the encoder puts each field the decoder finds it: one lemma per layout of fields and one
per major opcode. -/

namespace Sys2Proof.Laws.Encoding

set_option Elab.async false

/-- A field of a word whose number has it there. -/
theorem fld_eq {N lo k : Nat} {v : BitVec k} (hN : N < 2 ^ 32) (h : N / 2 ^ lo % 2 ^ k = v.toNat) :
    fld (BitVec.ofNat 32 N) lo k = v := by
  apply BitVec.eq_of_toNat_eq
  rw [fld, BitVec.toNat_ofNat, BitVec.toNat_ofNat, Nat.mod_eq_of_lt hN, h]

/-- The number of a field of a word. -/
theorem fld_toNat {N lo k c : Nat} (hN : N < 2 ^ 32) (h : N / 2 ^ lo % 2 ^ k = c) :
    (fld (BitVec.ofNat 32 N) lo k).toNat = c := by
  rw [fld, BitVec.toNat_ofNat, BitVec.toNat_ofNat, Nat.mod_eq_of_lt hN, h]

/-- A number read from its low end: one field, and what is above it. -/
theorem split_at {N lo T v w t : Nat} (h : N / 2 ^ lo = T) (e : T = v + 2 ^ w * t) (b : v < 2 ^ w) :
    N / 2 ^ lo % 2 ^ w = v ∧ N / 2 ^ (lo + w) = t := by
  subst e
  rw [Nat.pow_add, ← Nat.div_div_eq_div_mul, h, Nat.add_mul_mod_self_left, Nat.mod_eq_of_lt b,
    Nat.add_mul_div_left _ _ (Nat.two_pow_pos w), Nat.div_eq_of_lt b, Nat.zero_add]
  exact ⟨rfl, rfl⟩

/-- The two bits above the instruction's own. -/
theorem bounds {N p : Nat} (h : N / 2 ^ 30 = p) (hp : p < 2 ^ 2) : N < 2 ^ 32 ∧ N - p * 2 ^ 30 < 2 ^ 30 := by
  omega

/-- A well-formed instruction is accepted. -/
theorem accept_wf {i : Instr} (h : i.wf = true) : accept i = .ok i := by simp [accept, h]

theorem layout0 {N B : Nat} {c0 c1 : Nat} {pk : BitVec 2} (h0 : c0 < 2 ^ 5) (h1 : c1 < 2 ^ 6)
    (hB : B = c0 * 2 ^ 19 + c1 * 2 ^ 24)
    (e : N = B + pk.toNat * 2 ^ 30) :
    N - pk.toNat * 2 ^ 30 < 2 ^ 30 ∧
    (fld (BitVec.ofNat 32 N) 19 5).toNat = c0 ∧
    fld (BitVec.ofNat 32 N) 0 19 = 0 ∧
    (fld (BitVec.ofNat 32 N) 24 6).toNat = c1 := by
  have s : N / 2 ^ 0 = 0 + 2 ^ 19 * (c0 + 2 ^ 5 * (c1 + 2 ^ 6 * (pk.toNat))) := by rw [Nat.pow_zero, Nat.div_one, e, hB]; ring
  have s0 := split_at s rfl (by decide)
  have s1 := split_at s0.2 rfl h0
  have s2 := split_at s1.2 rfl h1
  obtain ⟨hN, hb⟩ := bounds s2.2 pk.isLt
  exact ⟨hb, fld_toNat hN s1.1, fld_eq hN s0.1, fld_toNat hN s2.1⟩

theorem layout1 {N B : Nat} {x0 : BitVec 19} {c0 c1 : Nat} {pk : BitVec 2} (h0 : c0 < 2 ^ 5) (h1 : c1 < 2 ^ 6)
    (hB : B = c0 * 2 ^ 19 + c1 * 2 ^ 24)
    (e : N = pack1 B x0.toNat 0 + pk.toNat * 2 ^ 30) :
    N - pk.toNat * 2 ^ 30 < 2 ^ 30 ∧
    fld (BitVec.ofNat 32 N) 0 19 = x0 ∧
    (fld (BitVec.ofNat 32 N) 19 5).toNat = c0 ∧
    (fld (BitVec.ofNat 32 N) 24 6).toNat = c1 := by
  simp only [pack1] at e
  have s : N / 2 ^ 0 = x0.toNat + 2 ^ 19 * (c0 + 2 ^ 5 * (c1 + 2 ^ 6 * (pk.toNat))) := by rw [Nat.pow_zero, Nat.div_one, e, hB]; ring
  have s0 := split_at s rfl x0.isLt
  have s1 := split_at s0.2 rfl h0
  have s2 := split_at s1.2 rfl h1
  obtain ⟨hN, hb⟩ := bounds s2.2 pk.isLt
  exact ⟨hb, fld_eq hN s0.1, fld_toNat hN s1.1, fld_toNat hN s2.1⟩

theorem layout2 {N B : Nat} {x0 : BitVec 5} {x1 : BitVec 12} {c0 c1 : Nat} {pk : BitVec 2} (h0 : c0 < 2 ^ 2) (h1 : c1 < 2 ^ 6)
    (hB : B = c0 * 2 ^ 12 + c1 * 2 ^ 24)
    (e : N = pack2 B x0.toNat 19 x1.toNat 0 + pk.toNat * 2 ^ 30) :
    N - pk.toNat * 2 ^ 30 < 2 ^ 30 ∧
    fld (BitVec.ofNat 32 N) 19 5 = x0 ∧
    fld (BitVec.ofNat 32 N) 0 12 = x1 ∧
    (fld (BitVec.ofNat 32 N) 12 2).toNat = c0 ∧
    fld (BitVec.ofNat 32 N) 14 5 = 0 ∧
    (fld (BitVec.ofNat 32 N) 24 6).toNat = c1 := by
  simp only [pack2, pack1] at e
  have s : N / 2 ^ 0 = x1.toNat + 2 ^ 12 * (c0 + 2 ^ 2 * (0 + 2 ^ 5 * (x0.toNat + 2 ^ 5 * (c1 + 2 ^ 6 * (pk.toNat))))) := by rw [Nat.pow_zero, Nat.div_one, e, hB]; ring
  have s0 := split_at s rfl x1.isLt
  have s1 := split_at s0.2 rfl h0
  have s2 := split_at s1.2 rfl (by decide)
  have s3 := split_at s2.2 rfl x0.isLt
  have s4 := split_at s3.2 rfl h1
  obtain ⟨hN, hb⟩ := bounds s4.2 pk.isLt
  exact ⟨hb, fld_eq hN s3.1, fld_eq hN s0.1, fld_toNat hN s1.1, fld_eq hN s2.1, fld_toNat hN s4.1⟩

theorem layout3 {N B : Nat} {x0 : BitVec 5} {x1 : BitVec 5} {x2 : BitVec 12} {c0 c1 : Nat} {pk : BitVec 2} (h0 : c0 < 2 ^ 2) (h1 : c1 < 2 ^ 6)
    (hB : B = c0 * 2 ^ 12 + c1 * 2 ^ 24)
    (e : N = pack3 B x0.toNat 19 x1.toNat 14 x2.toNat 0 + pk.toNat * 2 ^ 30) :
    N - pk.toNat * 2 ^ 30 < 2 ^ 30 ∧
    fld (BitVec.ofNat 32 N) 19 5 = x0 ∧
    fld (BitVec.ofNat 32 N) 14 5 = x1 ∧
    fld (BitVec.ofNat 32 N) 0 12 = x2 ∧
    (fld (BitVec.ofNat 32 N) 12 2).toNat = c0 ∧
    (fld (BitVec.ofNat 32 N) 24 6).toNat = c1 := by
  simp only [pack3, pack2, pack1] at e
  have s : N / 2 ^ 0 = x2.toNat + 2 ^ 12 * (c0 + 2 ^ 2 * (x1.toNat + 2 ^ 5 * (x0.toNat + 2 ^ 5 * (c1 + 2 ^ 6 * (pk.toNat))))) := by rw [Nat.pow_zero, Nat.div_one, e, hB]; ring
  have s0 := split_at s rfl x2.isLt
  have s1 := split_at s0.2 rfl h0
  have s2 := split_at s1.2 rfl x1.isLt
  have s3 := split_at s2.2 rfl x0.isLt
  have s4 := split_at s3.2 rfl h1
  obtain ⟨hN, hb⟩ := bounds s4.2 pk.isLt
  exact ⟨hb, fld_eq hN s3.1, fld_eq hN s2.1, fld_eq hN s0.1, fld_toNat hN s1.1, fld_toNat hN s4.1⟩

theorem layout4 {N B : Nat} {x0 : BitVec 5} {x1 : BitVec 5} {x2 : BitVec 5} {c0 c1 : Nat} {pk : BitVec 2} (h0 : c0 < 2 ^ 9) (h1 : c1 < 2 ^ 6)
    (hB : B = c0 + c1 * 2 ^ 24)
    (e : N = pack3 B x0.toNat 19 x1.toNat 14 x2.toNat 9 + pk.toNat * 2 ^ 30) :
    N - pk.toNat * 2 ^ 30 < 2 ^ 30 ∧
    fld (BitVec.ofNat 32 N) 19 5 = x0 ∧
    fld (BitVec.ofNat 32 N) 14 5 = x1 ∧
    fld (BitVec.ofNat 32 N) 9 5 = x2 ∧
    (fld (BitVec.ofNat 32 N) 0 9).toNat = c0 ∧
    (fld (BitVec.ofNat 32 N) 24 6).toNat = c1 := by
  simp only [pack3, pack2, pack1] at e
  have s : N / 2 ^ 0 = c0 + 2 ^ 9 * (x2.toNat + 2 ^ 5 * (x1.toNat + 2 ^ 5 * (x0.toNat + 2 ^ 5 * (c1 + 2 ^ 6 * (pk.toNat))))) := by rw [Nat.pow_zero, Nat.div_one, e, hB]; ring
  have s0 := split_at s rfl h0
  have s1 := split_at s0.2 rfl x2.isLt
  have s2 := split_at s1.2 rfl x1.isLt
  have s3 := split_at s2.2 rfl x0.isLt
  have s4 := split_at s3.2 rfl h1
  obtain ⟨hN, hb⟩ := bounds s4.2 pk.isLt
  exact ⟨hb, fld_eq hN s3.1, fld_eq hN s2.1, fld_eq hN s1.1, fld_toNat hN s0.1, fld_toNat hN s4.1⟩

theorem layout5 {N B : Nat} {x0 : BitVec 5} {x1 : BitVec 5} {x2 : BitVec 14} {c0 : Nat} {pk : BitVec 2} (h0 : c0 < 2 ^ 6)
    (hB : B = c0 * 2 ^ 24)
    (e : N = pack3 B x0.toNat 19 x1.toNat 14 x2.toNat 0 + pk.toNat * 2 ^ 30) :
    N - pk.toNat * 2 ^ 30 < 2 ^ 30 ∧
    fld (BitVec.ofNat 32 N) 19 5 = x0 ∧
    fld (BitVec.ofNat 32 N) 14 5 = x1 ∧
    fld (BitVec.ofNat 32 N) 0 14 = x2 ∧
    (fld (BitVec.ofNat 32 N) 24 6).toNat = c0 := by
  simp only [pack3, pack2, pack1] at e
  have s : N / 2 ^ 0 = x2.toNat + 2 ^ 14 * (x1.toNat + 2 ^ 5 * (x0.toNat + 2 ^ 5 * (c0 + 2 ^ 6 * (pk.toNat)))) := by rw [Nat.pow_zero, Nat.div_one, e, hB]; ring
  have s0 := split_at s rfl x2.isLt
  have s1 := split_at s0.2 rfl x1.isLt
  have s2 := split_at s1.2 rfl x0.isLt
  have s3 := split_at s2.2 rfl h0
  obtain ⟨hN, hb⟩ := bounds s3.2 pk.isLt
  exact ⟨hb, fld_eq hN s2.1, fld_eq hN s1.1, fld_eq hN s0.1, fld_toNat hN s3.1⟩

theorem layout6 {N B : Nat} {x0 : BitVec 5} {x1 : BitVec 5} {x2 : BitVec 6} {c0 c1 : Nat} {pk : BitVec 2} (h0 : c0 < 2 ^ 2) (h1 : c1 < 2 ^ 6)
    (hB : B = c0 * 2 ^ 12 + c1 * 2 ^ 24)
    (e : N = pack3 B x0.toNat 19 x1.toNat 14 x2.toNat 0 + pk.toNat * 2 ^ 30) :
    N - pk.toNat * 2 ^ 30 < 2 ^ 30 ∧
    fld (BitVec.ofNat 32 N) 19 5 = x0 ∧
    fld (BitVec.ofNat 32 N) 14 5 = x1 ∧
    fld (BitVec.ofNat 32 N) 0 6 = x2 ∧
    (fld (BitVec.ofNat 32 N) 12 2).toNat = c0 ∧
    fld (BitVec.ofNat 32 N) 6 6 = 0 ∧
    (fld (BitVec.ofNat 32 N) 24 6).toNat = c1 := by
  simp only [pack3, pack2, pack1] at e
  have s : N / 2 ^ 0 = x2.toNat + 2 ^ 6 * (0 + 2 ^ 6 * (c0 + 2 ^ 2 * (x1.toNat + 2 ^ 5 * (x0.toNat + 2 ^ 5 * (c1 + 2 ^ 6 * (pk.toNat)))))) := by rw [Nat.pow_zero, Nat.div_one, e, hB]; ring
  have s0 := split_at s rfl x2.isLt
  have s1 := split_at s0.2 rfl (by decide)
  have s2 := split_at s1.2 rfl h0
  have s3 := split_at s2.2 rfl x1.isLt
  have s4 := split_at s3.2 rfl x0.isLt
  have s5 := split_at s4.2 rfl h1
  obtain ⟨hN, hb⟩ := bounds s5.2 pk.isLt
  exact ⟨hb, fld_eq hN s4.1, fld_eq hN s3.1, fld_eq hN s0.1, fld_toNat hN s2.1, fld_eq hN s1.1, fld_toNat hN s5.1⟩

theorem layout7 {N B : Nat} {x0 : BitVec 5} {x1 : BitVec 5} {x2 : BitVec 13} {c0 c1 : Nat} {pk : BitVec 2} (h0 : c0 < 2 ^ 1) (h1 : c1 < 2 ^ 6)
    (hB : B = c0 * 2 ^ 13 + c1 * 2 ^ 24)
    (e : N = pack3 B x0.toNat 19 x1.toNat 14 x2.toNat 0 + pk.toNat * 2 ^ 30) :
    N - pk.toNat * 2 ^ 30 < 2 ^ 30 ∧
    fld (BitVec.ofNat 32 N) 19 5 = x0 ∧
    fld (BitVec.ofNat 32 N) 14 5 = x1 ∧
    fld (BitVec.ofNat 32 N) 0 13 = x2 ∧
    (fld (BitVec.ofNat 32 N) 13 1).toNat = c0 ∧
    (fld (BitVec.ofNat 32 N) 24 6).toNat = c1 := by
  simp only [pack3, pack2, pack1] at e
  have s : N / 2 ^ 0 = x2.toNat + 2 ^ 13 * (c0 + 2 ^ 1 * (x1.toNat + 2 ^ 5 * (x0.toNat + 2 ^ 5 * (c1 + 2 ^ 6 * (pk.toNat))))) := by rw [Nat.pow_zero, Nat.div_one, e, hB]; ring
  have s0 := split_at s rfl x2.isLt
  have s1 := split_at s0.2 rfl h0
  have s2 := split_at s1.2 rfl x1.isLt
  have s3 := split_at s2.2 rfl x0.isLt
  have s4 := split_at s3.2 rfl h1
  obtain ⟨hN, hb⟩ := bounds s4.2 pk.isLt
  exact ⟨hb, fld_eq hN s3.1, fld_eq hN s2.1, fld_eq hN s0.1, fld_toNat hN s1.1, fld_toNat hN s4.1⟩

theorem layout8 {N B : Nat} {x0 : BitVec 5} {x1 : BitVec 19} {c0 : Nat} {pk : BitVec 2} (h0 : c0 < 2 ^ 6)
    (hB : B = c0 * 2 ^ 24)
    (e : N = pack2 B x0.toNat 19 x1.toNat 0 + pk.toNat * 2 ^ 30) :
    N - pk.toNat * 2 ^ 30 < 2 ^ 30 ∧
    fld (BitVec.ofNat 32 N) 19 5 = x0 ∧
    fld (BitVec.ofNat 32 N) 0 19 = x1 ∧
    (fld (BitVec.ofNat 32 N) 24 6).toNat = c0 := by
  simp only [pack2, pack1] at e
  have s : N / 2 ^ 0 = x1.toNat + 2 ^ 19 * (x0.toNat + 2 ^ 5 * (c0 + 2 ^ 6 * (pk.toNat))) := by rw [Nat.pow_zero, Nat.div_one, e, hB]; ring
  have s0 := split_at s rfl x1.isLt
  have s1 := split_at s0.2 rfl x0.isLt
  have s2 := split_at s1.2 rfl h0
  obtain ⟨hN, hb⟩ := bounds s2.2 pk.isLt
  exact ⟨hb, fld_eq hN s1.1, fld_eq hN s0.1, fld_toNat hN s2.1⟩

theorem layout9 {N B : Nat} {x0 : BitVec 5} {x1 : BitVec 5} {x2 : BitVec 1} {x3 : BitVec 5} {x4 : BitVec 5} {c0 c1 : Nat} {pk : BitVec 2} (h0 : c0 < 2 ^ 2) (h1 : c1 < 2 ^ 6)
    (hB : B = c0 * 2 ^ 12 + c1 * 2 ^ 24)
    (e : N = pack5 B x0.toNat 19 x1.toNat 14 x2.toNat 11 x3.toNat 6 x4.toNat 1 + pk.toNat * 2 ^ 30) :
    N - pk.toNat * 2 ^ 30 < 2 ^ 30 ∧
    fld (BitVec.ofNat 32 N) 19 5 = x0 ∧
    fld (BitVec.ofNat 32 N) 14 5 = x1 ∧
    fld (BitVec.ofNat 32 N) 11 1 = x2 ∧
    fld (BitVec.ofNat 32 N) 6 5 = x3 ∧
    fld (BitVec.ofNat 32 N) 1 5 = x4 ∧
    (fld (BitVec.ofNat 32 N) 12 2).toNat = c0 ∧
    fld (BitVec.ofNat 32 N) 0 1 = 0 ∧
    (fld (BitVec.ofNat 32 N) 24 6).toNat = c1 := by
  simp only [pack5, pack4, pack3, pack2, pack1] at e
  have s : N / 2 ^ 0 = 0 + 2 ^ 1 * (x4.toNat + 2 ^ 5 * (x3.toNat + 2 ^ 5 * (x2.toNat + 2 ^ 1 * (c0 + 2 ^ 2 * (x1.toNat + 2 ^ 5 * (x0.toNat + 2 ^ 5 * (c1 + 2 ^ 6 * (pk.toNat)))))))) := by rw [Nat.pow_zero, Nat.div_one, e, hB]; ring
  have s0 := split_at s rfl (by decide)
  have s1 := split_at s0.2 rfl x4.isLt
  have s2 := split_at s1.2 rfl x3.isLt
  have s3 := split_at s2.2 rfl x2.isLt
  have s4 := split_at s3.2 rfl h0
  have s5 := split_at s4.2 rfl x1.isLt
  have s6 := split_at s5.2 rfl x0.isLt
  have s7 := split_at s6.2 rfl h1
  obtain ⟨hN, hb⟩ := bounds s7.2 pk.isLt
  exact ⟨hb, fld_eq hN s6.1, fld_eq hN s5.1, fld_eq hN s3.1, fld_eq hN s2.1, fld_eq hN s1.1, fld_toNat hN s4.1, fld_eq hN s0.1, fld_toNat hN s7.1⟩

theorem layout10 {N B : Nat} {x0 : BitVec 5} {c0 c1 : Nat} {pk : BitVec 2} (h0 : c0 < 2 ^ 2) (h1 : c1 < 2 ^ 6)
    (hB : B = c0 * 2 ^ 12 + c1 * 2 ^ 24)
    (e : N = pack1 B x0.toNat 19 + pk.toNat * 2 ^ 30) :
    N - pk.toNat * 2 ^ 30 < 2 ^ 30 ∧
    fld (BitVec.ofNat 32 N) 19 5 = x0 ∧
    (fld (BitVec.ofNat 32 N) 12 2).toNat = c0 ∧
    fld (BitVec.ofNat 32 N) 0 12 = 0 ∧
    fld (BitVec.ofNat 32 N) 14 5 = 0 ∧
    (fld (BitVec.ofNat 32 N) 24 6).toNat = c1 := by
  simp only [pack1] at e
  have s : N / 2 ^ 0 = 0 + 2 ^ 12 * (c0 + 2 ^ 2 * (0 + 2 ^ 5 * (x0.toNat + 2 ^ 5 * (c1 + 2 ^ 6 * (pk.toNat))))) := by rw [Nat.pow_zero, Nat.div_one, e, hB]; ring
  have s0 := split_at s rfl (by decide)
  have s1 := split_at s0.2 rfl h0
  have s2 := split_at s1.2 rfl (by decide)
  have s3 := split_at s2.2 rfl x0.isLt
  have s4 := split_at s3.2 rfl h1
  obtain ⟨hN, hb⟩ := bounds s4.2 pk.isLt
  exact ⟨hb, fld_eq hN s3.1, fld_toNat hN s1.1, fld_eq hN s0.1, fld_eq hN s2.1, fld_toNat hN s4.1⟩

theorem layout11 {N B : Nat} {x0 : BitVec 5} {x1 : BitVec 5} {c0 c1 : Nat} {pk : BitVec 2} (h0 : c0 < 2 ^ 9) (h1 : c1 < 2 ^ 6)
    (hB : B = c0 + c1 * 2 ^ 24)
    (e : N = pack2 B x0.toNat 19 x1.toNat 14 + pk.toNat * 2 ^ 30) :
    N - pk.toNat * 2 ^ 30 < 2 ^ 30 ∧
    fld (BitVec.ofNat 32 N) 19 5 = x0 ∧
    fld (BitVec.ofNat 32 N) 14 5 = x1 ∧
    (fld (BitVec.ofNat 32 N) 0 9).toNat = c0 ∧
    fld (BitVec.ofNat 32 N) 9 5 = 0 ∧
    (fld (BitVec.ofNat 32 N) 24 6).toNat = c1 := by
  simp only [pack2, pack1] at e
  have s : N / 2 ^ 0 = c0 + 2 ^ 9 * (0 + 2 ^ 5 * (x1.toNat + 2 ^ 5 * (x0.toNat + 2 ^ 5 * (c1 + 2 ^ 6 * (pk.toNat))))) := by rw [Nat.pow_zero, Nat.div_one, e, hB]; ring
  have s0 := split_at s rfl h0
  have s1 := split_at s0.2 rfl (by decide)
  have s2 := split_at s1.2 rfl x1.isLt
  have s3 := split_at s2.2 rfl x0.isLt
  have s4 := split_at s3.2 rfl h1
  obtain ⟨hN, hb⟩ := bounds s4.2 pk.isLt
  exact ⟨hb, fld_eq hN s3.1, fld_eq hN s2.1, fld_toNat hN s0.1, fld_eq hN s1.1, fld_toNat hN s4.1⟩

theorem layout12 {N B : Nat} {x0 : BitVec 5} {x1 : BitVec 5} {x2 : BitVec 1} {x3 : BitVec 2} {c0 c1 : Nat} {pk : BitVec 2} (h0 : c0 < 2 ^ 9) (h1 : c1 < 2 ^ 6)
    (hB : B = c0 + c1 * 2 ^ 24)
    (e : N = pack4 B x0.toNat 19 x1.toNat 14 x2.toNat 13 x3.toNat 11 + pk.toNat * 2 ^ 30) :
    N - pk.toNat * 2 ^ 30 < 2 ^ 30 ∧
    fld (BitVec.ofNat 32 N) 19 5 = x0 ∧
    fld (BitVec.ofNat 32 N) 14 5 = x1 ∧
    fld (BitVec.ofNat 32 N) 13 1 = x2 ∧
    fld (BitVec.ofNat 32 N) 11 2 = x3 ∧
    (fld (BitVec.ofNat 32 N) 0 9).toNat = c0 ∧
    fld (BitVec.ofNat 32 N) 9 2 = 0 ∧
    (fld (BitVec.ofNat 32 N) 24 6).toNat = c1 := by
  simp only [pack4, pack3, pack2, pack1] at e
  have s : N / 2 ^ 0 = c0 + 2 ^ 9 * (0 + 2 ^ 2 * (x3.toNat + 2 ^ 2 * (x2.toNat + 2 ^ 1 * (x1.toNat + 2 ^ 5 * (x0.toNat + 2 ^ 5 * (c1 + 2 ^ 6 * (pk.toNat))))))) := by rw [Nat.pow_zero, Nat.div_one, e, hB]; ring
  have s0 := split_at s rfl h0
  have s1 := split_at s0.2 rfl (by decide)
  have s2 := split_at s1.2 rfl x3.isLt
  have s3 := split_at s2.2 rfl x2.isLt
  have s4 := split_at s3.2 rfl x1.isLt
  have s5 := split_at s4.2 rfl x0.isLt
  have s6 := split_at s5.2 rfl h1
  obtain ⟨hN, hb⟩ := bounds s6.2 pk.isLt
  exact ⟨hb, fld_eq hN s5.1, fld_eq hN s4.1, fld_eq hN s3.1, fld_eq hN s2.1, fld_toNat hN s0.1, fld_eq hN s1.1, fld_toNat hN s6.1⟩

theorem layout13 {N B : Nat} {x0 : BitVec 5} {x1 : BitVec 5} {x2 : BitVec 11} {c0 c1 : Nat} {pk : BitVec 2} (h0 : c0 < 2 ^ 3) (h1 : c1 < 2 ^ 6)
    (hB : B = c0 * 2 ^ 21 + c1 * 2 ^ 24)
    (e : N = pack3 B x0.toNat 16 x1.toNat 11 x2.toNat 0 + pk.toNat * 2 ^ 30) :
    N - pk.toNat * 2 ^ 30 < 2 ^ 30 ∧
    fld (BitVec.ofNat 32 N) 16 5 = x0 ∧
    fld (BitVec.ofNat 32 N) 11 5 = x1 ∧
    fld (BitVec.ofNat 32 N) 0 11 = x2 ∧
    (fld (BitVec.ofNat 32 N) 21 3).toNat = c0 ∧
    (fld (BitVec.ofNat 32 N) 24 6).toNat = c1 := by
  simp only [pack3, pack2, pack1] at e
  have s : N / 2 ^ 0 = x2.toNat + 2 ^ 11 * (x1.toNat + 2 ^ 5 * (x0.toNat + 2 ^ 5 * (c0 + 2 ^ 3 * (c1 + 2 ^ 6 * (pk.toNat))))) := by rw [Nat.pow_zero, Nat.div_one, e, hB]; ring
  have s0 := split_at s rfl x2.isLt
  have s1 := split_at s0.2 rfl x1.isLt
  have s2 := split_at s1.2 rfl x0.isLt
  have s3 := split_at s2.2 rfl h0
  have s4 := split_at s3.2 rfl h1
  obtain ⟨hN, hb⟩ := bounds s4.2 pk.isLt
  exact ⟨hb, fld_eq hN s2.1, fld_eq hN s1.1, fld_eq hN s0.1, fld_toNat hN s3.1, fld_toNat hN s4.1⟩

theorem layout14 {N B : Nat} {x0 : BitVec 24} {c0 : Nat} {pk : BitVec 2} (h0 : c0 < 2 ^ 6)
    (hB : B = c0 * 2 ^ 24)
    (e : N = pack1 B x0.toNat 0 + pk.toNat * 2 ^ 30) :
    N - pk.toNat * 2 ^ 30 < 2 ^ 30 ∧
    fld (BitVec.ofNat 32 N) 0 24 = x0 ∧
    (fld (BitVec.ofNat 32 N) 24 6).toNat = c0 := by
  simp only [pack1] at e
  have s : N / 2 ^ 0 = x0.toNat + 2 ^ 24 * (c0 + 2 ^ 6 * (pk.toNat)) := by rw [Nat.pow_zero, Nat.div_one, e, hB]; ring
  have s0 := split_at s rfl x0.isLt
  have s1 := split_at s0.2 rfl h0
  obtain ⟨hN, hb⟩ := bounds s1.2 pk.isLt
  exact ⟨hb, fld_eq hN s0.1, fld_toNat hN s1.1⟩

theorem layout15 {N B : Nat} {x0 : BitVec 5} {c0 c1 : Nat} {pk : BitVec 2} (h0 : c0 < 2 ^ 3) (h1 : c1 < 2 ^ 6)
    (hB : B = c0 * 2 ^ 21 + c1 * 2 ^ 24)
    (e : N = pack1 B x0.toNat 16 + pk.toNat * 2 ^ 30) :
    N - pk.toNat * 2 ^ 30 < 2 ^ 30 ∧
    fld (BitVec.ofNat 32 N) 16 5 = x0 ∧
    (fld (BitVec.ofNat 32 N) 21 3).toNat = c0 ∧
    fld (BitVec.ofNat 32 N) 0 16 = 0 ∧
    (fld (BitVec.ofNat 32 N) 24 6).toNat = c1 := by
  simp only [pack1] at e
  have s : N / 2 ^ 0 = 0 + 2 ^ 16 * (x0.toNat + 2 ^ 5 * (c0 + 2 ^ 3 * (c1 + 2 ^ 6 * (pk.toNat)))) := by rw [Nat.pow_zero, Nat.div_one, e, hB]; ring
  have s0 := split_at s rfl (by decide)
  have s1 := split_at s0.2 rfl x0.isLt
  have s2 := split_at s1.2 rfl h0
  have s3 := split_at s2.2 rfl h1
  obtain ⟨hN, hb⟩ := bounds s3.2 pk.isLt
  exact ⟨hb, fld_eq hN s1.1, fld_toNat hN s2.1, fld_eq hN s0.1, fld_toNat hN s3.1⟩

theorem layout16 {N B : Nat} {c0 c1 : Nat} {pk : BitVec 2} (h0 : c0 < 2 ^ 3) (h1 : c1 < 2 ^ 6)
    (hB : B = c0 * 2 ^ 21 + c1 * 2 ^ 24)
    (e : N = B + pk.toNat * 2 ^ 30) :
    N - pk.toNat * 2 ^ 30 < 2 ^ 30 ∧
    (fld (BitVec.ofNat 32 N) 21 3).toNat = c0 ∧
    fld (BitVec.ofNat 32 N) 0 21 = 0 ∧
    (fld (BitVec.ofNat 32 N) 24 6).toNat = c1 := by
  have s : N / 2 ^ 0 = 0 + 2 ^ 21 * (c0 + 2 ^ 3 * (c1 + 2 ^ 6 * (pk.toNat))) := by rw [Nat.pow_zero, Nat.div_one, e, hB]; ring
  have s0 := split_at s rfl (by decide)
  have s1 := split_at s0.2 rfl h0
  have s2 := split_at s1.2 rfl h1
  obtain ⟨hN, hb⟩ := bounds s2.2 pk.isLt
  exact ⟨hb, fld_toNat hN s1.1, fld_eq hN s0.1, fld_toNat hN s2.1⟩

theorem layout17 {N B : Nat} {x0 : BitVec 5} {x1 : BitVec 11} {c0 c1 : Nat} {pk : BitVec 2} (h0 : c0 < 2 ^ 3) (h1 : c1 < 2 ^ 6)
    (hB : B = c0 * 2 ^ 21 + c1 * 2 ^ 24)
    (e : N = pack2 B x0.toNat 16 x1.toNat 0 + pk.toNat * 2 ^ 30) :
    N - pk.toNat * 2 ^ 30 < 2 ^ 30 ∧
    fld (BitVec.ofNat 32 N) 16 5 = x0 ∧
    fld (BitVec.ofNat 32 N) 0 11 = x1 ∧
    (fld (BitVec.ofNat 32 N) 21 3).toNat = c0 ∧
    fld (BitVec.ofNat 32 N) 11 5 = 0 ∧
    (fld (BitVec.ofNat 32 N) 24 6).toNat = c1 := by
  simp only [pack2, pack1] at e
  have s : N / 2 ^ 0 = x1.toNat + 2 ^ 11 * (0 + 2 ^ 5 * (x0.toNat + 2 ^ 5 * (c0 + 2 ^ 3 * (c1 + 2 ^ 6 * (pk.toNat))))) := by rw [Nat.pow_zero, Nat.div_one, e, hB]; ring
  have s0 := split_at s rfl x1.isLt
  have s1 := split_at s0.2 rfl (by decide)
  have s2 := split_at s1.2 rfl x0.isLt
  have s3 := split_at s2.2 rfl h0
  have s4 := split_at s3.2 rfl h1
  obtain ⟨hN, hb⟩ := bounds s4.2 pk.isLt
  exact ⟨hb, fld_eq hN s2.1, fld_eq hN s0.1, fld_toNat hN s3.1, fld_eq hN s1.1, fld_toNat hN s4.1⟩

theorem layout18 {N B : Nat} {x0 : BitVec 5} {x1 : BitVec 5} {x2 : BitVec 2} {x3 : BitVec 1} {x4 : BitVec 3} {x5 : BitVec 8} {c0 : Nat} {pk : BitVec 2} (h0 : c0 < 2 ^ 6)
    (hB : B = c0 * 2 ^ 24)
    (e : N = pack6 B x0.toNat 19 x1.toNat 14 x2.toNat 12 x3.toNat 11 x4.toNat 8 x5.toNat 0 + pk.toNat * 2 ^ 30) :
    N - pk.toNat * 2 ^ 30 < 2 ^ 30 ∧
    fld (BitVec.ofNat 32 N) 19 5 = x0 ∧
    fld (BitVec.ofNat 32 N) 14 5 = x1 ∧
    fld (BitVec.ofNat 32 N) 12 2 = x2 ∧
    fld (BitVec.ofNat 32 N) 11 1 = x3 ∧
    fld (BitVec.ofNat 32 N) 8 3 = x4 ∧
    fld (BitVec.ofNat 32 N) 0 8 = x5 ∧
    (fld (BitVec.ofNat 32 N) 24 6).toNat = c0 := by
  simp only [pack6, pack5, pack4, pack3, pack2, pack1] at e
  have s : N / 2 ^ 0 = x5.toNat + 2 ^ 8 * (x4.toNat + 2 ^ 3 * (x3.toNat + 2 ^ 1 * (x2.toNat + 2 ^ 2 * (x1.toNat + 2 ^ 5 * (x0.toNat + 2 ^ 5 * (c0 + 2 ^ 6 * (pk.toNat))))))) := by rw [Nat.pow_zero, Nat.div_one, e, hB]; ring
  have s0 := split_at s rfl x5.isLt
  have s1 := split_at s0.2 rfl x4.isLt
  have s2 := split_at s1.2 rfl x3.isLt
  have s3 := split_at s2.2 rfl x2.isLt
  have s4 := split_at s3.2 rfl x1.isLt
  have s5 := split_at s4.2 rfl x0.isLt
  have s6 := split_at s5.2 rfl h0
  obtain ⟨hN, hb⟩ := bounds s6.2 pk.isLt
  exact ⟨hb, fld_eq hN s5.1, fld_eq hN s4.1, fld_eq hN s3.1, fld_eq hN s2.1, fld_eq hN s1.1, fld_eq hN s0.1, fld_toNat hN s6.1⟩

theorem layout19 {N B : Nat} {x0 : BitVec 5} {x1 : BitVec 5} {x2 : BitVec 2} {x3 : BitVec 3} {x4 : BitVec 8} {c0 : Nat} {pk : BitVec 2} (h0 : c0 < 2 ^ 6)
    (hB : B = c0 * 2 ^ 24)
    (e : N = pack5 B x0.toNat 19 x1.toNat 14 x2.toNat 12 x3.toNat 8 x4.toNat 0 + pk.toNat * 2 ^ 30) :
    N - pk.toNat * 2 ^ 30 < 2 ^ 30 ∧
    fld (BitVec.ofNat 32 N) 19 5 = x0 ∧
    fld (BitVec.ofNat 32 N) 14 5 = x1 ∧
    fld (BitVec.ofNat 32 N) 12 2 = x2 ∧
    fld (BitVec.ofNat 32 N) 8 3 = x3 ∧
    fld (BitVec.ofNat 32 N) 0 8 = x4 ∧
    fld (BitVec.ofNat 32 N) 11 1 = 0 ∧
    (fld (BitVec.ofNat 32 N) 24 6).toNat = c0 := by
  simp only [pack5, pack4, pack3, pack2, pack1] at e
  have s : N / 2 ^ 0 = x4.toNat + 2 ^ 8 * (x3.toNat + 2 ^ 3 * (0 + 2 ^ 1 * (x2.toNat + 2 ^ 2 * (x1.toNat + 2 ^ 5 * (x0.toNat + 2 ^ 5 * (c0 + 2 ^ 6 * (pk.toNat))))))) := by rw [Nat.pow_zero, Nat.div_one, e, hB]; ring
  have s0 := split_at s rfl x4.isLt
  have s1 := split_at s0.2 rfl x3.isLt
  have s2 := split_at s1.2 rfl (by decide)
  have s3 := split_at s2.2 rfl x2.isLt
  have s4 := split_at s3.2 rfl x1.isLt
  have s5 := split_at s4.2 rfl x0.isLt
  have s6 := split_at s5.2 rfl h0
  obtain ⟨hN, hb⟩ := bounds s6.2 pk.isLt
  exact ⟨hb, fld_eq hN s5.1, fld_eq hN s4.1, fld_eq hN s3.1, fld_eq hN s1.1, fld_eq hN s0.1, fld_eq hN s2.1, fld_toNat hN s6.1⟩

theorem layout20 {N B : Nat} {x0 : BitVec 5} {x1 : BitVec 5} {x2 : BitVec 5} {x3 : BitVec 1} {x4 : BitVec 2} {x5 : BitVec 2} {c0 c1 : Nat} {pk : BitVec 2} (h0 : c0 < 2 ^ 4) (h1 : c1 < 2 ^ 6)
    (hB : B = c0 * 2 ^ 5 + c1 * 2 ^ 24)
    (e : N = pack6 B x0.toNat 19 x1.toNat 14 x2.toNat 9 x3.toNat 4 x4.toNat 2 x5.toNat 0 + pk.toNat * 2 ^ 30) :
    N - pk.toNat * 2 ^ 30 < 2 ^ 30 ∧
    fld (BitVec.ofNat 32 N) 19 5 = x0 ∧
    fld (BitVec.ofNat 32 N) 14 5 = x1 ∧
    fld (BitVec.ofNat 32 N) 9 5 = x2 ∧
    fld (BitVec.ofNat 32 N) 4 1 = x3 ∧
    fld (BitVec.ofNat 32 N) 2 2 = x4 ∧
    fld (BitVec.ofNat 32 N) 0 2 = x5 ∧
    (fld (BitVec.ofNat 32 N) 5 4).toNat = c0 ∧
    (fld (BitVec.ofNat 32 N) 24 6).toNat = c1 := by
  simp only [pack6, pack5, pack4, pack3, pack2, pack1] at e
  have s : N / 2 ^ 0 = x5.toNat + 2 ^ 2 * (x4.toNat + 2 ^ 2 * (x3.toNat + 2 ^ 1 * (c0 + 2 ^ 4 * (x2.toNat + 2 ^ 5 * (x1.toNat + 2 ^ 5 * (x0.toNat + 2 ^ 5 * (c1 + 2 ^ 6 * (pk.toNat)))))))) := by rw [Nat.pow_zero, Nat.div_one, e, hB]; ring
  have s0 := split_at s rfl x5.isLt
  have s1 := split_at s0.2 rfl x4.isLt
  have s2 := split_at s1.2 rfl x3.isLt
  have s3 := split_at s2.2 rfl h0
  have s4 := split_at s3.2 rfl x2.isLt
  have s5 := split_at s4.2 rfl x1.isLt
  have s6 := split_at s5.2 rfl x0.isLt
  have s7 := split_at s6.2 rfl h1
  obtain ⟨hN, hb⟩ := bounds s7.2 pk.isLt
  exact ⟨hb, fld_eq hN s6.1, fld_eq hN s5.1, fld_eq hN s4.1, fld_eq hN s2.1, fld_eq hN s1.1, fld_eq hN s0.1, fld_toNat hN s3.1, fld_toNat hN s7.1⟩

theorem layout21 {N B : Nat} {x0 : BitVec 2} {x1 : BitVec 3} {c0 c1 : Nat} {pk : BitVec 2} (h0 : c0 < 2 ^ 2) (h1 : c1 < 2 ^ 6)
    (hB : B = c0 * 2 ^ 6 + c1 * 2 ^ 24)
    (e : N = pack2 B x0.toNat 4 x1.toNat 0 + pk.toNat * 2 ^ 30) :
    N - pk.toNat * 2 ^ 30 < 2 ^ 30 ∧
    fld (BitVec.ofNat 32 N) 4 2 = x0 ∧
    fld (BitVec.ofNat 32 N) 0 3 = x1 ∧
    (fld (BitVec.ofNat 32 N) 6 2).toNat = c0 ∧
    fld (BitVec.ofNat 32 N) 3 1 = 0 ∧
    fld (BitVec.ofNat 32 N) 8 16 = 0 ∧
    (fld (BitVec.ofNat 32 N) 24 6).toNat = c1 := by
  simp only [pack2, pack1] at e
  have s : N / 2 ^ 0 = x1.toNat + 2 ^ 3 * (0 + 2 ^ 1 * (x0.toNat + 2 ^ 2 * (c0 + 2 ^ 2 * (0 + 2 ^ 16 * (c1 + 2 ^ 6 * (pk.toNat)))))) := by rw [Nat.pow_zero, Nat.div_one, e, hB]; ring
  have s0 := split_at s rfl x1.isLt
  have s1 := split_at s0.2 rfl (by decide)
  have s2 := split_at s1.2 rfl x0.isLt
  have s3 := split_at s2.2 rfl h0
  have s4 := split_at s3.2 rfl (by decide)
  have s5 := split_at s4.2 rfl h1
  obtain ⟨hN, hb⟩ := bounds s5.2 pk.isLt
  exact ⟨hb, fld_eq hN s2.1, fld_eq hN s0.1, fld_toNat hN s3.1, fld_eq hN s1.1, fld_eq hN s4.1, fld_toNat hN s5.1⟩

theorem layout22 {N B : Nat} {c0 c1 : Nat} {pk : BitVec 2} (h0 : c0 < 2 ^ 2) (h1 : c1 < 2 ^ 6)
    (hB : B = c0 * 2 ^ 6 + c1 * 2 ^ 24)
    (e : N = B + pk.toNat * 2 ^ 30) :
    N - pk.toNat * 2 ^ 30 < 2 ^ 30 ∧
    (fld (BitVec.ofNat 32 N) 6 2).toNat = c0 ∧
    fld (BitVec.ofNat 32 N) 0 6 = 0 ∧
    fld (BitVec.ofNat 32 N) 8 16 = 0 ∧
    (fld (BitVec.ofNat 32 N) 24 6).toNat = c1 := by
  have s : N / 2 ^ 0 = 0 + 2 ^ 6 * (c0 + 2 ^ 2 * (0 + 2 ^ 16 * (c1 + 2 ^ 6 * (pk.toNat)))) := by rw [Nat.pow_zero, Nat.div_one, e, hB]; ring
  have s0 := split_at s rfl (by decide)
  have s1 := split_at s0.2 rfl h0
  have s2 := split_at s1.2 rfl (by decide)
  have s3 := split_at s2.2 rfl h1
  obtain ⟨hN, hb⟩ := bounds s3.2 pk.isLt
  exact ⟨hb, fld_toNat hN s1.1, fld_eq hN s0.1, fld_eq hN s2.1, fld_toNat hN s3.1⟩

theorem layout23 {N B : Nat} {x0 : BitVec 6} {x1 : BitVec 5} {x2 : BitVec 5} {x3 : BitVec 3} {x4 : BitVec 2} {c0 c1 : Nat} {pk : BitVec 2} (h0 : c0 < 2 ^ 3) (h1 : c1 < 2 ^ 6)
    (hB : B = c0 + c1 * 2 ^ 24)
    (e : N = pack5 B x0.toNat 18 x1.toNat 13 x2.toNat 8 x3.toNat 5 x4.toNat 3 + pk.toNat * 2 ^ 30) :
    N - pk.toNat * 2 ^ 30 < 2 ^ 30 ∧
    fld (BitVec.ofNat 32 N) 18 6 = x0 ∧
    fld (BitVec.ofNat 32 N) 13 5 = x1 ∧
    fld (BitVec.ofNat 32 N) 8 5 = x2 ∧
    fld (BitVec.ofNat 32 N) 5 3 = x3 ∧
    fld (BitVec.ofNat 32 N) 3 2 = x4 ∧
    (fld (BitVec.ofNat 32 N) 0 3).toNat = c0 ∧
    (fld (BitVec.ofNat 32 N) 24 6).toNat = c1 := by
  simp only [pack5, pack4, pack3, pack2, pack1] at e
  have s : N / 2 ^ 0 = c0 + 2 ^ 3 * (x4.toNat + 2 ^ 2 * (x3.toNat + 2 ^ 3 * (x2.toNat + 2 ^ 5 * (x1.toNat + 2 ^ 5 * (x0.toNat + 2 ^ 6 * (c1 + 2 ^ 6 * (pk.toNat))))))) := by rw [Nat.pow_zero, Nat.div_one, e, hB]; ring
  have s0 := split_at s rfl h0
  have s1 := split_at s0.2 rfl x4.isLt
  have s2 := split_at s1.2 rfl x3.isLt
  have s3 := split_at s2.2 rfl x2.isLt
  have s4 := split_at s3.2 rfl x1.isLt
  have s5 := split_at s4.2 rfl x0.isLt
  have s6 := split_at s5.2 rfl h1
  obtain ⟨hN, hb⟩ := bounds s6.2 pk.isLt
  exact ⟨hb, fld_eq hN s5.1, fld_eq hN s4.1, fld_eq hN s3.1, fld_eq hN s2.1, fld_eq hN s1.1, fld_toNat hN s0.1, fld_toNat hN s6.1⟩

theorem layout24 {N B : Nat} {x0 : BitVec 6} {x1 : BitVec 5} {x2 : BitVec 5} {x3 : BitVec 3} {x4 : BitVec 1} {c0 c1 : Nat} {pk : BitVec 2} (h0 : c0 < 2 ^ 3) (h1 : c1 < 2 ^ 6)
    (hB : B = c0 + 1 * 2 ^ 4 + c1 * 2 ^ 24)
    (e : N = pack5 B x0.toNat 18 x1.toNat 13 x2.toNat 8 x3.toNat 5 x4.toNat 3 + pk.toNat * 2 ^ 30) :
    N - pk.toNat * 2 ^ 30 < 2 ^ 30 ∧
    fld (BitVec.ofNat 32 N) 18 6 = x0 ∧
    fld (BitVec.ofNat 32 N) 13 5 = x1 ∧
    fld (BitVec.ofNat 32 N) 8 5 = x2 ∧
    fld (BitVec.ofNat 32 N) 5 3 = x3 ∧
    fld (BitVec.ofNat 32 N) 3 1 = x4 ∧
    (fld (BitVec.ofNat 32 N) 0 3).toNat = c0 ∧
    fld (BitVec.ofNat 32 N) 4 1 = 1 ∧
    (fld (BitVec.ofNat 32 N) 24 6).toNat = c1 := by
  simp only [pack5, pack4, pack3, pack2, pack1] at e
  have s : N / 2 ^ 0 = c0 + 2 ^ 3 * (x4.toNat + 2 ^ 1 * (1 + 2 ^ 1 * (x3.toNat + 2 ^ 3 * (x2.toNat + 2 ^ 5 * (x1.toNat + 2 ^ 5 * (x0.toNat + 2 ^ 6 * (c1 + 2 ^ 6 * (pk.toNat)))))))) := by rw [Nat.pow_zero, Nat.div_one, e, hB]; ring
  have s0 := split_at s rfl h0
  have s1 := split_at s0.2 rfl x4.isLt
  have s2 := split_at s1.2 rfl (by decide)
  have s3 := split_at s2.2 rfl x3.isLt
  have s4 := split_at s3.2 rfl x2.isLt
  have s5 := split_at s4.2 rfl x1.isLt
  have s6 := split_at s5.2 rfl x0.isLt
  have s7 := split_at s6.2 rfl h1
  obtain ⟨hN, hb⟩ := bounds s7.2 pk.isLt
  exact ⟨hb, fld_eq hN s6.1, fld_eq hN s5.1, fld_eq hN s4.1, fld_eq hN s3.1, fld_eq hN s1.1, fld_toNat hN s0.1, fld_eq hN s2.1, fld_toNat hN s7.1⟩

theorem layout25 {N B : Nat} {x0 : BitVec 5} {x1 : BitVec 5} {x2 : BitVec 5} {x3 : BitVec 2} {c0 c1 : Nat} {pk : BitVec 2} (h0 : c0 < 2 ^ 2) (h1 : c1 < 2 ^ 6)
    (hB : B = c0 + c1 * 2 ^ 24)
    (e : N = pack4 B x0.toNat 19 x1.toNat 14 x2.toNat 9 x3.toNat 7 + pk.toNat * 2 ^ 30) :
    N - pk.toNat * 2 ^ 30 < 2 ^ 30 ∧
    fld (BitVec.ofNat 32 N) 19 5 = x0 ∧
    fld (BitVec.ofNat 32 N) 14 5 = x1 ∧
    fld (BitVec.ofNat 32 N) 9 5 = x2 ∧
    fld (BitVec.ofNat 32 N) 7 2 = x3 ∧
    (fld (BitVec.ofNat 32 N) 0 2).toNat = c0 ∧
    fld (BitVec.ofNat 32 N) 2 5 = 0 ∧
    (fld (BitVec.ofNat 32 N) 24 6).toNat = c1 := by
  simp only [pack4, pack3, pack2, pack1] at e
  have s : N / 2 ^ 0 = c0 + 2 ^ 2 * (0 + 2 ^ 5 * (x3.toNat + 2 ^ 2 * (x2.toNat + 2 ^ 5 * (x1.toNat + 2 ^ 5 * (x0.toNat + 2 ^ 5 * (c1 + 2 ^ 6 * (pk.toNat))))))) := by rw [Nat.pow_zero, Nat.div_one, e, hB]; ring
  have s0 := split_at s rfl h0
  have s1 := split_at s0.2 rfl (by decide)
  have s2 := split_at s1.2 rfl x3.isLt
  have s3 := split_at s2.2 rfl x2.isLt
  have s4 := split_at s3.2 rfl x1.isLt
  have s5 := split_at s4.2 rfl x0.isLt
  have s6 := split_at s5.2 rfl h1
  obtain ⟨hN, hb⟩ := bounds s6.2 pk.isLt
  exact ⟨hb, fld_eq hN s5.1, fld_eq hN s4.1, fld_eq hN s3.1, fld_eq hN s2.1, fld_toNat hN s0.1, fld_eq hN s1.1, fld_toNat hN s6.1⟩

theorem layout26 {N B : Nat} {x0 : BitVec 5} {x1 : BitVec 5} {x2 : BitVec 2} {x3 : BitVec 10} {c0 c1 : Nat} {pk : BitVec 2} (h0 : c0 < 2 ^ 2) (h1 : c1 < 2 ^ 6)
    (hB : B = c0 + c1 * 2 ^ 24)
    (e : N = pack4 B x0.toNat 19 x1.toNat 14 x2.toNat 12 x3.toNat 2 + pk.toNat * 2 ^ 30) :
    N - pk.toNat * 2 ^ 30 < 2 ^ 30 ∧
    fld (BitVec.ofNat 32 N) 19 5 = x0 ∧
    fld (BitVec.ofNat 32 N) 14 5 = x1 ∧
    fld (BitVec.ofNat 32 N) 12 2 = x2 ∧
    fld (BitVec.ofNat 32 N) 2 10 = x3 ∧
    (fld (BitVec.ofNat 32 N) 0 2).toNat = c0 ∧
    (fld (BitVec.ofNat 32 N) 24 6).toNat = c1 := by
  simp only [pack4, pack3, pack2, pack1] at e
  have s : N / 2 ^ 0 = c0 + 2 ^ 2 * (x3.toNat + 2 ^ 10 * (x2.toNat + 2 ^ 2 * (x1.toNat + 2 ^ 5 * (x0.toNat + 2 ^ 5 * (c1 + 2 ^ 6 * (pk.toNat)))))) := by rw [Nat.pow_zero, Nat.div_one, e, hB]; ring
  have s0 := split_at s rfl h0
  have s1 := split_at s0.2 rfl x3.isLt
  have s2 := split_at s1.2 rfl x2.isLt
  have s3 := split_at s2.2 rfl x1.isLt
  have s4 := split_at s3.2 rfl x0.isLt
  have s5 := split_at s4.2 rfl h1
  obtain ⟨hN, hb⟩ := bounds s5.2 pk.isLt
  exact ⟨hb, fld_eq hN s4.1, fld_eq hN s3.1, fld_eq hN s2.1, fld_eq hN s1.1, fld_toNat hN s0.1, fld_toNat hN s5.1⟩

theorem layout27 {N B : Nat} {x0 : BitVec 5} {x1 : BitVec 5} {x2 : BitVec 5} {c0 c1 : Nat} {pk : BitVec 2} (h0 : c0 < 2 ^ 2) (h1 : c1 < 2 ^ 6)
    (hB : B = c0 + c1 * 2 ^ 24)
    (e : N = pack3 B x0.toNat 19 x1.toNat 14 x2.toNat 9 + pk.toNat * 2 ^ 30) :
    N - pk.toNat * 2 ^ 30 < 2 ^ 30 ∧
    fld (BitVec.ofNat 32 N) 19 5 = x0 ∧
    fld (BitVec.ofNat 32 N) 14 5 = x1 ∧
    fld (BitVec.ofNat 32 N) 9 5 = x2 ∧
    (fld (BitVec.ofNat 32 N) 0 2).toNat = c0 ∧
    fld (BitVec.ofNat 32 N) 2 7 = 0 ∧
    (fld (BitVec.ofNat 32 N) 24 6).toNat = c1 := by
  simp only [pack3, pack2, pack1] at e
  have s : N / 2 ^ 0 = c0 + 2 ^ 2 * (0 + 2 ^ 7 * (x2.toNat + 2 ^ 5 * (x1.toNat + 2 ^ 5 * (x0.toNat + 2 ^ 5 * (c1 + 2 ^ 6 * (pk.toNat)))))) := by rw [Nat.pow_zero, Nat.div_one, e, hB]; ring
  have s0 := split_at s rfl h0
  have s1 := split_at s0.2 rfl (by decide)
  have s2 := split_at s1.2 rfl x2.isLt
  have s3 := split_at s2.2 rfl x1.isLt
  have s4 := split_at s3.2 rfl x0.isLt
  have s5 := split_at s4.2 rfl h1
  obtain ⟨hN, hb⟩ := bounds s5.2 pk.isLt
  exact ⟨hb, fld_eq hN s4.1, fld_eq hN s3.1, fld_eq hN s2.1, fld_toNat hN s0.1, fld_eq hN s1.1, fld_toNat hN s5.1⟩

theorem layout28 {N B : Nat} {x0 : BitVec 5} {c0 c1 : Nat} {pk : BitVec 2} (h0 : c0 < 2 ^ 9) (h1 : c1 < 2 ^ 6)
    (hB : B = c0 + c1 * 2 ^ 24)
    (e : N = pack1 B x0.toNat 14 + pk.toNat * 2 ^ 30) :
    N - pk.toNat * 2 ^ 30 < 2 ^ 30 ∧
    fld (BitVec.ofNat 32 N) 14 5 = x0 ∧
    (fld (BitVec.ofNat 32 N) 0 9).toNat = c0 ∧
    fld (BitVec.ofNat 32 N) 9 5 = 0 ∧
    fld (BitVec.ofNat 32 N) 19 5 = 0 ∧
    (fld (BitVec.ofNat 32 N) 24 6).toNat = c1 := by
  simp only [pack1] at e
  have s : N / 2 ^ 0 = c0 + 2 ^ 9 * (0 + 2 ^ 5 * (x0.toNat + 2 ^ 5 * (0 + 2 ^ 5 * (c1 + 2 ^ 6 * (pk.toNat))))) := by rw [Nat.pow_zero, Nat.div_one, e, hB]; ring
  have s0 := split_at s rfl h0
  have s1 := split_at s0.2 rfl (by decide)
  have s2 := split_at s1.2 rfl x0.isLt
  have s3 := split_at s2.2 rfl (by decide)
  have s4 := split_at s3.2 rfl h1
  obtain ⟨hN, hb⟩ := bounds s4.2 pk.isLt
  exact ⟨hb, fld_eq hN s2.1, fld_toNat hN s0.1, fld_eq hN s1.1, fld_eq hN s3.1, fld_toNat hN s4.1⟩

theorem layout29 {N B : Nat} {c0 c1 : Nat} {pk : BitVec 2} (h0 : c0 < 2 ^ 9) (h1 : c1 < 2 ^ 6)
    (hB : B = c0 + c1 * 2 ^ 24)
    (e : N = B + pk.toNat * 2 ^ 30) :
    N - pk.toNat * 2 ^ 30 < 2 ^ 30 ∧
    (fld (BitVec.ofNat 32 N) 0 9).toNat = c0 ∧
    fld (BitVec.ofNat 32 N) 9 15 = 0 ∧
    (fld (BitVec.ofNat 32 N) 24 6).toNat = c1 := by
  have s : N / 2 ^ 0 = c0 + 2 ^ 9 * (0 + 2 ^ 15 * (c1 + 2 ^ 6 * (pk.toNat))) := by rw [Nat.pow_zero, Nat.div_one, e, hB]; ring
  have s0 := split_at s rfl h0
  have s1 := split_at s0.2 rfl (by decide)
  have s2 := split_at s1.2 rfl h1
  obtain ⟨hN, hb⟩ := bounds s2.2 pk.isLt
  exact ⟨hb, fld_toNat hN s0.1, fld_eq hN s1.1, fld_toNat hN s2.1⟩

theorem layout30 {N B : Nat} {x0 : BitVec 5} {x1 : BitVec 5} {c0 c1 : Nat} {pk : BitVec 2} (h0 : c0 < 2 ^ 9) (h1 : c1 < 2 ^ 6)
    (hB : B = c0 + c1 * 2 ^ 24)
    (e : N = pack2 B x0.toNat 14 x1.toNat 9 + pk.toNat * 2 ^ 30) :
    N - pk.toNat * 2 ^ 30 < 2 ^ 30 ∧
    fld (BitVec.ofNat 32 N) 14 5 = x0 ∧
    fld (BitVec.ofNat 32 N) 9 5 = x1 ∧
    (fld (BitVec.ofNat 32 N) 0 9).toNat = c0 ∧
    fld (BitVec.ofNat 32 N) 19 5 = 0 ∧
    (fld (BitVec.ofNat 32 N) 24 6).toNat = c1 := by
  simp only [pack2, pack1] at e
  have s : N / 2 ^ 0 = c0 + 2 ^ 9 * (x1.toNat + 2 ^ 5 * (x0.toNat + 2 ^ 5 * (0 + 2 ^ 5 * (c1 + 2 ^ 6 * (pk.toNat))))) := by rw [Nat.pow_zero, Nat.div_one, e, hB]; ring
  have s0 := split_at s rfl h0
  have s1 := split_at s0.2 rfl x1.isLt
  have s2 := split_at s1.2 rfl x0.isLt
  have s3 := split_at s2.2 rfl (by decide)
  have s4 := split_at s3.2 rfl h1
  obtain ⟨hN, hb⟩ := bounds s4.2 pk.isLt
  exact ⟨hb, fld_eq hN s2.1, fld_eq hN s1.1, fld_toNat hN s0.1, fld_eq hN s3.1, fld_toNat hN s4.1⟩

theorem layout31 {N B : Nat} {x0 : BitVec 6} {x1 : BitVec 6} {x2 : BitVec 6} {x3 : BitVec 3} {c0 c1 : Nat} {pk : BitVec 2} (h0 : c0 < 2 ^ 3) (h1 : c1 < 2 ^ 6)
    (hB : B = c0 + c1 * 2 ^ 24)
    (e : N = pack4 B x0.toNat 18 x1.toNat 12 x2.toNat 6 x3.toNat 3 + pk.toNat * 2 ^ 30) :
    N - pk.toNat * 2 ^ 30 < 2 ^ 30 ∧
    fld (BitVec.ofNat 32 N) 18 6 = x0 ∧
    fld (BitVec.ofNat 32 N) 12 6 = x1 ∧
    fld (BitVec.ofNat 32 N) 6 6 = x2 ∧
    fld (BitVec.ofNat 32 N) 3 3 = x3 ∧
    (fld (BitVec.ofNat 32 N) 0 3).toNat = c0 ∧
    (fld (BitVec.ofNat 32 N) 24 6).toNat = c1 := by
  simp only [pack4, pack3, pack2, pack1] at e
  have s : N / 2 ^ 0 = c0 + 2 ^ 3 * (x3.toNat + 2 ^ 3 * (x2.toNat + 2 ^ 6 * (x1.toNat + 2 ^ 6 * (x0.toNat + 2 ^ 6 * (c1 + 2 ^ 6 * (pk.toNat)))))) := by rw [Nat.pow_zero, Nat.div_one, e, hB]; ring
  have s0 := split_at s rfl h0
  have s1 := split_at s0.2 rfl x3.isLt
  have s2 := split_at s1.2 rfl x2.isLt
  have s3 := split_at s2.2 rfl x1.isLt
  have s4 := split_at s3.2 rfl x0.isLt
  have s5 := split_at s4.2 rfl h1
  obtain ⟨hN, hb⟩ := bounds s5.2 pk.isLt
  exact ⟨hb, fld_eq hN s4.1, fld_eq hN s3.1, fld_eq hN s2.1, fld_eq hN s1.1, fld_toNat hN s0.1, fld_toNat hN s5.1⟩

theorem layout32 {N B : Nat} {x0 : BitVec 6} {x1 : BitVec 6} {x2 : BitVec 3} {c0 c1 : Nat} {pk : BitVec 2} (h0 : c0 < 2 ^ 3) (h1 : c1 < 2 ^ 6)
    (hB : B = c0 + c1 * 2 ^ 24)
    (e : N = pack3 B x0.toNat 18 x1.toNat 12 x2.toNat 3 + pk.toNat * 2 ^ 30) :
    N - pk.toNat * 2 ^ 30 < 2 ^ 30 ∧
    fld (BitVec.ofNat 32 N) 18 6 = x0 ∧
    fld (BitVec.ofNat 32 N) 12 6 = x1 ∧
    fld (BitVec.ofNat 32 N) 3 3 = x2 ∧
    (fld (BitVec.ofNat 32 N) 0 3).toNat = c0 ∧
    fld (BitVec.ofNat 32 N) 6 6 = 0 ∧
    (fld (BitVec.ofNat 32 N) 24 6).toNat = c1 := by
  simp only [pack3, pack2, pack1] at e
  have s : N / 2 ^ 0 = c0 + 2 ^ 3 * (x2.toNat + 2 ^ 3 * (0 + 2 ^ 6 * (x1.toNat + 2 ^ 6 * (x0.toNat + 2 ^ 6 * (c1 + 2 ^ 6 * (pk.toNat)))))) := by rw [Nat.pow_zero, Nat.div_one, e, hB]; ring
  have s0 := split_at s rfl h0
  have s1 := split_at s0.2 rfl x2.isLt
  have s2 := split_at s1.2 rfl (by decide)
  have s3 := split_at s2.2 rfl x1.isLt
  have s4 := split_at s3.2 rfl x0.isLt
  have s5 := split_at s4.2 rfl h1
  obtain ⟨hN, hb⟩ := bounds s5.2 pk.isLt
  exact ⟨hb, fld_eq hN s4.1, fld_eq hN s3.1, fld_eq hN s1.1, fld_toNat hN s0.1, fld_eq hN s2.1, fld_toNat hN s5.1⟩

theorem layout33 {N B : Nat} {x0 : BitVec 3} {x1 : BitVec 3} {x2 : BitVec 6} {x3 : BitVec 6} {x4 : BitVec 3} {c0 c1 : Nat} {pk : BitVec 2} (h0 : c0 < 2 ^ 3) (h1 : c1 < 2 ^ 6)
    (hB : B = c0 + c1 * 2 ^ 24)
    (e : N = pack5 B x0.toNat 21 x1.toNat 18 x2.toNat 12 x3.toNat 6 x4.toNat 3 + pk.toNat * 2 ^ 30) :
    N - pk.toNat * 2 ^ 30 < 2 ^ 30 ∧
    fld (BitVec.ofNat 32 N) 21 3 = x0 ∧
    fld (BitVec.ofNat 32 N) 18 3 = x1 ∧
    fld (BitVec.ofNat 32 N) 12 6 = x2 ∧
    fld (BitVec.ofNat 32 N) 6 6 = x3 ∧
    fld (BitVec.ofNat 32 N) 3 3 = x4 ∧
    (fld (BitVec.ofNat 32 N) 0 3).toNat = c0 ∧
    (fld (BitVec.ofNat 32 N) 24 6).toNat = c1 := by
  simp only [pack5, pack4, pack3, pack2, pack1] at e
  have s : N / 2 ^ 0 = c0 + 2 ^ 3 * (x4.toNat + 2 ^ 3 * (x3.toNat + 2 ^ 6 * (x2.toNat + 2 ^ 6 * (x1.toNat + 2 ^ 3 * (x0.toNat + 2 ^ 3 * (c1 + 2 ^ 6 * (pk.toNat))))))) := by rw [Nat.pow_zero, Nat.div_one, e, hB]; ring
  have s0 := split_at s rfl h0
  have s1 := split_at s0.2 rfl x4.isLt
  have s2 := split_at s1.2 rfl x3.isLt
  have s3 := split_at s2.2 rfl x2.isLt
  have s4 := split_at s3.2 rfl x1.isLt
  have s5 := split_at s4.2 rfl x0.isLt
  have s6 := split_at s5.2 rfl h1
  obtain ⟨hN, hb⟩ := bounds s6.2 pk.isLt
  exact ⟨hb, fld_eq hN s5.1, fld_eq hN s4.1, fld_eq hN s3.1, fld_eq hN s2.1, fld_eq hN s1.1, fld_toNat hN s0.1, fld_toNat hN s6.1⟩

theorem layout34 {N B : Nat} {x0 : BitVec 3} {x1 : BitVec 3} {x2 : BitVec 3} {c0 c1 : Nat} {pk : BitVec 2} (h0 : c0 < 2 ^ 3) (h1 : c1 < 2 ^ 6)
    (hB : B = c0 + c1 * 2 ^ 24)
    (e : N = pack3 B x0.toNat 18 x1.toNat 12 x2.toNat 6 + pk.toNat * 2 ^ 30) :
    N - pk.toNat * 2 ^ 30 < 2 ^ 30 ∧
    fld (BitVec.ofNat 32 N) 18 3 = x0 ∧
    fld (BitVec.ofNat 32 N) 12 3 = x1 ∧
    fld (BitVec.ofNat 32 N) 6 3 = x2 ∧
    (fld (BitVec.ofNat 32 N) 0 3).toNat = c0 ∧
    fld (BitVec.ofNat 32 N) 3 3 = 0 ∧
    fld (BitVec.ofNat 32 N) 9 3 = 0 ∧
    fld (BitVec.ofNat 32 N) 15 3 = 0 ∧
    fld (BitVec.ofNat 32 N) 21 3 = 0 ∧
    (fld (BitVec.ofNat 32 N) 24 6).toNat = c1 := by
  simp only [pack3, pack2, pack1] at e
  have s : N / 2 ^ 0 = c0 + 2 ^ 3 * (0 + 2 ^ 3 * (x2.toNat + 2 ^ 3 * (0 + 2 ^ 3 * (x1.toNat + 2 ^ 3 * (0 + 2 ^ 3 * (x0.toNat + 2 ^ 3 * (0 + 2 ^ 3 * (c1 + 2 ^ 6 * (pk.toNat))))))))) := by rw [Nat.pow_zero, Nat.div_one, e, hB]; ring
  have s0 := split_at s rfl h0
  have s1 := split_at s0.2 rfl (by decide)
  have s2 := split_at s1.2 rfl x2.isLt
  have s3 := split_at s2.2 rfl (by decide)
  have s4 := split_at s3.2 rfl x1.isLt
  have s5 := split_at s4.2 rfl (by decide)
  have s6 := split_at s5.2 rfl x0.isLt
  have s7 := split_at s6.2 rfl (by decide)
  have s8 := split_at s7.2 rfl h1
  obtain ⟨hN, hb⟩ := bounds s8.2 pk.isLt
  exact ⟨hb, fld_eq hN s6.1, fld_eq hN s4.1, fld_eq hN s2.1, fld_toNat hN s0.1, fld_eq hN s1.1, fld_eq hN s3.1, fld_eq hN s5.1, fld_eq hN s7.1, fld_toNat hN s8.1⟩

theorem layout35 {N B : Nat} {x0 : BitVec 3} {x1 : BitVec 3} {c0 c1 : Nat} {pk : BitVec 2} (h0 : c0 < 2 ^ 3) (h1 : c1 < 2 ^ 6)
    (hB : B = c0 + c1 * 2 ^ 24)
    (e : N = pack2 B x0.toNat 18 x1.toNat 12 + pk.toNat * 2 ^ 30) :
    N - pk.toNat * 2 ^ 30 < 2 ^ 30 ∧
    fld (BitVec.ofNat 32 N) 18 3 = x0 ∧
    fld (BitVec.ofNat 32 N) 12 3 = x1 ∧
    (fld (BitVec.ofNat 32 N) 0 3).toNat = c0 ∧
    fld (BitVec.ofNat 32 N) 3 9 = 0 ∧
    fld (BitVec.ofNat 32 N) 15 3 = 0 ∧
    fld (BitVec.ofNat 32 N) 21 3 = 0 ∧
    (fld (BitVec.ofNat 32 N) 24 6).toNat = c1 := by
  simp only [pack2, pack1] at e
  have s : N / 2 ^ 0 = c0 + 2 ^ 3 * (0 + 2 ^ 9 * (x1.toNat + 2 ^ 3 * (0 + 2 ^ 3 * (x0.toNat + 2 ^ 3 * (0 + 2 ^ 3 * (c1 + 2 ^ 6 * (pk.toNat))))))) := by rw [Nat.pow_zero, Nat.div_one, e, hB]; ring
  have s0 := split_at s rfl h0
  have s1 := split_at s0.2 rfl (by decide)
  have s2 := split_at s1.2 rfl x1.isLt
  have s3 := split_at s2.2 rfl (by decide)
  have s4 := split_at s3.2 rfl x0.isLt
  have s5 := split_at s4.2 rfl (by decide)
  have s6 := split_at s5.2 rfl h1
  obtain ⟨hN, hb⟩ := bounds s6.2 pk.isLt
  exact ⟨hb, fld_eq hN s4.1, fld_eq hN s2.1, fld_toNat hN s0.1, fld_eq hN s1.1, fld_eq hN s3.1, fld_eq hN s5.1, fld_toNat hN s6.1⟩

theorem layout36 {N B : Nat} {x0 : BitVec 5} {x1 : BitVec 3} {c0 c1 : Nat} {pk : BitVec 2} (h0 : c0 < 2 ^ 3) (h1 : c1 < 2 ^ 6)
    (hB : B = c0 + c1 * 2 ^ 24)
    (e : N = pack2 B x0.toNat 18 x1.toNat 12 + pk.toNat * 2 ^ 30) :
    N - pk.toNat * 2 ^ 30 < 2 ^ 30 ∧
    fld (BitVec.ofNat 32 N) 18 5 = x0 ∧
    fld (BitVec.ofNat 32 N) 12 3 = x1 ∧
    (fld (BitVec.ofNat 32 N) 0 3).toNat = c0 ∧
    fld (BitVec.ofNat 32 N) 3 9 = 0 ∧
    fld (BitVec.ofNat 32 N) 15 3 = 0 ∧
    fld (BitVec.ofNat 32 N) 23 1 = 0 ∧
    (fld (BitVec.ofNat 32 N) 24 6).toNat = c1 := by
  simp only [pack2, pack1] at e
  have s : N / 2 ^ 0 = c0 + 2 ^ 3 * (0 + 2 ^ 9 * (x1.toNat + 2 ^ 3 * (0 + 2 ^ 3 * (x0.toNat + 2 ^ 5 * (0 + 2 ^ 1 * (c1 + 2 ^ 6 * (pk.toNat))))))) := by rw [Nat.pow_zero, Nat.div_one, e, hB]; ring
  have s0 := split_at s rfl h0
  have s1 := split_at s0.2 rfl (by decide)
  have s2 := split_at s1.2 rfl x1.isLt
  have s3 := split_at s2.2 rfl (by decide)
  have s4 := split_at s3.2 rfl x0.isLt
  have s5 := split_at s4.2 rfl (by decide)
  have s6 := split_at s5.2 rfl h1
  obtain ⟨hN, hb⟩ := bounds s6.2 pk.isLt
  exact ⟨hb, fld_eq hN s4.1, fld_eq hN s2.1, fld_toNat hN s0.1, fld_eq hN s1.1, fld_eq hN s3.1, fld_eq hN s5.1, fld_toNat hN s6.1⟩

theorem layout37 {N B : Nat} {x0 : BitVec 6} {x1 : BitVec 6} {x2 : BitVec 5} {x3 : BitVec 3} {c0 c1 : Nat} {pk : BitVec 2} (h0 : c0 < 2 ^ 3) (h1 : c1 < 2 ^ 6)
    (hB : B = c0 + c1 * 2 ^ 24)
    (e : N = pack4 B x0.toNat 18 x1.toNat 12 x2.toNat 7 x3.toNat 4 + pk.toNat * 2 ^ 30) :
    N - pk.toNat * 2 ^ 30 < 2 ^ 30 ∧
    fld (BitVec.ofNat 32 N) 18 6 = x0 ∧
    fld (BitVec.ofNat 32 N) 12 6 = x1 ∧
    fld (BitVec.ofNat 32 N) 7 5 = x2 ∧
    fld (BitVec.ofNat 32 N) 4 3 = x3 ∧
    (fld (BitVec.ofNat 32 N) 0 3).toNat = c0 ∧
    fld (BitVec.ofNat 32 N) 3 1 = 0 ∧
    (fld (BitVec.ofNat 32 N) 24 6).toNat = c1 := by
  simp only [pack4, pack3, pack2, pack1] at e
  have s : N / 2 ^ 0 = c0 + 2 ^ 3 * (0 + 2 ^ 1 * (x3.toNat + 2 ^ 3 * (x2.toNat + 2 ^ 5 * (x1.toNat + 2 ^ 6 * (x0.toNat + 2 ^ 6 * (c1 + 2 ^ 6 * (pk.toNat))))))) := by rw [Nat.pow_zero, Nat.div_one, e, hB]; ring
  have s0 := split_at s rfl h0
  have s1 := split_at s0.2 rfl (by decide)
  have s2 := split_at s1.2 rfl x3.isLt
  have s3 := split_at s2.2 rfl x2.isLt
  have s4 := split_at s3.2 rfl x1.isLt
  have s5 := split_at s4.2 rfl x0.isLt
  have s6 := split_at s5.2 rfl h1
  obtain ⟨hN, hb⟩ := bounds s6.2 pk.isLt
  exact ⟨hb, fld_eq hN s5.1, fld_eq hN s4.1, fld_eq hN s3.1, fld_eq hN s2.1, fld_toNat hN s0.1, fld_eq hN s1.1, fld_toNat hN s6.1⟩

theorem layout38 {N B : Nat} {x0 : BitVec 6} {x1 : BitVec 3} {c0 c1 : Nat} {pk : BitVec 2} (h0 : c0 < 2 ^ 3) (h1 : c1 < 2 ^ 6)
    (hB : B = c0 + c1 * 2 ^ 24)
    (e : N = pack2 B x0.toNat 18 x1.toNat 3 + pk.toNat * 2 ^ 30) :
    N - pk.toNat * 2 ^ 30 < 2 ^ 30 ∧
    fld (BitVec.ofNat 32 N) 18 6 = x0 ∧
    fld (BitVec.ofNat 32 N) 3 3 = x1 ∧
    (fld (BitVec.ofNat 32 N) 0 3).toNat = c0 ∧
    fld (BitVec.ofNat 32 N) 6 12 = 0 ∧
    (fld (BitVec.ofNat 32 N) 24 6).toNat = c1 := by
  simp only [pack2, pack1] at e
  have s : N / 2 ^ 0 = c0 + 2 ^ 3 * (x1.toNat + 2 ^ 3 * (0 + 2 ^ 12 * (x0.toNat + 2 ^ 6 * (c1 + 2 ^ 6 * (pk.toNat))))) := by rw [Nat.pow_zero, Nat.div_one, e, hB]; ring
  have s0 := split_at s rfl h0
  have s1 := split_at s0.2 rfl x1.isLt
  have s2 := split_at s1.2 rfl (by decide)
  have s3 := split_at s2.2 rfl x0.isLt
  have s4 := split_at s3.2 rfl h1
  obtain ⟨hN, hb⟩ := bounds s4.2 pk.isLt
  exact ⟨hb, fld_eq hN s3.1, fld_eq hN s1.1, fld_toNat hN s0.1, fld_eq hN s2.1, fld_toNat hN s4.1⟩

theorem layout39 {N B : Nat} {x0 : BitVec 6} {x1 : BitVec 3} {x2 : BitVec 3} {c0 c1 : Nat} {pk : BitVec 2} (h0 : c0 < 2 ^ 3) (h1 : c1 < 2 ^ 6)
    (hB : B = c0 + c1 * 2 ^ 24)
    (e : N = pack3 B x0.toNat 18 x1.toNat 12 x2.toNat 3 + pk.toNat * 2 ^ 30) :
    N - pk.toNat * 2 ^ 30 < 2 ^ 30 ∧
    fld (BitVec.ofNat 32 N) 18 6 = x0 ∧
    fld (BitVec.ofNat 32 N) 12 3 = x1 ∧
    fld (BitVec.ofNat 32 N) 3 3 = x2 ∧
    (fld (BitVec.ofNat 32 N) 0 3).toNat = c0 ∧
    fld (BitVec.ofNat 32 N) 6 6 = 0 ∧
    fld (BitVec.ofNat 32 N) 15 3 = 0 ∧
    (fld (BitVec.ofNat 32 N) 24 6).toNat = c1 := by
  simp only [pack3, pack2, pack1] at e
  have s : N / 2 ^ 0 = c0 + 2 ^ 3 * (x2.toNat + 2 ^ 3 * (0 + 2 ^ 6 * (x1.toNat + 2 ^ 3 * (0 + 2 ^ 3 * (x0.toNat + 2 ^ 6 * (c1 + 2 ^ 6 * (pk.toNat))))))) := by rw [Nat.pow_zero, Nat.div_one, e, hB]; ring
  have s0 := split_at s rfl h0
  have s1 := split_at s0.2 rfl x2.isLt
  have s2 := split_at s1.2 rfl (by decide)
  have s3 := split_at s2.2 rfl x1.isLt
  have s4 := split_at s3.2 rfl (by decide)
  have s5 := split_at s4.2 rfl x0.isLt
  have s6 := split_at s5.2 rfl h1
  obtain ⟨hN, hb⟩ := bounds s6.2 pk.isLt
  exact ⟨hb, fld_eq hN s5.1, fld_eq hN s3.1, fld_eq hN s1.1, fld_toNat hN s0.1, fld_eq hN s2.1, fld_eq hN s4.1, fld_toNat hN s6.1⟩

theorem layout40 {N B : Nat} {x0 : BitVec 6} {x1 : BitVec 6} {x2 : BitVec 6} {c0 c1 : Nat} {pk : BitVec 2} (h0 : c0 < 2 ^ 3) (h1 : c1 < 2 ^ 6)
    (hB : B = c0 + c1 * 2 ^ 24)
    (e : N = pack3 B x0.toNat 18 x1.toNat 12 x2.toNat 6 + pk.toNat * 2 ^ 30) :
    N - pk.toNat * 2 ^ 30 < 2 ^ 30 ∧
    fld (BitVec.ofNat 32 N) 18 6 = x0 ∧
    fld (BitVec.ofNat 32 N) 12 6 = x1 ∧
    fld (BitVec.ofNat 32 N) 6 6 = x2 ∧
    (fld (BitVec.ofNat 32 N) 0 3).toNat = c0 ∧
    fld (BitVec.ofNat 32 N) 3 3 = 0 ∧
    (fld (BitVec.ofNat 32 N) 24 6).toNat = c1 := by
  simp only [pack3, pack2, pack1] at e
  have s : N / 2 ^ 0 = c0 + 2 ^ 3 * (0 + 2 ^ 3 * (x2.toNat + 2 ^ 6 * (x1.toNat + 2 ^ 6 * (x0.toNat + 2 ^ 6 * (c1 + 2 ^ 6 * (pk.toNat)))))) := by rw [Nat.pow_zero, Nat.div_one, e, hB]; ring
  have s0 := split_at s rfl h0
  have s1 := split_at s0.2 rfl (by decide)
  have s2 := split_at s1.2 rfl x2.isLt
  have s3 := split_at s2.2 rfl x1.isLt
  have s4 := split_at s3.2 rfl x0.isLt
  have s5 := split_at s4.2 rfl h1
  obtain ⟨hN, hb⟩ := bounds s5.2 pk.isLt
  exact ⟨hb, fld_eq hN s4.1, fld_eq hN s3.1, fld_eq hN s2.1, fld_toNat hN s0.1, fld_eq hN s1.1, fld_toNat hN s5.1⟩

theorem layout41 {N B : Nat} {x0 : BitVec 6} {x1 : BitVec 6} {c0 c1 : Nat} {pk : BitVec 2} (h0 : c0 < 2 ^ 3) (h1 : c1 < 2 ^ 6)
    (hB : B = c0 + c1 * 2 ^ 24)
    (e : N = pack2 B x0.toNat 18 x1.toNat 12 + pk.toNat * 2 ^ 30) :
    N - pk.toNat * 2 ^ 30 < 2 ^ 30 ∧
    fld (BitVec.ofNat 32 N) 18 6 = x0 ∧
    fld (BitVec.ofNat 32 N) 12 6 = x1 ∧
    (fld (BitVec.ofNat 32 N) 0 3).toNat = c0 ∧
    fld (BitVec.ofNat 32 N) 3 9 = 0 ∧
    (fld (BitVec.ofNat 32 N) 24 6).toNat = c1 := by
  simp only [pack2, pack1] at e
  have s : N / 2 ^ 0 = c0 + 2 ^ 3 * (0 + 2 ^ 9 * (x1.toNat + 2 ^ 6 * (x0.toNat + 2 ^ 6 * (c1 + 2 ^ 6 * (pk.toNat))))) := by rw [Nat.pow_zero, Nat.div_one, e, hB]; ring
  have s0 := split_at s rfl h0
  have s1 := split_at s0.2 rfl (by decide)
  have s2 := split_at s1.2 rfl x1.isLt
  have s3 := split_at s2.2 rfl x0.isLt
  have s4 := split_at s3.2 rfl h1
  obtain ⟨hN, hb⟩ := bounds s4.2 pk.isLt
  exact ⟨hb, fld_eq hN s3.1, fld_eq hN s2.1, fld_toNat hN s0.1, fld_eq hN s1.1, fld_toNat hN s4.1⟩

theorem layout42 {N B : Nat} {x0 : BitVec 6} {x1 : BitVec 5} {x2 : BitVec 3} {c0 c1 : Nat} {pk : BitVec 2} (h0 : c0 < 2 ^ 3) (h1 : c1 < 2 ^ 6)
    (hB : B = c0 + c1 * 2 ^ 24)
    (e : N = pack3 B x0.toNat 18 x1.toNat 7 x2.toNat 4 + pk.toNat * 2 ^ 30) :
    N - pk.toNat * 2 ^ 30 < 2 ^ 30 ∧
    fld (BitVec.ofNat 32 N) 18 6 = x0 ∧
    fld (BitVec.ofNat 32 N) 7 5 = x1 ∧
    fld (BitVec.ofNat 32 N) 4 3 = x2 ∧
    (fld (BitVec.ofNat 32 N) 0 3).toNat = c0 ∧
    fld (BitVec.ofNat 32 N) 3 1 = 0 ∧
    fld (BitVec.ofNat 32 N) 12 6 = 0 ∧
    (fld (BitVec.ofNat 32 N) 24 6).toNat = c1 := by
  simp only [pack3, pack2, pack1] at e
  have s : N / 2 ^ 0 = c0 + 2 ^ 3 * (0 + 2 ^ 1 * (x2.toNat + 2 ^ 3 * (x1.toNat + 2 ^ 5 * (0 + 2 ^ 6 * (x0.toNat + 2 ^ 6 * (c1 + 2 ^ 6 * (pk.toNat))))))) := by rw [Nat.pow_zero, Nat.div_one, e, hB]; ring
  have s0 := split_at s rfl h0
  have s1 := split_at s0.2 rfl (by decide)
  have s2 := split_at s1.2 rfl x2.isLt
  have s3 := split_at s2.2 rfl x1.isLt
  have s4 := split_at s3.2 rfl (by decide)
  have s5 := split_at s4.2 rfl x0.isLt
  have s6 := split_at s5.2 rfl h1
  obtain ⟨hN, hb⟩ := bounds s6.2 pk.isLt
  exact ⟨hb, fld_eq hN s5.1, fld_eq hN s3.1, fld_eq hN s2.1, fld_toNat hN s0.1, fld_eq hN s1.1, fld_eq hN s4.1, fld_toNat hN s6.1⟩

theorem layout43 {N B : Nat} {x0 : BitVec 5} {x1 : BitVec 6} {x2 : BitVec 5} {c0 c1 : Nat} {pk : BitVec 2} (h0 : c0 < 2 ^ 3) (h1 : c1 < 2 ^ 6)
    (hB : B = c0 + c1 * 2 ^ 24)
    (e : N = pack3 B x0.toNat 18 x1.toNat 12 x2.toNat 7 + pk.toNat * 2 ^ 30) :
    N - pk.toNat * 2 ^ 30 < 2 ^ 30 ∧
    fld (BitVec.ofNat 32 N) 18 5 = x0 ∧
    fld (BitVec.ofNat 32 N) 12 6 = x1 ∧
    fld (BitVec.ofNat 32 N) 7 5 = x2 ∧
    (fld (BitVec.ofNat 32 N) 0 3).toNat = c0 ∧
    fld (BitVec.ofNat 32 N) 3 4 = 0 ∧
    fld (BitVec.ofNat 32 N) 23 1 = 0 ∧
    (fld (BitVec.ofNat 32 N) 24 6).toNat = c1 := by
  simp only [pack3, pack2, pack1] at e
  have s : N / 2 ^ 0 = c0 + 2 ^ 3 * (0 + 2 ^ 4 * (x2.toNat + 2 ^ 5 * (x1.toNat + 2 ^ 6 * (x0.toNat + 2 ^ 5 * (0 + 2 ^ 1 * (c1 + 2 ^ 6 * (pk.toNat))))))) := by rw [Nat.pow_zero, Nat.div_one, e, hB]; ring
  have s0 := split_at s rfl h0
  have s1 := split_at s0.2 rfl (by decide)
  have s2 := split_at s1.2 rfl x2.isLt
  have s3 := split_at s2.2 rfl x1.isLt
  have s4 := split_at s3.2 rfl x0.isLt
  have s5 := split_at s4.2 rfl (by decide)
  have s6 := split_at s5.2 rfl h1
  obtain ⟨hN, hb⟩ := bounds s6.2 pk.isLt
  exact ⟨hb, fld_eq hN s4.1, fld_eq hN s3.1, fld_eq hN s2.1, fld_toNat hN s0.1, fld_eq hN s1.1, fld_eq hN s5.1, fld_toNat hN s6.1⟩

theorem layout44 {N B : Nat} {x0 : BitVec 6} {x1 : BitVec 5} {x2 : BitVec 5} {c0 c1 : Nat} {pk : BitVec 2} (h0 : c0 < 2 ^ 3) (h1 : c1 < 2 ^ 6)
    (hB : B = c0 + c1 * 2 ^ 24)
    (e : N = pack3 B x0.toNat 18 x1.toNat 12 x2.toNat 7 + pk.toNat * 2 ^ 30) :
    N - pk.toNat * 2 ^ 30 < 2 ^ 30 ∧
    fld (BitVec.ofNat 32 N) 18 6 = x0 ∧
    fld (BitVec.ofNat 32 N) 12 5 = x1 ∧
    fld (BitVec.ofNat 32 N) 7 5 = x2 ∧
    (fld (BitVec.ofNat 32 N) 0 3).toNat = c0 ∧
    fld (BitVec.ofNat 32 N) 3 4 = 0 ∧
    fld (BitVec.ofNat 32 N) 17 1 = 0 ∧
    (fld (BitVec.ofNat 32 N) 24 6).toNat = c1 := by
  simp only [pack3, pack2, pack1] at e
  have s : N / 2 ^ 0 = c0 + 2 ^ 3 * (0 + 2 ^ 4 * (x2.toNat + 2 ^ 5 * (x1.toNat + 2 ^ 5 * (0 + 2 ^ 1 * (x0.toNat + 2 ^ 6 * (c1 + 2 ^ 6 * (pk.toNat))))))) := by rw [Nat.pow_zero, Nat.div_one, e, hB]; ring
  have s0 := split_at s rfl h0
  have s1 := split_at s0.2 rfl (by decide)
  have s2 := split_at s1.2 rfl x2.isLt
  have s3 := split_at s2.2 rfl x1.isLt
  have s4 := split_at s3.2 rfl (by decide)
  have s5 := split_at s4.2 rfl x0.isLt
  have s6 := split_at s5.2 rfl h1
  obtain ⟨hN, hb⟩ := bounds s6.2 pk.isLt
  exact ⟨hb, fld_eq hN s5.1, fld_eq hN s3.1, fld_eq hN s2.1, fld_toNat hN s0.1, fld_eq hN s1.1, fld_eq hN s4.1, fld_toNat hN s6.1⟩

theorem layout45 {N B : Nat} {x0 : BitVec 6} {x1 : BitVec 6} {x2 : BitVec 5} {x3 : BitVec 3} {c0 c1 : Nat} {pk : BitVec 2} (h0 : c0 < 2 ^ 3) (h1 : c1 < 2 ^ 6)
    (hB : B = c0 + c1 * 2 ^ 24)
    (e : N = pack4 B x0.toNat 18 x1.toNat 12 x2.toNat 6 x3.toNat 3 + pk.toNat * 2 ^ 30) :
    N - pk.toNat * 2 ^ 30 < 2 ^ 30 ∧
    fld (BitVec.ofNat 32 N) 18 6 = x0 ∧
    fld (BitVec.ofNat 32 N) 12 6 = x1 ∧
    fld (BitVec.ofNat 32 N) 6 5 = x2 ∧
    fld (BitVec.ofNat 32 N) 3 3 = x3 ∧
    (fld (BitVec.ofNat 32 N) 0 3).toNat = c0 ∧
    fld (BitVec.ofNat 32 N) 11 1 = 0 ∧
    (fld (BitVec.ofNat 32 N) 24 6).toNat = c1 := by
  simp only [pack4, pack3, pack2, pack1] at e
  have s : N / 2 ^ 0 = c0 + 2 ^ 3 * (x3.toNat + 2 ^ 3 * (x2.toNat + 2 ^ 5 * (0 + 2 ^ 1 * (x1.toNat + 2 ^ 6 * (x0.toNat + 2 ^ 6 * (c1 + 2 ^ 6 * (pk.toNat))))))) := by rw [Nat.pow_zero, Nat.div_one, e, hB]; ring
  have s0 := split_at s rfl h0
  have s1 := split_at s0.2 rfl x3.isLt
  have s2 := split_at s1.2 rfl x2.isLt
  have s3 := split_at s2.2 rfl (by decide)
  have s4 := split_at s3.2 rfl x1.isLt
  have s5 := split_at s4.2 rfl x0.isLt
  have s6 := split_at s5.2 rfl h1
  obtain ⟨hN, hb⟩ := bounds s6.2 pk.isLt
  exact ⟨hb, fld_eq hN s5.1, fld_eq hN s4.1, fld_eq hN s2.1, fld_eq hN s1.1, fld_toNat hN s0.1, fld_eq hN s3.1, fld_toNat hN s6.1⟩

theorem layout46 {N B : Nat} {x0 : BitVec 5} {x1 : BitVec 6} {x2 : BitVec 5} {x3 : BitVec 3} {c0 c1 : Nat} {pk : BitVec 2} (h0 : c0 < 2 ^ 3) (h1 : c1 < 2 ^ 6)
    (hB : B = c0 + c1 * 2 ^ 24)
    (e : N = pack4 B x0.toNat 18 x1.toNat 12 x2.toNat 7 x3.toNat 4 + pk.toNat * 2 ^ 30) :
    N - pk.toNat * 2 ^ 30 < 2 ^ 30 ∧
    fld (BitVec.ofNat 32 N) 18 5 = x0 ∧
    fld (BitVec.ofNat 32 N) 12 6 = x1 ∧
    fld (BitVec.ofNat 32 N) 7 5 = x2 ∧
    fld (BitVec.ofNat 32 N) 4 3 = x3 ∧
    (fld (BitVec.ofNat 32 N) 0 3).toNat = c0 ∧
    fld (BitVec.ofNat 32 N) 3 1 = 0 ∧
    fld (BitVec.ofNat 32 N) 23 1 = 0 ∧
    (fld (BitVec.ofNat 32 N) 24 6).toNat = c1 := by
  simp only [pack4, pack3, pack2, pack1] at e
  have s : N / 2 ^ 0 = c0 + 2 ^ 3 * (0 + 2 ^ 1 * (x3.toNat + 2 ^ 3 * (x2.toNat + 2 ^ 5 * (x1.toNat + 2 ^ 6 * (x0.toNat + 2 ^ 5 * (0 + 2 ^ 1 * (c1 + 2 ^ 6 * (pk.toNat)))))))) := by rw [Nat.pow_zero, Nat.div_one, e, hB]; ring
  have s0 := split_at s rfl h0
  have s1 := split_at s0.2 rfl (by decide)
  have s2 := split_at s1.2 rfl x3.isLt
  have s3 := split_at s2.2 rfl x2.isLt
  have s4 := split_at s3.2 rfl x1.isLt
  have s5 := split_at s4.2 rfl x0.isLt
  have s6 := split_at s5.2 rfl (by decide)
  have s7 := split_at s6.2 rfl h1
  obtain ⟨hN, hb⟩ := bounds s7.2 pk.isLt
  exact ⟨hb, fld_eq hN s5.1, fld_eq hN s4.1, fld_eq hN s3.1, fld_eq hN s2.1, fld_toNat hN s0.1, fld_eq hN s1.1, fld_eq hN s6.1, fld_toNat hN s7.1⟩

theorem layout47 {N B : Nat} {x0 : BitVec 5} {x1 : BitVec 5} {x2 : BitVec 5} {x3 : BitVec 1} {c0 c1 : Nat} {pk : BitVec 2} (h0 : c0 < 2 ^ 3) (h1 : c1 < 2 ^ 6)
    (hB : B = c0 + c1 * 2 ^ 24)
    (e : N = pack4 B x0.toNat 19 x1.toNat 14 x2.toNat 9 x3.toNat 3 + pk.toNat * 2 ^ 30) :
    N - pk.toNat * 2 ^ 30 < 2 ^ 30 ∧
    fld (BitVec.ofNat 32 N) 19 5 = x0 ∧
    fld (BitVec.ofNat 32 N) 14 5 = x1 ∧
    fld (BitVec.ofNat 32 N) 9 5 = x2 ∧
    fld (BitVec.ofNat 32 N) 3 1 = x3 ∧
    (fld (BitVec.ofNat 32 N) 0 3).toNat = c0 ∧
    fld (BitVec.ofNat 32 N) 4 5 = 0 ∧
    (fld (BitVec.ofNat 32 N) 24 6).toNat = c1 := by
  simp only [pack4, pack3, pack2, pack1] at e
  have s : N / 2 ^ 0 = c0 + 2 ^ 3 * (x3.toNat + 2 ^ 1 * (0 + 2 ^ 5 * (x2.toNat + 2 ^ 5 * (x1.toNat + 2 ^ 5 * (x0.toNat + 2 ^ 5 * (c1 + 2 ^ 6 * (pk.toNat))))))) := by rw [Nat.pow_zero, Nat.div_one, e, hB]; ring
  have s0 := split_at s rfl h0
  have s1 := split_at s0.2 rfl x3.isLt
  have s2 := split_at s1.2 rfl (by decide)
  have s3 := split_at s2.2 rfl x2.isLt
  have s4 := split_at s3.2 rfl x1.isLt
  have s5 := split_at s4.2 rfl x0.isLt
  have s6 := split_at s5.2 rfl h1
  obtain ⟨hN, hb⟩ := bounds s6.2 pk.isLt
  exact ⟨hb, fld_eq hN s5.1, fld_eq hN s4.1, fld_eq hN s3.1, fld_eq hN s1.1, fld_toNat hN s0.1, fld_eq hN s2.1, fld_toNat hN s6.1⟩

theorem layout48 {N B : Nat} {x0 : BitVec 5} {x1 : BitVec 5} {x2 : BitVec 1} {c0 c1 : Nat} {pk : BitVec 2} (h0 : c0 < 2 ^ 3) (h1 : c1 < 2 ^ 6)
    (hB : B = c0 + c1 * 2 ^ 24)
    (e : N = pack3 B x0.toNat 19 x1.toNat 14 x2.toNat 3 + pk.toNat * 2 ^ 30) :
    N - pk.toNat * 2 ^ 30 < 2 ^ 30 ∧
    fld (BitVec.ofNat 32 N) 19 5 = x0 ∧
    fld (BitVec.ofNat 32 N) 14 5 = x1 ∧
    fld (BitVec.ofNat 32 N) 3 1 = x2 ∧
    (fld (BitVec.ofNat 32 N) 0 3).toNat = c0 ∧
    fld (BitVec.ofNat 32 N) 4 10 = 0 ∧
    (fld (BitVec.ofNat 32 N) 24 6).toNat = c1 := by
  simp only [pack3, pack2, pack1] at e
  have s : N / 2 ^ 0 = c0 + 2 ^ 3 * (x2.toNat + 2 ^ 1 * (0 + 2 ^ 10 * (x1.toNat + 2 ^ 5 * (x0.toNat + 2 ^ 5 * (c1 + 2 ^ 6 * (pk.toNat)))))) := by rw [Nat.pow_zero, Nat.div_one, e, hB]; ring
  have s0 := split_at s rfl h0
  have s1 := split_at s0.2 rfl x2.isLt
  have s2 := split_at s1.2 rfl (by decide)
  have s3 := split_at s2.2 rfl x1.isLt
  have s4 := split_at s3.2 rfl x0.isLt
  have s5 := split_at s4.2 rfl h1
  obtain ⟨hN, hb⟩ := bounds s5.2 pk.isLt
  exact ⟨hb, fld_eq hN s4.1, fld_eq hN s3.1, fld_eq hN s1.1, fld_toNat hN s0.1, fld_eq hN s2.1, fld_toNat hN s5.1⟩

theorem layout49 {N B : Nat} {x0 : BitVec 5} {x1 : BitVec 5} {x2 : BitVec 5} {x3 : BitVec 5} {x4 : BitVec 1} {c0 c1 : Nat} {pk : BitVec 2} (h0 : c0 < 2 ^ 3) (h1 : c1 < 2 ^ 6)
    (hB : B = c0 + c1 * 2 ^ 24)
    (e : N = pack5 B x0.toNat 19 x1.toNat 14 x2.toNat 9 x3.toNat 4 x4.toNat 3 + pk.toNat * 2 ^ 30) :
    N - pk.toNat * 2 ^ 30 < 2 ^ 30 ∧
    fld (BitVec.ofNat 32 N) 19 5 = x0 ∧
    fld (BitVec.ofNat 32 N) 14 5 = x1 ∧
    fld (BitVec.ofNat 32 N) 9 5 = x2 ∧
    fld (BitVec.ofNat 32 N) 4 5 = x3 ∧
    fld (BitVec.ofNat 32 N) 3 1 = x4 ∧
    (fld (BitVec.ofNat 32 N) 0 3).toNat = c0 ∧
    (fld (BitVec.ofNat 32 N) 24 6).toNat = c1 := by
  simp only [pack5, pack4, pack3, pack2, pack1] at e
  have s : N / 2 ^ 0 = c0 + 2 ^ 3 * (x4.toNat + 2 ^ 1 * (x3.toNat + 2 ^ 5 * (x2.toNat + 2 ^ 5 * (x1.toNat + 2 ^ 5 * (x0.toNat + 2 ^ 5 * (c1 + 2 ^ 6 * (pk.toNat))))))) := by rw [Nat.pow_zero, Nat.div_one, e, hB]; ring
  have s0 := split_at s rfl h0
  have s1 := split_at s0.2 rfl x4.isLt
  have s2 := split_at s1.2 rfl x3.isLt
  have s3 := split_at s2.2 rfl x2.isLt
  have s4 := split_at s3.2 rfl x1.isLt
  have s5 := split_at s4.2 rfl x0.isLt
  have s6 := split_at s5.2 rfl h1
  obtain ⟨hN, hb⟩ := bounds s6.2 pk.isLt
  exact ⟨hb, fld_eq hN s5.1, fld_eq hN s4.1, fld_eq hN s3.1, fld_eq hN s2.1, fld_eq hN s1.1, fld_toNat hN s0.1, fld_toNat hN s6.1⟩

theorem layout50 {N B : Nat} {x0 : BitVec 5} {x1 : BitVec 5} {x2 : BitVec 5} {x3 : BitVec 5} {c0 c1 : Nat} {pk : BitVec 2} (h0 : c0 < 2 ^ 3) (h1 : c1 < 2 ^ 6)
    (hB : B = c0 + c1 * 2 ^ 24)
    (e : N = pack4 B x0.toNat 19 x1.toNat 14 x2.toNat 9 x3.toNat 4 + pk.toNat * 2 ^ 30) :
    N - pk.toNat * 2 ^ 30 < 2 ^ 30 ∧
    fld (BitVec.ofNat 32 N) 19 5 = x0 ∧
    fld (BitVec.ofNat 32 N) 14 5 = x1 ∧
    fld (BitVec.ofNat 32 N) 9 5 = x2 ∧
    fld (BitVec.ofNat 32 N) 4 5 = x3 ∧
    (fld (BitVec.ofNat 32 N) 0 3).toNat = c0 ∧
    fld (BitVec.ofNat 32 N) 3 1 = 0 ∧
    (fld (BitVec.ofNat 32 N) 24 6).toNat = c1 := by
  simp only [pack4, pack3, pack2, pack1] at e
  have s : N / 2 ^ 0 = c0 + 2 ^ 3 * (0 + 2 ^ 1 * (x3.toNat + 2 ^ 5 * (x2.toNat + 2 ^ 5 * (x1.toNat + 2 ^ 5 * (x0.toNat + 2 ^ 5 * (c1 + 2 ^ 6 * (pk.toNat))))))) := by rw [Nat.pow_zero, Nat.div_one, e, hB]; ring
  have s0 := split_at s rfl h0
  have s1 := split_at s0.2 rfl (by decide)
  have s2 := split_at s1.2 rfl x3.isLt
  have s3 := split_at s2.2 rfl x2.isLt
  have s4 := split_at s3.2 rfl x1.isLt
  have s5 := split_at s4.2 rfl x0.isLt
  have s6 := split_at s5.2 rfl h1
  obtain ⟨hN, hb⟩ := bounds s6.2 pk.isLt
  exact ⟨hb, fld_eq hN s5.1, fld_eq hN s4.1, fld_eq hN s3.1, fld_eq hN s2.1, fld_toNat hN s0.1, fld_eq hN s1.1, fld_toNat hN s6.1⟩

theorem layout51 {N B : Nat} {c0 c1 : Nat} {pk : BitVec 2} (h0 : c0 < 2 ^ 2) (h1 : c1 < 2 ^ 6)
    (hB : B = c0 + c1 * 2 ^ 24)
    (e : N = B + pk.toNat * 2 ^ 30) :
    N - pk.toNat * 2 ^ 30 < 2 ^ 30 ∧
    (fld (BitVec.ofNat 32 N) 0 2).toNat = c0 ∧
    fld (BitVec.ofNat 32 N) 2 22 = 0 ∧
    (fld (BitVec.ofNat 32 N) 24 6).toNat = c1 := by
  have s : N / 2 ^ 0 = c0 + 2 ^ 2 * (0 + 2 ^ 22 * (c1 + 2 ^ 6 * (pk.toNat))) := by rw [Nat.pow_zero, Nat.div_one, e, hB]; ring
  have s0 := split_at s rfl h0
  have s1 := split_at s0.2 rfl (by decide)
  have s2 := split_at s1.2 rfl h1
  obtain ⟨hN, hb⟩ := bounds s2.2 pk.isLt
  exact ⟨hb, fld_toNat hN s0.1, fld_eq hN s1.1, fld_toNat hN s2.1⟩

theorem layout52 {N B : Nat} {x0 : BitVec 4} {x1 : BitVec 4} {x2 : BitVec 4} {x3 : BitVec 4} {x4 : BitVec 8} {c0 : Nat} {pk : BitVec 2} (h0 : c0 < 2 ^ 6)
    (hB : B = c0 * 2 ^ 24)
    (e : N = pack5 B x0.toNat 20 x1.toNat 16 x2.toNat 12 x3.toNat 8 x4.toNat 0 + pk.toNat * 2 ^ 30) :
    N - pk.toNat * 2 ^ 30 < 2 ^ 30 ∧
    fld (BitVec.ofNat 32 N) 20 4 = x0 ∧
    fld (BitVec.ofNat 32 N) 16 4 = x1 ∧
    fld (BitVec.ofNat 32 N) 12 4 = x2 ∧
    fld (BitVec.ofNat 32 N) 8 4 = x3 ∧
    fld (BitVec.ofNat 32 N) 0 8 = x4 ∧
    (fld (BitVec.ofNat 32 N) 24 6).toNat = c0 := by
  simp only [pack5, pack4, pack3, pack2, pack1] at e
  have s : N / 2 ^ 0 = x4.toNat + 2 ^ 8 * (x3.toNat + 2 ^ 4 * (x2.toNat + 2 ^ 4 * (x1.toNat + 2 ^ 4 * (x0.toNat + 2 ^ 4 * (c0 + 2 ^ 6 * (pk.toNat)))))) := by rw [Nat.pow_zero, Nat.div_one, e, hB]; ring
  have s0 := split_at s rfl x4.isLt
  have s1 := split_at s0.2 rfl x3.isLt
  have s2 := split_at s1.2 rfl x2.isLt
  have s3 := split_at s2.2 rfl x1.isLt
  have s4 := split_at s3.2 rfl x0.isLt
  have s5 := split_at s4.2 rfl h0
  obtain ⟨hN, hb⟩ := bounds s5.2 pk.isLt
  exact ⟨hb, fld_eq hN s4.1, fld_eq hN s3.1, fld_eq hN s2.1, fld_eq hN s1.1, fld_eq hN s0.1, fld_toNat hN s5.1⟩

theorem layout53 {N B : Nat} {x0 : BitVec 6} {x1 : BitVec 6} {x2 : BitVec 4} {x3 : BitVec 2} {c0 : Nat} {pk : BitVec 2} (h0 : c0 < 2 ^ 6)
    (hB : B = c0 * 2 ^ 24)
    (e : N = pack4 B x0.toNat 18 x1.toNat 12 x2.toNat 2 x3.toNat 0 + pk.toNat * 2 ^ 30) :
    N - pk.toNat * 2 ^ 30 < 2 ^ 30 ∧
    fld (BitVec.ofNat 32 N) 18 6 = x0 ∧
    fld (BitVec.ofNat 32 N) 12 6 = x1 ∧
    fld (BitVec.ofNat 32 N) 2 4 = x2 ∧
    fld (BitVec.ofNat 32 N) 0 2 = x3 ∧
    fld (BitVec.ofNat 32 N) 6 6 = 0 ∧
    (fld (BitVec.ofNat 32 N) 24 6).toNat = c0 := by
  simp only [pack4, pack3, pack2, pack1] at e
  have s : N / 2 ^ 0 = x3.toNat + 2 ^ 2 * (x2.toNat + 2 ^ 4 * (0 + 2 ^ 6 * (x1.toNat + 2 ^ 6 * (x0.toNat + 2 ^ 6 * (c0 + 2 ^ 6 * (pk.toNat)))))) := by rw [Nat.pow_zero, Nat.div_one, e, hB]; ring
  have s0 := split_at s rfl x3.isLt
  have s1 := split_at s0.2 rfl x2.isLt
  have s2 := split_at s1.2 rfl (by decide)
  have s3 := split_at s2.2 rfl x1.isLt
  have s4 := split_at s3.2 rfl x0.isLt
  have s5 := split_at s4.2 rfl h0
  obtain ⟨hN, hb⟩ := bounds s5.2 pk.isLt
  exact ⟨hb, fld_eq hN s4.1, fld_eq hN s3.1, fld_eq hN s1.1, fld_eq hN s0.1, fld_eq hN s2.1, fld_toNat hN s5.1⟩

theorem layout54 {N B : Nat} {x0 : BitVec 5} {x1 : BitVec 5} {x2 : BitVec 4} {c0 c1 : Nat} {pk : BitVec 2} (h0 : c0 < 2 ^ 2) (h1 : c1 < 2 ^ 6)
    (hB : B = c0 + c1 * 2 ^ 24)
    (e : N = pack3 B x0.toNat 19 x1.toNat 14 x2.toNat 10 + pk.toNat * 2 ^ 30) :
    N - pk.toNat * 2 ^ 30 < 2 ^ 30 ∧
    fld (BitVec.ofNat 32 N) 19 5 = x0 ∧
    fld (BitVec.ofNat 32 N) 14 5 = x1 ∧
    fld (BitVec.ofNat 32 N) 10 4 = x2 ∧
    (fld (BitVec.ofNat 32 N) 0 2).toNat = c0 ∧
    fld (BitVec.ofNat 32 N) 2 8 = 0 ∧
    (fld (BitVec.ofNat 32 N) 24 6).toNat = c1 := by
  simp only [pack3, pack2, pack1] at e
  have s : N / 2 ^ 0 = c0 + 2 ^ 2 * (0 + 2 ^ 8 * (x2.toNat + 2 ^ 4 * (x1.toNat + 2 ^ 5 * (x0.toNat + 2 ^ 5 * (c1 + 2 ^ 6 * (pk.toNat)))))) := by rw [Nat.pow_zero, Nat.div_one, e, hB]; ring
  have s0 := split_at s rfl h0
  have s1 := split_at s0.2 rfl (by decide)
  have s2 := split_at s1.2 rfl x2.isLt
  have s3 := split_at s2.2 rfl x1.isLt
  have s4 := split_at s3.2 rfl x0.isLt
  have s5 := split_at s4.2 rfl h1
  obtain ⟨hN, hb⟩ := bounds s5.2 pk.isLt
  exact ⟨hb, fld_eq hN s4.1, fld_eq hN s3.1, fld_eq hN s2.1, fld_toNat hN s0.1, fld_eq hN s1.1, fld_toNat hN s5.1⟩

theorem layout55 {N B : Nat} {x0 : BitVec 5} {x1 : BitVec 4} {c0 c1 : Nat} {pk : BitVec 2} (h0 : c0 < 2 ^ 2) (h1 : c1 < 2 ^ 6)
    (hB : B = c0 + c1 * 2 ^ 24)
    (e : N = pack2 B x0.toNat 19 x1.toNat 10 + pk.toNat * 2 ^ 30) :
    N - pk.toNat * 2 ^ 30 < 2 ^ 30 ∧
    fld (BitVec.ofNat 32 N) 19 5 = x0 ∧
    fld (BitVec.ofNat 32 N) 10 4 = x1 ∧
    (fld (BitVec.ofNat 32 N) 0 2).toNat = c0 ∧
    fld (BitVec.ofNat 32 N) 2 8 = 0 ∧
    fld (BitVec.ofNat 32 N) 14 5 = 0 ∧
    (fld (BitVec.ofNat 32 N) 24 6).toNat = c1 := by
  simp only [pack2, pack1] at e
  have s : N / 2 ^ 0 = c0 + 2 ^ 2 * (0 + 2 ^ 8 * (x1.toNat + 2 ^ 4 * (0 + 2 ^ 5 * (x0.toNat + 2 ^ 5 * (c1 + 2 ^ 6 * (pk.toNat)))))) := by rw [Nat.pow_zero, Nat.div_one, e, hB]; ring
  have s0 := split_at s rfl h0
  have s1 := split_at s0.2 rfl (by decide)
  have s2 := split_at s1.2 rfl x1.isLt
  have s3 := split_at s2.2 rfl (by decide)
  have s4 := split_at s3.2 rfl x0.isLt
  have s5 := split_at s4.2 rfl h1
  obtain ⟨hN, hb⟩ := bounds s5.2 pk.isLt
  exact ⟨hb, fld_eq hN s4.1, fld_eq hN s2.1, fld_toNat hN s0.1, fld_eq hN s1.1, fld_eq hN s3.1, fld_toNat hN s5.1⟩

theorem majorSys {w : BitVec 32} (h : (fld w 24 6).toNat = 0) : decodeWord w = decSys w := by
  unfold decodeWord decodeLow; rw [h]; rfl

theorem majorCreg {w : BitVec 32} (h : (fld w 24 6).toNat = 1) : decodeWord w = decCreg w := by
  unfold decodeWord decodeLow; rw [h]; rfl

theorem majorAlu {w : BitVec 32} (h : (fld w 24 6).toNat = 2) : decodeWord w = decAlu w := by
  unfold decodeWord decodeLow; rw [h]; rfl

theorem majorAddi {w : BitVec 32} (h : (fld w 24 6).toNat = 3) : decodeWord w = decAddi w := by
  unfold decodeWord decodeLow; rw [h]; rfl

theorem majorLogImm {w : BitVec 32} (h : (fld w 24 6).toNat = 4) : decodeWord w = decLogImm w := by
  unfold decodeWord decodeLow; rw [h]; rfl

theorem majorShiftImm {w : BitVec 32} (h : (fld w 24 6).toNat = 5) : decodeWord w = decShiftImm w := by
  unfold decodeWord decodeLow; rw [h]; rfl

theorem majorSetImm {w : BitVec 32} (h : (fld w 24 6).toNat = 6) : decodeWord w = decSetImm w := by
  unfold decodeWord decodeLow; rw [h]; rfl

theorem majorLui {w : BitVec 32} (h : (fld w 24 6).toNat = 7) : decodeWord w = decLui w := by
  unfold decodeWord decodeLow; rw [h]; rfl

theorem majorAdpc {w : BitVec 32} (h : (fld w 24 6).toNat = 8) : decodeWord w = decAdpc w := by
  unfold decodeWord; rw [h]; rfl

theorem majorSitea {w : BitVec 32} (h : (fld w 24 6).toNat = 9) : decodeWord w = decSitea w := by
  unfold decodeWord decodeLow; rw [h]; rfl

theorem majorMul {w : BitVec 32} (h : (fld w 24 6).toNat = 10) : decodeWord w = decMul w := by
  unfold decodeWord decodeLow; rw [h]; rfl

theorem majorBits {w : BitVec 32} (h : (fld w 24 6).toNat = 11) : decodeWord w = decBits w := by
  unfold decodeWord decodeLow; rw [h]; rfl

theorem majorBranch {w : BitVec 32} (h : (fld w 24 6).toNat = 12) : decodeWord w = decBranch w := by
  unfold decodeWord decodeLow; rw [h]; rfl

theorem majorJ {w : BitVec 32} (h : (fld w 24 6).toNat = 13) : decodeWord w = decJ w := by
  unfold decodeWord decodeLow; rw [h]; rfl

theorem majorCall {w : BitVec 32} (h : (fld w 24 6).toNat = 14) : decodeWord w = decCall w := by
  unfold decodeWord decodeLow; rw [h]; rfl

theorem majorJump {w : BitVec 32} (h : (fld w 24 6).toNat = 15) : decodeWord w = decJump w := by
  unfold decodeWord decodeLow; rw [h]; rfl

theorem majorLds {w : BitVec 32} (h : (fld w 24 6).toNat = 16) : decodeWord w = decLds w := by
  unfold decodeWord decodeLow; rw [h]; rfl

theorem majorSts {w : BitVec 32} (h : (fld w 24 6).toNat = 17) : decodeWord w = decSts w := by
  unfold decodeWord decodeLow; rw [h]; rfl

theorem majorAmo {w : BitVec 32} (h : (fld w 24 6).toNat = 18) : decodeWord w = decAmo w := by
  unfold decodeWord decodeLow; rw [h]; rfl

theorem majorFence {w : BitVec 32} (h : (fld w 24 6).toNat = 19) : decodeWord w = decFence w := by
  unfold decodeWord decodeLow; rw [h]; rfl

theorem majorVecLoad {w : BitVec 32} (h : (fld w 24 6).toNat = 20) : decodeWord w = decVecLoad w := by
  unfold decodeWord decodeLow; rw [h]; rfl

theorem majorVecStore {w : BitVec 32} (h : (fld w 24 6).toNat = 21) : decodeWord w = decVecStore w := by
  unfold decodeWord decodeLow; rw [h]; rfl

theorem majorVamo {w : BitVec 32} (h : (fld w 24 6).toNat = 22) : decodeWord w = decVamo w := by
  unfold decodeWord decodeLow; rw [h]; rfl

theorem majorSetvl {w : BitVec 32} (h : (fld w 24 6).toNat = 23) : decodeWord w = decSetvl w := by
  unfold decodeWord decodeLow; rw [h]; rfl

theorem majorJob {w : BitVec 32} (h : (fld w 24 6).toNat = 24) : decodeWord w = decJob w := by
  unfold decodeWord decodeLow; rw [h]; rfl

theorem majorDep {w : BitVec 32} (h : (fld w 24 6).toNat = 25) : decodeWord w = decDep w := by
  unfold decodeWord decodeLow; rw [h]; rfl

theorem majorBar {w : BitVec 32} (h : (fld w 24 6).toNat = 26) : decodeWord w = decBar w := by
  unfold decodeWord decodeLow; rw [h]; rfl

theorem majorWin {w : BitVec 32} (h : (fld w 24 6).toNat = 27) : decodeWord w = decWin w := by
  unfold decodeWord decodeLow; rw [h]; rfl

theorem majorSpool {w : BitVec 32} (h : (fld w 24 6).toNat = 28) : decodeWord w = decSpool w := by
  unfold decodeWord decodeLow; rw [h]; rfl

theorem majorPost {w : BitVec 32} (h : (fld w 24 6).toNat = 29) : decodeWord w = decPost w := by
  unfold decodeWord decodeLow; rw [h]; rfl

theorem majorTime {w : BitVec 32} (h : (fld w 24 6).toNat = 30) : decodeWord w = decTime w := by
  unfold decodeWord decodeLow; rw [h]; rfl

theorem majorVInt0 {w : BitVec 32} (h : (fld w 24 6).toNat = 32) : decodeWord w = decVInt0 w := by
  unfold decodeWord decodeLow; rw [h]; rfl

theorem majorVInt1 {w : BitVec 32} (h : (fld w 24 6).toNat = 33) : decodeWord w = decVInt1 w := by
  unfold decodeWord decodeLow; rw [h]; rfl

theorem majorVInt2 {w : BitVec 32} (h : (fld w 24 6).toNat = 34) : decodeWord w = decVInt2 w := by
  unfold decodeWord decodeLow; rw [h]; rfl

theorem majorVDiv {w : BitVec 32} (h : (fld w 24 6).toNat = 35) : decodeWord w = decVDiv w := by
  unfold decodeWord decodeLow; rw [h]; rfl

theorem majorVCmp {w : BitVec 32} (h : (fld w 24 6).toNat = 36) : decodeWord w = decVCmp w := by
  unfold decodeWord decodeLow; rw [h]; rfl

theorem majorMask {w : BitVec 32} (h : (fld w 24 6).toNat = 37) : decodeWord w = decMask w := by
  unfold decodeWord decodeLow; rw [h]; rfl

theorem majorSlide {w : BitVec 32} (h : (fld w 24 6).toNat = 38) : decodeWord w = decSlide w := by
  unfold decodeWord decodeLow; rw [h]; rfl

theorem majorPerm {w : BitVec 32} (h : (fld w 24 6).toNat = 39) : decodeWord w = decPerm w := by
  unfold decodeWord decodeLow; rw [h]; rfl

theorem majorMove {w : BitVec 32} (h : (fld w 24 6).toNat = 40) : decodeWord w = decMove w := by
  unfold decodeWord decodeLow; rw [h]; rfl

theorem majorVFp0 {w : BitVec 32} (h : (fld w 24 6).toNat = 41) : decodeWord w = decVFp0 w := by
  unfold decodeWord decodeLow; rw [h]; rfl

theorem majorVFma {w : BitVec 32} (h : (fld w 24 6).toNat = 42) : decodeWord w = decVFma w := by
  unfold decodeWord decodeLow; rw [h]; rfl

theorem majorVFp1 {w : BitVec 32} (h : (fld w 24 6).toNat = 43) : decodeWord w = decVFp1 w := by
  unfold decodeWord decodeLow; rw [h]; rfl

theorem majorVCvt {w : BitVec 32} (h : (fld w 24 6).toNat = 44) : decodeWord w = decVCvt w := by
  unfold decodeWord decodeLow; rw [h]; rfl

theorem majorSpecial {w : BitVec 32} (h : (fld w 24 6).toNat = 45) : decodeWord w = decSpecial w := by
  unfold decodeWord decodeLow; rw [h]; rfl

theorem majorComplex {w : BitVec 32} (h : (fld w 24 6).toNat = 46) : decodeWord w = decComplex w := by
  unfold decodeWord decodeLow; rw [h]; rfl

theorem majorBfly {w : BitVec 32} (h : (fld w 24 6).toNat = 47) : decodeWord w = decBfly w := by
  unfold decodeWord decodeLow; rw [h]; rfl

theorem majorTile {w : BitVec 32} (h : (fld w 24 6).toNat = 48) : decodeWord w = decTile w := by
  unfold decodeWord decodeLow; rw [h]; rfl

theorem majorReduce {w : BitVec 32} (h : (fld w 24 6).toNat = 49) : decodeWord w = decReduce w := by
  unfold decodeWord decodeLow; rw [h]; rfl

theorem majorFp {w : BitVec 32} (h : (fld w 24 6).toNat = 50) : decodeWord w = decFp w := by
  unfold decodeWord decodeLow; rw [h]; rfl

theorem majorFpMisc {w : BitVec 32} (h : (fld w 24 6).toNat = 51) : decodeWord w = decFpMisc w := by
  unfold decodeWord; rw [h]; rfl

theorem majorMode {w : BitVec 32} (h : (fld w 24 6).toNat = 52) : decodeWord w = decMode w := by
  unfold decodeWord decodeLow; rw [h]; rfl

theorem majorMop {w : BitVec 32} (h : (fld w 24 6).toNat = 53) : decodeWord w = decMop w := by
  unfold decodeWord decodeLow; rw [h]; rfl

theorem majorMopv {w : BitVec 32} (h : (fld w 24 6).toNat = 54) : decodeWord w = decMopv w := by
  unfold decodeWord decodeLow; rw [h]; rfl

theorem majorTilemove {w : BitVec 32} (h : (fld w 24 6).toNat = 55) : decodeWord w = decTilemove w := by
  unfold decodeWord decodeLow; rw [h]; rfl

end Sys2Proof.Laws.Encoding
end

