-- ==== Sys2Proof/Laws/Memory.lean ====
section
/-! SUPPORT. The canonical form of memory: every operation that changes memory keeps it, and reset's memory has
it; and what the operations on memory leave as it was. -/

namespace Sys2Proof.Laws

open Sys2Proof.Machine Sys2Proof.Safety

/-! ### The canonical form -/

/-- The form, said of the whole list. -/
theorem memWf_iff (m : List Host.Cell) :
    memWf m = true ↔ m.Pairwise (fun p q => p.1 < q.1) ∧ ∀ p ∈ m, p.2 ≠ emptyByte p.1 := by
  induction m with
  | nil => simp [memWf]
  | cons p t ih =>
    simp only [memWf, Bool.and_eq_true, bne_iff_ne, ne_eq, List.all_eq_true, decide_eq_true_eq, ih,
      List.pairwise_cons, List.forall_mem_cons]
    tauto

theorem memWf_filter {m : List Host.Cell} (f : Host.Cell → Bool) (h : memWf m = true) : memWf (m.filter f) = true := by
  rw [memWf_iff] at *
  exact ⟨h.1.filter f, fun p hp => h.2 p (List.mem_of_mem_filter hp)⟩

/-- The cells of a run stand at its addresses. -/
theorem mem_cellsOf {l : Nat} {bs : List Byte} {p : Host.Cell} (h : p ∈ cellsOf l bs) :
    l ≤ p.1 ∧ p.1 < l + bs.length ∧ p.2 ≠ emptyByte p.1 := by
  induction bs generalizing l with
  | nil => simp [cellsOf] at h
  | cons b t ih =>
    have key : p ∈ cellsOf (l + 1) t → l ≤ p.1 ∧ p.1 < l + (b :: t).length ∧ p.2 ≠ emptyByte p.1 := fun h1 => by
      have := ih h1
      rw [List.length_cons]
      exact ⟨by omega, by omega, this.2.2⟩
    by_cases hb : b = emptyByte l
    · simp only [cellsOf, hb, if_true] at h
      exact key h
    · simp only [cellsOf, hb, if_false, List.mem_cons] at h
      rcases h with rfl | h
      · simp [hb]
      · exact key h

theorem memWf_cellsOf (l : Nat) (bs : List Byte) : memWf (cellsOf l bs) = true := by
  induction bs generalizing l with
  | nil => rfl
  | cons b t ih =>
    by_cases hb : b = emptyByte l
    · simpa only [cellsOf, hb, if_true] using ih (l + 1)
    · rw [memWf_iff]
      have h := (memWf_iff _).1 (ih (l + 1))
      simp only [cellsOf, hb, if_false, List.pairwise_cons, List.forall_mem_cons]
      exact ⟨⟨fun q hq => by have := (mem_cellsOf hq).1; show l < q.1; omega, h.1⟩, hb, h.2⟩

/-- A run of bytes written keeps the form. -/
theorem memWf_putBytes {m : List Host.Cell} (l : Nat) (bs : List Byte) (h : memWf m = true) :
    memWf (putBytes m l bs) = true := by
  have lo := (memWf_iff _).1 (memWf_filter (fun p => p.1 < l) h)
  have hi := (memWf_iff _).1 (memWf_filter (fun p => l + bs.length ≤ p.1) h)
  have mid := (memWf_iff _).1 (memWf_cellsOf l bs)
  rw [memWf_iff, putBytes]
  simp only [List.pairwise_append, List.mem_append]
  refine ⟨⟨⟨lo.1, mid.1, fun p hp q hq => ?_⟩, hi.1, fun p hp q hq => ?_⟩, fun p hp => ?_⟩
  · have h1 := (List.mem_filter.1 hp).2
    have h2 := (mem_cellsOf hq).1
    simp only [decide_eq_true_eq] at h1
    omega
  · have h2 := (List.mem_filter.1 hq).2
    simp only [decide_eq_true_eq] at h2
    rcases hp with hp | hp
    · have h1 := (List.mem_filter.1 hp).2
      simp only [decide_eq_true_eq] at h1
      omega
    · have h1 := (mem_cellsOf hp).2.1
      omega
  · rcases hp with (hp | hp) | hp
    · exact lo.2 p hp
    · exact mid.2 p hp
    · exact hi.2 p hp

/-- The stored bytes once a run is written keep the form. -/
theorem memWf_memWith {s : State} (t l : Nat) (bs : List Byte) (h : memWf s.mem = true) :
    memWf (memWith s t l bs) = true := by
  unfold memWith
  split <;> exact memWf_putBytes _ _ h

/-- A write to a location keeps the form. -/
theorem memWf_pokeLoc {s : State} (t l : Nat) (bs : List Byte) (h : memWf s.mem = true) :
    memWf (pokeLoc s t l bs).mem = true := memWf_memWith t l bs h

theorem memWf_writeLoc {s u : State} {t l : Nat} {bs : List Byte} (h : memWf s.mem = true)
    (e : writeLoc s t l bs = some u) : memWf u.mem = true := by
  unfold writeLoc at e
  simp only [] at e
  split at e
  · cases e
  · obtain rfl := Option.some.inj e
    exact memWf_pokeLoc t l bs h

/-- What the slices hold changes with an access, memory does not. -/
theorem useLines_rest (s : State) (cache l n : Nat) : { useLines s cache l n with slices := s.slices } = s := by
  have one : ∀ (v : State) (l : Nat), { useSlice v cache l with slices := v.slices } = v := by
    intro v l; unfold useSlice; split <;> rfl
  unfold useLines
  generalize List.range _ = ks
  induction ks generalizing s with
  | nil => rfl
  | cons k ks ih =>
    have e := congrArg (fun u : State => { u with slices := s.slices }) (ih (useSlice s cache (l / 128 * 128 + 128 * k)))
    exact e.trans (one s _)

@[simp] theorem useLines_mem (s : State) (cache l n : Nat) : (useLines s cache l n).mem = s.mem := by
  have e := congrArg State.mem (useLines_rest s cache l n)
  exact e

theorem memWf_savePut {s : State} (pages : List SavePage) (off : Nat) (bs : List Byte) (h : memWf s.mem = true) :
    memWf (savePut s pages off bs).mem = true := by
  unfold savePut
  simp only []
  generalize List.range _ = l
  induction l generalizing s with
  | nil => exact h
  | cons a t ih =>
    rw [List.foldl_cons]
    refine ih ?_
    have either : ∀ (c : Prop) [Decidable c] (u v : State), memWf u.mem = true → memWf v.mem = true →
        memWf (if c then u else v).mem = true := by
      intro c _ u v hu hv; split <;> assumption
    split
    · exact h
    · exact either _ _ _ h (memWf_pokeLoc _ _ _ (by rw [useLines_mem]; exact h))

theorem memWf_clearSpad {s : State} (core : Nat) (h : memWf s.mem = true) : memWf (clearSpad s core).mem = true :=
  memWf_filter _ h

/-- Reset's memory has the form. -/
theorem memWf_reset : memWf State.reset.mem = true := rfl

/-! ### What a write leaves as it was -/

/-- A state with the stored bytes of another and what goes with them: the lines the slices hold, the links to
them, what watches have seen, which words hold an error, and what a data cache knows of its lines. -/
def storedAs (u s : State) : State :=
  { u with
    mem := s.mem
    slices := s.slices
    dcache := s.dcache
    links := s.links
    watches := s.watches
    bad := s.bad }

/-- A write to memory changes the stored bytes and what goes with them. -/
theorem pokeLoc_rest (s : State) (t l : Nat) (bs : List Byte) : storedAs (pokeLoc s t l bs) s = s := rfl

theorem storedAs_pokeLoc (s v : State) (t l : Nat) (bs : List Byte) :
    storedAs (pokeLoc s t l bs) v = storedAs s v := rfl

theorem storedAs_useLines (s v : State) (cache l n : Nat) :
    storedAs (useLines s cache l n) v = storedAs s v := by
  have e := congrArg (fun w : State => storedAs w v) (useLines_rest s cache l n)
  exact e

@[simp] theorem pokeLoc_hart (s : State) (t l : Nat) (bs : List Byte) : (pokeLoc s t l bs).hart = s.hart := by
  have e := congrArg State.hart (pokeLoc_rest s t l bs)
  exact e

@[simp] theorem pokeLoc_disp (s : State) (t l : Nat) (bs : List Byte) : (pokeLoc s t l bs).disp = s.disp := by
  have e := congrArg State.disp (pokeLoc_rest s t l bs)
  exact e

@[simp] theorem pokeLoc_eng (s : State) (t l : Nat) (bs : List Byte) : (pokeLoc s t l bs).eng = s.eng := by
  have e := congrArg State.eng (pokeLoc_rest s t l bs)
  exact e

@[simp] theorem pokeLoc_tab (s : State) (t l : Nat) (bs : List Byte) : (pokeLoc s t l bs).tab = s.tab := by
  have e := congrArg State.tab (pokeLoc_rest s t l bs)
  exact e

@[simp] theorem pokeLoc_svc (s : State) (t l : Nat) (bs : List Byte) : (pokeLoc s t l bs).svc = s.svc := by
  have e := congrArg State.svc (pokeLoc_rest s t l bs)
  exact e

/-- The save area's writes change what a write to memory changes. -/
theorem savePut_rest (s : State) (pages : List SavePage) (off : Nat) (bs : List Byte) :
    storedAs (savePut s pages off bs) s = s := by
  unfold savePut
  simp only []
  generalize List.range _ = l
  have key : ∀ (l : List Nat) (u : State) (f : State → Nat → State), (∀ v i, storedAs (f v i) v = v) →
      storedAs (l.foldl f u) u = u := by
    intro l
    induction l with
    | nil => intro u f _; rfl
    | cons a t ih =>
      intro u f hf
      have e := congrArg (fun w : State => storedAs w u) (ih (f u a) f hf)
      exact e.trans (hf u a)
  have either : ∀ (c : Prop) [Decidable c] (u v : State), storedAs u v = v → storedAs (if c then v else u) v = v := by
    intro c _ u v h; split <;> first | rfl | exact h
  refine key l s _ fun v i => ?_
  split
  · rfl
  · refine either _ _ _ ?_
    rw [storedAs_pokeLoc, storedAs_useLines]
    rfl

@[simp] theorem savePut_hart (s : State) (pages : List SavePage) (off : Nat) (bs : List Byte) :
    (savePut s pages off bs).hart = s.hart := by
  have e := congrArg State.hart (savePut_rest s pages off bs)
  exact e

@[simp] theorem savePut_disp (s : State) (pages : List SavePage) (off : Nat) (bs : List Byte) :
    (savePut s pages off bs).disp = s.disp := by
  have e := congrArg State.disp (savePut_rest s pages off bs)
  exact e

@[simp] theorem savePut_svc (s : State) (pages : List SavePage) (off : Nat) (bs : List Byte) :
    (savePut s pages off bs).svc = s.svc := by
  have e := congrArg State.svc (savePut_rest s pages off bs)
  exact e

end Sys2Proof.Laws
end

