-- ==== Sys2Proof/Laws/State.lean ====
section
/-! SUPPORT. What each named update of the state leaves as it was: one lemma for each field, and what is read
back from the table an update writes. -/

namespace Sys2Proof.Laws

open Sys2Proof.Machine

set_option Elab.async false

/-! ### updH -/

section
variable (s : State) (f : Hart → Hart)
@[simp] theorem updH_others : (updH s f).others = s.others := rfl
@[simp] theorem updH_turn : (updH s f).turn = s.turn := rfl
@[simp] theorem updH_inputs : (updH s f).inputs = s.inputs := rfl
@[simp] theorem updH_ticks : (updH s f).ticks = s.ticks := rfl
@[simp] theorem updH_time : (updH s f).time = s.time := rfl
@[simp] theorem updH_mem : (updH s f).mem = s.mem := rfl
@[simp] theorem updH_bad : (updH s f).bad = s.bad := rfl
@[simp] theorem updH_eccCount : (updH s f).eccCount = s.eccCount := rfl
@[simp] theorem updH_icache : (updH s f).icache = s.icache := rfl
@[simp] theorem updH_dcache : (updH s f).dcache = s.dcache := rfl
@[simp] theorem updH_slices : (updH s f).slices = s.slices := rfl
@[simp] theorem updH_links : (updH s f).links = s.links := rfl
@[simp] theorem updH_watches : (updH s f).watches = s.watches := rfl
@[simp] theorem updH_vamos : (updH s f).vamos = s.vamos := rfl
@[simp] theorem updH_combine : (updH s f).combine = s.combine := rfl
@[simp] theorem updH_barriers : (updH s f).barriers = s.barriers := rfl
@[simp] theorem updH_arrivals : (updH s f).arrivals = s.arrivals := rfl
@[simp] theorem updH_pmc : (updH s f).pmc = s.pmc := rfl
@[simp] theorem updH_tetherUp : (updH s f).tetherUp = s.tetherUp := rfl
@[simp] theorem updH_twinRole : (updH s f).twinRole = s.twinRole := rfl
@[simp] theorem updH_meshHalf : (updH s f).meshHalf = s.meshHalf := rfl
@[simp] theorem updH_fenceReq : (updH s f).fenceReq = s.fenceReq := rfl
@[simp] theorem updH_replays : (updH s f).replays = s.replays := rfl
@[simp] theorem updH_disp : (updH s f).disp = s.disp := rfl
@[simp] theorem updH_tab : (updH s f).tab = s.tab := rfl
@[simp] theorem updH_eng : (updH s f).eng = s.eng := rfl
@[simp] theorem updH_svc : (updH s f).svc = s.svc := rfl
@[simp] theorem updH_free : (updH s f).free = s.free := rfl
@[simp] theorem updH_hart : (updH s f).hart = f s.hart := rfl
end

/-! ### jumpTo -/

section
variable (s : State) (t : BitVec 48)
@[simp] theorem jumpTo_others : (jumpTo s t).others = s.others := rfl
@[simp] theorem jumpTo_turn : (jumpTo s t).turn = s.turn := rfl
@[simp] theorem jumpTo_inputs : (jumpTo s t).inputs = s.inputs := rfl
@[simp] theorem jumpTo_ticks : (jumpTo s t).ticks = s.ticks := rfl
@[simp] theorem jumpTo_time : (jumpTo s t).time = s.time := rfl
@[simp] theorem jumpTo_mem : (jumpTo s t).mem = s.mem := rfl
@[simp] theorem jumpTo_bad : (jumpTo s t).bad = s.bad := rfl
@[simp] theorem jumpTo_eccCount : (jumpTo s t).eccCount = s.eccCount := rfl
@[simp] theorem jumpTo_icache : (jumpTo s t).icache = s.icache := rfl
@[simp] theorem jumpTo_dcache : (jumpTo s t).dcache = s.dcache := rfl
@[simp] theorem jumpTo_slices : (jumpTo s t).slices = s.slices := rfl
@[simp] theorem jumpTo_links : (jumpTo s t).links = s.links := rfl
@[simp] theorem jumpTo_watches : (jumpTo s t).watches = s.watches := rfl
@[simp] theorem jumpTo_vamos : (jumpTo s t).vamos = s.vamos := rfl
@[simp] theorem jumpTo_combine : (jumpTo s t).combine = s.combine := rfl
@[simp] theorem jumpTo_barriers : (jumpTo s t).barriers = s.barriers := rfl
@[simp] theorem jumpTo_arrivals : (jumpTo s t).arrivals = s.arrivals := rfl
@[simp] theorem jumpTo_pmc : (jumpTo s t).pmc = s.pmc := rfl
@[simp] theorem jumpTo_tetherUp : (jumpTo s t).tetherUp = s.tetherUp := rfl
@[simp] theorem jumpTo_twinRole : (jumpTo s t).twinRole = s.twinRole := rfl
@[simp] theorem jumpTo_meshHalf : (jumpTo s t).meshHalf = s.meshHalf := rfl
@[simp] theorem jumpTo_fenceReq : (jumpTo s t).fenceReq = s.fenceReq := rfl
@[simp] theorem jumpTo_replays : (jumpTo s t).replays = s.replays := rfl
@[simp] theorem jumpTo_disp : (jumpTo s t).disp = s.disp := rfl
@[simp] theorem jumpTo_tab : (jumpTo s t).tab = s.tab := rfl
@[simp] theorem jumpTo_eng : (jumpTo s t).eng = s.eng := rfl
@[simp] theorem jumpTo_svc : (jumpTo s t).svc = s.svc := rfl
@[simp] theorem jumpTo_free : (jumpTo s t).free = s.free := rfl
end

/-! ### mergeFlags -/

section
variable (s : State) (f : Flags)
@[simp] theorem mergeFlags_others : (mergeFlags s f).others = s.others := rfl
@[simp] theorem mergeFlags_turn : (mergeFlags s f).turn = s.turn := rfl
@[simp] theorem mergeFlags_inputs : (mergeFlags s f).inputs = s.inputs := rfl
@[simp] theorem mergeFlags_ticks : (mergeFlags s f).ticks = s.ticks := rfl
@[simp] theorem mergeFlags_time : (mergeFlags s f).time = s.time := rfl
@[simp] theorem mergeFlags_mem : (mergeFlags s f).mem = s.mem := rfl
@[simp] theorem mergeFlags_bad : (mergeFlags s f).bad = s.bad := rfl
@[simp] theorem mergeFlags_eccCount : (mergeFlags s f).eccCount = s.eccCount := rfl
@[simp] theorem mergeFlags_icache : (mergeFlags s f).icache = s.icache := rfl
@[simp] theorem mergeFlags_dcache : (mergeFlags s f).dcache = s.dcache := rfl
@[simp] theorem mergeFlags_slices : (mergeFlags s f).slices = s.slices := rfl
@[simp] theorem mergeFlags_links : (mergeFlags s f).links = s.links := rfl
@[simp] theorem mergeFlags_watches : (mergeFlags s f).watches = s.watches := rfl
@[simp] theorem mergeFlags_vamos : (mergeFlags s f).vamos = s.vamos := rfl
@[simp] theorem mergeFlags_combine : (mergeFlags s f).combine = s.combine := rfl
@[simp] theorem mergeFlags_barriers : (mergeFlags s f).barriers = s.barriers := rfl
@[simp] theorem mergeFlags_arrivals : (mergeFlags s f).arrivals = s.arrivals := rfl
@[simp] theorem mergeFlags_pmc : (mergeFlags s f).pmc = s.pmc := rfl
@[simp] theorem mergeFlags_tetherUp : (mergeFlags s f).tetherUp = s.tetherUp := rfl
@[simp] theorem mergeFlags_twinRole : (mergeFlags s f).twinRole = s.twinRole := rfl
@[simp] theorem mergeFlags_meshHalf : (mergeFlags s f).meshHalf = s.meshHalf := rfl
@[simp] theorem mergeFlags_fenceReq : (mergeFlags s f).fenceReq = s.fenceReq := rfl
@[simp] theorem mergeFlags_replays : (mergeFlags s f).replays = s.replays := rfl
@[simp] theorem mergeFlags_disp : (mergeFlags s f).disp = s.disp := rfl
@[simp] theorem mergeFlags_tab : (mergeFlags s f).tab = s.tab := rfl
@[simp] theorem mergeFlags_eng : (mergeFlags s f).eng = s.eng := rfl
@[simp] theorem mergeFlags_svc : (mergeFlags s f).svc = s.svc := rfl
@[simp] theorem mergeFlags_free : (mergeFlags s f).free = s.free := rfl
end

/-! ### putOther -/

section
variable (s : State) (key : Nat) (h : Hart)
@[simp] theorem putOther_hart : (putOther s key h).hart = s.hart := rfl
@[simp] theorem putOther_turn : (putOther s key h).turn = s.turn := rfl
@[simp] theorem putOther_inputs : (putOther s key h).inputs = s.inputs := rfl
@[simp] theorem putOther_ticks : (putOther s key h).ticks = s.ticks := rfl
@[simp] theorem putOther_time : (putOther s key h).time = s.time := rfl
@[simp] theorem putOther_mem : (putOther s key h).mem = s.mem := rfl
@[simp] theorem putOther_bad : (putOther s key h).bad = s.bad := rfl
@[simp] theorem putOther_eccCount : (putOther s key h).eccCount = s.eccCount := rfl
@[simp] theorem putOther_icache : (putOther s key h).icache = s.icache := rfl
@[simp] theorem putOther_dcache : (putOther s key h).dcache = s.dcache := rfl
@[simp] theorem putOther_slices : (putOther s key h).slices = s.slices := rfl
@[simp] theorem putOther_links : (putOther s key h).links = s.links := rfl
@[simp] theorem putOther_watches : (putOther s key h).watches = s.watches := rfl
@[simp] theorem putOther_vamos : (putOther s key h).vamos = s.vamos := rfl
@[simp] theorem putOther_combine : (putOther s key h).combine = s.combine := rfl
@[simp] theorem putOther_barriers : (putOther s key h).barriers = s.barriers := rfl
@[simp] theorem putOther_arrivals : (putOther s key h).arrivals = s.arrivals := rfl
@[simp] theorem putOther_pmc : (putOther s key h).pmc = s.pmc := rfl
@[simp] theorem putOther_tetherUp : (putOther s key h).tetherUp = s.tetherUp := rfl
@[simp] theorem putOther_twinRole : (putOther s key h).twinRole = s.twinRole := rfl
@[simp] theorem putOther_meshHalf : (putOther s key h).meshHalf = s.meshHalf := rfl
@[simp] theorem putOther_fenceReq : (putOther s key h).fenceReq = s.fenceReq := rfl
@[simp] theorem putOther_replays : (putOther s key h).replays = s.replays := rfl
@[simp] theorem putOther_disp : (putOther s key h).disp = s.disp := rfl
@[simp] theorem putOther_tab : (putOther s key h).tab = s.tab := rfl
@[simp] theorem putOther_eng : (putOther s key h).eng = s.eng := rfl
@[simp] theorem putOther_svc : (putOther s key h).svc = s.svc := rfl
@[simp] theorem putOther_free : (putOther s key h).free = s.free := rfl
end

/-! ### updTime -/

section
variable (s : State) (f : TimeUnit → TimeUnit)
@[simp] theorem updTime_hart : (updTime s f).hart = s.hart := rfl
@[simp] theorem updTime_others : (updTime s f).others = s.others := rfl
@[simp] theorem updTime_turn : (updTime s f).turn = s.turn := rfl
@[simp] theorem updTime_inputs : (updTime s f).inputs = s.inputs := rfl
@[simp] theorem updTime_ticks : (updTime s f).ticks = s.ticks := rfl
@[simp] theorem updTime_mem : (updTime s f).mem = s.mem := rfl
@[simp] theorem updTime_bad : (updTime s f).bad = s.bad := rfl
@[simp] theorem updTime_eccCount : (updTime s f).eccCount = s.eccCount := rfl
@[simp] theorem updTime_icache : (updTime s f).icache = s.icache := rfl
@[simp] theorem updTime_dcache : (updTime s f).dcache = s.dcache := rfl
@[simp] theorem updTime_slices : (updTime s f).slices = s.slices := rfl
@[simp] theorem updTime_links : (updTime s f).links = s.links := rfl
@[simp] theorem updTime_watches : (updTime s f).watches = s.watches := rfl
@[simp] theorem updTime_vamos : (updTime s f).vamos = s.vamos := rfl
@[simp] theorem updTime_combine : (updTime s f).combine = s.combine := rfl
@[simp] theorem updTime_barriers : (updTime s f).barriers = s.barriers := rfl
@[simp] theorem updTime_arrivals : (updTime s f).arrivals = s.arrivals := rfl
@[simp] theorem updTime_pmc : (updTime s f).pmc = s.pmc := rfl
@[simp] theorem updTime_tetherUp : (updTime s f).tetherUp = s.tetherUp := rfl
@[simp] theorem updTime_twinRole : (updTime s f).twinRole = s.twinRole := rfl
@[simp] theorem updTime_meshHalf : (updTime s f).meshHalf = s.meshHalf := rfl
@[simp] theorem updTime_fenceReq : (updTime s f).fenceReq = s.fenceReq := rfl
@[simp] theorem updTime_replays : (updTime s f).replays = s.replays := rfl
@[simp] theorem updTime_disp : (updTime s f).disp = s.disp := rfl
@[simp] theorem updTime_tab : (updTime s f).tab = s.tab := rfl
@[simp] theorem updTime_eng : (updTime s f).eng = s.eng := rfl
@[simp] theorem updTime_svc : (updTime s f).svc = s.svc := rfl
@[simp] theorem updTime_free : (updTime s f).free = s.free := rfl
end

/-! ### setBar -/

section
variable (s : State) (b : Nat) (x : Barrier)
@[simp] theorem setBar_hart : (setBar s b x).hart = s.hart := rfl
@[simp] theorem setBar_others : (setBar s b x).others = s.others := rfl
@[simp] theorem setBar_turn : (setBar s b x).turn = s.turn := rfl
@[simp] theorem setBar_inputs : (setBar s b x).inputs = s.inputs := rfl
@[simp] theorem setBar_ticks : (setBar s b x).ticks = s.ticks := rfl
@[simp] theorem setBar_time : (setBar s b x).time = s.time := rfl
@[simp] theorem setBar_mem : (setBar s b x).mem = s.mem := rfl
@[simp] theorem setBar_bad : (setBar s b x).bad = s.bad := rfl
@[simp] theorem setBar_eccCount : (setBar s b x).eccCount = s.eccCount := rfl
@[simp] theorem setBar_icache : (setBar s b x).icache = s.icache := rfl
@[simp] theorem setBar_dcache : (setBar s b x).dcache = s.dcache := rfl
@[simp] theorem setBar_slices : (setBar s b x).slices = s.slices := rfl
@[simp] theorem setBar_links : (setBar s b x).links = s.links := rfl
@[simp] theorem setBar_watches : (setBar s b x).watches = s.watches := rfl
@[simp] theorem setBar_vamos : (setBar s b x).vamos = s.vamos := rfl
@[simp] theorem setBar_combine : (setBar s b x).combine = s.combine := rfl
@[simp] theorem setBar_arrivals : (setBar s b x).arrivals = s.arrivals := rfl
@[simp] theorem setBar_pmc : (setBar s b x).pmc = s.pmc := rfl
@[simp] theorem setBar_tetherUp : (setBar s b x).tetherUp = s.tetherUp := rfl
@[simp] theorem setBar_twinRole : (setBar s b x).twinRole = s.twinRole := rfl
@[simp] theorem setBar_meshHalf : (setBar s b x).meshHalf = s.meshHalf := rfl
@[simp] theorem setBar_fenceReq : (setBar s b x).fenceReq = s.fenceReq := rfl
@[simp] theorem setBar_replays : (setBar s b x).replays = s.replays := rfl
@[simp] theorem setBar_disp : (setBar s b x).disp = s.disp := rfl
@[simp] theorem setBar_tab : (setBar s b x).tab = s.tab := rfl
@[simp] theorem setBar_eng : (setBar s b x).eng = s.eng := rfl
@[simp] theorem setBar_svc : (setBar s b x).svc = s.svc := rfl
@[simp] theorem setBar_free : (setBar s b x).free = s.free := rfl
end

/-! ### setCtr -/

section
variable (s : State) (n : Nat) (c : DepCounter)
@[simp] theorem setCtr_hart : (setCtr s n c).hart = s.hart := rfl
@[simp] theorem setCtr_others : (setCtr s n c).others = s.others := rfl
@[simp] theorem setCtr_turn : (setCtr s n c).turn = s.turn := rfl
@[simp] theorem setCtr_inputs : (setCtr s n c).inputs = s.inputs := rfl
@[simp] theorem setCtr_ticks : (setCtr s n c).ticks = s.ticks := rfl
@[simp] theorem setCtr_time : (setCtr s n c).time = s.time := rfl
@[simp] theorem setCtr_mem : (setCtr s n c).mem = s.mem := rfl
@[simp] theorem setCtr_bad : (setCtr s n c).bad = s.bad := rfl
@[simp] theorem setCtr_eccCount : (setCtr s n c).eccCount = s.eccCount := rfl
@[simp] theorem setCtr_icache : (setCtr s n c).icache = s.icache := rfl
@[simp] theorem setCtr_dcache : (setCtr s n c).dcache = s.dcache := rfl
@[simp] theorem setCtr_slices : (setCtr s n c).slices = s.slices := rfl
@[simp] theorem setCtr_links : (setCtr s n c).links = s.links := rfl
@[simp] theorem setCtr_watches : (setCtr s n c).watches = s.watches := rfl
@[simp] theorem setCtr_vamos : (setCtr s n c).vamos = s.vamos := rfl
@[simp] theorem setCtr_combine : (setCtr s n c).combine = s.combine := rfl
@[simp] theorem setCtr_barriers : (setCtr s n c).barriers = s.barriers := rfl
@[simp] theorem setCtr_arrivals : (setCtr s n c).arrivals = s.arrivals := rfl
@[simp] theorem setCtr_pmc : (setCtr s n c).pmc = s.pmc := rfl
@[simp] theorem setCtr_tetherUp : (setCtr s n c).tetherUp = s.tetherUp := rfl
@[simp] theorem setCtr_twinRole : (setCtr s n c).twinRole = s.twinRole := rfl
@[simp] theorem setCtr_meshHalf : (setCtr s n c).meshHalf = s.meshHalf := rfl
@[simp] theorem setCtr_fenceReq : (setCtr s n c).fenceReq = s.fenceReq := rfl
@[simp] theorem setCtr_replays : (setCtr s n c).replays = s.replays := rfl
@[simp] theorem setCtr_tab : (setCtr s n c).tab = s.tab := rfl
@[simp] theorem setCtr_eng : (setCtr s n c).eng = s.eng := rfl
@[simp] theorem setCtr_svc : (setCtr s n c).svc = s.svc := rfl
@[simp] theorem setCtr_free : (setCtr s n c).free = s.free := rfl
@[simp] theorem setCtr_disp_trees : (setCtr s n c).disp.trees = s.disp.trees := rfl
@[simp] theorem setCtr_disp_nextTree : (setCtr s n c).disp.nextTree = s.disp.nextTree := rfl
@[simp] theorem setCtr_disp_seqs : (setCtr s n c).disp.seqs = s.disp.seqs := rfl
@[simp] theorem setCtr_disp_pool : (setCtr s n c).disp.pool = s.disp.pool := rfl
@[simp] theorem setCtr_disp_queues : (setCtr s n c).disp.queues = s.disp.queues := rfl
@[simp] theorem setCtr_disp_tenantCredit : (setCtr s n c).disp.tenantCredit = s.disp.tenantCredit := rfl
@[simp] theorem setCtr_disp_queueCredit : (setCtr s n c).disp.queueCredit = s.disp.queueCredit := rfl
@[simp] theorem setCtr_disp_slots : (setCtr s n c).disp.slots = s.disp.slots := rfl
@[simp] theorem setCtr_disp_gangs : (setCtr s n c).disp.gangs = s.disp.gangs := rfl
@[simp] theorem setCtr_disp_saved : (setCtr s n c).disp.saved = s.disp.saved := rfl
@[simp] theorem setCtr_disp_reclaimAt : (setCtr s n c).disp.reclaimAt = s.disp.reclaimAt := rfl
@[simp] theorem setCtr_disp_setdl : (setCtr s n c).disp.setdl = s.disp.setdl := rfl
@[simp] theorem setCtr_disp_ready : (setCtr s n c).disp.ready = s.disp.ready := rfl
@[simp] theorem setCtr_disp_arrivals : (setCtr s n c).disp.arrivals = s.disp.arrivals := rfl
@[simp] theorem setCtr_disp_stealOwn : (setCtr s n c).disp.stealOwn = s.disp.stealOwn := rfl
@[simp] theorem setCtr_disp_stealOther : (setCtr s n c).disp.stealOther = s.disp.stealOther := rfl
@[simp] theorem setCtr_disp_stealAsked : (setCtr s n c).disp.stealAsked = s.disp.stealAsked := rfl
@[simp] theorem setCtr_disp_stealReq : (setCtr s n c).disp.stealReq = s.disp.stealReq := rfl
@[simp] theorem setCtr_disp_stealGrant : (setCtr s n c).disp.stealGrant = s.disp.stealGrant := rfl
@[simp] theorem setCtr_disp_lending : (setCtr s n c).disp.lending = s.disp.lending := rfl
@[simp] theorem setCtr_disp_reclaims : (setCtr s n c).disp.reclaims = s.disp.reclaims := rfl
@[simp] theorem setCtr_disp_imageArea : (setCtr s n c).disp.imageArea = s.disp.imageArea := rfl
end

/-! ### setTree -/

section
variable (s : State) (id : BitVec 32) (t : Tree)
@[simp] theorem setTree_hart : (setTree s id t).hart = s.hart := rfl
@[simp] theorem setTree_others : (setTree s id t).others = s.others := rfl
@[simp] theorem setTree_turn : (setTree s id t).turn = s.turn := rfl
@[simp] theorem setTree_inputs : (setTree s id t).inputs = s.inputs := rfl
@[simp] theorem setTree_ticks : (setTree s id t).ticks = s.ticks := rfl
@[simp] theorem setTree_time : (setTree s id t).time = s.time := rfl
@[simp] theorem setTree_mem : (setTree s id t).mem = s.mem := rfl
@[simp] theorem setTree_bad : (setTree s id t).bad = s.bad := rfl
@[simp] theorem setTree_eccCount : (setTree s id t).eccCount = s.eccCount := rfl
@[simp] theorem setTree_icache : (setTree s id t).icache = s.icache := rfl
@[simp] theorem setTree_dcache : (setTree s id t).dcache = s.dcache := rfl
@[simp] theorem setTree_slices : (setTree s id t).slices = s.slices := rfl
@[simp] theorem setTree_links : (setTree s id t).links = s.links := rfl
@[simp] theorem setTree_watches : (setTree s id t).watches = s.watches := rfl
@[simp] theorem setTree_vamos : (setTree s id t).vamos = s.vamos := rfl
@[simp] theorem setTree_combine : (setTree s id t).combine = s.combine := rfl
@[simp] theorem setTree_barriers : (setTree s id t).barriers = s.barriers := rfl
@[simp] theorem setTree_arrivals : (setTree s id t).arrivals = s.arrivals := rfl
@[simp] theorem setTree_pmc : (setTree s id t).pmc = s.pmc := rfl
@[simp] theorem setTree_tetherUp : (setTree s id t).tetherUp = s.tetherUp := rfl
@[simp] theorem setTree_twinRole : (setTree s id t).twinRole = s.twinRole := rfl
@[simp] theorem setTree_meshHalf : (setTree s id t).meshHalf = s.meshHalf := rfl
@[simp] theorem setTree_fenceReq : (setTree s id t).fenceReq = s.fenceReq := rfl
@[simp] theorem setTree_replays : (setTree s id t).replays = s.replays := rfl
@[simp] theorem setTree_tab : (setTree s id t).tab = s.tab := rfl
@[simp] theorem setTree_eng : (setTree s id t).eng = s.eng := rfl
@[simp] theorem setTree_svc : (setTree s id t).svc = s.svc := rfl
@[simp] theorem setTree_free : (setTree s id t).free = s.free := rfl
@[simp] theorem setTree_disp_nextTree : (setTree s id t).disp.nextTree = s.disp.nextTree := rfl
@[simp] theorem setTree_disp_seqs : (setTree s id t).disp.seqs = s.disp.seqs := rfl
@[simp] theorem setTree_disp_pool : (setTree s id t).disp.pool = s.disp.pool := rfl
@[simp] theorem setTree_disp_queues : (setTree s id t).disp.queues = s.disp.queues := rfl
@[simp] theorem setTree_disp_tenantCredit : (setTree s id t).disp.tenantCredit = s.disp.tenantCredit := rfl
@[simp] theorem setTree_disp_queueCredit : (setTree s id t).disp.queueCredit = s.disp.queueCredit := rfl
@[simp] theorem setTree_disp_slots : (setTree s id t).disp.slots = s.disp.slots := rfl
@[simp] theorem setTree_disp_counters : (setTree s id t).disp.counters = s.disp.counters := rfl
@[simp] theorem setTree_disp_gangs : (setTree s id t).disp.gangs = s.disp.gangs := rfl
@[simp] theorem setTree_disp_saved : (setTree s id t).disp.saved = s.disp.saved := rfl
@[simp] theorem setTree_disp_reclaimAt : (setTree s id t).disp.reclaimAt = s.disp.reclaimAt := rfl
@[simp] theorem setTree_disp_setdl : (setTree s id t).disp.setdl = s.disp.setdl := rfl
@[simp] theorem setTree_disp_ready : (setTree s id t).disp.ready = s.disp.ready := rfl
@[simp] theorem setTree_disp_arrivals : (setTree s id t).disp.arrivals = s.disp.arrivals := rfl
@[simp] theorem setTree_disp_stealOwn : (setTree s id t).disp.stealOwn = s.disp.stealOwn := rfl
@[simp] theorem setTree_disp_stealOther : (setTree s id t).disp.stealOther = s.disp.stealOther := rfl
@[simp] theorem setTree_disp_stealAsked : (setTree s id t).disp.stealAsked = s.disp.stealAsked := rfl
@[simp] theorem setTree_disp_stealReq : (setTree s id t).disp.stealReq = s.disp.stealReq := rfl
@[simp] theorem setTree_disp_stealGrant : (setTree s id t).disp.stealGrant = s.disp.stealGrant := rfl
@[simp] theorem setTree_disp_lending : (setTree s id t).disp.lending = s.disp.lending := rfl
@[simp] theorem setTree_disp_reclaims : (setTree s id t).disp.reclaims = s.disp.reclaims := rfl
@[simp] theorem setTree_disp_imageArea : (setTree s id t).disp.imageArea = s.disp.imageArea := rfl
end

/-! ### setReady -/

section
variable (s : State) (core : Nat) (l : List Job)
@[simp] theorem setReady_hart : (setReady s core l).hart = s.hart := rfl
@[simp] theorem setReady_others : (setReady s core l).others = s.others := rfl
@[simp] theorem setReady_turn : (setReady s core l).turn = s.turn := rfl
@[simp] theorem setReady_inputs : (setReady s core l).inputs = s.inputs := rfl
@[simp] theorem setReady_ticks : (setReady s core l).ticks = s.ticks := rfl
@[simp] theorem setReady_time : (setReady s core l).time = s.time := rfl
@[simp] theorem setReady_mem : (setReady s core l).mem = s.mem := rfl
@[simp] theorem setReady_bad : (setReady s core l).bad = s.bad := rfl
@[simp] theorem setReady_eccCount : (setReady s core l).eccCount = s.eccCount := rfl
@[simp] theorem setReady_icache : (setReady s core l).icache = s.icache := rfl
@[simp] theorem setReady_dcache : (setReady s core l).dcache = s.dcache := rfl
@[simp] theorem setReady_slices : (setReady s core l).slices = s.slices := rfl
@[simp] theorem setReady_links : (setReady s core l).links = s.links := rfl
@[simp] theorem setReady_watches : (setReady s core l).watches = s.watches := rfl
@[simp] theorem setReady_vamos : (setReady s core l).vamos = s.vamos := rfl
@[simp] theorem setReady_combine : (setReady s core l).combine = s.combine := rfl
@[simp] theorem setReady_barriers : (setReady s core l).barriers = s.barriers := rfl
@[simp] theorem setReady_arrivals : (setReady s core l).arrivals = s.arrivals := rfl
@[simp] theorem setReady_pmc : (setReady s core l).pmc = s.pmc := rfl
@[simp] theorem setReady_tetherUp : (setReady s core l).tetherUp = s.tetherUp := rfl
@[simp] theorem setReady_twinRole : (setReady s core l).twinRole = s.twinRole := rfl
@[simp] theorem setReady_meshHalf : (setReady s core l).meshHalf = s.meshHalf := rfl
@[simp] theorem setReady_fenceReq : (setReady s core l).fenceReq = s.fenceReq := rfl
@[simp] theorem setReady_replays : (setReady s core l).replays = s.replays := rfl
@[simp] theorem setReady_tab : (setReady s core l).tab = s.tab := rfl
@[simp] theorem setReady_eng : (setReady s core l).eng = s.eng := rfl
@[simp] theorem setReady_svc : (setReady s core l).svc = s.svc := rfl
@[simp] theorem setReady_free : (setReady s core l).free = s.free := rfl
@[simp] theorem setReady_disp_trees : (setReady s core l).disp.trees = s.disp.trees := rfl
@[simp] theorem setReady_disp_nextTree : (setReady s core l).disp.nextTree = s.disp.nextTree := rfl
@[simp] theorem setReady_disp_seqs : (setReady s core l).disp.seqs = s.disp.seqs := rfl
@[simp] theorem setReady_disp_pool : (setReady s core l).disp.pool = s.disp.pool := rfl
@[simp] theorem setReady_disp_queues : (setReady s core l).disp.queues = s.disp.queues := rfl
@[simp] theorem setReady_disp_tenantCredit : (setReady s core l).disp.tenantCredit = s.disp.tenantCredit := rfl
@[simp] theorem setReady_disp_queueCredit : (setReady s core l).disp.queueCredit = s.disp.queueCredit := rfl
@[simp] theorem setReady_disp_slots : (setReady s core l).disp.slots = s.disp.slots := rfl
@[simp] theorem setReady_disp_counters : (setReady s core l).disp.counters = s.disp.counters := rfl
@[simp] theorem setReady_disp_gangs : (setReady s core l).disp.gangs = s.disp.gangs := rfl
@[simp] theorem setReady_disp_saved : (setReady s core l).disp.saved = s.disp.saved := rfl
@[simp] theorem setReady_disp_reclaimAt : (setReady s core l).disp.reclaimAt = s.disp.reclaimAt := rfl
@[simp] theorem setReady_disp_setdl : (setReady s core l).disp.setdl = s.disp.setdl := rfl
@[simp] theorem setReady_disp_arrivals : (setReady s core l).disp.arrivals = s.disp.arrivals := rfl
@[simp] theorem setReady_disp_stealOwn : (setReady s core l).disp.stealOwn = s.disp.stealOwn := rfl
@[simp] theorem setReady_disp_stealOther : (setReady s core l).disp.stealOther = s.disp.stealOther := rfl
@[simp] theorem setReady_disp_stealAsked : (setReady s core l).disp.stealAsked = s.disp.stealAsked := rfl
@[simp] theorem setReady_disp_stealReq : (setReady s core l).disp.stealReq = s.disp.stealReq := rfl
@[simp] theorem setReady_disp_stealGrant : (setReady s core l).disp.stealGrant = s.disp.stealGrant := rfl
@[simp] theorem setReady_disp_lending : (setReady s core l).disp.lending = s.disp.lending := rfl
@[simp] theorem setReady_disp_reclaims : (setReady s core l).disp.reclaims = s.disp.reclaims := rfl
@[simp] theorem setReady_disp_imageArea : (setReady s core l).disp.imageArea = s.disp.imageArea := rfl
end

/-! ### setQ -/

section
variable (s : State) (q : Nat) (l : LaunchQ)
@[simp] theorem setQ_hart : (setQ s q l).hart = s.hart := rfl
@[simp] theorem setQ_others : (setQ s q l).others = s.others := rfl
@[simp] theorem setQ_turn : (setQ s q l).turn = s.turn := rfl
@[simp] theorem setQ_inputs : (setQ s q l).inputs = s.inputs := rfl
@[simp] theorem setQ_ticks : (setQ s q l).ticks = s.ticks := rfl
@[simp] theorem setQ_time : (setQ s q l).time = s.time := rfl
@[simp] theorem setQ_mem : (setQ s q l).mem = s.mem := rfl
@[simp] theorem setQ_bad : (setQ s q l).bad = s.bad := rfl
@[simp] theorem setQ_eccCount : (setQ s q l).eccCount = s.eccCount := rfl
@[simp] theorem setQ_icache : (setQ s q l).icache = s.icache := rfl
@[simp] theorem setQ_dcache : (setQ s q l).dcache = s.dcache := rfl
@[simp] theorem setQ_slices : (setQ s q l).slices = s.slices := rfl
@[simp] theorem setQ_links : (setQ s q l).links = s.links := rfl
@[simp] theorem setQ_watches : (setQ s q l).watches = s.watches := rfl
@[simp] theorem setQ_vamos : (setQ s q l).vamos = s.vamos := rfl
@[simp] theorem setQ_combine : (setQ s q l).combine = s.combine := rfl
@[simp] theorem setQ_barriers : (setQ s q l).barriers = s.barriers := rfl
@[simp] theorem setQ_arrivals : (setQ s q l).arrivals = s.arrivals := rfl
@[simp] theorem setQ_pmc : (setQ s q l).pmc = s.pmc := rfl
@[simp] theorem setQ_tetherUp : (setQ s q l).tetherUp = s.tetherUp := rfl
@[simp] theorem setQ_twinRole : (setQ s q l).twinRole = s.twinRole := rfl
@[simp] theorem setQ_meshHalf : (setQ s q l).meshHalf = s.meshHalf := rfl
@[simp] theorem setQ_fenceReq : (setQ s q l).fenceReq = s.fenceReq := rfl
@[simp] theorem setQ_replays : (setQ s q l).replays = s.replays := rfl
@[simp] theorem setQ_tab : (setQ s q l).tab = s.tab := rfl
@[simp] theorem setQ_eng : (setQ s q l).eng = s.eng := rfl
@[simp] theorem setQ_svc : (setQ s q l).svc = s.svc := rfl
@[simp] theorem setQ_free : (setQ s q l).free = s.free := rfl
@[simp] theorem setQ_disp_trees : (setQ s q l).disp.trees = s.disp.trees := rfl
@[simp] theorem setQ_disp_nextTree : (setQ s q l).disp.nextTree = s.disp.nextTree := rfl
@[simp] theorem setQ_disp_seqs : (setQ s q l).disp.seqs = s.disp.seqs := rfl
@[simp] theorem setQ_disp_pool : (setQ s q l).disp.pool = s.disp.pool := rfl
@[simp] theorem setQ_disp_tenantCredit : (setQ s q l).disp.tenantCredit = s.disp.tenantCredit := rfl
@[simp] theorem setQ_disp_queueCredit : (setQ s q l).disp.queueCredit = s.disp.queueCredit := rfl
@[simp] theorem setQ_disp_slots : (setQ s q l).disp.slots = s.disp.slots := rfl
@[simp] theorem setQ_disp_counters : (setQ s q l).disp.counters = s.disp.counters := rfl
@[simp] theorem setQ_disp_gangs : (setQ s q l).disp.gangs = s.disp.gangs := rfl
@[simp] theorem setQ_disp_saved : (setQ s q l).disp.saved = s.disp.saved := rfl
@[simp] theorem setQ_disp_reclaimAt : (setQ s q l).disp.reclaimAt = s.disp.reclaimAt := rfl
@[simp] theorem setQ_disp_setdl : (setQ s q l).disp.setdl = s.disp.setdl := rfl
@[simp] theorem setQ_disp_ready : (setQ s q l).disp.ready = s.disp.ready := rfl
@[simp] theorem setQ_disp_arrivals : (setQ s q l).disp.arrivals = s.disp.arrivals := rfl
@[simp] theorem setQ_disp_stealOwn : (setQ s q l).disp.stealOwn = s.disp.stealOwn := rfl
@[simp] theorem setQ_disp_stealOther : (setQ s q l).disp.stealOther = s.disp.stealOther := rfl
@[simp] theorem setQ_disp_stealAsked : (setQ s q l).disp.stealAsked = s.disp.stealAsked := rfl
@[simp] theorem setQ_disp_stealReq : (setQ s q l).disp.stealReq = s.disp.stealReq := rfl
@[simp] theorem setQ_disp_stealGrant : (setQ s q l).disp.stealGrant = s.disp.stealGrant := rfl
@[simp] theorem setQ_disp_lending : (setQ s q l).disp.lending = s.disp.lending := rfl
@[simp] theorem setQ_disp_reclaims : (setQ s q l).disp.reclaims = s.disp.reclaims := rfl
@[simp] theorem setQ_disp_imageArea : (setQ s q l).disp.imageArea = s.disp.imageArea := rfl
end

/-! ### setSlot -/

section
variable (s : State) (n : Nat) (e : Slot)
@[simp] theorem setSlot_hart : (setSlot s n e).hart = s.hart := rfl
@[simp] theorem setSlot_others : (setSlot s n e).others = s.others := rfl
@[simp] theorem setSlot_turn : (setSlot s n e).turn = s.turn := rfl
@[simp] theorem setSlot_inputs : (setSlot s n e).inputs = s.inputs := rfl
@[simp] theorem setSlot_ticks : (setSlot s n e).ticks = s.ticks := rfl
@[simp] theorem setSlot_time : (setSlot s n e).time = s.time := rfl
@[simp] theorem setSlot_mem : (setSlot s n e).mem = s.mem := rfl
@[simp] theorem setSlot_bad : (setSlot s n e).bad = s.bad := rfl
@[simp] theorem setSlot_eccCount : (setSlot s n e).eccCount = s.eccCount := rfl
@[simp] theorem setSlot_icache : (setSlot s n e).icache = s.icache := rfl
@[simp] theorem setSlot_dcache : (setSlot s n e).dcache = s.dcache := rfl
@[simp] theorem setSlot_slices : (setSlot s n e).slices = s.slices := rfl
@[simp] theorem setSlot_links : (setSlot s n e).links = s.links := rfl
@[simp] theorem setSlot_watches : (setSlot s n e).watches = s.watches := rfl
@[simp] theorem setSlot_vamos : (setSlot s n e).vamos = s.vamos := rfl
@[simp] theorem setSlot_combine : (setSlot s n e).combine = s.combine := rfl
@[simp] theorem setSlot_barriers : (setSlot s n e).barriers = s.barriers := rfl
@[simp] theorem setSlot_arrivals : (setSlot s n e).arrivals = s.arrivals := rfl
@[simp] theorem setSlot_pmc : (setSlot s n e).pmc = s.pmc := rfl
@[simp] theorem setSlot_tetherUp : (setSlot s n e).tetherUp = s.tetherUp := rfl
@[simp] theorem setSlot_twinRole : (setSlot s n e).twinRole = s.twinRole := rfl
@[simp] theorem setSlot_meshHalf : (setSlot s n e).meshHalf = s.meshHalf := rfl
@[simp] theorem setSlot_fenceReq : (setSlot s n e).fenceReq = s.fenceReq := rfl
@[simp] theorem setSlot_replays : (setSlot s n e).replays = s.replays := rfl
@[simp] theorem setSlot_tab : (setSlot s n e).tab = s.tab := rfl
@[simp] theorem setSlot_eng : (setSlot s n e).eng = s.eng := rfl
@[simp] theorem setSlot_svc : (setSlot s n e).svc = s.svc := rfl
@[simp] theorem setSlot_free : (setSlot s n e).free = s.free := rfl
@[simp] theorem setSlot_disp_trees : (setSlot s n e).disp.trees = s.disp.trees := rfl
@[simp] theorem setSlot_disp_nextTree : (setSlot s n e).disp.nextTree = s.disp.nextTree := rfl
@[simp] theorem setSlot_disp_seqs : (setSlot s n e).disp.seqs = s.disp.seqs := rfl
@[simp] theorem setSlot_disp_pool : (setSlot s n e).disp.pool = s.disp.pool := rfl
@[simp] theorem setSlot_disp_queues : (setSlot s n e).disp.queues = s.disp.queues := rfl
@[simp] theorem setSlot_disp_tenantCredit : (setSlot s n e).disp.tenantCredit = s.disp.tenantCredit := rfl
@[simp] theorem setSlot_disp_queueCredit : (setSlot s n e).disp.queueCredit = s.disp.queueCredit := rfl
@[simp] theorem setSlot_disp_counters : (setSlot s n e).disp.counters = s.disp.counters := rfl
@[simp] theorem setSlot_disp_gangs : (setSlot s n e).disp.gangs = s.disp.gangs := rfl
@[simp] theorem setSlot_disp_saved : (setSlot s n e).disp.saved = s.disp.saved := rfl
@[simp] theorem setSlot_disp_reclaimAt : (setSlot s n e).disp.reclaimAt = s.disp.reclaimAt := rfl
@[simp] theorem setSlot_disp_setdl : (setSlot s n e).disp.setdl = s.disp.setdl := rfl
@[simp] theorem setSlot_disp_ready : (setSlot s n e).disp.ready = s.disp.ready := rfl
@[simp] theorem setSlot_disp_arrivals : (setSlot s n e).disp.arrivals = s.disp.arrivals := rfl
@[simp] theorem setSlot_disp_stealOwn : (setSlot s n e).disp.stealOwn = s.disp.stealOwn := rfl
@[simp] theorem setSlot_disp_stealOther : (setSlot s n e).disp.stealOther = s.disp.stealOther := rfl
@[simp] theorem setSlot_disp_stealAsked : (setSlot s n e).disp.stealAsked = s.disp.stealAsked := rfl
@[simp] theorem setSlot_disp_stealReq : (setSlot s n e).disp.stealReq = s.disp.stealReq := rfl
@[simp] theorem setSlot_disp_stealGrant : (setSlot s n e).disp.stealGrant = s.disp.stealGrant := rfl
@[simp] theorem setSlot_disp_lending : (setSlot s n e).disp.lending = s.disp.lending := rfl
@[simp] theorem setSlot_disp_reclaims : (setSlot s n e).disp.reclaims = s.disp.reclaims := rfl
@[simp] theorem setSlot_disp_imageArea : (setSlot s n e).disp.imageArea = s.disp.imageArea := rfl
end

/-! ### pushPool -/

section
variable (s : State) (j : Job)
@[simp] theorem pushPool_hart : (pushPool s j).hart = s.hart := rfl
@[simp] theorem pushPool_others : (pushPool s j).others = s.others := rfl
@[simp] theorem pushPool_turn : (pushPool s j).turn = s.turn := rfl
@[simp] theorem pushPool_inputs : (pushPool s j).inputs = s.inputs := rfl
@[simp] theorem pushPool_ticks : (pushPool s j).ticks = s.ticks := rfl
@[simp] theorem pushPool_time : (pushPool s j).time = s.time := rfl
@[simp] theorem pushPool_mem : (pushPool s j).mem = s.mem := rfl
@[simp] theorem pushPool_bad : (pushPool s j).bad = s.bad := rfl
@[simp] theorem pushPool_eccCount : (pushPool s j).eccCount = s.eccCount := rfl
@[simp] theorem pushPool_icache : (pushPool s j).icache = s.icache := rfl
@[simp] theorem pushPool_dcache : (pushPool s j).dcache = s.dcache := rfl
@[simp] theorem pushPool_slices : (pushPool s j).slices = s.slices := rfl
@[simp] theorem pushPool_links : (pushPool s j).links = s.links := rfl
@[simp] theorem pushPool_watches : (pushPool s j).watches = s.watches := rfl
@[simp] theorem pushPool_vamos : (pushPool s j).vamos = s.vamos := rfl
@[simp] theorem pushPool_combine : (pushPool s j).combine = s.combine := rfl
@[simp] theorem pushPool_barriers : (pushPool s j).barriers = s.barriers := rfl
@[simp] theorem pushPool_arrivals : (pushPool s j).arrivals = s.arrivals := rfl
@[simp] theorem pushPool_pmc : (pushPool s j).pmc = s.pmc := rfl
@[simp] theorem pushPool_tetherUp : (pushPool s j).tetherUp = s.tetherUp := rfl
@[simp] theorem pushPool_twinRole : (pushPool s j).twinRole = s.twinRole := rfl
@[simp] theorem pushPool_meshHalf : (pushPool s j).meshHalf = s.meshHalf := rfl
@[simp] theorem pushPool_fenceReq : (pushPool s j).fenceReq = s.fenceReq := rfl
@[simp] theorem pushPool_replays : (pushPool s j).replays = s.replays := rfl
@[simp] theorem pushPool_tab : (pushPool s j).tab = s.tab := rfl
@[simp] theorem pushPool_eng : (pushPool s j).eng = s.eng := rfl
@[simp] theorem pushPool_svc : (pushPool s j).svc = s.svc := rfl
@[simp] theorem pushPool_free : (pushPool s j).free = s.free := rfl
@[simp] theorem pushPool_disp_trees : (pushPool s j).disp.trees = s.disp.trees := rfl
@[simp] theorem pushPool_disp_nextTree : (pushPool s j).disp.nextTree = s.disp.nextTree := rfl
@[simp] theorem pushPool_disp_seqs : (pushPool s j).disp.seqs = s.disp.seqs := rfl
@[simp] theorem pushPool_disp_queues : (pushPool s j).disp.queues = s.disp.queues := rfl
@[simp] theorem pushPool_disp_tenantCredit : (pushPool s j).disp.tenantCredit = s.disp.tenantCredit := rfl
@[simp] theorem pushPool_disp_queueCredit : (pushPool s j).disp.queueCredit = s.disp.queueCredit := rfl
@[simp] theorem pushPool_disp_slots : (pushPool s j).disp.slots = s.disp.slots := rfl
@[simp] theorem pushPool_disp_counters : (pushPool s j).disp.counters = s.disp.counters := rfl
@[simp] theorem pushPool_disp_gangs : (pushPool s j).disp.gangs = s.disp.gangs := rfl
@[simp] theorem pushPool_disp_saved : (pushPool s j).disp.saved = s.disp.saved := rfl
@[simp] theorem pushPool_disp_reclaimAt : (pushPool s j).disp.reclaimAt = s.disp.reclaimAt := rfl
@[simp] theorem pushPool_disp_setdl : (pushPool s j).disp.setdl = s.disp.setdl := rfl
@[simp] theorem pushPool_disp_ready : (pushPool s j).disp.ready = s.disp.ready := rfl
@[simp] theorem pushPool_disp_arrivals : (pushPool s j).disp.arrivals = s.disp.arrivals := rfl
@[simp] theorem pushPool_disp_stealOwn : (pushPool s j).disp.stealOwn = s.disp.stealOwn := rfl
@[simp] theorem pushPool_disp_stealOther : (pushPool s j).disp.stealOther = s.disp.stealOther := rfl
@[simp] theorem pushPool_disp_stealAsked : (pushPool s j).disp.stealAsked = s.disp.stealAsked := rfl
@[simp] theorem pushPool_disp_stealReq : (pushPool s j).disp.stealReq = s.disp.stealReq := rfl
@[simp] theorem pushPool_disp_stealGrant : (pushPool s j).disp.stealGrant = s.disp.stealGrant := rfl
@[simp] theorem pushPool_disp_lending : (pushPool s j).disp.lending = s.disp.lending := rfl
@[simp] theorem pushPool_disp_reclaims : (pushPool s j).disp.reclaims = s.disp.reclaims := rfl
@[simp] theorem pushPool_disp_imageArea : (pushPool s j).disp.imageArea = s.disp.imageArea := rfl
end

/-! ### setCore -/

section
variable (s : State) (core : Nat) (e : CoreEntry)
@[simp] theorem setCore_hart : (setCore s core e).hart = s.hart := rfl
@[simp] theorem setCore_others : (setCore s core e).others = s.others := rfl
@[simp] theorem setCore_turn : (setCore s core e).turn = s.turn := rfl
@[simp] theorem setCore_inputs : (setCore s core e).inputs = s.inputs := rfl
@[simp] theorem setCore_ticks : (setCore s core e).ticks = s.ticks := rfl
@[simp] theorem setCore_time : (setCore s core e).time = s.time := rfl
@[simp] theorem setCore_mem : (setCore s core e).mem = s.mem := rfl
@[simp] theorem setCore_bad : (setCore s core e).bad = s.bad := rfl
@[simp] theorem setCore_eccCount : (setCore s core e).eccCount = s.eccCount := rfl
@[simp] theorem setCore_icache : (setCore s core e).icache = s.icache := rfl
@[simp] theorem setCore_dcache : (setCore s core e).dcache = s.dcache := rfl
@[simp] theorem setCore_slices : (setCore s core e).slices = s.slices := rfl
@[simp] theorem setCore_links : (setCore s core e).links = s.links := rfl
@[simp] theorem setCore_watches : (setCore s core e).watches = s.watches := rfl
@[simp] theorem setCore_vamos : (setCore s core e).vamos = s.vamos := rfl
@[simp] theorem setCore_combine : (setCore s core e).combine = s.combine := rfl
@[simp] theorem setCore_barriers : (setCore s core e).barriers = s.barriers := rfl
@[simp] theorem setCore_arrivals : (setCore s core e).arrivals = s.arrivals := rfl
@[simp] theorem setCore_pmc : (setCore s core e).pmc = s.pmc := rfl
@[simp] theorem setCore_tetherUp : (setCore s core e).tetherUp = s.tetherUp := rfl
@[simp] theorem setCore_twinRole : (setCore s core e).twinRole = s.twinRole := rfl
@[simp] theorem setCore_meshHalf : (setCore s core e).meshHalf = s.meshHalf := rfl
@[simp] theorem setCore_fenceReq : (setCore s core e).fenceReq = s.fenceReq := rfl
@[simp] theorem setCore_replays : (setCore s core e).replays = s.replays := rfl
@[simp] theorem setCore_disp : (setCore s core e).disp = s.disp := rfl
@[simp] theorem setCore_eng : (setCore s core e).eng = s.eng := rfl
@[simp] theorem setCore_svc : (setCore s core e).svc = s.svc := rfl
@[simp] theorem setCore_free : (setCore s core e).free = s.free := rfl
@[simp] theorem setCore_tab_tenants : (setCore s core e).tab.tenants = s.tab.tenants := rfl
@[simp] theorem setCore_tab_twinCores : (setCore s core e).tab.twinCores = s.tab.twinCores := rfl
@[simp] theorem setCore_tab_keys : (setCore s core e).tab.keys = s.tab.keys := rfl
@[simp] theorem setCore_tab_routes : (setCore s core e).tab.routes = s.tab.routes := rfl
@[simp] theorem setCore_tab_coreTlb : (setCore s core e).tab.coreTlb = s.tab.coreTlb := rfl
@[simp] theorem setCore_tab_groupTlb : (setCore s core e).tab.groupTlb = s.tab.groupTlb := rfl
@[simp] theorem setCore_tab_walks : (setCore s core e).tab.walks = s.tab.walks := rfl
@[simp] theorem setCore_tab_ats : (setCore s core e).tab.ats = s.tab.ats := rfl
@[simp] theorem setCore_tab_faults : (setCore s core e).tab.faults = s.tab.faults := rfl
@[simp] theorem setCore_tab_pri : (setCore s core e).tab.pri = s.tab.pri := rfl
@[simp] theorem setCore_tab_priOff : (setCore s core e).tab.priOff = s.tab.priOff := rfl
@[simp] theorem setCore_tab_priSerial : (setCore s core e).tab.priSerial = s.tab.priSerial := rfl
@[simp] theorem setCore_tab_priAlloc : (setCore s core e).tab.priAlloc = s.tab.priAlloc := rfl
@[simp] theorem setCore_tab_invals : (setCore s core e).tab.invals = s.tab.invals := rfl
@[simp] theorem setCore_tab_invalSerial : (setCore s core e).tab.invalSerial = s.tab.invalSerial := rfl
@[simp] theorem setCore_tab_invalDone : (setCore s core e).tab.invalDone = s.tab.invalDone := rfl
end

/-! ### fillCore -/

section
variable (s : State) (core : Nat) (e : TlbEntry)
@[simp] theorem fillCore_hart : (fillCore s core e).hart = s.hart := rfl
@[simp] theorem fillCore_others : (fillCore s core e).others = s.others := rfl
@[simp] theorem fillCore_turn : (fillCore s core e).turn = s.turn := rfl
@[simp] theorem fillCore_inputs : (fillCore s core e).inputs = s.inputs := rfl
@[simp] theorem fillCore_ticks : (fillCore s core e).ticks = s.ticks := rfl
@[simp] theorem fillCore_time : (fillCore s core e).time = s.time := rfl
@[simp] theorem fillCore_mem : (fillCore s core e).mem = s.mem := rfl
@[simp] theorem fillCore_bad : (fillCore s core e).bad = s.bad := rfl
@[simp] theorem fillCore_eccCount : (fillCore s core e).eccCount = s.eccCount := rfl
@[simp] theorem fillCore_icache : (fillCore s core e).icache = s.icache := rfl
@[simp] theorem fillCore_dcache : (fillCore s core e).dcache = s.dcache := rfl
@[simp] theorem fillCore_slices : (fillCore s core e).slices = s.slices := rfl
@[simp] theorem fillCore_links : (fillCore s core e).links = s.links := rfl
@[simp] theorem fillCore_watches : (fillCore s core e).watches = s.watches := rfl
@[simp] theorem fillCore_vamos : (fillCore s core e).vamos = s.vamos := rfl
@[simp] theorem fillCore_combine : (fillCore s core e).combine = s.combine := rfl
@[simp] theorem fillCore_barriers : (fillCore s core e).barriers = s.barriers := rfl
@[simp] theorem fillCore_arrivals : (fillCore s core e).arrivals = s.arrivals := rfl
@[simp] theorem fillCore_pmc : (fillCore s core e).pmc = s.pmc := rfl
@[simp] theorem fillCore_tetherUp : (fillCore s core e).tetherUp = s.tetherUp := rfl
@[simp] theorem fillCore_twinRole : (fillCore s core e).twinRole = s.twinRole := rfl
@[simp] theorem fillCore_meshHalf : (fillCore s core e).meshHalf = s.meshHalf := rfl
@[simp] theorem fillCore_fenceReq : (fillCore s core e).fenceReq = s.fenceReq := rfl
@[simp] theorem fillCore_replays : (fillCore s core e).replays = s.replays := rfl
@[simp] theorem fillCore_disp : (fillCore s core e).disp = s.disp := rfl
@[simp] theorem fillCore_eng : (fillCore s core e).eng = s.eng := rfl
@[simp] theorem fillCore_svc : (fillCore s core e).svc = s.svc := rfl
@[simp] theorem fillCore_free : (fillCore s core e).free = s.free := rfl
@[simp] theorem fillCore_tab_tenants : (fillCore s core e).tab.tenants = s.tab.tenants := rfl
@[simp] theorem fillCore_tab_cores : (fillCore s core e).tab.cores = s.tab.cores := rfl
@[simp] theorem fillCore_tab_twinCores : (fillCore s core e).tab.twinCores = s.tab.twinCores := rfl
@[simp] theorem fillCore_tab_keys : (fillCore s core e).tab.keys = s.tab.keys := rfl
@[simp] theorem fillCore_tab_routes : (fillCore s core e).tab.routes = s.tab.routes := rfl
@[simp] theorem fillCore_tab_groupTlb : (fillCore s core e).tab.groupTlb = s.tab.groupTlb := rfl
@[simp] theorem fillCore_tab_walks : (fillCore s core e).tab.walks = s.tab.walks := rfl
@[simp] theorem fillCore_tab_ats : (fillCore s core e).tab.ats = s.tab.ats := rfl
@[simp] theorem fillCore_tab_faults : (fillCore s core e).tab.faults = s.tab.faults := rfl
@[simp] theorem fillCore_tab_pri : (fillCore s core e).tab.pri = s.tab.pri := rfl
@[simp] theorem fillCore_tab_priOff : (fillCore s core e).tab.priOff = s.tab.priOff := rfl
@[simp] theorem fillCore_tab_priSerial : (fillCore s core e).tab.priSerial = s.tab.priSerial := rfl
@[simp] theorem fillCore_tab_priAlloc : (fillCore s core e).tab.priAlloc = s.tab.priAlloc := rfl
@[simp] theorem fillCore_tab_invals : (fillCore s core e).tab.invals = s.tab.invals := rfl
@[simp] theorem fillCore_tab_invalSerial : (fillCore s core e).tab.invalSerial = s.tab.invalSerial := rfl
@[simp] theorem fillCore_tab_invalDone : (fillCore s core e).tab.invalDone = s.tab.invalDone := rfl
end

/-! ### fillGroup -/

section
variable (s : State) (group : Nat) (e : TlbEntry)
@[simp] theorem fillGroup_hart : (fillGroup s group e).hart = s.hart := rfl
@[simp] theorem fillGroup_others : (fillGroup s group e).others = s.others := rfl
@[simp] theorem fillGroup_turn : (fillGroup s group e).turn = s.turn := rfl
@[simp] theorem fillGroup_inputs : (fillGroup s group e).inputs = s.inputs := rfl
@[simp] theorem fillGroup_ticks : (fillGroup s group e).ticks = s.ticks := rfl
@[simp] theorem fillGroup_time : (fillGroup s group e).time = s.time := rfl
@[simp] theorem fillGroup_mem : (fillGroup s group e).mem = s.mem := rfl
@[simp] theorem fillGroup_bad : (fillGroup s group e).bad = s.bad := rfl
@[simp] theorem fillGroup_eccCount : (fillGroup s group e).eccCount = s.eccCount := rfl
@[simp] theorem fillGroup_icache : (fillGroup s group e).icache = s.icache := rfl
@[simp] theorem fillGroup_dcache : (fillGroup s group e).dcache = s.dcache := rfl
@[simp] theorem fillGroup_slices : (fillGroup s group e).slices = s.slices := rfl
@[simp] theorem fillGroup_links : (fillGroup s group e).links = s.links := rfl
@[simp] theorem fillGroup_watches : (fillGroup s group e).watches = s.watches := rfl
@[simp] theorem fillGroup_vamos : (fillGroup s group e).vamos = s.vamos := rfl
@[simp] theorem fillGroup_combine : (fillGroup s group e).combine = s.combine := rfl
@[simp] theorem fillGroup_barriers : (fillGroup s group e).barriers = s.barriers := rfl
@[simp] theorem fillGroup_arrivals : (fillGroup s group e).arrivals = s.arrivals := rfl
@[simp] theorem fillGroup_pmc : (fillGroup s group e).pmc = s.pmc := rfl
@[simp] theorem fillGroup_tetherUp : (fillGroup s group e).tetherUp = s.tetherUp := rfl
@[simp] theorem fillGroup_twinRole : (fillGroup s group e).twinRole = s.twinRole := rfl
@[simp] theorem fillGroup_meshHalf : (fillGroup s group e).meshHalf = s.meshHalf := rfl
@[simp] theorem fillGroup_fenceReq : (fillGroup s group e).fenceReq = s.fenceReq := rfl
@[simp] theorem fillGroup_replays : (fillGroup s group e).replays = s.replays := rfl
@[simp] theorem fillGroup_disp : (fillGroup s group e).disp = s.disp := rfl
@[simp] theorem fillGroup_eng : (fillGroup s group e).eng = s.eng := rfl
@[simp] theorem fillGroup_svc : (fillGroup s group e).svc = s.svc := rfl
@[simp] theorem fillGroup_free : (fillGroup s group e).free = s.free := rfl
@[simp] theorem fillGroup_tab_tenants : (fillGroup s group e).tab.tenants = s.tab.tenants := rfl
@[simp] theorem fillGroup_tab_cores : (fillGroup s group e).tab.cores = s.tab.cores := rfl
@[simp] theorem fillGroup_tab_twinCores : (fillGroup s group e).tab.twinCores = s.tab.twinCores := rfl
@[simp] theorem fillGroup_tab_keys : (fillGroup s group e).tab.keys = s.tab.keys := rfl
@[simp] theorem fillGroup_tab_routes : (fillGroup s group e).tab.routes = s.tab.routes := rfl
@[simp] theorem fillGroup_tab_coreTlb : (fillGroup s group e).tab.coreTlb = s.tab.coreTlb := rfl
@[simp] theorem fillGroup_tab_walks : (fillGroup s group e).tab.walks = s.tab.walks := rfl
@[simp] theorem fillGroup_tab_ats : (fillGroup s group e).tab.ats = s.tab.ats := rfl
@[simp] theorem fillGroup_tab_faults : (fillGroup s group e).tab.faults = s.tab.faults := rfl
@[simp] theorem fillGroup_tab_pri : (fillGroup s group e).tab.pri = s.tab.pri := rfl
@[simp] theorem fillGroup_tab_priOff : (fillGroup s group e).tab.priOff = s.tab.priOff := rfl
@[simp] theorem fillGroup_tab_priSerial : (fillGroup s group e).tab.priSerial = s.tab.priSerial := rfl
@[simp] theorem fillGroup_tab_priAlloc : (fillGroup s group e).tab.priAlloc = s.tab.priAlloc := rfl
@[simp] theorem fillGroup_tab_invals : (fillGroup s group e).tab.invals = s.tab.invals := rfl
@[simp] theorem fillGroup_tab_invalSerial : (fillGroup s group e).tab.invalSerial = s.tab.invalSerial := rfl
@[simp] theorem fillGroup_tab_invalDone : (fillGroup s group e).tab.invalDone = s.tab.invalDone := rfl
end

/-! ### setWin -/

section
variable (s : State) (core n : Nat) (w : Window)
@[simp] theorem setWin_hart : (setWin s core n w).hart = s.hart := rfl
@[simp] theorem setWin_others : (setWin s core n w).others = s.others := rfl
@[simp] theorem setWin_turn : (setWin s core n w).turn = s.turn := rfl
@[simp] theorem setWin_inputs : (setWin s core n w).inputs = s.inputs := rfl
@[simp] theorem setWin_ticks : (setWin s core n w).ticks = s.ticks := rfl
@[simp] theorem setWin_time : (setWin s core n w).time = s.time := rfl
@[simp] theorem setWin_mem : (setWin s core n w).mem = s.mem := rfl
@[simp] theorem setWin_bad : (setWin s core n w).bad = s.bad := rfl
@[simp] theorem setWin_eccCount : (setWin s core n w).eccCount = s.eccCount := rfl
@[simp] theorem setWin_icache : (setWin s core n w).icache = s.icache := rfl
@[simp] theorem setWin_dcache : (setWin s core n w).dcache = s.dcache := rfl
@[simp] theorem setWin_slices : (setWin s core n w).slices = s.slices := rfl
@[simp] theorem setWin_links : (setWin s core n w).links = s.links := rfl
@[simp] theorem setWin_watches : (setWin s core n w).watches = s.watches := rfl
@[simp] theorem setWin_vamos : (setWin s core n w).vamos = s.vamos := rfl
@[simp] theorem setWin_combine : (setWin s core n w).combine = s.combine := rfl
@[simp] theorem setWin_barriers : (setWin s core n w).barriers = s.barriers := rfl
@[simp] theorem setWin_arrivals : (setWin s core n w).arrivals = s.arrivals := rfl
@[simp] theorem setWin_pmc : (setWin s core n w).pmc = s.pmc := rfl
@[simp] theorem setWin_tetherUp : (setWin s core n w).tetherUp = s.tetherUp := rfl
@[simp] theorem setWin_twinRole : (setWin s core n w).twinRole = s.twinRole := rfl
@[simp] theorem setWin_meshHalf : (setWin s core n w).meshHalf = s.meshHalf := rfl
@[simp] theorem setWin_fenceReq : (setWin s core n w).fenceReq = s.fenceReq := rfl
@[simp] theorem setWin_replays : (setWin s core n w).replays = s.replays := rfl
@[simp] theorem setWin_disp : (setWin s core n w).disp = s.disp := rfl
@[simp] theorem setWin_tab : (setWin s core n w).tab = s.tab := rfl
@[simp] theorem setWin_svc : (setWin s core n w).svc = s.svc := rfl
@[simp] theorem setWin_free : (setWin s core n w).free = s.free := rfl
@[simp] theorem setWin_eng_late : (setWin s core n w).eng.late = s.eng.late := rfl
@[simp] theorem setWin_eng_flight : (setWin s core n w).eng.flight = s.eng.flight := rfl
@[simp] theorem setWin_eng_lists : (setWin s core n w).eng.lists = s.eng.lists := rfl
@[simp] theorem setWin_eng_serial : (setWin s core n w).eng.serial = s.eng.serial := rfl
@[simp] theorem setWin_eng_coding : (setWin s core n w).eng.coding = s.eng.coding := rfl
@[simp] theorem setWin_eng_messages : (setWin s core n w).eng.messages = s.eng.messages := rfl
@[simp] theorem setWin_eng_bridles : (setWin s core n w).eng.bridles = s.eng.bridles := rfl
@[simp] theorem setWin_eng_ports : (setWin s core n w).eng.ports = s.eng.ports := rfl
@[simp] theorem setWin_eng_sent : (setWin s core n w).eng.sent = s.eng.sent := rfl
end

/-! ### setLists -/

section
variable (s : State) (n : Nat) (l : List SpoolList)
@[simp] theorem setLists_hart : (setLists s n l).hart = s.hart := rfl
@[simp] theorem setLists_others : (setLists s n l).others = s.others := rfl
@[simp] theorem setLists_turn : (setLists s n l).turn = s.turn := rfl
@[simp] theorem setLists_inputs : (setLists s n l).inputs = s.inputs := rfl
@[simp] theorem setLists_ticks : (setLists s n l).ticks = s.ticks := rfl
@[simp] theorem setLists_time : (setLists s n l).time = s.time := rfl
@[simp] theorem setLists_mem : (setLists s n l).mem = s.mem := rfl
@[simp] theorem setLists_bad : (setLists s n l).bad = s.bad := rfl
@[simp] theorem setLists_eccCount : (setLists s n l).eccCount = s.eccCount := rfl
@[simp] theorem setLists_icache : (setLists s n l).icache = s.icache := rfl
@[simp] theorem setLists_dcache : (setLists s n l).dcache = s.dcache := rfl
@[simp] theorem setLists_slices : (setLists s n l).slices = s.slices := rfl
@[simp] theorem setLists_links : (setLists s n l).links = s.links := rfl
@[simp] theorem setLists_watches : (setLists s n l).watches = s.watches := rfl
@[simp] theorem setLists_vamos : (setLists s n l).vamos = s.vamos := rfl
@[simp] theorem setLists_combine : (setLists s n l).combine = s.combine := rfl
@[simp] theorem setLists_barriers : (setLists s n l).barriers = s.barriers := rfl
@[simp] theorem setLists_arrivals : (setLists s n l).arrivals = s.arrivals := rfl
@[simp] theorem setLists_pmc : (setLists s n l).pmc = s.pmc := rfl
@[simp] theorem setLists_tetherUp : (setLists s n l).tetherUp = s.tetherUp := rfl
@[simp] theorem setLists_twinRole : (setLists s n l).twinRole = s.twinRole := rfl
@[simp] theorem setLists_meshHalf : (setLists s n l).meshHalf = s.meshHalf := rfl
@[simp] theorem setLists_fenceReq : (setLists s n l).fenceReq = s.fenceReq := rfl
@[simp] theorem setLists_replays : (setLists s n l).replays = s.replays := rfl
@[simp] theorem setLists_disp : (setLists s n l).disp = s.disp := rfl
@[simp] theorem setLists_tab : (setLists s n l).tab = s.tab := rfl
@[simp] theorem setLists_svc : (setLists s n l).svc = s.svc := rfl
@[simp] theorem setLists_free : (setLists s n l).free = s.free := rfl
@[simp] theorem setLists_eng_late : (setLists s n l).eng.late = s.eng.late := rfl
@[simp] theorem setLists_eng_windows : (setLists s n l).eng.windows = s.eng.windows := rfl
@[simp] theorem setLists_eng_flight : (setLists s n l).eng.flight = s.eng.flight := rfl
@[simp] theorem setLists_eng_serial : (setLists s n l).eng.serial = s.eng.serial := rfl
@[simp] theorem setLists_eng_coding : (setLists s n l).eng.coding = s.eng.coding := rfl
@[simp] theorem setLists_eng_messages : (setLists s n l).eng.messages = s.eng.messages := rfl
@[simp] theorem setLists_eng_bridles : (setLists s n l).eng.bridles = s.eng.bridles := rfl
@[simp] theorem setLists_eng_ports : (setLists s n l).eng.ports = s.eng.ports := rfl
@[simp] theorem setLists_eng_sent : (setLists s n l).eng.sent = s.eng.sent := rfl
end

/-! ### setEng -/

section
variable (s : State) (n : Nat) (e : Engine)
@[simp] theorem setEng_hart : (setEng s n e).hart = s.hart := rfl
@[simp] theorem setEng_others : (setEng s n e).others = s.others := rfl
@[simp] theorem setEng_turn : (setEng s n e).turn = s.turn := rfl
@[simp] theorem setEng_inputs : (setEng s n e).inputs = s.inputs := rfl
@[simp] theorem setEng_ticks : (setEng s n e).ticks = s.ticks := rfl
@[simp] theorem setEng_time : (setEng s n e).time = s.time := rfl
@[simp] theorem setEng_mem : (setEng s n e).mem = s.mem := rfl
@[simp] theorem setEng_bad : (setEng s n e).bad = s.bad := rfl
@[simp] theorem setEng_eccCount : (setEng s n e).eccCount = s.eccCount := rfl
@[simp] theorem setEng_icache : (setEng s n e).icache = s.icache := rfl
@[simp] theorem setEng_dcache : (setEng s n e).dcache = s.dcache := rfl
@[simp] theorem setEng_slices : (setEng s n e).slices = s.slices := rfl
@[simp] theorem setEng_links : (setEng s n e).links = s.links := rfl
@[simp] theorem setEng_watches : (setEng s n e).watches = s.watches := rfl
@[simp] theorem setEng_vamos : (setEng s n e).vamos = s.vamos := rfl
@[simp] theorem setEng_combine : (setEng s n e).combine = s.combine := rfl
@[simp] theorem setEng_barriers : (setEng s n e).barriers = s.barriers := rfl
@[simp] theorem setEng_arrivals : (setEng s n e).arrivals = s.arrivals := rfl
@[simp] theorem setEng_pmc : (setEng s n e).pmc = s.pmc := rfl
@[simp] theorem setEng_tetherUp : (setEng s n e).tetherUp = s.tetherUp := rfl
@[simp] theorem setEng_twinRole : (setEng s n e).twinRole = s.twinRole := rfl
@[simp] theorem setEng_meshHalf : (setEng s n e).meshHalf = s.meshHalf := rfl
@[simp] theorem setEng_fenceReq : (setEng s n e).fenceReq = s.fenceReq := rfl
@[simp] theorem setEng_replays : (setEng s n e).replays = s.replays := rfl
@[simp] theorem setEng_disp : (setEng s n e).disp = s.disp := rfl
@[simp] theorem setEng_tab : (setEng s n e).tab = s.tab := rfl
@[simp] theorem setEng_svc : (setEng s n e).svc = s.svc := rfl
@[simp] theorem setEng_free : (setEng s n e).free = s.free := rfl
@[simp] theorem setEng_eng_late : (setEng s n e).eng.late = s.eng.late := rfl
@[simp] theorem setEng_eng_windows : (setEng s n e).eng.windows = s.eng.windows := rfl
@[simp] theorem setEng_eng_flight : (setEng s n e).eng.flight = s.eng.flight := rfl
@[simp] theorem setEng_eng_lists : (setEng s n e).eng.lists = s.eng.lists := rfl
@[simp] theorem setEng_eng_serial : (setEng s n e).eng.serial = s.eng.serial := rfl
@[simp] theorem setEng_eng_messages : (setEng s n e).eng.messages = s.eng.messages := rfl
@[simp] theorem setEng_eng_bridles : (setEng s n e).eng.bridles = s.eng.bridles := rfl
@[simp] theorem setEng_eng_ports : (setEng s n e).eng.ports = s.eng.ports := rfl
@[simp] theorem setEng_eng_sent : (setEng s n e).eng.sent = s.eng.sent := rfl
end

/-! ### setBridle -/

section
variable (s : State) (p n : Nat) (b : Bridle)
@[simp] theorem setBridle_hart : (setBridle s p n b).hart = s.hart := rfl
@[simp] theorem setBridle_others : (setBridle s p n b).others = s.others := rfl
@[simp] theorem setBridle_turn : (setBridle s p n b).turn = s.turn := rfl
@[simp] theorem setBridle_inputs : (setBridle s p n b).inputs = s.inputs := rfl
@[simp] theorem setBridle_ticks : (setBridle s p n b).ticks = s.ticks := rfl
@[simp] theorem setBridle_time : (setBridle s p n b).time = s.time := rfl
@[simp] theorem setBridle_mem : (setBridle s p n b).mem = s.mem := rfl
@[simp] theorem setBridle_bad : (setBridle s p n b).bad = s.bad := rfl
@[simp] theorem setBridle_eccCount : (setBridle s p n b).eccCount = s.eccCount := rfl
@[simp] theorem setBridle_icache : (setBridle s p n b).icache = s.icache := rfl
@[simp] theorem setBridle_dcache : (setBridle s p n b).dcache = s.dcache := rfl
@[simp] theorem setBridle_slices : (setBridle s p n b).slices = s.slices := rfl
@[simp] theorem setBridle_links : (setBridle s p n b).links = s.links := rfl
@[simp] theorem setBridle_watches : (setBridle s p n b).watches = s.watches := rfl
@[simp] theorem setBridle_vamos : (setBridle s p n b).vamos = s.vamos := rfl
@[simp] theorem setBridle_combine : (setBridle s p n b).combine = s.combine := rfl
@[simp] theorem setBridle_barriers : (setBridle s p n b).barriers = s.barriers := rfl
@[simp] theorem setBridle_arrivals : (setBridle s p n b).arrivals = s.arrivals := rfl
@[simp] theorem setBridle_pmc : (setBridle s p n b).pmc = s.pmc := rfl
@[simp] theorem setBridle_tetherUp : (setBridle s p n b).tetherUp = s.tetherUp := rfl
@[simp] theorem setBridle_twinRole : (setBridle s p n b).twinRole = s.twinRole := rfl
@[simp] theorem setBridle_meshHalf : (setBridle s p n b).meshHalf = s.meshHalf := rfl
@[simp] theorem setBridle_fenceReq : (setBridle s p n b).fenceReq = s.fenceReq := rfl
@[simp] theorem setBridle_replays : (setBridle s p n b).replays = s.replays := rfl
@[simp] theorem setBridle_disp : (setBridle s p n b).disp = s.disp := rfl
@[simp] theorem setBridle_tab : (setBridle s p n b).tab = s.tab := rfl
@[simp] theorem setBridle_svc : (setBridle s p n b).svc = s.svc := rfl
@[simp] theorem setBridle_free : (setBridle s p n b).free = s.free := rfl
@[simp] theorem setBridle_eng_late : (setBridle s p n b).eng.late = s.eng.late := rfl
@[simp] theorem setBridle_eng_windows : (setBridle s p n b).eng.windows = s.eng.windows := rfl
@[simp] theorem setBridle_eng_flight : (setBridle s p n b).eng.flight = s.eng.flight := rfl
@[simp] theorem setBridle_eng_lists : (setBridle s p n b).eng.lists = s.eng.lists := rfl
@[simp] theorem setBridle_eng_serial : (setBridle s p n b).eng.serial = s.eng.serial := rfl
@[simp] theorem setBridle_eng_coding : (setBridle s p n b).eng.coding = s.eng.coding := rfl
@[simp] theorem setBridle_eng_messages : (setBridle s p n b).eng.messages = s.eng.messages := rfl
@[simp] theorem setBridle_eng_ports : (setBridle s p n b).eng.ports = s.eng.ports := rfl
@[simp] theorem setBridle_eng_sent : (setBridle s p n b).eng.sent = s.eng.sent := rfl
end

/-! ### updPort -/

section
variable (s : State) (p : Nat) (g : Port → Port)
@[simp] theorem updPort_hart : (updPort s p g).hart = s.hart := rfl
@[simp] theorem updPort_others : (updPort s p g).others = s.others := rfl
@[simp] theorem updPort_turn : (updPort s p g).turn = s.turn := rfl
@[simp] theorem updPort_inputs : (updPort s p g).inputs = s.inputs := rfl
@[simp] theorem updPort_ticks : (updPort s p g).ticks = s.ticks := rfl
@[simp] theorem updPort_time : (updPort s p g).time = s.time := rfl
@[simp] theorem updPort_mem : (updPort s p g).mem = s.mem := rfl
@[simp] theorem updPort_bad : (updPort s p g).bad = s.bad := rfl
@[simp] theorem updPort_eccCount : (updPort s p g).eccCount = s.eccCount := rfl
@[simp] theorem updPort_icache : (updPort s p g).icache = s.icache := rfl
@[simp] theorem updPort_dcache : (updPort s p g).dcache = s.dcache := rfl
@[simp] theorem updPort_slices : (updPort s p g).slices = s.slices := rfl
@[simp] theorem updPort_links : (updPort s p g).links = s.links := rfl
@[simp] theorem updPort_watches : (updPort s p g).watches = s.watches := rfl
@[simp] theorem updPort_vamos : (updPort s p g).vamos = s.vamos := rfl
@[simp] theorem updPort_combine : (updPort s p g).combine = s.combine := rfl
@[simp] theorem updPort_barriers : (updPort s p g).barriers = s.barriers := rfl
@[simp] theorem updPort_arrivals : (updPort s p g).arrivals = s.arrivals := rfl
@[simp] theorem updPort_pmc : (updPort s p g).pmc = s.pmc := rfl
@[simp] theorem updPort_tetherUp : (updPort s p g).tetherUp = s.tetherUp := rfl
@[simp] theorem updPort_twinRole : (updPort s p g).twinRole = s.twinRole := rfl
@[simp] theorem updPort_meshHalf : (updPort s p g).meshHalf = s.meshHalf := rfl
@[simp] theorem updPort_fenceReq : (updPort s p g).fenceReq = s.fenceReq := rfl
@[simp] theorem updPort_replays : (updPort s p g).replays = s.replays := rfl
@[simp] theorem updPort_disp : (updPort s p g).disp = s.disp := rfl
@[simp] theorem updPort_tab : (updPort s p g).tab = s.tab := rfl
@[simp] theorem updPort_svc : (updPort s p g).svc = s.svc := rfl
@[simp] theorem updPort_free : (updPort s p g).free = s.free := rfl
@[simp] theorem updPort_eng_late : (updPort s p g).eng.late = s.eng.late := rfl
@[simp] theorem updPort_eng_windows : (updPort s p g).eng.windows = s.eng.windows := rfl
@[simp] theorem updPort_eng_flight : (updPort s p g).eng.flight = s.eng.flight := rfl
@[simp] theorem updPort_eng_lists : (updPort s p g).eng.lists = s.eng.lists := rfl
@[simp] theorem updPort_eng_serial : (updPort s p g).eng.serial = s.eng.serial := rfl
@[simp] theorem updPort_eng_coding : (updPort s p g).eng.coding = s.eng.coding := rfl
@[simp] theorem updPort_eng_messages : (updPort s p g).eng.messages = s.eng.messages := rfl
@[simp] theorem updPort_eng_bridles : (updPort s p g).eng.bridles = s.eng.bridles := rfl
@[simp] theorem updPort_eng_sent : (updPort s p g).eng.sent = s.eng.sent := rfl
end

/-! ### sendPacket -/

section
variable (s : State) (p : Packet)
@[simp] theorem sendPacket_hart : (sendPacket s p).hart = s.hart := rfl
@[simp] theorem sendPacket_others : (sendPacket s p).others = s.others := rfl
@[simp] theorem sendPacket_turn : (sendPacket s p).turn = s.turn := rfl
@[simp] theorem sendPacket_inputs : (sendPacket s p).inputs = s.inputs := rfl
@[simp] theorem sendPacket_ticks : (sendPacket s p).ticks = s.ticks := rfl
@[simp] theorem sendPacket_time : (sendPacket s p).time = s.time := rfl
@[simp] theorem sendPacket_mem : (sendPacket s p).mem = s.mem := rfl
@[simp] theorem sendPacket_bad : (sendPacket s p).bad = s.bad := rfl
@[simp] theorem sendPacket_eccCount : (sendPacket s p).eccCount = s.eccCount := rfl
@[simp] theorem sendPacket_icache : (sendPacket s p).icache = s.icache := rfl
@[simp] theorem sendPacket_dcache : (sendPacket s p).dcache = s.dcache := rfl
@[simp] theorem sendPacket_slices : (sendPacket s p).slices = s.slices := rfl
@[simp] theorem sendPacket_links : (sendPacket s p).links = s.links := rfl
@[simp] theorem sendPacket_watches : (sendPacket s p).watches = s.watches := rfl
@[simp] theorem sendPacket_vamos : (sendPacket s p).vamos = s.vamos := rfl
@[simp] theorem sendPacket_combine : (sendPacket s p).combine = s.combine := rfl
@[simp] theorem sendPacket_barriers : (sendPacket s p).barriers = s.barriers := rfl
@[simp] theorem sendPacket_arrivals : (sendPacket s p).arrivals = s.arrivals := rfl
@[simp] theorem sendPacket_pmc : (sendPacket s p).pmc = s.pmc := rfl
@[simp] theorem sendPacket_tetherUp : (sendPacket s p).tetherUp = s.tetherUp := rfl
@[simp] theorem sendPacket_twinRole : (sendPacket s p).twinRole = s.twinRole := rfl
@[simp] theorem sendPacket_meshHalf : (sendPacket s p).meshHalf = s.meshHalf := rfl
@[simp] theorem sendPacket_fenceReq : (sendPacket s p).fenceReq = s.fenceReq := rfl
@[simp] theorem sendPacket_replays : (sendPacket s p).replays = s.replays := rfl
@[simp] theorem sendPacket_disp : (sendPacket s p).disp = s.disp := rfl
@[simp] theorem sendPacket_tab : (sendPacket s p).tab = s.tab := rfl
@[simp] theorem sendPacket_svc : (sendPacket s p).svc = s.svc := rfl
@[simp] theorem sendPacket_free : (sendPacket s p).free = s.free := rfl
@[simp] theorem sendPacket_eng_late : (sendPacket s p).eng.late = s.eng.late := rfl
@[simp] theorem sendPacket_eng_windows : (sendPacket s p).eng.windows = s.eng.windows := rfl
@[simp] theorem sendPacket_eng_lists : (sendPacket s p).eng.lists = s.eng.lists := rfl
@[simp] theorem sendPacket_eng_serial : (sendPacket s p).eng.serial = s.eng.serial := rfl
@[simp] theorem sendPacket_eng_coding : (sendPacket s p).eng.coding = s.eng.coding := rfl
@[simp] theorem sendPacket_eng_messages : (sendPacket s p).eng.messages = s.eng.messages := rfl
@[simp] theorem sendPacket_eng_bridles : (sendPacket s p).eng.bridles = s.eng.bridles := rfl
@[simp] theorem sendPacket_eng_ports : (sendPacket s p).eng.ports = s.eng.ports := rfl
@[simp] theorem sendPacket_eng_sent : (sendPacket s p).eng.sent = s.eng.sent := rfl
end

/-! ### setFn -/

section
variable (s : State) (f : Nat) (n : Fn)
@[simp] theorem setFn_hart : (setFn s f n).hart = s.hart := rfl
@[simp] theorem setFn_others : (setFn s f n).others = s.others := rfl
@[simp] theorem setFn_turn : (setFn s f n).turn = s.turn := rfl
@[simp] theorem setFn_inputs : (setFn s f n).inputs = s.inputs := rfl
@[simp] theorem setFn_ticks : (setFn s f n).ticks = s.ticks := rfl
@[simp] theorem setFn_time : (setFn s f n).time = s.time := rfl
@[simp] theorem setFn_mem : (setFn s f n).mem = s.mem := rfl
@[simp] theorem setFn_bad : (setFn s f n).bad = s.bad := rfl
@[simp] theorem setFn_eccCount : (setFn s f n).eccCount = s.eccCount := rfl
@[simp] theorem setFn_icache : (setFn s f n).icache = s.icache := rfl
@[simp] theorem setFn_dcache : (setFn s f n).dcache = s.dcache := rfl
@[simp] theorem setFn_slices : (setFn s f n).slices = s.slices := rfl
@[simp] theorem setFn_links : (setFn s f n).links = s.links := rfl
@[simp] theorem setFn_watches : (setFn s f n).watches = s.watches := rfl
@[simp] theorem setFn_vamos : (setFn s f n).vamos = s.vamos := rfl
@[simp] theorem setFn_combine : (setFn s f n).combine = s.combine := rfl
@[simp] theorem setFn_barriers : (setFn s f n).barriers = s.barriers := rfl
@[simp] theorem setFn_arrivals : (setFn s f n).arrivals = s.arrivals := rfl
@[simp] theorem setFn_pmc : (setFn s f n).pmc = s.pmc := rfl
@[simp] theorem setFn_tetherUp : (setFn s f n).tetherUp = s.tetherUp := rfl
@[simp] theorem setFn_twinRole : (setFn s f n).twinRole = s.twinRole := rfl
@[simp] theorem setFn_meshHalf : (setFn s f n).meshHalf = s.meshHalf := rfl
@[simp] theorem setFn_fenceReq : (setFn s f n).fenceReq = s.fenceReq := rfl
@[simp] theorem setFn_replays : (setFn s f n).replays = s.replays := rfl
@[simp] theorem setFn_disp : (setFn s f n).disp = s.disp := rfl
@[simp] theorem setFn_tab : (setFn s f n).tab = s.tab := rfl
@[simp] theorem setFn_eng : (setFn s f n).eng = s.eng := rfl
@[simp] theorem setFn_free : (setFn s f n).free = s.free := rfl
@[simp] theorem setFn_svc_events : (setFn s f n).svc.events = s.svc.events := rfl
@[simp] theorem setFn_svc_held : (setFn s f n).svc.held = s.svc.held := rfl
@[simp] theorem setFn_svc_cmds : (setFn s f n).svc.cmds = s.svc.cmds := rfl
@[simp] theorem setFn_svc_deferred : (setFn s f n).svc.deferred = s.svc.deferred := rfl
@[simp] theorem setFn_svc_sessions : (setFn s f n).svc.sessions = s.svc.sessions := rfl
@[simp] theorem setFn_svc_restarting : (setFn s f n).svc.restarting = s.svc.restarting := rfl
@[simp] theorem setFn_svc_expiredAt : (setFn s f n).svc.expiredAt = s.svc.expiredAt := rfl
@[simp] theorem setFn_svc_restartDue : (setFn s f n).svc.restartDue = s.svc.restartDue := rfl
@[simp] theorem setFn_svc_hung : (setFn s f n).svc.hung = s.svc.hung := rfl
@[simp] theorem setFn_svc_ballastTurn : (setFn s f n).svc.ballastTurn = s.svc.ballastTurn := rfl
@[simp] theorem setFn_svc_throttle : (setFn s f n).svc.throttle = s.svc.throttle := rfl
@[simp] theorem setFn_svc_sensors : (setFn s f n).svc.sensors = s.svc.sensors := rfl
@[simp] theorem setFn_svc_trip : (setFn s f n).svc.trip = s.svc.trip := rfl
@[simp] theorem setFn_svc_powerStep : (setFn s f n).svc.powerStep = s.svc.powerStep := rfl
@[simp] theorem setFn_svc_powerLimit : (setFn s f n).svc.powerLimit = s.svc.powerLimit := rfl
@[simp] theorem setFn_svc_power : (setFn s f n).svc.power = s.svc.power := rfl
@[simp] theorem setFn_svc_claim : (setFn s f n).svc.claim = s.svc.claim := rfl
@[simp] theorem setFn_svc_boot : (setFn s f n).svc.boot = s.svc.boot := rfl
@[simp] theorem setFn_svc_ready : (setFn s f n).svc.ready = s.svc.ready := rfl
end

/-! ### pushEvent -/

section
variable (s : State) (e : SvcEvent)
@[simp] theorem pushEvent_hart : (pushEvent s e).hart = s.hart := by unfold pushEvent; split <;> rfl
@[simp] theorem pushEvent_others : (pushEvent s e).others = s.others := by unfold pushEvent; split <;> rfl
@[simp] theorem pushEvent_turn : (pushEvent s e).turn = s.turn := by unfold pushEvent; split <;> rfl
@[simp] theorem pushEvent_inputs : (pushEvent s e).inputs = s.inputs := by unfold pushEvent; split <;> rfl
@[simp] theorem pushEvent_ticks : (pushEvent s e).ticks = s.ticks := by unfold pushEvent; split <;> rfl
@[simp] theorem pushEvent_time : (pushEvent s e).time = s.time := by unfold pushEvent; split <;> rfl
@[simp] theorem pushEvent_mem : (pushEvent s e).mem = s.mem := by unfold pushEvent; split <;> rfl
@[simp] theorem pushEvent_bad : (pushEvent s e).bad = s.bad := by unfold pushEvent; split <;> rfl
@[simp] theorem pushEvent_eccCount : (pushEvent s e).eccCount = s.eccCount := by unfold pushEvent; split <;> rfl
@[simp] theorem pushEvent_icache : (pushEvent s e).icache = s.icache := by unfold pushEvent; split <;> rfl
@[simp] theorem pushEvent_dcache : (pushEvent s e).dcache = s.dcache := by unfold pushEvent; split <;> rfl
@[simp] theorem pushEvent_slices : (pushEvent s e).slices = s.slices := by unfold pushEvent; split <;> rfl
@[simp] theorem pushEvent_links : (pushEvent s e).links = s.links := by unfold pushEvent; split <;> rfl
@[simp] theorem pushEvent_watches : (pushEvent s e).watches = s.watches := by unfold pushEvent; split <;> rfl
@[simp] theorem pushEvent_vamos : (pushEvent s e).vamos = s.vamos := by unfold pushEvent; split <;> rfl
@[simp] theorem pushEvent_combine : (pushEvent s e).combine = s.combine := by unfold pushEvent; split <;> rfl
@[simp] theorem pushEvent_barriers : (pushEvent s e).barriers = s.barriers := by unfold pushEvent; split <;> rfl
@[simp] theorem pushEvent_arrivals : (pushEvent s e).arrivals = s.arrivals := by unfold pushEvent; split <;> rfl
@[simp] theorem pushEvent_pmc : (pushEvent s e).pmc = s.pmc := by unfold pushEvent; split <;> rfl
@[simp] theorem pushEvent_tetherUp : (pushEvent s e).tetherUp = s.tetherUp := by unfold pushEvent; split <;> rfl
@[simp] theorem pushEvent_twinRole : (pushEvent s e).twinRole = s.twinRole := by unfold pushEvent; split <;> rfl
@[simp] theorem pushEvent_meshHalf : (pushEvent s e).meshHalf = s.meshHalf := by unfold pushEvent; split <;> rfl
@[simp] theorem pushEvent_fenceReq : (pushEvent s e).fenceReq = s.fenceReq := by unfold pushEvent; split <;> rfl
@[simp] theorem pushEvent_replays : (pushEvent s e).replays = s.replays := by unfold pushEvent; split <;> rfl
@[simp] theorem pushEvent_disp : (pushEvent s e).disp = s.disp := by unfold pushEvent; split <;> rfl
@[simp] theorem pushEvent_tab : (pushEvent s e).tab = s.tab := by unfold pushEvent; split <;> rfl
@[simp] theorem pushEvent_eng : (pushEvent s e).eng = s.eng := by unfold pushEvent; split <;> rfl
@[simp] theorem pushEvent_free : (pushEvent s e).free = s.free := by unfold pushEvent; split <;> rfl
@[simp] theorem pushEvent_svc_cmds : (pushEvent s e).svc.cmds = s.svc.cmds := by unfold pushEvent; split <;> rfl
@[simp] theorem pushEvent_svc_fns : (pushEvent s e).svc.fns = s.svc.fns := by unfold pushEvent; split <;> rfl
@[simp] theorem pushEvent_svc_deferred : (pushEvent s e).svc.deferred = s.svc.deferred := by unfold pushEvent; split <;> rfl
@[simp] theorem pushEvent_svc_sessions : (pushEvent s e).svc.sessions = s.svc.sessions := by unfold pushEvent; split <;> rfl
@[simp] theorem pushEvent_svc_restarting : (pushEvent s e).svc.restarting = s.svc.restarting := by unfold pushEvent; split <;> rfl
@[simp] theorem pushEvent_svc_expiredAt : (pushEvent s e).svc.expiredAt = s.svc.expiredAt := by unfold pushEvent; split <;> rfl
@[simp] theorem pushEvent_svc_restartDue : (pushEvent s e).svc.restartDue = s.svc.restartDue := by unfold pushEvent; split <;> rfl
@[simp] theorem pushEvent_svc_hung : (pushEvent s e).svc.hung = s.svc.hung := by unfold pushEvent; split <;> rfl
@[simp] theorem pushEvent_svc_ballastTurn : (pushEvent s e).svc.ballastTurn = s.svc.ballastTurn := by unfold pushEvent; split <;> rfl
@[simp] theorem pushEvent_svc_throttle : (pushEvent s e).svc.throttle = s.svc.throttle := by unfold pushEvent; split <;> rfl
@[simp] theorem pushEvent_svc_sensors : (pushEvent s e).svc.sensors = s.svc.sensors := by unfold pushEvent; split <;> rfl
@[simp] theorem pushEvent_svc_trip : (pushEvent s e).svc.trip = s.svc.trip := by unfold pushEvent; split <;> rfl
@[simp] theorem pushEvent_svc_powerStep : (pushEvent s e).svc.powerStep = s.svc.powerStep := by unfold pushEvent; split <;> rfl
@[simp] theorem pushEvent_svc_powerLimit : (pushEvent s e).svc.powerLimit = s.svc.powerLimit := by unfold pushEvent; split <;> rfl
@[simp] theorem pushEvent_svc_power : (pushEvent s e).svc.power = s.svc.power := by unfold pushEvent; split <;> rfl
@[simp] theorem pushEvent_svc_claim : (pushEvent s e).svc.claim = s.svc.claim := by unfold pushEvent; split <;> rfl
@[simp] theorem pushEvent_svc_boot : (pushEvent s e).svc.boot = s.svc.boot := by unfold pushEvent; split <;> rfl
@[simp] theorem pushEvent_svc_ready : (pushEvent s e).svc.ready = s.svc.ready := by unfold pushEvent; split <;> rfl
end

/-! ### Reading back -/

@[simp] theorem updH_updH (s : State) (f g : Hart → Hart) : updH (updH s f) g = updH s fun h => g (f h) := rfl

@[simp] theorem freshFree_fst (s : State) : (freshFree s).1 = Config.freeValue s.free := rfl

@[simp] theorem freshFree_snd (s : State) : (freshFree s).2 = { s with free := s.free + 1 } := rfl

@[simp] theorem getBar_setBar (s : State) (b : Nat) (x : Barrier) : getBar (setBar s b x) b = x := mapGet_set_same _ _ _ _

theorem getBar_setBar_other (s : State) {b c : Nat} (x : Barrier) (h : c ≠ b) : getBar (setBar s b x) c = getBar s c :=
  mapGet_set_other _ _ _ h

@[simp] theorem getCtr_setCtr (s : State) (b : Nat) (x : DepCounter) : getCtr (setCtr s b x) b = x := mapGet_set_same _ _ _ _

theorem getCtr_setCtr_other (s : State) {b c : Nat} (x : DepCounter) (h : c ≠ b) : getCtr (setCtr s b x) c = getCtr s c :=
  mapGet_set_other _ _ _ h

@[simp] theorem getReady_setReady (s : State) (b : Nat) (x : List Job) : getReady (setReady s b x) b = x := mapGet_set_same _ _ _ _

theorem getReady_setReady_other (s : State) {b c : Nat} (x : List Job) (h : c ≠ b) : getReady (setReady s b x) c = getReady s c :=
  mapGet_set_other _ _ _ h

@[simp] theorem getQ_setQ (s : State) (b : Nat) (x : LaunchQ) : getQ (setQ s b x) b = x := mapGet_set_same _ _ _ _

theorem getQ_setQ_other (s : State) {b c : Nat} (x : LaunchQ) (h : c ≠ b) : getQ (setQ s b x) c = getQ s c :=
  mapGet_set_other _ _ _ h

@[simp] theorem getSlot_setSlot (s : State) (b : Nat) (x : Slot) : getSlot (setSlot s b x) b = x := mapGet_set_same _ _ _ _

theorem getSlot_setSlot_other (s : State) {b c : Nat} (x : Slot) (h : c ≠ b) : getSlot (setSlot s b x) c = getSlot s c :=
  mapGet_set_other _ _ _ h

@[simp] theorem coreEntry_setCore (s : State) (b : Nat) (x : CoreEntry) : coreEntry (setCore s b x) b = x := mapGet_set_same _ _ _ _

theorem coreEntry_setCore_other (s : State) {b c : Nat} (x : CoreEntry) (h : c ≠ b) : coreEntry (setCore s b x) c = coreEntry s c :=
  mapGet_set_other _ _ _ h

@[simp] theorem getLists_setLists (s : State) (b : Nat) (x : List SpoolList) : getLists (setLists s b x) b = x := mapGet_set_same _ _ _ _

theorem getLists_setLists_other (s : State) {b c : Nat} (x : List SpoolList) (h : c ≠ b) : getLists (setLists s b x) c = getLists s c :=
  mapGet_set_other _ _ _ h

@[simp] theorem getEng_setEng (s : State) (b : Nat) (x : Engine) : getEng (setEng s b x) b = x := mapGet_set_same _ _ _ _

theorem getEng_setEng_other (s : State) {b c : Nat} (x : Engine) (h : c ≠ b) : getEng (setEng s b x) c = getEng s c :=
  mapGet_set_other _ _ _ h

@[simp] theorem getFn_setFn (s : State) (b : Nat) (x : Fn) : getFn (setFn s b x) b = x := mapGet_set_same _ _ _ _

theorem getFn_setFn_other (s : State) {b c : Nat} (x : Fn) (h : c ≠ b) : getFn (setFn s b x) c = getFn s c :=
  mapGet_set_other _ _ _ h

@[simp] theorem getTree_setTree (s : State) (id : BitVec 32) (t : Tree) : getTree (setTree s id t) id = some t :=
  mapGet_set_same none s.disp.trees id.toNat (some t)

theorem getTree_setTree_other (s : State) {id b : BitVec 32} (t : Tree) (h : b ≠ id) :
    getTree (setTree s id t) b = getTree s b :=
  mapGet_set_other none s.disp.trees (some t) fun e => h (BitVec.eq_of_toNat_eq e)

@[simp] theorem getWin_setWin (s : State) (core n : Nat) (w : Window) : getWin (setWin s core n w) core n = w :=
  mapGet_set_same _ _ _ _

theorem getWin_setWin_other (s : State) {core n c m : Nat} (w : Window) (hn : n < 16) (hm : m < 16)
    (h : ¬ (c = core ∧ m = n)) : getWin (setWin s core n w) c m = getWin s c m :=
  mapGet_set_other _ _ _ fun e => h (by unfold winKey at e; omega)

@[simp] theorem getBridle_setBridle (s : State) (p n : Nat) (b : Bridle) : getBridle (setBridle s p n b) p n = b :=
  mapGet_set_same _ _ _ _

theorem getBridle_setBridle_other (s : State) {p n q m : Nat} (b : Bridle) (hn : n < 1024) (hm : m < 1024)
    (h : ¬ (q = p ∧ m = n)) : getBridle (setBridle s p n b) q m = getBridle s q m :=
  mapGet_set_other _ _ _ fun e => h (by omega)

/-- The tables of the harts: the one in focus read after it is changed. -/
@[simp] theorem getHart_updH (s : State) (f : Hart → Hart) (h : (f s.hart).key = s.hart.key) :
    getHart (updH s f) s.hart.key = f s.hart := by
  unfold getHart updH; simp [h]

end Sys2Proof.Laws
end

