-- ==== Sys2Proof/Laws/Ops.lean ====
section
/-! SUPPORT. What each shared operation can do, said once: the end of an instruction, taking a trap, saving a hart,
translating and resolving an address, reading and writing through it, and running a host command. -/

namespace Sys2Proof.Laws

open Sys2Proof.Machine Sys2Proof.Safety

/-! ### The end of an instruction (R39-R42) -/

@[simp] theorem finish_ok (s : State) : finish (.ok s) = .next (advance s) := rfl
@[simp] theorem finish_trap (c : Nat) (t : Trap) (s : State) : finish (.trap c t s) = .next (raise s c t) := rfl
@[simp] theorem finish_left (s : State) : finish (.left s) = .next s := rfl
@[simp] theorem finish_stall (b : Block) (s : State) :
    finish (.stall b s) = .next (updH s fun h => { h with block := b, x := { h.x with stalled := true } }) := rfl

/-- Every instruction that ends by `finish` answers a next state. -/
theorem finish_next (r : Res) : ∃ t, finish r = .next t := by
  cases r <;> exact ⟨_, rfl⟩

/-- The ways an instruction ends. -/
theorem finish_cases {r : Res} {t : State} (h : finish r = .next t) :
    (∃ u, r = .ok u ∧ t = advance u) ∨ (∃ c p u, r = .trap c p u ∧ t = raise u c p) ∨
      (∃ b u, r = .stall b u ∧ t = updH u fun h => { h with block := b, x := { h.x with stalled := true } }) ∨
      r = .left t := by
  cases r <;> simp only [finish, Host.Outcome.next.injEq] at h <;> subst h
  · exact .inl ⟨_, rfl, rfl⟩
  · exact .inr (.inl ⟨_, _, _, rfl, rfl⟩)
  · exact .inr (.inr (.inl ⟨_, _, rfl, rfl⟩))
  · exact .inr (.inr (.inr rfl))

/-- R40: a trap in a paired bundle waits for the bundle's end; any other is taken at once. -/
theorem raise_paired {s : State} (h : s.hart.x.paired = true) (c : Nat) (t : Trap) :
    raise s c t = updH s fun h => { h with x := { h.x with trap := some t, check := c } } := by
  simp [raise, h]

theorem raise_lone {s : State} (h : s.hart.x.paired = false) (c : Nat) (t : Trap) :
    raise s c t = deliver s t s.hart.x.iaddr false 63 := by
  simp [raise, h]

/-! ### Accesses of instructions (R267) -/

@[simp] theorem ofLoad_ok {α : Type} (a : α) (s : State) (f : α → State → Res) : ofLoad (.ok a s) f = f a s := rfl
@[simp] theorem ofLoad_fault {α : Type} (t : Trap) (s : State) (f : α → State → Res) :
    ofLoad (.fault t s) f = .trap 6 t s := rfl
@[simp] theorem ofLoad_refuse {α : Type} (t : Trap) (s : State) (f : α → State → Res) :
    ofLoad (.refuse t s) f = .trap 6 t s := rfl
@[simp] theorem ofLoad_wait {α : Type} (s : State) (f : α → State → Res) : ofLoad (.wait s) f = .stall .walk s := rfl
@[simp] theorem ofStore_ok (s : State) : ofStore (.ok () s) = .ok s := rfl
@[simp] theorem ofStore_fault (t : Trap) (s : State) : ofStore (.fault t s) = .trap 6 t s := rfl
@[simp] theorem ofStore_refuse (t : Trap) (s : State) : ofStore (.refuse t s) = .ok (post s false t) := rfl
@[simp] theorem ofStore_guard (t : Trap) (s : State) : ofStore (.guard t s) = .ok (post s true t) := rfl
@[simp] theorem ofStore_wait (s : State) : ofStore (.wait s) = .stall .walk s := rfl

/-- A release or a fence acts once the queues are empty, else it waits (R286). -/
theorem afterQueue_drained {i : Instr} {s : State} (h : drained s = true) (f : State → Res) : afterQueue i s f = f s := by
  simp [afterQueue, h]

theorem afterQueue_waits {i : Instr} {s : State} (h : drained s = false) (f : State → Res) :
    afterQueue i s f = stallOn .resync i s := by
  simp [afterQueue, h]

/-! ### Taking a trap (R117, R118) -/

/-- A new link generation changes the hart's generation and the tags that name it. -/
theorem bumpLink_rest (s : State) :
    { bumpLink s with links := s.links } = updH s fun h => { h with linkGen := h.linkGen + 1 } := by
  unfold bumpLink; split <;> rfl

@[simp] theorem bumpLink_hart (s : State) : (bumpLink s).hart = { s.hart with linkGen := s.hart.linkGen + 1 } := by
  have e := congrArg State.hart (bumpLink_rest s)
  exact e

@[simp] theorem bumpLink_mem (s : State) : (bumpLink s).mem = s.mem := by
  have e := congrArg State.mem (bumpLink_rest s)
  exact e

/-- Cutting the queue changes the hart alone. -/
theorem cutQueue_rest (s : State) : { cutQueue s with hart := s.hart } = s := rfl

@[simp] theorem saveHart_hart (s : State) (r : Nat) (im : Bool) (c : Nat) (ra : BitVec 48) (tv : Dword) (ix : Nat) :
    (saveHart s r im c ra tv ix).hart = (cutQueue s).hart := by
  simp only [saveHart, savePut_hart]

@[simp] theorem saveHart_svc (s : State) (r : Nat) (im : Bool) (c : Nat) (ra : BitVec 48) (tv : Dword) (ix : Nat) :
    (saveHart s r im c ra tv ix).svc = s.svc := by
  simp only [saveHart, savePut_svc]
  rfl

/-- Saving a hart keeps memory in its form. -/
theorem memWf_saveHart {s : State} (r : Nat) (im : Bool) (c : Nat) (ra : BitVec 48) (tv : Dword) (ix : Nat)
    (h : memWf s.mem = true) : memWf (saveHart s r im c ra tv ix).mem = true :=
  memWf_savePut _ _ _ (memWf_savePut _ _ _ (memWf_savePut _ _ _ h))

/-- A trap of the management core takes it back to its ROM entry (R467). -/
theorem deliver_mgmt {s : State} (h : s.hart.core = mgmtCore) (t : Trap) (ra : BitVec 48) (imp : Bool) (idx : Nat) :
    deliver s t ra imp idx = mgmtReset s := by
  simp [deliver, h]

/-- R117: a precise trap that the handler takes enters it. -/
theorem deliver_handler {s : State} {t : Trap} (hc : s.hart.core ≠ mgmtCore) (ht : toHandler s.hart t.cause = true)
    (ra : BitVec 48) (idx : Nat) :
    deliver s t ra false idx = enterHandler (updH s fun h => { h with job := { h.job with lastCause := t.cause } })
      t.cause t.tval ra false false := by
  unfold deliver
  rw [if_neg hc]
  have e : toHandler (updH s fun h => { h with job := { h.job with lastCause := t.cause } }).hart t.cause = true := ht
  simp only [e, if_true, Bool.false_eq_true, if_false]

/-- R117: a trap that no handler takes goes to the service complex. -/
theorem deliver_service {s : State} {t : Trap} (hc : s.hart.core ≠ mgmtCore) (ht : toHandler s.hart t.cause = false)
    (ra : BitVec 48) (imp : Bool) (idx : Nat) :
    (deliver s t ra imp idx).svc = (pushEvent s (.trap s.hart.job.job)).svc ∧
      (deliver s t ra imp idx).hart.stage = .service ∧ (deliver s t ra imp idx).hart.pc = ra := by
  have e : toHandler (updH s fun h => { h with job := { h.job with lastCause := t.cause } }).hart t.cause = false := ht
  unfold deliver
  rw [if_neg hc]
  simp only [e, Bool.false_eq_true, if_false]
  have q : ∀ (a b : State) (e : SvcEvent), a.svc = b.svc → (pushEvent a e).svc = (pushEvent b e).svc := by
    intro a b e h
    simp only [pushEvent, h]
    split <;> rfl
  refine ⟨?_, ?_, ?_⟩
  · refine (q _ s _ ?_).trans ?_
    · simp only [updH, saveHart_svc]
    · simp only [updH, saveHart_hart]
      rfl
  all_goals simp only [pushEvent_hart, updH, saveHart_hart]

/-! ### Addresses (R248-R251, R406-R408) -/

/-- Counting an event changes the counters alone. -/
theorem countEv_rest (s : State) (c : Nat) (h : Option Nat) (ev n : Nat) : { countEv s c h ev n with pmc := s.pmc } = s := by
  unfold countEv; split <;> rfl

@[simp] theorem countEv_mem (s : State) (c : Nat) (h : Option Nat) (ev n : Nat) : (countEv s c h ev n).mem = s.mem := by
  have e := congrArg State.mem (countEv_rest s c h ev n)
  exact e

@[simp] theorem countEv_tab (s : State) (c : Nat) (h : Option Nat) (ev n : Nat) : (countEv s c h ev n).tab = s.tab := by
  have e := congrArg State.tab (countEv_rest s c h ev n)
  exact e

/-- The state an answer of an access carries. -/
def after {α : Type} : XRes α → State
  | .ok _ s | .fault _ s | .refuse _ s | .guard _ s | .wait s => s

/-- A miss that asks for a walk changes the translation tables alone. -/
theorem askWalk_rest (s : State) (r : WalkReq) : { askWalk s r with tab := s.tab } = s := by
  unfold askWalk
  split
  · rfl
  · split <;> rfl

/-- A translation changes the translation tables and the counters alone. -/
theorem xlate_rest (s : State) (hart T va : Nat) (k : Kind) :
    { after (xlate s hart T va k) with tab := s.tab, pmc := s.pmc } = s := by
  have c1 := fun n => countEv_rest s (hart / 8) (some (hart % 8)) 0x0F n
  unfold xlate
  simp only []
  split
  · rfl
  · split
    · exact congrArg (fun u : State => { u with tab := s.tab }) (c1 1)
    · split
      · rfl
      · split
        · rfl
        · split
          · have c2 := congrArg (fun u : State => { u with tab := s.tab, pmc := s.pmc })
              (countEv_rest (countEv s (hart / 8) (some (hart % 8)) 0x0F 1) (hart / 8) none 0x10 1)
            exact (congrArg (fun u : State => { u with tab := s.tab, pmc := s.pmc }) (askWalk_rest
              (countEv (countEv s (hart / 8) (some (hart % 8)) 0x0F 1) (hart / 8) none 0x10 1) _)).trans
              (c2.trans (congrArg (fun u : State => { u with tab := s.tab }) (c1 1)))
          · rfl

/-- A translation is answered from the core's TLB or from its group's. -/
theorem xlate_ok {s t : State} {hart T va : Nat} {k : Kind} {e : TlbEntry} (h : xlate s hart T va k = .ok e t) :
    e.hits T va = true ∧ e.permits k = true := by
  have find : ∀ l : List TlbEntry, ∀ x, tlbFind l T va k = some x → x.hits T va = true ∧ x.permits k = true := by
    intro l x hx
    simpa using List.find?_some hx
  unfold xlate at h
  simp only [] at h
  split at h
  · cases h; exact find _ _ ‹_›
  · split at h
    · cases h; exact find _ _ ‹_›
    · split at h
      · cases h
      · split at h
        · cases h
        · split at h <;> cases h

/-- A load reads through the target its address resolves to. -/
theorem loadX_ok {s t : State} {a : Acc} {ea : Dword} {n v : Nat} (h : loadX s a ea n = .ok v t) :
    ∃ g u, resolve s a ea n = .ok g u ∧ readC u a g ea n = .ok v t := by
  unfold loadX XRes.bind at h
  cases hr : resolve s a ea n <;> rw [hr] at h <;> first | exact ⟨_, _, rfl, h⟩ | cases h

/-- A store writes through the target its address resolves to. -/
theorem storeX_ok {s t : State} {a : Acc} {ea : Dword} {bs : List Byte} (h : storeX s a ea bs = .ok () t) :
    ∃ g u, resolve s a ea bs.length = .ok g u ∧ writeC u a.hart g ea bs = .ok () t := by
  unfold storeX XRes.bind at h
  cases hr : resolve s a ea bs.length <;> rw [hr] at h <;> first | exact ⟨_, _, rfl, h⟩ | cases h

/-- An address that is not a multiple of the access's size is misaligned (R248). -/
theorem resolve_misaligned {s : State} {a : Acc} {ea : Dword} {n : Nat} (h : ea.toNat % n ≠ 0) :
    resolve s a ea n = .fault ⟨0x10, ea⟩ s := by
  simp [resolve, h]

/-! ### Host commands (R449, R454) -/

/-- A command's meaning acts on the first command the service cores have in hand, if it is one of its kind. -/
theorem runCmd_cases (op : Nat) (pf : Bool) (s : State) (f : Command → State → CmdOut) :
    runCmd op pf s f = .next s ∨ ∃ h l, s.svc.cmds = h :: l ∧ h.cmd.op = op ∧ runCmd op pf s f =
      .next (settleCmd h
        (if pf && h.cmd.fn != 0 then .done 3 0 0 s else if !h.cmd.clean then .done 2 0 0 s else f h.cmd s)) := by
  unfold runCmd
  cases hc : s.svc.cmds with
  | nil => exact .inl rfl
  | cons h l =>
    by_cases ho : h.cmd.op = op
    · exact .inr ⟨h, l, rfl, ho, by simp [ho]⟩
    · exact .inl (by simp [ho])

end Sys2Proof.Laws
end

