-- ==== Sys2Proof/Laws/PerInstr.lean ====
section
/-! SUPPORT. The statement family Encoding: for each constructor of Instr, the decoder reads a well-formed
instruction back from its word, whatever P and K are. -/

namespace Sys2Proof.Laws.Encoding

set_option Elab.async false

/-- Every word of a well-formed instruction, with any P and K, decodes to it; an event has no word. -/
def Statement (i : Instr) : Prop :=
  i.wf = true → ∀ n, encodeNat i = some n →
    n < 2 ^ 30 ∧ ∀ pk : BitVec 2, decodeWord (BitVec.ofNat 32 (n + pk.toNat * 2 ^ 30)) = .ok i

/-- What a lemma of the family shows. -/
theorem of_word {i : Instr} {n : Nat} (e : encodeNat i = some n)
    (d : i.wf = true → ∀ pk : BitVec 2, n + pk.toNat * 2 ^ 30 - pk.toNat * 2 ^ 30 < 2 ^ 30 ∧
      decodeWord (BitVec.ofNat 32 (n + pk.toNat * 2 ^ 30)) = .ok i) :
    Statement i := by
  intro h m hm
  obtain rfl : n = m := Option.some.inj (e.symm.trans hm)
  exact ⟨by simpa using (d h 0).1, fun pk => (d h pk).2⟩

/-- An event or a command has no word. -/
theorem of_none {i : Instr} (e : encodeNat i = none) : Statement i := by
  intro _ n h; rw [e] at h; cases h

theorem nop : Statement (.nop) := by
  refine of_word rfl fun h pk => ?_
  obtain ⟨hb, e0, e1, e2⟩ := layout0 (B := 0x00000000) (c0 := 0) (c1 := 0) (pk := pk) (by decide) (by decide) rfl rfl
  refine ⟨hb, ?_⟩
  rw [majorSys e2]
  simp only [decSys, e0, e1, accept_wf h, beq_self_eq_true, if_true]

theorem svc (imm : BitVec 19) : Statement (.svc imm) := by
  refine of_word rfl fun h pk => ?_
  obtain ⟨hb, e0, e1, e2⟩ := layout1 (B := 0x00080000) (c0 := 1) (c1 := 0) (pk := pk) (by decide) (by decide) rfl rfl
  refine ⟨hb, ?_⟩
  rw [majorSys e2]
  simp only [decSys, e0, e1, accept_wf h]

theorem brk (imm : BitVec 19) : Statement (.brk imm) := by
  refine of_word rfl fun h pk => ?_
  obtain ⟨hb, e0, e1, e2⟩ := layout1 (B := 0x00100000) (c0 := 2) (c1 := 0) (pk := pk) (by decide) (by decide) rfl rfl
  refine ⟨hb, ?_⟩
  rw [majorSys e2]
  simp only [decSys, e0, e1, accept_wf h]

theorem tret : Statement (.tret) := by
  refine of_word rfl fun h pk => ?_
  obtain ⟨hb, e0, e1, e2⟩ := layout0 (B := 0x00180000) (c0 := 3) (c1 := 0) (pk := pk) (by decide) (by decide) rfl rfl
  refine ⟨hb, ?_⟩
  rw [majorSys e2]
  simp only [decSys, e0, e1, accept_wf h, beq_self_eq_true, if_true]

theorem halt : Statement (.halt) := by
  refine of_word rfl fun h pk => ?_
  obtain ⟨hb, e0, e1, e2⟩ := layout0 (B := 0x00200000) (c0 := 4) (c1 := 0) (pk := pk) (by decide) (by decide) rfl rfl
  refine ⟨hb, ?_⟩
  rw [majorSys e2]
  simp only [decSys, e0, e1, accept_wf h, beq_self_eq_true, if_true]

theorem isync : Statement (.isync) := by
  refine of_word rfl fun h pk => ?_
  obtain ⟨hb, e0, e1, e2⟩ := layout0 (B := 0x00280000) (c0 := 5) (c1 := 0) (pk := pk) (by decide) (by decide) rfl rfl
  refine ⟨hb, ?_⟩
  rw [majorSys e2]
  simp only [decSys, e0, e1, accept_wf h, beq_self_eq_true, if_true]

theorem mfc (sd : BitVec 5) (creg : BitVec 12) : Statement (.mfc sd creg) := by
  refine of_word rfl fun h pk => ?_
  obtain ⟨hb, e0, e1, e2, e3, e4⟩ := layout2 (B := 0x01000000) (c0 := 0) (c1 := 1) (pk := pk) (by decide) (by decide) rfl rfl
  refine ⟨hb, ?_⟩
  rw [majorCreg e4]
  simp only [decCreg, e0, e1, e2, e3, accept_wf h, beq_self_eq_true, if_true]

theorem mtc (sd : BitVec 5) (sa : BitVec 5) (creg : BitVec 12) : Statement (.mtc sd sa creg) := by
  refine of_word rfl fun h pk => ?_
  obtain ⟨hb, e0, e1, e2, e3, e4⟩ := layout3 (B := 0x01001000) (c0 := 1) (c1 := 1) (pk := pk) (by decide) (by decide) rfl rfl
  refine ⟨hb, ?_⟩
  rw [majorCreg e4]
  simp only [decCreg, e0, e1, e2, e3, accept_wf h]

theorem setc (sd : BitVec 5) (sa : BitVec 5) (creg : BitVec 12) : Statement (.setc sd sa creg) := by
  refine of_word rfl fun h pk => ?_
  obtain ⟨hb, e0, e1, e2, e3, e4⟩ := layout3 (B := 0x01002000) (c0 := 2) (c1 := 1) (pk := pk) (by decide) (by decide) rfl rfl
  refine ⟨hb, ?_⟩
  rw [majorCreg e4]
  simp only [decCreg, e0, e1, e2, e3, accept_wf h]

theorem clrc (sd : BitVec 5) (sa : BitVec 5) (creg : BitVec 12) : Statement (.clrc sd sa creg) := by
  refine of_word rfl fun h pk => ?_
  obtain ⟨hb, e0, e1, e2, e3, e4⟩ := layout3 (B := 0x01003000) (c0 := 3) (c1 := 1) (pk := pk) (by decide) (by decide) rfl rfl
  refine ⟨hb, ?_⟩
  rw [majorCreg e4]
  simp only [decCreg, e0, e1, e2, e3, accept_wf h]

theorem add (sd : BitVec 5) (sa : BitVec 5) (sb : BitVec 5) : Statement (.add sd sa sb) := by
  refine of_word rfl fun h pk => ?_
  obtain ⟨hb, e0, e1, e2, e3, e4⟩ := layout4 (B := 0x02000000) (c0 := 0) (c1 := 2) (pk := pk) (by decide) (by decide) rfl rfl
  refine ⟨hb, ?_⟩
  rw [majorAlu e4]
  simp only [decAlu, e0, e1, e2, e3, accept_wf h]

theorem sub (sd : BitVec 5) (sa : BitVec 5) (sb : BitVec 5) : Statement (.sub sd sa sb) := by
  refine of_word rfl fun h pk => ?_
  obtain ⟨hb, e0, e1, e2, e3, e4⟩ := layout4 (B := 0x02000001) (c0 := 1) (c1 := 2) (pk := pk) (by decide) (by decide) rfl rfl
  refine ⟨hb, ?_⟩
  rw [majorAlu e4]
  simp only [decAlu, e0, e1, e2, e3, accept_wf h]

theorem and (sd : BitVec 5) (sa : BitVec 5) (sb : BitVec 5) : Statement (.and sd sa sb) := by
  refine of_word rfl fun h pk => ?_
  obtain ⟨hb, e0, e1, e2, e3, e4⟩ := layout4 (B := 0x02000002) (c0 := 2) (c1 := 2) (pk := pk) (by decide) (by decide) rfl rfl
  refine ⟨hb, ?_⟩
  rw [majorAlu e4]
  simp only [decAlu, e0, e1, e2, e3, accept_wf h]

theorem or (sd : BitVec 5) (sa : BitVec 5) (sb : BitVec 5) : Statement (.or sd sa sb) := by
  refine of_word rfl fun h pk => ?_
  obtain ⟨hb, e0, e1, e2, e3, e4⟩ := layout4 (B := 0x02000003) (c0 := 3) (c1 := 2) (pk := pk) (by decide) (by decide) rfl rfl
  refine ⟨hb, ?_⟩
  rw [majorAlu e4]
  simp only [decAlu, e0, e1, e2, e3, accept_wf h]

theorem xor (sd : BitVec 5) (sa : BitVec 5) (sb : BitVec 5) : Statement (.xor sd sa sb) := by
  refine of_word rfl fun h pk => ?_
  obtain ⟨hb, e0, e1, e2, e3, e4⟩ := layout4 (B := 0x02000004) (c0 := 4) (c1 := 2) (pk := pk) (by decide) (by decide) rfl rfl
  refine ⟨hb, ?_⟩
  rw [majorAlu e4]
  simp only [decAlu, e0, e1, e2, e3, accept_wf h]

theorem sll (sd : BitVec 5) (sa : BitVec 5) (sb : BitVec 5) : Statement (.sll sd sa sb) := by
  refine of_word rfl fun h pk => ?_
  obtain ⟨hb, e0, e1, e2, e3, e4⟩ := layout4 (B := 0x02000005) (c0 := 5) (c1 := 2) (pk := pk) (by decide) (by decide) rfl rfl
  refine ⟨hb, ?_⟩
  rw [majorAlu e4]
  simp only [decAlu, e0, e1, e2, e3, accept_wf h]

theorem srl (sd : BitVec 5) (sa : BitVec 5) (sb : BitVec 5) : Statement (.srl sd sa sb) := by
  refine of_word rfl fun h pk => ?_
  obtain ⟨hb, e0, e1, e2, e3, e4⟩ := layout4 (B := 0x02000006) (c0 := 6) (c1 := 2) (pk := pk) (by decide) (by decide) rfl rfl
  refine ⟨hb, ?_⟩
  rw [majorAlu e4]
  simp only [decAlu, e0, e1, e2, e3, accept_wf h]

theorem sra (sd : BitVec 5) (sa : BitVec 5) (sb : BitVec 5) : Statement (.sra sd sa sb) := by
  refine of_word rfl fun h pk => ?_
  obtain ⟨hb, e0, e1, e2, e3, e4⟩ := layout4 (B := 0x02000007) (c0 := 7) (c1 := 2) (pk := pk) (by decide) (by decide) rfl rfl
  refine ⟨hb, ?_⟩
  rw [majorAlu e4]
  simp only [decAlu, e0, e1, e2, e3, accept_wf h]

theorem min (sd : BitVec 5) (sa : BitVec 5) (sb : BitVec 5) : Statement (.min sd sa sb) := by
  refine of_word rfl fun h pk => ?_
  obtain ⟨hb, e0, e1, e2, e3, e4⟩ := layout4 (B := 0x02000008) (c0 := 8) (c1 := 2) (pk := pk) (by decide) (by decide) rfl rfl
  refine ⟨hb, ?_⟩
  rw [majorAlu e4]
  simp only [decAlu, e0, e1, e2, e3, accept_wf h]

theorem max (sd : BitVec 5) (sa : BitVec 5) (sb : BitVec 5) : Statement (.max sd sa sb) := by
  refine of_word rfl fun h pk => ?_
  obtain ⟨hb, e0, e1, e2, e3, e4⟩ := layout4 (B := 0x02000009) (c0 := 9) (c1 := 2) (pk := pk) (by decide) (by decide) rfl rfl
  refine ⟨hb, ?_⟩
  rw [majorAlu e4]
  simp only [decAlu, e0, e1, e2, e3, accept_wf h]

theorem minn (sd : BitVec 5) (sa : BitVec 5) (sb : BitVec 5) : Statement (.minn sd sa sb) := by
  refine of_word rfl fun h pk => ?_
  obtain ⟨hb, e0, e1, e2, e3, e4⟩ := layout4 (B := 0x0200000A) (c0 := 10) (c1 := 2) (pk := pk) (by decide) (by decide) rfl rfl
  refine ⟨hb, ?_⟩
  rw [majorAlu e4]
  simp only [decAlu, e0, e1, e2, e3, accept_wf h]

theorem maxn (sd : BitVec 5) (sa : BitVec 5) (sb : BitVec 5) : Statement (.maxn sd sa sb) := by
  refine of_word rfl fun h pk => ?_
  obtain ⟨hb, e0, e1, e2, e3, e4⟩ := layout4 (B := 0x0200000B) (c0 := 11) (c1 := 2) (pk := pk) (by decide) (by decide) rfl rfl
  refine ⟨hb, ?_⟩
  rw [majorAlu e4]
  simp only [decAlu, e0, e1, e2, e3, accept_wf h]

theorem slt (sd : BitVec 5) (sa : BitVec 5) (sb : BitVec 5) : Statement (.slt sd sa sb) := by
  refine of_word rfl fun h pk => ?_
  obtain ⟨hb, e0, e1, e2, e3, e4⟩ := layout4 (B := 0x0200000C) (c0 := 12) (c1 := 2) (pk := pk) (by decide) (by decide) rfl rfl
  refine ⟨hb, ?_⟩
  rw [majorAlu e4]
  simp only [decAlu, e0, e1, e2, e3, accept_wf h]

theorem sltn (sd : BitVec 5) (sa : BitVec 5) (sb : BitVec 5) : Statement (.sltn sd sa sb) := by
  refine of_word rfl fun h pk => ?_
  obtain ⟨hb, e0, e1, e2, e3, e4⟩ := layout4 (B := 0x0200000D) (c0 := 13) (c1 := 2) (pk := pk) (by decide) (by decide) rfl rfl
  refine ⟨hb, ?_⟩
  rw [majorAlu e4]
  simp only [decAlu, e0, e1, e2, e3, accept_wf h]

theorem addi (sd : BitVec 5) (sa : BitVec 5) (imm : BitVec 14) : Statement (.addi sd sa imm) := by
  refine of_word rfl fun h pk => ?_
  obtain ⟨hb, e0, e1, e2, e3⟩ := layout5 (B := 0x03000000) (c0 := 3) (pk := pk) (by decide) rfl rfl
  refine ⟨hb, ?_⟩
  rw [majorAddi e3]
  simp only [decAddi, e0, e1, e2, accept_wf h]

theorem andi (sd : BitVec 5) (sa : BitVec 5) (imm : BitVec 12) : Statement (.andi sd sa imm) := by
  refine of_word rfl fun h pk => ?_
  obtain ⟨hb, e0, e1, e2, e3, e4⟩ := layout3 (B := 0x04000000) (c0 := 0) (c1 := 4) (pk := pk) (by decide) (by decide) rfl rfl
  refine ⟨hb, ?_⟩
  rw [majorLogImm e4]
  simp only [decLogImm, e0, e1, e2, e3, accept_wf h]

theorem ori (sd : BitVec 5) (sa : BitVec 5) (imm : BitVec 12) : Statement (.ori sd sa imm) := by
  refine of_word rfl fun h pk => ?_
  obtain ⟨hb, e0, e1, e2, e3, e4⟩ := layout3 (B := 0x04001000) (c0 := 1) (c1 := 4) (pk := pk) (by decide) (by decide) rfl rfl
  refine ⟨hb, ?_⟩
  rw [majorLogImm e4]
  simp only [decLogImm, e0, e1, e2, e3, accept_wf h]

theorem xori (sd : BitVec 5) (sa : BitVec 5) (imm : BitVec 12) : Statement (.xori sd sa imm) := by
  refine of_word rfl fun h pk => ?_
  obtain ⟨hb, e0, e1, e2, e3, e4⟩ := layout3 (B := 0x04002000) (c0 := 2) (c1 := 4) (pk := pk) (by decide) (by decide) rfl rfl
  refine ⟨hb, ?_⟩
  rw [majorLogImm e4]
  simp only [decLogImm, e0, e1, e2, e3, accept_wf h]

theorem slli (sd : BitVec 5) (sa : BitVec 5) (sh : BitVec 6) : Statement (.slli sd sa sh) := by
  refine of_word rfl fun h pk => ?_
  obtain ⟨hb, e0, e1, e2, e3, e4, e5⟩ := layout6 (B := 0x05000000) (c0 := 0) (c1 := 5) (pk := pk) (by decide) (by decide) rfl rfl
  refine ⟨hb, ?_⟩
  rw [majorShiftImm e5]
  simp only [decShiftImm, e0, e1, e2, e3, e4, accept_wf h, beq_self_eq_true, if_true]

theorem srli (sd : BitVec 5) (sa : BitVec 5) (sh : BitVec 6) : Statement (.srli sd sa sh) := by
  refine of_word rfl fun h pk => ?_
  obtain ⟨hb, e0, e1, e2, e3, e4, e5⟩ := layout6 (B := 0x05001000) (c0 := 1) (c1 := 5) (pk := pk) (by decide) (by decide) rfl rfl
  refine ⟨hb, ?_⟩
  rw [majorShiftImm e5]
  simp only [decShiftImm, e0, e1, e2, e3, e4, accept_wf h, beq_self_eq_true, if_true]

theorem srai (sd : BitVec 5) (sa : BitVec 5) (sh : BitVec 6) : Statement (.srai sd sa sh) := by
  refine of_word rfl fun h pk => ?_
  obtain ⟨hb, e0, e1, e2, e3, e4, e5⟩ := layout6 (B := 0x05002000) (c0 := 2) (c1 := 5) (pk := pk) (by decide) (by decide) rfl rfl
  refine ⟨hb, ?_⟩
  rw [majorShiftImm e5]
  simp only [decShiftImm, e0, e1, e2, e3, e4, accept_wf h, beq_self_eq_true, if_true]

theorem slti (sd : BitVec 5) (sa : BitVec 5) (imm : BitVec 13) : Statement (.slti sd sa imm) := by
  refine of_word rfl fun h pk => ?_
  obtain ⟨hb, e0, e1, e2, e3, e4⟩ := layout7 (B := 0x06000000) (c0 := 0) (c1 := 6) (pk := pk) (by decide) (by decide) rfl rfl
  refine ⟨hb, ?_⟩
  rw [majorSetImm e4]
  simp only [decSetImm, e0, e1, e2, e3, accept_wf h]

theorem sltin (sd : BitVec 5) (sa : BitVec 5) (imm : BitVec 13) : Statement (.sltin sd sa imm) := by
  refine of_word rfl fun h pk => ?_
  obtain ⟨hb, e0, e1, e2, e3, e4⟩ := layout7 (B := 0x06002000) (c0 := 1) (c1 := 6) (pk := pk) (by decide) (by decide) rfl rfl
  refine ⟨hb, ?_⟩
  rw [majorSetImm e4]
  simp only [decSetImm, e0, e1, e2, e3, accept_wf h]

theorem lui (sd : BitVec 5) (imm : BitVec 19) : Statement (.lui sd imm) := by
  refine of_word rfl fun h pk => ?_
  obtain ⟨hb, e0, e1, e2⟩ := layout8 (B := 0x07000000) (c0 := 7) (pk := pk) (by decide) rfl rfl
  refine ⟨hb, ?_⟩
  rw [majorLui e2]
  simp only [decLui, e0, e1, accept_wf h]

theorem adpc (sd : BitVec 5) (imm : BitVec 19) : Statement (.adpc sd imm) := by
  refine of_word rfl fun h pk => ?_
  obtain ⟨hb, e0, e1, e2⟩ := layout8 (B := 0x08000000) (c0 := 8) (pk := pk) (by decide) rfl rfl
  refine ⟨hb, ?_⟩
  rw [majorAdpc e2]
  simp only [decAdpc, e0, e1, accept_wf h]

theorem sitea (sd : BitVec 5) (sa : BitVec 5) (twin : BitVec 1) (x : BitVec 5) (y : BitVec 5) : Statement (.sitea sd sa twin x y) := by
  refine of_word rfl fun h pk => ?_
  obtain ⟨hb, e0, e1, e2, e3, e4, e5, e6, e7⟩ := layout9 (B := 0x09000000) (c0 := 0) (c1 := 9) (pk := pk) (by decide) (by decide) rfl rfl
  refine ⟨hb, ?_⟩
  rw [majorSitea e7]
  simp only [decSitea, e0, e1, e2, e3, e4, e5, e6, accept_wf h, beq_self_eq_true, if_true]

theorem siteaRel (sd : BitVec 5) (sa : BitVec 5) (twin : BitVec 1) (x : BitVec 5) (y : BitVec 5) : Statement (.siteaRel sd sa twin x y) := by
  refine of_word rfl fun h pk => ?_
  obtain ⟨hb, e0, e1, e2, e3, e4, e5, e6, e7⟩ := layout9 (B := 0x09001000) (c0 := 1) (c1 := 9) (pk := pk) (by decide) (by decide) rfl rfl
  refine ⟨hb, ?_⟩
  rw [majorSitea e7]
  simp only [decSitea, e0, e1, e2, e3, e4, e5, e6, accept_wf h, beq_self_eq_true, if_true]

theorem here (sd : BitVec 5) : Statement (.here sd) := by
  refine of_word rfl fun h pk => ?_
  obtain ⟨hb, e0, e1, e2, e3, e4⟩ := layout10 (B := 0x09002000) (c0 := 2) (c1 := 9) (pk := pk) (by decide) (by decide) rfl rfl
  refine ⟨hb, ?_⟩
  rw [majorSitea e4]
  simp only [decSitea, e0, e1, e2, e3, accept_wf h, beq_self_eq_true, Bool.and_self, if_true]

theorem mul (sd : BitVec 5) (sa : BitVec 5) (sb : BitVec 5) : Statement (.mul sd sa sb) := by
  refine of_word rfl fun h pk => ?_
  obtain ⟨hb, e0, e1, e2, e3, e4⟩ := layout4 (B := 0x0A000000) (c0 := 0) (c1 := 10) (pk := pk) (by decide) (by decide) rfl rfl
  refine ⟨hb, ?_⟩
  rw [majorMul e4]
  simp only [decMul, e0, e1, e2, e3, accept_wf h]

theorem mulh (sd : BitVec 5) (sa : BitVec 5) (sb : BitVec 5) : Statement (.mulh sd sa sb) := by
  refine of_word rfl fun h pk => ?_
  obtain ⟨hb, e0, e1, e2, e3, e4⟩ := layout4 (B := 0x0A000001) (c0 := 1) (c1 := 10) (pk := pk) (by decide) (by decide) rfl rfl
  refine ⟨hb, ?_⟩
  rw [majorMul e4]
  simp only [decMul, e0, e1, e2, e3, accept_wf h]

theorem mulhn (sd : BitVec 5) (sa : BitVec 5) (sb : BitVec 5) : Statement (.mulhn sd sa sb) := by
  refine of_word rfl fun h pk => ?_
  obtain ⟨hb, e0, e1, e2, e3, e4⟩ := layout4 (B := 0x0A000002) (c0 := 2) (c1 := 10) (pk := pk) (by decide) (by decide) rfl rfl
  refine ⟨hb, ?_⟩
  rw [majorMul e4]
  simp only [decMul, e0, e1, e2, e3, accept_wf h]

theorem div (sd : BitVec 5) (sa : BitVec 5) (sb : BitVec 5) : Statement (.div sd sa sb) := by
  refine of_word rfl fun h pk => ?_
  obtain ⟨hb, e0, e1, e2, e3, e4⟩ := layout4 (B := 0x0A000003) (c0 := 3) (c1 := 10) (pk := pk) (by decide) (by decide) rfl rfl
  refine ⟨hb, ?_⟩
  rw [majorMul e4]
  simp only [decMul, e0, e1, e2, e3, accept_wf h]

theorem divn (sd : BitVec 5) (sa : BitVec 5) (sb : BitVec 5) : Statement (.divn sd sa sb) := by
  refine of_word rfl fun h pk => ?_
  obtain ⟨hb, e0, e1, e2, e3, e4⟩ := layout4 (B := 0x0A000004) (c0 := 4) (c1 := 10) (pk := pk) (by decide) (by decide) rfl rfl
  refine ⟨hb, ?_⟩
  rw [majorMul e4]
  simp only [decMul, e0, e1, e2, e3, accept_wf h]

theorem rem (sd : BitVec 5) (sa : BitVec 5) (sb : BitVec 5) : Statement (.rem sd sa sb) := by
  refine of_word rfl fun h pk => ?_
  obtain ⟨hb, e0, e1, e2, e3, e4⟩ := layout4 (B := 0x0A000005) (c0 := 5) (c1 := 10) (pk := pk) (by decide) (by decide) rfl rfl
  refine ⟨hb, ?_⟩
  rw [majorMul e4]
  simp only [decMul, e0, e1, e2, e3, accept_wf h]

theorem remn (sd : BitVec 5) (sa : BitVec 5) (sb : BitVec 5) : Statement (.remn sd sa sb) := by
  refine of_word rfl fun h pk => ?_
  obtain ⟨hb, e0, e1, e2, e3, e4⟩ := layout4 (B := 0x0A000006) (c0 := 6) (c1 := 10) (pk := pk) (by decide) (by decide) rfl rfl
  refine ⟨hb, ?_⟩
  rw [majorMul e4]
  simp only [decMul, e0, e1, e2, e3, accept_wf h]

theorem clz (sd : BitVec 5) (sa : BitVec 5) : Statement (.clz sd sa) := by
  refine of_word rfl fun h pk => ?_
  obtain ⟨hb, e0, e1, e2, e3, e4⟩ := layout11 (B := 0x0B000000) (c0 := 0) (c1 := 11) (pk := pk) (by decide) (by decide) rfl rfl
  refine ⟨hb, ?_⟩
  rw [majorBits e4]
  simp only [decBits, e0, e1, e2, e3, accept_wf h, beq_self_eq_true, if_true]

theorem ctz (sd : BitVec 5) (sa : BitVec 5) : Statement (.ctz sd sa) := by
  refine of_word rfl fun h pk => ?_
  obtain ⟨hb, e0, e1, e2, e3, e4⟩ := layout11 (B := 0x0B000001) (c0 := 1) (c1 := 11) (pk := pk) (by decide) (by decide) rfl rfl
  refine ⟨hb, ?_⟩
  rw [majorBits e4]
  simp only [decBits, e0, e1, e2, e3, accept_wf h, beq_self_eq_true, if_true]

theorem popc (sd : BitVec 5) (sa : BitVec 5) : Statement (.popc sd sa) := by
  refine of_word rfl fun h pk => ?_
  obtain ⟨hb, e0, e1, e2, e3, e4⟩ := layout11 (B := 0x0B000002) (c0 := 2) (c1 := 11) (pk := pk) (by decide) (by decide) rfl rfl
  refine ⟨hb, ?_⟩
  rw [majorBits e4]
  simp only [decBits, e0, e1, e2, e3, accept_wf h, beq_self_eq_true, if_true]

theorem bswap (sd : BitVec 5) (sa : BitVec 5) : Statement (.bswap sd sa) := by
  refine of_word rfl fun h pk => ?_
  obtain ⟨hb, e0, e1, e2, e3, e4⟩ := layout11 (B := 0x0B000003) (c0 := 3) (c1 := 11) (pk := pk) (by decide) (by decide) rfl rfl
  refine ⟨hb, ?_⟩
  rw [majorBits e4]
  simp only [decBits, e0, e1, e2, e3, accept_wf h, beq_self_eq_true, if_true]

theorem ext (sd : BitVec 5) (sa : BitVec 5) (sign : BitVec 1) (width : BitVec 2) : Statement (.ext sd sa sign width) := by
  refine of_word rfl fun h pk => ?_
  obtain ⟨hb, e0, e1, e2, e3, e4, e5, e6⟩ := layout12 (B := 0x0B000004) (c0 := 4) (c1 := 11) (pk := pk) (by decide) (by decide) rfl rfl
  refine ⟨hb, ?_⟩
  rw [majorBits e6]
  simp only [decBits, e0, e1, e2, e3, e4, e5, accept_wf h, beq_self_eq_true, if_true]

theorem beq (sa : BitVec 5) (sb : BitVec 5) (off : BitVec 11) : Statement (.beq sa sb off) := by
  refine of_word rfl fun h pk => ?_
  obtain ⟨hb, e0, e1, e2, e3, e4⟩ := layout13 (B := 0x0C000000) (c0 := 0) (c1 := 12) (pk := pk) (by decide) (by decide) rfl rfl
  refine ⟨hb, ?_⟩
  rw [majorBranch e4]
  simp only [decBranch, e0, e1, e2, e3, accept_wf h]

theorem bne (sa : BitVec 5) (sb : BitVec 5) (off : BitVec 11) : Statement (.bne sa sb off) := by
  refine of_word rfl fun h pk => ?_
  obtain ⟨hb, e0, e1, e2, e3, e4⟩ := layout13 (B := 0x0C200000) (c0 := 1) (c1 := 12) (pk := pk) (by decide) (by decide) rfl rfl
  refine ⟨hb, ?_⟩
  rw [majorBranch e4]
  simp only [decBranch, e0, e1, e2, e3, accept_wf h]

theorem blt (sa : BitVec 5) (sb : BitVec 5) (off : BitVec 11) : Statement (.blt sa sb off) := by
  refine of_word rfl fun h pk => ?_
  obtain ⟨hb, e0, e1, e2, e3, e4⟩ := layout13 (B := 0x0C400000) (c0 := 2) (c1 := 12) (pk := pk) (by decide) (by decide) rfl rfl
  refine ⟨hb, ?_⟩
  rw [majorBranch e4]
  simp only [decBranch, e0, e1, e2, e3, accept_wf h]

theorem bge (sa : BitVec 5) (sb : BitVec 5) (off : BitVec 11) : Statement (.bge sa sb off) := by
  refine of_word rfl fun h pk => ?_
  obtain ⟨hb, e0, e1, e2, e3, e4⟩ := layout13 (B := 0x0C600000) (c0 := 3) (c1 := 12) (pk := pk) (by decide) (by decide) rfl rfl
  refine ⟨hb, ?_⟩
  rw [majorBranch e4]
  simp only [decBranch, e0, e1, e2, e3, accept_wf h]

theorem bltn (sa : BitVec 5) (sb : BitVec 5) (off : BitVec 11) : Statement (.bltn sa sb off) := by
  refine of_word rfl fun h pk => ?_
  obtain ⟨hb, e0, e1, e2, e3, e4⟩ := layout13 (B := 0x0C800000) (c0 := 4) (c1 := 12) (pk := pk) (by decide) (by decide) rfl rfl
  refine ⟨hb, ?_⟩
  rw [majorBranch e4]
  simp only [decBranch, e0, e1, e2, e3, accept_wf h]

theorem bgen (sa : BitVec 5) (sb : BitVec 5) (off : BitVec 11) : Statement (.bgen sa sb off) := by
  refine of_word rfl fun h pk => ?_
  obtain ⟨hb, e0, e1, e2, e3, e4⟩ := layout13 (B := 0x0CA00000) (c0 := 5) (c1 := 12) (pk := pk) (by decide) (by decide) rfl rfl
  refine ⟨hb, ?_⟩
  rw [majorBranch e4]
  simp only [decBranch, e0, e1, e2, e3, accept_wf h]

theorem j (off : BitVec 24) : Statement (.j off) := by
  refine of_word rfl fun h pk => ?_
  obtain ⟨hb, e0, e1⟩ := layout14 (B := 0x0D000000) (c0 := 13) (pk := pk) (by decide) rfl rfl
  refine ⟨hb, ?_⟩
  rw [majorJ e1]
  simp only [decJ, e0, accept_wf h]

theorem call (off : BitVec 24) : Statement (.call off) := by
  refine of_word rfl fun h pk => ?_
  obtain ⟨hb, e0, e1⟩ := layout14 (B := 0x0E000000) (c0 := 14) (pk := pk) (by decide) rfl rfl
  refine ⟨hb, ?_⟩
  rw [majorCall e1]
  simp only [decCall, e0, accept_wf h]

theorem jr (sa : BitVec 5) : Statement (.jr sa) := by
  refine of_word rfl fun h pk => ?_
  obtain ⟨hb, e0, e1, e2, e3⟩ := layout15 (B := 0x0F000000) (c0 := 0) (c1 := 15) (pk := pk) (by decide) (by decide) rfl rfl
  refine ⟨hb, ?_⟩
  rw [majorJump e3]
  simp only [decJump, e0, e1, e2, accept_wf h, beq_self_eq_true, if_true]

theorem callr (sa : BitVec 5) : Statement (.callr sa) := by
  refine of_word rfl fun h pk => ?_
  obtain ⟨hb, e0, e1, e2, e3⟩ := layout15 (B := 0x0F200000) (c0 := 1) (c1 := 15) (pk := pk) (by decide) (by decide) rfl rfl
  refine ⟨hb, ?_⟩
  rw [majorJump e3]
  simp only [decJump, e0, e1, e2, accept_wf h, beq_self_eq_true, if_true]

theorem ret : Statement (.ret) := by
  refine of_word rfl fun h pk => ?_
  obtain ⟨hb, e0, e1, e2⟩ := layout16 (B := 0x0F400000) (c0 := 2) (c1 := 15) (pk := pk) (by decide) (by decide) rfl rfl
  refine ⟨hb, ?_⟩
  rw [majorJump e2]
  simp only [decJump, e0, e1, accept_wf h, beq_self_eq_true, if_true]

theorem loop (sa : BitVec 5) (off : BitVec 11) : Statement (.loop sa off) := by
  refine of_word rfl fun h pk => ?_
  obtain ⟨hb, e0, e1, e2, e3, e4⟩ := layout17 (B := 0x0F600000) (c0 := 3) (c1 := 15) (pk := pk) (by decide) (by decide) rfl rfl
  refine ⟨hb, ?_⟩
  rw [majorJump e4]
  simp only [decJump, e0, e1, e2, e3, accept_wf h, beq_self_eq_true, if_true]

theorem lds (sd : BitVec 5) (sa : BitVec 5) (sz : BitVec 2) (sx : BitVec 1) (ord : BitVec 3) (off : BitVec 8) : Statement (.lds sd sa sz sx ord off) := by
  refine of_word rfl fun h pk => ?_
  obtain ⟨hb, e0, e1, e2, e3, e4, e5, e6⟩ := layout18 (B := 0x10000000) (c0 := 16) (pk := pk) (by decide) rfl rfl
  refine ⟨hb, ?_⟩
  rw [majorLds e6]
  simp only [decLds, e0, e1, e2, e3, e4, e5, accept_wf h]

theorem sts (sd : BitVec 5) (sa : BitVec 5) (sz : BitVec 2) (ord : BitVec 3) (off : BitVec 8) : Statement (.sts sd sa sz ord off) := by
  refine of_word rfl fun h pk => ?_
  obtain ⟨hb, e0, e1, e2, e3, e4, e5, e6⟩ := layout19 (B := 0x11000000) (c0 := 17) (pk := pk) (by decide) rfl rfl
  refine ⟨hb, ?_⟩
  rw [majorSts e6]
  simp only [decSts, e0, e1, e2, e3, e4, e5, accept_wf h, beq_self_eq_true, if_true]

theorem amoAdd (sd : BitVec 5) (sa : BitVec 5) (sb : BitVec 5) (sz : BitVec 1) (sem : BitVec 2) (scope : BitVec 2) : Statement (.amoAdd sd sa sb sz sem scope) := by
  refine of_word rfl fun h pk => ?_
  obtain ⟨hb, e0, e1, e2, e3, e4, e5, e6, e7⟩ := layout20 (B := 0x12000000) (c0 := 0) (c1 := 18) (pk := pk) (by decide) (by decide) rfl rfl
  refine ⟨hb, ?_⟩
  rw [majorAmo e7]
  simp only [decAmo, e0, e1, e2, e3, e4, e5, e6, accept_wf h]

theorem amoAnd (sd : BitVec 5) (sa : BitVec 5) (sb : BitVec 5) (sz : BitVec 1) (sem : BitVec 2) (scope : BitVec 2) : Statement (.amoAnd sd sa sb sz sem scope) := by
  refine of_word rfl fun h pk => ?_
  obtain ⟨hb, e0, e1, e2, e3, e4, e5, e6, e7⟩ := layout20 (B := 0x12000020) (c0 := 1) (c1 := 18) (pk := pk) (by decide) (by decide) rfl rfl
  refine ⟨hb, ?_⟩
  rw [majorAmo e7]
  simp only [decAmo, e0, e1, e2, e3, e4, e5, e6, accept_wf h]

theorem amoOr (sd : BitVec 5) (sa : BitVec 5) (sb : BitVec 5) (sz : BitVec 1) (sem : BitVec 2) (scope : BitVec 2) : Statement (.amoOr sd sa sb sz sem scope) := by
  refine of_word rfl fun h pk => ?_
  obtain ⟨hb, e0, e1, e2, e3, e4, e5, e6, e7⟩ := layout20 (B := 0x12000040) (c0 := 2) (c1 := 18) (pk := pk) (by decide) (by decide) rfl rfl
  refine ⟨hb, ?_⟩
  rw [majorAmo e7]
  simp only [decAmo, e0, e1, e2, e3, e4, e5, e6, accept_wf h]

theorem amoXor (sd : BitVec 5) (sa : BitVec 5) (sb : BitVec 5) (sz : BitVec 1) (sem : BitVec 2) (scope : BitVec 2) : Statement (.amoXor sd sa sb sz sem scope) := by
  refine of_word rfl fun h pk => ?_
  obtain ⟨hb, e0, e1, e2, e3, e4, e5, e6, e7⟩ := layout20 (B := 0x12000060) (c0 := 3) (c1 := 18) (pk := pk) (by decide) (by decide) rfl rfl
  refine ⟨hb, ?_⟩
  rw [majorAmo e7]
  simp only [decAmo, e0, e1, e2, e3, e4, e5, e6, accept_wf h]

theorem amoMin (sd : BitVec 5) (sa : BitVec 5) (sb : BitVec 5) (sz : BitVec 1) (sem : BitVec 2) (scope : BitVec 2) : Statement (.amoMin sd sa sb sz sem scope) := by
  refine of_word rfl fun h pk => ?_
  obtain ⟨hb, e0, e1, e2, e3, e4, e5, e6, e7⟩ := layout20 (B := 0x12000080) (c0 := 4) (c1 := 18) (pk := pk) (by decide) (by decide) rfl rfl
  refine ⟨hb, ?_⟩
  rw [majorAmo e7]
  simp only [decAmo, e0, e1, e2, e3, e4, e5, e6, accept_wf h]

theorem amoMax (sd : BitVec 5) (sa : BitVec 5) (sb : BitVec 5) (sz : BitVec 1) (sem : BitVec 2) (scope : BitVec 2) : Statement (.amoMax sd sa sb sz sem scope) := by
  refine of_word rfl fun h pk => ?_
  obtain ⟨hb, e0, e1, e2, e3, e4, e5, e6, e7⟩ := layout20 (B := 0x120000A0) (c0 := 5) (c1 := 18) (pk := pk) (by decide) (by decide) rfl rfl
  refine ⟨hb, ?_⟩
  rw [majorAmo e7]
  simp only [decAmo, e0, e1, e2, e3, e4, e5, e6, accept_wf h]

theorem amoMinn (sd : BitVec 5) (sa : BitVec 5) (sb : BitVec 5) (sz : BitVec 1) (sem : BitVec 2) (scope : BitVec 2) : Statement (.amoMinn sd sa sb sz sem scope) := by
  refine of_word rfl fun h pk => ?_
  obtain ⟨hb, e0, e1, e2, e3, e4, e5, e6, e7⟩ := layout20 (B := 0x120000C0) (c0 := 6) (c1 := 18) (pk := pk) (by decide) (by decide) rfl rfl
  refine ⟨hb, ?_⟩
  rw [majorAmo e7]
  simp only [decAmo, e0, e1, e2, e3, e4, e5, e6, accept_wf h]

theorem amoMaxn (sd : BitVec 5) (sa : BitVec 5) (sb : BitVec 5) (sz : BitVec 1) (sem : BitVec 2) (scope : BitVec 2) : Statement (.amoMaxn sd sa sb sz sem scope) := by
  refine of_word rfl fun h pk => ?_
  obtain ⟨hb, e0, e1, e2, e3, e4, e5, e6, e7⟩ := layout20 (B := 0x120000E0) (c0 := 7) (c1 := 18) (pk := pk) (by decide) (by decide) rfl rfl
  refine ⟨hb, ?_⟩
  rw [majorAmo e7]
  simp only [decAmo, e0, e1, e2, e3, e4, e5, e6, accept_wf h]

theorem amoSwap (sd : BitVec 5) (sa : BitVec 5) (sb : BitVec 5) (sz : BitVec 1) (sem : BitVec 2) (scope : BitVec 2) : Statement (.amoSwap sd sa sb sz sem scope) := by
  refine of_word rfl fun h pk => ?_
  obtain ⟨hb, e0, e1, e2, e3, e4, e5, e6, e7⟩ := layout20 (B := 0x12000100) (c0 := 8) (c1 := 18) (pk := pk) (by decide) (by decide) rfl rfl
  refine ⟨hb, ?_⟩
  rw [majorAmo e7]
  simp only [decAmo, e0, e1, e2, e3, e4, e5, e6, accept_wf h]

theorem amoCas (sd : BitVec 5) (sa : BitVec 5) (sb : BitVec 5) (sz : BitVec 1) (sem : BitVec 2) (scope : BitVec 2) : Statement (.amoCas sd sa sb sz sem scope) := by
  refine of_word rfl fun h pk => ?_
  obtain ⟨hb, e0, e1, e2, e3, e4, e5, e6, e7⟩ := layout20 (B := 0x12000120) (c0 := 9) (c1 := 18) (pk := pk) (by decide) (by decide) rfl rfl
  refine ⟨hb, ?_⟩
  rw [majorAmo e7]
  simp only [decAmo, e0, e1, e2, e3, e4, e5, e6, accept_wf h]

theorem amoFadd (sd : BitVec 5) (sa : BitVec 5) (sb : BitVec 5) (sz : BitVec 1) (sem : BitVec 2) (scope : BitVec 2) : Statement (.amoFadd sd sa sb sz sem scope) := by
  refine of_word rfl fun h pk => ?_
  obtain ⟨hb, e0, e1, e2, e3, e4, e5, e6, e7⟩ := layout20 (B := 0x12000140) (c0 := 10) (c1 := 18) (pk := pk) (by decide) (by decide) rfl rfl
  refine ⟨hb, ?_⟩
  rw [majorAmo e7]
  simp only [decAmo, e0, e1, e2, e3, e4, e5, e6, accept_wf h]

theorem fence (kind : BitVec 2) (scope : BitVec 3) : Statement (.fence kind scope) := by
  refine of_word rfl fun h pk => ?_
  obtain ⟨hb, e0, e1, e2, e3, e4, e5⟩ := layout21 (B := 0x13000000) (c0 := 0) (c1 := 19) (pk := pk) (by decide) (by decide) rfl rfl
  refine ⟨hb, ?_⟩
  rw [majorFence e5]
  simp only [decFence, e0, e1, e2, e3, e4, accept_wf h, beq_self_eq_true, Bool.and_self, if_true]

theorem lsync : Statement (.lsync) := by
  refine of_word rfl fun h pk => ?_
  obtain ⟨hb, e0, e1, e2, e3⟩ := layout22 (B := 0x13000040) (c0 := 1) (c1 := 19) (pk := pk) (by decide) (by decide) rfl rfl
  refine ⟨hb, ?_⟩
  rw [majorFence e3]
  simp only [decFence, e0, e1, e2, accept_wf h, beq_self_eq_true, Bool.and_self, if_true]

theorem vfence : Statement (.vfence) := by
  refine of_word rfl fun h pk => ?_
  obtain ⟨hb, e0, e1, e2, e3⟩ := layout22 (B := 0x13000080) (c0 := 2) (c1 := 19) (pk := pk) (by decide) (by decide) rfl rfl
  refine ⟨hb, ?_⟩
  rw [majorFence e3]
  simp only [decFence, e0, e1, e2, accept_wf h, beq_self_eq_true, Bool.and_self, if_true]

theorem qfence : Statement (.qfence) := by
  refine of_word rfl fun h pk => ?_
  obtain ⟨hb, e0, e1, e2, e3⟩ := layout22 (B := 0x130000C0) (c0 := 3) (c1 := 19) (pk := pk) (by decide) (by decide) rfl rfl
  refine ⟨hb, ?_⟩
  rw [majorFence e3]
  simp only [decFence, e0, e1, e2, accept_wf h, beq_self_eq_true, Bool.and_self, if_true]

theorem vld (vd : BitVec 6) (sa : BitVec 5) (x : BitVec 5) (k : BitVec 3) (ew : BitVec 2) : Statement (.vld vd sa x k ew) := by
  refine of_word rfl fun h pk => ?_
  obtain ⟨hb, e0, e1, e2, e3, e4, e5, e6⟩ := layout23 (B := 0x14000000) (c0 := 0) (c1 := 20) (pk := pk) (by decide) (by decide) rfl rfl
  refine ⟨hb, ?_⟩
  rw [majorVecLoad e6]
  simp only [decVecLoad, e0, e1, e2, e3, e4, e5, accept_wf h]

theorem vlds (vd : BitVec 6) (sa : BitVec 5) (sb : BitVec 5) (k : BitVec 3) (ew : BitVec 2) : Statement (.vlds vd sa sb k ew) := by
  refine of_word rfl fun h pk => ?_
  obtain ⟨hb, e0, e1, e2, e3, e4, e5, e6⟩ := layout23 (B := 0x14000001) (c0 := 1) (c1 := 20) (pk := pk) (by decide) (by decide) rfl rfl
  refine ⟨hb, ?_⟩
  rw [majorVecLoad e6]
  simp only [decVecLoad, e0, e1, e2, e3, e4, e5, accept_wf h]

theorem vldx (vd : BitVec 6) (sa : BitVec 5) (x : BitVec 5) (k : BitVec 3) (ew : BitVec 2) : Statement (.vldx vd sa x k ew) := by
  refine of_word rfl fun h pk => ?_
  obtain ⟨hb, e0, e1, e2, e3, e4, e5, e6⟩ := layout23 (B := 0x14000002) (c0 := 2) (c1 := 20) (pk := pk) (by decide) (by decide) rfl rfl
  refine ⟨hb, ?_⟩
  rw [majorVecLoad e6]
  simp only [decVecLoad, e0, e1, e2, e3, e4, e5, accept_wf h]

theorem vld2d (vd : BitVec 6) (sa : BitVec 5) (sb : BitVec 5) (k : BitVec 3) (ew : BitVec 2) : Statement (.vld2d vd sa sb k ew) := by
  refine of_word rfl fun h pk => ?_
  obtain ⟨hb, e0, e1, e2, e3, e4, e5, e6⟩ := layout23 (B := 0x14000003) (c0 := 3) (c1 := 20) (pk := pk) (by decide) (by decide) rfl rfl
  refine ⟨hb, ?_⟩
  rw [majorVecLoad e6]
  simp only [decVecLoad, e0, e1, e2, e3, e4, e5, accept_wf h]

theorem vldw (vd : BitVec 6) (wn : BitVec 5) (chunk : BitVec 5) (k : BitVec 3) (ew : BitVec 2) : Statement (.vldw vd wn chunk k ew) := by
  refine of_word rfl fun h pk => ?_
  obtain ⟨hb, e0, e1, e2, e3, e4, e5, e6⟩ := layout23 (B := 0x14000004) (c0 := 4) (c1 := 20) (pk := pk) (by decide) (by decide) rfl rfl
  refine ⟨hb, ?_⟩
  rw [majorVecLoad e6]
  simp only [decVecLoad, e0, e1, e2, e3, e4, e5, accept_wf h]

theorem vldl (vd : BitVec 6) (sa : BitVec 5) (x : BitVec 5) (k : BitVec 3) (ew : BitVec 1) : Statement (.vldl vd sa x k ew) := by
  refine of_word rfl fun h pk => ?_
  obtain ⟨hb, e0, e1, e2, e3, e4, e5, e6, e7⟩ := layout24 (B := 0x14000015) (c0 := 5) (c1 := 20) (pk := pk) (by decide) (by decide) rfl rfl
  refine ⟨hb, ?_⟩
  rw [majorVecLoad e7]
  simp only [decVecLoad, e0, e1, e2, e3, e4, e5, e6, accept_wf h, beq_self_eq_true, if_true]

theorem vst (vd : BitVec 6) (sa : BitVec 5) (x : BitVec 5) (k : BitVec 3) (ew : BitVec 2) : Statement (.vst vd sa x k ew) := by
  refine of_word rfl fun h pk => ?_
  obtain ⟨hb, e0, e1, e2, e3, e4, e5, e6⟩ := layout23 (B := 0x15000000) (c0 := 0) (c1 := 21) (pk := pk) (by decide) (by decide) rfl rfl
  refine ⟨hb, ?_⟩
  rw [majorVecStore e6]
  simp only [decVecStore, e0, e1, e2, e3, e4, e5, accept_wf h]

theorem vsts (vd : BitVec 6) (sa : BitVec 5) (sb : BitVec 5) (k : BitVec 3) (ew : BitVec 2) : Statement (.vsts vd sa sb k ew) := by
  refine of_word rfl fun h pk => ?_
  obtain ⟨hb, e0, e1, e2, e3, e4, e5, e6⟩ := layout23 (B := 0x15000001) (c0 := 1) (c1 := 21) (pk := pk) (by decide) (by decide) rfl rfl
  refine ⟨hb, ?_⟩
  rw [majorVecStore e6]
  simp only [decVecStore, e0, e1, e2, e3, e4, e5, accept_wf h]

theorem vstx (vd : BitVec 6) (sa : BitVec 5) (x : BitVec 5) (k : BitVec 3) (ew : BitVec 2) : Statement (.vstx vd sa x k ew) := by
  refine of_word rfl fun h pk => ?_
  obtain ⟨hb, e0, e1, e2, e3, e4, e5, e6⟩ := layout23 (B := 0x15000002) (c0 := 2) (c1 := 21) (pk := pk) (by decide) (by decide) rfl rfl
  refine ⟨hb, ?_⟩
  rw [majorVecStore e6]
  simp only [decVecStore, e0, e1, e2, e3, e4, e5, accept_wf h]

theorem vst2d (vd : BitVec 6) (sa : BitVec 5) (sb : BitVec 5) (k : BitVec 3) (ew : BitVec 2) : Statement (.vst2d vd sa sb k ew) := by
  refine of_word rfl fun h pk => ?_
  obtain ⟨hb, e0, e1, e2, e3, e4, e5, e6⟩ := layout23 (B := 0x15000003) (c0 := 3) (c1 := 21) (pk := pk) (by decide) (by decide) rfl rfl
  refine ⟨hb, ?_⟩
  rw [majorVecStore e6]
  simp only [decVecStore, e0, e1, e2, e3, e4, e5, accept_wf h]

theorem vstc (vd : BitVec 6) (sa : BitVec 5) (x : BitVec 5) (k : BitVec 3) (ew : BitVec 1) : Statement (.vstc vd sa x k ew) := by
  refine of_word rfl fun h pk => ?_
  obtain ⟨hb, e0, e1, e2, e3, e4, e5, e6, e7⟩ := layout24 (B := 0x15000015) (c0 := 5) (c1 := 21) (pk := pk) (by decide) (by decide) rfl rfl
  refine ⟨hb, ?_⟩
  rw [majorVecStore e7]
  simp only [decVecStore, e0, e1, e2, e3, e4, e5, e6, accept_wf h, beq_self_eq_true, if_true]

theorem vamoAdd (vd : BitVec 6) (sa : BitVec 5) (x : BitVec 5) (k : BitVec 3) (ew : BitVec 1) : Statement (.vamoAdd vd sa x k ew) := by
  refine of_word rfl fun h pk => ?_
  obtain ⟨hb, e0, e1, e2, e3, e4, e5, e6, e7⟩ := layout24 (B := 0x16000010) (c0 := 0) (c1 := 22) (pk := pk) (by decide) (by decide) rfl rfl
  refine ⟨hb, ?_⟩
  rw [majorVamo e7]
  simp only [decVamo, e0, e1, e2, e3, e4, e5, e6, accept_wf h, beq_self_eq_true, if_true]

theorem vamoMin (vd : BitVec 6) (sa : BitVec 5) (x : BitVec 5) (k : BitVec 3) (ew : BitVec 1) : Statement (.vamoMin vd sa x k ew) := by
  refine of_word rfl fun h pk => ?_
  obtain ⟨hb, e0, e1, e2, e3, e4, e5, e6, e7⟩ := layout24 (B := 0x16000011) (c0 := 1) (c1 := 22) (pk := pk) (by decide) (by decide) rfl rfl
  refine ⟨hb, ?_⟩
  rw [majorVamo e7]
  simp only [decVamo, e0, e1, e2, e3, e4, e5, e6, accept_wf h, beq_self_eq_true, if_true]

theorem vamoMax (vd : BitVec 6) (sa : BitVec 5) (x : BitVec 5) (k : BitVec 3) (ew : BitVec 1) : Statement (.vamoMax vd sa x k ew) := by
  refine of_word rfl fun h pk => ?_
  obtain ⟨hb, e0, e1, e2, e3, e4, e5, e6, e7⟩ := layout24 (B := 0x16000012) (c0 := 2) (c1 := 22) (pk := pk) (by decide) (by decide) rfl rfl
  refine ⟨hb, ?_⟩
  rw [majorVamo e7]
  simp only [decVamo, e0, e1, e2, e3, e4, e5, e6, accept_wf h, beq_self_eq_true, if_true]

theorem vamoOr (vd : BitVec 6) (sa : BitVec 5) (x : BitVec 5) (k : BitVec 3) (ew : BitVec 1) : Statement (.vamoOr vd sa x k ew) := by
  refine of_word rfl fun h pk => ?_
  obtain ⟨hb, e0, e1, e2, e3, e4, e5, e6, e7⟩ := layout24 (B := 0x16000013) (c0 := 3) (c1 := 22) (pk := pk) (by decide) (by decide) rfl rfl
  refine ⟨hb, ?_⟩
  rw [majorVamo e7]
  simp only [decVamo, e0, e1, e2, e3, e4, e5, e6, accept_wf h, beq_self_eq_true, if_true]

theorem vamoXor (vd : BitVec 6) (sa : BitVec 5) (x : BitVec 5) (k : BitVec 3) (ew : BitVec 1) : Statement (.vamoXor vd sa x k ew) := by
  refine of_word rfl fun h pk => ?_
  obtain ⟨hb, e0, e1, e2, e3, e4, e5, e6, e7⟩ := layout24 (B := 0x16000014) (c0 := 4) (c1 := 22) (pk := pk) (by decide) (by decide) rfl rfl
  refine ⟨hb, ?_⟩
  rw [majorVamo e7]
  simp only [decVamo, e0, e1, e2, e3, e4, e5, e6, accept_wf h, beq_self_eq_true, if_true]

theorem setvl (sd : BitVec 5) (sa : BitVec 5) (typ : BitVec 5) (grp : BitVec 2) : Statement (.setvl sd sa typ grp) := by
  refine of_word rfl fun h pk => ?_
  obtain ⟨hb, e0, e1, e2, e3, e4, e5, e6⟩ := layout25 (B := 0x17000000) (c0 := 0) (c1 := 23) (pk := pk) (by decide) (by decide) rfl rfl
  refine ⟨hb, ?_⟩
  rw [majorSetvl e6]
  simp only [decSetvl, e0, e1, e2, e3, e4, e5, accept_wf h, beq_self_eq_true, if_true]

theorem setvli (sd : BitVec 5) (typ : BitVec 5) (grp : BitVec 2) (imm : BitVec 10) : Statement (.setvli sd typ grp imm) := by
  refine of_word rfl fun h pk => ?_
  obtain ⟨hb, e0, e1, e2, e3, e4, e5⟩ := layout26 (B := 0x17000001) (c0 := 1) (c1 := 23) (pk := pk) (by decide) (by decide) rfl rfl
  refine ⟨hb, ?_⟩
  rw [majorSetvl e5]
  simp only [decSetvl, e0, e1, e2, e3, e4, accept_wf h]

theorem settile (sd : BitVec 5) (sa : BitVec 5) (sb : BitVec 5) : Statement (.settile sd sa sb) := by
  refine of_word rfl fun h pk => ?_
  obtain ⟨hb, e0, e1, e2, e3, e4, e5⟩ := layout27 (B := 0x17000002) (c0 := 2) (c1 := 23) (pk := pk) (by decide) (by decide) rfl rfl
  refine ⟨hb, ?_⟩
  rw [majorSetvl e5]
  simp only [decSetvl, e0, e1, e2, e3, e4, accept_wf h, beq_self_eq_true, if_true]

theorem spawn (sd : BitVec 5) (sa : BitVec 5) : Statement (.spawn sd sa) := by
  refine of_word rfl fun h pk => ?_
  obtain ⟨hb, e0, e1, e2, e3, e4⟩ := layout11 (B := 0x18000000) (c0 := 0) (c1 := 24) (pk := pk) (by decide) (by decide) rfl rfl
  refine ⟨hb, ?_⟩
  rw [majorJob e4]
  simp only [decJob, e0, e1, e2, e3, accept_wf h, beq_self_eq_true, if_true]

theorem gang (sd : BitVec 5) (sa : BitVec 5) (sb : BitVec 5) : Statement (.gang sd sa sb) := by
  refine of_word rfl fun h pk => ?_
  obtain ⟨hb, e0, e1, e2, e3, e4⟩ := layout4 (B := 0x18000001) (c0 := 1) (c1 := 24) (pk := pk) (by decide) (by decide) rfl rfl
  refine ⟨hb, ?_⟩
  rw [majorJob e4]
  simp only [decJob, e0, e1, e2, e3, accept_wf h]

theorem exitJob (sa : BitVec 5) : Statement (.exitJob sa) := by
  refine of_word rfl fun h pk => ?_
  obtain ⟨hb, e0, e1, e2, e3, e4⟩ := layout28 (B := 0x18000002) (c0 := 2) (c1 := 24) (pk := pk) (by decide) (by decide) rfl rfl
  refine ⟨hb, ?_⟩
  rw [majorJob e4]
  simp only [decJob, e0, e1, e2, e3, accept_wf h, beq_self_eq_true, Bool.and_self, if_true]

theorem yieldJob : Statement (.yieldJob) := by
  refine of_word rfl fun h pk => ?_
  obtain ⟨hb, e0, e1, e2⟩ := layout29 (B := 0x18000003) (c0 := 3) (c1 := 24) (pk := pk) (by decide) (by decide) rfl rfl
  refine ⟨hb, ?_⟩
  rw [majorJob e2]
  simp only [decJob, e0, e1, accept_wf h, beq_self_eq_true, if_true]

theorem abandon (sd : BitVec 5) (sa : BitVec 5) : Statement (.abandon sd sa) := by
  refine of_word rfl fun h pk => ?_
  obtain ⟨hb, e0, e1, e2, e3, e4⟩ := layout11 (B := 0x18000004) (c0 := 4) (c1 := 24) (pk := pk) (by decide) (by decide) rfl rfl
  refine ⟨hb, ?_⟩
  rw [majorJob e4]
  simp only [decJob, e0, e1, e2, e3, accept_wf h, beq_self_eq_true, if_true]

theorem setdl (sd : BitVec 5) (sa : BitVec 5) : Statement (.setdl sd sa) := by
  refine of_word rfl fun h pk => ?_
  obtain ⟨hb, e0, e1, e2, e3, e4⟩ := layout11 (B := 0x18000005) (c0 := 5) (c1 := 24) (pk := pk) (by decide) (by decide) rfl rfl
  refine ⟨hb, ?_⟩
  rw [majorJob e4]
  simp only [decJob, e0, e1, e2, e3, accept_wf h, beq_self_eq_true, if_true]

theorem depInit (sd : BitVec 5) (sa : BitVec 5) (sb : BitVec 5) : Statement (.depInit sd sa sb) := by
  refine of_word rfl fun h pk => ?_
  obtain ⟨hb, e0, e1, e2, e3, e4⟩ := layout4 (B := 0x19000000) (c0 := 0) (c1 := 25) (pk := pk) (by decide) (by decide) rfl rfl
  refine ⟨hb, ?_⟩
  rw [majorDep e4]
  simp only [decDep, e0, e1, e2, e3, accept_wf h]

theorem depAdd (sd : BitVec 5) (sa : BitVec 5) (sb : BitVec 5) : Statement (.depAdd sd sa sb) := by
  refine of_word rfl fun h pk => ?_
  obtain ⟨hb, e0, e1, e2, e3, e4⟩ := layout4 (B := 0x19000001) (c0 := 1) (c1 := 25) (pk := pk) (by decide) (by decide) rfl rfl
  refine ⟨hb, ?_⟩
  rw [majorDep e4]
  simp only [decDep, e0, e1, e2, e3, accept_wf h]

theorem depDec (sd : BitVec 5) (sa : BitVec 5) (sb : BitVec 5) : Statement (.depDec sd sa sb) := by
  refine of_word rfl fun h pk => ?_
  obtain ⟨hb, e0, e1, e2, e3, e4⟩ := layout4 (B := 0x19000002) (c0 := 2) (c1 := 25) (pk := pk) (by decide) (by decide) rfl rfl
  refine ⟨hb, ?_⟩
  rw [majorDep e4]
  simp only [decDep, e0, e1, e2, e3, accept_wf h]

theorem depGet (sd : BitVec 5) (sa : BitVec 5) : Statement (.depGet sd sa) := by
  refine of_word rfl fun h pk => ?_
  obtain ⟨hb, e0, e1, e2, e3, e4⟩ := layout11 (B := 0x19000003) (c0 := 3) (c1 := 25) (pk := pk) (by decide) (by decide) rfl rfl
  refine ⟨hb, ?_⟩
  rw [majorDep e4]
  simp only [decDep, e0, e1, e2, e3, accept_wf h, beq_self_eq_true, if_true]

theorem barInit (sd : BitVec 5) (sa : BitVec 5) (sb : BitVec 5) : Statement (.barInit sd sa sb) := by
  refine of_word rfl fun h pk => ?_
  obtain ⟨hb, e0, e1, e2, e3, e4⟩ := layout4 (B := 0x1A000000) (c0 := 0) (c1 := 26) (pk := pk) (by decide) (by decide) rfl rfl
  refine ⟨hb, ?_⟩
  rw [majorBar e4]
  simp only [decBar, e0, e1, e2, e3, accept_wf h]

theorem barArrive (sd : BitVec 5) (sa : BitVec 5) : Statement (.barArrive sd sa) := by
  refine of_word rfl fun h pk => ?_
  obtain ⟨hb, e0, e1, e2, e3, e4⟩ := layout11 (B := 0x1A000001) (c0 := 1) (c1 := 26) (pk := pk) (by decide) (by decide) rfl rfl
  refine ⟨hb, ?_⟩
  rw [majorBar e4]
  simp only [decBar, e0, e1, e2, e3, accept_wf h, beq_self_eq_true, if_true]

theorem barWait (sd : BitVec 5) (sa : BitVec 5) (sel : BitVec 5) : Statement (.barWait sd sa sel) := by
  refine of_word rfl fun h pk => ?_
  obtain ⟨hb, e0, e1, e2, e3, e4⟩ := layout4 (B := 0x1A000002) (c0 := 2) (c1 := 26) (pk := pk) (by decide) (by decide) rfl rfl
  refine ⟨hb, ?_⟩
  rw [majorBar e4]
  simp only [decBar, e0, e1, e2, e3, accept_wf h]

theorem barWaitt (sd : BitVec 5) (sa : BitVec 5) (sb : BitVec 5) : Statement (.barWaitt sd sa sb) := by
  refine of_word rfl fun h pk => ?_
  obtain ⟨hb, e0, e1, e2, e3, e4⟩ := layout4 (B := 0x1A000003) (c0 := 3) (c1 := 26) (pk := pk) (by decide) (by decide) rfl rfl
  refine ⟨hb, ?_⟩
  rw [majorBar e4]
  simp only [decBar, e0, e1, e2, e3, accept_wf h]

theorem barArriveFsum (sd : BitVec 5) (sa : BitVec 5) (sb : BitVec 5) : Statement (.barArriveFsum sd sa sb) := by
  refine of_word rfl fun h pk => ?_
  obtain ⟨hb, e0, e1, e2, e3, e4⟩ := layout4 (B := 0x1A000004) (c0 := 4) (c1 := 26) (pk := pk) (by decide) (by decide) rfl rfl
  refine ⟨hb, ?_⟩
  rw [majorBar e4]
  simp only [decBar, e0, e1, e2, e3, accept_wf h]

theorem barArriveFsum2 (sd : BitVec 5) (sa : BitVec 5) (sb : BitVec 5) : Statement (.barArriveFsum2 sd sa sb) := by
  refine of_word rfl fun h pk => ?_
  obtain ⟨hb, e0, e1, e2, e3, e4⟩ := layout4 (B := 0x1A000005) (c0 := 5) (c1 := 26) (pk := pk) (by decide) (by decide) rfl rfl
  refine ⟨hb, ?_⟩
  rw [majorBar e4]
  simp only [decBar, e0, e1, e2, e3, accept_wf h]

theorem barArriveIsum (sd : BitVec 5) (sa : BitVec 5) (sb : BitVec 5) : Statement (.barArriveIsum sd sa sb) := by
  refine of_word rfl fun h pk => ?_
  obtain ⟨hb, e0, e1, e2, e3, e4⟩ := layout4 (B := 0x1A000006) (c0 := 6) (c1 := 26) (pk := pk) (by decide) (by decide) rfl rfl
  refine ⟨hb, ?_⟩
  rw [majorBar e4]
  simp only [decBar, e0, e1, e2, e3, accept_wf h]

theorem tktTake (sd : BitVec 5) (sa : BitVec 5) : Statement (.tktTake sd sa) := by
  refine of_word rfl fun h pk => ?_
  obtain ⟨hb, e0, e1, e2, e3, e4⟩ := layout11 (B := 0x1A000008) (c0 := 8) (c1 := 26) (pk := pk) (by decide) (by decide) rfl rfl
  refine ⟨hb, ?_⟩
  rw [majorBar e4]
  simp only [decBar, e0, e1, e2, e3, accept_wf h, beq_self_eq_true, if_true]

theorem tktWait (sa : BitVec 5) (sb : BitVec 5) : Statement (.tktWait sa sb) := by
  refine of_word rfl fun h pk => ?_
  obtain ⟨hb, e0, e1, e2, e3, e4⟩ := layout30 (B := 0x1A000009) (c0 := 9) (c1 := 26) (pk := pk) (by decide) (by decide) rfl rfl
  refine ⟨hb, ?_⟩
  rw [majorBar e4]
  simp only [decBar, e0, e1, e2, e3, accept_wf h, beq_self_eq_true, if_true]

theorem tktGive (sd : BitVec 5) (sa : BitVec 5) : Statement (.tktGive sd sa) := by
  refine of_word rfl fun h pk => ?_
  obtain ⟨hb, e0, e1, e2, e3, e4⟩ := layout11 (B := 0x1A00000A) (c0 := 10) (c1 := 26) (pk := pk) (by decide) (by decide) rfl rfl
  refine ⟨hb, ?_⟩
  rw [majorBar e4]
  simp only [decBar, e0, e1, e2, e3, accept_wf h, beq_self_eq_true, if_true]

theorem tktWaitt (sd : BitVec 5) (sa : BitVec 5) (sb : BitVec 5) : Statement (.tktWaitt sd sa sb) := by
  refine of_word rfl fun h pk => ?_
  obtain ⟨hb, e0, e1, e2, e3, e4⟩ := layout4 (B := 0x1A00000B) (c0 := 11) (c1 := 26) (pk := pk) (by decide) (by decide) rfl rfl
  refine ⟨hb, ?_⟩
  rw [majorBar e4]
  simp only [decBar, e0, e1, e2, e3, accept_wf h]

theorem winCfg (sd : BitVec 5) (wn : BitVec 5) (sb : BitVec 5) : Statement (.winCfg sd wn sb) := by
  refine of_word rfl fun h pk => ?_
  obtain ⟨hb, e0, e1, e2, e3, e4⟩ := layout4 (B := 0x1B000000) (c0 := 0) (c1 := 27) (pk := pk) (by decide) (by decide) rfl rfl
  refine ⟨hb, ?_⟩
  rw [majorWin e4]
  simp only [decWin, e0, e1, e2, e3, accept_wf h]

theorem winPop (sd : BitVec 5) (wn : BitVec 5) (sb : BitVec 5) : Statement (.winPop sd wn sb) := by
  refine of_word rfl fun h pk => ?_
  obtain ⟨hb, e0, e1, e2, e3, e4⟩ := layout4 (B := 0x1B000001) (c0 := 1) (c1 := 27) (pk := pk) (by decide) (by decide) rfl rfl
  refine ⟨hb, ?_⟩
  rw [majorWin e4]
  simp only [decWin, e0, e1, e2, e3, accept_wf h]

theorem winGet (sd : BitVec 5) (wn : BitVec 5) (sel : BitVec 5) : Statement (.winGet sd wn sel) := by
  refine of_word rfl fun h pk => ?_
  obtain ⟨hb, e0, e1, e2, e3, e4⟩ := layout4 (B := 0x1B000002) (c0 := 2) (c1 := 27) (pk := pk) (by decide) (by decide) rfl rfl
  refine ⟨hb, ?_⟩
  rw [majorWin e4]
  simp only [decWin, e0, e1, e2, e3, accept_wf h]

theorem winArm (sd : BitVec 5) (wn : BitVec 5) (sb : BitVec 5) : Statement (.winArm sd wn sb) := by
  refine of_word rfl fun h pk => ?_
  obtain ⟨hb, e0, e1, e2, e3, e4⟩ := layout4 (B := 0x1B000003) (c0 := 3) (c1 := 27) (pk := pk) (by decide) (by decide) rfl rfl
  refine ⟨hb, ?_⟩
  rw [majorWin e4]
  simp only [decWin, e0, e1, e2, e3, accept_wf h]

theorem winaWait (sd : BitVec 5) (wn : BitVec 5) (sb : BitVec 5) : Statement (.winaWait sd wn sb) := by
  refine of_word rfl fun h pk => ?_
  obtain ⟨hb, e0, e1, e2, e3, e4⟩ := layout4 (B := 0x1B000004) (c0 := 4) (c1 := 27) (pk := pk) (by decide) (by decide) rfl rfl
  refine ⟨hb, ?_⟩
  rw [majorWin e4]
  simp only [decWin, e0, e1, e2, e3, accept_wf h]

theorem winaWaitt (sd : BitVec 5) (wn : BitVec 5) (sb : BitVec 5) : Statement (.winaWaitt sd wn sb) := by
  refine of_word rfl fun h pk => ?_
  obtain ⟨hb, e0, e1, e2, e3, e4⟩ := layout4 (B := 0x1B000005) (c0 := 5) (c1 := 27) (pk := pk) (by decide) (by decide) rfl rfl
  refine ⟨hb, ?_⟩
  rw [majorWin e4]
  simp only [decWin, e0, e1, e2, e3, accept_wf h]

theorem splRun (sd : BitVec 5) (sa : BitVec 5) : Statement (.splRun sd sa) := by
  refine of_word rfl fun h pk => ?_
  obtain ⟨hb, e0, e1, e2, e3, e4⟩ := layout11 (B := 0x1C000000) (c0 := 0) (c1 := 28) (pk := pk) (by decide) (by decide) rfl rfl
  refine ⟨hb, ?_⟩
  rw [majorSpool e4]
  simp only [decSpool, e0, e1, e2, e3, accept_wf h, beq_self_eq_true, if_true]

theorem splPush (sd : BitVec 5) (sa : BitVec 5) : Statement (.splPush sd sa) := by
  refine of_word rfl fun h pk => ?_
  obtain ⟨hb, e0, e1, e2, e3, e4⟩ := layout11 (B := 0x1C000001) (c0 := 1) (c1 := 28) (pk := pk) (by decide) (by decide) rfl rfl
  refine ⟨hb, ?_⟩
  rw [majorSpool e4]
  simp only [decSpool, e0, e1, e2, e3, accept_wf h, beq_self_eq_true, if_true]

theorem splMcast (sd : BitVec 5) (sa : BitVec 5) (sb : BitVec 5) : Statement (.splMcast sd sa sb) := by
  refine of_word rfl fun h pk => ?_
  obtain ⟨hb, e0, e1, e2, e3, e4⟩ := layout4 (B := 0x1C000002) (c0 := 2) (c1 := 28) (pk := pk) (by decide) (by decide) rfl rfl
  refine ⟨hb, ?_⟩
  rw [majorSpool e4]
  simp only [decSpool, e0, e1, e2, e3, accept_wf h]

theorem splStat (sd : BitVec 5) (sa : BitVec 5) : Statement (.splStat sd sa) := by
  refine of_word rfl fun h pk => ?_
  obtain ⟨hb, e0, e1, e2, e3, e4⟩ := layout11 (B := 0x1C000003) (c0 := 3) (c1 := 28) (pk := pk) (by decide) (by decide) rfl rfl
  refine ⟨hb, ?_⟩
  rw [majorSpool e4]
  simp only [decSpool, e0, e1, e2, e3, accept_wf h, beq_self_eq_true, if_true]

theorem cpost (sd : BitVec 5) (sa : BitVec 5) (sb : BitVec 5) : Statement (.cpost sd sa sb) := by
  refine of_word rfl fun h pk => ?_
  obtain ⟨hb, e0, e1, e2, e3, e4⟩ := layout4 (B := 0x1D000000) (c0 := 0) (c1 := 29) (pk := pk) (by decide) (by decide) rfl rfl
  refine ⟨hb, ?_⟩
  rw [majorPost e4]
  simp only [decPost, e0, e1, e2, e3, accept_wf h]

theorem cstat (sd : BitVec 5) (sa : BitVec 5) : Statement (.cstat sd sa) := by
  refine of_word rfl fun h pk => ?_
  obtain ⟨hb, e0, e1, e2, e3, e4⟩ := layout11 (B := 0x1D000001) (c0 := 1) (c1 := 29) (pk := pk) (by decide) (by decide) rfl rfl
  refine ⟨hb, ?_⟩
  rw [majorPost e4]
  simp only [decPost, e0, e1, e2, e3, accept_wf h, beq_self_eq_true, if_true]

theorem msgSend (sd : BitVec 5) (sa : BitVec 5) : Statement (.msgSend sd sa) := by
  refine of_word rfl fun h pk => ?_
  obtain ⟨hb, e0, e1, e2, e3, e4⟩ := layout11 (B := 0x1D000002) (c0 := 2) (c1 := 29) (pk := pk) (by decide) (by decide) rfl rfl
  refine ⟨hb, ?_⟩
  rw [majorPost e4]
  simp only [decPost, e0, e1, e2, e3, accept_wf h, beq_self_eq_true, if_true]

theorem msgSendv (vs : BitVec 5) (sa : BitVec 5) (sb : BitVec 5) : Statement (.msgSendv vs sa sb) := by
  refine of_word rfl fun h pk => ?_
  obtain ⟨hb, e0, e1, e2, e3, e4⟩ := layout4 (B := 0x1D000003) (c0 := 3) (c1 := 29) (pk := pk) (by decide) (by decide) rfl rfl
  refine ⟨hb, ?_⟩
  rw [majorPost e4]
  simp only [decPost, e0, e1, e2, e3, accept_wf h]

theorem now (sd : BitVec 5) (sel : BitVec 5) : Statement (.now sd sel) := by
  refine of_word rfl fun h pk => ?_
  obtain ⟨hb, e0, e1, e2, e3, e4⟩ := layout11 (B := 0x1E000000) (c0 := 0) (c1 := 30) (pk := pk) (by decide) (by decide) rfl rfl
  refine ⟨hb, ?_⟩
  rw [majorTime e4]
  simp only [decTime, e0, e1, e2, e3, accept_wf h, beq_self_eq_true, if_true]

theorem pmc (sd : BitVec 5) (n : BitVec 5) : Statement (.pmc sd n) := by
  refine of_word rfl fun h pk => ?_
  have b0 := sd.isLt
  have b1 := n.isLt
  have b2 := pk.isLt
  have hn : n.toNat < 8 ∨ 16 ≤ n.toNat := by simpa [Instr.wf] using h
  generalize hN : pack2 0x1E000001 sd.toNat 19 n.toNat 14 + pk.toNat * 2 ^ 30 = N
  simp only [pack2, pack1] at hN
  have hlt : N < 2 ^ 32 := by omega
  have e0 : fld (BitVec.ofNat 32 N) 19 5 = sd := fld_eq hlt (by omega)
  have e1 : fld (BitVec.ofNat 32 N) 14 5 = n := fld_eq hlt (by omega)
  have e2 : (fld (BitVec.ofNat 32 N) 0 9).toNat = 1 := fld_toNat hlt (by omega)
  have e3 : (fld (BitVec.ofNat 32 N) 17 2 == 1) = false := by
    rw [beq_eq_false_iff_ne]
    intro hc
    have := congrArg BitVec.toNat hc
    rw [fld_toNat hlt rfl] at this
    simp at this
    omega
  have e4 : fld (BitVec.ofNat 32 N) 9 5 = 0 := fld_eq hlt (by simp; omega)
  have em : (fld (BitVec.ofNat 32 N) 24 6).toNat = 30 := fld_toNat hlt (by omega)
  refine ⟨by omega, ?_⟩
  rw [majorTime em]
  simp only [decTime, e0, e1, e2, e3, e4, accept_wf h]
  rfl

theorem pmcCfg (sd : BitVec 5) (n : BitVec 3) (sb : BitVec 5) : Statement (.pmcCfg sd n sb) := by
  refine of_word rfl fun h pk => ?_
  have b0 := sd.isLt
  have b1 := n.isLt
  have b2 := sb.isLt
  have b3 := pk.isLt
  generalize hN : pack3 0x1E020001 sd.toNat 19 n.toNat 14 sb.toNat 9 + pk.toNat * 2 ^ 30 = N
  simp only [pack3, pack2, pack1] at hN
  have hlt : N < 2 ^ 32 := by omega
  have e0 : fld (BitVec.ofNat 32 N) 19 5 = sd := fld_eq hlt (by omega)
  have e1 : fld (BitVec.ofNat 32 N) 14 3 = n := fld_eq hlt (by omega)
  have e2 : (fld (BitVec.ofNat 32 N) 0 9).toNat = 1 := fld_toNat hlt (by omega)
  have e3 : fld (BitVec.ofNat 32 N) 17 2 = 1 := fld_eq hlt (by simp; omega)
  have e4 : fld (BitVec.ofNat 32 N) 9 5 = sb := fld_eq hlt (by omega)
  have em : (fld (BitVec.ofNat 32 N) 24 6).toNat = 30 := fld_toNat hlt (by omega)
  refine ⟨by omega, ?_⟩
  rw [majorTime em]
  simp only [decTime, e0, e1, e2, e3, e4, accept_wf h]
  rfl

theorem vadd (vd : BitVec 6) (va : BitVec 6) (vb : BitVec 6) (k : BitVec 3) : Statement (.vadd vd va vb k) := by
  refine of_word rfl fun h pk => ?_
  obtain ⟨hb, e0, e1, e2, e3, e4, e5⟩ := layout31 (B := 0x20000000) (c0 := 0) (c1 := 32) (pk := pk) (by decide) (by decide) rfl rfl
  refine ⟨hb, ?_⟩
  rw [majorVInt0 e5]
  simp only [decVInt0, e0, e1, e2, e3, e4, accept_wf h]

theorem vsub (vd : BitVec 6) (va : BitVec 6) (vb : BitVec 6) (k : BitVec 3) : Statement (.vsub vd va vb k) := by
  refine of_word rfl fun h pk => ?_
  obtain ⟨hb, e0, e1, e2, e3, e4, e5⟩ := layout31 (B := 0x20000001) (c0 := 1) (c1 := 32) (pk := pk) (by decide) (by decide) rfl rfl
  refine ⟨hb, ?_⟩
  rw [majorVInt0 e5]
  simp only [decVInt0, e0, e1, e2, e3, e4, accept_wf h]

theorem vmin (vd : BitVec 6) (va : BitVec 6) (vb : BitVec 6) (k : BitVec 3) : Statement (.vmin vd va vb k) := by
  refine of_word rfl fun h pk => ?_
  obtain ⟨hb, e0, e1, e2, e3, e4, e5⟩ := layout31 (B := 0x20000002) (c0 := 2) (c1 := 32) (pk := pk) (by decide) (by decide) rfl rfl
  refine ⟨hb, ?_⟩
  rw [majorVInt0 e5]
  simp only [decVInt0, e0, e1, e2, e3, e4, accept_wf h]

theorem vmax (vd : BitVec 6) (va : BitVec 6) (vb : BitVec 6) (k : BitVec 3) : Statement (.vmax vd va vb k) := by
  refine of_word rfl fun h pk => ?_
  obtain ⟨hb, e0, e1, e2, e3, e4, e5⟩ := layout31 (B := 0x20000003) (c0 := 3) (c1 := 32) (pk := pk) (by decide) (by decide) rfl rfl
  refine ⟨hb, ?_⟩
  rw [majorVInt0 e5]
  simp only [decVInt0, e0, e1, e2, e3, e4, accept_wf h]

theorem vminn (vd : BitVec 6) (va : BitVec 6) (vb : BitVec 6) (k : BitVec 3) : Statement (.vminn vd va vb k) := by
  refine of_word rfl fun h pk => ?_
  obtain ⟨hb, e0, e1, e2, e3, e4, e5⟩ := layout31 (B := 0x20000004) (c0 := 4) (c1 := 32) (pk := pk) (by decide) (by decide) rfl rfl
  refine ⟨hb, ?_⟩
  rw [majorVInt0 e5]
  simp only [decVInt0, e0, e1, e2, e3, e4, accept_wf h]

theorem vmaxn (vd : BitVec 6) (va : BitVec 6) (vb : BitVec 6) (k : BitVec 3) : Statement (.vmaxn vd va vb k) := by
  refine of_word rfl fun h pk => ?_
  obtain ⟨hb, e0, e1, e2, e3, e4, e5⟩ := layout31 (B := 0x20000005) (c0 := 5) (c1 := 32) (pk := pk) (by decide) (by decide) rfl rfl
  refine ⟨hb, ?_⟩
  rw [majorVInt0 e5]
  simp only [decVInt0, e0, e1, e2, e3, e4, accept_wf h]

theorem vabs (vd : BitVec 6) (va : BitVec 6) (k : BitVec 3) : Statement (.vabs vd va k) := by
  refine of_word rfl fun h pk => ?_
  obtain ⟨hb, e0, e1, e2, e3, e4, e5⟩ := layout32 (B := 0x20000006) (c0 := 6) (c1 := 32) (pk := pk) (by decide) (by decide) rfl rfl
  refine ⟨hb, ?_⟩
  rw [majorVInt0 e5]
  simp only [decVInt0, e0, e1, e2, e3, e4, accept_wf h, beq_self_eq_true, if_true]

theorem vand (vd : BitVec 6) (va : BitVec 6) (vb : BitVec 6) (k : BitVec 3) : Statement (.vand vd va vb k) := by
  refine of_word rfl fun h pk => ?_
  obtain ⟨hb, e0, e1, e2, e3, e4, e5⟩ := layout31 (B := 0x20000007) (c0 := 7) (c1 := 32) (pk := pk) (by decide) (by decide) rfl rfl
  refine ⟨hb, ?_⟩
  rw [majorVInt0 e5]
  simp only [decVInt0, e0, e1, e2, e3, e4, accept_wf h]

theorem vor (vd : BitVec 6) (va : BitVec 6) (vb : BitVec 6) (k : BitVec 3) : Statement (.vor vd va vb k) := by
  refine of_word rfl fun h pk => ?_
  obtain ⟨hb, e0, e1, e2, e3, e4, e5⟩ := layout31 (B := 0x21000000) (c0 := 0) (c1 := 33) (pk := pk) (by decide) (by decide) rfl rfl
  refine ⟨hb, ?_⟩
  rw [majorVInt1 e5]
  simp only [decVInt1, e0, e1, e2, e3, e4, accept_wf h]

theorem vxor (vd : BitVec 6) (va : BitVec 6) (vb : BitVec 6) (k : BitVec 3) : Statement (.vxor vd va vb k) := by
  refine of_word rfl fun h pk => ?_
  obtain ⟨hb, e0, e1, e2, e3, e4, e5⟩ := layout31 (B := 0x21000001) (c0 := 1) (c1 := 33) (pk := pk) (by decide) (by decide) rfl rfl
  refine ⟨hb, ?_⟩
  rw [majorVInt1 e5]
  simp only [decVInt1, e0, e1, e2, e3, e4, accept_wf h]

theorem vsll (vd : BitVec 6) (va : BitVec 6) (vb : BitVec 6) (k : BitVec 3) : Statement (.vsll vd va vb k) := by
  refine of_word rfl fun h pk => ?_
  obtain ⟨hb, e0, e1, e2, e3, e4, e5⟩ := layout31 (B := 0x21000002) (c0 := 2) (c1 := 33) (pk := pk) (by decide) (by decide) rfl rfl
  refine ⟨hb, ?_⟩
  rw [majorVInt1 e5]
  simp only [decVInt1, e0, e1, e2, e3, e4, accept_wf h]

theorem vsrl (vd : BitVec 6) (va : BitVec 6) (vb : BitVec 6) (k : BitVec 3) : Statement (.vsrl vd va vb k) := by
  refine of_word rfl fun h pk => ?_
  obtain ⟨hb, e0, e1, e2, e3, e4, e5⟩ := layout31 (B := 0x21000003) (c0 := 3) (c1 := 33) (pk := pk) (by decide) (by decide) rfl rfl
  refine ⟨hb, ?_⟩
  rw [majorVInt1 e5]
  simp only [decVInt1, e0, e1, e2, e3, e4, accept_wf h]

theorem vsra (vd : BitVec 6) (va : BitVec 6) (vb : BitVec 6) (k : BitVec 3) : Statement (.vsra vd va vb k) := by
  refine of_word rfl fun h pk => ?_
  obtain ⟨hb, e0, e1, e2, e3, e4, e5⟩ := layout31 (B := 0x21000004) (c0 := 4) (c1 := 33) (pk := pk) (by decide) (by decide) rfl rfl
  refine ⟨hb, ?_⟩
  rw [majorVInt1 e5]
  simp only [decVInt1, e0, e1, e2, e3, e4, accept_wf h]

theorem vsadd (vd : BitVec 6) (va : BitVec 6) (vb : BitVec 6) (k : BitVec 3) : Statement (.vsadd vd va vb k) := by
  refine of_word rfl fun h pk => ?_
  obtain ⟨hb, e0, e1, e2, e3, e4, e5⟩ := layout31 (B := 0x21000005) (c0 := 5) (c1 := 33) (pk := pk) (by decide) (by decide) rfl rfl
  refine ⟨hb, ?_⟩
  rw [majorVInt1 e5]
  simp only [decVInt1, e0, e1, e2, e3, e4, accept_wf h]

theorem vssub (vd : BitVec 6) (va : BitVec 6) (vb : BitVec 6) (k : BitVec 3) : Statement (.vssub vd va vb k) := by
  refine of_word rfl fun h pk => ?_
  obtain ⟨hb, e0, e1, e2, e3, e4, e5⟩ := layout31 (B := 0x21000006) (c0 := 6) (c1 := 33) (pk := pk) (by decide) (by decide) rfl rfl
  refine ⟨hb, ?_⟩
  rw [majorVInt1 e5]
  simp only [decVInt1, e0, e1, e2, e3, e4, accept_wf h]

theorem vsaddn (vd : BitVec 6) (va : BitVec 6) (vb : BitVec 6) (k : BitVec 3) : Statement (.vsaddn vd va vb k) := by
  refine of_word rfl fun h pk => ?_
  obtain ⟨hb, e0, e1, e2, e3, e4, e5⟩ := layout31 (B := 0x21000007) (c0 := 7) (c1 := 33) (pk := pk) (by decide) (by decide) rfl rfl
  refine ⟨hb, ?_⟩
  rw [majorVInt1 e5]
  simp only [decVInt1, e0, e1, e2, e3, e4, accept_wf h]

theorem vssubn (vd : BitVec 6) (va : BitVec 6) (vb : BitVec 6) (k : BitVec 3) : Statement (.vssubn vd va vb k) := by
  refine of_word rfl fun h pk => ?_
  obtain ⟨hb, e0, e1, e2, e3, e4, e5⟩ := layout31 (B := 0x22000000) (c0 := 0) (c1 := 34) (pk := pk) (by decide) (by decide) rfl rfl
  refine ⟨hb, ?_⟩
  rw [majorVInt2 e5]
  simp only [decVInt2, e0, e1, e2, e3, e4, accept_wf h]

theorem vnclip (vd : BitVec 6) (va : BitVec 6) (vb : BitVec 6) (k : BitVec 3) : Statement (.vnclip vd va vb k) := by
  refine of_word rfl fun h pk => ?_
  obtain ⟨hb, e0, e1, e2, e3, e4, e5⟩ := layout31 (B := 0x22000001) (c0 := 1) (c1 := 34) (pk := pk) (by decide) (by decide) rfl rfl
  refine ⟨hb, ?_⟩
  rw [majorVInt2 e5]
  simp only [decVInt2, e0, e1, e2, e3, e4, accept_wf h]

theorem vwadd (vd : BitVec 6) (va : BitVec 6) (vb : BitVec 6) (k : BitVec 3) : Statement (.vwadd vd va vb k) := by
  refine of_word rfl fun h pk => ?_
  obtain ⟨hb, e0, e1, e2, e3, e4, e5⟩ := layout31 (B := 0x22000002) (c0 := 2) (c1 := 34) (pk := pk) (by decide) (by decide) rfl rfl
  refine ⟨hb, ?_⟩
  rw [majorVInt2 e5]
  simp only [decVInt2, e0, e1, e2, e3, e4, accept_wf h]

theorem vwmul (vd : BitVec 6) (va : BitVec 6) (vb : BitVec 6) (k : BitVec 3) : Statement (.vwmul vd va vb k) := by
  refine of_word rfl fun h pk => ?_
  obtain ⟨hb, e0, e1, e2, e3, e4, e5⟩ := layout31 (B := 0x22000003) (c0 := 3) (c1 := 34) (pk := pk) (by decide) (by decide) rfl rfl
  refine ⟨hb, ?_⟩
  rw [majorVInt2 e5]
  simp only [decVInt2, e0, e1, e2, e3, e4, accept_wf h]

theorem vmacc (vd : BitVec 6) (va : BitVec 6) (vb : BitVec 6) (k : BitVec 3) : Statement (.vmacc vd va vb k) := by
  refine of_word rfl fun h pk => ?_
  obtain ⟨hb, e0, e1, e2, e3, e4, e5⟩ := layout31 (B := 0x22000004) (c0 := 4) (c1 := 34) (pk := pk) (by decide) (by decide) rfl rfl
  refine ⟨hb, ?_⟩
  rw [majorVInt2 e5]
  simp only [decVInt2, e0, e1, e2, e3, e4, accept_wf h]

theorem vmul (vd : BitVec 6) (va : BitVec 6) (vb : BitVec 6) (k : BitVec 3) : Statement (.vmul vd va vb k) := by
  refine of_word rfl fun h pk => ?_
  obtain ⟨hb, e0, e1, e2, e3, e4, e5⟩ := layout31 (B := 0x22000005) (c0 := 5) (c1 := 34) (pk := pk) (by decide) (by decide) rfl rfl
  refine ⟨hb, ?_⟩
  rw [majorVInt2 e5]
  simp only [decVInt2, e0, e1, e2, e3, e4, accept_wf h]

theorem vmulh (vd : BitVec 6) (va : BitVec 6) (vb : BitVec 6) (k : BitVec 3) : Statement (.vmulh vd va vb k) := by
  refine of_word rfl fun h pk => ?_
  obtain ⟨hb, e0, e1, e2, e3, e4, e5⟩ := layout31 (B := 0x22000006) (c0 := 6) (c1 := 34) (pk := pk) (by decide) (by decide) rfl rfl
  refine ⟨hb, ?_⟩
  rw [majorVInt2 e5]
  simp only [decVInt2, e0, e1, e2, e3, e4, accept_wf h]

theorem vmulhn (vd : BitVec 6) (va : BitVec 6) (vb : BitVec 6) (k : BitVec 3) : Statement (.vmulhn vd va vb k) := by
  refine of_word rfl fun h pk => ?_
  obtain ⟨hb, e0, e1, e2, e3, e4, e5⟩ := layout31 (B := 0x22000007) (c0 := 7) (c1 := 34) (pk := pk) (by decide) (by decide) rfl rfl
  refine ⟨hb, ?_⟩
  rw [majorVInt2 e5]
  simp only [decVInt2, e0, e1, e2, e3, e4, accept_wf h]

theorem vdiv (vd : BitVec 6) (va : BitVec 6) (vb : BitVec 6) (k : BitVec 3) : Statement (.vdiv vd va vb k) := by
  refine of_word rfl fun h pk => ?_
  obtain ⟨hb, e0, e1, e2, e3, e4, e5⟩ := layout31 (B := 0x23000000) (c0 := 0) (c1 := 35) (pk := pk) (by decide) (by decide) rfl rfl
  refine ⟨hb, ?_⟩
  rw [majorVDiv e5]
  simp only [decVDiv, e0, e1, e2, e3, e4, accept_wf h]

theorem vdivn (vd : BitVec 6) (va : BitVec 6) (vb : BitVec 6) (k : BitVec 3) : Statement (.vdivn vd va vb k) := by
  refine of_word rfl fun h pk => ?_
  obtain ⟨hb, e0, e1, e2, e3, e4, e5⟩ := layout31 (B := 0x23000001) (c0 := 1) (c1 := 35) (pk := pk) (by decide) (by decide) rfl rfl
  refine ⟨hb, ?_⟩
  rw [majorVDiv e5]
  simp only [decVDiv, e0, e1, e2, e3, e4, accept_wf h]

theorem vrem (vd : BitVec 6) (va : BitVec 6) (vb : BitVec 6) (k : BitVec 3) : Statement (.vrem vd va vb k) := by
  refine of_word rfl fun h pk => ?_
  obtain ⟨hb, e0, e1, e2, e3, e4, e5⟩ := layout31 (B := 0x23000002) (c0 := 2) (c1 := 35) (pk := pk) (by decide) (by decide) rfl rfl
  refine ⟨hb, ?_⟩
  rw [majorVDiv e5]
  simp only [decVDiv, e0, e1, e2, e3, e4, accept_wf h]

theorem vremn (vd : BitVec 6) (va : BitVec 6) (vb : BitVec 6) (k : BitVec 3) : Statement (.vremn vd va vb k) := by
  refine of_word rfl fun h pk => ?_
  obtain ⟨hb, e0, e1, e2, e3, e4, e5⟩ := layout31 (B := 0x23000003) (c0 := 3) (c1 := 35) (pk := pk) (by decide) (by decide) rfl rfl
  refine ⟨hb, ?_⟩
  rw [majorVDiv e5]
  simp only [decVDiv, e0, e1, e2, e3, e4, accept_wf h]

theorem vcmp (cond : BitVec 3) (kd : BitVec 3) (va : BitVec 6) (vb : BitVec 6) (k : BitVec 3) : Statement (.vcmp cond kd va vb k) := by
  refine of_word rfl fun h pk => ?_
  obtain ⟨hb, e0, e1, e2, e3, e4, e5, e6⟩ := layout33 (B := 0x24000000) (c0 := 0) (c1 := 36) (pk := pk) (by decide) (by decide) rfl rfl
  refine ⟨hb, ?_⟩
  rw [majorVCmp e6]
  simp only [decVCmp, e0, e1, e2, e3, e4, e5, accept_wf h]

theorem vcmpn (cond : BitVec 3) (kd : BitVec 3) (va : BitVec 6) (vb : BitVec 6) (k : BitVec 3) : Statement (.vcmpn cond kd va vb k) := by
  refine of_word rfl fun h pk => ?_
  obtain ⟨hb, e0, e1, e2, e3, e4, e5, e6⟩ := layout33 (B := 0x24000001) (c0 := 1) (c1 := 36) (pk := pk) (by decide) (by decide) rfl rfl
  refine ⟨hb, ?_⟩
  rw [majorVCmp e6]
  simp only [decVCmp, e0, e1, e2, e3, e4, e5, accept_wf h]

theorem vfcmp (cond : BitVec 3) (kd : BitVec 3) (va : BitVec 6) (vb : BitVec 6) (k : BitVec 3) : Statement (.vfcmp cond kd va vb k) := by
  refine of_word rfl fun h pk => ?_
  obtain ⟨hb, e0, e1, e2, e3, e4, e5, e6⟩ := layout33 (B := 0x24000002) (c0 := 2) (c1 := 36) (pk := pk) (by decide) (by decide) rfl rfl
  refine ⟨hb, ?_⟩
  rw [majorVCmp e6]
  simp only [decVCmp, e0, e1, e2, e3, e4, e5, accept_wf h]

theorem kand (kd : BitVec 3) (ka : BitVec 3) (kb : BitVec 3) : Statement (.kand kd ka kb) := by
  refine of_word rfl fun h pk => ?_
  obtain ⟨hb, e0, e1, e2, e3, e4, e5, e6, e7, e8⟩ := layout34 (B := 0x25000000) (c0 := 0) (c1 := 37) (pk := pk) (by decide) (by decide) rfl rfl
  refine ⟨hb, ?_⟩
  rw [majorMask e8]
  simp only [decMask, e0, e1, e2, e3, e4, e5, e6, e7, accept_wf h, beq_self_eq_true, Bool.and_self, if_true]

theorem kor (kd : BitVec 3) (ka : BitVec 3) (kb : BitVec 3) : Statement (.kor kd ka kb) := by
  refine of_word rfl fun h pk => ?_
  obtain ⟨hb, e0, e1, e2, e3, e4, e5, e6, e7, e8⟩ := layout34 (B := 0x25000001) (c0 := 1) (c1 := 37) (pk := pk) (by decide) (by decide) rfl rfl
  refine ⟨hb, ?_⟩
  rw [majorMask e8]
  simp only [decMask, e0, e1, e2, e3, e4, e5, e6, e7, accept_wf h, beq_self_eq_true, Bool.and_self, if_true]

theorem kxor (kd : BitVec 3) (ka : BitVec 3) (kb : BitVec 3) : Statement (.kxor kd ka kb) := by
  refine of_word rfl fun h pk => ?_
  obtain ⟨hb, e0, e1, e2, e3, e4, e5, e6, e7, e8⟩ := layout34 (B := 0x25000002) (c0 := 2) (c1 := 37) (pk := pk) (by decide) (by decide) rfl rfl
  refine ⟨hb, ?_⟩
  rw [majorMask e8]
  simp only [decMask, e0, e1, e2, e3, e4, e5, e6, e7, accept_wf h, beq_self_eq_true, Bool.and_self, if_true]

theorem kandn (kd : BitVec 3) (ka : BitVec 3) (kb : BitVec 3) : Statement (.kandn kd ka kb) := by
  refine of_word rfl fun h pk => ?_
  obtain ⟨hb, e0, e1, e2, e3, e4, e5, e6, e7, e8⟩ := layout34 (B := 0x25000003) (c0 := 3) (c1 := 37) (pk := pk) (by decide) (by decide) rfl rfl
  refine ⟨hb, ?_⟩
  rw [majorMask e8]
  simp only [decMask, e0, e1, e2, e3, e4, e5, e6, e7, accept_wf h, beq_self_eq_true, Bool.and_self, if_true]

theorem knot (kd : BitVec 3) (ka : BitVec 3) : Statement (.knot kd ka) := by
  refine of_word rfl fun h pk => ?_
  obtain ⟨hb, e0, e1, e2, e3, e4, e5, e6⟩ := layout35 (B := 0x25000004) (c0 := 4) (c1 := 37) (pk := pk) (by decide) (by decide) rfl rfl
  refine ⟨hb, ?_⟩
  rw [majorMask e6]
  simp only [decMask, e0, e1, e2, e3, e4, e5, accept_wf h, beq_self_eq_true, Bool.and_self, if_true]

theorem kmov (kd : BitVec 3) (ka : BitVec 3) : Statement (.kmov kd ka) := by
  refine of_word rfl fun h pk => ?_
  obtain ⟨hb, e0, e1, e2, e3, e4, e5, e6⟩ := layout35 (B := 0x25000005) (c0 := 5) (c1 := 37) (pk := pk) (by decide) (by decide) rfl rfl
  refine ⟨hb, ?_⟩
  rw [majorMask e6]
  simp only [decMask, e0, e1, e2, e3, e4, e5, accept_wf h, beq_self_eq_true, Bool.and_self, if_true]

theorem kpopc (sd : BitVec 5) (ka : BitVec 3) : Statement (.kpopc sd ka) := by
  refine of_word rfl fun h pk => ?_
  obtain ⟨hb, e0, e1, e2, e3, e4, e5, e6⟩ := layout36 (B := 0x25000006) (c0 := 6) (c1 := 37) (pk := pk) (by decide) (by decide) rfl rfl
  refine ⟨hb, ?_⟩
  rw [majorMask e6]
  simp only [decMask, e0, e1, e2, e3, e4, e5, accept_wf h, beq_self_eq_true, Bool.and_self, if_true]

theorem kfirst (sd : BitVec 5) (ka : BitVec 3) : Statement (.kfirst sd ka) := by
  refine of_word rfl fun h pk => ?_
  obtain ⟨hb, e0, e1, e2, e3, e4, e5, e6⟩ := layout36 (B := 0x25000007) (c0 := 7) (c1 := 37) (pk := pk) (by decide) (by decide) rfl rfl
  refine ⟨hb, ?_⟩
  rw [majorMask e6]
  simp only [decMask, e0, e1, e2, e3, e4, e5, accept_wf h, beq_self_eq_true, Bool.and_self, if_true]

theorem vmv (vd : BitVec 6) (va : BitVec 6) (k : BitVec 3) : Statement (.vmv vd va k) := by
  refine of_word rfl fun h pk => ?_
  obtain ⟨hb, e0, e1, e2, e3, e4, e5⟩ := layout32 (B := 0x26000000) (c0 := 0) (c1 := 38) (pk := pk) (by decide) (by decide) rfl rfl
  refine ⟨hb, ?_⟩
  rw [majorSlide e5]
  simp only [decSlide, e0, e1, e2, e3, e4, accept_wf h, beq_self_eq_true, if_true]

theorem vslideup (vd : BitVec 6) (va : BitVec 6) (sb : BitVec 5) (k : BitVec 3) : Statement (.vslideup vd va sb k) := by
  refine of_word rfl fun h pk => ?_
  obtain ⟨hb, e0, e1, e2, e3, e4, e5, e6⟩ := layout37 (B := 0x26000001) (c0 := 1) (c1 := 38) (pk := pk) (by decide) (by decide) rfl rfl
  refine ⟨hb, ?_⟩
  rw [majorSlide e6]
  simp only [decSlide, e0, e1, e2, e3, e4, e5, accept_wf h, beq_self_eq_true, if_true]

theorem vslidedn (vd : BitVec 6) (va : BitVec 6) (sb : BitVec 5) (k : BitVec 3) : Statement (.vslidedn vd va sb k) := by
  refine of_word rfl fun h pk => ?_
  obtain ⟨hb, e0, e1, e2, e3, e4, e5, e6⟩ := layout37 (B := 0x26000002) (c0 := 2) (c1 := 38) (pk := pk) (by decide) (by decide) rfl rfl
  refine ⟨hb, ?_⟩
  rw [majorSlide e6]
  simp only [decSlide, e0, e1, e2, e3, e4, e5, accept_wf h, beq_self_eq_true, if_true]

theorem vslide1up (vd : BitVec 6) (va : BitVec 6) (sb : BitVec 5) (k : BitVec 3) : Statement (.vslide1up vd va sb k) := by
  refine of_word rfl fun h pk => ?_
  obtain ⟨hb, e0, e1, e2, e3, e4, e5, e6⟩ := layout37 (B := 0x26000003) (c0 := 3) (c1 := 38) (pk := pk) (by decide) (by decide) rfl rfl
  refine ⟨hb, ?_⟩
  rw [majorSlide e6]
  simp only [decSlide, e0, e1, e2, e3, e4, e5, accept_wf h, beq_self_eq_true, if_true]

theorem vslide1dn (vd : BitVec 6) (va : BitVec 6) (sb : BitVec 5) (k : BitVec 3) : Statement (.vslide1dn vd va sb k) := by
  refine of_word rfl fun h pk => ?_
  obtain ⟨hb, e0, e1, e2, e3, e4, e5, e6⟩ := layout37 (B := 0x26000004) (c0 := 4) (c1 := 38) (pk := pk) (by decide) (by decide) rfl rfl
  refine ⟨hb, ?_⟩
  rw [majorSlide e6]
  simp only [decSlide, e0, e1, e2, e3, e4, e5, accept_wf h, beq_self_eq_true, if_true]

theorem vgather (vd : BitVec 6) (va : BitVec 6) (vb : BitVec 6) (k : BitVec 3) : Statement (.vgather vd va vb k) := by
  refine of_word rfl fun h pk => ?_
  obtain ⟨hb, e0, e1, e2, e3, e4, e5⟩ := layout31 (B := 0x26000005) (c0 := 5) (c1 := 38) (pk := pk) (by decide) (by decide) rfl rfl
  refine ⟨hb, ?_⟩
  rw [majorSlide e5]
  simp only [decSlide, e0, e1, e2, e3, e4, accept_wf h]

theorem vcompress (vd : BitVec 6) (va : BitVec 6) (k : BitVec 3) : Statement (.vcompress vd va k) := by
  refine of_word rfl fun h pk => ?_
  obtain ⟨hb, e0, e1, e2, e3, e4, e5⟩ := layout32 (B := 0x26000006) (c0 := 6) (c1 := 38) (pk := pk) (by decide) (by decide) rfl rfl
  refine ⟨hb, ?_⟩
  rw [majorSlide e5]
  simp only [decSlide, e0, e1, e2, e3, e4, accept_wf h, beq_self_eq_true, if_true]

theorem vexpand (vd : BitVec 6) (va : BitVec 6) (k : BitVec 3) : Statement (.vexpand vd va k) := by
  refine of_word rfl fun h pk => ?_
  obtain ⟨hb, e0, e1, e2, e3, e4, e5⟩ := layout32 (B := 0x26000007) (c0 := 7) (c1 := 38) (pk := pk) (by decide) (by decide) rfl rfl
  refine ⟨hb, ?_⟩
  rw [majorSlide e5]
  simp only [decSlide, e0, e1, e2, e3, e4, accept_wf h, beq_self_eq_true, if_true]

theorem vmerge (vd : BitVec 6) (va : BitVec 6) (vb : BitVec 6) (k : BitVec 3) : Statement (.vmerge vd va vb k) := by
  refine of_word rfl fun h pk => ?_
  obtain ⟨hb, e0, e1, e2, e3, e4, e5⟩ := layout31 (B := 0x27000000) (c0 := 0) (c1 := 39) (pk := pk) (by decide) (by decide) rfl rfl
  refine ⟨hb, ?_⟩
  rw [majorPerm e5]
  simp only [decPerm, e0, e1, e2, e3, e4, accept_wf h]

theorem vid (vd : BitVec 6) (k : BitVec 3) : Statement (.vid vd k) := by
  refine of_word rfl fun h pk => ?_
  obtain ⟨hb, e0, e1, e2, e3, e4⟩ := layout38 (B := 0x27000001) (c0 := 1) (c1 := 39) (pk := pk) (by decide) (by decide) rfl rfl
  refine ⟨hb, ?_⟩
  rw [majorPerm e4]
  simp only [decPerm, e0, e1, e2, e3, accept_wf h, beq_self_eq_true, if_true]

theorem viota (vd : BitVec 6) (ka : BitVec 3) (k : BitVec 3) : Statement (.viota vd ka k) := by
  refine of_word rfl fun h pk => ?_
  obtain ⟨hb, e0, e1, e2, e3, e4, e5, e6⟩ := layout39 (B := 0x27000002) (c0 := 2) (c1 := 39) (pk := pk) (by decide) (by decide) rfl rfl
  refine ⟨hb, ?_⟩
  rw [majorPerm e6]
  simp only [decPerm, e0, e1, e2, e3, e4, e5, accept_wf h, beq_self_eq_true, Bool.and_self, if_true]

theorem vzip (vd : BitVec 6) (va : BitVec 6) (vb : BitVec 6) : Statement (.vzip vd va vb) := by
  refine of_word rfl fun h pk => ?_
  obtain ⟨hb, e0, e1, e2, e3, e4, e5⟩ := layout40 (B := 0x27000003) (c0 := 3) (c1 := 39) (pk := pk) (by decide) (by decide) rfl rfl
  refine ⟨hb, ?_⟩
  rw [majorPerm e5]
  simp only [decPerm, e0, e1, e2, e3, e4, accept_wf h, beq_self_eq_true, if_true]

theorem vunzip (vd : BitVec 6) (va : BitVec 6) : Statement (.vunzip vd va) := by
  refine of_word rfl fun h pk => ?_
  obtain ⟨hb, e0, e1, e2, e3, e4⟩ := layout41 (B := 0x27000004) (c0 := 4) (c1 := 39) (pk := pk) (by decide) (by decide) rfl rfl
  refine ⟨hb, ?_⟩
  rw [majorPerm e4]
  simp only [decPerm, e0, e1, e2, e3, accept_wf h, beq_self_eq_true, if_true]

theorem vtrn (vd : BitVec 6) (va : BitVec 6) : Statement (.vtrn vd va) := by
  refine of_word rfl fun h pk => ?_
  obtain ⟨hb, e0, e1, e2, e3, e4⟩ := layout41 (B := 0x27000005) (c0 := 5) (c1 := 39) (pk := pk) (by decide) (by decide) rfl rfl
  refine ⟨hb, ?_⟩
  rw [majorPerm e4]
  simp only [decPerm, e0, e1, e2, e3, accept_wf h, beq_self_eq_true, if_true]

theorem vbcast (vd : BitVec 6) (sb : BitVec 5) (k : BitVec 3) : Statement (.vbcast vd sb k) := by
  refine of_word rfl fun h pk => ?_
  obtain ⟨hb, e0, e1, e2, e3, e4, e5, e6⟩ := layout42 (B := 0x28000000) (c0 := 0) (c1 := 40) (pk := pk) (by decide) (by decide) rfl rfl
  refine ⟨hb, ?_⟩
  rw [majorMove e6]
  simp only [decMove, e0, e1, e2, e3, e4, e5, accept_wf h, beq_self_eq_true, Bool.and_self, if_true]

theorem vmvs (sd : BitVec 5) (va : BitVec 6) (sb : BitVec 5) : Statement (.vmvs sd va sb) := by
  refine of_word rfl fun h pk => ?_
  obtain ⟨hb, e0, e1, e2, e3, e4, e5, e6⟩ := layout43 (B := 0x28000001) (c0 := 1) (c1 := 40) (pk := pk) (by decide) (by decide) rfl rfl
  refine ⟨hb, ?_⟩
  rw [majorMove e6]
  simp only [decMove, e0, e1, e2, e3, e4, e5, accept_wf h, beq_self_eq_true, Bool.and_self, if_true]

theorem vins (vd : BitVec 6) (sa : BitVec 5) (sb : BitVec 5) : Statement (.vins vd sa sb) := by
  refine of_word rfl fun h pk => ?_
  obtain ⟨hb, e0, e1, e2, e3, e4, e5, e6⟩ := layout44 (B := 0x28000002) (c0 := 2) (c1 := 40) (pk := pk) (by decide) (by decide) rfl rfl
  refine ⟨hb, ?_⟩
  rw [majorMove e6]
  simp only [decMove, e0, e1, e2, e3, e4, e5, accept_wf h, beq_self_eq_true, Bool.and_self, if_true]

theorem vfadd (vd : BitVec 6) (va : BitVec 6) (vb : BitVec 6) (k : BitVec 3) : Statement (.vfadd vd va vb k) := by
  refine of_word rfl fun h pk => ?_
  obtain ⟨hb, e0, e1, e2, e3, e4, e5⟩ := layout31 (B := 0x29000000) (c0 := 0) (c1 := 41) (pk := pk) (by decide) (by decide) rfl rfl
  refine ⟨hb, ?_⟩
  rw [majorVFp0 e5]
  simp only [decVFp0, e0, e1, e2, e3, e4, accept_wf h]

theorem vfsub (vd : BitVec 6) (va : BitVec 6) (vb : BitVec 6) (k : BitVec 3) : Statement (.vfsub vd va vb k) := by
  refine of_word rfl fun h pk => ?_
  obtain ⟨hb, e0, e1, e2, e3, e4, e5⟩ := layout31 (B := 0x29000001) (c0 := 1) (c1 := 41) (pk := pk) (by decide) (by decide) rfl rfl
  refine ⟨hb, ?_⟩
  rw [majorVFp0 e5]
  simp only [decVFp0, e0, e1, e2, e3, e4, accept_wf h]

theorem vfmul (vd : BitVec 6) (va : BitVec 6) (vb : BitVec 6) (k : BitVec 3) : Statement (.vfmul vd va vb k) := by
  refine of_word rfl fun h pk => ?_
  obtain ⟨hb, e0, e1, e2, e3, e4, e5⟩ := layout31 (B := 0x29000002) (c0 := 2) (c1 := 41) (pk := pk) (by decide) (by decide) rfl rfl
  refine ⟨hb, ?_⟩
  rw [majorVFp0 e5]
  simp only [decVFp0, e0, e1, e2, e3, e4, accept_wf h]

theorem vfdiv (vd : BitVec 6) (va : BitVec 6) (vb : BitVec 6) (k : BitVec 3) : Statement (.vfdiv vd va vb k) := by
  refine of_word rfl fun h pk => ?_
  obtain ⟨hb, e0, e1, e2, e3, e4, e5⟩ := layout31 (B := 0x29000003) (c0 := 3) (c1 := 41) (pk := pk) (by decide) (by decide) rfl rfl
  refine ⟨hb, ?_⟩
  rw [majorVFp0 e5]
  simp only [decVFp0, e0, e1, e2, e3, e4, accept_wf h]

theorem vfsqrt (vd : BitVec 6) (va : BitVec 6) (k : BitVec 3) : Statement (.vfsqrt vd va k) := by
  refine of_word rfl fun h pk => ?_
  obtain ⟨hb, e0, e1, e2, e3, e4, e5⟩ := layout32 (B := 0x29000004) (c0 := 4) (c1 := 41) (pk := pk) (by decide) (by decide) rfl rfl
  refine ⟨hb, ?_⟩
  rw [majorVFp0 e5]
  simp only [decVFp0, e0, e1, e2, e3, e4, accept_wf h, beq_self_eq_true, if_true]

theorem vfmin (vd : BitVec 6) (va : BitVec 6) (vb : BitVec 6) (k : BitVec 3) : Statement (.vfmin vd va vb k) := by
  refine of_word rfl fun h pk => ?_
  obtain ⟨hb, e0, e1, e2, e3, e4, e5⟩ := layout31 (B := 0x29000005) (c0 := 5) (c1 := 41) (pk := pk) (by decide) (by decide) rfl rfl
  refine ⟨hb, ?_⟩
  rw [majorVFp0 e5]
  simp only [decVFp0, e0, e1, e2, e3, e4, accept_wf h]

theorem vfmax (vd : BitVec 6) (va : BitVec 6) (vb : BitVec 6) (k : BitVec 3) : Statement (.vfmax vd va vb k) := by
  refine of_word rfl fun h pk => ?_
  obtain ⟨hb, e0, e1, e2, e3, e4, e5⟩ := layout31 (B := 0x29000006) (c0 := 6) (c1 := 41) (pk := pk) (by decide) (by decide) rfl rfl
  refine ⟨hb, ?_⟩
  rw [majorVFp0 e5]
  simp only [decVFp0, e0, e1, e2, e3, e4, accept_wf h]

theorem vfsgnj (vd : BitVec 6) (va : BitVec 6) (vb : BitVec 6) (k : BitVec 3) : Statement (.vfsgnj vd va vb k) := by
  refine of_word rfl fun h pk => ?_
  obtain ⟨hb, e0, e1, e2, e3, e4, e5⟩ := layout31 (B := 0x29000007) (c0 := 7) (c1 := 41) (pk := pk) (by decide) (by decide) rfl rfl
  refine ⟨hb, ?_⟩
  rw [majorVFp0 e5]
  simp only [decVFp0, e0, e1, e2, e3, e4, accept_wf h]

theorem vfmadd (vd : BitVec 6) (va : BitVec 6) (vb : BitVec 6) (k : BitVec 3) : Statement (.vfmadd vd va vb k) := by
  refine of_word rfl fun h pk => ?_
  obtain ⟨hb, e0, e1, e2, e3, e4, e5⟩ := layout31 (B := 0x2A000000) (c0 := 0) (c1 := 42) (pk := pk) (by decide) (by decide) rfl rfl
  refine ⟨hb, ?_⟩
  rw [majorVFma e5]
  simp only [decVFma, e0, e1, e2, e3, e4, accept_wf h]

theorem vfmsub (vd : BitVec 6) (va : BitVec 6) (vb : BitVec 6) (k : BitVec 3) : Statement (.vfmsub vd va vb k) := by
  refine of_word rfl fun h pk => ?_
  obtain ⟨hb, e0, e1, e2, e3, e4, e5⟩ := layout31 (B := 0x2A000001) (c0 := 1) (c1 := 42) (pk := pk) (by decide) (by decide) rfl rfl
  refine ⟨hb, ?_⟩
  rw [majorVFma e5]
  simp only [decVFma, e0, e1, e2, e3, e4, accept_wf h]

theorem vfnmadd (vd : BitVec 6) (va : BitVec 6) (vb : BitVec 6) (k : BitVec 3) : Statement (.vfnmadd vd va vb k) := by
  refine of_word rfl fun h pk => ?_
  obtain ⟨hb, e0, e1, e2, e3, e4, e5⟩ := layout31 (B := 0x2A000002) (c0 := 2) (c1 := 42) (pk := pk) (by decide) (by decide) rfl rfl
  refine ⟨hb, ?_⟩
  rw [majorVFma e5]
  simp only [decVFma, e0, e1, e2, e3, e4, accept_wf h]

theorem vfnmsub (vd : BitVec 6) (va : BitVec 6) (vb : BitVec 6) (k : BitVec 3) : Statement (.vfnmsub vd va vb k) := by
  refine of_word rfl fun h pk => ?_
  obtain ⟨hb, e0, e1, e2, e3, e4, e5⟩ := layout31 (B := 0x2A000003) (c0 := 3) (c1 := 42) (pk := pk) (by decide) (by decide) rfl rfl
  refine ⟨hb, ?_⟩
  rw [majorVFma e5]
  simp only [decVFma, e0, e1, e2, e3, e4, accept_wf h]

theorem vfwmul (vd : BitVec 6) (va : BitVec 6) (vb : BitVec 6) (k : BitVec 3) : Statement (.vfwmul vd va vb k) := by
  refine of_word rfl fun h pk => ?_
  obtain ⟨hb, e0, e1, e2, e3, e4, e5⟩ := layout31 (B := 0x2A000004) (c0 := 4) (c1 := 42) (pk := pk) (by decide) (by decide) rfl rfl
  refine ⟨hb, ?_⟩
  rw [majorVFma e5]
  simp only [decVFma, e0, e1, e2, e3, e4, accept_wf h]

theorem vfwmacc (vd : BitVec 6) (va : BitVec 6) (vb : BitVec 6) (k : BitVec 3) : Statement (.vfwmacc vd va vb k) := by
  refine of_word rfl fun h pk => ?_
  obtain ⟨hb, e0, e1, e2, e3, e4, e5⟩ := layout31 (B := 0x2A000005) (c0 := 5) (c1 := 42) (pk := pk) (by decide) (by decide) rfl rfl
  refine ⟨hb, ?_⟩
  rw [majorVFma e5]
  simp only [decVFma, e0, e1, e2, e3, e4, accept_wf h]

theorem vfabs (vd : BitVec 6) (va : BitVec 6) (k : BitVec 3) : Statement (.vfabs vd va k) := by
  refine of_word rfl fun h pk => ?_
  obtain ⟨hb, e0, e1, e2, e3, e4, e5⟩ := layout32 (B := 0x2B000000) (c0 := 0) (c1 := 43) (pk := pk) (by decide) (by decide) rfl rfl
  refine ⟨hb, ?_⟩
  rw [majorVFp1 e5]
  simp only [decVFp1, e0, e1, e2, e3, e4, accept_wf h, beq_self_eq_true, if_true]

theorem vfneg (vd : BitVec 6) (va : BitVec 6) (k : BitVec 3) : Statement (.vfneg vd va k) := by
  refine of_word rfl fun h pk => ?_
  obtain ⟨hb, e0, e1, e2, e3, e4, e5⟩ := layout32 (B := 0x2B000001) (c0 := 1) (c1 := 43) (pk := pk) (by decide) (by decide) rfl rfl
  refine ⟨hb, ?_⟩
  rw [majorVFp1 e5]
  simp only [decVFp1, e0, e1, e2, e3, e4, accept_wf h, beq_self_eq_true, if_true]

theorem vfclass (vd : BitVec 6) (va : BitVec 6) (k : BitVec 3) : Statement (.vfclass vd va k) := by
  refine of_word rfl fun h pk => ?_
  obtain ⟨hb, e0, e1, e2, e3, e4, e5⟩ := layout32 (B := 0x2B000002) (c0 := 2) (c1 := 43) (pk := pk) (by decide) (by decide) rfl rfl
  refine ⟨hb, ?_⟩
  rw [majorVFp1 e5]
  simp only [decVFp1, e0, e1, e2, e3, e4, accept_wf h, beq_self_eq_true, if_true]

theorem vfrec (vd : BitVec 6) (va : BitVec 6) (k : BitVec 3) : Statement (.vfrec vd va k) := by
  refine of_word rfl fun h pk => ?_
  obtain ⟨hb, e0, e1, e2, e3, e4, e5⟩ := layout32 (B := 0x2B000003) (c0 := 3) (c1 := 43) (pk := pk) (by decide) (by decide) rfl rfl
  refine ⟨hb, ?_⟩
  rw [majorVFp1 e5]
  simp only [decVFp1, e0, e1, e2, e3, e4, accept_wf h, beq_self_eq_true, if_true]

theorem vfrsqrt (vd : BitVec 6) (va : BitVec 6) (k : BitVec 3) : Statement (.vfrsqrt vd va k) := by
  refine of_word rfl fun h pk => ?_
  obtain ⟨hb, e0, e1, e2, e3, e4, e5⟩ := layout32 (B := 0x2B000004) (c0 := 4) (c1 := 43) (pk := pk) (by decide) (by decide) rfl rfl
  refine ⟨hb, ?_⟩
  rw [majorVFp1 e5]
  simp only [decVFp1, e0, e1, e2, e3, e4, accept_wf h, beq_self_eq_true, if_true]

theorem vfcvt (vd : BitVec 6) (va : BitVec 6) (dt : BitVec 5) (k : BitVec 3) : Statement (.vfcvt vd va dt k) := by
  refine of_word rfl fun h pk => ?_
  obtain ⟨hb, e0, e1, e2, e3, e4, e5, e6⟩ := layout45 (B := 0x2C000000) (c0 := 0) (c1 := 44) (pk := pk) (by decide) (by decide) rfl rfl
  refine ⟨hb, ?_⟩
  rw [majorVCvt e6]
  simp only [decVCvt, e0, e1, e2, e3, e4, e5, accept_wf h, beq_self_eq_true, if_true]

theorem vfcvtRtz (vd : BitVec 6) (va : BitVec 6) (dt : BitVec 5) (k : BitVec 3) : Statement (.vfcvtRtz vd va dt k) := by
  refine of_word rfl fun h pk => ?_
  obtain ⟨hb, e0, e1, e2, e3, e4, e5, e6⟩ := layout45 (B := 0x2C000001) (c0 := 1) (c1 := 44) (pk := pk) (by decide) (by decide) rfl rfl
  refine ⟨hb, ?_⟩
  rw [majorVCvt e6]
  simp only [decVCvt, e0, e1, e2, e3, e4, e5, accept_wf h, beq_self_eq_true, if_true]

theorem vfsin (vd : BitVec 6) (va : BitVec 6) (k : BitVec 3) : Statement (.vfsin vd va k) := by
  refine of_word rfl fun h pk => ?_
  obtain ⟨hb, e0, e1, e2, e3, e4, e5⟩ := layout32 (B := 0x2D000000) (c0 := 0) (c1 := 45) (pk := pk) (by decide) (by decide) rfl rfl
  refine ⟨hb, ?_⟩
  rw [majorSpecial e5]
  simp only [decSpecial, e0, e1, e2, e3, e4, accept_wf h, beq_self_eq_true, if_true]

theorem vfcos (vd : BitVec 6) (va : BitVec 6) (k : BitVec 3) : Statement (.vfcos vd va k) := by
  refine of_word rfl fun h pk => ?_
  obtain ⟨hb, e0, e1, e2, e3, e4, e5⟩ := layout32 (B := 0x2D000001) (c0 := 1) (c1 := 45) (pk := pk) (by decide) (by decide) rfl rfl
  refine ⟨hb, ?_⟩
  rw [majorSpecial e5]
  simp only [decSpecial, e0, e1, e2, e3, e4, accept_wf h, beq_self_eq_true, if_true]

theorem vfsint (vd : BitVec 6) (va : BitVec 6) (k : BitVec 3) : Statement (.vfsint vd va k) := by
  refine of_word rfl fun h pk => ?_
  obtain ⟨hb, e0, e1, e2, e3, e4, e5⟩ := layout32 (B := 0x2D000002) (c0 := 2) (c1 := 45) (pk := pk) (by decide) (by decide) rfl rfl
  refine ⟨hb, ?_⟩
  rw [majorSpecial e5]
  simp only [decSpecial, e0, e1, e2, e3, e4, accept_wf h, beq_self_eq_true, if_true]

theorem vfcost (vd : BitVec 6) (va : BitVec 6) (k : BitVec 3) : Statement (.vfcost vd va k) := by
  refine of_word rfl fun h pk => ?_
  obtain ⟨hb, e0, e1, e2, e3, e4, e5⟩ := layout32 (B := 0x2D000003) (c0 := 3) (c1 := 45) (pk := pk) (by decide) (by decide) rfl rfl
  refine ⟨hb, ?_⟩
  rw [majorSpecial e5]
  simp only [decSpecial, e0, e1, e2, e3, e4, accept_wf h, beq_self_eq_true, if_true]

theorem vfexp2 (vd : BitVec 6) (va : BitVec 6) (k : BitVec 3) : Statement (.vfexp2 vd va k) := by
  refine of_word rfl fun h pk => ?_
  obtain ⟨hb, e0, e1, e2, e3, e4, e5⟩ := layout32 (B := 0x2D000004) (c0 := 4) (c1 := 45) (pk := pk) (by decide) (by decide) rfl rfl
  refine ⟨hb, ?_⟩
  rw [majorSpecial e5]
  simp only [decSpecial, e0, e1, e2, e3, e4, accept_wf h, beq_self_eq_true, if_true]

theorem vflog2 (vd : BitVec 6) (va : BitVec 6) (k : BitVec 3) : Statement (.vflog2 vd va k) := by
  refine of_word rfl fun h pk => ?_
  obtain ⟨hb, e0, e1, e2, e3, e4, e5⟩ := layout32 (B := 0x2D000005) (c0 := 5) (c1 := 45) (pk := pk) (by decide) (by decide) rfl rfl
  refine ⟨hb, ?_⟩
  rw [majorSpecial e5]
  simp only [decSpecial, e0, e1, e2, e3, e4, accept_wf h, beq_self_eq_true, if_true]

theorem vfatan2 (vd : BitVec 6) (va : BitVec 6) (vb : BitVec 6) (k : BitVec 3) : Statement (.vfatan2 vd va vb k) := by
  refine of_word rfl fun h pk => ?_
  obtain ⟨hb, e0, e1, e2, e3, e4, e5⟩ := layout31 (B := 0x2D000006) (c0 := 6) (c1 := 45) (pk := pk) (by decide) (by decide) rfl rfl
  refine ⟨hb, ?_⟩
  rw [majorSpecial e5]
  simp only [decSpecial, e0, e1, e2, e3, e4, accept_wf h]

theorem vftanh (vd : BitVec 6) (va : BitVec 6) (k : BitVec 3) : Statement (.vftanh vd va k) := by
  refine of_word rfl fun h pk => ?_
  obtain ⟨hb, e0, e1, e2, e3, e4, e5⟩ := layout32 (B := 0x2D000007) (c0 := 7) (c1 := 45) (pk := pk) (by decide) (by decide) rfl rfl
  refine ⟨hb, ?_⟩
  rw [majorSpecial e5]
  simp only [decSpecial, e0, e1, e2, e3, e4, accept_wf h, beq_self_eq_true, if_true]

theorem vcmul (vd : BitVec 6) (va : BitVec 6) (vb : BitVec 6) (k : BitVec 3) : Statement (.vcmul vd va vb k) := by
  refine of_word rfl fun h pk => ?_
  obtain ⟨hb, e0, e1, e2, e3, e4, e5⟩ := layout31 (B := 0x2E000000) (c0 := 0) (c1 := 46) (pk := pk) (by decide) (by decide) rfl rfl
  refine ⟨hb, ?_⟩
  rw [majorComplex e5]
  simp only [decComplex, e0, e1, e2, e3, e4, accept_wf h]

theorem vcmac (vd : BitVec 6) (va : BitVec 6) (vb : BitVec 6) (k : BitVec 3) : Statement (.vcmac vd va vb k) := by
  refine of_word rfl fun h pk => ?_
  obtain ⟨hb, e0, e1, e2, e3, e4, e5⟩ := layout31 (B := 0x2E000001) (c0 := 1) (c1 := 46) (pk := pk) (by decide) (by decide) rfl rfl
  refine ⟨hb, ?_⟩
  rw [majorComplex e5]
  simp only [decComplex, e0, e1, e2, e3, e4, accept_wf h]

theorem vcmacj (vd : BitVec 6) (va : BitVec 6) (vb : BitVec 6) (k : BitVec 3) : Statement (.vcmacj vd va vb k) := by
  refine of_word rfl fun h pk => ?_
  obtain ⟨hb, e0, e1, e2, e3, e4, e5⟩ := layout31 (B := 0x2E000002) (c0 := 2) (c1 := 46) (pk := pk) (by decide) (by decide) rfl rfl
  refine ⟨hb, ?_⟩
  rw [majorComplex e5]
  simp only [decComplex, e0, e1, e2, e3, e4, accept_wf h]

theorem vcconj (vd : BitVec 6) (va : BitVec 6) (k : BitVec 3) : Statement (.vcconj vd va k) := by
  refine of_word rfl fun h pk => ?_
  obtain ⟨hb, e0, e1, e2, e3, e4, e5⟩ := layout32 (B := 0x2E000003) (c0 := 3) (c1 := 46) (pk := pk) (by decide) (by decide) rfl rfl
  refine ⟨hb, ?_⟩
  rw [majorComplex e5]
  simp only [decComplex, e0, e1, e2, e3, e4, accept_wf h, beq_self_eq_true, if_true]

theorem vcabs2 (vd : BitVec 6) (va : BitVec 6) (k : BitVec 3) : Statement (.vcabs2 vd va k) := by
  refine of_word rfl fun h pk => ?_
  obtain ⟨hb, e0, e1, e2, e3, e4, e5⟩ := layout32 (B := 0x2E000004) (c0 := 4) (c1 := 46) (pk := pk) (by decide) (by decide) rfl rfl
  refine ⟨hb, ?_⟩
  rw [majorComplex e5]
  simp only [decComplex, e0, e1, e2, e3, e4, accept_wf h, beq_self_eq_true, if_true]

theorem vcrot (vd : BitVec 6) (va : BitVec 6) (vb : BitVec 6) (k : BitVec 3) : Statement (.vcrot vd va vb k) := by
  refine of_word rfl fun h pk => ?_
  obtain ⟨hb, e0, e1, e2, e3, e4, e5⟩ := layout31 (B := 0x2E000005) (c0 := 5) (c1 := 46) (pk := pk) (by decide) (by decide) rfl rfl
  refine ⟨hb, ?_⟩
  rw [majorComplex e5]
  simp only [decComplex, e0, e1, e2, e3, e4, accept_wf h]

theorem vbfly (vd : BitVec 6) (va : BitVec 6) (vb : BitVec 6) (k : BitVec 3) : Statement (.vbfly vd va vb k) := by
  refine of_word rfl fun h pk => ?_
  obtain ⟨hb, e0, e1, e2, e3, e4, e5⟩ := layout31 (B := 0x2F000000) (c0 := 0) (c1 := 47) (pk := pk) (by decide) (by decide) rfl rfl
  refine ⟨hb, ?_⟩
  rw [majorBfly e5]
  simp only [decBfly, e0, e1, e2, e3, e4, accept_wf h]

theorem vbfly4 (vd : BitVec 6) (va : BitVec 6) (vb : BitVec 6) (k : BitVec 3) : Statement (.vbfly4 vd va vb k) := by
  refine of_word rfl fun h pk => ?_
  obtain ⟨hb, e0, e1, e2, e3, e4, e5⟩ := layout31 (B := 0x2F000001) (c0 := 1) (c1 := 47) (pk := pk) (by decide) (by decide) rfl rfl
  refine ⟨hb, ?_⟩
  rw [majorBfly e5]
  simp only [decBfly, e0, e1, e2, e3, e4, accept_wf h]

theorem vtgj (vd : BitVec 6) (va : BitVec 6) (sb : BitVec 5) (k : BitVec 3) : Statement (.vtgj vd va sb k) := by
  refine of_word rfl fun h pk => ?_
  obtain ⟨hb, e0, e1, e2, e3, e4, e5, e6⟩ := layout37 (B := 0x30000000) (c0 := 0) (c1 := 48) (pk := pk) (by decide) (by decide) rfl rfl
  refine ⟨hb, ?_⟩
  rw [majorTile e6]
  simp only [decTile, e0, e1, e2, e3, e4, e5, accept_wf h, beq_self_eq_true, if_true]

theorem vtchol (vd : BitVec 6) (va : BitVec 6) (sb : BitVec 5) (k : BitVec 3) : Statement (.vtchol vd va sb k) := by
  refine of_word rfl fun h pk => ?_
  obtain ⟨hb, e0, e1, e2, e3, e4, e5, e6⟩ := layout37 (B := 0x30000001) (c0 := 1) (c1 := 48) (pk := pk) (by decide) (by decide) rfl rfl
  refine ⟨hb, ?_⟩
  rw [majorTile e6]
  simp only [decTile, e0, e1, e2, e3, e4, e5, accept_wf h, beq_self_eq_true, if_true]

theorem vtmul (vd : BitVec 6) (va : BitVec 6) (vb : BitVec 6) (k : BitVec 3) : Statement (.vtmul vd va vb k) := by
  refine of_word rfl fun h pk => ?_
  obtain ⟨hb, e0, e1, e2, e3, e4, e5⟩ := layout31 (B := 0x30000002) (c0 := 2) (c1 := 48) (pk := pk) (by decide) (by decide) rfl rfl
  refine ⟨hb, ?_⟩
  rw [majorTile e5]
  simp only [decTile, e0, e1, e2, e3, e4, accept_wf h]

theorem vtherm (vd : BitVec 6) (va : BitVec 6) (k : BitVec 3) : Statement (.vtherm vd va k) := by
  refine of_word rfl fun h pk => ?_
  obtain ⟨hb, e0, e1, e2, e3, e4, e5⟩ := layout32 (B := 0x30000003) (c0 := 3) (c1 := 48) (pk := pk) (by decide) (by decide) rfl rfl
  refine ⟨hb, ?_⟩
  rw [majorTile e5]
  simp only [decTile, e0, e1, e2, e3, e4, accept_wf h, beq_self_eq_true, if_true]

theorem vredsum (sd : BitVec 5) (va : BitVec 6) (sb : BitVec 5) (k : BitVec 3) : Statement (.vredsum sd va sb k) := by
  refine of_word rfl fun h pk => ?_
  obtain ⟨hb, e0, e1, e2, e3, e4, e5, e6, e7⟩ := layout46 (B := 0x31000000) (c0 := 0) (c1 := 49) (pk := pk) (by decide) (by decide) rfl rfl
  refine ⟨hb, ?_⟩
  rw [majorReduce e7]
  simp only [decReduce, e0, e1, e2, e3, e4, e5, e6, accept_wf h, beq_self_eq_true, Bool.and_self, if_true]

theorem vredmin (sd : BitVec 5) (va : BitVec 6) (sb : BitVec 5) (k : BitVec 3) : Statement (.vredmin sd va sb k) := by
  refine of_word rfl fun h pk => ?_
  obtain ⟨hb, e0, e1, e2, e3, e4, e5, e6, e7⟩ := layout46 (B := 0x31000001) (c0 := 1) (c1 := 49) (pk := pk) (by decide) (by decide) rfl rfl
  refine ⟨hb, ?_⟩
  rw [majorReduce e7]
  simp only [decReduce, e0, e1, e2, e3, e4, e5, e6, accept_wf h, beq_self_eq_true, Bool.and_self, if_true]

theorem vredmax (sd : BitVec 5) (va : BitVec 6) (sb : BitVec 5) (k : BitVec 3) : Statement (.vredmax sd va sb k) := by
  refine of_word rfl fun h pk => ?_
  obtain ⟨hb, e0, e1, e2, e3, e4, e5, e6, e7⟩ := layout46 (B := 0x31000002) (c0 := 2) (c1 := 49) (pk := pk) (by decide) (by decide) rfl rfl
  refine ⟨hb, ?_⟩
  rw [majorReduce e7]
  simp only [decReduce, e0, e1, e2, e3, e4, e5, e6, accept_wf h, beq_self_eq_true, Bool.and_self, if_true]

theorem vfredsum (sd : BitVec 5) (va : BitVec 6) (sb : BitVec 5) (k : BitVec 3) : Statement (.vfredsum sd va sb k) := by
  refine of_word rfl fun h pk => ?_
  obtain ⟨hb, e0, e1, e2, e3, e4, e5, e6, e7⟩ := layout46 (B := 0x31000003) (c0 := 3) (c1 := 49) (pk := pk) (by decide) (by decide) rfl rfl
  refine ⟨hb, ?_⟩
  rw [majorReduce e7]
  simp only [decReduce, e0, e1, e2, e3, e4, e5, e6, accept_wf h, beq_self_eq_true, Bool.and_self, if_true]

theorem vfredmin (sd : BitVec 5) (va : BitVec 6) (sb : BitVec 5) (k : BitVec 3) : Statement (.vfredmin sd va sb k) := by
  refine of_word rfl fun h pk => ?_
  obtain ⟨hb, e0, e1, e2, e3, e4, e5, e6, e7⟩ := layout46 (B := 0x31000004) (c0 := 4) (c1 := 49) (pk := pk) (by decide) (by decide) rfl rfl
  refine ⟨hb, ?_⟩
  rw [majorReduce e7]
  simp only [decReduce, e0, e1, e2, e3, e4, e5, e6, accept_wf h, beq_self_eq_true, Bool.and_self, if_true]

theorem vfredmax (sd : BitVec 5) (va : BitVec 6) (sb : BitVec 5) (k : BitVec 3) : Statement (.vfredmax sd va sb k) := by
  refine of_word rfl fun h pk => ?_
  obtain ⟨hb, e0, e1, e2, e3, e4, e5, e6, e7⟩ := layout46 (B := 0x31000005) (c0 := 5) (c1 := 49) (pk := pk) (by decide) (by decide) rfl rfl
  refine ⟨hb, ?_⟩
  rw [majorReduce e7]
  simp only [decReduce, e0, e1, e2, e3, e4, e5, e6, accept_wf h, beq_self_eq_true, Bool.and_self, if_true]

theorem vcredsum (sd : BitVec 5) (va : BitVec 6) (sb : BitVec 5) (k : BitVec 3) : Statement (.vcredsum sd va sb k) := by
  refine of_word rfl fun h pk => ?_
  obtain ⟨hb, e0, e1, e2, e3, e4, e5, e6, e7⟩ := layout46 (B := 0x31000006) (c0 := 6) (c1 := 49) (pk := pk) (by decide) (by decide) rfl rfl
  refine ⟨hb, ?_⟩
  rw [majorReduce e7]
  simp only [decReduce, e0, e1, e2, e3, e4, e5, e6, accept_wf h, beq_self_eq_true, Bool.and_self, if_true]

theorem vredsumw (sd : BitVec 5) (va : BitVec 6) (sb : BitVec 5) (k : BitVec 3) : Statement (.vredsumw sd va sb k) := by
  refine of_word rfl fun h pk => ?_
  obtain ⟨hb, e0, e1, e2, e3, e4, e5, e6, e7⟩ := layout46 (B := 0x31000007) (c0 := 7) (c1 := 49) (pk := pk) (by decide) (by decide) rfl rfl
  refine ⟨hb, ?_⟩
  rw [majorReduce e7]
  simp only [decReduce, e0, e1, e2, e3, e4, e5, e6, accept_wf h, beq_self_eq_true, Bool.and_self, if_true]

theorem fadd (sd : BitVec 5) (sa : BitVec 5) (sb : BitVec 5) (pr : BitVec 1) : Statement (.fadd sd sa sb pr) := by
  refine of_word rfl fun h pk => ?_
  obtain ⟨hb, e0, e1, e2, e3, e4, e5, e6⟩ := layout47 (B := 0x32000000) (c0 := 0) (c1 := 50) (pk := pk) (by decide) (by decide) rfl rfl
  refine ⟨hb, ?_⟩
  rw [majorFp e6]
  simp only [decFp, e0, e1, e2, e3, e4, e5, accept_wf h, beq_self_eq_true, if_true]

theorem fsub (sd : BitVec 5) (sa : BitVec 5) (sb : BitVec 5) (pr : BitVec 1) : Statement (.fsub sd sa sb pr) := by
  refine of_word rfl fun h pk => ?_
  obtain ⟨hb, e0, e1, e2, e3, e4, e5, e6⟩ := layout47 (B := 0x32000001) (c0 := 1) (c1 := 50) (pk := pk) (by decide) (by decide) rfl rfl
  refine ⟨hb, ?_⟩
  rw [majorFp e6]
  simp only [decFp, e0, e1, e2, e3, e4, e5, accept_wf h, beq_self_eq_true, if_true]

theorem fmul (sd : BitVec 5) (sa : BitVec 5) (sb : BitVec 5) (pr : BitVec 1) : Statement (.fmul sd sa sb pr) := by
  refine of_word rfl fun h pk => ?_
  obtain ⟨hb, e0, e1, e2, e3, e4, e5, e6⟩ := layout47 (B := 0x32000002) (c0 := 2) (c1 := 50) (pk := pk) (by decide) (by decide) rfl rfl
  refine ⟨hb, ?_⟩
  rw [majorFp e6]
  simp only [decFp, e0, e1, e2, e3, e4, e5, accept_wf h, beq_self_eq_true, if_true]

theorem fdiv (sd : BitVec 5) (sa : BitVec 5) (sb : BitVec 5) (pr : BitVec 1) : Statement (.fdiv sd sa sb pr) := by
  refine of_word rfl fun h pk => ?_
  obtain ⟨hb, e0, e1, e2, e3, e4, e5, e6⟩ := layout47 (B := 0x32000003) (c0 := 3) (c1 := 50) (pk := pk) (by decide) (by decide) rfl rfl
  refine ⟨hb, ?_⟩
  rw [majorFp e6]
  simp only [decFp, e0, e1, e2, e3, e4, e5, accept_wf h, beq_self_eq_true, if_true]

theorem fsqrt (sd : BitVec 5) (sa : BitVec 5) (pr : BitVec 1) : Statement (.fsqrt sd sa pr) := by
  refine of_word rfl fun h pk => ?_
  obtain ⟨hb, e0, e1, e2, e3, e4, e5⟩ := layout48 (B := 0x32000004) (c0 := 4) (c1 := 50) (pk := pk) (by decide) (by decide) rfl rfl
  refine ⟨hb, ?_⟩
  rw [majorFp e5]
  simp only [decFp, e0, e1, e2, e3, e4, accept_wf h, beq_self_eq_true, if_true]

theorem fmadd (sd : BitVec 5) (sa : BitVec 5) (sb : BitVec 5) (sc : BitVec 5) (pr : BitVec 1) : Statement (.fmadd sd sa sb sc pr) := by
  refine of_word rfl fun h pk => ?_
  obtain ⟨hb, e0, e1, e2, e3, e4, e5, e6⟩ := layout49 (B := 0x32000005) (c0 := 5) (c1 := 50) (pk := pk) (by decide) (by decide) rfl rfl
  refine ⟨hb, ?_⟩
  rw [majorFp e6]
  simp only [decFp, e0, e1, e2, e3, e4, e5, accept_wf h]

theorem fmin (sd : BitVec 5) (sa : BitVec 5) (sb : BitVec 5) (pr : BitVec 1) : Statement (.fmin sd sa sb pr) := by
  refine of_word rfl fun h pk => ?_
  obtain ⟨hb, e0, e1, e2, e3, e4, e5, e6⟩ := layout47 (B := 0x32000006) (c0 := 6) (c1 := 50) (pk := pk) (by decide) (by decide) rfl rfl
  refine ⟨hb, ?_⟩
  rw [majorFp e6]
  simp only [decFp, e0, e1, e2, e3, e4, e5, accept_wf h, beq_self_eq_true, if_true]

theorem fmax (sd : BitVec 5) (sa : BitVec 5) (sb : BitVec 5) (pr : BitVec 1) : Statement (.fmax sd sa sb pr) := by
  refine of_word rfl fun h pk => ?_
  obtain ⟨hb, e0, e1, e2, e3, e4, e5, e6⟩ := layout47 (B := 0x32000007) (c0 := 7) (c1 := 50) (pk := pk) (by decide) (by decide) rfl rfl
  refine ⟨hb, ?_⟩
  rw [majorFp e6]
  simp only [decFp, e0, e1, e2, e3, e4, e5, accept_wf h, beq_self_eq_true, if_true]

theorem fcmp (sd : BitVec 5) (sa : BitVec 5) (sb : BitVec 5) (cond : BitVec 5) (pr : BitVec 1) : Statement (.fcmp sd sa sb cond pr) := by
  refine of_word rfl fun h pk => ?_
  obtain ⟨hb, e0, e1, e2, e3, e4, e5, e6⟩ := layout49 (B := 0x33000000) (c0 := 0) (c1 := 51) (pk := pk) (by decide) (by decide) rfl rfl
  refine ⟨hb, ?_⟩
  rw [majorFpMisc e6]
  simp only [decFpMisc, e0, e1, e2, e3, e4, e5, accept_wf h]

theorem fcvt (sd : BitVec 5) (sa : BitVec 5) (st : BitVec 5) (dt : BitVec 5) : Statement (.fcvt sd sa st dt) := by
  refine of_word rfl fun h pk => ?_
  obtain ⟨hb, e0, e1, e2, e3, e4, e5, e6⟩ := layout50 (B := 0x33000001) (c0 := 1) (c1 := 51) (pk := pk) (by decide) (by decide) rfl rfl
  refine ⟨hb, ?_⟩
  rw [majorFpMisc e6]
  simp only [decFpMisc, e0, e1, e2, e3, e4, e5, accept_wf h, beq_self_eq_true, if_true]

theorem fclass (sd : BitVec 5) (sa : BitVec 5) (pr : BitVec 1) : Statement (.fclass sd sa pr) := by
  refine of_word rfl fun h pk => ?_
  obtain ⟨hb, e0, e1, e2, e3, e4, e5⟩ := layout48 (B := 0x33000002) (c0 := 2) (c1 := 51) (pk := pk) (by decide) (by decide) rfl rfl
  refine ⟨hb, ?_⟩
  rw [majorFpMisc e5]
  simp only [decFpMisc, e0, e1, e2, e3, e4, accept_wf h, beq_self_eq_true, if_true]

theorem fmv (sd : BitVec 5) (sa : BitVec 5) (pr : BitVec 1) : Statement (.fmv sd sa pr) := by
  refine of_word rfl fun h pk => ?_
  obtain ⟨hb, e0, e1, e2, e3, e4, e5⟩ := layout48 (B := 0x33000003) (c0 := 3) (c1 := 51) (pk := pk) (by decide) (by decide) rfl rfl
  refine ⟨hb, ?_⟩
  rw [majorFpMisc e5]
  simp only [decFpMisc, e0, e1, e2, e3, e4, accept_wf h, beq_self_eq_true, if_true]

theorem menter : Statement (.menter) := by
  refine of_word rfl fun h pk => ?_
  obtain ⟨hb, e0, e1, e2⟩ := layout51 (B := 0x34000000) (c0 := 0) (c1 := 52) (pk := pk) (by decide) (by decide) rfl rfl
  refine ⟨hb, ?_⟩
  rw [majorMode e2]
  simp only [decMode, e0, e1, accept_wf h, beq_self_eq_true, if_true]

theorem mexit : Statement (.mexit) := by
  refine of_word rfl fun h pk => ?_
  obtain ⟨hb, e0, e1, e2⟩ := layout51 (B := 0x34000001) (c0 := 1) (c1 := 52) (pk := pk) (by decide) (by decide) rfl rfl
  refine ⟨hb, ?_⟩
  rw [majorMode e2]
  simp only [decMode, e0, e1, accept_wf h, beq_self_eq_true, if_true]

theorem mzero : Statement (.mzero) := by
  refine of_word rfl fun h pk => ?_
  obtain ⟨hb, e0, e1, e2⟩ := layout51 (B := 0x34000002) (c0 := 2) (c1 := 52) (pk := pk) (by decide) (by decide) rfl rfl
  refine ⟨hb, ?_⟩
  rw [majorMode e2]
  simp only [decMode, e0, e1, accept_wf h, beq_self_eq_true, if_true]

theorem mop (wa : BitVec 4) (wb : BitVec 4) (ws : BitVec 4) (fmt : BitVec 4) (ks : BitVec 8) : Statement (.mop wa wb ws fmt ks) := by
  refine of_word rfl fun h pk => ?_
  obtain ⟨hb, e0, e1, e2, e3, e4, e5⟩ := layout52 (B := 0x35000000) (c0 := 53) (pk := pk) (by decide) rfl rfl
  refine ⟨hb, ?_⟩
  rw [majorMop e5]
  simp only [decMop, e0, e1, e2, e3, e4, accept_wf h]

theorem mopv (va : BitVec 6) (vb : BitVec 6) (fmt : BitVec 4) (ks : BitVec 2) : Statement (.mopv va vb fmt ks) := by
  refine of_word rfl fun h pk => ?_
  obtain ⟨hb, e0, e1, e2, e3, e4, e5⟩ := layout53 (B := 0x36000000) (c0 := 54) (pk := pk) (by decide) rfl rfl
  refine ⟨hb, ?_⟩
  rw [majorMopv e5]
  simp only [decMopv, e0, e1, e2, e3, e4, accept_wf h, beq_self_eq_true, if_true]

theorem mld (sa : BitVec 5) (sb : BitVec 5) (fmt : BitVec 4) : Statement (.mld sa sb fmt) := by
  refine of_word rfl fun h pk => ?_
  obtain ⟨hb, e0, e1, e2, e3, e4, e5⟩ := layout54 (B := 0x37000000) (c0 := 0) (c1 := 55) (pk := pk) (by decide) (by decide) rfl rfl
  refine ⟨hb, ?_⟩
  rw [majorTilemove e5]
  simp only [decTilemove, e0, e1, e2, e3, e4, accept_wf h, beq_self_eq_true, if_true]

theorem mst (sa : BitVec 5) (sb : BitVec 5) (fmt : BitVec 4) : Statement (.mst sa sb fmt) := by
  refine of_word rfl fun h pk => ?_
  obtain ⟨hb, e0, e1, e2, e3, e4, e5⟩ := layout54 (B := 0x37000001) (c0 := 1) (c1 := 55) (pk := pk) (by decide) (by decide) rfl rfl
  refine ⟨hb, ?_⟩
  rw [majorTilemove e5]
  simp only [decTilemove, e0, e1, e2, e3, e4, accept_wf h, beq_self_eq_true, if_true]

theorem mcvt (sa : BitVec 5) (fmt : BitVec 4) : Statement (.mcvt sa fmt) := by
  refine of_word rfl fun h pk => ?_
  obtain ⟨hb, e0, e1, e2, e3, e4, e5⟩ := layout55 (B := 0x37000002) (c0 := 2) (c1 := 55) (pk := pk) (by decide) (by decide) rfl rfl
  refine ⟨hb, ?_⟩
  rw [majorTilemove e5]
  simp only [decTilemove, e0, e1, e2, e3, e4, accept_wf h, beq_self_eq_true, Bool.and_self, if_true]

theorem powerOn : Statement (.powerOn) := of_none rfl

theorem deviceReset : Statement (.deviceReset) := of_none rfl

theorem convoyBegin : Statement (.convoyBegin) := of_none rfl

theorem vectorRetire : Statement (.vectorRetire) := of_none rfl

theorem resynchronisingAccess : Statement (.resynchronisingAccess) := of_none rfl

theorem mopBegin : Statement (.mopBegin) := of_none rfl

theorem mopRetire : Statement (.mopRetire) := of_none rfl

theorem vldwGroup : Statement (.vldwGroup) := of_none rfl

theorem storeRefusal : Statement (.storeRefusal) := of_none rfl

theorem ringGuard : Statement (.ringGuard) := of_none rfl

theorem impreciseTrap : Statement (.impreciseTrap) := of_none rfl

theorem resume : Statement (.resume) := of_none rfl

theorem jobBind : Statement (.jobBind) := of_none rfl

theorem preemption : Statement (.preemption) := of_none rfl

theorem expiry : Statement (.expiry) := of_none rfl

theorem treeDeadline : Statement (.treeDeadline) := of_none rfl

theorem slotCreation : Statement (.slotCreation) := of_none rfl

theorem reclaimAtTimer : Statement (.reclaimAtTimer) := of_none rfl

theorem graceEnd : Statement (.graceEnd) := of_none rfl

theorem timedWaitLimit : Statement (.timedWaitLimit) := of_none rfl

theorem waitConditionMet : Statement (.waitConditionMet) := of_none rfl

theorem atTimer : Statement (.atTimer) := of_none rfl

theorem fhoutLaunch : Statement (.fhoutLaunch) := of_none rfl

theorem reclaimDrainTimeout : Statement (.reclaimDrainTimeout) := of_none rfl

theorem fencing : Statement (.fencing) := of_none rfl

theorem uncorrectableError : Statement (.uncorrectableError) := of_none rfl

theorem dispatcherPlacement : Statement (.dispatcherPlacement) := of_none rfl

theorem stealRequest : Statement (.stealRequest) := of_none rfl

theorem stealGrant : Statement (.stealGrant) := of_none rfl

theorem setdlRequest : Statement (.setdlRequest) := of_none rfl

theorem gangReservation : Statement (.gangReservation) := of_none rfl

theorem gangStart : Statement (.gangStart) := of_none rfl

theorem lendComplete : Statement (.lendComplete) := of_none rfl

theorem savedGroupRestore : Statement (.savedGroupRestore) := of_none rfl

theorem vamoArrival : Statement (.vamoArrival) := of_none rfl

theorem combiningTimeout : Statement (.combiningTimeout) := of_none rfl

theorem pageWalk : Statement (.pageWalk) := of_none rfl

theorem atsCompletion : Statement (.atsCompletion) := of_none rfl

theorem prgResponse : Statement (.prgResponse) := of_none rfl

theorem invalidateRequest : Statement (.invalidateRequest) := of_none rfl

theorem invalidateCompletion : Statement (.invalidateCompletion) := of_none rfl

theorem listStart : Statement (.listStart) := of_none rfl

theorem spoolChunk : Statement (.spoolChunk) := of_none rfl

theorem chunkArrival : Statement (.chunkArrival) := of_none rfl

theorem src : Statement (.src) := of_none rfl

theorem dst : Statement (.dst) := of_none rfl

theorem push : Statement (.push) := of_none rfl

theorem mcast : Statement (.mcast) := of_none rfl

theorem gather : Statement (.gather) := of_none rfl

theorem cvt : Statement (.cvt) := of_none rfl

theorem clistLoop : Statement (.clistLoop) := of_none rfl

theorem waitd : Statement (.waitd) := of_none rfl

theorem atTime : Statement (.atTime) := of_none rfl

theorem notifyDec : Statement (.notifyDec) := of_none rfl

theorem notifyPost : Statement (.notifyPost) := of_none rfl

theorem recRecord : Statement (.recRecord) := of_none rfl

theorem endList : Statement (.endList) := of_none rfl

theorem codingCommandStart : Statement (.codingCommandStart) := of_none rfl

theorem codingCommandEnd : Statement (.codingCommandEnd) := of_none rfl

theorem messageAppend : Statement (.messageAppend) := of_none rfl

theorem msgSendvRetry : Statement (.msgSendvRetry) := of_none rfl

theorem ingressFrame : Statement (.ingressFrame) := of_none rfl

theorem ptpFrame : Statement (.ptpFrame) := of_none rfl

theorem esmcMessage : Statement (.esmcMessage) := of_none rfl

theorem timeStep : Statement (.timeStep) := of_none rfl

theorem lockStateChange : Statement (.lockStateChange) := of_none rfl

theorem flitReplay : Statement (.flitReplay) := of_none rfl

theorem linkRetrain : Statement (.linkRetrain) := of_none rfl

theorem tetherDown : Statement (.tetherDown) := of_none rfl

theorem barrierArrival : Statement (.barrierArrival) := of_none rfl

theorem ticketPoll : Statement (.ticketPoll) := of_none rfl

theorem launchDoorbell : Statement (.launchDoorbell) := of_none rfl

theorem commandDoorbell : Statement (.commandDoorbell) := of_none rfl

theorem telemetryClaim : Statement (.telemetryClaim) := of_none rfl

theorem powerLimitRegisterWrite : Statement (.powerLimitRegisterWrite) := of_none rfl

theorem portModeWrite : Statement (.portModeWrite) := of_none rfl

theorem windowDescriptorStore : Statement (.windowDescriptorStore) := of_none rfl

theorem registerWrite : Statement (.registerWrite) := of_none rfl

theorem queueCreate : Statement (.queueCreate) := of_none rfl

theorem queueDestroy : Statement (.queueDestroy) := of_none rfl

theorem tenantCreate : Statement (.tenantCreate) := of_none rfl

theorem tenantDestroy : Statement (.tenantDestroy) := of_none rfl

theorem ptAttach : Statement (.ptAttach) := of_none rfl

theorem lend : Statement (.lend) := of_none rfl

theorem reclaim : Statement (.reclaim) := of_none rfl

theorem reclaimAt : Statement (.reclaimAt) := of_none rfl

theorem slotSet : Statement (.slotSet) := of_none rfl

theorem bridleSet : Statement (.bridleSet) := of_none rfl

theorem launch : Statement (.launch) := of_none rfl

theorem gangLaunch : Statement (.gangLaunch) := of_none rfl

theorem copy : Statement (.copy) := of_none rfl

theorem signal : Statement (.signal) := of_none rfl

theorem codingCfg : Statement (.codingCfg) := of_none rfl

theorem telemetry : Statement (.telemetry) := of_none rfl

theorem attest : Statement (.attest) := of_none rfl

theorem partReset : Statement (.partReset) := of_none rfl

theorem debugSession : Statement (.debugSession) := of_none rfl

theorem debugHalt : Statement (.debugHalt) := of_none rfl

theorem debugRead : Statement (.debugRead) := of_none rfl

theorem debugResume : Statement (.debugResume) := of_none rfl

theorem keySet : Statement (.keySet) := of_none rfl

theorem alloc : Statement (.alloc) := of_none rfl

theorem fenceCmd : Statement (.fenceCmd) := of_none rfl

theorem powerLimit : Statement (.powerLimit) := of_none rfl

theorem queryResult : Statement (.queryResult) := of_none rfl

theorem serviceTrap : Statement (.serviceTrap) := of_none rfl

theorem svcNone : Statement (.svcNone) := of_none rfl

theorem svcNotice : Statement (.svcNotice) := of_none rfl

theorem svcTelemetry : Statement (.svcTelemetry) := of_none rfl

theorem svcTimeLock : Statement (.svcTimeLock) := of_none rfl

theorem deferredCompletion : Statement (.deferredCompletion) := of_none rfl

theorem firmwareTimer : Statement (.firmwareTimer) := of_none rfl

theorem watchdogExpiry : Statement (.watchdogExpiry) := of_none rfl

theorem serviceRestart : Statement (.serviceRestart) := of_none rfl

theorem ballastTurn : Statement (.ballastTurn) := of_none rfl

theorem mgmtCoreReset : Statement (.mgmtCoreReset) := of_none rfl

theorem tripHoldBegin : Statement (.tripHoldBegin) := of_none rfl

theorem tripHoldEnd : Statement (.tripHoldEnd) := of_none rfl

theorem powerStep : Statement (.powerStep) := of_none rfl

theorem tetherUp : Statement (.tetherUp) := of_none rfl

theorem priReenable : Statement (.priReenable) := of_none rfl

theorem unplacedSlotSkip : Statement (.unplacedSlotSkip) := of_none rfl

end Sys2Proof.Laws.Encoding
end

