-- ==== Sys2Proof/Laws/Vector.lean ====
section
/-! SUPPORT. How a vector instruction that issues with nothing before it completes. -/

namespace Sys2Proof.Laws

open Sys2Proof.Machine Sys2Proof.Safety

/-- The state a queue-taking instruction runs from: it has joined the convoy, its view registers are
cleared, and a resynchronising one is counted. -/
def atRun (i : Instr) (c : Convoy) (s : State) : State :=
  countResync i (clearView (i.queueOf.getD 0) (updH s fun h => { h with convoy := c }))

theorem drained_eq {s : State} (hq : s.hart.queue = []) (hp : s.hart.pend = []) : drained s = true := by
  simp [drained, hq, hp]

theorem queueRoom_empty {h : Hart} (hq : h.queue = []) (q : Nat) : queueRoom h q = true := by
  unfold queueRoom
  rw [hq]
  simp only [List.filter_nil, List.length_nil]
  split
  · decide
  · split <;> decide

/-- R46: an instruction that takes resources joins a convoy whose rules it keeps. -/
theorem convoy_add_some {c : Convoy} {joins : Bool} {i : Instr} (hr : i.res ≠ 0) (hu : c.used &&& i.res = 0)
    (hn : c.count < 4) (hs : c.resync = false) (hm : c.mode = false) (hc : i.changesMode = true → c.count = 0) :
    ∃ d, c.add joins i = some d := by
  unfold Convoy.add
  have h2 : (c.used &&& i.res != 0 || decide (c.count ≥ 4) || c.resync || c.mode ||
      (i.changesMode && c.count != 0)) = false := by
    simp only [hu, hs, hm, Bool.or_false, bne_self_eq_false, Bool.false_or]
    have : decide (c.count ≥ 4) = false := by simpa using hn
    rw [this, Bool.false_or]
    cases h : i.changesMode
    · rfl
    · simp [hc h]
  simp only [hr, if_false, h2, Bool.false_eq_true]
  exact ⟨_, rfl⟩

/-- An instruction that issues with nothing before it runs at once: its meaning is the end of its
run. -/
theorem vexec_runs {i : Instr} {op : VOp} {sa sb : Dword} {s : State} {d : Convoy} (hq : s.hart.queue = [])
    (hp : s.hart.pend = []) (hc : op.check s.hart.width s.hart.mview (lenNow s) = none)
    (hd : s.hart.convoy.add s.hart.x.joins i = some d) :
    vexec i op sa sb s = finish (.ok (enqueue op (capture s i sa sb) (atRun i d s))) := by
  unfold vexec vissue withConvoy
  simp only [hc, hd, drained_eq hq hp, queueRoom_empty hq, Bool.not_true, Bool.and_false, Bool.false_eq_true, if_false]
  rfl

end Sys2Proof.Laws
end

