-- ==== Sys2Proof/Tests/Slice0.lean ====
section
/-! SUPPORT. The author's own tests: refused terms for each check of well-formedness, words written out from
the encoding tables, single steps on small states with results worked out from the rules, and for every
statement with hypotheses a state and operands that meet them. -/

namespace Sys2Proof.Tests

set_option Elab.async false

open Sys2Proof.Machine Sys2Proof.Safety Sys2Proof.Rules

/-- R49-R62: nop, svc 5, tret. -/
theorem test_decode_system :
    decodeWord 0x00000000 = .ok (.nop) ∧
    decodeWord 0x00080005 = .ok (.svc 5) ∧
    decodeWord 0x00180000 = .ok (.tret) := by decide

/-- R49-R62: mtc s5, s6, fcsr (R111: 0x003). -/
theorem test_decode_control_registers :
    decodeWord 0x01299003 = .ok (.mtc 5 6 3) ∧
    decodeWord 0x01380010 = .ok (.mfc 7 0x10) := by decide

/-- R49-R62: add s1, s1, s7 and sub s3, s3, s9 of the compaction job (17). -/
theorem test_decode_arithmetic :
    decodeWord 0x02084E00 = .ok (.add 1 1 7) ∧
    decodeWord 0x0218D201 = .ok (.sub 3 3 9) := by decide

/-- R49-R62: addi s10, s0, 0 and slli s7, s9, 2 of the compaction job; lui s10, 32 of the tensor job; andi with a negative immediate. -/
theorem test_decode_immediates :
    decodeWord 0x03500000 = .ok (.addi 10 0 0) ∧
    decodeWord 0x053A4002 = .ok (.slli 7 9 2) ∧
    decodeWord 0x07500020 = .ok (.lui 10 32) ∧
    decodeWord 0x04088FFF = .ok (.andi 1 2 0xFFF) ∧
    decodeWord 0x0608BFFF = .ok (.sltin 1 2 0x1FFF) := by decide

/-- R49-R62: adpc; sitea with rel 1, twin 1, x 3, y 17; here. -/
theorem test_decode_addresses :
    decodeWord 0x0827FFFF = .ok (.adpc 4 0x7FFFF) ∧
    decodeWord 0x0931D8E2 = .ok (.siteaRel 6 7 1 3 17) ∧
    decodeWord 0x09302000 = .ok (.here 6) := by decide

/-- R49-R62: mulhn, remn, ext signed 16, bswap. -/
theorem test_decode_multiplies_and_counts :
    decodeWord 0x0A088602 = .ok (.mulhn 1 2 3) ∧
    decodeWord 0x0A088606 = .ok (.remn 1 2 3) ∧
    decodeWord 0x0B08A804 = .ok (.ext 1 2 1 1) ∧
    decodeWord 0x0B088003 = .ok (.bswap 1 2) := by decide

/-- R49-R62: bne s3, s0, -7 of the compaction job; call, loop and ret. -/
theorem test_decode_transfers :
    decodeWord 0x0C2307F9 = .ok (.bne 3 0 0x7F9) ∧
    decodeWord 0x0EFFFFFF = .ok (.call 0xFFFFFF) ∧
    decodeWord 0x0F6507FF = .ok (.loop 5 0x7FF) ∧
    decodeWord 0x0F400000 = .ok (.ret) := by decide

/-- R49-R62: lds.i64 s11, [s1+8] and sts.rel.x.i64 s13, [s1+24] of the gang job (19). -/
theorem test_decode_scalar_memory :
    decodeWord 0x10587001 = .ok (.lds 11 1 3 0 0 1) ∧
    decodeWord 0x11687503 = .ok (.sts 13 1 3 5 3) := by decide

/-- R49-R62: amo.cas s1, [s2], s3, 64 bits, .ar, .d; fence.full.x; qfence. -/
theorem test_decode_atomics :
    decodeWord 0x1208873E = .ok (.amoCas 1 2 3 1 3 2) ∧
    decodeWord 0x13000035 = .ok (.fence 3 5) ∧
    decodeWord 0x130000C0 = .ok (.qfence) := by decide

/-- R49-R62: vld.i32 v2, [s2+0] (R72); vst.i32 v24, [s2+0] of the compaction job; vldw, vstc and vamo.xor. -/
theorem test_decode_vector_memory :
    decodeWord 0x14084010 = .ok (.vld 2 2 0 0 2) ∧
    decodeWord 0x15604010 = .ok (.vst 24 2 0 0 2) ∧
    decodeWord 0x140DFF4C = .ok (.vldw 3 15 31 2 1) ∧
    decodeWord 0x15184935 = .ok (.vstc 6 2 9 1 2) ∧
    decodeWord 0x1618493C = .ok (.vamoXor 6 2 9 1 3) := by decide

/-- R49-R62: setvl s9, s4, .i32 (R72); setvl s9, s3, .i32 g8 of the compaction job; setvli; settile. -/
theorem test_decode_lengths :
    decodeWord 0x17490400 = .ok (.setvl 9 4 2 0) ∧
    decodeWord 0x1748C580 = .ok (.setvl 9 3 2 3) ∧
    decodeWord 0x174ADFFD = .ok (.setvli 9 0xB 1 1023) ∧
    decodeWord 0x17088602 = .ok (.settile 1 2 3) := by decide

/-- R49-R62: exit s0 of the compaction job; spawn, gang, dep.dec. -/
theorem test_decode_jobs :
    decodeWord 0x18000002 = .ok (.exitJob 0) ∧
    decodeWord 0x18088000 = .ok (.spawn 1 2) ∧
    decodeWord 0x18088601 = .ok (.gang 1 2 3) ∧
    decodeWord 0x19088602 = .ok (.depDec 1 2 3) := by decide

/-- R49-R62: bar.wait with selector 1; tkt.take; bar.arrive.fsum2 on s4, s5. -/
theorem test_decode_barriers_and_tickets :
    decodeWord 0x1A088202 = .ok (.barWait 1 2 1) ∧
    decodeWord 0x1A088008 = .ok (.tktTake 1 2) ∧
    decodeWord 0x1A088805 = .ok (.barArriveFsum2 1 2 4) := by decide

/-- R49-R62: win.cfg s8, w2, s1 of the tensor job (18); spl.mcast; cpost; msg.sendv. -/
theorem test_decode_windows_and_lists :
    decodeWord 0x1B408200 = .ok (.winCfg 8 2 1) ∧
    decodeWord 0x1C088602 = .ok (.splMcast 1 2 3) ∧
    decodeWord 0x1D214C00 = .ok (.cpost 4 5 6) ∧
    decodeWord 0x1D214C03 = .ok (.msgSendv 4 5 6) := by decide

/-- R49-R62: now s3, 1; pmc s3, 2; pmc.cfg s3, 2, s4. -/
theorem test_decode_time_and_counters :
    decodeWord 0x1E184000 = .ok (.now 3 1) ∧
    decodeWord 0x1E188001 = .ok (.pmc 3 2) ∧
    decodeWord 0x1E1A8801 = .ok (.pmcCfg 3 2 4) := by decide

/-- R49-R62: vadd.i32 v3, v1, v2 (R72); vssubn; vmulhn; vremn; vcmp.gt.i32 k1, v8, v16 of the compaction job without K. -/
theorem test_decode_vector_integers :
    decodeWord 0x200C1080 = .ok (.vadd 3 1 2 0) ∧
    decodeWord 0x220420E0 = .ok (.vssubn 1 2 3 4) ∧
    decodeWord 0x220420C7 = .ok (.vmulhn 1 2 3 0) ∧
    decodeWord 0x230420C3 = .ok (.vremn 1 2 3 0) ∧
    decodeWord 0x24A48400 = .ok (.vcmp 5 1 8 16 0) := by decide

/-- R49-R62: vcompress.i32 v24, v8, k1 and kpopc s6, k1 of the compaction job; vbcast.i32 v16, s10 without K; vtrn; vins. -/
theorem test_decode_masks_and_permutes :
    decodeWord 0x2660800E = .ok (.vcompress 24 8 1) ∧
    decodeWord 0x25181006 = .ok (.kpopc 6 1) ∧
    decodeWord 0x28400500 = .ok (.vbcast 16 10 0) ∧
    decodeWord 0x27042005 = .ok (.vtrn 1 2) ∧
    decodeWord 0x28042182 = .ok (.vins 1 2 3) := by decide

/-- R49-R62: vfadd.f32 v24, v8, v16 of the gang job (19); vfnmsub; vfcvt to f16; vfatan2; vfclass. -/
theorem test_decode_vector_floats :
    decodeWord 0x29608400 = .ok (.vfadd 24 8 16 0) ∧
    decodeWord 0x2A0420E3 = .ok (.vfnmsub 1 2 3 4) ∧
    decodeWord 0x2C042280 = .ok (.vfcvt 1 2 0xA 0) ∧
    decodeWord 0x2D0420C6 = .ok (.vfatan2 1 2 3 0) ∧
    decodeWord 0x2B042002 = .ok (.vfclass 1 2 0) := by decide

/-- R49-R62: vcrot, vbfly4, vtchol, vredsumw. -/
theorem test_decode_complex_tiles_reductions :
    decodeWord 0x2E0420E5 = .ok (.vcrot 1 2 3 4) ∧
    decodeWord 0x2F0420C1 = .ok (.vbfly4 1 2 3 0) ∧
    decodeWord 0x30042181 = .ok (.vtchol 1 2 3 0) ∧
    decodeWord 0x310421D7 = .ok (.vredsumw 1 2 3 5) := by decide

/-- R49-R62: fmadd s1, s2, s3, s4 of f32; fcvt s1, s2, .f64 to .f32; fcmp. -/
theorem test_decode_scalar_floats :
    decodeWord 0x3208864D = .ok (.fmadd 1 2 3 4 1) ∧
    decodeWord 0x33089091 = .ok (.fcvt 1 2 8 9) ∧
    decodeWord 0x33088670 = .ok (.fcmp 1 2 3 7 0) := by decide

/-- R49-R62: menter, mop.f8a w2, w3, 32, mst.f32 [s10], s11 and mexit of the tensor job (18); mopv. -/
theorem test_decode_matrix :
    decodeWord 0x34000000 = .ok (.menter) ∧
    decodeWord 0x3523021F = .ok (.mop 2 3 0 2 31) ∧
    decodeWord 0x3752EC01 = .ok (.mst 10 11 11) ∧
    decodeWord 0x34000001 = .ok (.mexit) ∧
    decodeWord 0x36042023 = .ok (.mopv 1 2 8 3) := by decide

/-! ### Checks of well-formedness: one refused term for each -/

/-- R111, R112: an unknown control register; writes of the read-only ones `hartw` (0x020) and `mmode` (0x010). -/
theorem test_wf_control_registers : Instr.wf (.mfc 1 0x006) = false ∧ Instr.wf (.mtc 1 2 0x020) = false ∧
    Instr.wf (.setc 1 2 0x010) = false ∧ Instr.wf (.clrc 1 2 0x7FF) = false := by decide

/-- R58: `ext` has three widths; `loop` needs a counter register (R129). -/
theorem test_wf_scalar : Instr.wf (.ext 1 2 0 3) = false ∧ Instr.wf (.loop 0 5) = false := by decide

/-- R57, R58: a 64-bit load does not sign-extend; the scope codes are 1 to 5; a fence has a kind and a scope. -/
theorem test_wf_memory : Instr.wf (.lds 1 2 3 1 0 0) = false ∧ Instr.wf (.lds 1 2 2 0 6 0) = false ∧
    Instr.wf (.sts 1 2 3 7 0) = false ∧ Instr.wf (.fence 0 1) = false ∧ Instr.wf (.fence 1 0) = false ∧
    Instr.wf (.fence 3 6) = false := by decide

/-- R58: `vldw` names windows 0-15; `vstc` needs a mask. -/
theorem test_wf_vector_memory : Instr.wf (.vldw 1 16 0 0 2) = false ∧ Instr.wf (.vstc 1 2 3 0 2) = false := by decide

/-- R53: type codes 0x0F and 0x17 are reserved. -/
theorem test_wf_types : Instr.wf (.setvl 1 2 0x0F 0) = false ∧ Instr.wf (.setvli 1 0x17 0 4) = false ∧
    Instr.wf (.vfcvt 1 2 0x1F 0) = false ∧ Instr.wf (.vfcvtRtz 1 2 0x0F 0) = false ∧
    Instr.wf (.fcvt 1 2 0x00 9) = false ∧ Instr.wf (.fcvt 1 2 9 0x0C) = false := by decide

/-- R58: `bar.arrive.fsum2` takes an even register pair, `pmc` a counter or a selection. -/
theorem test_wf_barriers_and_counters : Instr.wf (.barArriveFsum2 1 2 3) = false ∧
    Instr.wf (.barArriveFsum2 1 2 0) = false ∧ Instr.wf (.pmc 1 9) = false := by decide

/-- R60, R62: condition codes end at 5 for integer compares and at 7 for `fcmp`. -/
theorem test_wf_conditions : Instr.wf (.vcmp 6 1 2 3 0) = false ∧ Instr.wf (.vcmpn 7 1 2 3 0) = false ∧
    Instr.wf (.fcmp 1 2 3 8 0) = false := by decide

/-- R56, R232: reserved formats; one window twice; a block-scaled product over part of a block, and a scale
window for a format that has none; `mopv` takes no block-scaled format. -/
theorem test_wf_matrix : Instr.wf (.mop 1 2 0 11 31) = false ∧ Instr.wf (.mop 1 1 0 2 31) = false ∧
    Instr.wf (.mop 1 2 3 4 30) = false ∧ Instr.wf (.mop 1 2 3 2 31) = false ∧ Instr.wf (.mopv 1 2 11 0) = false ∧
    Instr.wf (.mopv 1 2 5 0) = false ∧ Instr.wf (.mld 1 2 13) = false ∧ Instr.wf (.mst 1 2 13) = false ∧
    Instr.wf (.mcvt 1 10) = false := by decide

/-- R49, R58: a reserved major, function and field, and a code the check refuses, are turned away by name. -/
theorem test_decode_refuses : decodeWord 0x1F000000 = .error .reservedMajor ∧
    decodeWord 0x0200000E = .error .reservedFunction ∧ decodeWord 0x00000001 = .error .reservedField ∧
    decodeWord 0x1748DE00 = .error .reservedCode := by decide

/-- R72: in memory the first bundle of the vector sum starts with the bytes 00 04 49 17 10 40 08 14. -/
theorem test_bytes_of_a_bundle : encode (.setvl 9 4 2 0) ++ encode (.vld 2 2 0 0 2) =
    [0x00, 0x04, 0x49, 0x17, 0x10, 0x40, 0x08, 0x14] := by decide

/-- R58: bit 0 of the table's numbering is the least significant bit of the word. -/
theorem test_table_word : decodeTableWord 32 0x02084E00 = some (.add 1 1 7) := by decide

/-! ### Small states -/

/-- Hart 0 of core 5, eight lanes wide, which holds no job, at an instruction at 0x104. -/
def bare (f : Hart → Hart) : State :=
  { hart := f { core := 5, stage := .running, width := 8, pc := 0x104, x := { iaddr := 0x104 } } }

/-- The same with its vector length, type code and group code. -/
def vec (typ grp vl : Nat) (f : Hart → Hart) : State :=
  bare fun h => f { h with len := { vl := vl, rowc := 1, colc := vl, vtype := BitVec.ofNat 7 (32 * grp + typ) } }

/-- What the completed instruction leaves, read by a test. -/
def read {α : Type} (i : Instr) (s : State) (f : State → α) : Option α :=
  match exec i s with
  | .next t => some (f t)
  | _ => none

/-! ### Hypotheses met: what several of them need -/

/-- A result is a value and a state of which `p` holds. -/
def okWith {α : Type} (r : XRes α) (p : α → State → Bool) : Bool :=
  match r with
  | .ok a t => p a t
  | _ => false

theorem ok_value {α : Type} [DecidableEq α] {r : XRes α} {v : α} (h : okWith r (fun a _ => a == v) = true) :
    ∃ t, r = .ok v t := by
  cases r with
  | ok a t => exact ⟨t, by rw [beq_iff_eq.mp h]⟩
  | fault | refuse | guard | wait => cases h

theorem ok_keeps {α : Type} [DecidableEq α] {r : XRes α} (v : α) (p : State → Prop) [DecidablePred p]
    (h : okWith r (fun a t => a == v && decide (p t)) = true) : ∃ t, r = .ok v t ∧ p t := by
  cases r with
  | ok a t =>
    obtain ⟨h1, h2⟩ := Bool.and_eq_true_iff.mp h
    exact ⟨t, by rw [beq_iff_eq.mp h1], of_decide_eq_true h2⟩
  | fault | refuse | guard | wait => cases h

/-- With nothing queued, every access is free of queued ones. -/
theorem coherent_alone {s : State} (h : s.hart.queue = []) (k : Kind) (ea : Dword) (n : Nat) : Coherent s k ea n :=
  fun _ _ _ _ i e he => by rw [h] at he; cases i <;> cases he

theorem unnamed_alone {s : State} (h : s.hart.queue = []) (l n : Nat) : Unnamed s l n :=
  fun i e he => by rw [h] at he; cases i <;> cases he

/-- With one entry queued, that one is to be free of the access. -/
theorem unnamed_one {s : State} {e : QEntry} {l n : Nat} (h : s.hart.queue = [e]) (he : entryMeets s [] e l n = false) :
    Unnamed s l n := fun i x hx => by
  rw [h] at hx
  match i with
  | 0 => cases hx; exact he
  | _ + 1 => cases hx

/-! ### Hypotheses met: scalar instructions, transfers, traps, control registers -/

/-- The widths of `ext`, the core of `here`, the selectors of `now`. -/
theorem test_meets_scalar : (2 : BitVec 2).toNat ≤ 2 ∧ (bare id).hart.core < 96 ∧ 2 ≤ (2 : BitVec 5).toNat ∧
    2 ≤ (31 : BitVec 5).toNat := by decide

/-- `jr` to a bundle address, and a counter register of `loop`. -/
theorem test_meets_branches : (rdS (bare fun h => { h with s := [(1, 0x2008)] }) 1).toNat % 8 = 0 ∧
    (1 : BitVec 5) ≠ 0 := by decide

/-- A full return stack: 16 entries, `n` spilled of a capacity of `c`, at a base. -/
def stacked (n c base : Nat) : State :=
  bare fun h => { h with rs := List.replicate 16 0x108, spilled := n, rsCap := c, rsBase := base, s := [(1, 0x2000), (2, 0x2004)] }

/-- Room in the stack, room for one last spilled entry, and none: at the capacity and at the scratchpad's end. -/
theorem test_meets_calls : HasRoom (bare id) ∧ HasRoom (stacked 3 4 0x100) ∧ HasRoom (stacked 3 9 (0x80000 - 32)) ∧
    ¬ HasRoom (stacked 4 4 0x100) ∧ ¬ HasRoom (stacked 4 9 (0x80000 - 32)) ∧ (rdS (stacked 0 0 0) 1).toNat % 8 = 0 ∧
    (rdS (stacked 0 0 0) 2).toNat % 8 ≠ 0 := by
  simp only [HasRoom]; decide

/-- A queued access of the hart to the first 40 bytes of its scratchpad. -/
def spadStore : QEntry :=
  { instr := .vst 4 1 0 0 2, word := 0, addr := 0x100, joins := false, queue := 0, sa := 0xFE40000000000000, sb := 0
    len := { vl := 10, rowc := 1, colc := 10, vtype := 2 }, rm := 0, satfp := false }

/-- A spill and a fill that a queued store does not meet. -/
theorem test_meets_spills : let s := withHart (stacked 3 4 0x100) fun h => { h with queue := [spadStore] }
    16 ≤ s.hart.rs.length ∧ MaySpill s ∧
    (let u := { withHart s (fun h => { h with rs := [] }) with mem := putBytes [] (spadLoc 5 0x110) (bytesOfNat 8 0x3008) };
      FillsFrom u 0x3008) :=
  ⟨by decide, fun _ => unnamed_one rfl (by decide +kernel), rfl, by decide, unnamed_one rfl (by decide +kernel), by decide +kernel⟩

/-- Spilled entries of both kinds, with nothing queued. -/
theorem test_meets_fills : FillsFrom { bare fun h => { h with spilled := 1, rsBase := 0x100, rsCap := 2 } with
      mem := putBytes [] (spadLoc 5 0x100) (bytesOfNat 8 0x300C) } 0x300C :=
  ⟨rfl, by decide, unnamed_alone rfl _ _, by decide +kernel⟩

/-- Entries to return to: a stacked one, a misaligned one, and none. -/
theorem test_meets_returns : (stacked 0 0 0).hart.rs.getLast? = some 0x108 ∧ 0x300C % 8 ≠ 0 ∧
    (bare fun h => { h with rs := [0x10C] }).hart.rs.getLast? = some 0x10C ∧ (0x10C : BitVec 48).toNat % 8 ≠ 0 ∧
    (bare id).hart.rs = [] ∧ (bare id).hart.spilled = 0 ∧ (bare id).hart.x.paired = false := by decide

/-- A handler that takes division's and arithmetic's traps, one that is inhibited, and none. -/
def handled (inh grc imp : Bool) (xpc : BitVec 48) : State :=
  { bare fun h => { h with tr := { tvec := 0x8000, tenab := 0x3F, inh := inh, grc := grc, imp := imp, xpc := xpc } } with
    tab := { coreTlb := [(5, [{ tenant := 0, va := 0, size := 2 ^ 21, leaf := 0x2000CF, wr := true }])] } }

theorem test_meets_traps : HandlerTakes (handled false false false 0).hart 0x02 ∧
    HandlerTakes (handled false false false 0).hart 0x19 ∧ ¬ HandlerTakes (handled true false false 0).hart 0x02 ∧
    ¬ HandlerTakes (handled false false false 0).hart 0x10 ∧ (handled false false false 0).hart.core ≠ 96 := by
  refine ⟨⟨⟨2, by decide⟩, by decide⟩, ⟨⟨5, by decide⟩, by decide⟩, fun h => ?_, fun h => ?_, by decide⟩
  · exact absurd h.2.2 (by decide)
  · obtain ⟨b, hb, -⟩ := h.1
    simp [coveredBy] at hb

/-- A session of the core's partition, and none; queues that are empty. -/
theorem test_meets_system : Retired (bare id) ∧
    { bare id with svc := { sessions := [0] } }.svc.sessions.contains (coreEntry (bare id) 5).part = true ∧
    ¬ (bare id).svc.sessions.contains (coreEntry (bare id) 5).part = true := by
  unfold Retired; decide

/-- Returns to a bundle address and to the second word of one that is not paired, with and without grace; a
misaligned `xpc`; and no handler to return from. -/
theorem test_meets_tret : MayReturn (handled true false true 0x108) (handled true false true 0x108) ∧
    (∃ s1, MayReturn (handled true true false 0x10C) s1 ∧ s1.hart.tr.grc = true) ∧
    (handled true true false 0).hart.tr.grc = true ∧ (handled true false false 6).hart.tr.xpc.toNat % 4 ≠ 0 ∧
    (handled true false false 0).hart.tr.inh = true ∧ (handled false false false 0).hart.tr.inh = false := by
  refine ⟨.inl ⟨by decide, rfl⟩, ⟨_, .inr ⟨by decide, 0, rfl, by decide⟩, rfl⟩, by decide⟩

/-- Each control register moves where nothing is queued; a configuration at its convoy's head and outside one. -/
theorem test_meets_control_registers : (0x008 : BitVec 12).toNat ∈ controlRegisters ∧ Retired (bare id) ∧
    MayConfigure (bare id) ∧ MayConfigure (bare fun h => { h with x := { joins := true } }) ∧
    ¬ MayConfigure (bare fun h => { h with x := { joins := true }, convoy := { count := 1 } }) ∧
    writtenField 0x034 7 = some 7 ∧ (4 : Dword).toNat % 8 < 5 ∧ 5 ≤ (5 : Dword).toNat % 8 := by
  unfold Retired MayConfigure; decide

/-- The widths of a hart and the type codes that are not reserved. -/
theorem test_meets_lengths : (bare id).hart.width ∈ [4, 8, 16, 32] ∧ MayConfigure (bare id) ∧ typeCodeKnown 0x16 = true ∧
    typeCodeKnown ((vec 0x0E 3 5 id).hart.len.vtype.extractLsb' 0 5) = true := by
  unfold MayConfigure; decide

/-- Counters of one kind and the other, and selectors beyond them. -/
theorem test_meets_counters : (7 : BitVec 5).toNat < 8 ∧ (getPmc (bare id) 7).select.toNat % 256 ≠ 0x0E ∧
    (getPmc { bare id with pmc := [(8 * 5 + 7, { select := 0x10E })] } 7).select.toNat % 256 = 0x0E ∧
    8 ≤ (8 : BitVec 5).toNat := by decide

/-! ### Hypotheses met: vector instructions -/

/-- The registers of a group of four, and of one of eight in the last place. -/
theorem test_meets_fits : Fits (vec 0x02 2 40 id) 4 (groupNow (vec 0x02 2 40 id)) ∧
    Fits (vec 0x02 3 40 id) 56 (groupNow (vec 0x02 3 40 id)) ∧
    Fits (vec 0x02 0 40 fun h => { h with mview := true }) 47 (groupNow (vec 0x02 0 40 id)) ∧
    ¬ Fits (vec 0x02 0 40 fun h => { h with mview := true }) 48 (groupNow (vec 0x02 0 40 id)) := by
  unfold Fits; decide

/-- Every integer instruction issues on i8 to n64 groups. -/
theorem test_meets_integers : typeNow (vec 0x07 0 8 id) < 8 ∧ (∀ r ∈ vectorInts, Issues (r.1 1 2 3 4) (vec 0x07 0 8 id)) ∧
    (∀ r ∈ vectorBits, Issues (r.1 1 2 3 4) (vec 0x13 0 8 id)) ∧ 0x13 ≤ typeNow (vec 0x13 0 8 id) ∧
    typeNow (vec 0x03 0 8 id) < 4 ∧ Issues (.vabs 1 2 0) (vec 0x03 0 8 id) := by
  unfold Issues Retired MayJoin; decide

/-- The widening instructions, with groups apart. -/
theorem test_meets_widening : typeNow (vec 0x02 1 8 id) < 8 ∧ widthNow (vec 0x02 1 8 id) ≠ 64 ∧
    Fits (vec 0x02 1 8 id) 4 4 ∧ Fits (vec 0x02 1 8 id) 8 2 ∧ Apart 4 4 8 2 ∧ Apart 8 2 4 4 ∧ Apart 4 4 2 2 ∧
    Issues (.vwadd 4 8 2 0) (vec 0x02 1 8 id) ∧ Issues (.vwmul 4 8 2 0) (vec 0x02 1 8 id) ∧
    Issues (.vnclip 8 4 2 0) (vec 0x02 1 8 id) ∧ Issues (.vfwmul 4 8 2 0) (vec 0x09 1 8 id) ∧
    Issues (.vfwmacc 4 8 2 0) (vec 0x0B 1 8 id) := by
  unfold Fits Apart Issues Retired MayJoin; decide

/-- The floating-point instructions on f64 and, with the special functions, on bf16; each conversion between
kinds of type. -/
theorem test_meets_floats : typeNow (vec 0x08 0 8 id) = 8 ∧ typeNow (vec 0x0B 0 8 id) = 0xB ∧
    (∀ r ∈ vectorFloats, Issues (r.1 1 2 3 4) (vec 0x08 0 8 id)) ∧
    (∀ r ∈ vectorFloats1, Issues (r.1 1 2 4) (vec 0x08 0 8 id)) ∧
    (∀ r ∈ vectorSpecials, Issues (r.1 1 2 4) (vec 0x0B 0 8 id)) ∧ Issues (.vfatan2 1 2 3 0) (vec 0x0B 0 8 id) := by
  unfold Issues Retired MayJoin; decide

/-- Conversions f32 to f16, i32 to f64 (a group of two registers, apart) and ci16 to cf16. -/
theorem test_meets_conversions : (let s := vec 0x09 0 8 id;
      Fits s 1 (max 1 (groupNow s * typeWidth 0x0A / widthNow s)) ∧ Apart 1 1 2 1 ∧ Issues (.vfcvt 1 2 0x0A 0) s) ∧
    (let s := vec 0x02 0 8 id;
      Fits s 4 (max 1 (groupNow s * typeWidth 0x08 / widthNow s)) ∧ Apart 4 2 2 1 ∧ Issues (.vfcvtRtz 4 2 0x08 0) s) ∧
    (let s := vec 0x13 0 8 id;
      typeWidth 0x14 = widthNow s ∧ Issues (.vfcvt 1 1 0x14 0) s) := by
  unfold Fits Apart Issues Retired MayJoin; decide

/-- Compares, mask logic and counts. -/
theorem test_meets_masks : Issues (.vcmp 0 1 2 3 4) (vec 0x02 0 8 id) ∧ Issues (.vcmpn 0 1 2 3 4) (vec 0x02 0 8 id) ∧
    Issues (.vfcmp 0 1 2 3 4) (vec 0x0A 0 8 id) ∧ (∀ r ∈ maskLogic, Issues (r.1 1 2 3) (vec 0x02 0 8 id)) ∧
    Issues (.kpopc 6 1) (vec 0x02 0 8 id) ∧ Issues (.kfirst 6 1) (vec 0x02 0 8 id) := by
  unfold Issues Retired MayJoin; decide

/-- Permutes and moves. -/
theorem test_meets_permutes : (∀ i ∈ [Instr.vmv 1 2 3, .vmerge 1 2 3 4, .vgather 1 2 3 4, .vcompress 1 2 3, .vexpand 1 2 3,
      .vid 1 2, .viota 1 2 3, .vzip 1 2 3, .vunzip 1 2, .vtrn 1 2, .vbcast 1 2 3, .vins 1 2 3], Issues i (vec 0x02 0 8 id)) ∧
    (∀ r ∈ slides, Issues (r.1 1 2 3 4) (vec 0x02 0 8 id)) := by
  unfold Issues Retired MayJoin; decide

/-- Complex numbers, butterflies and tiles. -/
theorem test_meets_complex : (∀ r ∈ complexSums, Issues (r.1 1 2 3 4) (vec 0x13 0 8 id)) ∧
    (∀ i ∈ [Instr.vcconj 1 2 3, .vcabs2 1 2 3, .vcrot 1 2 3 4, .vbfly 1 2 3 4, .vbfly4 1 2 3 4, .vtgj 1 2 3 4,
      .vtchol 1 2 3 4, .vtmul 1 2 3 4, .vtherm 1 2 3], Issues i (vec 0x16 0 8 id)) ∧
    0x13 ≤ typeNow (vec 0x13 0 8 id) ∧ typeNow (vec 0x16 0 8 id) ≤ 0x16 ∧ (lenNow (vec 0x16 3 288 id)).colc ≤ 288 := by
  unfold Issues Retired MayJoin; decide

/-- Reductions of each kind of type, and `vmvs`. -/
theorem test_meets_reductions : (∀ r ∈ integerReductions, Issues (r.1 1 2 3 4) (vec 0x06 0 8 id)) ∧
    Issues (.vredsumw 1 2 3 4) (vec 0x06 0 8 id) ∧ widthNow (vec 0x06 0 8 id) ≠ 64 ∧
    (∀ r ∈ floatReductions, Issues (r.1 1 2 3 4) (vec 0x09 0 8 id)) ∧ Issues (.vcredsum 1 2 3 4) (vec 0x14 0 8 id) ∧
    Issues (.vmvs 1 2 3) (vec 0x14 0 8 id) := by
  unfold Issues Retired MayJoin; decide

/-- Scalar floating point with no exception enabled, and division by zero with its trap enabled. -/
theorem test_meets_scalar_floats : fcsrEnables (fcsrNow (bare id)) &&& 0x3F = 0 ∧
    fcsrEnables (fcsrNow (bare fun h => { h with fcsr := 0x3F0000 })) &&&
      (fpDiv f32 (modeNow (bare id)) 0x3F800000 0).flags ≠ 0 ∧ (bare id).hart.x.paired = false := by decide

/-! ### Hypotheses met: memory and the tile -/

/-- A writable, executable 2 MiB page at 0, whose frame stands at 0x200000 of device memory. -/
def page : TlbEntry := { tenant := 0, va := 0, size := 2 ^ 21, leaf := 0x20007D, wr := true }

/-- A page of host memory at 0x400000. -/
def hostPage : TlbEntry :=
  { tenant := 0, va := 2 ^ 22, size := 4096, leaf := BitVec.ofNat 64 (2 ^ 51 + 0x7D), wr := true, host := 0x9000, hostW := true }

/-- A state whose core has both pages in its TLB. -/
def mapped (s : State) : State := { s with tab := { coreTlb := [(5, [page, hostPage])] } }

/-- A load and a store of the page's last dword, an atomic there, atomics on the host page, and a misaligned
address. -/
theorem test_meets_scalar_memory :
    let s := mapped (bare fun h => { h with s := [(1, 0x1FFFF8), (2, 0x1001), (3, 0x400000)] })
    (∃ t, resolve s (acc s .load .read) (accessAddr s 1 3 0) 8 = .ok (.mem 0x3FFFF8 0) t ∧ Sound t 0x3FFFF8 8) ∧
    (∃ t, resolve s (acc s .store .write) (accessAddr s 1 3 0) 8 = .ok (.mem 0x3FFFF8 0) t ∧
      guardStops t s.hart.key 0x3FFFF8 8 = none ∧ Sound t 0x3FFFF8 8) ∧
    (accessAddr s 2 3 0).toNat % 8 ≠ 0 ∧
    (∃ t, resolve s (acc s .other .write) (rdS s 1) 8 = .ok (.mem 0x3FFFF8 0) t ∧
      guardStops t s.hart.key 0x3FFFF8 8 = none ∧ Sound t 0x3FFFF8 8) ∧
    (∃ t, resolve s (acc s .other .write) (rdS s 3) 8 = .ok (.mem (hostLoc 0x9000) 0) t ∧ Sound t (hostLoc 0x9000) 8) ∧
    isHost 0x3FFFF8 = false ∧ isHost (hostLoc 0x9000) = true ∧ s.hart.x.paired = false ∧
    OnHost (.amoAdd 4 3 1 1 0 0) ∧ ¬ OnHost (.amoAnd 4 3 1 1 0 0) :=
  ⟨⟨_, rfl, fun _ h => (nomatch h)⟩, ⟨_, rfl, by decide, fun _ h => (nomatch h)⟩,
    by decide, ⟨_, rfl, by decide, fun _ h => (nomatch h)⟩,
    ⟨_, rfl, fun _ h => (nomatch h)⟩, by decide, by decide, rfl, trivial, id⟩

/-- Accesses that no queued one meets: with nothing queued, and beside a store to the scratchpad. -/
theorem test_meets_coherence (k : Kind) (ea : Dword) (n : Nat) : Coherent (mapped (bare id)) k ea n ∧
    Coherent (mapped (bare fun h => { h with queue := [spadStore], s := [(1, 0x1000)] })) .read 0x1000 8 :=
  ⟨coherent_alone rfl k ea n, fun _ _ _ h => by cases h; exact unnamed_one rfl (by decide +kernel)⟩

/-- A line of the core's data cache that is older than memory, and what a load of it sees. -/
theorem test_meets_stale_load : let s := mapped (bare fun h => { h with s := [(1, 0x1000)] })
    let s := { s with dcache := [(5, [{ line := 0x201000 / 64, tag := 0, data := (7 : Byte) :: List.replicate 63 0 }])] }
    isDram 0x201000 = true ∧ pageCache s (acc s .load .read) (accessAddr s 1 3 0) = 0 ∧
    loadSees s (accessAddr s 1 3 0) 0x201000 0 8 9 = 7 := by decide +kernel

/-- A failed `cas` and one that stores. -/
theorem test_meets_cas : (atomics.map fun r => r.2 64 5 6 7)[9]? = some none ∧
    (atomics.map fun r => r.2 64 7 6 7)[9]? = some (some 6) := by decide

/-- Three i32 elements in each way of addressing: 0x1000 on, 8 apart, rows of two 0x100 apart, and by index. -/
def gathered : State :=
  mapped (vec 0x02 0 3 fun h =>
    { h with s := [(1, 0x1000), (2, 8)], v := [(20, 0x00000040000000800000000)], len := { h.len with rowc := 1, colc := 3 } })

theorem test_meets_vector_memory : WidthIs gathered true 2 ∧ WidthIs gathered false 2 ∧ IndexFits gathered 20 ∧
    WidthIs (vec 0x0E 0 3 id) true 0 ∧ Fits gathered 4 (groupNow gathered) ∧
    (∀ i ∈ [Instr.vld 4 1 0 0 2, .vlds 4 1 2 0 2, .vldx 4 1 20 0 2, .vld2d 4 1 2 0 2, .vst 4 1 0 0 2, .vsts 4 1 2 0 2,
      .vstx 4 1 20 0 2, .vst2d 4 1 2 0 2], Issues i gathered) := by
  unfold WidthIs IndexFits Fits Issues Retired MayJoin; decide

/-- Elements of the places `loc`, when a check of each resolution holds. -/
theorem reaches_of {s : State} {k : Kind} {act : List Nat} {addr : Nat → Dword} {loc tag : Nat → Nat} (hb : s.bad = [])
    (h : ∀ i ∈ act, okWith (resolve s (acc s .other k) (addr i) (elemBytes s)) (fun t s1 =>
      t == .mem (loc i) (tag i) && { s1 with slices := s.slices } == s) = true) : Reaches s k act addr loc tag := by
  intro i hi
  refine ⟨fun w hw => ?_, ?_⟩
  · rw [hb] at hw; cases hw
  · have h := h i hi
    revert h
    cases resolve s (acc s .other k) (addr i) (elemBytes s) with
    | ok t s1 =>
      intro h
      obtain ⟨h1, h2⟩ := Bool.and_eq_true_iff.mp h
      exact ⟨s1, by rw [beq_iff_eq.mp h1], beq_iff_eq.mp h2⟩
    | fault | refuse | guard | wait => intro h; cases h

theorem test_meets_vector_places :
    Reaches gathered .read (active gathered 0) (unitAddr gathered 1 0 32) (fun i => 0x201000 + 4 * i) (fun _ => 0) ∧
    Reaches gathered .write (active gathered 0) (strideAddr gathered 1 2) (fun i => 0x201000 + 8 * i) (fun _ => 0) ∧
    Reaches gathered .read (active gathered 0) (rowAddr gathered 1 2 32) (fun i => 0x201000 + 4 * i) (fun _ => 0) ∧
    Unguarded gathered (active gathered 0) (fun i => 0x201000 + 4 * i) := by
  refine ⟨reaches_of rfl (by decide +kernel), reaches_of rfl (by decide +kernel), reaches_of rfl (by decide +kernel), ?_⟩
  unfold Unguarded; decide +kernel

/-- Indexed elements 8 and 4 bytes on; linked and unlinked lines; a place in the own scratchpad. -/
theorem test_meets_links : let s := gathered; let t := setLink s (ownLink s (0x201000 / 128));
    let loc := fun i => 0x201000 + [0, 8, 4].getD i 0
    Reaches s .read (active s 0) (indexAddr s 1 20) loc (fun _ => 0) ∧
    Reaches t .write (active t 0) (indexAddr t 1 20) loc (fun _ => 0) ∧
    (∀ i ∈ active s 0, isDram (loc i) = true) ∧ (∀ i ∈ active t 0, linked t (loc i / 128) = true) ∧
    (∀ i ∈ active s 0, linked s (loc i / 128) = false) ∧ ((active s 0).map (indexAddr s 1 20)).Nodup ∧ t.bad = [] ∧
    Issues (.vldl 4 1 20 0 0) s ∧ Issues (.vstc 4 1 20 1 0) s := by
  refine ⟨reaches_of rfl (by decide +kernel), reaches_of rfl (by decide +kernel), ?_⟩
  unfold Issues Retired MayJoin; decide +kernel

theorem test_meets_link_room : ∀ n, (mapGet [] (setLink gathered (ownLink gathered (0x201000 / 128))).links n).length ≤ 2048 := by
  intro n
  show (mapGet [] [(homeSlice (0x201000 / 128 * 128), [ownLink gathered (0x201000 / 128)])] n).length ≤ 2048
  unfold mapGet mapGet
  split <;> decide

theorem test_meets_combining : let s := withHart gathered fun h => { h with s := [(1, 0xFE40000000000000)] }
    Reaches s .write (active s 0) (indexAddr s 1 20) (fun i => spadLoc 5 ([0, 8, 4].getD i 0)) (fun _ => 0) ∧
    (∀ i ∈ active s 0, isSpad (spadLoc 5 ([0, 8, 4].getD i 0)) = true) ∧ typeNow s ∈ [2, 3, 6, 7] ∧
    (∀ r ∈ combiningOps, Issues (r.1 4 1 20 0 0) s) := by
  refine ⟨reaches_of rfl (by decide +kernel), ?_⟩
  unfold Issues Retired MayJoin; decide +kernel

/-- Operand windows 2 and 3 of the hart, with 2 KiB arrived in each. -/
def served (f : Hart → Hart) : State :=
  let w : Window := { mode := 3, lsize := 12, base := 0x400, head := 0, tail := 0x800, fill := 0x800 };
  setWin (setWin (vec 0x02 0 3 f) 5 2 w) 5 3 { w with base := 0x2000 }

theorem test_meets_window_loads : let s := served id; let w := getWin s 5 2
    w.mode ≠ 0 ∧ w.mode ≠ 5 ∧ w.owner = s.hart.hid ∧ 256 * 7 + ((lenNow s).vl * 32 + 7) / 8 ≤ w.size ∧
    Issues (.vldw 4 2 7 0 2) s ∧ ∀ i ∈ active s 0,
      readWindow s 5 2 (w.head + BitVec.ofNat 32 (256 * 7 + i * 32 / 8)) 4 = some [0, 0, 0, 0] ∧
      ∀ j, j < 4 → (w.head + BitVec.ofNat 32 (256 * 7 + i * 32 / 8) + BitVec.ofNat 32 j - w.head).toNat < w.avail := by
  unfold Issues Retired MayJoin; decide +kernel

/-- Matrix mode entered; and, in it, every instruction of it, an f8a product of one step among them. -/
theorem test_meets_matrix : (served id).hart.mview = false ∧ Issues .menter (served id) ∧
    let s := served fun h => { h with mmode := true, mview := true };
    s.hart.mview = true ∧ (∀ i ∈ [Instr.mexit, .mzero, .mop 2 3 0 2 0, .mopv 0 8 8 0, .mcvt 1 0xB, .mld 1 2 0xB, .mst 1 2 0xB],
      Issues i s) ∧ Serve s (stringsOf s 2 3 0 2 1) ∧
    ((stringsOf s 2 3 0 2 1).map fun p => readWindow s 5 p.1 (getWin s 5 p.1).head p.2) =
      [List.replicate 16 0, List.replicate 64 0].map some := by
  unfold Issues Retired MayJoin Serve; decide

/-- Register operands of an f16 product; a tile that ends at the scratchpad's last byte. -/
theorem test_meets_tiles : let s := bare fun h => { h with mview := true, s := [(1, 0x7F000), (2, 0x100)] }
    8 + (1 * (matCols 8 * matWidth 8 / 8) + 32 * 8 - 1) / (32 * 8) ≤ 48 ∧
    TileLies s 0xB (rdS s 1).toNat (rdS s 2).toNat ∧ tileExtent 8 0xB (rdS s 1).toNat (rdS s 2).toNat = 0x80000 ∧
    s.bad = [] ∧ ∀ off, byteGuarded s s.hart.key s.hart.core off = false := by
  refine ⟨by decide, by unfold TileLies; decide, by decide, rfl, fun off => ?_⟩
  rw [byteGuarded, List.any_eq_false]
  intro n _
  have h : ∀ f, getWin (bare f) (bare f).hart.core n = {} := fun _ => rfl
  simp [h, Window.guarded, Window.covers]

/-- A fence with an empty queue, and one that waits. -/
theorem test_meets_fences : Retired (bare id) ∧ (bare id).hart.posted = [] ∧ (bare id).hart.outbox = [] ∧
    (∀ m ∈ (bare id).eng.messages, m.sender ≠ (bare id).hart.key) ∧
    ¬ Retired (bare fun h => { h with pend := [⟨none, ⟨0x12, 0⟩, 0⟩] }) := by
  unfold Retired; decide

/-! ### Hypotheses met: jobs, counters, barriers and waits -/

/-- A job record of eight lanes, with exit counter 17; `bad` sets a reserved bit. -/
def record (bad : Nat) : List Byte := dwords [2 ^ 62 + 0x4000 + bad, 0xFFFF, 1, 2, 3, 4, 0x8001, 0x9000 + 17]

/-- A job of tenant 1 and tree 7 on core 5; s1 and s2 hold the addresses of a record and of a mask of cores 5
and 9 in its page. -/
def owned (f : Hart → Hart) : State :=
  { bare fun h => f { h with
      s := [(1, 0x1000), (2, 0x2000), (3, 3)]
      job := { tenant := 1, tree := 7, job := 0x05000009, record := parseRec (natOfBytes (record 0)) } } with
    mem := putBytes (putBytes [] 0x201000 (record 0)) 0x202000 (bytesOfNat 16 (2 ^ 5 + 2 ^ 9))
    disp := { trees := [(7, some { tenant := 1, deadline := bestEffort })], counters := [(17, { owner := 1, state := .pending, count := 3 })] }
    tab := { tenants := [(0, { valid := true }), (1, { valid := true })], cores := [(5, { owner := 1 }), (9, { owner := 1 })], coreTlb := [(5, [{ page with tenant := 1 }])] } }

/-- Tree 7 abandoned. -/
def fallen (s : State) : State := setTree s 7 { tenant := 1, deadline := bestEffort, abandoned := true }

/-- The own store full. -/
def crowded (s : State) : State := setReady s 5 (List.replicate 64 {})

/-- A malformed record in the record's place. -/
def spoilt (s : State) : State := { s with mem := putBytes s.mem 0x201000 (record 1) }

/-- Another mask in the mask's place. -/
def masked (m : Nat) (s : State) : State := { s with mem := putBytes s.mem 0x202000 (bytesOfNat 16 m) }

/-- A record in each of the states that `spawn` tells apart: it is well-formed or not, its tree lives or not, the
store of the core takes it or not. -/
theorem test_meets_spawn : (∀ s ∈ [owned id, fallen (owned id), crowded (owned id)], Retired s ∧
      Coherent s .read (rdS s 1) 64 ∧ ∃ t, loadX s (acc s .other .read) (rdS s 1) 64 = .ok (natOfBytes (record 0)) t ∧
        (treeAbandoned t 7 = true ↔ s = fallen (owned id)) ∧
        (storeAccepts t 5 (treeDeadline t 7) = false ↔ s = crowded (owned id)) ∧ t.disp.pool.length < 16384) ∧
    (∃ t, loadX (spoilt (owned id)) (acc (owned id) .other .read) 0x1000 64 = .ok (natOfBytes (record 1)) t ∧
      treeAbandoned t 7 = false) ∧
    (parseRec (natOfBytes (record 0))).malformed false = false ∧ (parseRec (natOfBytes (record 1))).malformed false = true := by
  refine ⟨fun s hs => ?_, ok_keeps _ _ (by decide +kernel), by decide +kernel⟩
  have hq : s.hart.queue = [] ∧ s.hart.pend = [] := by revert s; decide +kernel
  exact ⟨hq, coherent_alone hq.1 _ _ _, ok_keeps _ _ (by revert s; decide +kernel)⟩

theorem test_meets_full_pool : let s := { crowded (owned id) with disp := { (crowded (owned id)).disp with pool := List.replicate 16384 {} } }
    16384 ≤ s.disp.pool.length ∧ storeAccepts s 5 (treeDeadline s 7) = false ∧
      ∃ v t, loadX s (acc s .other .read) (rdS s 1) 64 = .ok v t :=
  ⟨Nat.le_of_eq List.length_replicate.symm, by decide +kernel, _, ok_value (v := natOfBytes (record 0)) (by decide +kernel)⟩

theorem test_meets_gang :
    (∀ m ∈ [2 ^ 5 + 2 ^ 9, 0, 2 ^ 96, 2 ^ 5 + 2 ^ 95], let s := masked m (owned id);
      ∃ t, loadX s (acc s .other .read) (rdS s 2) 16 = .ok m t) ∧
    currentTenant (owned id) 95 ≠ 1 ∧ (2 ^ 95 : Nat).testBit 95 = true ∧
    (∀ c < 96, (2 ^ 5 + 2 ^ 9 : Nat).testBit c = true → currentTenant (owned id) c = 1) ∧
    16 ≤ ((List.replicate 16 (GangReq.mk 1 7 {} 32 [] [] 0)).filter fun g => g.tenant == 1).length :=
  ⟨fun m hm => ok_value (by revert hm; revert m; decide +kernel), by decide +kernel⟩

theorem test_meets_exit : Retired (owned id) ∧ (owned id).hart.posted = [] ∧ (flushVamo (owned id)).hart.posted = [] := by
  unfold Retired; decide +kernel

/-- A tree named by its number, one that does not live, the trees the deadline timer and `setdl` find. -/
theorem test_meets_trees : let s := setTree (owned id) 8 { tenant := 1, deadline := 0 }
    treeLive s (BitVec.ofNat 32 7) 1 = true ∧ treeLive s (BitVec.ofNat 32 3) 1 = false ∧ (rdS s 3).toNat < 2 ^ 32 ∧
    (s.disp.trees.find? fun p => match p.2 with
      | some t => !t.abandoned && t.deadline != bestEffort && decide (t.deadline.toNat ≤ s.time.now.toNat)
      | none => false) = some (8, some { tenant := 1, deadline := 0 }) ∧
    getTree s 7 = some { tenant := 1, deadline := bestEffort } ∧
    (getTree s 8).map (fun t => t.deadline != bestEffort && !t.abandoned) = some true ∧
    (9 : Dword) ≠ bestEffort ∧ s.time.now.toNat < (9 : Dword).toNat := by decide +kernel

/-- Counter 17 in every state, mine and not, with and without a copy, from clean and unclean values. -/
theorem test_meets_counters_of_work : let s := owned id; let c := getCtr s 17
    c.owner = 1 ∧ c.state = .pending ∧ c.count + 5 < 2 ^ 32 ∧ 2 ^ 32 ≤ c.count + (2 ^ 32 - 3) ∧ c.copy = none ∧ 1 < c.count ∧
    (getCtr s 18).owner ≠ 1 ∧ (17 + 5 * 2 ^ 32 : Nat) % 4096 = 17 ∧ (17 + 5 * 2 ^ 32 : Nat) / 4096 % 2 ^ 20 = 0 ∧
    (17 + 4096 : Nat) / 4096 % 2 ^ 20 ≠ 0 ∧ (17 : Nat) / 2 ^ 32 = 0 ∧
    (getCtr (setCtr s 17 { c with state := .dropped }) 17).state ≠ .pending ∧
    (∃ t, loadX s (acc s .other .read) (rdS s 1) 64 = .ok (natOfBytes (record 0)) t) := by
  refine ⟨?_, ?_, ?_, ?_, ?_, ?_, ?_, ?_, ?_, ?_, ?_, ?_, ok_value (by decide +kernel)⟩ <;> decide +kernel

/-- Barrier object 383, owned, with two arrivals expected and one counted, and its arrival waiting. -/
def barred (n : Nat) : State :=
  { owned (fun h => { h with s := [(1, 383), (2, 383 + 2 ^ 16), (3, 4096), (4, 384), (5, 0x1000)] }) with
    barriers := [(383, { owner := 1, expected := 2, count := n })] }

theorem test_meets_barriers : let s := barred 1
    (rdS s 1).toNat % 512 = 383 ∧ (rdS s 1).toNat < 2 ^ 32 ∧ (rdS s 1).toNat / 512 % 128 = 0 ∧ (rdS s 3).toNat = 4096 ∧
    (getBar s 383).owner = 1 ∧ (getBar s 383).count ≠ 0 ∧ (getBar (barred 0) 383).count = 0 ∧ (getBar s 383).expected ≠ 0 ∧
    383 < (rdS s 4).toNat % 512 ∧ (getBar s 0).owner ≠ 1 ∧ s.arrivals = [] ∧ Retired s ∧
    (getBar s 383).count + 1 = (getBar s 383).expected ∧ (getBar (barred 0) 383).count + 1 ≠ (getBar (barred 0) 383).expected := by
  unfold Retired; decide +kernel

/-- A phase that has passed and one that has not; windows usable and not; a limit reached and not. -/
theorem test_meets_waits : let s := setWin (barred 1) 5 3 { mode := 3, lsize := 12, base := 0x400, tail := 0x800, fill := 0x800, armed := 3, arrived := 1 }
    (getBar s 383).phases.toNat % 2 ^ 16 ≠ (rdS s 2).toNat / 2 ^ 16 % 2 ^ 16 ∧
    (getBar s 383).phases.toNat % 2 ^ 16 = (rdS s 1).toNat / 2 ^ 16 % 2 ^ 16 ∧
    (getWin s 5 3).mode ∈ [1, 2, 3, 4] ∧ (getWin s 5 3).owner = s.hart.hid ∧ (getWin s 5 2).mode ∉ [1, 2, 3, 4] ∧
    (getWin s 5 3).size < 0x1001 ∧ 0x1000 ≤ (getWin s 5 3).size ∧ 0x800 ≤ (getWin s 5 3).avail ∧ ¬ 0x801 ≤ (getWin s 5 3).avail ∧
    (getWin s 5 3).armed &&& ~~~(getWin s 5 3).arrived ≠ 0 ∧ (0 : Dword).toNat ≤ s.time.now.toNat ∧
    ¬ (1 : Dword).toNat ≤ s.time.now.toNat := by decide +kernel

/-- A ticket word of the page, a site address and a misaligned one. -/
theorem ticket_at {s : State} {ea : Dword} {l tag v : Nat} (p : State → Prop) [DecidablePred p]
    (h : okWith (resolve s (acc s .other .write) ea 8) (fun x t => x == .mem l tag && decide
      ((isGlobal l = true ∧ isHost l = false ∧ readNat t tag l 8 = some v) ∧ p t)) = true) :
    ∃ t, TicketAt s ea l tag t v ∧ p t :=
  have ⟨t, h1, h2, h3⟩ := ok_keeps _ _ h
  ⟨t, ⟨h1, h2⟩, h3⟩

theorem test_meets_tickets : let s := owned id
    (∃ t, TicketAt s (rdS s 2) 0x202000 0 t (2 ^ 5 + 2 ^ 9) ∧ sawTicket s (rdS s 3) = false) ∧
    (∃ t, resolve s (acc s .other .write) 0xFE40000000000000 8 = .ok (.mem (spadLoc 5 0) 0) t) ∧
    NoTicket (.mem (spadLoc 5 0) 0) ∧ NoTicket (.mem (hostLoc 0x9000) 0) ∧
    (rdS s 3).toNat % 8 ≠ 0 ∧ BitVec.ofNat 64 (2 ^ 5 + 2 ^ 9) ≠ rdS s 3 ∧ s.hart.waitEnd = none ∧ Retired s ∧
    s.hart.x.paired = false := by
  refine ⟨ticket_at _ (by decide +kernel), ok_value (by decide +kernel), fun l t h => ?_, fun l t h => ?_, ?_⟩
  · cases h; decide +kernel
  · cases h; decide +kernel
  · unfold Retired; decide +kernel

/-- Waits that are decided: the condition came first, the limit came first, and neither yet. -/
theorem test_meets_decided_waits : let s := owned fun h => { h with waitEnd := some true }
    MayHold s False ∧ MayHold (owned id) True ∧ Unmet (owned id) False ∧
    (owned fun h => { h with waitEnd := some false }).hart.waitEnd = some false :=
  ⟨.inl rfl, .inr ⟨rfl, trivial⟩, ⟨rfl, id⟩, rfl⟩

/-- Deadlines that were asked for: of another tree, of none, and of the tree itself. -/
theorem test_meets_deadline_requests : let s := { owned id with disp := { (owned id).disp with
      trees := [(7, some { tenant := 1, deadline := 0x5000 })], setdl := [⟨3, 4⟩, ⟨7, 0x6000⟩, ⟨7, bestEffort⟩] } }
    s.disp.setdl = [⟨3, 4⟩] ++ ⟨7, 0x6000⟩ :: [⟨7, bestEffort⟩] ∧ treeDeadline s 7 ≠ bestEffort ∧ treeAbandoned s 7 = false ∧
    (0x6000 : Dword) ≠ bestEffort ∧ treeDeadline (owned id) 7 = bestEffort ∧ (owned id).disp.setdl = [] := by decide +kernel

/-- Harts that wait: for a barrier that has passed, for one whose limit is reached, for a ticket with and without a
watch, and for retirement. -/
theorem test_meets_waiting : let s := withHart (barred 1) fun h => { h with block := .wait, blockedBy := some (.barWaitt 1 2 0) }
    s.hart.stage = .running ∧ s.hart.pend = [] ∧ waitHolds s (.barWaitt 1 2 0) = true ∧
    waitHolds s (.barWaitt 1 1 0) = false ∧ waitLimit s (.barWaitt 1 1 0) = some 0 ∧
    (let t := owned fun h => { h with s := [(1, 0x2000), (2, 2 ^ 5 + 2 ^ 9)], block := .wait, blockedBy := some (.tktWait 1 2) };
      (∃ u, TicketAt t (rdS t 1) 0x202000 0 u (rdS t 2).toNat ∧ u.mem = t.mem) ∧ Coherent t .read (rdS t 1) 8 ∧
      hasWatch t t.hart.key = false ∧
      hasWatch { t with watches := [(0, [⟨t.hart.key, 0x202000, 0, 1, false⟩])] } t.hart.key = true) ∧
    (8 : BitVec 12).toNat ∈ resyncRegisters ∧ (bare id).hart.x.paired = false := by
  refine ⟨?_, ?_, ?_, ?_, ?_, ⟨ticket_at _ (by decide +kernel), coherent_alone rfl _ _ _, ?_⟩, ?_⟩ <;> decide +kernel

/-! ### Hypotheses met: windows, spools, coding engines and messages -/

/-- A queue entry of an instruction that has issued. -/
def entry (i : Instr) (jn live : Bool) : QEntry :=
  { instr := i, word := 0, addr := 0x100, joins := jn, queue := 0, live := live, sa := 5, sb := 6,
    len := { vl := 40, rowc := 1, colc := 40, vtype := 2 }, rm := 0, satfp := false }

/-- Window 3 of the own core, usable; s4 and s5 hold the addresses of an image of a 4 KiB operand window and of
one that is off. -/
def windowed : State :=
  let s := owned fun h => { h with s := [(1, 0x1000), (2, 64), (3, 65), (4, 0x1040), (5, 0x1080)] };
  setWin { s with mem := putBytes s.mem 0x201040 (bytesOfNat 8 (3 * 2 ^ 61 + 12 * 2 ^ 51 + 0x4000)) } 5 3
    { mode := 3, lsize := 12, base := 0x400, tail := 0x100, fill := 0x200 }

theorem test_meets_windows : let s := windowed; let w := getWin s 5 3
    windowQueued { s.hart with queue := [entry (.vldw 4 3 0 0 2) false false] } 3 = true ∧ windowQueued s.hart 3 = false ∧
    w.mode ∈ [1, 2, 3, 4] ∧ w.owner = s.hart.hid ∧ (getWin s 5 4).mode ∉ [1, 2, 3, 4] ∧
    (rdS s 2).toNat % 64 = 0 ∧ (rdS s 2).toNat ≤ w.avail ∧ (rdS s 3).toNat % 64 ≠ 0 ∧
    (∀ j < 64, (1 : Dword).getLsbD j = true ↔ slotArrived w j) := by
  unfold slotArrived; decide +kernel

theorem test_meets_window_images : let s := windowed
    (getWin s 5 3).fill ≠ (getWin s 5 3).tail ∧
    (getWin s 5 2).mode = 0 ∧ (getWin (setWin s 5 3 { getWin s 5 3 with owner := 1 }) 5 3).owner ≠ s.hart.hid ∧
    ImageRefused s 2 (natOfBytes (getBytes s.mem 0x201000 64)) ∧
    ¬ ImageRefused s 2 (natOfBytes (getBytes s.mem 0x201040 64)) := by
  unfold ImageRefused; decide +kernel

theorem test_meets_image_loads (sb : BitVec 5) (h : sb = 1 ∨ sb = 4 ∨ sb = 5) :
    ∃ x t, loadX windowed (acc windowed .other .read) (rdS windowed sb) 64 = .ok x t ∧
      getWin t 5 3 = getWin windowed 5 3 ∧ t.hart = windowed.hart := by
  rcases h with rfl | rfl | rfl <;> exact ⟨_, _, rfl, rfl, rfl⟩

/-- A push block in the record's place: 777 bytes from 0x1000 to window 5 of the core at (3, 4), and a bad one. -/
def pushing (y : Nat) : State :=
  let s := owned id;
  { s with mem := putBytes s.mem 0x201000 (dwords [0x1000, 0xFE * 2 ^ 56 + 3 * 2 ^ 49 + y * 2 ^ 44 + 5, 777, 0x8000]) }

/-- Twenty-four lists live in a spool. -/
def busySpool (n : Nat) (s : State) : State :=
  setLists s n (List.replicate 24 { serial := 0, addr := 0, tenant := 1, tree := 7 })

theorem test_meets_posts : let s := pushing 4
    (∀ n ∈ [16, 32], ∃ t, splPage s 0x1000 n = .ok (0x201000, 0) t ∧ (t.hart = s.hart ∧ t.disp = s.disp ∧ t.eng = s.eng)) ∧
    (∀ y ∈ [0, 4], let x := natOfBytes (getBytes (pushing y).mem 0x201000 32);
      ((dwordOf x 1 / 2 ^ 56 = 0xFE ∧ dwordOf x 1 / 2 ^ 20 % 2 ^ 24 = 0 ∧ dwordOf x 1 / 16 % 2 ^ 16 = 0) ∧
        dwordOf x 2 / 2 ^ 32 = 0 ∧ dwordOf x 2 = 777 ∧ dwordOf x 3 % 32 = 0) ∧
      (OnCore (siteOf 5 (dwordOf x 1)) ↔ y = 4)) ∧
    s.hart.job.tenant ≠ 0 ∧ (rdS s 3).toNat % 16 ≠ 0 ∧ 0xFE40000000000000 / 2 ^ 56 = 0xFE ∧ isDram 0x201000 = true ∧
    24 ≤ (liveLists (busySpool (homeSlice 0x201000) s) (homeSlice 0x201000)).length ∧ (liveLists s 3).length < 24 ∧
    firstHome s 0x1000 = none ∧ 24 ≤ (liveLists (busySpool 5 s) 5).length ∧ treeAbandoned (fallen s) 7 = true ∧ (fallen s).hart.tr.grc = false ∧
    (let z := { withHart s (fun h => { h with job := { h.job with tenant := 0 } }) with
        tab := { coreTlb := [(5, [{ page with leaf := page.leaf + BitVec.ofNat 64 (2 ^ 58) }])] } };
      ∃ t, splPage z 0x1000 16 = .ok (0x201000, 1) t ∧ (t.hart = z.hart ∧ t.disp = z.disp ∧ t.eng = z.eng)) := by
  refine ⟨fun n hn => ok_keeps _ _ (by revert hn; revert n; decide +kernel), ?_, ?_, ?_, ?_, ?_, ?_, ?_, ?_, ?_, ?_, ?_,
    ok_keeps _ _ (by decide +kernel)⟩
  · unfold OnCore; decide +kernel
  all_goals decide +kernel

theorem test_meets_push : ∀ s, s = pushing 4 ∨ s = pushing 0 → ∃ x t, loadX s (acc s .other .read) (rdS s 1) 32 = .ok x t ∧
    t.hart = s.hart ∧ t.disp = s.disp ∧ t.eng = s.eng := by
  rintro s (rfl | rfl) <;> exact ⟨_, _, rfl, rfl, rfl, rfl⟩

/-- `spl.stat` where nothing was posted, and where one list was. -/
theorem test_meets_list_states : let s := owned id
    let q : SpoolList := { serial := 4, addr := 0x1000, tenant := 1, tree := 7 }
    (∀ n < 24, getLists s n = []) ∧ (∀ n < 24, ∀ r ∈ getLists (setLists s 6 [q]) n, r = q) ∧
    q ∈ getLists (setLists s 6 [q]) 6 := by decide +kernel

/-- A polar encoding of 20 bits to 100 in the record's place, for an engine of the last two. -/
def coding : State :=
  let s := owned fun h => { h with s := [(1, 35), (2, 0x1000), (3, 26)] };
  { s with mem := putBytes s.mem 0x201000 (dwords [4 * 2 ^ 60, 0x2000, 0x2800, 0, 0x4000, 99, 64 * 2 ^ 54 + 20 * 2 ^ 44 + 100, 2 ^ 16]) }

/-- The command it makes, and the pages it takes. -/
def codingPosted : CodingCmd :=
  { cmd := BitVec.ofNat 512 (natOfBytes (getBytes coding.mem 0x201000 64)), tenant := 1, tree := 7, job := 0x05000009, core := 5,
    grace := false, pages := [⟨0x2000, 0x202000, 0, 0, (0, 2 ^ 21)⟩, ⟨0x2000, 0x202000, 0, 0, (0, 2 ^ 21)⟩, ⟨0x4000, 0x204000, 0, 0, (0, 2 ^ 21)⟩] }

theorem test_meets_coding : let s := coding; let c := { codingPosted with pages := [] }
    25 < (rdS s 3).toNat % 32 ∧
    (∃ t, loadX s (acc s .other .read) (rdS s 2) 64 = .ok (natOfBytes (getBytes s.mem 0x201000 64)) t ∧ t.hart = s.hart) ∧
    c.good = true ∧ { c with cmd := 5 }.good = false ∧
    (∃ t, postPages s ((codeExtents c).flatMap fun e => (extentPages e.1 e.2.1).map fun a => (a, e.2.2)) = .ok codingPosted.pages t ∧
      (t.hart = s.hart ∧ t.eng = s.eng)) ∧
    selectEngines ((rdS s 1).toNat % 64) = [24, 25] ∧ (getEng s 24).denied.getLsbD 1 = false ∧
    (getEng s 24).queue.length < 64 ∧ 64 ≤ (getEng (setEng s 24 { queue := List.replicate 64 c }) 24).queue.length ∧
    (getEng (setEng s 24 { denied := 2 }) 24).denied.getLsbD 1 = true := by
  refine ⟨by decide +kernel, ok_keeps _ _ (by decide +kernel), by decide +kernel, by decide +kernel,
    ok_keeps _ _ (by decide +kernel), by decide +kernel⟩

/-- An engine with a queued command, one that runs it, its input, and outputs that can be written. -/
theorem test_meets_engines : let s := setEng coding 24 { running := some codingPosted }
    (∀ m < 24, (getEng s m).running = none) ∧ (getEng s 24).running = some codingPosted ∧
    codingPosted.dword 0 / 2 ^ 59 % 2 = 0 ∧ (codingInput s codingPosted).isSome = true ∧
    codingInput { s with bad := [0x202000 / 8] } codingPosted = none ∧
    (∀ m < 24, (getEng coding m).running ≠ none ∨ (getEng coding m).queue = []) := by decide +kernel

theorem test_meets_outputs :
    (codeStore coding codingPosted (codingPosted.dword 2) (freeBits (Config.codingOut 7 [1, 2, 3]) (codeBits codingPosted).2)).2 = false ∧
    (codeStore coding codingPosted (codingPosted.dword 3) (freeBits (Config.codingHarq 7 [1, 2, 3]) (8 * harqBytes codingPosted))).2 = false := by
  decide +kernel

/-- A send block in the record's place: `n` bytes from 0x1FF0 to window 5 of the site (x, 1). -/
def sending (x n twin : Nat) (w : Window) : State :=
  let s := owned id;
  setWin { s with mem := putBytes s.mem 0x201000 (dwords [0xFE * 2 ^ 56 + twin * 2 ^ 55 + x * 2 ^ 49 + 2 ^ 44 + 5, 0x1FF0, n, 77]) } 9 5 w

/-- A mailbox of 1 KiB. -/
def mailbox : Window := { mode := 2, lsize := 10, base := 0x400 }

theorem test_meets_messages :
    (let p := siteOf 5 (0xFE * 2 ^ 56 + 10 * 2 ^ 49 + 2 ^ 44 + 5); p = (10, 1) ∧ OnCore p) ∧
    ¬ OnCore (siteOf 5 (0xFE * 2 ^ 56 + 13 * 2 ^ 49 + 2 ^ 44 + 5)) ∧
    DestGood (0xFE * 2 ^ 56 + 10 * 2 ^ 49 + 2 ^ 44 + 5) ∧ ¬ DestGood (0xFF * 2 ^ 56) := by
  unfold OnCore DestGood; decide +kernel

theorem test_meets_send : let s := sending 10 100 0 mailbox
    (∃ v t, loadX s (acc s .other .read) (rdS s 1) 32 = .ok v t ∧ t.hart = s.hart ∧ t.eng = s.eng ∧ t.tetherUp = false) ∧
    s.hart.outbox = [] ∧ s.eng.messages = [] :=
  ⟨⟨_, _, rfl, rfl, rfl, rfl⟩, rfl, rfl⟩

/-- Refused lengths, absent sites and the twin. -/
theorem test_meets_send_far : ∀ s ∈ [sending 10 16385 0 mailbox, sending 13 100 0 mailbox, sending 10 100 1 mailbox],
    okWith (loadX s (acc s .other .read) (rdS s 1) 32) (fun _ t => t.hart == s.hart) = true := by decide +kernel

/-- A payload that stands in two pages, and one at an address that names no place, which faults. -/
theorem test_meets_payload : (let s := sending 10 20 0 mailbox
    ∃ t, readPayload s 6 0x1FF0 20 = .ok (List.replicate 16 0 ++ [32, 2, 0, 0]) t ∧
      (t.hart = s.hart ∧ t.eng = s.eng ∧ messageStatus t 9 5 1 36 = 0)) ∧
    (match readPayload (sending 10 20 0 mailbox) 6 0xFE00000000100000 20 with
      | .fault t u => t.cause == 0x12 && u.hart == (sending 10 20 0 mailbox).hart
      | _ => false) = true :=
  ⟨ok_keeps _ _ (by decide +kernel), by decide +kernel⟩

/-- A message of the twin for core 9, and inputs that are none of its. -/
theorem test_meets_twin_messages : let s := sending 10 20 0 mailbox
    let t := { s with tetherUp := true, inputs := [(0, .twinMessage 9 5 1 0x00010003 7 [1, 2])] }
    (0x00010003 : Dword).getLsbD 23 = false ∧ messageStatus t 9 5 1 18 = 0 ∧ NoTwinInput s ∧
    NoTwinInput { s with inputs := [(0, .powerOn)] } := by
  refine ⟨by decide, by decide +kernel, ?_, ?_⟩
  · intro d i rest h; cases h
  · intro d i rest h; cases h; exact ⟨nofun, nofun⟩

/-- What the destination answers: space, none, no mailbox, another's core, a fenced core. -/
theorem test_meets_message_answers :
    messageStatus (sending 10 100 0 mailbox) 9 5 1 116 = 0 ∧
    messageStatus (sending 10 100 0 { mailbox with fill := 0x3C0, tail := 0x3C0 }) 9 5 1 116 = 1 ∧
    messageStatus (sending 10 100 0 {}) 9 5 1 116 = 2 ∧ messageStatus (sending 10 100 0 mailbox) 10 5 1 116 = 3 ∧
    messageStatus (setCore (sending 10 100 0 mailbox) 9 { owner := 1, fenced := true }) 9 5 1 116 = 6 := by decide +kernel

/-- A message on its way from the hart in focus to core 9, and one that waits for space. -/
theorem test_meets_posted_messages :
    let s := withHart (sending 10 100 0 mailbox) fun h => { h with len := { vl := 5, rowc := 1, colc := 5, vtype := 2 } }
    let m : Message := { core := some 9, window := 5, dest := 0, header0 := BitVec.ofNat 64 (0x05000009 * 2 ^ 32), user := 0, payload := [], sender := 40, tenant := 1 }
    (getHart s m.sender).outbox = [] ∧ (getHart s m.sender).stage = .running ∧
    (getHart s m.sender).job.job.toNat = m.header0.toNat / 2 ^ 32 ∧ messageStatus s 9 m.window m.tenant 16 = 0 ∧
    (31 : BitVec 5).toNat % groupNow s = 0 ∧ (31 : BitVec 5).toNat + groupNow s ≤ 32 ∧
    (3 : BitVec 5).toNat % groupNow (vec 0x02 1 5 id) ≠ 0 := by decide +kernel

/-! ### Hypotheses met: spools -/

/-- A running list of spool 6, whose next command is number 3. -/
def running : SpoolList :=
  { serial := 4, addr := 0x1000, tenant := 1, tree := 7, job := 0x05000009, running := true, idx := 3, recAddr := 0x1020 }

/-- Spool 6 with one list, and the command at its index. -/
def listed (l : SpoolList) (lo hi : Nat) : State :=
  let s := owned id; let e : TlbEntry := { page with tenant := 1 };
  setLists { s with tab := { s.tab with groupTlb := [(0, [e]), (1, [e])] }, mem := putBytes s.mem (0x201000 + 16 * l.idx) (dwords [lo, hi]) } 6 [l]

theorem next_command {s s1 : State} {n : Nat} {l : SpoolList} {op lo hi : Nat} (h : FirstList s n l)
    (hi' : l.move = .idle ∧ l.fail = none ∧ l.cancel = false) (hr : readCmd s n l l.idx = .cmd lo hi s1)
    (hg : hi / 2 ^ 60 % 16 = op ∧ cmdGood l.idx lo hi = true) : NextCommand s n l s1 op lo hi :=
  ⟨h, hi', hr, hg.1, hg.2⟩

theorem first_listed (l : SpoolList) (lo hi : Nat) (h : l.running = true) : FirstList (listed l lo hi) 6 l := by
  have e : ∀ m, getLists (listed l lo hi) m = mapGet [] [(6, [l])] m := fun m => rfl
  refine ⟨by decide, fun m hm => ?_, ?_⟩
  · unfold Machine.served; rw [e, mapGet, if_neg (by omega)]; rfl
  · unfold Machine.served; rw [e, mapGet, if_pos rfl]
    simp [h]

/-- One command of each opcode that a list can hold next. -/
theorem test_meets_commands :
    (∀ c ∈ [(1, 0x2340, 2 ^ 60 + 100), (2, 0, 2 * 2 ^ 60 + 2 * 2 ^ 51 + 3 * 2 ^ 46), (3, 0, 3 * 2 ^ 60), (4, 0, 4 * 2 ^ 60), (5, 0x3004, 5 * 2 ^ 60 + 9),
      (6, 0, 6 * 2 ^ 60 + 9 * 2 ^ 55 + 0xA * 2 ^ 50), (7, 0x100, 7 * 2 ^ 60 + 2 * 2 ^ 48 + 5), (8, 0, 8 * 2 ^ 60 + 17), (9, 0, 9 * 2 ^ 60), (9, 1, 9 * 2 ^ 60),
      (0xA, 0, 0xA * 2 ^ 60 + 17), (0xA, 0x1000, 0xA * 2 ^ 60 + 2 ^ 59), (0xB, 0x4000, 0xB * 2 ^ 60), (0xF, 0x4000, 0xF * 2 ^ 60)],
      c.2.2 / 2 ^ 60 % 16 = c.1 ∧ cmdGood running.idx c.2.1 c.2.2 = true) ∧
    running.move = .idle ∧ running.fail = none ∧ running.cancel = false := by decide +kernel

theorem test_meets_waitd : ∃ s1, NextCommand (listed running 0 (8 * 2 ^ 60 + 17)) 6 running s1 8 0 (8 * 2 ^ 60 + 17) ∧
    s1.eng.flight = [] :=
  ⟨_, next_command (first_listed _ _ _ rfl) ⟨rfl, rfl, rfl⟩ rfl (by decide), rfl⟩

/-- An END with a usable address, all of whose chunks have landed, and the address of none. -/
theorem test_meets_end : let s := listed running 0x4000 (15 * 2 ^ 60)
    (∃ s1, NextCommand s 6 running s1 15 0x4000 (15 * 2 ^ 60) ∧ AllLanded s1 6 running ∧
      ∃ s2, recPlace s1 6 running 0x4000 = .at (some (0x204000, 0)) s2) ∧
    recPlace s 6 running (BitVec.ofNat 64 (2 ^ 50 + 8)) = .at none s ∧
    (∀ m < 24, ∀ q ∈ getLists s m, q.fail = none ∧ q.cancel = false) ∧
    (∀ m < 24, ∀ q ∈ getLists s m, (m = 6 ∧ q = running) ∨ q.running = false ∨ q.move ≠ .idle) :=
  ⟨⟨_, next_command (first_listed _ _ _ rfl) ⟨rfl, rfl, rfl⟩ rfl (by decide),
    fun (p : Packet) (h : p ∈ []) => absurd h List.not_mem_nil, _, rfl⟩, by decide +kernel,
    by decide +kernel, by decide +kernel⟩

/-- The counters, the posted record and the start of a list, as the commands find them. -/
theorem test_meets_list_effects : let s := listed running 0x1000 (0xA * 2 ^ 60 + 2 ^ 59)
    (getCtr s 17).owner = running.tenant ∧ (getCtr s 17).state = .pending ∧ 1 < (getCtr s 17).count ∧
    (getCtr s 18).owner ≠ running.tenant ∧ (getCtr (setCtr s 17 { owner := 1, state := .done }) 17).state = .done ∧
    (0 : Nat) ≤ s.time.now.toNat ∧ s.time.now.toNat < 1 ∧ treeAbandoned s running.tree = false ∧
    (parseRec (natOfBytes (record 0))).malformed false = false ∧ (parseRec (natOfBytes (record 1))).malformed false = true ∧
    (let q := { running with running := false };
      (∀ m < 6, ∀ x ∈ getLists (listed q 0 0) m, x.running = true ∨ x.ended = true ∨ x.cancel = true) ∧
      ((getLists (listed q 0 0) 6).filter fun x => x.running).length < 8 ∧
      (getLists (listed q 0 0) 6).find? (fun x => !x.running && !x.ended && !x.cancel) = some q) := by decide +kernel

theorem test_meets_list_reads : ∃ bs t, spoolRead (listed running 0x1000 (0xA * 2 ^ 60 + 2 ^ 59)) 6 running.tenant 0x1000 64 =
    .ok bs t ∧ treeAbandoned t 7 = false := ⟨_, _, rfl, rfl⟩

/-- A move of one 1000-byte run to window 3 of core 4, and of the rectangle from (5, 1) to (8, 2). -/
def moving (rect : Bool) (m : SpoolMove) : SpoolList :=
  { running with
    hasSrc := true, hasDst := true, base := 0x1080, run := 1000, x0 := 5, y0 := 1, window := 3, x1 := 8, y1 := 2
    rect := rect, dmask := 0xF7, move := m }

/-- The spool with that list, where core `c` belongs to tenant `t` and its window 3 is in mode `m`. -/
def aimed (l : SpoolList) (hi c t m : Nat) : State :=
  let s := listed l 0 hi;
  setWin { s with tab := { s.tab with cores := (c, { owner := t }) :: s.tab.cores } } c 3 { mode := m, lsize := 10 }

theorem first_aimed (l : SpoolList) (hi c t m : Nat) (h : l.running = true) : FirstList (aimed l hi c t m) 6 l :=
  first_listed l 0 hi h

/-- A destination that may be reached and has room, another tenant's, and a window in no such mode. -/
theorem test_meets_moves : (let l := moving false .idle; l.hasSrc = true ∧ l.hasDst = true ∧ l.rect = false ∧ l.run % fromSize l = 0) ∧
    OnArray (moving true .idle) ∧ Enabled (moving true .idle) 0 ∧ ¬ Enabled (moving true .idle) 3 ∧
    receiverCore (moving true .idle) 0 = 4 ∧
    (let s := aimed (moving true .idle) (4 * 2 ^ 60) 4 1 1; Accepts s (moving true .idle) 4 1000 ∧
      ¬ Accepts s (moving true .idle) 5 1000 ∧ ¬ Accepts s (moving true .idle) 4 1025) ∧
    ¬ MayReach (aimed (moving false .idle) 0 4 2 1) 1 4 ∧ (coreEntry (setCore (owned id) 4 { fenced := true }) 4).fenced = true := by
  unfold OnArray Enabled Accepts MayReach FitsIn; decide +kernel

theorem test_meets_multicast : let l := moving true .idle; let s := aimed l (4 * 2 ^ 60) 4 1 1
    (∃ s1, NextCommand s 6 l s1 4 0 (4 * 2 ^ 60)) ∧ l.twin = false :=
  ⟨⟨_, next_command (first_aimed _ _ _ _ _ rfl) ⟨rfl, rfl, rfl⟩ rfl (by decide)⟩, rfl⟩

/-- A chunk for a window that is claimed by no spool, and one for a window that this list claimed before. -/
theorem test_meets_chunk : let l := moving false (.push 128); let s := aimed l 0 4 1 1
    FirstList s 6 l ∧ l.copyTo = none ∧ l.twin = false ∧ l.waiting = false ∧ runAddr s 6 l (128 / l.run) = .ok 0x1080 s ∧
    (∃ bs t, chunkBytes s 6 l 0x1080 128 256 = .ok bs t) ∧
    (getWin s 4 3).claimed = false ∧ (reservedBy (getWin s 4 3) 128 6).claimed = true ∧
    ∀ x ∈ getLists s 6, x.serial ≠ l.serial → ¬ MovesInto s 6 x 4 3 :=
  ⟨first_aimed _ _ _ _ _ rfl, rfl, rfl, rfl, rfl, ⟨_, _, rfl⟩, by decide +kernel, by decide +kernel, by
    have h : ∀ x ∈ getLists (aimed (moving false (.push 128)) 0 4 1 1) 6, x.serial = 4 := by decide +kernel
    exact fun x hx hne => absurd (h x hx) hne⟩

/-- Two lists of one spool, the second of which has a chunk on its way to the window. -/
theorem test_meets_shared_window : let l := moving false (.push 128)
    let s := setLists (aimed l 0 4 1 1) 6 [l, { l with serial := 5, move := .push 256 }]
    MovesInto s 6 { l with serial := 5, move := .push 256 } 4 3 :=
  .inr (.inl ⟨256, rfl, by decide, rfl, rfl, rfl, rfl⟩)

/-- A chunk for the twin: the tether down, and the twin's core fenced or another tenant's. -/
theorem test_meets_twin_chunk : let l := { moving false (.push 128) with twin := true }
    let s := aimed l 0 4 1 1
    let t (e : CoreEntry) : State := { s with tetherUp := true, tab := { s.tab with twinCores := [(4, e)] } }
    FirstList s 6 l ∧ runAddr s 6 l (128 / l.run) = .ok 0x1080 s ∧ s.tetherUp = false ∧
    (mapGet ({} : CoreEntry) (t { fenced := true }).tab.twinCores 4).fenced = true ∧
    (mapGet ({} : CoreEntry) (t { owner := 2 }).tab.twinCores 4).fenced = false ∧ l.tenant ≠ 0 ∧
    (mapGet ({} : CoreEntry) (t { owner := 2 }).tab.twinCores 4).owner ≠ l.tenant :=
  ⟨first_aimed _ _ _ _ _ rfl, rfl, rfl, by decide +kernel, by decide +kernel, by decide, by decide +kernel⟩

/-- A chunk that a list of the twin pushes into window 3 of core 4. -/
theorem test_meets_chunk_of_the_twin : let s := aimed (moving true .idle) 0 4 1 1
    let t := { s with tetherUp := true, inputs := [(0, .twinPush 4 3 1 [1, 2, 3])] }
    t.tetherUp = true ∧ MayReach t 1 4 ∧ (getWin t 4 3).mode = 1 ∧ (getWin t 4 3).claimed = false ∧ FitsIn (getWin t 4 3) 3 := by
  unfold MayReach FitsIn; decide +kernel

/-- A chunk on its way into the space it has reserved. -/
theorem test_meets_landing : let l := moving false (.push 384)
    let p : Packet := { core := 4, window := 3, pos := 0, data := [1, 2, 3], list := (6, 4), idx := 3, off := 128, tenant := 1 }
    let s := setWin (aimed l 0 4 1 1) 4 3 (reservedBy { mode := 1, lsize := 10 } 3 6)
    p.core < 96 ∧ (getLists s p.list.1).find? (fun q => q.serial == p.list.2 && !q.ended) = some l ∧ MayReach s l.tenant p.core ∧
    (getWin s 4 3).resv = [{ start := 0, len := 64, data := 3, todo := 3 }] ∧ p.pos = 0 ∧ p.data.length = 3 ∧
    (getWin s 4 3).mode = 1 ∧ (putWindow s p.core p.window p.pos p.data).2 = false ∧ s.inputs = [] := by
  unfold MayReach; decide +kernel

/-- A chunk that cannot land: its core is fenced, or another tenant's, or its window is turned off. -/
theorem test_meets_lost_chunks : let l := moving false .idle
    let s := setWin (aimed l 0 4 1 1) 4 3 { reservedBy { mode := 1, lsize := 10 } 3 6 with mode := 0 }
    (coreEntry (setCore s 4 { owner := 1, fenced := true }) 4).fenced = true ∧ (coreEntry s 4).fenced = false ∧
    MayReach s 1 4 ∧ (getWin s 4 3).mode = 0 ∧ ¬ MayReach (setCore s 4 { owner := 2 }) 1 4 ∧ l.fail = none ∧
    (getWin s 4 3).claimant = 6 ∧ s.eng.flight = [] ∧ ∀ x ∈ getLists s 6, ¬ MovesInto s 6 x 4 3 := by
  refine ⟨by decide, by decide, by unfold MayReach; decide +kernel, by decide +kernel, by unfold MayReach; decide +kernel, rfl,
    by decide +kernel, rfl, fun x hx h => ?_⟩
  have e : x = moving false .idle := List.mem_singleton.mp hx
  rcases h with ⟨p, hp, -⟩ | ⟨off, h, -⟩ | ⟨off, d, h, -⟩
  · exact absurd hp List.not_mem_nil
  · rw [e] at h; cases h
  · rw [e] at h; cases h

/-- A list of the twin at core (5, 1)'s scratchpad, whose spool has room or none, and one at no core. -/
theorem test_meets_lists_of_the_twin : let a : Dword := 0xFE8A100000001000
    a.toNat / 2 ^ 49 % 32 = 5 ∧ a.toNat / 2 ^ 44 % 32 = 1 ∧ columnSpool 4 = 4 ∧ (liveLists (listed running 0 0) 4).length < 24 ∧
    24 ≤ (liveLists (setLists (owned id) 4 (List.replicate 24 running)) 4).length := by decide +kernel

/-! ### Hypotheses met: harts, jobs and the dispatcher -/

/-- Two mask moves that wait in the queue, the first of them begun or not. -/
def queued (live : Bool) : State :=
  owned fun h => { h with
    queue := [entry (.kmov 1 2) false live, entry (.kmov 3 4) true live], k := [(2, 77)], ranSince := true
    tr := { tvec := 0x8000, tenab := 0x3F }, pc := 0x108, lastPc := 0x104 }

theorem test_meets_queued : let s := queued true; let e := entry (.kmov 1 2) false true
    let s0 := withHart s fun h => { h with queue := [entry (.kmov 3 4) true true], units := e.order }
    (queued false).hart.queue.head? = some (entry (.kmov 1 2) false false) ∧ s.hart.queue = [e, entry (.kmov 3 4) true true] ∧
    e.bad = none ∧ isVldw e.instr = false ∧ isMop e.instr = false ∧ e.flags = 0 ∧ s.pmc = [] ∧
    ∃ op u f, vopOf e.instr = some op ∧ op.check s.hart.width s.hart.mmode e.len = none ∧ op.run s0 e = .done u f ∧
      u.hart.core = s.hart.core ∧ u.hart.hid = s.hart.hid ∧ u.pmc = [] :=
  ⟨rfl, rfl, rfl, rfl, rfl, rfl, rfl, _, _, _, rfl, by decide, rfl, rfl, rfl, rfl⟩

/-- A queued load of a misaligned address, and a queued product. -/
theorem test_meets_queued_faults : let e := { entry (.vld 4 1 0 0 2) false true with sa := 0x1001 }
    (∃ op u e1 t, vopOf e.instr = some op ∧ op.check 8 false e.len = none ∧ op.run (owned id) e = .fault u e1 t ∧
      u.hart.core = 5 ∧ u.hart.hid = 0 ∧ u.pmc = []) ∧
    isVldw (.vldw 4 3 0 0 2) = true ∧ isMop (.mop 2 3 0 2 0) = true :=
  ⟨⟨_, _, _, _, rfl, by decide, rfl, rfl, rfl, rfl⟩, rfl, rfl⟩

/-- Posted events, pending traps that a handler takes and does not, and boundaries. -/
theorem test_meets_events : let s := withHart (queued true) fun h => { h with
        posted := [⟨false, ⟨0x12, 5⟩, 3⟩, ⟨true, ⟨0x19, 7⟩, 4⟩], preempt := true, expiry := some 0x123, graceEnd := some 0,
        job := { h.job with record := { h.job.record with policy := true, grace := 7 } } }
    s.hart.core < 96 ∧ s.hart.hid < 8 ∧ s.hart.stage = .running ∧
    s.hart.posted.find? (fun x => x.guard == true) = some ⟨true, ⟨0x19, 7⟩, 4⟩ ∧
    s.hart.posted.find? (fun x => x.guard == false) = some ⟨false, ⟨0x12, 5⟩, 3⟩ ∧
    Earliest [⟨some 4, ⟨0x21, 2⟩, 9⟩, ⟨none, ⟨0x19, 77⟩, 8⟩] ⟨none, ⟨0x19, 77⟩, 8⟩ ∧
    Earliest [⟨some 4, ⟨0x21, 2⟩, 8⟩, ⟨none, ⟨0x19, 77⟩, 8⟩] ⟨some 4, ⟨0x21, 2⟩, 8⟩ ∧
    HandlerTakes s.hart 0x19 ∧ ¬ HandlerTakes s.hart 0x21 ∧ AtBoundary s.hart ∧ s.hart.preempt = true ∧
    treeAbandoned s s.hart.job.tree = false ∧ s.hart.expiry = some 0x123 ∧ s.hart.graceEnd = some 0 ∧ 0 ≤ s.time.now.toNat ∧
    (s.hart.job.record.policy = true ∧ s.hart.job.record.grace ≠ 0 ∧ s.hart.tr.tvec ≠ 0 ∧ s.hart.tr.inh = false ∧
      s.hart.core ∉ s.disp.reclaims) ∧ (queued true).hart.job.record.grace = 0 ∧ NoBegunMop s.hart ∧
    s.svc.events.length < 1024 := by
  refine ⟨by decide, by decide, rfl, by decide, by decide, ⟨[⟨some 4, ⟨0x21, 2⟩, 9⟩], [], rfl, by decide, by decide⟩,
    ⟨[], [⟨none, ⟨0x19, 77⟩, 8⟩], rfl, by decide, by decide⟩, ⟨⟨5, by decide⟩, by decide⟩, fun h => ?_, ⟨rfl, rfl, .inl ⟨rfl, rfl⟩⟩, rfl, by decide,
    rfl, rfl, by decide, by decide, by decide, fun e q h => ?_, by decide⟩
  rotate_left
  · cases h; nofun
  obtain ⟨b, hb, -⟩ := h.1
  simp [coveredBy] at hb

/-- A wait of word 1 of a bundle, stalls at the queues, and a resynchronising instruction that is queued; a halted
hart and one that the service complex holds, both told to stop; and 1,024 events. -/
theorem test_meets_stopped : let h (b : Block) (i : Option Instr) (q : Instr) := (withHart (queued true) fun h => { h with
        queue := [entry q false true], blockedBy := i, block := b, ranSince := false }).hart
    AtBoundary (h .resync (some (.vredsum 1 2 3 4)) (.vadd 1 2 3 0)) ∧ AtBoundary (h .queue none (.vadd 1 2 3 0)) ∧
    AtBoundary (h .order none (.vadd 1 2 3 0)) ∧ AtBoundary (h .none none (.vredsum 1 2 3 4)) ∧
    ¬ AtBoundary (h .walk none (.vadd 1 2 3 0)) ∧
    (∀ st ∈ [Stage.service, .halted], let s := withHart (queued true) fun h => { h with stage := st, preempt := true, graceEnd := some 0 }
      s.hart.core < 96 ∧ s.hart.hid < 8 ∧ s.hart.stage = st ∧ s.hart.core ∉ s.disp.reclaims ∧ NoBegunMop s.hart ∧
      s.hart.expiry = none) ∧
    1024 ≤ (List.replicate 1024 (Machine.SvcEvent.trap 7)).length := by
  refine ⟨⟨rfl, rfl, .inr (.inl ⟨_, rfl, by decide⟩)⟩, ⟨rfl, rfl, .inr (.inr (.inl rfl))⟩,
    ⟨rfl, rfl, .inr (.inr (.inr (.inl rfl)))⟩, ⟨rfl, rfl, .inr (.inr (.inr (.inr ⟨_, List.mem_singleton.mpr rfl, by decide⟩)))⟩,
    fun x => ?_,
    fun st _ => ⟨Nat.le_of_ble_eq_true rfl, Nat.le_of_ble_eq_true rfl, rfl, List.not_mem_nil, fun e q h => ?_, rfl⟩, ?_⟩
  · rcases x.2.2 with x | ⟨i, x, -⟩ | x | x | ⟨e, he, x⟩
    · cases x.1
    · cases x
    · cases x
    · cases x
    · rw [List.mem_singleton.mp he] at x; exact absurd x (by decide)
  · cases h; nofun
  · rw [List.length_replicate]

/-- A page table of tenant 1 whose first 2 MiB are a page at 0x200000, and tree 7's deadline. -/
def tabled (s : State) : State :=
  setTree { s with
    tab := { s.tab with tenants := [(0, { valid := true }), (1, { valid := true, root := 0x10000 })] }
    mem := putBytes (putBytes (putBytes s.mem 0x10000 (bytesOfNat 8 0x11001)) 0x11000 (bytesOfNat 8 0x12001)) 0x12000
      (bytesOfNat 8 (2 ^ 58 + 0x200000 + 0x4D)) } 7 { tenant := 1, deadline := 0x5000 }

/-- A ready record of tree 7, begun or not. -/
def ready (n : Nat) (ran : Bool) : Job :=
  { tenant := 1, tree := 7, job := BitVec.ofNat 32 n, record := parseRec (natOfBytes (record 0)), ran := ran, arrival := n, steal := true }

/-- Core 5 with that record in its store, the hart in focus being another core's. -/
def binding (ran : Bool) : State := setReady (tabled (owned fun h => { h with core := 20 })) 5 [ready 2 ran]

theorem test_meets_binding (ran : Bool) : MayBind (binding ran) 5 (ready 2 ran) ∧ InPlace (binding ran) 5 0 := by
  refine ⟨⟨by decide, fun d hd => ?_, by cases ran <;> decide, by cases ran <;> decide, by cases ran <;> decide,
    ⟨[], [], rfl, by simp, by simp⟩, by cases ran <;> decide, by cases ran <;> decide⟩, by cases ran <;> exact ⟨rfl, rfl⟩⟩
  show mapGet [] [(5, [ready 2 ran])] d = []
  rw [mapGet, if_neg (by omega)]; rfl

theorem test_meets_blocks : ∀ r ∈ [false, true], (freeBlocks (binding r) 5 (ready 2 r).record.width).head? = some 0 := by
  decide +kernel

theorem save_area_of {s : State} {j : Job} (h : (translateSave s j.tenant
    ((List.range ((5120 + 2560 * j.record.width + 4095) / 4096)).map fun i => j.record.save.toNat + 4096 * i)).1.isSome = true) :
    ∃ pages s1, SaveArea s j pages s1 :=
  have ⟨p, hp⟩ := Option.isSome_iff_exists.mp h
  ⟨p, _, Prod.ext hp rfl⟩

theorem test_meets_save_area : ∃ pages s1, SaveArea (setReady (binding false) 5 []) (ready 2 false) pages s1 :=
  save_area_of (by decide +kernel)

/-- A gang of one core, its block not held and held. -/
def ganged (held : List (Nat × Nat)) : State :=
  let s := tabled (owned fun h => { h with core := 20 });
  { s with disp := { s.disp with gangs := [{ tenant := 1, tree := 7, record := (ready 0 false).record, mask := 2 ^ 9, ids := [0x55], held := held, arrival := 4 }] } }

theorem test_meets_gang_start : let s := ganged []
    s.disp.gangs.map (fun g => (g.mask, g.tenant, g.ids, g.held)) = [(2 ^ 9, 1, [0x55], [])] ∧ currentTenant s 9 = 1 ∧
    mapGet none s.disp.lending 9 = none ∧ 9 ∉ s.disp.reclaims ∧ s.time.now.toNat < (treeDeadline s 7).toNat ∧ coreDead s 9 = false ∧
    (freeBlocks s 9 (ready 0 false).record.width).head? = some 0 ∧ (ganged [(9, 0)]).disp.gangs.map (fun g => g.held) = [[(9, 0)]] := by
  decide +kernel

theorem test_meets_gang_place : InPlace (ganged [(9, 0)]) 9 0 := ⟨rfl, rfl⟩

/-- A record in the pool, a queue with an entry, well-formed or not, an idle core 5 with a neighbour to ask, a
grant, and a slot. -/
def pooled : State := let s := tabled (owned fun h => { h with core := 20 }); { s with disp := { s.disp with pool := [ready 3 false] } }

def queueing (bad : Nat) : State :=
  let s := tabled (owned id);
  { s with
    mem := putBytes s.mem 0x207000 (record bad)
    tab := { s.tab with groupTlb := [(0, [{ page with tenant := 1 }])] }
    disp := { s.disp with nextTree := 99, queues := [(4, { created := true, tenant := 1, base := 0x7000, size := 16, mask := 2 ^ 96 - 1, share := 1, tail := 1 })] } }

theorem test_meets_placement : let j := ready 3 false
    (chooseCore pooled j.mask j.tenant j.record.width (treeDeadline pooled j.tree)).isSome = true ∧
    treeDeadline pooled j.tree ≠ bestEffort ∧ (queueing 0).disp.pool = [] ∧
    (∀ k < 192, k ≠ 4 → queueReady (queueing 0) k = false) ∧ queueReady (queueing 0) 4 = true := by decide +kernel

theorem test_meets_queue_heads (bad : Nat) (h : bad ∈ [0, 1]) : ∃ r s1, readHead (queueing bad) 4 = (some r, s1) := by
  have h : (readHead (queueing bad) 4).1.isSome = true := by
    revert h; revert bad; decide +kernel
  obtain ⟨r, hr⟩ := Option.isSome_iff_exists.mp h
  exact ⟨r, _, Prod.ext hr rfl⟩

/-- Cores 5 and 9 are the tenant's, and core 9 has two records. -/
def stealing : State :=
  let s := setReady (tabled (owned fun h => { h with core := 20 })) 9 [ready 4 false, ready 3 false];
  { s with tab := { s.tab with cores := [(0, { fenced := true }), (1, { fenced := true }), (2, { fenced := true }), (3, { fenced := true }), (4, { fenced := true }), (5, { owner := 1 }), (9, { owner := 1 })] } }

theorem test_meets_steal : let s := stealing; let j := ready 3 false
    (∀ d < 5, idleCore s d = false) ∧ idleCore s 5 = true ∧ currentTenant s 9 = currentTenant s 5 ∧
    (∀ d < 96, d ≠ 5 → d ≠ 9 → currentTenant s d ≠ currentTenant s 5) ∧ mapGet 0 s.disp.stealAsked 5 = 0 ∧ coreDead s 9 = false ∧
    (getReady s 9).getLast? = some j ∧ (∀ x ∈ getReady s 9, keyOf s j ≤ keyOf s x) ∧ (getReady s 9).Nodup ∧ j.steal = true ∧
    freeBlocks s 5 j.record.width ≠ [] ∧
    (let t := { s with disp := { s.disp with stealGrant := [(5, some j)] } };
      coreDead t 5 = false ∧ mapGet none t.disp.lending 5 = none ∧ 5 ∉ t.disp.reclaims ∧ t.time.now.toNat < keyOf t j ∧
      treeAbandoned t j.tree = false ∧ treeDeadline t j.tree ≠ bestEffort ∧ getReady t 5 = [] ∧
      (freeBlocks t 5 j.record.width).head? = some 0 ∧ currentTenant t 5 = j.tenant) := by
  decide +kernel

theorem test_meets_grant : InPlace stealing 5 0 ∧ ∃ pages s1, SaveArea { stealing with disp :=
    { stealing.disp with stealGrant := [], arrivals := stealing.disp.arrivals + 1 } } (ready 3 false) pages s1 :=
  ⟨⟨rfl, rfl⟩, save_area_of (by decide +kernel)⟩

/-- Slot 3 due at its third start, and its job in the pool at that start. -/
theorem test_meets_slots : let e : Slot := { enable := true, period := 1, tenant := 1, phase := 5, lead := 100, offset := 20, mask := 3, template := BitVec.ofNat 512 (natOfBytes (record 0)), next := 2 }
    let s := { pooled with time := { pooled.time with now := 1000000 }, disp := { pooled.disp with slots := [(3, e)] } }
    (∀ m < 3, (getSlot s m).enable = false) ∧ e.next * (1000000 / 2 ^ e.period) + e.phase.toNat ≤ s.time.now.toNat + e.lead ∧
    (parseRec e.template.toNat).malformed false = false ∧ ({ ready 3 false with slot := some (3, 2) } : Job).record.a3.toNat ≤ s.time.now.toNat := by
  decide +kernel

/-! ### Hypotheses met: cores, translation, combining buffers, ports and time -/

/-- Core 9 about to be lent, with another core's lending behind it. -/
def lending : State :=
  let l : Lending := { borrower := 1, time := 777, image := 0x123000, fn := 0, seq := 4 };
  let s := owned id; { s with disp := { s.disp with lending := [(9, some l), (11, some l)], reclaimAt := [(9, some 5), (3, some 6)] } }

/-- Core 9 lent, its time come, and its reclaim begun, with the hart in focus stopping on it. -/
def reclaiming : State :=
  let s := tabled (owned fun h => { h with core := 9, ranSince := true });
  { s with
    time := { s.time with now := 10 }, tab := { s.tab with cores := [(9, { owner := 0, lent := true, borrower := 1 })] }
    disp := { s.disp with reclaims := [9, 2], imageArea := [(9, 0x40000)] } }

theorem test_meets_lending : let s := lending
    heldBlocks s 9 = [] ∧ getReady s 9 = [] ∧ coreDead s 9 = false ∧ (∀ p ∈ s.disp.lending.tail, p.1 ≠ 9) ∧
    (∀ p ∈ s.disp.reclaimAt.tail, p.1 ≠ 9) ∧
    (let t := { reclaiming with disp := { reclaiming.disp with reclaims := [2], reclaimAt := [(9, some 5)] } };
      (5 : Dword).toNat ≤ t.time.now.toNat ∧ mapGet none t.disp.lending 9 = none ∧ (coreEntry t 9).lent = true ∧ 9 ∉ t.disp.reclaims) := by
  decide +kernel

theorem test_meets_reclaim : let s := reclaiming
    (s.svc.cmds.head?.any fun h => h.cmd.op == 7) = false ∧ s.disp.reclaims = 9 :: [2] ∧ coreDead s 9 = false ∧ boundKeys s 9 = [72] ∧
    (∀ k ∈ boundKeys s 9, let h := getHart s k; h.stage = .running → canStop h = true ∧ h.pend = [] ∧ h.block = .none ∧ h.ranSince = true ∧ h.posted = [] ∧ h.expiry = none) ∧
    (getHart s 72).stage = .running ∧ treeAbandoned s (getHart s 72).job.tree = false ∧
    (let f := fallen s; treeAbandoned f (getHart f 72).job.tree = true ∧ boundKeys f 9 = [72] ∧ (getReady f 9).filter (fun j => j.ran) = []) ∧
    (∀ b < 8, (getHart s (8 * 9 + b)).core = 9 ∧ (getHart s (8 * 9 + b)).hid = b) ∧
    (∀ b < 8, (getHart lending (8 * 9 + b)).core = 9 ∧ (getHart lending (8 * 9 + b)).hid = b) ∧
    (∀ w ∈ s.bad, ¬ (spadLoc 9 0 ≤ 8 * w ∧ 8 * w < spadLoc 9 0 + 2 ^ 19)) ∧
    (let w := spadLoc 9 64 / 8; w ∈ ({ s with bad := [w] } : State).bad ∧ spadLoc 9 0 ≤ 8 * w ∧ 8 * w < spadLoc 9 0 + 2 ^ 19) := by
  decide +kernel

/-- A saved group, of one job of block 2, whose core is 4, and whose image no page holds. -/
def regrouped (g : List SavedGroup) : State :=
  let s := tabled (owned fun h => { h with core := 20 });
  { s with tab := { s.tab with cores := [(4, { owner := 1 })] }, disp := { s.disp with saved := g } }

/-- The group. -/
def oneSaved : List SavedGroup := [{ tenant := 1, image := 2 ^ 39, jobs := [{ ready 44 true with hid := 2 }] }]

theorem test_meets_regrouping : let s := regrouped oneSaved
    (∀ d < 4, currentTenant s d ≠ 1) ∧ currentTenant s 4 = 1 ∧ coreOpen s 4 = true ∧ heldBlocks s 4 = [] ∧
    2 * 4 + (ready 44 true).record.width ≤ 32 := by decide +kernel

theorem image_table (g : List SavedGroup) : readNat (regrouped g) 0 (0x10000 + 8) 8 = some 0 := by
  show readNat (regrouped []) 0 (0x10000 + 8) 8 = some 0
  decide +kernel

theorem image_faults (g : List SavedGroup) (n off : Nat) (h : off < 2 ^ 20) :
    agentXlate (regrouped g) recordAgent 1 (2 ^ 39 + off) n .read = .fault 0x14 (regrouped g) := by
  have hw : walkNow (regrouped g) 1 (2 ^ 39 + off) .read = .fault 0x14 := by
    have hr : (mapGet ({} : TenantEntry) (regrouped g).tab.tenants 1).root = 0x10000 := rfl
    have hv : (2 ^ 39 + off) / 2 ^ (39 - 9 * 0) % 512 = 1 := by omega
    have ht : readNat (regrouped g) 0 (65536 + 8 * 1) 8 = some 0 := image_table g
    rw [walkNow, walk, hr, walkFrom]
    simp only [hv, ht]
    rfl
  have ht : tlbFind (mapGet [] (regrouped g).tab.groupTlb (agentGroup recordAgent)) 1 (2 ^ 39 + off) .read = none := rfl
  have hf : (regrouped g).tab.faults = [] := rfl
  have ha : (regrouped g).tab.ats = [] := rfl
  have hk : (regrouped g).tab.walks = [] := rfl
  simp only [agentXlate, agentEntry, waits, ht, hf, ha, hk, hw, List.find?_nil, List.contains_nil, List.any_nil, Bool.or_self,
    Bool.false_eq_true, if_false]

theorem foldl_stays {α β : Type} (f : β → α → β) (b : β) (l : List α) (h : ∀ a ∈ l, f b a = b) : l.foldl f b = b := by
  induction l with
  | nil => rfl
  | cons a l ih => rw [List.foldl_cons, h a (by simp), ih fun x hx => h x (by simp [hx])]

theorem image_parts : ∀ p ∈ imageParts (2 ^ 39) 131 0, p.1 < 2 ^ 20 := by decide +kernel

theorem image_waits (g : List SavedGroup) : imageWaits (regrouped g) 1 (2 ^ 39) = (false, regrouped g) :=
  foldl_stays _ _ _ fun p hp => by simp only [image_faults g p.2 p.1 (image_parts p hp)]

theorem tail_read (g : List SavedGroup) (l : List Nat) (hl : ∀ i ∈ l, i < 160) (bs : List Byte) :
    l.foldl (fun (a : List Byte × State) i =>
      let r := readAgent a.2 recordAgent 1 (2 ^ 39 + 524288 + 8 * i) 8
      (a.1 ++ r.1.getD (bytesOfNat 8 0), r.2)) (bs, regrouped g) = (bs ++ l.flatMap fun _ => bytesOfNat 8 0, regrouped g) := by
  induction l generalizing bs with
  | nil => simp
  | cons i l ih =>
    have hi : agentXlate (regrouped g) recordAgent 1 (2 ^ 39 + 524288 + 8 * i) 8 .read = .fault 0x14 (regrouped g) := by
      rw [Nat.add_assoc]; exact image_faults g _ _ (by have := hl i (by simp); omega)
    simp only [List.foldl_cons, readAgent, hi, List.flatMap_cons, ← List.append_assoc]
    exact ih (fun x hx => hl x (by simp [hx])) _

/-- Nothing is read of the image, so the core's windows become those of 1,280 zero bytes. -/
def emptied : State := restoreTail (regrouped []) 4 ((List.range 160).flatMap fun _ => bytesOfNat 8 0)

theorem image_restored : restoreImage (regrouped []) 4 1 (2 ^ 39) = emptied := by
  have h1 : (imageParts (2 ^ 39) 131 0).foldl (restorePart 4 1 (2 ^ 39)) (regrouped []) = regrouped [] :=
    foldl_stays _ _ _ fun p hp => by simp only [restorePart, readAgent, image_faults [] p.2 p.1 (image_parts p hp)]
  have h2 : readTail (regrouped []) 1 (2 ^ 39) = ((List.range 160).flatMap fun _ => bytesOfNat 8 0, regrouped []) := by
    exact (tail_read [] (List.range 160) (fun i h => List.mem_range.mp h) []).trans (by rw [List.nil_append])
  unfold restoreImage
  simp only [h1, h2]
  rfl

theorem test_meets_restore : let s := regrouped oneSaved; let j := { ready 44 true with hid := 2 }
    ∃ s0 s1, imageWaits s 1 (2 ^ 39) = (false, s0) ∧ s1 = restoreImage { s0 with disp := { s0.disp with saved := [] } } 4 1 (2 ^ 39) ∧
    InPlace s 4 2 ∧ InPlace s1 4 2 ∧ heldBlocks s1 4 = [] ∧ j.held = false ∧ j.ran = true := by
  refine ⟨regrouped oneSaved, emptied, image_waits _, image_restored.symm, ⟨rfl, rfl⟩, ⟨?_, ?_⟩, ?_, rfl, rfl⟩ <;>
    decide +kernel

/-- A request to fence a core, and an idle and a busy core that is to be fenced. -/
theorem test_meets_fencing : let s := { reclaiming with fenceReq := [9] }; let t := { owned id with fenceReq := [9] }
    Given { s with inputs := [(0, .fence 9)] } (.fence 9) ∧ Given { s with inputs := [(0, .drainTimeout 9)] } (.drainTimeout 9) ∧
    9 ∈ s.disp.reclaims ∧ t.inputs = [] ∧ t.fenceReq.head? = some 9 ∧ (coreEntry t 9).fenced = false ∧ boundKeys t 9 = [] ∧
    getReady t 9 = [] ∧ t.disp.gangs = [] ∧ t.vamos = [] ∧ t.tab.routes = [] ∧ boundKeys s 9 = [72] ∧ getReady s 9 = [] ∧
    (coreEntry s 9).fenced = false ∧ InPlace s 9 (72 % 8) := by
  refine ⟨⟨_, _, rfl⟩, ⟨_, _, rfl⟩, ?_⟩
  unfold InPlace; decide +kernel

/-- The specification's worked walk: 0x40001800 of tenant 5 through four levels to a leaf. -/
def walked (leaf : Nat) (f : State → State) : State :=
  let s := owned id;
  f { s with
    tab := { s.tab with tenants := [(0, { valid := true }), (5, { valid := true, root := 0x10000, pv := true })], coreTlb := [] }
    mem := putBytes (putBytes (putBytes (putBytes s.mem 0x10000 (bytesOfNat 8 0x11001)) 0x11008 (bytesOfNat 8 0x12001)) 0x12000
      (bytesOfNat 8 0x13001)) 0x13008 (bytesOfNat 8 leaf) }

/-- A leaf of owner 5 that may be written and was accessed. -/
def leaf5 : Leaf := ⟨5, 0, 0, 0, 0x1234567, 0, 1, 1⟩

/-- The walk's tables, with a leaf in place of the entry of a level; key 6 is the tenant's. -/
def leafAt (lvl : Nat) (f : Leaf) : State :=
  let s := walked 0 id;
  { s with tab := { s.tab with keys := [(6, { valid := true, tenant := 5 })] }, mem := putBytes s.mem (slotOf 0x40001800 (0x10000 + 0x1000 * lvl) lvl) (bytesOfNat 8 f.word) }

/-- Leaves of every size, home and kind of key; and leaves with a check that fails. -/
def goodLeaves : List (Nat × Leaf) :=
  [(3, leaf5), (3, { leaf5 with frame := 0x1234561, c64 := 1 }), (2, { leaf5 with frame := 0x1234400 }), (1, { leaf5 with frame := 0x1240000 }),
   (3, { leaf5 with key := 6, marks := 0 }), (3, { leaf5 with home := 1, cache := 1 }), (3, { leaf5 with home := 2, frame := 0 })]

def badLeaves : List (Nat × Leaf) :=
  [(3, { leaf5 with owner := 4 }), (3, { leaf5 with c64 := 1 }), (2, leaf5), (1, leaf5), (0, leaf5), (3, { leaf5 with home := 3 }), (3, { leaf5 with cache := 3 }),
   (3, { leaf5 with key := 7 }), (3, { leaf5 with frame := 192 * 2 ^ 18 }), (3, { leaf5 with perms := 2 }), (3, { leaf5 with home := 2 })]

theorem table_at (s : State) (h0 : readNat s 0 0x10000 8 = some 0x11001) (h1 : readNat s 0 0x11008 8 = some 0x12001)
    (h2 : readNat s 0 0x12000 8 = some 0x13001) : TableAt s 0x10000 0x40001800 3 0x13000 :=
  ⟨by decide, by decide, 0x12000, ⟨by decide, by decide, 0x11000, ⟨by decide, by decide, 0x10000, rfl, by decide, h0⟩, by decide, h1⟩, by decide, h2⟩

/-- The table of every level is reached, and its entry is the leaf, whose checks pass or fail; the entries above it. -/
theorem test_meets_walks : (∀ x ∈ goodLeaves, LeafGood (leafAt x.1 x.2) 5 0x40001800 .write x.1 x.2) ∧
    (∀ x ∈ badLeaves, ¬ LeafGood (leafAt x.1 x.2) 5 0x40001800 .write x.1 x.2) ∧
    (∀ x ∈ goodLeaves ++ badLeaves, let s := leafAt x.1 x.2; x.2.InRange ∧
      slotOf 0x40001800 (0x10000 + 0x1000 * x.1) x.1 < 192 * 2 ^ 30 ∧ readNat s 0 (slotOf 0x40001800 (0x10000 + 0x1000 * x.1) x.1) 8 = some x.2.word ∧
      (0 < x.1 → readNat s 0 0x10000 8 = some 0x11001) ∧ (1 < x.1 → readNat s 0 0x11008 8 = some 0x12001) ∧
      (2 < x.1 → readNat s 0 0x12000 8 = some 0x13001)) := by
  unfold LeafGood Leaf.InRange; exact ⟨by decide +kernel, by decide +kernel, by decide +kernel⟩

/-- Entries that are not valid or malformed, one at the last level that is no leaf, and one that cannot be read. -/
theorem test_meets_walk_ends : (∀ e ∈ [(0 : Nat), 0x10000043, 0x10000145, 0x14001], readNat (walked e id) 0 0x13008 8 = some e ∧
      (e = 0x14001 ∨ e % 2 = 0 ∨ e / 2 % 2 = 1 ∨ e / 2 ^ 8 % 16 ≠ 0) ∧ TableAt (walked e id) 0x10000 0x40001800 3 0x13000) ∧
    readNat { walked 0 id with bad := [0x13008 / 8] } 0 0x13008 8 = none ∧ (0x14001 / 64 % 2 = 0) := by
  refine ⟨fun e he => ⟨?_, ?_, table_at _ ?_ ?_ ?_⟩, by decide +kernel, by decide⟩ <;> revert e <;> decide +kernel

theorem walk_entry {w : WalkDone} (h : (match w with | .entry _ _ => true | _ => false) = true) : ∃ e u, w = .entry e u := by
  cases w <;> simp_all

/-- The word of a leaf of the host, accessed or not. -/
def hostLeaf (marks : Nat) : Nat := 5 * 2 ^ 58 + 2 ^ 51 + 0x45 + 16 * marks

/-- Walks that answer with an entry, an ATS request and a fault. -/
theorem test_meets_walk_answers :
    (∃ e u, walkNow (walked leaf5.word id) 5 0x40001000 .write = .entry e u) ∧
    walkNow (walked (hostLeaf 1) id) 5 0x40001000 .write = .host (hostLeaf 1) 0x13008 4096 ∧
    walkNow (walked { leaf5 with owner := 4 }.word id) 5 0x40001000 .write = .fault 0x14 :=
  ⟨walk_entry (by decide +kernel), by decide +kernel, by decide +kernel⟩

/-- ATS completions: stale, an abort, too few permissions, and a translation, of a leaf that stands or was changed. -/
theorem test_meets_ats : let k : WalkReq := ⟨40, 5, 0x40001000, .write⟩
    let q : AtsReq := { req := k, pasid := 9, joined := [k], leaf := hostLeaf 1, pa := 0x13008 }
    let s := walked (hostLeaf 1) fun s => { s with inputs := [(0, .atsCompletion 3 0x7000000 0x2000 true true false false)], tab := { s.tab with ats := [{ q with stale := true }, q] } }
    let old : AtsReq := { q with leaf := hostLeaf 0 }
    let s0 := { taken s with tab := { s.tab with ats := [q] } }
    Given s (.atsCompletion 3 0x7000000 0x2000 true true false false) ∧ s.tab.ats[3 % s.tab.ats.length]? = some q ∧
    s.tab.ats[2 % s.tab.ats.length]? = some { q with stale := true } ∧ s.eng.late = [] ∧ k.hart < 1000 ∧ s.hart.key = k.hart ∧
    s.tab.priOff = false ∧ s.tab.pri.find? (fun p => p.pasid == 9) = none ∧ 0x2000 = 2 ^ 13 ∧ q.size ∈ [2 ^ 12, 2 ^ 16, 2 ^ 21, 2 ^ 30] ∧
    readNat s 0 q.pa 8 = some q.leaf ∧ q.leaf / 2 ^ 50 % 4 = 2 ∧
    readNat s 0 old.pa 8 ≠ some old.leaf ∧ old.leaf / 16 % 2 = 0 ∧ walkNow s0 5 0x40001000 .write = .host (hostLeaf 1) 0x13008 4096 :=
  ⟨⟨_, _, rfl⟩, rfl, rfl, rfl, by decide, rfl, rfl, rfl, rfl, by decide, by decide +kernel, by decide, by decide +kernel, by decide, by decide +kernel⟩

/-- A record that waits for its host page, and the request that it joins. -/
theorem test_meets_record_pages : let k : WalkReq := ⟨1100, 5, 0x40001000, .write⟩
    let s := walked (5 * 2 ^ 58 + 2 ^ 51 + 0x55) fun s => { s with eng := { s.eng with late := [{ tenant := 5, va := 0x40001020, bytes := [1] }] }, tab := { s.tab with ats := [{ req := k, joined := [k] }] } }
    ∀ w ∈ s.eng.late, w.asked = none → k.hart = 1100 ∧ k.kind = .write ∧ w.tenant = k.tenant ∧ w.va / 4096 * 4096 = k.va := by
  intro _ _ w hw _
  cases List.mem_singleton.mp hw
  decide

/-- A job held for a page request that has been answered. -/
def pageHeld (code : Nat) : State :=
  let s := tabled (owned fun h =>
    { h with stage := .service, job := { h.job with held := true, page := [{ id := 6, va := 0x4000, kind := .write }], pages := [⟨0x300000, 0, 0⟩, ⟨0x301000, 0, 0⟩] } });
  savePut (savePut { s with svc := { s.svc with events := [.prg 6 code], boot := 5 } } s.hart.job.pages 0x400 (bytesOfNat 8 0x11500))
    s.hart.job.pages 0x410 (bytesOfNat 8 0x4008)

theorem test_meets_page_responses : let s := pageHeld 0; let j := s.hart.job
    s.inputs = [] ∧ SvcIdle s ∧ s.svc.events = [.prg 6 0] ∧ s.svc.held = [] ∧ s.others = [] ∧ looseJobs s = [] ∧
    s.eng.late = [] ∧ s.hart.stage = .service ∧ j.held = true ∧ j.page = [{ id := 6, va := 0x4000, kind := .write }] ∧ s.hart.core < 96 ∧ s.hart.hid < 8 ∧
    saveDword s j.pages 0x400 / 256 % 256 = 0x15 ∧ saveDword s j.pages 0x410 / 4096 * 4096 = 0x4000 ∧
    treeAbandoned s j.tree = false := by
  unfold SvcIdle; decide +kernel

/-- Page requests, of which the host has allocated one or all; invalidations and a chunk and a coding command that use
the page of one. -/
theorem test_meets_requests :
    Given { owned id with inputs := [(0, .prgResponse 1 2)] } (.prgResponse 1 2) ∧
    (let t (n : Nat) := { (owned id).tab with pri := [⟨0, 4096, .read, 7⟩, ⟨1, 4096, .write, 8⟩], priAlloc := n };
      let out (n : Nat) := (t n).pri.take (min 512 (t n).priAlloc);
      (out 512)[3 % (out 512).length]? = some ⟨1, 4096, .write, 8⟩ ∧ (out 1)[3 % (out 1).length]? = some ⟨0, 4096, .read, 7⟩) ∧
    Given { owned id with inputs := [(0, .priReenable)] } .priReenable ∧
    Given { owned id with inputs := [(0, .invalidate 1 0x1000 0x1000)] } (.invalidate 1 0x1000 0x1000) ∧
    ((owned id).tab.coreTlb.map fun p => p.1).Nodup ∧ ((owned id).tab.groupTlb.map fun p => p.1).Nodup ∧
    32 ≤ ((List.replicate 32 ({ tenant := 1, va := 0, size := 4096 } : Inval)).filter fun v => v.host).length := by
  refine ⟨⟨_, _, rfl⟩, ⟨rfl, rfl⟩, ⟨_, _, rfl⟩, ⟨_, _, rfl⟩, ?_, ?_, ?_⟩ <;> decide

/-- An invalidation that waits for a chunk and one that waits for nothing. -/
theorem test_meets_invalidation : let p : Packet := { core := 4, window := 3, pos := 0, data := [], list := (6, 4), idx := 3, off := 0, tenant := 1, pages := [(0x1000, 4096)], invals := [5] }
    let v : Inval := { tenant := 1, va := 0x1000, size := 0x1000, id := 5 }
    let s := { owned id with eng := { (owned id).eng with flight := [p] }, tab := { (owned id).tab with invals := [v] } }
    (∃ p ∈ s.eng.flight, v.id ∈ p.invals) ∧ ¬ (∃ p ∈ s.eng.flight, 6 ∈ p.invals) ∧ s.eng.coding = [] ∧
    p.pages.any (fun a => a.1 < 0x1000 + 0x1000 ∧ 0x1000 < a.1 + a.2) = true := by
  refine ⟨⟨_, List.mem_singleton.mpr rfl, by decide⟩, fun h => ?_, rfl, by decide⟩
  obtain ⟨p, hp, h⟩ := h
  rw [List.mem_singleton.mp hp] at h
  exact absurd h (by decide)

/-- An element for core 9's scratchpad, with and without a buffer entry for its word, and behind a guard. -/
theorem test_meets_combining_buffers : let v : VamoElem := { loc := spadLoc 9 0x88, core := 9, off := 0x88, bytes := 4, op := 1, signed := true, operand := 0xFFFFFFFE, sender := 40 }
    let c : Combine := ⟨v.loc, 9, 4, 1, true, 3, 0⟩
    let s := { owned id with vamos := [v] }
    let t := setWin s 9 0 { mode := 3, guard := true, lsize := 12, owner := 0, base := 0, tail := 0x100, fill := 0x100 }
    (∀ i < v.bytes, byteGuarded s v.sender v.core (v.off + i) = false) ∧ (mapGet [] s.combine (16 * v.core + v.off / 64 % 16)) = [] ∧
    (mapGet [] { s with combine := [(146, [c])] }.combine (16 * v.core + v.off / 64 % 16)) = [c] ∧ c.loc = v.loc ∧
    v.sender = s.hart.key ∧ { v with job := s.hart.job.job }.job = s.hart.job.job ∧ s.hart.stage = .running ∧ s.pmc = [] ∧ byteGuarded t v.sender v.core v.off = true ∧
    c.time + 2048 ≤ (2048 : Dword).toNat ∧ readNat s 0 c.loc c.bytes = some 0 := by decide +kernel

theorem test_meets_errors : (∀ i ∈ [Input.error 0x201008, .coreError 8, .corrected 40, .sramError, .lineError 5 true 7, .stackError 40 1],
      Given { owned id with inputs := [(0, i)] } i) ∧
    isDram 0x201008 = true ∧ (8 : Nat) < 96 ∧ (getHart (owned id) 40).rs.length ≤ 1 ∧
    1 < (getHart (owned fun h => { h with rs := [8, 16] }) 40).rs.length := by
  refine ⟨fun _ _ => ⟨_, _, rfl⟩, ?_⟩
  decide +kernel

/-- A user-plane frame of port 2 and the entry that steers its stream to window 3 of core 9. -/
def framed (f : Frame) (cfg : Nat) : State :=
  let s := owned id;
  setWin { s with inputs := [(0, .frame f)], eng := { s.eng with ports := [(2, { mode := 1 })], bridles := [(2048 + 7, { cfg0 := BitVec.ofNat 64 cfg, cfg1 := BitVec.ofNat 64 (1000 * 2 ^ 32 + 2000) })] } }
    9 3 { mode := 4, lsize := 12, base := 0x1000, armed := BitVec.allOnes 64 }

/-- Direction, plane, stream, tenant 1, site (10, 1), window 3 and slot entry 4. -/
def steering (dir plane : Nat) : Nat :=
  2 ^ 63 + dir * 2 ^ 62 + plane * 2 ^ 60 + 13 * 2 ^ 52 + 0x123 * 2 ^ 36 + 2 ^ 30 + 10 * 2 ^ 25 + 2 ^ 20 + 3 * 2 ^ 16 + 4

def frame (port : Nat) : Frame :=
  { port := port, msgType := 2, eaxc := 0x123, frame := 3, subframe := 4, slot := 1, symbol := 5, sect := 9, prbs := 0, startPrb := 7, payload := [1, 2, 3, 4], age := 2 ^ 16 }

/-- Frames of a port that is off, with a bad check sequence, of no stream, and of a stream of core 9, whose window
has room for their record and, when another tenant has the core, is not looked at. -/
theorem test_meets_frames : let s := framed (frame 2) (steering 0 1)
    (mapGet {} s.eng.ports 2 : Port).mode = 1 ∧ (mapGet {} s.eng.ports 3 : Port).mode = 0 ∧
    (let b := getBridle s 2 7; b.cfg0.toNat / 2 ^ 63 = 1 ∧ b.cfg0.toNat / 2 ^ 36 % 2 ^ 16 = 0x123 ∧ b.cfg0.toNat / 2 ^ 60 % 4 = 1) ∧
    (∀ f ∈ [frame 2, { frame 2 with dest := 2 ^ 40 + 9 }, { frame 2 with isPtp := true }], (f.dest.getLsbD 40 = true ∨ f.dest = (mapGet {} s.eng.ports 2 : Port).station) ∧
      f.tags < 2 ∧ f.length ≤ 9000) ∧
    (∀ f ∈ [{ frame 2 with dest := 9 }, { frame 2 with tags := 2 }, { frame 2 with length := 9001 }],
      (f.dest.getLsbD 40 = false ∧ f.dest ≠ (mapGet {} s.eng.ports 2 : Port).station) ∨ 2 ≤ f.tags ∨ 9000 < f.length) ∧
    (∀ n < 7, (getBridle s 2 n).cfg0 = 0) ∧ currentTenant s 9 = 1 ∧ 9 ∉ s.disp.reclaims ∧ currentTenant s 8 ≠ 1 ∧ (coreEntry s 9).fenced = false ∧
    (getWin s 9 3).mode = 4 ∧ (timingClass s (getBridle s 2 7) (frame 2)).2 = false ∧
    (appendWhole (taken s) 9 3 (dwords [1, 2] ++ (recordBody (getBridle s 2 7) (frame 2)).1)).isSome = true ∧
    appendWhole (taken (setWin s 9 3 {})) 9 3 (dwords [1, 2]) = none := by decide +kernel

/-- A window with a message for time 300, in its stream's port, at, before and long after its time. -/
theorem test_meets_launches : let w : Window := { mode := 5, lsize := 12, base := 0x1000, tail := 128, fill := 128 }
    let s := { owned id with mem := putBytes [] (spadLoc 9 0x1000) (dwords [5, 300] ++ [1, 2, 3, 4, 5]),
                             eng := { windows := [(16 * 9 + 3, w)], ports := [(2, { mode := 1 })], bridles := [(2048 + 7, { cfg0 := BitVec.ofNat 64 (steering 1 1), cfg1 := 2000 })] } }
    (headMsg s 9 3).isSome = true ∧ coreDead s 9 = false ∧ 16 ≤ w.avail ∧ coreDead { s with fenceReq := [9] } 9 = true ∧
    headMsg { s with bad := [spadLoc 9 0x1000 / 8] } 9 3 = none ∧ matchOut s 9 3 = some (2, 7) ∧ matchOut { s with eng := { s.eng with bridles := [] } } 9 3 = none ∧
    (headMsg s 9 3).map (fun m => m.1) = some 300 ∧ s.time.now.toNat < 300 ∧ (mapGet {} s.eng.ports 2 : Port).mode ≠ 0 ∧
    (mapGet {} { s with eng := { s.eng with ports := [] } }.eng.ports 2 : Port).mode = 0 ∧
    (∀ b ∈ [[1, 2], List.replicate 8992 7], 8 + (egressBody (getBridle s 2 7) b).1.length ≤ 9000) ∧
    ¬ 8 + (egressBody (getBridle s 2 7) (List.replicate 8993 7)).1.length ≤ 9000 := by
  decide +kernel

/-- Time before and after its first step, disciplined ports, links and the tether. -/
theorem test_meets_time : (∀ i ∈ [Input.ptp 2 77 9, .esmc 2 77, .timeStep 88, .lock 2, .flitReplay 4, .linkRetrain 4 true, .tetherUp, .tetherDown],
      Given { owned id with inputs := [(0, i)] } i) ∧
    (owned id).time.stepped = false ∧ { owned id with disp := {} }.disp.trees = [] ∧ (owned id).disp.slots = [] ∧
    (owned id).disp.trees = [(7, some { tenant := 1, deadline := bestEffort })] ∧ (owned id).time.now.toNat < 88 ∧
    (mapGet {} (framed (frame 2) 0).eng.ports 2 : Port).mode ≠ 0 ∧ (mapGet {} (owned id).eng.ports 2 : Port).mode = 0 ∧ (owned id).time.port = 0 ∧
    (owned id).time.slew = ((0 : Nat) : Int) ∧ (owned id).time.lock = 0 ∧ ¬ (3 : BitVec 2).toNat ≤ 2 ∧ (owned id).tetherUp = false ∧
    16 < (List.replicate 17 900).length ∧ ∀ x ∈ List.replicate 17 900, (1000 : Nat) < x + 1000000 := by
  refine ⟨fun _ _ => ⟨_, _, rfl⟩, ?_⟩
  decide

/-! ### Hypotheses met: registers, commands and the service complex -/

/-- An input that comes next. -/
def given (i : Input) (f : State → State) : State := f { owned id with inputs := [(0, i)] }

/-- Queue 5 of tenant 3, whose counters wrap. -/
def wrapping : LaunchQ := { created := true, tenant := 3, size := 16, head := 0xFFFFFFFE }

theorem test_meets_doorbells :
    Given (given (.bar2 3 80 5) fun s => setQ s 5 wrapping) (.bar2 3 80 5) ∧
    (getQ (given (.bar2 3 80 5) fun s => setQ s 5 wrapping) 5) = wrapping ∧ (getQ (given (.bar2 3 80 5) id) 5).created = false ∧
    Given (given (.store (sitePointer 0 0 13 0 (BitVec.ofNat 64 (0x80000 + 16 * 5))) 5) id) (.store (sitePointer 0 0 13 0 (BitVec.ofNat 64 (0x80000 + 16 * 5))) 5) ∧
    ¬ wrapping.size < ((5 : BitVec 32) - wrapping.head).toNat ∧ wrapping.size < ((100 : BitVec 32) - wrapping.head).toNat ∧
    (∀ x ∈ [(2, 80), (3, 81), (3, 16 * 192)], x.2 % 16 ≠ 0 ∨ 192 ≤ x.2 / 16 ∨ (getQ (setQ (owned id) 5 wrapping) (x.2 / 16)).tenant ≠ x.1) :=
  ⟨⟨_, _, rfl⟩, rfl, rfl, ⟨_, _, rfl⟩, by decide, by decide, by decide⟩

/-- A function whose ring of 16 is empty, and whose error bit is set or not. -/
def ringed (tail : Nat) (err : Bool) : Fn :=
  { ring := 0x4000, order := 4, results := 0x8000, head := 2, tail := BitVec.ofNat 32 tail, resTail := 16, err := err, highest := some 4, journal := [⟨4, 9, 1, 3, 77, 78, 555⟩] }

theorem test_meets_registers : let n := ringed 2 false
    Given (given (.bar0 4 0x018 3) id) (.bar0 4 0x018 3) ∧ ¬ 2 ^ n.order < ((3 : BitVec 32) - n.head).toNat ∧
    2 ^ n.order < ((100 : BitVec 32) - n.head).toNat ∧ n.head = n.tail ∧ (ringed 3 false).head ≠ (ringed 3 false).tail ∧
    (∀ off ∈ [0x000, 0x008, 0x010, 0x030], Given (given (.bar0 4 off 0xFF) id) (.bar0 4 off 0xFF) ∧ off ≠ 0x018) :=
  ⟨⟨_, _, rfl⟩, by decide, by decide, rfl, by decide, fun off h => ⟨⟨_, _, rfl⟩, by
    rintro rfl; simp at h⟩⟩

/-- A store of the twin, over the tether that is up or down, to an idle word of a scratchpad and to one that the ring
guards. -/
theorem test_meets_twin_stores : let s := { given (.twinStore (spadLoc 9 0x88) 0 [1, 2]) id with tetherUp := true }
    let t := setWin s 9 0 { mode := 3, guard := true, lsize := 12, owner := 0, base := 0, tail := 0x100, fill := 0x100 }
    Given s (.twinStore (spadLoc 9 0x88) 0 [1, 2]) ∧ (owned id).tetherUp = false ∧ isSpad (spadLoc 9 0x88) = true ∧ isDram 0x88 = true ∧
    isDram (hostLoc 8) = false ∧ isSpad (hostLoc 8) = false ∧ (coreEntry s (spadCore (spadLoc 9 0x88))).fenced = false ∧
    (∀ i < 2, byteGuarded s (8 * 128) (spadCore (spadLoc 9 0x88)) (spadOff (spadLoc 9 0x88) + i) = false) ∧
    byteGuarded t (8 * 128) (spadCore (spadLoc 9 0x88)) (spadOff (spadLoc 9 0x88) + 1) = true ∧ isTwinSpad (spadLoc 9 0x88) = false ∧
    isTwinSpad 0x88 = false ∧ s.bad = [] ∧ Given (given (.selectPort 5) id) (.selectPort 5) ∧ Given (given (.priAllocation 9) id) (.priAllocation 9) := by
  refine ⟨⟨_, _, rfl⟩, rfl, ?_, ?_, ?_, ?_, ?_, ?_, ?_, ?_, ?_, rfl, ⟨_, _, rfl⟩, ⟨_, _, rfl⟩⟩ <;> decide +kernel

theorem test_meets_stores (i : Input) : Given (given i id) i ∧ (coreEntry (given i id) 95).fenced = false ∧ (95 : Nat) < 96 ∧ (119 : Nat) < 120 :=
  ⟨⟨_, _, rfl⟩, rfl, by decide, by decide⟩

/-- A command at the head of function 4's ring. -/
def pending (seq op bad tail : Nat) (err : Bool) : State :=
  let s := owned id;
  setFn { s with mem := putBytes s.mem (hostLoc (0x4000 + 128)) (dwords [seq * 2 ^ 32 + bad * 2 ^ 16 + op, 11, 12, 13, 14, 15, 16, 17]),
                 svc := { s.svc with events := [.command 4], boot := 5, ready := true } } 4 (ringed tail err)

/-- New, unknown, with a reserved bit, stale and known commands; none; and deferred work. -/
theorem test_meets_commands_taken : (∀ x ∈ [(5, 6, 0), (5, 0, 0), (5, 0x1C, 0), (5, 6, 1), (2, 6, 0), (4, 6, 0)], let s := pending x.1 x.2.1 x.2.2 3 false
      SvcIdle s ∧ s.inputs = [] ∧ s.svc.events = [.command 4] ∧ (getFn s 4).needTail = false ∧ (headCmd s 4).seq.toNat = x.1 ∧ (headCmd s 4).op = x.2.1 ∧
      ((headCmd s 4).bad = true ↔ x.2.2 = 1) ∧ (getFn s 4).head ≠ (getFn s 4).tail ∧
      ((getFn s 4).journal.find? fun e => e.seq = (headCmd s 4).seq).isSome = decide (x.1 = 4) ∧ (∀ h ∈ s.svc.cmds, h.cmd.fn ≠ 4) ∧
      ¬ ∀ h ∈ [(⟨3, 0, headCmd s 4⟩ : Handled)], h.cmd.fn ≠ 4) ∧
    (getFn (pending 5 6 0 2 false) 4).head = (getFn (pending 5 6 0 2 false) 4).tail ∧ (getFn (pending 5 6 0 3 true) 4).err = true := by
  unfold SvcIdle; decide +kernel

/-- Deferred work that has ended, of each kind, with nothing in the queue of events and with its event there. -/
theorem test_meets_deferred : ∀ k ∈ [DeferKind.done 8 1 2, .fence 3, .copy 6 4, .inval 1],
    let d : Deferred := ⟨4, 4, 9, 55, k⟩
    let s : State := { owned id with svc := { deferred := [d], boot := 5, ready := true } }
    SvcIdle s ∧ s.inputs = [] ∧ s.svc.deferred = d :: [] ∧ s.svc.events = [] ∧ s.svc.held = [] ∧ 3 ∉ s.fenceReq ∧
    (∀ l ∈ getLists s 6, l.serial = 4 → l.ended = true) ∧ (∀ v ∈ s.tab.invals, v.host = true ∨ v.tenant ≠ 1) ∧
    ({ s with svc := { s.svc with events := [.completion 4 4] } } : State).svc.events = .completion d.fn d.seq :: [] := by
  unfold SvcIdle; decide +kernel

/-- A command with its operands; the command in hand, of a function with an entry in its journal. -/
def cmd (op : Nat) (p : List Nat) (fn : Nat) : Command :=
  let g (i : Nat) : Dword := BitVec.ofNat 64 (p.getD i 0);
  { fn := fn, seq := 7, op := op, bad := false, p0 := g 0, p1 := g 1, p2 := g 2, p3 := g 3, p4 := g 4, p5 := g 5, p6 := g 6 }

def handed (c : Command) (f : State → State) : State :=
  let s := owned fun h => { h with core := 90 };
  f (setFn { s with svc := { s.svc with cmds := [⟨0, 0, c⟩], boot := 5, ready := true }, tab := { s.tab with tenants := [(0, { valid := true }), (1, { valid := true }), (3, { valid := true })] } }
    c.fn { ring := 0x4000, order := 4, results := 0x80000, resTail := 17, journal := [⟨3, 1, 1, 0, 5, 6, 999⟩], highest := some 3 })

/-- Every host command can be in hand, with any operands of those it lists. -/
theorem in_hand {i : Instr} {op n : Nat} {pf : Bool} {p : List Nat} (f : State → State) (hf : ∀ s, (f s).svc = s.svc)
    (h : hostCommands[op - 1]? = some (i, op, n, pf)) (hp : p.length ≤ n) : InHand i (handed (cmd op p 0) f) (cmd op p 0) := by
  refine ⟨⟨_, _, by rw [handed, hf]; rfl, rfl⟩, n, pf, List.mem_of_getElem? h, fun v hv => ?_, fun _ => rfl⟩
  have hz : ∀ j, n ≤ j → p.getD j 0 = 0 := fun j hj => by simp [List.getD, List.getElem?_eq_none (Nat.le_trans hp hj)]
  have hl : (operands (cmd op p 0)).length = 7 := rfl
  have hk : ∀ k (h : k < 7), p.getD k 0 = 0 → (operands (cmd op p 0))[k] = 0 := by
    intro k h h0
    rcases k with _ | _ | _ | _ | _ | _ | _ | k <;> first | omega | exact congrArg (BitVec.ofNat 64) h0
  obtain ⟨j, hj, rfl⟩ := List.getElem_of_mem hv
  rw [List.length_drop, hl] at hj
  rw [List.getElem_drop]
  exact hk _ (by omega) (hz _ (by omega))

/-- Commands turned away: not the physical function's, an operand that is not 0, operands out of range. -/
theorem test_meets_refusals : (cmd 3 [1] 1).fn ≠ 0 ∧ (∃ v ∈ (operands (cmd 2 [1, 1] 1)).drop 1, v ≠ 0) ∧
    First (handed (cmd 3 [1] 1) id) (cmd 3 [1] 1) := ⟨by decide, ⟨1, by decide, by decide⟩, _, _, rfl, rfl⟩

/-- QUEUE_CREATE and QUEUE_DESTROY: a queue that is free, one that is another's, one that has stopped. -/
theorem test_meets_queue_commands : let c := cmd 1 [130, 0x4000, 16, 5, 2, 0x300] 0
    InHand .queueCreate (handed c id) c ∧ InHand .queueDestroy (handed (cmd 2 [130] 0) id) (cmd 2 [130] 0) ∧
    c.p1.toNat % 64 = 0 ∧ c.p2.toNat = 2 ^ 4 ∧ c.p5.toNat / 64 % 4 = 0 ∧ 256 ≤ c.p5.toNat ∧ c.p5.toNat % 64 = c.fn ∧
    (cmd 1 [0, 0, 0, 0, 0, 0x303] 0).p5.toNat % 64 ≠ c.fn ∧
    (mapGet {} (handed c id).tab.tenants 0 : TenantEntry).valid = true ∧ (getQ (handed c id) 130).created = false ∧
    (let s := handed c fun s => setQ (setQ (setQ s 130 { created := true, tenant := 1 }) 131 { created := true, stopped := true }) 132 { created := true };
      (getQ s 130).tenant ≠ c.fn ∧ (getQ s 131).stopped = true ∧ (getQ s 132).tenant = c.fn ∧ (getQ s 132).stopped = false) := by
  refine ⟨in_hand _ (fun _ => rfl) rfl (by decide), in_hand _ (fun _ => rfl) rfl (by decide), ?_⟩
  decide +kernel

/-- TENANT_CREATE, TENANT_DESTROY and PT_ATTACH. -/
theorem test_meets_tenant_commands : let c := cmd 3 [9, 200, 2 ^ 63 + 5, 2 ^ 10 + 2 ^ 11, 0] 0
    InHand .tenantCreate (handed c id) c ∧ InHand .tenantDestroy (handed (cmd 4 [3] 0) id) (cmd 4 [3] 0) ∧
    InHand .ptAttach (handed (cmd 5 [3, 0x3000] 0) id) (cmd 5 [3, 0x3000] 0) ∧
    c.p2.toNat / 2 ^ 20 % 2 ^ 43 = 0 ∧ (mapGet {} (handed c id).tab.tenants 9 : TenantEntry).valid = false ∧
    (∀ k < 96, (2 ^ 10 + 2 ^ 11 : Nat).testBit k = true → coreIdle (handed c id) k = true) ∧
    (mapGet {} (handed c id).tab.tenants 3 : TenantEntry).valid = true ∧
    (∀ x ∈ boundJobs (handed c id), x.2.tenant ≠ 3) ∧ (∃ x ∈ boundJobs (handed c id), x.2.tenant = 1) := by
  refine ⟨in_hand _ (fun _ => rfl) rfl (by decide), in_hand _ (fun _ => rfl) rfl (by decide),
    in_hand _ (fun _ => rfl) rfl (by decide), ?_⟩
  decide +kernel

/-- LEND, RECLAIM and RECLAIM_AT: core 20 is the physical function's, core 9 tenant 1's, core 21 lent, core 22
being lent. -/
theorem test_meets_lending_commands : let g := fun s : State => { s with
        tab := { s.tab with cores := [(9, { owner := 1 }), (21, { lent := true, borrower := 1 })] }
        disp := { s.disp with lending := [(22, some { borrower := 1, time := 0, image := 0, fn := 0, seq := 2 })] } }
    let c := cmd 6 [20, 1, 0x999, 0x4000] 0
    let s := handed c g
    InHand .lend s c ∧ InHand .reclaim (handed (cmd 7 [21] 0) g) (cmd 7 [21] 0) ∧ InHand .reclaimAt (handed (cmd 8 [20, 44] 0) g) (cmd 8 [20, 44] 0) ∧
    (coreEntry s 20).owner = c.fn ∧ (coreEntry s 20).lent = false ∧ coreOpen s 20 = true ∧ 1 ≠ (coreEntry s 20).owner ∧
    (coreEntry s 9).owner ≠ c.fn ∧ (coreEntry s 21).lent = true ∧ mapGet none s.disp.lending 21 = none ∧ 21 ∉ s.disp.reclaims ∧
    (mapGet none s.disp.lending 22).isSome = true ∧ (coreEntry s 22).lent = false := by
  refine ⟨in_hand _ (fun _ => rfl) rfl (by decide), in_hand _ (fun _ => rfl) rfl (by decide),
    in_hand _ (fun _ => rfl) rfl (by decide), ?_⟩
  decide +kernel

/-- An address of core 9's scratchpad; a state with bytes at 0x100 of it. -/
def spadAddr (o : Nat) : Nat := (sitePointer 0 0 10 1 (BitVec.ofNat 64 o)).toNat

def buffered (c : Command) (bs : List Byte) : State :=
  handed c fun s => { s with mem := putBytes s.mem (spadLoc 9 0x100) bs, tab := { s.tab with cores := [] } }

theorem span_ok {r : Span} (h : (match r with | .ok _ => true | _ => false) = true) : ∃ s, r = .ok s := by
  cases r <;> simp_all

/-- Images of a slot entry, a steering entry and a key. -/
theorem test_meets_image_commands : let slot := dwords [2 ^ 63 + 2 ^ 60 + 3, 77, 100, 200, 5, 6, 0, 0] ++ record 0
    let entry := dwords [2 ^ 63 + 13 * 2 ^ 52 + 0x123 * 2 ^ 36 + 10 * 2 ^ 25 + 2 ^ 20 + 3 * 2 ^ 16, 99, 0, 0]
    let c := cmd 9 [4, spadAddr 0x100] 0; let d := cmd 0xA [2 + 7 * 2 ^ 16, spadAddr 0x100] 0; let e := cmd 0x17 [5, 3, spadAddr 0x100] 0
    InHand .slotSet (buffered c slot) c ∧ InHand .bridleSet (buffered d entry) d ∧ InHand .keySet (buffered e (record 0)) e ∧
    slot.length = 128 ∧ entry.length = 32 ∧ (record 0).length = 64 ∧
    (dw slot 0 / 2 ^ 60 % 8 ≤ 3 ∧ dw slot 0 / 2 ^ 6 % 2 ^ 54 = 0 ∧ dw slot 2 ≤ 4 * (1000000 / 2 ^ 1)) ∧
    currentTenant (buffered d entry) 9 = dw entry 0 / 2 ^ 30 % 2 ^ 6 := by
  refine ⟨in_hand _ (fun _ => rfl) rfl (by decide), in_hand _ (fun _ => rfl) rfl (by decide),
    in_hand _ (fun _ => rfl) rfl (by decide), ?_⟩
  decide +kernel

theorem test_meets_reads : let c := cmd 0xA [2 + 7 * 2 ^ 16, spadAddr 0x100] 0; let s := buffered c (dwords [1, 99, 0, 0])
    ∃ u, ReadsAt s 0 c.p1 (dwords [1, 99, 0, 0]) u ∧ u.mem = s.mem := ⟨_, ⟨_, rfl, rfl⟩, rfl⟩

/-- ALLOC, CODING_CFG, FENCE, POWER_LIMIT, PART_RESET and SIGNAL. -/
theorem test_meets_plain_commands : let a := cmd 0x18 [0, 18, 2, 3] 0; let b := cmd 0x18 [1, 382, 2, 3] 0
    let g := fun s : State => { s with tab := { s.tab with cores := [(9, { part := 4, fenced := true })] }, disp := { s.disp with counters := [(17, { owner := 0, state := .pending, count := 3 })] } }
    let p := cmd 0x12 [4] 0; let s := handed p g
    InHand .alloc (handed a id) a ∧ InHand .alloc (handed b id) b ∧ InHand .codingCfg (handed (cmd 0xF [25, 6] 0) id) (cmd 0xF [25, 6] 0) ∧
    InHand .fenceCmd (handed (cmd 0x19 [5] 0) id) (cmd 0x19 [5] 0) ∧ InHand .powerLimit (handed (cmd 0x1A [200] 0) id) (cmd 0x1A [200] 0) ∧
    InHand .partReset s p ∧ InHand .signal (handed (cmd 0xE [17, 2] 0) g) (cmd 0xE [17, 2] 0) ∧
    (∀ k < 2, (getCtr (handed a id) (18 + k)).state ≠ .pending) ∧ (getCtr (handed a id) 17).state = .pending ∧
    (∀ k < 2, (mapGet {} (handed b id).barriers (382 + k) : Barrier).count = 0) ∧
    partCores s 4 = [9] ∧ (coreEntry s 9).lent = false ∧ (coreEntry s 9).owner = 0 ∧ boundKeys s 9 = [] ∧ looseJobs s = [] ∧
    mapGet none s.disp.lending 9 = none ∧ (∀ d < 96, (coreEntry s d).lent = true → (coreEntry s d).borrower ≠ 0) ∧
    s.disp.gangs = [] ∧ s.eng.lists = [] ∧ s.eng.coding = [] ∧ (s.disp.counters.map fun x => x.1).Nodup ∧ (s.barriers.map fun x => x.1).Nodup ∧
    (getCtr s 17).owner = 0 ∧ (getCtr s 17).state = .pending ∧ 2 < (getCtr s 17).count ∧ (getCtr s 17).copy = none := by
  refine ⟨in_hand _ (fun _ => rfl) rfl (by decide), in_hand _ (fun _ => rfl) rfl (by decide),
    in_hand _ (fun _ => rfl) rfl (by decide), in_hand _ (fun _ => rfl) rfl (by decide),
    in_hand _ (fun _ => rfl) rfl (by decide), in_hand _ (fun _ => rfl) rfl (by decide),
    in_hand _ (fun _ => rfl) rfl (by decide), ?_⟩
  decide +kernel

/-- LAUNCH, GANG_LAUNCH and COPY. -/
theorem test_meets_launch_commands : let c := cmd 0xB [spadAddr 0x100] 0; let d := cmd 0xC [spadAddr 0x100, spadAddr 0x140] 0
    let e := cmd 0xD [spadAddr 0, spadAddr 0x200, 100, spadAddr 0x400] 0
    InHand .launch (buffered c (record 0)) c ∧ InHand .gangLaunch (buffered d (record 0)) d ∧ InHand .copy (buffered e []) e ∧
    c.p0.toNat % 64 = 0 ∧ (parseRec (natOfBytes (record 0))).malformed false = false ∧ d.p1.toNat % 16 = 0 ∧
    (∀ k < 96, currentTenant (buffered d (record 0)) k = d.fn) ∧ e.p3.toNat % 32 = 0 ∧ e.p3 ≠ 0 ∧ e.p0.toNat.testBit 54 = false ∧
    (copySpool (buffered e []) 0 e.p0).1 = some 0 := by
  refine ⟨in_hand _ (fun _ => rfl) rfl (by decide), in_hand _ (fun _ => rfl) rfl (by decide),
    in_hand _ (fun _ => rfl) rfl (by decide), ?_⟩
  decide +kernel

/-- A debug session on partition 6, and a hart of it in any stage. -/
def debugged (st : Stage) (c : Command) : State :=
  handed c fun s => { s with hart := { s.hart with core := 9, hid := 2, stage := st, debugHeld := st == .halted }, tab := { s.tab with cores := [(9, { part := 6 })] }, svc := { s.svc with sessions := [6] } }

theorem test_meets_debug_commands : (∀ st ∈ [Stage.running, .halted, .free, .service], let c := cmd 0x14 [9 + 2 * 256] 0; let s := debugged st c
      (getHart s (8 * 9 + 2)).stage = st ∧ (coreEntry s 9).part ∈ s.svc.sessions ∧ s.hart.key = 8 * 9 + 2 ∧ s.svc.cmds = [⟨0, 0, c⟩] ∧
      s.hart.queue = [] ∧ s.hart.pend = [] ∧ s.hart.posted = [] ∧ s.hart.x.half = false ∧ s.hart.block = .none ∧ s.others = []) ∧
    (coreEntry (handed (cmd 0x14 [9] 0) id) 9).part ∉ (handed (cmd 0x14 [9] 0) id).svc.sessions ∧
    InHand .debugSession (handed (cmd 0x13 [4, 1] 0) id) (cmd 0x13 [4, 1] 0) ∧ (∀ k ∈ hartKeys (handed (cmd 0x13 [4, 0] 0) id), (getHart (handed (cmd 0x13 [4, 0] 0) id) k).debugHeld = false) := by
  refine ⟨by decide +kernel, by decide +kernel, in_hand _ (fun _ => rfl) rfl (by decide), by decide +kernel⟩

theorem test_meets_debug_read : ∃ u, spanCheck (debugged .halted (cmd 0x15 [9 + 2 * 256, spadAddr 0x1000] 0)) 0 (BitVec.ofNat 64 (spadAddr 0x1000)) (5120 + 2560 * 8) .write = .ok u :=
  span_ok (by decide +kernel)

/-- TELEMETRY, ATTEST and QUERY_RESULT. -/
theorem test_meets_report_commands : let c := cmd 0x10 [spadAddr 0x1000, 1, 5] 0; let s := telemetry (telemetry (telemetry (handed c id) 1 2 3) 4 5 6) 7 8 9
    InHand .telemetry (handed c id) c ∧ InHand .attest (handed (cmd 0x11 [spadAddr 0x100, spadAddr 0x1000, 2592, 1] 0) id) (cmd 0x11 [spadAddr 0x100, spadAddr 0x1000, 2592, 1] 0) ∧
    InHand .queryResult (handed (cmd 0x1B [3] 0) id) (cmd 0x1B [3] 0) ∧
    c.p1.toNat ≤ s.svc.claim.toNat ∧ s.svc.claim.toNat ≤ c.p1.toNat + 4096 ∧ c.p1.toNat + 2 = s.svc.claim.toNat ∧
    (∀ k < 2, natOfBytes (((getBytes s.mem (ringLoc (32 * ((1 + k) % 4096))) 32).drop 24).take 4) = (1 + k + 1) % 2 ^ 32) ∧
    ((getFn (handed (cmd 0x1B [3] 0) id) 0).journal.find? fun e => e.seq.toNat = 3) = some ⟨3, 1, 1, 0, 5, 6, 999⟩ ∧
    ((getFn (handed (cmd 0x1B [3] 0) id) 0).journal.find? fun e => e.seq.toNat = 2) = none := by
  refine ⟨in_hand _ (fun _ => rfl) rfl (by decide), in_hand _ (fun _ => rfl) rfl (by decide),
    in_hand _ (fun _ => rfl) rfl (by decide), ?_⟩
  decide +kernel

theorem test_meets_report_buffers : (∃ u, spanCheck (handed (cmd 0x10 [] 0) id) 0 (BitVec.ofNat 64 (spadAddr 0x1000)) 64 .write = .ok u) ∧
    ∃ w, spanCheck (handed (cmd 0x11 [] 0) id) 0 (BitVec.ofNat 64 (spadAddr 0x1000)) 2592 .write = .ok w :=
  ⟨span_ok (by decide +kernel), span_ok (by decide +kernel)⟩

/-- The oldest trap, of a cause and a value, of a job whose tree lives or was abandoned. -/
def trapped (cause tval : Nat) (ab : Bool) : State :=
  let s := tabled (owned fun h => { h with stage := .service, job := { h.job with held := true, pages := [⟨0x300000, 0, 0⟩, ⟨0x301000, 0, 0⟩] } });
  let s := { s with svc := { s.svc with events := [.trap s.hart.job.job], boot := 5, ready := true }, disp := { s.disp with trees := [(7, some { tenant := 1, deadline := 0x99999, abandoned := ab })] } };
  savePut (savePut s s.hart.job.pages 0x400 (bytesOfNat 8 (0x10000 + cause * 256))) s.hart.job.pages 0x410 (bytesOfNat 8 tval)

theorem test_meets_traps_served : ∀ x ∈ [(8, 0), (8, 1), (8, 2), (8, 3), (8, 4), (2, 9)], ∀ ab ∈ [false, true], let s := trapped x.1 x.2 ab
    TrapOf s s.hart.job [] x.1 x.2 ∧ treeAbandoned s s.hart.job.tree = ab ∧ s.hart.job.page = [] := by
  unfold TrapOf SvcIdle; decide +kernel

/-- A trap at a page that is asked for, whose response is outstanding, is on its way or has come, or that is
asked for no longer. -/
theorem test_meets_page_traps : let s := trapped 0x15 0x4008 false
    let p : PageWait := { id := 6, va := 0x4000, kind := .write }
    let t := withHart { s with tab := { s.tab with pri := [⟨0, 0x4000, .write, 6⟩] } } fun h => { h with job := { h.job with page := [p] } }
    TrapOf t t.hart.job [] 0x15 0x4008 ∧ (t.hart.job.page.filter fun p => p.va = 0x4008 / 4096 * 4096).getLast? = some p ∧
    p.code = none ∧ (t.tab.pri.map fun q => q.id) = [p.id] ∧ SvcEvent.prg p.id 0 ∈ [SvcEvent.prg 6 0] ++ t.svc.held ∧
    (¬ ∃ q ∈ s.tab.pri, q.id = p.id) ∧ { p with code := some 0 }.code = some 0 := by
  unfold TrapOf SvcIdle; decide +kernel

/-- The timers, hangs and restarts of the service complex, and ballast's turn at a function's ring. -/
theorem test_meets_restarts : let c := cmd 3 [1] 1; let s := given (.hang 3) fun s => { s with svc := { s.svc with cmds := [⟨3, 0, c⟩] } }
    let r (op : Nat) := let s := pending 5 op 0 3 false; { s with svc := { s.svc with restarting := true, ballastTurn := 4 } }
    Given s (.hang 3) ∧ s.svc.restarting = false ∧ s.svc.cmds = [⟨3, 0, c⟩] ∧ (given (.hang 3) id).svc.cmds = [] ∧
    (r 0xB).svc.restarting = true ∧ (r 0xB).svc.cmds = [] ∧ (getFn (r 0xB) 4).head ≠ (getFn (r 0xB) 4).tail ∧ (getFn (r 0xB) 4).err = false ∧
    (getFn (r 0xB) 4).needTail = false ∧ (getFn (r 0xB) 4).halted = false ∧
    (headCmd (r 0xB) 4).op ∈ [0x0B, 0x0C, 0x0E] ∧ (headCmd (r 0xD) 4).op ∉ [0x0B, 0x0C, 0x0E] ∧
    Given (given .serviceRestart id) .serviceRestart ∧ (r 0xB).svc.restartDue = false ∧ (r 0xB).inputs = [] ∧
    { (r 0xB) with svc := { (r 0xB).svc with cmds := [⟨12, 0, c⟩] } }.svc.cmds ≠ [] ∧
    { (r 0xB) with svc := { (r 0xB).svc with restartDue := true } }.svc.restartDue = true ∧ Given (given .firmwareTimer id) .firmwareTimer := by
  refine ⟨⟨_, _, rfl⟩, rfl, rfl, rfl, rfl, rfl, by decide, rfl, rfl, rfl, by decide +kernel, by decide +kernel, ⟨_, _, rfl⟩, rfl, rfl, nofun, rfl, ⟨_, _, rfl⟩⟩

/-- A command that has been in hand for 2 ms, and for less; the event of the timer; the steps of the bring-up. -/
theorem test_meets_watchdog : let s (t : Nat) : State := { owned id with time := { now := BitVec.ofNat 64 t }, svc := { cmds := [⟨2, 5, cmd 3 [1] 1⟩], boot := 5 } }
    5 + 2000000 ≤ (s 2000005).time.now.toNat ∧ (s 9).inputs = [] ∧ (s 9).svc.restarting = false ∧
    (∀ x ∈ (s 9).svc.cmds, (s 9).time.now.toNat < x.since + 2000000) ∧
    SvcIdle { owned id with svc := { events := [.timer], boot := 3 } } ∧ ¬ SvcIdle { owned id with svc := { boot := 2 } } ∧
    ¬ Given State.reset .powerOn ∧ InPlace State.reset 96 0 := by
  refine ⟨by decide, rfl, rfl, by decide, ?_, ?_, (fun ⟨_, _, h⟩ => nomatch h), rfl, rfl⟩
  · unfold SvcIdle; decide
  · unfold SvcIdle; decide

/-- Sensors above and below the limits; a power reading; the resets. -/
theorem test_meets_power : let s := given (.power 301) fun s => { s with svc := { s.svc with sensors := [(4, 1760), (9, 2000)], powerStep := 3 } }
    let t := given .powerOn fun s => { s with svc := { s.svc with trip := true, sensors := [(4, 1500), (9, 1599)] } }
    Given s (.power 301) ∧ s.svc.powerStep ≤ 15 ∧ s.svc.trip = false ∧ 1760 ≤ (mapGet 0 s.svc.sensors 4 : Dword).toInt ∧
    (∀ m < 4, (mapGet 0 s.svc.sensors m : Dword).toInt < 1760) ∧ t.svc.trip = true ∧ (∀ n < 120, (mapGet 0 t.svc.sensors n : Dword).toInt < 1600) ∧
    Given t .powerOn ∧ Given (given .deviceReset id) .deviceReset := by
  refine ⟨⟨_, _, rfl⟩, by decide, rfl, by decide, by decide, rfl, by decide +kernel, ⟨_, _, rfl⟩, ⟨_, _, rfl⟩⟩

/-! ### Hypotheses met: the machine as a whole -/

/-- The hart in focus at 0x100 or 0x104 of its page, with a bundle there. -/
def issuing (pc : Nat) (b : List Nat) : State :=
  let s := owned fun h => { h with pc := BitVec.ofNat 48 pc, ranSince := true, convoy := { fresh := false, count := 1 } };
  { s with turn := .hart, mem := putBytes s.mem 0x200100 (b.flatMap fun x => bytesOfNat 4 x),
           tab := { s.tab with coreTlb := [(5, [{ page with tenant := 1, leaf := 0x2000FD }])] } }

/-- A single bundle, its second word, an illegal word, and a pair whose instructions both run. -/
theorem test_meets_issue : (∀ s ∈ [issuing 0x100 [0x03295678, 0x291C7100], issuing 0x104 [0x03295678, 0x03295678], issuing 0x100 [0x00300001, 0]],
      s.turn = .hart ∧ canIssue s = true ∧ s.hart.core < 96) ∧
    decodeWord 0x03295678 = .ok (.addi 5 5 0x1678) ∧ (decodeWord 0x00300001).toOption = none := by
  refine ⟨by decide +kernel, by decide, by decide⟩

theorem test_meets_fetch : let s := issuing 0x100 [0x03295678 + 2 ^ 31, 0x291C7100]
    (∃ b s1, fetchBundle s (s.hart.pc &&& ~~~(7 : BitVec 48)) = .ok b s1) ∧ decodeWord 0x291C7100 = .ok (.vfadd 7 7 4 0) ∧
    (0x03295678 / 2 ^ 24 % 64 < 32) ∧ 32 ≤ 0x291C7100 / 2 ^ 24 % 64 := ⟨⟨_, _, rfl⟩, by decide, by decide, by decide⟩

/-- Bundles that are ill-formed: bit 63, a word of the wrong pipe, two words with one destination; and words of pairs
that trap: illegal ones, and one that may not be paired. -/
theorem test_meets_bundles : (∀ b ∈ [[0x03295678, 0x291C7100 + 2 ^ 31], [0x03295678 + 2 ^ 31, 0x03295678], [0x291C7100 + 2 ^ 31, 0x291C7100],
      [0x03295678 + 2 ^ 31, 0x291C7100 + 2 ^ 30], [0x00300001 + 2 ^ 31, 0x291C7100], [0x03295678 + 2 ^ 31, 0x3F000000]],
      let s := issuing 0x100 b; (match fetchBundle s (s.hart.pc &&& ~~~(7 : BitVec 48)) with
        | .ok w _ => some w.toNat
        | _ => none) = some (b.getD 0 0 + b.getD 1 0 * 2 ^ 32)) ∧
    (0x03295678 / 2 ^ 24 % 64 < 32 ∧ 32 ≤ 0x291C7100 / 2 ^ 24 % 64) ∧ (BitVec.ofNat 64 ((0x291C7100 + 2 ^ 30) * 2 ^ 32)).getLsbD 62 = true ∧
    (Instr.addi 5 5 0x1678).scalarDest = 5 ∧ (Instr.vredsum 5 2 3 0).scalarDest = 5 ∧
    (decodeWord 0x00300001).toOption = none ∧ (decodeWord 0x3F000000).toOption = none ∧ (Instr.exitJob 0).standsAlone = true := by
  refine ⟨?_, ?_, ?_, ?_, ?_, ?_, ?_, ?_⟩ <;> decide +kernel

/-- Vector instructions that name the tile, whose type or groups `vtype` does not allow, and that a convoy excludes. -/
theorem test_meets_checks : let s (typ grp : Nat) (m : Bool) (c : Convoy) := vec typ grp 8 fun h => { h with mmode := m, mview := m, convoy := c }
    let tile (t : State) (v : BitVec 6) : Prop := t.hart.mview = true ∧ 48 < v.toNat + groupNow t
    let file (t : State) (v : BitVec 6) : Prop := groupNow t ≤ 8 ∧ v.toNat % groupNow t = 0 ∧ v.toNat + groupNow t ≤ 64
    (tile (s 1 0 true {}) 50 ∧ ¬ tile (s 1 0 true {}) 5 ∧ ¬ tile (s 1 0 false {}) 50) ∧
    (typeNow (s 1 0 false {}) < 8 ∧ ¬ typeNow (s 9 0 false {}) < 8 ∧ (8 ≤ typeNow (s 9 0 false {}) ∧ typeNow (s 9 0 false {}) ≤ 0xB)) ∧
    (file (s 1 1 false {}) 6 ∧ ¬ file (s 1 1 false {}) 7) ∧
    (¬ MayJoin (.vadd 6 8 10 0) (s 1 1 false { count := 4, fresh := false })) ∧ (s 1 0 true {}).hart.mview = true ∧ (s 1 0 false {}).hart.mview = false := by
  unfold MayJoin; decide

/-- A well-formed instruction with its word; memory in its canonical form, and a write to it. -/
theorem test_meets_round_trip : (Instr.addi 5 5 0x1678).wf = true ∧ encodeNat (.addi 5 5 0x1678) = some 0x03295678 ∧
    memWf (owned id).mem = true ∧ (writeLoc (owned id) 0 0x201000 [1, 0, 2]).isSome = true := by
  refine ⟨by decide, by decide, by decide +kernel, by decide +kernel⟩

/-! ### Single steps, with results worked out in the specification -/

/-- R122: `add` wraps around at 64 bits, and s0 stays 0. -/
theorem test_add_wraps : read (.add 3 1 2) (bare fun h => { h with s := [(1, 0xFFFFFFFFFFFFFFFF), (2, 5)] }) (fun t => rdS t 3) = some 4 ∧
    read (.add 0 1 2) (bare fun h => { h with s := [(1, 1), (2, 5)] }) (fun t => rdS t 0) = some 0 := by decide

/-- R124: `sltin s3, s4, -1` gives 1 for every a except all ones. -/
theorem test_sltin : read (.sltin 3 4 0x3FFF) (bare fun h => { h with s := [(4, 7)] }) (fun t => rdS t 3) = some 1 ∧
    read (.sltin 3 4 0x3FFF) (bare fun h => { h with s := [(4, 0xFFFFFFFFFFFFFFFF)] }) (fun t => rdS t 3) = some 0 := by decide

/-- R125: the constant 0x1234_5678 of the two-word example. -/
theorem test_lui_addi : read (.lui 5 37282) (bare id) (fun t => rdS t 5) = some 0x12344000 ∧
    read (.addi 5 5 0x1678) (bare fun h => { h with s := [(5, 0x12344000)] }) (fun t => rdS t 5) = some 0x12345678 := by decide

/-- R122, R129: division by zero and of the most negative number by -1. -/
theorem test_division_corners : read (.div 3 1 2) (bare fun h => { h with s := [(1, 9)] }) (fun t => rdS t 3) = some 0xFFFFFFFFFFFFFFFF ∧
    read (.div 3 1 2) (bare fun h => { h with s := [(1, 0x8000000000000000), (2, 0xFFFFFFFFFFFFFFFF)] }) (fun t => rdS t 3) = some 0x8000000000000000 := by
  decide

/-- The example of the return stack: call 17 spills to 0x7_F000, call 21 overflows at the call with its return
address. -/
theorem test_call_spills : read (.call 2) (stacked 0 4 0x7F000) (fun t => (t.hart.spilled, t.hart.rs.length, t.hart.x.trap)) = some (1, 16, none) := by
  decide

theorem test_call_overflows : read (.call 2) (let s := stacked 4 4 0x7F000; withHart s fun h =>
      { h with x := { iaddr := 0x102208 }, tr := { tvec := 0x8000, tenab := 0x3F } })
    (fun t => (t.hart.pc, t.hart.tr.xpc, t.hart.tr.tval, t.hart.spilled)) = some (0x8000, 0x102208, 0x102210, 4) := by decide +kernel

/-- R192 with R191's example: `vnclip.i16` of 4,660.5, a saturated value and -1.5. -/
theorem test_vnclip : read (.vnclip 8 10 12 0) (vec 0x01 0 3 fun h => { h with v := [(10, 0xFFFFFFE87FFF000000012348), (12, 0x000400080004)] })
    (fun t => (List.range 3).map (getElem t.hart 8 16)) = some [0x1234, 0x7FFF, 0xFFFE] := by decide +kernel

/-- R89's worked product, `vcmul.ci16`. -/
theorem test_vcmul_ci16 : read (.vcmul 3 1 2 0) (vec 0x13 0 1 fun h => { h with v := [(1, 0x00038000), (2, 0x40008000)] })
    (fun t => getElem t.hart 3 32 0) = some 0xBFFD7FFE := by decide +kernel

/-- The ci16 butterfly of one row of two columns. -/
theorem test_vbfly_ci16 : read (.vbfly 6 4 5 0) (vec 0x13 0 2 fun h => { h with v := [(4, 0x2000200000004000), (5, 0x80000000)] })
    (fun t => (List.range 2).map (getElem t.hart 6 32)) = some [0xF0003000, 0x10001000] := by decide +kernel

/-- The tree of `vfredsum.f32` over five elements: 2.0 and nx. -/
theorem test_vfredsum_tree : read (.vfredsum 6 2 5 0)
    (vec 0x09 0 5 fun h => { h with v := [(2, 0x3F800000CB8000003F8000004B8000003F800000)] }) (fun t => (rdS t 6, fcsrNow t)) =
    some (0x40000000, 256) := by decide +kernel

/-- `vfcvt.rtz.i32.f32`: 3.99, -3.99 and 3.0 × 10^9. -/
theorem test_vfcvt_rtz : read (.vfcvtRtz 5 3 2 0) (vec 0x09 0 3 fun h => { h with v := [(3, 0x4F32D05EC07F5C29407F5C29)] })
    (fun t => (List.range 3).map (getElem t.hart 5 32)) = some [3, 0xFFFFFFFD, 0x7FFFFFFF] := by decide +kernel

/-- R261's example: the home of 0x12_3456_7800 is slice 1. -/
theorem test_home_slice : homeSlice 0x1234567800 = 1 := by decide

/-- The worked walk: the first write sets dirty in the leaf, and the store goes to 0x12_3456_7800. -/
theorem test_worked_walk : let s := walked 0x1400001234567055 id
    (match walkNow s 5 0x40001000 .write with
      | .entry x t => some ((x.place t 0x40001800).1, readNat t 0 0x13008 8, x.wr)
      | _ => none) = some (0x1234567800, some 0x1400001234567075, true) ∧
    walkNow (walked 0x1800001234567055 id) 5 0x40001000 .write = .fault 0x14 := by decide +kernel

end Sys2Proof.Tests
end

section
/-! SUPPORT. What memory reads after a write: the sparse list of cells, the bytes of a number, and the bytes of
an enciphered block. -/

namespace Sys2Proof.Proofs

open Sys2Proof.Machine Sys2Proof.Laws

/-! ### Sparse tables joined and filtered -/

theorem mapGet_append_right {α : Type} (d : α) {m n : SMap α} {k : Nat} (h : ∀ p ∈ m, p.1 ≠ k) :
    mapGet d (m ++ n) k = mapGet d n k := by
  induction m with
  | nil => rfl
  | cons p t ih =>
    have ht := ih fun q hq => h q (by simp [hq])
    simpa [mapGet, h p (by simp)] using ht

theorem mapGet_absent {α : Type} (d : α) {m : SMap α} {k : Nat} (h : ∀ p ∈ m, p.1 ≠ k) : mapGet d m k = d := by
  simpa [mapGet] using mapGet_append_right (n := []) d h

theorem mapGet_append_left {α : Type} (d : α) {m n : SMap α} {k : Nat} (h : ∀ p ∈ n, p.1 ≠ k) :
    mapGet d (m ++ n) k = mapGet d m k := by
  induction m with
  | nil => exact mapGet_absent d h
  | cons p t ih => simp [mapGet, ih]

/-- A table of which the entries of some keys are kept, read at one of these. -/
theorem mapGet_filter {α : Type} (d : α) (m : SMap α) (f : Nat → Bool) {k : Nat} (h : f k = true) :
    mapGet d (m.filter fun p => f p.1) k = mapGet d m k := by
  induction m with
  | nil => rfl
  | cons p t ih =>
    by_cases hp : p.1 = k
    · simp [mapGet, hp, h]
    · cases hf : f p.1 <;> simp [hf, mapGet, hp, ih]

/-! ### Bytes written and read back -/

/-- The cells of a run hold its bytes. -/
theorem mapGet_cellsOf (l : Nat) (bs : List Byte) {a : Nat} (h1 : l ≤ a) (h2 : a < l + bs.length) :
    mapGet (emptyByte a) (cellsOf l bs) a = bs.getD (a - l) 0 := by
  induction bs generalizing l with
  | nil => simp at h2; omega
  | cons b t ih =>
    rw [List.length_cons] at h2
    rcases Nat.eq_or_lt_of_le h1 with rfl | hlt
    · have gone : ∀ p ∈ cellsOf (l + 1) t, p.1 ≠ l := fun p hp => by have := (mem_cellsOf hp).1; omega
      by_cases hb : b = emptyByte l
      · simp [cellsOf, hb, mapGet_absent _ gone]
      · simp [cellsOf, hb, mapGet]
    · have rest := ih (l + 1) hlt (by omega)
      have index : a - l = a - (l + 1) + 1 := by omega
      by_cases hb : b = emptyByte l
      · simpa [cellsOf, hb, index] using rest
      · simpa [cellsOf, hb, mapGet, Nat.ne_of_lt hlt, index] using rest

/-- A byte of memory after a run of bytes is written. -/
theorem memByte_putBytes (m : List Host.Cell) (l : Nat) (bs : List Byte) (a : Nat) :
    memByte (putBytes m l bs) a = if l ≤ a ∧ a < l + bs.length then bs.getD (a - l) 0 else memByte m a := by
  have low : l ≤ a → ∀ p ∈ m.filter (fun p => p.1 < l), p.1 ≠ a := fun h p hp => by
    have := of_decide_eq_true (List.mem_filter.1 hp).2; omega
  have high : a < l + bs.length → ∀ p ∈ m.filter (fun p => l + bs.length ≤ p.1), p.1 ≠ a := fun h p hp => by
    have := of_decide_eq_true (List.mem_filter.1 hp).2; omega
  have mid : a < l ∨ l + bs.length ≤ a → ∀ p ∈ cellsOf l bs, p.1 ≠ a := fun h p hp => by
    have := mem_cellsOf hp; omega
  unfold memByte putBytes
  split
  case isTrue h => rw [mapGet_append_left _ (high h.2), mapGet_append_right _ (low h.1), mapGet_cellsOf l bs h.1 h.2]
  case isFalse h =>
    rcases Nat.lt_or_ge a l with ha | ha
    · rw [mapGet_append_left _ (high (by omega)), mapGet_append_left _ (mid (.inl ha)),
        mapGet_filter _ m (fun k => k < l) (by simpa using ha)]
    · have past : l + bs.length ≤ a := by omega
      rw [List.append_assoc, mapGet_append_right _ (low ha), mapGet_append_right _ (mid (.inr past)),
        mapGet_filter _ m (fun k => l + bs.length ≤ k) (by simpa using past)]

theorem memByte_putBytes_at (m : List Host.Cell) (l : Nat) (bs : List Byte) {i : Nat} (h : i < bs.length) :
    memByte (putBytes m l bs) (l + i) = bs.getD i 0 := by
  rw [memByte_putBytes, if_pos (by omega), Nat.add_sub_cancel_left]

theorem memByte_putBytes_other (m : List Host.Cell) {l : Nat} {bs : List Byte} {a : Nat}
    (h : ¬ (l ≤ a ∧ a < l + bs.length)) : memByte (putBytes m l bs) a = memByte m a := by
  rw [memByte_putBytes, if_neg h]

/-- The first bytes of a list are those its default lookup gives. -/
theorem map_getD_range (bs : List Byte) : (List.range bs.length).map (fun i => bs.getD i 0) = bs := by
  apply List.ext_getElem <;> simp +contextual

/-- A part of a run of bytes read back. -/
theorem getBytes_putBytes_part (m : List Host.Cell) (l : Nat) (bs : List Byte) {k n : Nat} (h : k + n ≤ bs.length) :
    getBytes (putBytes m l bs) (l + k) n = (bs.drop k).take n := by
  have length : ((bs.drop k).take n).length = n := by simp; omega
  rw [← map_getD_range ((bs.drop k).take n), length]
  refine List.map_congr_left fun i hi => ?_
  have hi := List.mem_range.1 hi
  rw [Nat.add_assoc, memByte_putBytes_at _ _ _ (by omega)]
  simp [hi]

theorem getBytes_putBytes (m : List Host.Cell) (l : Nat) (bs : List Byte) :
    getBytes (putBytes m l bs) l bs.length = bs := by
  simpa using getBytes_putBytes_part m l bs (k := 0) (n := bs.length) (by omega)

/-! ### Numbers as little-endian bytes (R4) -/

theorem natOfBytes_cons (b : Byte) (bs : List Byte) : natOfBytes (b :: bs) = b.toNat + 256 * natOfBytes bs := rfl

theorem natOfBytes_lt (bs : List Byte) : natOfBytes bs < 256 ^ bs.length := by
  induction bs with
  | nil => decide
  | cons b t ih =>
    have := b.isLt
    rw [natOfBytes_cons, List.length_cons, pow_succ]
    omega

/-- A byte of the number that bytes make. -/
theorem natOfBytes_byte (bs : List Byte) (i : Nat) : natOfBytes bs / 256 ^ i % 256 = (bs.getD i 0).toNat := by
  induction bs generalizing i with
  | nil => simp [natOfBytes]
  | cons b t ih =>
    have hb := b.isLt
    rw [natOfBytes_cons]
    cases i with
    | zero => simp; omega
    | succ i =>
      have tail : (b.toNat + 256 * natOfBytes t) / 256 = natOfBytes t := by omega
      rw [pow_succ', ← Nat.div_div_eq_div_mul, tail, ih i, List.getD_cons_succ]

theorem bytesOfNat_succ (n x : Nat) : bytesOfNat (n + 1) x = BitVec.ofNat 8 x :: bytesOfNat n (x / 256) := by
  simp only [bytesOfNat, List.range_succ_eq_map, List.map_cons, List.map_map, pow_zero, Nat.div_one]
  refine congrArg _ (List.map_congr_left fun i _ => ?_)
  simp [pow_succ', Nat.div_div_eq_div_mul]

@[simp] theorem bytesOfNat_length (n x : Nat) : (bytesOfNat n x).length = n := by simp [bytesOfNat]

/-- The bytes of a number make it again, up to their count. -/
theorem natOfBytes_bytesOfNat (n x : Nat) : natOfBytes (bytesOfNat n x) = x % 256 ^ n := by
  induction n generalizing x with
  | zero => simp [bytesOfNat, natOfBytes, Nat.mod_one]
  | succ n ih =>
    rw [bytesOfNat_succ, natOfBytes_cons, ih, pow_succ', Nat.mod_mul]
    simp

/-- Some of the bytes of a number make its middle. -/
theorem natOfBytes_part (n x : Nat) {k m : Nat} (h : k + m ≤ n) :
    natOfBytes (((bytesOfNat n x).drop k).take m) = x / 256 ^ k % 256 ^ m := by
  have part : ((bytesOfNat n x).drop k).take m = bytesOfNat m (x / 256 ^ k) := by
    refine List.ext_getElem (by simp; omega) fun i h1 h2 => ?_
    simp [bytesOfNat, Nat.div_div_eq_div_mul, pow_add]
  rw [part, natOfBytes_bytesOfNat]

/-- The bytes of some dwords, from one of these on. -/
theorem drop_flatMap_bytes (xs : List Nat) (j : Nat) :
    (xs.flatMap (bytesOfNat 8)).drop (8 * j) = (xs.drop j).flatMap (bytesOfNat 8) := by
  induction j generalizing xs with
  | zero => rfl
  | succ j ih =>
    cases xs with
    | nil => simp
    | cons x xs =>
      have skip := List.drop_length_add_append (l₁ := bytesOfNat 8 x) (l₂ := xs.flatMap (bytesOfNat 8)) (i := 8 * j)
      rw [bytesOfNat_length] at skip
      rw [List.flatMap_cons, Nat.mul_succ, Nat.add_comm, skip, ih, List.drop_succ_cons]

/-- A part of a dword read back, of a run of dwords written. -/
theorem natOfBytes_getBytes_dwords (m : List Host.Cell) (l : Nat) {xs : List Nat} {j k n : Nat} (hj : j < xs.length)
    (h : k + n ≤ 8) : natOfBytes (getBytes (putBytes m l (xs.flatMap (bytesOfNat 8))) (l + (8 * j + k)) n) =
      xs[j] / 256 ^ k % 256 ^ n := by
  have whole : (xs.flatMap (bytesOfNat 8)).length = 8 * xs.length := by simp [List.length_flatMap, Nat.mul_comm]
  have part : ((xs.flatMap (bytesOfNat 8)).drop (8 * j + k)).take n = ((bytesOfNat 8 xs[j]).drop k).take n := by
    rw [← List.drop_drop, drop_flatMap_bytes, List.drop_eq_getElem_cons hj, List.flatMap_cons,
      List.drop_append_of_le_length (by rw [bytesOfNat_length]; omega),
      List.take_append_of_le_length (by rw [List.length_drop, bytesOfNat_length]; omega)]
  rw [getBytes_putBytes_part _ _ _ (by omega), part, natOfBytes_part 8 _ h]

/-! ### Enciphered blocks (R418) -/

/-- A block is its bytes. -/
theorem block_ext {x y : BitVec 128} (h : ∀ j < 16, blockByte x j = blockByte y j) : x = y := by
  refine BitVec.eq_of_getLsbD_eq fun i hi => ?_
  have bit := congrArg (fun b : Byte => b.getLsbD (i % 8)) (h (i / 8) (by omega))
  have place : 8 * (i / 8 % 16) + i % 8 = i := by omega
  simpa [blockByte, place, Nat.mod_lt] using bit

theorem blockByte_mod (x : BitVec 128) (l : Nat) : blockByte x (l % 16) = blockByte x l := by simp [blockByte]

/-- A byte of the block that bytes make. -/
theorem blockByte_natOfBytes {bs : List Byte} (h : bs.length = 16) (l : Nat) :
    blockByte (BitVec.ofNat 128 (natOfBytes bs)) l = bs.getD (l % 16) 0 := by
  have small : natOfBytes bs < 2 ^ 128 := by have := natOfBytes_lt bs; rw [h] at this; omega
  refine BitVec.eq_of_toNat_eq ?_
  rw [← natOfBytes_byte, blockByte, BitVec.extractLsb'_toNat, BitVec.toNat_ofNat, Nat.mod_eq_of_lt small,
    Nat.shiftRight_eq_div_pow, pow_mul]
  rfl

/-- A byte of the block that 16 values make. -/
theorem blockByte_map (f : Nat → Byte) (l : Nat) :
    blockByte (BitVec.ofNat 128 (natOfBytes ((List.range 16).map f))) l = f (l % 16) := by
  rw [blockByte_natOfBytes (by simp)]
  simp [Nat.mod_lt]

theorem blockByte_storedBlock (s : State) (l : Nat) : blockByte (storedBlock s l) l = memByte s.mem l := by
  rw [storedBlock, getBytes, blockByte_map, Nat.div_add_mod']

/-- The block that stands in memory, where its bytes are known. -/
theorem storedBlock_eq {s : State} {a : Nat} {x : BitVec 128}
    (h : ∀ b, b / 16 = a / 16 → memByte s.mem b = blockByte x b) : storedBlock s a = x := by
  refine block_ext fun j hj => ?_
  rw [storedBlock, getBytes, blockByte_map, h _ (by omega), ← blockByte_mod]
  congr 1
  omega

/-- The block of 16 values that are the bytes of a block. -/
theorem ofBytes_blockByte {f : Nat → Byte} {a : Nat} {x : BitVec 128} (h : ∀ b, b / 16 = a / 16 → f b = blockByte x b) :
    BitVec.ofNat 128 (natOfBytes ((List.range 16).map fun j => f (a / 16 * 16 + j))) = x := by
  refine block_ext fun j hj => ?_
  rw [blockByte_map, h _ (by omega), ← blockByte_mod]
  congr 1
  omega

/-- A location and another of its block stand both in device memory or neither. -/
theorem isDram_block {a b : Nat} (h : b / 16 = a / 16) : isDram b = isDram a := by
  have iff : b < dramSize ↔ a < dramSize := by unfold dramSize; omega
  simpa [isDram] using iff

/-- Without a key, or outside device memory, bytes are seen as they are stored. -/
theorem plainByte_plain {s : State} {t a : Nat} (h : t = 0 ∨ isDram a = false) : plainByte s t a = memByte s.mem a := by
  rcases h with h | h <;> simp [plainByte, h]

theorem plainByte_keyed {s : State} {t a : Nat} (ht : t ≠ 0) (ha : isDram a = true) :
    plainByte s t a = blockByte ((Config.cipher t (a / 16)).symm (storedBlock s a)) a := by
  simp [plainByte, ht, ha]

/-- A block whose stored bytes stay is seen as before, under every key. -/
theorem plainByte_congr {s u : State} {a : Nat} (h : ∀ b, b / 16 = a / 16 → memByte u.mem b = memByte s.mem b)
    (t : Nat) : plainByte u t a = plainByte s t a := by
  have block : storedBlock u a = storedBlock s a := storedBlock_eq fun b hb => by
    rw [h b hb, ← blockByte_storedBlock, storedBlock, storedBlock, hb]
  simp only [plainByte, block, h a rfl]

/-! ### A write under a key -/

section
variable {s : State} {t l : Nat} {bs : List Byte}

theorem bytesOver_other {a : Nat} (h : ¬ (l ≤ a ∧ a < l + bs.length)) : bytesOver s t l bs a = plainByte s t a :=
  if_neg h

/-- A byte of a block that no written byte falls in is stored as it was. -/
theorem storedByte_other {a : Nat} (ht : t ≠ 0) (h : ∀ b, b / 16 = a / 16 → ¬ (l ≤ b ∧ b < l + bs.length)) :
    storedByte s t l bs a = memByte s.mem a := by
  unfold storedByte
  split
  case isTrue ha =>
    rw [ofBytes_blockByte (x := (Config.cipher t (a / 16)).symm (storedBlock s a)) fun b hb => ?_,
      Equiv.apply_symm_apply, blockByte_storedBlock]
    rw [bytesOver_other (h b hb), plainByte_keyed ht (by rw [isDram_block hb, ha]), hb]
    simp only [storedBlock, hb]
  case isFalse ha => rw [bytesOver_other (h a rfl), plainByte_plain (.inr (by simpa using ha))]

/-- The blocks a keyed write stores again are those from the one it begins in to the one it ends in. -/
abbrev Recoded (l n a : Nat) : Prop := l / 16 * 16 ≤ a ∧ a < l / 16 * 16 + (l % 16 + n + 15) / 16 * 16

theorem memByte_memWith_plain (h : t = 0 ∨ isDram l = false) (a : Nat) :
    memByte (memWith s t l bs) a = if l ≤ a ∧ a < l + bs.length then bs.getD (a - l) 0 else memByte s.mem a := by
  have plain : memWith s t l bs = putBytes s.mem l bs := by rcases h with h | h <;> simp [memWith, h]
  rw [plain, memByte_putBytes]

theorem memByte_memWith_keyed (ht : t ≠ 0) (hl : isDram l = true) (a : Nat) :
    memByte (memWith s t l bs) a = if Recoded l bs.length a then storedByte s t l bs a else memByte s.mem a := by
  simp only [memWith, ht, hl, Bool.not_true, Bool.or_false, decide_false, Bool.false_eq_true, if_false,
    memByte_putBytes, List.length_map, List.length_range]
  refine ite_congr rfl (fun h => ?_) fun _ => rfl
  obtain ⟨k, rfl⟩ := Nat.exists_eq_add_of_le h.1
  have inside : k < (l % 16 + bs.length + 15) / 16 * 16 := by omega
  simp [inside]

/-- A byte of a block that no written byte falls in stays. -/
theorem memByte_memWith_other {a : Nat} (h : ∀ b, b / 16 = a / 16 → ¬ (l ≤ b ∧ b < l + bs.length)) :
    memByte (memWith s t l bs) a = memByte s.mem a := by
  by_cases plain : t = 0 ∨ isDram l = false
  · rw [memByte_memWith_plain plain, if_neg (h a rfl)]
  · obtain ⟨ht, hl⟩ := not_or.1 plain
    rw [memByte_memWith_keyed ht (by simpa using hl), storedByte_other ht h, ite_self]

/-- What a requester with the key of a write sees after it: the written bytes over what it saw before. -/
theorem plainByte_memWith {u : State} (hu : u.mem = memWith s t l bs) (a : Nat) :
    plainByte u t a = bytesOver s t l bs a := by
  have untouched (h : ∀ b, b / 16 = a / 16 → ¬ (l ≤ b ∧ b < l + bs.length)) : plainByte u t a = bytesOver s t l bs a := by
    rw [bytesOver_other (h a rfl)]
    exact plainByte_congr (fun b hb => by rw [hu, memByte_memWith_other fun c hc => h c (hc.trans hb)]) t
  by_cases plain : t = 0 ∨ isDram l = false
  · by_cases seen : t = 0 ∨ isDram a = false
    · rw [plainByte_plain seen, hu, memByte_memWith_plain plain, bytesOver, plainByte_plain seen]
    · -- device memory, below a write that begins outside it
      obtain ⟨ht, ha⟩ := not_or.1 seen
      have outside : dramSize ≤ l := by simpa [isDram] using plain.resolve_left ht
      refine untouched fun b hb written => ?_
      have inside : b < dramSize := of_decide_eq_true ((isDram_block hb).trans (by simpa using ha))
      omega
  · obtain ⟨ht, hl⟩ := not_or.1 plain
    have hl : isDram l = true := by simpa using hl
    by_cases ha : Recoded l bs.length a
    · have block : ∀ b, b / 16 = a / 16 → memByte u.mem b = storedByte s t l bs b := fun b hb => by
        rw [hu, memByte_memWith_keyed ht hl, if_pos (by omega)]
      cases dram : isDram a with
      | false => rw [plainByte_plain (.inr dram), block a rfl, storedByte, dram]; rfl
      | true =>
        have stored : ∀ b, b / 16 = a / 16 → memByte u.mem b = blockByte (Config.cipher t (a / 16) (BitVec.ofNat 128
            (natOfBytes ((List.range 16).map fun j => bytesOver s t l bs (a / 16 * 16 + j))))) b := fun b hb => by
          rw [block b hb, storedByte, if_pos (by rw [isDram_block hb, dram]), hb]
        rw [plainByte_keyed ht dram, storedBlock_eq stored, Equiv.symm_apply_apply, blockByte_map, Nat.div_add_mod']
    · exact untouched fun b hb => by omega

end

/-- Bytes stored without a key stand where they were stored, and every other byte of memory stays. -/
theorem memByte_pokeLoc (s : State) (l : Nat) (bs : List Byte) :
    (∀ i < bs.length, memByte (pokeLoc s 0 l bs).mem (l + i) = bs.getD i 0) ∧
      ∀ b, (∀ i < bs.length, b ≠ l + i) → memByte (pokeLoc s 0 l bs).mem b = memByte s.mem b := by
  have stored : ∀ a, memByte (pokeLoc s 0 l bs).mem a = _ := memByte_memWith_plain (.inl rfl)
  refine ⟨fun i hi => ?_, fun b hb => ?_⟩
  · rw [stored, if_pos (by omega), Nat.add_sub_cancel_left]
  · rw [stored, if_neg fun written => hb (b - l) (by omega) (by omega)]

/-! ### Home slices, and writes that errors do not stop (R260, R264, R265) -/

@[simp] theorem useLines_hart (s : State) (cache l n : Nat) : (useLines s cache l n).hart = s.hart := by
  have e := congrArg State.hart (useLines_rest s cache l n)
  exact e

@[simp] theorem useLines_bad (s : State) (cache l n : Nat) : (useLines s cache l n).bad = s.bad := by
  have e := congrArg State.bad (useLines_rest s cache l n)
  exact e

/-- A write that meets no error is one write (R265). -/
theorem writeParts_clean {s : State} (h : s.bad = []) (t l : Nat) (bs : List Byte) :
    writeParts s t l bs = (pokeLoc s t l bs, false) := if_pos h

/-- A write that is done leaves no error in the words it touches. -/
theorem readLoc_writeLoc {s v : State} {t l : Nat} {bs : List Byte} (h : writeLoc s t l bs = some v) :
    readLoc v t l bs.length = some bs := by
  unfold writeLoc at h
  simp only [] at h
  split at h
  · cases h
  next whole =>
    obtain rfl := Option.some.inj h
    have clean : ¬ (errorsLeft s.bad l bs.length).any (fun w => l / 8 ≤ w && w ≤ (l + bs.length - 1) / 8) := by
      intro bad
      obtain ⟨w, hw, touched⟩ := List.any_eq_true.1 bad
      obtain ⟨old, part⟩ := List.mem_filter.1 hw
      exact whole (List.any_eq_true.2 ⟨w, List.mem_filter.2 ⟨old, touched⟩, part⟩)
    have bytes : (List.range bs.length).map (fun i => plainByte (pokeLoc s t l bs) t (l + i)) = bs := by
      refine (List.map_congr_left fun i hi => ?_).trans (map_getD_range bs)
      have hi := List.mem_range.1 hi
      rw [plainByte_memWith rfl, bytesOver, if_pos (by omega), Nat.add_sub_cancel_left]
    exact (if_neg clean).trans (congrArg some bytes)

/-- Settles O58: what the holder of the key reads is the written bytes over what it read before, and a block that no
written byte falls in is stored as it was. -/
theorem memoryReadsBackAndStaysCanonical : Obligations.MemoryReadsBackAndStaysCanonical := by
  refine ⟨memWf_reset, fun m l bs wf => ⟨memWf_putBytes l bs wf, getBytes_putBytes m l bs, fun a ha =>
    memByte_putBytes_other m (by omega)⟩, fun s t l bs wf => ?_⟩
  have seen := plainByte_memWith (s := s) (t := t) (l := l) (bs := bs) (u := pokeLoc s t l bs) rfl
  refine ⟨memWf_pokeLoc t l bs wf, fun i hi => ?_, fun a ha => ?_, fun t' a ha => ?_, fun v hv =>
    ⟨memWf_writeLoc wf hv, readLoc_writeLoc hv⟩⟩
  · rw [seen, bytesOver, if_pos (by omega), Nat.add_sub_cancel_left]
  · rw [seen, bytesOver_other (by omega)]
  · refine plainByte_congr (fun b hb => memByte_memWith_other fun c hc written => ?_) t'
    exact ha (c - l) (by omega) (by rw [Nat.add_sub_cancel' written.1]; omega)

end Sys2Proof.Proofs
end

section
/-! SUPPORT. What reset leaves. -/

namespace Sys2Proof.Proofs

open Sys2Proof.Machine Sys2Proof.Laws

/-- At reset every hart is as it is before anything happened to it. -/
theorem getHart_reset (k : Nat) : getHart State.reset k = freshHart k := by
  unfold getHart
  split
  case isTrue h => obtain rfl : 0 = k := h; rfl
  case isFalse => rfl

/-- R415: at reset the entry of tenant 0 alone is valid. -/
theorem tenants_reset (t : Nat) : (mapGet {} State.reset.tab.tenants t : TenantEntry) =
    if t = 0 then { valid := true, root := 0, weight := 1 } else { weight := 1 } := by
  rcases Nat.eq_zero_or_pos t with rfl | h
  · rfl
  · simp [State.reset, mapGet, h.ne, h.ne']

/-- Settles O54: tenant 0 has the one entry that a table lists; every other table reads its default. -/
theorem resetIsAsStated : Obligations.ResetIsAsStated := by
  refine ⟨rfl, rfl, rfl, rfl, rfl, rfl, rfl, rfl, rfl, rfl, rfl, rfl, tenants_reset, fun _ => rfl, fun _ => rfl, rfl, rfl, rfl,
    fun _ _ => rfl, fun _ => ⟨rfl, rfl⟩, fun _ => rfl, fun _ => rfl, fun _ => rfl, fun _ => rfl, rfl, rfl, fun _ => rfl,
    fun _ _ => rfl, fun _ => rfl, fun _ => rfl, fun c b _ _ => ?_, rfl, rfl, rfl, ?_, memWf_reset⟩
  · rw [getHart_reset]
    exact ⟨rfl, rfl, rfl, rfl, rfl, rfl, rfl, rfl, rfl, rfl, rfl, rfl, rfl⟩
  · rw [getHart_reset]
    exact ⟨rfl, rfl, rfl, rfl⟩

end Sys2Proof.Proofs
end

section
/-! SUPPORT. Inputs that the outside gives: how one is taken, what a store of a service core names, and what the
registers, doorbells and memories hold after it. -/

namespace Sys2Proof.Proofs

open Sys2Proof.Machine Sys2Proof.Safety Sys2Proof.Rules Sys2Proof.Laws

/-! ### The next input -/

theorem takeInput_given {s : State} {i : Input} (h : Given s i) (f : Input → State → Option State) :
    takeInput s f = f i (taken s) := by
  obtain ⟨t, rest, e⟩ := h
  simp only [takeInput, taken, e, List.drop_succ_cons, List.drop_zero]

/-! ### Site addresses (R126, R247) -/

theorem sitePointer_toNat {x y off : Nat} (hx : x < 32) (hy : y < 32) (h : off < 2 ^ 20) :
    (sitePointer 0 0 (BitVec.ofNat 5 x) (BitVec.ofNat 5 y) (BitVec.ofNat 64 off)).toNat =
      0xFE * 2 ^ 56 + x * 2 ^ 49 + y * 2 ^ 44 + off := by
  have append : ∀ {n m : Nat} (a : BitVec n) (b : BitVec m), (a ++ b).toNat = a.toNat * 2 ^ m + b.toNat := fun a b => by
    rw [BitVec.toNat_append, ← Nat.shiftLeft_add_eq_or_of_lt b.isLt, Nat.shiftLeft_eq]
  simp only [sitePointer, append, BitVec.extractLsb'_toNat, BitVec.toNat_ofNat, Nat.shiftRight_zero,
    BitVec.reduceToNat]
  omega

/-- A store of a service core to a site address reaches what the site's checks give. -/
theorem storeTarget_site {s : State} {x y off : Nat} {t : Target} (hx : x < 32) (hy : y < 32) (h : off < 2 ^ 20)
    (h8 : off % 8 = 0) (check : ∀ ea, siteCheck s serviceAcc false x y off 8 ea = .ok t s) :
    storeTarget s (sitePointer 0 0 (BitVec.ofNat 5 x) (BitVec.ofNat 5 y) (BitVec.ofNat 64 off)) = some (t, s) := by
  have fields : ∀ v : Nat, v = 0xFE * 2 ^ 56 + x * 2 ^ 49 + y * 2 ^ 44 + off →
      (v / 2 ^ 56 = 0xFE ∧ bit v 54 = false ∧ bits v 43 20 = 0 ∧ v % 8 = 0) ∧
        bit v 55 = false ∧ bits v 53 49 = x ∧ bits v 48 44 = y ∧ v % 2 ^ 20 = off := by
    intro v hv
    simp only [bit, bits, beq_eq_false_iff_ne]
    omega
  obtain ⟨⟨top, rel, zero, aligned⟩, twin, hx, hy, ho⟩ := fields _ (sitePointer_toNat hx hy h)
  simp only [storeTarget, top, rel, zero, aligned, twin, hx, hy, ho, check, bne_self_eq_false, Bool.or_self,
    Bool.false_eq_true, if_false]

/-- R250: tenant 0 reaches the control window of a core that is not fenced. -/
theorem storeTarget_core {s : State} {c off : Nat} (hc : c < 96) (hf : (coreEntry s c).fenced = false)
    (ho : 0x80000 ≤ off ∧ off < 0x80400 ∨ 0x81000 ≤ off ∧ off < 0x81040) (h8 : off % 8 = 0) :
    storeTarget s (sitePointer 0 0 (BitVec.ofNat 5 (c % 12 + 1)) (BitVec.ofNat 5 (c / 12 + 1)) (BitVec.ofNat 64 off)) =
      some (.ctl c off, s) := by
  refine storeTarget_site (by omega) (by omega) (by omega) h8 fun ea => ?_
  have site : isCoreSite (c % 12 + 1) (c / 12 + 1) = true := by
    simp only [isCoreSite, Bool.and_eq_true, decide_eq_true_eq]
    omega
  have core : coreAt (c % 12 + 1) (c / 12 + 1) = c := by unfold coreAt; omega
  have window : 0x80000 ≤ off := by omega
  have defined : coreOffset off = true := by
    simp only [coreOffset, Bool.or_eq_true, Bool.and_eq_true, decide_eq_true_eq]
    omega
  have writable : ¬ (0x80400 ≤ off ∧ off < 0x80500) := by omega
  have below : ¬ off < 0x80000 := by omega
  have hf : (mapGet {} s.tab.cores c : CoreEntry).fenced = false := hf
  simp [siteCheck, site, core, serviceAcc, admits, writable, defined, hf, below]

/-- R251: tenant 0 reaches the registers of the other sites. -/
theorem storeTarget_io {s : State} {x y off : Nat} (hx : x < 32) (hy : y < 32) (site : isCoreSite x y = false)
    (defined : siteOffset x y off = true) (ho : 0x80000 ≤ off ∧ off < 2 ^ 20) (h8 : off % 8 = 0) :
    storeTarget s (sitePointer 0 0 (BitVec.ofNat 5 x) (BitVec.ofNat 5 y) (BitVec.ofNat 64 off)) =
      some (.io x y off, s) := by
  refine storeTarget_site hx hy ho.2 h8 fun ea => ?_
  have below : ¬ off < 0x80000 := by omega
  simp [siteCheck, site, serviceAcc, defined, below]

/-- The row of the table that a store to a register of a kind is. -/
def kindRow : RegKind → Instr
  | .launchBell => .launchDoorbell
  | .powerLimit => .powerLimitRegisterWrite
  | .portMode => .portModeWrite
  | .descriptor => .windowDescriptorStore
  | .other => .registerWrite

/-- A store that a service core is given is performed by the row of its register. -/
theorem exec_store {s : State} {a v : Dword} {t : Target} {k : RegKind} (h : Given s (.store a v))
    (ht : storeTarget (taken s) a = some (t, taken s)) (hk : kindOf t = k) :
    exec (kindRow k) s = .next (storeAt (taken s) t v) := by
  have pick : pickStore k s = some (storeAt (taken s) t v) := by
    simp only [pickStore, takeInput_given h, ht, hk, if_true]
  cases k with
  | launchBell =>
    show Host.Outcome.next ((pickBell s).getD s) = _
    rw [pickBell, pick]; rfl
  | powerLimit => exact congrArg (fun o => Host.Outcome.next (o.getD s)) pick
  | portMode => exact congrArg (fun o => Host.Outcome.next (o.getD s)) pick
  | descriptor => exact congrArg (fun o => Host.Outcome.next (o.getD s)) pick
  | other =>
    show Host.Outcome.next ((pickRegister s).getD s) = _
    rw [pickRegister, pick]; rfl

end Sys2Proof.Proofs
end

section
/-! SUPPORT. What each store, doorbell and register write changes (R8, R251, R329, R366, R451, R468-R472, R475, R483). -/

namespace Sys2Proof.Proofs

open Sys2Proof.Machine Sys2Proof.Safety Sys2Proof.Rules Sys2Proof.Laws

/-! ### The telemetry ring (R471, R472) -/

theorem ringLoc_add (a b : Nat) : ringLoc (a + b) = ringLoc a + b := (Nat.add_assoc _ a b).symm

/-- An entry is logged at the claimed place, whatever its data. -/
theorem loggedAt_telemetry {s u : State} (h : u.svc.claim = s.svc.claim) {kind : Nat} (hk : kind < 2 ^ 16) (data data2 : Nat) :
    LoggedAt s (telemetry u kind data data2) kind := by
  let entry := [u.nowNs, kind * 2 ^ 48 + data % 2 ^ 48, data2, (s.svc.claim + 1).toNat]
  have stored : (telemetry u kind data data2).mem =
      putBytes u.mem (ringLoc (32 * (s.svc.claim.toNat % 4096))) (entry.flatMap (bytesOfNat 8)) := by
    simp only [entry, List.flatMap_cons, List.flatMap_nil, List.append_nil, ← h, ← List.append_assoc]
    rfl
  have read : ∀ j k n (hj : j < 4), k + n ≤ 8 →
      natOfBytes (getBytes (telemetry u kind data data2).mem (ringLoc (32 * (s.svc.claim.toNat % 4096) + (8 * j + k))) n) =
        entry[j] / 256 ^ k % 256 ^ n := fun j k n hj hn => by
    rw [stored, ringLoc_add]
    exact natOfBytes_getBytes_dwords _ _ (xs := entry) hj hn
  have now := u.time.now.isLt
  have seq := (s.svc.claim + 1).isLt
  refine ⟨congrArg (· + 1) h, (read 0 0 8 (by decide) (by decide)).trans ?_, (read 1 6 2 (by decide) (by decide)).trans ?_,
    (read 3 0 8 (by decide) (by decide)).trans ?_⟩
  · exact (congrArg (· % _) (Nat.div_one _)).trans (Nat.mod_eq_of_lt now)
  · simp only [entry, List.getElem_cons_succ, List.getElem_cons_zero]
    omega
  · exact (congrArg (· % _) (Nat.div_one _)).trans (Nat.mod_eq_of_lt (Nat.lt_trans seq (by decide)))

theorem loggedAt_telemetryOpen {s u : State} (h : u.svc.claim = s.svc.claim) {kind : Nat} (hk : kind < 2 ^ 16)
    (data data2 : Option Nat) : LoggedAt s (telemetryOpen u kind data data2) kind :=
  loggedAt_telemetry (s := s) (u := { u with free := u.free + 1 + 1 }) h hk _ _

/-! ### Doorbells (R329, R475) -/

section
variable {s : State} {q : Nat} {l : LaunchQ} {tail : BitVec 32}

theorem doorbell_uncreated (hl : getQ s q = l) (h : l.created = false) : doorbell s q tail = s := by
  subst hl
  unfold getQ at h
  simp only [doorbell, h, Bool.not_false, Bool.false_and, if_true, Bool.false_eq_true, if_false]

theorem doorbell_moves (hl : getQ s q = l) (h : l.created = true) (near : ¬ l.size < (tail - l.head).toNat) :
    doorbell s q tail = setQ s q { l with tail := tail } := by
  subst hl
  unfold getQ at *
  simp only [doorbell, h, near, decide_false, Bool.not_true, Bool.false_eq_true, if_false, Bool.or_false,
    Bool.and_false, Bool.false_and, setQ]

theorem doorbell_stops (hl : getQ s q = l) (h : l.created = true) (far : l.size < (tail - l.head).toNat) :
    doorbell s q tail = if l.stopped = true then setQ s q { l with tail := tail, stopped := true }
      else telemetryOpen (setQ s q { l with tail := tail, stopped := true }) 0x0003 none none := by
  subst hl
  unfold getQ at *
  cases hs : (mapGet {} s.disp.queues q : LaunchQ).stopped <;>
    simp only [doorbell, h, far, hs, decide_true, Bool.not_true, Bool.false_eq_true, if_false, Bool.or_true,
      Bool.and_true, Bool.and_false, Bool.not_false, if_true, setQ]

end

/-- A doorbell rung by the host or a service core. -/
theorem exec_launchDoorbell {s : State} {q : Nat} {v : Dword} (hq : q < 192)
    (h : (∃ f, Given s (.bar2 f (16 * q) v) ∧ (getQ s q).created = true ∧ (getQ s q).tenant = f) ∨
      Given s (.store (sitePointer 0 0 13 0 (BitVec.ofNat 64 (0x80000 + 16 * q))) v)) :
    exec .launchDoorbell s = .next (doorbell (taken s) q (BitVec.ofNat 32 v.toNat)) := by
  rw [BitVec.ofNat_toNat]
  rcases h with ⟨f, hg, hc, rfl⟩ | hg
  · show Host.Outcome.next ((pickBell s).getD s) = _
    have hc : (getQ (taken s) q).created = true := hc
    have same : getQ s q = getQ (taken s) q := rfl
    simp [pickBell, pickStore, takeInput_given hg, writeBar2, hq, hc, same]
  · have ht := storeTarget_io (s := taken s) (x := 13) (y := 0) (off := 0x80000 + 16 * q) (by decide) (by decide) rfl
      (by simp [siteOffset]; omega) (by omega) (by omega)
    have aligned : (0x80000 + 16 * q) % 16 = 0 := by omega
    refine (exec_store (k := .launchBell) hg ht (by simp [kindOf, aligned])).trans ?_
    have number : (0x80000 + 16 * q - 0x80000) / 16 = q := by omega
    simp only [storeAt, ioWrite, aligned, number]
    rfl

/-- R329: a doorbell of a created queue moves its tail; a tail too far ahead stops the queue and is logged. -/
theorem doorbells_ring {s : State} {q : Nat} {v : Dword} (hq : q < 192)
    (h : (∃ f, Given s (.bar2 f (16 * q) v) ∧ (getQ s q).created = true ∧ (getQ s q).tenant = f) ∨
      Given s (.store (sitePointer 0 0 13 0 (BitVec.ofNat 64 (0x80000 + 16 * q))) v)) :
    let l := getQ s q
    let tail := BitVec.ofNat 32 v.toNat
    let bad := l.size < (tail - l.head).toNat
    (l.created = false → Completes .launchDoorbell s fun t => getQ t q = l ∧ t.mem = s.mem) ∧
    (l.created = true → ¬ bad → Completes .launchDoorbell s fun t => getQ t q = { l with tail := tail } ∧ t.mem = s.mem ∧
      t.hart = s.hart ∧ ∀ r, r ≠ q → getQ t r = getQ s r) ∧
    (l.created = true → bad → Completes .launchDoorbell s fun t => getQ t q = { l with tail := tail, stopped := true } ∧
      (l.stopped = false → LoggedAt s t 0x0003)) := by
  intro l tail bad
  have rings := exec_launchDoorbell hq h
  have same : getQ (taken s) q = l := rfl
  clear_value l
  refine ⟨fun hc => ⟨_, rings, ?_⟩, fun hc near => ⟨_, rings, ?_⟩, fun hc far => ⟨_, rings, ?_⟩⟩
  · rw [doorbell_uncreated same hc]
    exact ⟨same, rfl⟩
  · rw [doorbell_moves same hc near]
    exact ⟨getQ_setQ _ _ _, rfl, rfl, fun r hr => getQ_setQ_other _ _ hr⟩
  · rw [doorbell_stops same hc far]
    cases hs : l.stopped
    · exact ⟨getQ_setQ _ _ _, fun _ => loggedAt_telemetryOpen rfl (by decide) none none⟩
    · exact ⟨getQ_setQ _ _ _, fun h => nomatch h⟩

/-- R475: a doorbell of BAR2 that is none of the function's queues does nothing. -/
theorem foreign_doorbell_ignored {s : State} {f off : Nat} {v : Dword} (hg : Given s (.bar2 f off v))
    (h : off % 16 ≠ 0 ∨ 192 ≤ off / 16 ∨ (getQ s (off / 16)).created = false ∨ (getQ s (off / 16)).tenant ≠ f) :
    exec .launchDoorbell s = .next (taken s) := by
  have ignored : writeBar2 (taken s) f off v = taken s := by
    refine if_neg fun own => ?_
    simp only [Bool.and_eq_true, decide_eq_true_eq, beq_iff_eq] at own
    obtain ⟨⟨⟨aligned, small⟩, created⟩, tenant⟩ := own
    rcases h with h | h | h | h
    · exact h aligned
    · omega
    · exact absurd (h.symm.trans created) (by decide)
    · exact h tenant
  show Host.Outcome.next ((pickBell s).getD s) = _
  simp only [pickBell, pickStore, takeInput_given hg, ignored]
  rfl

/-! ### Registers of a function (R451, R475) -/

theorem ringFn_eq_rung (s : State) (f : Nat) : ringFn s f = rung s f := by
  refine ite_congr (propext ?_) (fun _ => rfl) fun _ => rfl
  simp [Fn.pending, locked, eventWaits]
  tauto

/-- R475: a new command tail is taken, and rings the bell unless it lies too far ahead. -/
theorem commandTail_written {s : State} {f : Nat} {v : Dword} (hg : Given s (.bar0 f 0x018 v)) :
    let n := getFn s f
    let tail := BitVec.ofNat 32 v.toNat
    let bad := 2 ^ n.order < (tail - n.head).toNat
    (bad → exec .commandDoorbell s = .next (setFn (taken s) f { n with tail := tail, err := true, needTail := true })) ∧
    (¬ bad → exec .commandDoorbell s = .next (rung (setFn (taken s) f { n with tail := tail, needTail := n.err }) f)) := by
  intro n tail bad
  have writes : exec .commandDoorbell s = .next (rung (setFn (taken s) f
      { n with tail := tail, err := n.err || decide bad, needTail := n.err || decide bad }) f) := by
    show Host.Outcome.next ((pickCmdBell s).getD s) = _
    simp only [pickCmdBell, takeInput_given hg, if_true, Option.orElse, Option.getD_some, writeTail, ringFn_eq_rung,
      ← BitVec.ofNat_toNat]
    rfl
  refine ⟨fun far => writes.trans ?_, fun near => writes.trans ?_⟩
  · rw [decide_eq_true far, Bool.or_true, rung, getFn_setFn]
    exact congrArg _ (if_neg fun ring => nomatch ring.2.1)
  · rw [decide_eq_false near, Bool.or_false]

/-- The low bits of a register cleared. -/
theorem and_not_low (v : Dword) (k : Nat) : v &&& ~~~(BitVec.ofNat 64 (2 ^ k - 1)) = BitVec.ofNat 64 (v.toNat / 2 ^ k * 2 ^ k) := by
  refine BitVec.eq_of_getLsbD_eq fun i hi => ?_
  simp only [BitVec.getLsbD_and, BitVec.getLsbD_not, BitVec.getLsbD_ofNat, hi, decide_true, Bool.true_and,
    Nat.testBit_two_pow_sub_one, Nat.testBit_mul_two_pow, Nat.testBit_div_two_pow, BitVec.testBit_toNat]
  by_cases h : i < k <;> simp [h, Nat.le_of_not_lt, Nat.not_le.2]

/-- R475: what a function's registers hold after a write of a register of BAR0. -/
def bar0Written (n : Fn) (off : Nat) (v : Dword) : Fn :=
  let idle := n.head = n.tail
  { n with
    ring := if off = 0x000 ∧ idle then BitVec.ofNat 64 (v.toNat / 64 * 64) else n.ring
    order := if off = 0x008 ∧ idle ∧ 4 ≤ v.toNat % 16 ∧ v.toNat % 16 ≤ 12 then v.toNat % 16 else n.order
    results := if off = 0x010 ∧ idle then BitVec.ofNat 64 (v.toNat / 32 * 32) else n.results
    err := if off = 0x030 ∧ v.toNat.testBit 1 then false else n.err }

/-- A register that is set under a condition, or keeps its value. -/
theorem setFn_or_keep {c : Prop} [Decidable c] {s : State} {f : Nat} {w n : Fn} (h : w = if c then n else getFn s f) :
    (if c then setFn s f n else s) = setFn s f w ∨ ((if c then setFn s f n else s) = s ∧ w = getFn s f) := by
  subst h
  by_cases hc : c <;> simp [hc]

/-- A write of BAR0 other than of the command tail writes the function's registers, or changes nothing. -/
theorem writeBar0_cases {off : Nat} (h : off ≠ 0x018) (s : State) (f : Nat) (v : Dword) :
    writeBar0 s f off v = setFn s f (bar0Written (getFn s f) off v) ∨
      (writeBar0 s f off v = s ∧ bar0Written (getFn s f) off v = getFn s f) := by
  have clear64 : v &&& ~~~(63 : Dword) = BitVec.ofNat 64 (v.toNat / 64 * 64) := and_not_low v 6
  have clear32 : v &&& ~~~(31 : Dword) = BitVec.ofNat 64 (v.toNat / 32 * 32) := and_not_low v 5
  unfold writeBar0
  split
  case h_1 => refine setFn_or_keep ?_; rw [clear64]; split <;> simp_all [bar0Written]
  case h_2 =>
    refine setFn_or_keep ?_
    simp only [Bool.and_eq_true, decide_eq_true_eq, beq_iff_eq, and_assoc]
    split <;> simp only [bar0Written, true_and, *] <;> rfl
  case h_3 => refine setFn_or_keep ?_; rw [clear32]; split <;> simp_all [bar0Written]
  case h_4 => exact absurd rfl h
  case h_5 =>
    refine setFn_or_keep ?_
    rw [← BitVec.testBit_toNat]
    split <;> simp only [bar0Written, true_and, *] <;> rfl
  case h_6 => exact .inr ⟨rfl, by simp_all [bar0Written]⟩

/-- An input that the row of the other registers takes. -/
theorem exec_registerWrite {s u : State} (h : pickRegister s = some u) : exec .registerWrite s = .next u :=
  congrArg (fun o : Option State => (Host.Outcome.next (o.getD s) : Out)) h

/-- R451, R475: a register of BAR0 other than the command tail is written. -/
theorem bar0_written {s : State} {f off : Nat} {v : Dword} (hg : Given s (.bar0 f off v)) (h : off ≠ 0x018) :
    Completes .registerWrite s fun t => getFn t f = bar0Written (getFn s f) off v ∧
      t.svc.events = s.svc.events ∧ t.mem = s.mem ∧ ∀ g, g ≠ f → getFn t g = getFn s g := by
  refine ⟨writeBar0 (taken s) f off v, exec_registerWrite ?_, ?_⟩
  · simp only [pickRegister, pickStore, takeInput_given hg, h, if_false]
    rfl
  · rcases writeBar0_cases h (taken s) f v with e | ⟨e, same⟩ <;> rw [e]
    · exact ⟨getFn_setFn _ _ _, rfl, rfl, fun g hg => getFn_setFn_other _ _ hg⟩
    · exact ⟨same.symm, rfl, rfl, fun _ _ => rfl⟩

/-! ### Registers of the sites (R366, R445, R469, R470, R483) -/

/-- R470: the power limit register takes 180 to 360 W. -/
theorem powerLimit_written {s : State} {v : Dword} (hg : Given s (.store (sitePointer 0 0 13 7 0x80490) v)) :
    Completes .powerLimitRegisterWrite s fun t =>
      t.svc.powerLimit = (if 180 ≤ v.toNat % 512 ∧ v.toNat % 512 ≤ 360 then v.toNat % 512 else s.svc.powerLimit) ∧
      t.mem = s.mem ∧ t.hart = s.hart := by
  have ht := storeTarget_io (s := taken s) (x := 13) (y := 7) (off := 0x80490) (by decide) (by decide) rfl rfl
    (by decide) (by decide)
  refine ⟨_, exec_store hg ht rfl, ?_⟩
  have written : storeAt (taken s) (.io 13 7 0x80490) v = setPowerLimit (taken s) (v.toNat % 512) := rfl
  rw [written, setPowerLimit]
  split <;> exact ⟨rfl, rfl, rfl⟩

/-- R469: the throttle step of a group is written. -/
theorem throttle_written {s : State} {g : Nat} {v : Dword} (h : g < 12)
    (hg : Given s (.store (sitePointer 0 0 13 7 (BitVec.ofNat 64 (0x80400 + 8 * g))) v)) :
    Completes .registerWrite s fun t => (mapGet 0 t.svc.throttle g).toNat = v.toNat % 16 ∧
      ∀ h, h ≠ g → mapGet 0 t.svc.throttle h = mapGet 0 s.svc.throttle h := by
  have ht := storeTarget_io (s := taken s) (x := 13) (y := 7) (off := 0x80400 + 8 * g) (by decide) (by decide) rfl
    (by simp [siteOffset]; omega) (by omega) (by omega)
  have number : (0x80400 + 8 * g - 0x80400) / 8 = g := by omega
  have range : (0x80400 ≤ 0x80400 + 8 * g) ∧ 0x80400 + 8 * g < 0x80480 := by omega
  refine ⟨_, exec_store (k := .other) hg ht (by simp [kindOf]; omega), ?_⟩
  have written : storeAt (taken s) (.io 13 7 (0x80400 + 8 * g)) v =
      { taken s with svc := { s.svc with throttle := mapSet 0 s.svc.throttle g (v.truncate 4) } } := by
    rw [storeAt, ioWrite, if_neg (by decide), if_neg (by decide), if_pos (by simpa using range), number]
    rfl
  rw [written]
  exact ⟨(congrArg BitVec.toNat (mapGet_set_same _ _ _ _)).trans (BitVec.toNat_setWidth _ _), fun h hn => mapGet_set_other _ _ _ hn⟩

/-- R483: the mode register of a port is written. -/
theorem portMode_written {s : State} {p : Nat} {v : Dword} (hp : p < 16)
    (hg : Given s (.store (sitePointer 0 0 0 (BitVec.ofNat 5 (p / 2 + 1)) (BitVec.ofNat 64 (0x80000 + 0x100 * (p % 2)))) v)) :
    let old : Port := mapGet {} s.eng.ports p
    Completes .portModeWrite s fun t => (mapGet {} t.eng.ports p : Port) = { old with
      vlanTag := v.toNat.testBit 28, vlanId := BitVec.ofNat 12 (v.toNat / 2 ^ 16), mode := BitVec.ofNat 2 v.toNat } ∧
      ∀ r, r ≠ p → (mapGet {} t.eng.ports r : Port) = mapGet {} s.eng.ports r := by
  have register : (0x80000 + 0x100 * (p % 2)) % 0x100 = 0 := by omega
  have number : portAt (p / 2 + 1) (0x80000 + 0x100 * (p % 2)) = p := by unfold portAt; omega
  have ht := storeTarget_io (s := taken s) (x := 0) (y := p / 2 + 1) (off := 0x80000 + 0x100 * (p % 2)) (by decide)
    (by omega) (by simp [isCoreSite]) (by simp [siteOffset]; omega) (by omega) (by omega)
  refine ⟨_, exec_store (k := .portMode) hg ht (by simp [kindOf, register]), ?_⟩
  have written : storeAt (taken s) (.io 0 (p / 2 + 1) (0x80000 + 0x100 * (p % 2))) v = portWrite (taken s) p 0 v := by
    simp only [storeAt, ioWrite, number, register, if_true]
  rw [written]
  refine ⟨(mapGet_set_same _ _ _ _).trans ?_, fun r hr => mapGet_set_other _ _ _ hr⟩
  simp only [Port.write, if_true, BitVec.extractLsb', Nat.shiftRight_eq_div_pow, pow_zero, Nat.div_one,
    BitVec.testBit_toNat]
  rfl

/-- R366: a dword of a window's descriptor is written. -/
theorem descriptor_written {s : State} {c n j : Nat} {v : Dword} (hc : c < 96) (hn : n < 16) (hj : j < 8)
    (hf : (coreEntry s c).fenced = false)
    (hg : Given s (.store (sitePointer 0 0 (BitVec.ofNat 5 (c % 12 + 1)) (BitVec.ofNat 5 (c / 12 + 1))
      (BitVec.ofNat 64 (0x80000 + 64 * n + 8 * j))) v)) :
    Completes .windowDescriptorStore s fun t => getWin t c n = (getWin s c n).store j v ∧
      (∀ m, (m < 16 ∧ m ≠ n) → getWin t c m = getWin s c m) ∧ t.mem = s.mem ∧ t.hart = s.hart := by
  have ht := storeTarget_core (s := taken s) (c := c) (off := 0x80000 + 64 * n + 8 * j) hc hf (by omega) (by omega)
  have inside : 0x80000 + 64 * n + 8 * j < 0x80400 := by omega
  have number : (0x80000 + 64 * n + 8 * j - 0x80000) / 64 = n := by omega
  have dword : (0x80000 + 64 * n + 8 * j) % 64 / 8 = j := by omega
  refine ⟨_, exec_store (k := .descriptor) hg ht (if_pos inside), ?_⟩
  have written : storeAt (taken s) (.ctl c (0x80000 + 64 * n + 8 * j)) v =
      setWin (taken s) c n ((getWin s c n).store j v) := by
    simp only [storeAt, ctlWrite, inside, if_true, number, dword]
    rfl
  rw [written]
  exact ⟨getWin_setWin _ _ _ _, fun m hm => getWin_setWin_other _ _ hn hm.1 fun e => hm.2 e.2, rfl, rfl⟩

/-- R250, R445: the count of a performance counter is written. -/
theorem count_written {s : State} {c k : Nat} {v : Dword} (hc : c < 96) (hk : k < 8) (hf : (coreEntry s c).fenced = false)
    (hg : Given s (.store (sitePointer 0 0 (BitVec.ofNat 5 (c % 12 + 1)) (BitVec.ofNat 5 (c / 12 + 1))
      (BitVec.ofNat 64 (0x81000 + 8 * k))) v)) :
    Completes .registerWrite s fun t => (mapGet {} t.pmc (8 * c + k) : Pmc).count = BitVec.ofNat 48 v.toNat ∧
      (mapGet {} t.pmc (8 * c + k) : Pmc).select = (mapGet {} s.pmc (8 * c + k) : Pmc).select := by
  have ht := storeTarget_core (s := taken s) (c := c) (off := 0x81000 + 8 * k) hc hf (by omega) (by omega)
  have beyond : ¬ 0x81000 + 8 * k < 0x80400 := by omega
  have number : (0x81000 + 8 * k - 0x81000) / 8 = k := by omega
  refine ⟨_, exec_store (k := .other) hg ht (if_neg beyond), ?_⟩
  have written : storeAt (taken s) (.ctl c (0x81000 + 8 * k)) v = { taken s with
      pmc := mapSet {} s.pmc (8 * c + k) { (mapGet {} s.pmc (8 * c + k) : Pmc) with count := BitVec.ofNat 48 v.toNat } } := by
    simp only [storeAt, ctlWrite, beyond, if_false, number, BitVec.ofNat_toNat]
    rfl
  rw [written]
  exact ⟨congrArg Pmc.count (mapGet_set_same _ _ _ _), (congrArg Pmc.select (mapGet_set_same _ _ _ _)).trans rfl⟩

/-! ### What the sensors, the host and the twin give (R8, R413, R470, R479, R485) -/

/-- R470: a sensor's reading. -/
theorem sensor_read {s : State} {n : Nat} {v : Dword} (hg : Given s (.temperature n v)) (h : n < 120) :
    Completes .registerWrite s fun t =>
      mapGet 0 t.svc.sensors n = v ∧ ∀ m, m ≠ n → mapGet 0 t.svc.sensors m = mapGet 0 s.svc.sensors m := by
  refine ⟨{ taken s with svc := { s.svc with sensors := mapSet 0 s.svc.sensors n v } }, exec_registerWrite ?_,
    mapGet_set_same _ _ _ _, fun m hm => mapGet_set_other _ _ _ hm⟩
  simp only [pickRegister, pickStore, takeInput_given hg, Nat.mod_eq_of_lt h]
  rfl

/-- Log entry 8: a store of the host. -/
theorem hostStore_lands {s : State} {a : Nat} {bs : List Byte} (hg : Given s (.hostStore a bs)) :
    Completes .registerWrite s fun t => (∀ i < bs.length, memByte t.mem (hostLoc (a + i)) = bs.getD i 0) ∧ t.hart = s.hart ∧
      ∀ b, (∀ i < bs.length, b ≠ hostLoc (a + i)) → memByte t.mem b = memByte s.mem b := by
  have place : ∀ i, hostLoc (a + i) = hostLoc a + i := fun i => (Nat.add_assoc _ a i).symm
  obtain ⟨lands, rest⟩ := memByte_pokeLoc (taken s) (hostLoc a) bs
  refine ⟨pokeLoc (taken s) 0 (hostLoc a) bs, exec_registerWrite ?_, fun i hi => ?_, pokeLoc_hart _ _ _ _, fun b hb => ?_⟩
  · simp only [pickRegister, pickStore, takeInput_given hg]
    rfl
  · rw [place, lands i hi]
  · exact rest b fun i hi => place i ▸ hb i hi

/-- The ring guard stops a write to a scratchpad where it guards one of its bytes (R230). -/
theorem guardStops_spad {s : State} {hart l n : Nat} (h : isSpad l = true) :
    guardStops s hart l n = none ↔ ∀ i < n, byteGuarded s hart (spadCore l) (spadOff l + i) = false := by
  simp [guardStops, h, guardHit]

theorem guardStops_dram {s : State} {hart l n : Nat} (h : isDram l = true) : guardStops s hart l n = none := by
  have low : l < dramSize := of_decide_eq_true h
  unfold dramSize at low
  have spad : isSpad l = false := by
    simp only [isSpad, Bool.and_eq_false_iff, decide_eq_false_iff_not]
    omega
  have twin : isTwinSpad l = false := by
    simp only [isTwinSpad, Bool.and_eq_false_iff, decide_eq_false_iff_not]
    omega
  simp [guardStops, spad, twin]

/-- R230, R480: where a store of the twin lands. -/
theorem twinWrite_eq (s : State) (l cache : Nat) (bs : List Byte) :
    twinWrite s l cache bs =
      if s.tetherUp = true ∧ (isDram l = true ∨ (isSpad l = true ∧ (coreEntry s (spadCore l)).fenced = false)) ∧
          guardStops s twinHart l bs.length = none
      then (writeParts (useLines s cache l bs.length) 0 l bs).1 else s := by
  simp only [twinWrite, Bool.and_eq_true, Bool.or_eq_true, Bool.not_eq_true', Option.isNone_iff_eq_none, and_assoc]

/-- R230, R479, R480: a store of the twin is stopped by the tether that is down, by a core that is fenced and by the
ring guard, and lands otherwise. -/
theorem twinStore_lands {s : State} {l cache : Nat} {bs : List Byte} (hg : Given s (.twinStore l cache bs)) :
    let spad := isSpad l = true ∧ (coreEntry s (spadCore l)).fenced = false
    (s.tetherUp = false ∨ (isDram l = false ∧ ¬ spad) → exec .registerWrite s = .next (taken s)) ∧
    (isSpad l = true → (∃ i < bs.length, byteGuarded s (8 * 128) (spadCore l) (spadOff l + i) = true) →
      exec .registerWrite s = .next (taken s)) ∧
    (s.tetherUp = true → isDram l = true ∨ (spad ∧ ∀ i < bs.length, byteGuarded s (8 * 128) (spadCore l) (spadOff l + i) = false) →
      isTwinSpad l = false → s.bad = [] → Completes .registerWrite s fun t => t.hart = s.hart ∧
        (∀ i < bs.length, memByte t.mem (l + i) = bs.getD i 0) ∧
        ∀ b, (∀ i < bs.length, b ≠ l + i) → memByte t.mem b = memByte s.mem b) := by
  intro spad
  have does : exec .registerWrite s = .next (twinWrite (taken s) l cache bs) :=
    exec_registerWrite (by simp only [pickRegister, pickStore, takeInput_given hg]; rfl)
  rw [twinWrite_eq] at does
  refine ⟨fun shut => does.trans (congrArg _ (if_neg ?_)), fun hs ⟨i, hi, guarded⟩ => does.trans (congrArg _ (if_neg ?_)),
    fun up reach _ clean => ?_⟩
  · rintro ⟨up, place, -⟩
    rcases shut with down | ⟨outside, stopped⟩
    · exact absurd (down.symm.trans up) (by decide)
    · rcases place with dram | spad
      · exact absurd (outside.symm.trans dram) (by decide)
      · exact stopped spad
  · rintro ⟨-, -, free⟩
    exact absurd (guarded.symm.trans ((guardStops_spad hs).1 free i hi)) (by decide)
  · have free : guardStops (taken s) twinHart l bs.length = none := by
      rcases reach with dram | ⟨spad, free⟩
      · exact guardStops_dram dram
      · exact (guardStops_spad spad.1).2 free
    rw [if_pos ⟨up, reach.imp_right And.left, free⟩] at does
    obtain ⟨lands, rest⟩ := memByte_pokeLoc (useLines (taken s) cache l bs.length) l bs
    rw [writeParts_clean (s := useLines (taken s) cache l bs.length) ((useLines_bad _ _ _ _).trans clean)] at does
    exact ⟨_, does, (pokeLoc_hart _ _ _ _).trans (useLines_hart _ _ _ _), lands,
      fun b hb => (rest b hb).trans (congrArg (memByte · b) (useLines_mem _ _ _ _))⟩

/-- R485: the service complex selects the port of PTP. -/
theorem port_selected {s : State} {n : Nat} (hg : Given s (.selectPort n)) :
    exec .registerWrite s = .next { taken s with time := { s.time with port := n % 16 } } :=
  exec_registerWrite (by simp only [pickRegister, pickStore, takeInput_given hg]; rfl)

/-- R413: the host sets its allocation of page requests. -/
theorem allocation_set {s : State} {n : Nat} (hg : Given s (.priAllocation n)) :
    exec .registerWrite s = .next { taken s with tab := { s.tab with priAlloc := n } } :=
  exec_registerWrite (by simp only [pickRegister, pickStore, takeInput_given hg]; rfl)

/-- R472: a claim of a place in the telemetry ring. -/
theorem telemetry_claimed {s : State} (hg : Given s .claim) :
    exec .telemetryClaim s = .next { taken s with svc := { s.svc with claim := s.svc.claim + 1 } } := by
  have claims : pickClaim s = some { taken s with svc := { s.svc with claim := s.svc.claim + 1 } } := by
    simp only [pickClaim, takeInput_given hg]
    rfl
  exact congrArg (fun o : Option State => (Host.Outcome.next (o.getD s) : Out)) claims

/-- Settles O48: one lemma for each kind of write, in the order of the statement. -/
theorem registersAndDoorbellsAreWritten : Obligations.RegistersAndDoorbellsAreWritten := fun _ =>
  ⟨fun _ _ _ hq h hi => hi ▸ doorbells_ring hq h, fun _ _ _ => foreign_doorbell_ignored, fun _ _ => commandTail_written,
    fun _ _ _ => bar0_written, fun _ => powerLimit_written, fun _ _ => portMode_written, fun _ _ _ _ => descriptor_written,
    fun _ _ => throttle_written, fun _ _ _ => count_written, fun _ _ => sensor_read, fun _ _ => hostStore_lands,
    fun _ _ _ => twinStore_lands, fun _ => port_selected, fun _ => allocation_set, telemetry_claimed⟩

end Sys2Proof.Proofs
end

section
/-! SUPPORT. Frames that the ports take in: how one is steered, classified and appended to a window (R396, R419-R421,
R481, R483, R484). -/

namespace Sys2Proof.Proofs

open Sys2Proof.Machine Sys2Proof.Safety Sys2Proof.Rules Sys2Proof.Laws

/-- A row whose event can happen goes on to the state that the event gives. -/
theorem next_picked {s u : State} {o : Option State} (h : o = some u) : (Host.Outcome.next (o.getD s) : Out) = .next u := by
  rw [h]
  rfl

/-! ### Windows and the registers of ports -/

section
variable (s : State) (p : Nat) (g : Port → Port)

theorem port_updPort : (mapGet {} (updPort s p g).eng.ports p : Port) = g (mapGet {} s.eng.ports p) :=
  mapGet_set_same _ _ _ _

theorem writeLoc_updPort (t l : Nat) (bs : List Byte) :
    writeLoc (updPort s p g) t l bs = (writeLoc s t l bs).map fun u => updPort u p g := by
  simp only [writeLoc, apply_ite (Option.map fun u => updPort u p g), Option.map_none, Option.map_some]
  rfl

/-- R265: one of the pieces of a run is written or dropped. -/
def writePart (t : Nat) (r : State × Bool) (part : Nat × List Byte) : State × Bool :=
  match writeLoc r.1 t part.1 part.2 with
  | some u => (u, r.2)
  | none => (r.1, true)

theorem writeParts_dirty {s : State} (h : s.bad ≠ []) (t l : Nat) (bs : List Byte) :
    writeParts s t l bs = (wordParts l bs).foldl (writePart t) (s, false) := if_neg h

theorem writePart_updPort (t : Nat) (r : State × Bool) (part : Nat × List Byte) :
    writePart t (updPort r.1 p g, r.2) part = (updPort (writePart t r part).1 p g, (writePart t r part).2) := by
  simp only [writePart, writeLoc_updPort]
  cases writeLoc r.1 t part.1 part.2 <;> rfl

theorem writeParts_updPort (t l : Nat) (bs : List Byte) :
    writeParts (updPort s p g) t l bs = (updPort (writeParts s t l bs).1 p g, (writeParts s t l bs).2) := by
  by_cases clean : s.bad = []
  · rw [writeParts_clean clean, writeParts_clean (s := updPort s p g) clean]
    rfl
  · rw [writeParts_dirty clean, writeParts_dirty (s := updPort s p g) clean]
    exact List.foldl_hom (init := (s, false)) (fun r : State × Bool => (updPort r.1 p g, r.2)) (writePart_updPort p g t)

theorem putWindow_updPort (c n : Nat) (pos : BitVec 32) (bs : List Byte) :
    putWindow (updPort s p g) c n pos bs = (updPort (putWindow s c n pos bs).1 p g, (putWindow s c n pos bs).2) := by
  have window : getWin (updPort s p g) c n = getWin s c n := rfl
  simp only [putWindow, window, writeParts_updPort]
  split <;> rfl

/-- What is appended to a window does not depend on the ports, and leaves them. -/
theorem appendWhole_updPort (c n : Nat) (bs : List Byte) :
    appendWhole (updPort s p g) c n bs = (appendWhole s c n bs).map fun u => updPort u p g := by
  have window : getWin (updPort s p g) c n = getWin s c n := rfl
  simp only [appendWhole, window, Option.map_map]
  refine congrArg (fun f => Option.map f _) (funext fun w => ?_)
  have put := putWindow_updPort (setWin s c n w) p g c n (getWin s c n).fill bs
  have held : setWin (updPort s p g) c n w = updPort (setWin s c n w) p g := rfl
  rw [held, put]
  rfl

end

/-! ### Steering (R396, R419-R421) -/

/-- R481: a frame for another station, with two tags, or too long. -/
def Foreign (q : Port) (f : Frame) : Prop :=
  (f.dest.getLsbD 40 = false ∧ f.dest ≠ q.station) ∨ 2 ≤ f.tags ∨ 9000 < f.length

theorem dropped_iff (q : Port) (f : Frame) : f.dropped q = true ↔ Foreign q f := by
  simp [Frame.dropped, Foreign, or_assoc]

/-- R420: an entry takes a frame: it is valid, for reception, and names the frame's plane, stream and symbol. -/
def Takes (b : Bridle) (f : Frame) : Prop :=
  b.f 63 63 = 1 ∧ b.f 62 62 = 0 ∧ b.f 61 60 = f.msgType / 2 ∧ b.f 51 36 = f.eaxc ∧ b.f 59 56 ≤ f.symbol ∧ f.symbol ≤ b.f 55 52

theorem takes_iff (b : Bridle) (f : Frame) : (b.live 0 && b.f 61 60 == f.msgType / 2 && b.f 51 36 == f.eaxc &&
    b.f 59 56 ≤ f.symbol && f.symbol ≤ b.f 55 52) = true ↔ Takes b f := by
  simp [Takes, Bridle.live, and_assoc]

theorem matchIn_none {s : State} {f : Frame} (h : ∀ n < 1024, ¬ Takes (getBridle s f.port n) f) :
    matchIn s f = none :=
  List.find?_range_eq_none.2 fun n hn =>
    (Bool.not_eq_true' _).mpr ((Bool.not_eq_true _).mp (mt (takes_iff _ f).1 (h n hn)))

theorem matchIn_some {s : State} {f : Frame} {n : Nat} (hn : n < 1024) (h : Takes (getBridle s f.port n) f)
    (before : ∀ m < n, ¬ Takes (getBridle s f.port m) f) : matchIn s f = some n :=
  List.find?_range_eq_some.2 ⟨(takes_iff _ f).2 h, List.mem_range.2 hn, fun m hm =>
    (Bool.not_eq_true' _).mpr ((Bool.not_eq_true _).mp (mt (takes_iff _ f).1 (before m hm)))⟩

/-- R420: an entry's site takes frames for its tenant. -/
def Admitted (s : State) (b : Bridle) : Prop := currentTenant s b.core = b.f 35 30 ∧ b.core ∉ s.disp.reclaims

/-- R396, R421: an entry's window takes a record, unless the frame is late and the entry drops late ones. -/
def Fits (s : State) (b : Bridle) (late : Bool) : Prop :=
  ¬ (late = true ∧ b.f 11 11 = 1) ∧ (coreEntry s b.core).fenced = false ∧ (getWin s b.core (b.f 19 16)).mode = 4

/-- R421: an entry with a frame of a timing class counted. -/
def timed (b : Bridle) (early late : Bool) : Bridle :=
  { b with early := if early then b.early + 1 else b.early, late := if late then b.late + 1 else b.late }

/-- R396: the header of a record, dword by dword. -/
theorem frameHeader_eq (f : Frame) (n : Nat) (early late : Bool) :
    frameHeader f (n != 0) early late = dwords
      [f.eaxc % 2 ^ 16 * 2 ^ 48 + f.frame % 2 ^ 8 * 2 ^ 40 + f.subframe % 2 ^ 4 * 2 ^ 36 + f.slot % 2 ^ 6 * 2 ^ 30 +
        f.symbol % 2 ^ 6 * 2 ^ 24 + f.sect % 2 ^ 12 * 2 ^ 12 + (if f.msgType = 0 then 0 else 8) +
        (if n = 0 then 0 else 4) + (if early then 2 else 0) + (if late then 1 else 0),
       f.prbs % 2 ^ 9 * 2 ^ 10 + f.startPrb % 2 ^ 10] := by
  have flag : ∀ (k m : Nat), b2n (k != 0) * m = if k = 0 then 0 else m := fun k m => by
    by_cases h : k = 0 <;> simp [b2n, h]
  have mark : ∀ (b : Bool) (m : Nat), b2n b * m = if b then m else 0 := fun b m => by cases b <;> simp [b2n]
  have last : b2n late = if late then 1 else 0 := rfl
  simp only [frameHeader, flag, mark, last]
  rfl

/-- A frame's record. -/
def recordOf (s : State) (b : Bridle) (f : Frame) : List Byte :=
  frameHeader f ((recordBody b f).2 != 0) (timingClass s b f).1 (timingClass s b f).2 ++ (recordBody b f).1

section
variable {s : State} {f : Frame} {n : Nat} {b : Bridle}

/-- R420: a site that another tenant has takes nothing. -/
theorem steer_refused (hb : getBridle s f.port n = b) (h : ¬ Admitted s b) :
    steer s f n = setBridle s f.port n { b with dropped := b.dropped + 1 } := by
  subst hb
  refine if_pos ?_
  simpa [Admitted, imp_iff_not_or] using h

theorem steer_admitted (hb : getBridle s f.port n = b) (h : Admitted s b) :
    steer s f n =
      if (timingClass s b f).2 && b.f 11 11 = 1 then
        setBridle s f.port n { timed b (timingClass s b f).1 (timingClass s b f).2 with dropped := b.dropped + 1 }
      else
        match appendFrame s b (recordOf s b f) with
        | some u => setBridle u f.port n { timed b (timingClass s b f).1 (timingClass s b f).2 with
            frames := b.frames + 1, saturated := b.saturated + BitVec.ofNat 16 (recordBody b f).2 }
        | none => setBridle s f.port n { timed b (timingClass s b f).1 (timingClass s b f).2 with dropped := b.dropped + 1 } := by
  subst hb
  refine if_neg ?_
  simpa [Admitted] using h

theorem appendFrame_unfit (h : ¬ Fits s b (timingClass s b f).2 ∨ appendWhole s b.core (b.f 19 16) (recordOf s b f) = none)
    (intime : ¬ ((timingClass s b f).2 = true ∧ b.f 11 11 = 1)) : appendFrame s b (recordOf s b f) = none := by
  unfold appendFrame
  dsimp only
  split
  next => rfl
  next usable =>
    refine h.resolve_left (not_not_intro ⟨intime, ?_⟩)
    simpa using usable

/-- R396, R421: a frame that is too late, or that its window does not take, is dropped. -/
theorem steer_unfit (hb : getBridle s f.port n = b) (ha : Admitted s b)
    (h : ¬ Fits s b (timingClass s b f).2 ∨ appendWhole s b.core (b.f 19 16) (recordOf s b f) = none) :
    steer s f n =
      setBridle s f.port n { timed b (timingClass s b f).1 (timingClass s b f).2 with dropped := b.dropped + 1 } := by
  rw [steer_admitted hb ha]
  split
  next => rfl
  next intime => rw [appendFrame_unfit h (by simpa using intime)]

/-- R396: a frame's record is appended whole. -/
theorem steer_appended {u : State} (hb : getBridle s f.port n = b) (ha : Admitted s b) (h : Fits s b (timingClass s b f).2)
    (happ : appendWhole s b.core (b.f 19 16) (recordOf s b f) = some u) :
    steer s f n = setBridle u f.port n { timed b (timingClass s b f).1 (timingClass s b f).2 with
      frames := b.frames + 1, saturated := b.saturated + BitVec.ofNat 16 (recordBody b f).2 } := by
  obtain ⟨intime, alive, mode⟩ := h
  have appends : appendFrame s b (recordOf s b f) = some u := by simp [appendFrame, alive, mode, happ]
  rw [steer_admitted hb ha, if_neg (by simpa using intime), appends]

end

/-- R420: a frame goes where the entry that takes it says, or is counted as unmatched. -/
def steered (s : State) (f : Frame) : State := (matchIn s f).elim (unmatched s f.port) (steer s f)

theorem steered_none {s : State} {f : Frame} (h : matchIn s f = none) : steered s f = unmatched s f.port :=
  congrArg (fun m : Option Nat => m.elim (unmatched s f.port) (steer s f)) h

theorem steered_some {s : State} {f : Frame} {n : Nat} (h : matchIn s f = some n) : steered s f = steer s f n :=
  congrArg (fun m : Option Nat => m.elim (unmatched s f.port) (steer s f)) h

/-! ### Frames taken in (R396, R420, R481, R483, R484) -/

/-- R484: the port of a frame has timestamped it. -/
def stampedIn (s : State) (f : Frame) : State := updPort s f.port fun q => { q with stampIn := stampOf s f }

section
variable {s : State} {f : Frame}

theorem exec_ingressFrame (hg : Given s (.frame f)) : exec .ingressFrame s = .next (receive (taken s) f) :=
  next_picked (o := pickFrame s) (takeInput_given hg _)

theorem port_stampedIn (s : State) (f : Frame) : (mapGet {} (stampedIn s f).eng.ports f.port : Port) =
    { (mapGet {} s.eng.ports f.port : Port) with stampIn := stampOf s f } := port_updPort _ _ _

/-- R483: a port that is off takes nothing in. -/
theorem receive_off (h : (mapGet {} s.eng.ports f.port : Port).mode = 0) : receive s f = s :=
  if_pos ((congrArg Port.mode (port_stampedIn s f)).trans h)

/-- What a port that is on looks at, in order. -/
theorem receive_on (h : (mapGet {} s.eng.ports f.port : Port).mode ≠ 0) : receive s f =
    if !f.fcsOk then updPort (stampedIn s f) f.port fun q => { q with fcs := q.fcs + 1 }
    else if f.dropped (mapGet {} (stampedIn s f).eng.ports f.port) then unmatched (stampedIn s f) f.port
    else if f.isPtp then stampedIn s f
    else if !f.ecpri || (f.msgType != 0 && f.msgType != 2) then unmatched (stampedIn s f) f.port
    else steered (stampedIn s f) f := by
  have unfolded : receive s f = if (mapGet {} (stampedIn s f).eng.ports f.port : Port).mode = 0 then s else _ := rfl
  rw [unfolded, if_neg ((congrArg Port.mode (port_stampedIn s f)).trans_ne h)]
  unfold steered stampedIn
  generalize matchIn _ f = entry
  cases entry <;> rfl

theorem dropped_stampedIn (s : State) (f : Frame) :
    f.dropped (mapGet {} (stampedIn s f).eng.ports f.port) = true ↔ Foreign (mapGet {} s.eng.ports f.port) f := by
  rw [dropped_iff, port_stampedIn]
  rfl

section
variable (on : (mapGet {} s.eng.ports f.port : Port).mode ≠ 0)
include on

theorem receive_badFcs (h : f.fcsOk = false) :
    receive s f = updPort (stampedIn s f) f.port fun q => { q with fcs := q.fcs + 1 } := by
  rw [receive_on on, h]
  rfl

variable (ok : f.fcsOk = true)
include ok

section
variable (near : ¬ Foreign (mapGet {} s.eng.ports f.port) f)
include near

theorem receive_near : receive s f =
    if f.isPtp then stampedIn s f
    else if !f.ecpri || (f.msgType != 0 && f.msgType != 2) then unmatched (stampedIn s f) f.port
    else steered (stampedIn s f) f := by
  rw [receive_on on, ok, if_neg (mt (dropped_stampedIn s f).1 near)]
  rfl

theorem receive_ptp (h : f.isPtp = true) : receive s f = stampedIn s f := by
  rw [receive_near on ok near, if_pos h]

/-- R420: an eCPRI frame of user data or control goes where its entry says. -/
theorem receive_ecpri (notPtp : f.isPtp = false) (ecpri : f.ecpri = true) (kind : f.msgType = 0 ∨ f.msgType = 2) :
    receive s f = steered (stampedIn s f) f := by
  have known : ¬ (!f.ecpri || (f.msgType != 0 && f.msgType != 2)) = true := by
    rcases kind with h | h <;> simp [ecpri, h]
  rw [receive_near on ok near, notPtp, if_neg Bool.false_ne_true, if_neg known]

end

/-- R420, R481: a frame that is not for the port, or of no kind that it steers. -/
theorem receive_unknown (h : Foreign (mapGet {} s.eng.ports f.port) f ∨
      (f.isPtp = false ∧ (f.ecpri = false ∨ (f.msgType ≠ 0 ∧ f.msgType ≠ 2)))) :
    receive s f = unmatched (stampedIn s f) f.port := by
  by_cases far : Foreign (mapGet {} s.eng.ports f.port) f
  · rw [receive_on on, ok, if_pos ((dropped_stampedIn s f).2 far)]
    rfl
  · obtain ⟨notPtp, other⟩ := h.resolve_left far
    rw [receive_near on ok far, notPtp, if_neg Bool.false_ne_true, if_pos (by simpa using other)]

end

end

/-! ### What a port's frame changes (R396, R420, R421, R481, R483, R484) -/

/-- The record of a frame, as its header and its payload. -/
theorem recordOf_stampedIn (s : State) (b : Bridle) (f : Frame) : recordOf (stampedIn (taken s) f) b f =
    dwords
      [f.eaxc % 2 ^ 16 * 2 ^ 48 + f.frame % 2 ^ 8 * 2 ^ 40 + f.subframe % 2 ^ 4 * 2 ^ 36 + f.slot % 2 ^ 6 * 2 ^ 30 +
        f.symbol % 2 ^ 6 * 2 ^ 24 + f.sect % 2 ^ 12 * 2 ^ 12 + (if f.msgType = 0 then 0 else 8) +
        (if (recordBody b f).2 = 0 then 0 else 4) + (if (timingClass s b f).1 then 2 else 0) +
        (if (timingClass s b f).2 then 1 else 0),
       f.prbs % 2 ^ 9 * 2 ^ 10 + f.startPrb % 2 ^ 10] ++ (recordBody b f).1 :=
  congrArg (· ++ (recordBody b f).1) (frameHeader_eq f _ _ _)

/-- The port's timestamp does not change what is appended to a window. -/
theorem appendWhole_stampedIn (s : State) (f : Frame) (c n : Nat) (bs : List Byte) :
    appendWhole (stampedIn s f) c n bs =
      (appendWhole s c n bs).map fun u => updPort u f.port fun q => { q with stampIn := stampOf s f } :=
  appendWhole_updPort _ _ _ _ _ _

section
variable {s : State} {f : Frame} (hg : Given s (.frame f))
include hg

theorem exec_receives {u : State} (h : receive (taken s) f = u) : exec .ingressFrame s = .next u :=
  (exec_ingressFrame hg).trans (congrArg _ h)

/-- R481: a frame with a bad check sequence is counted. -/
theorem badFcs_counted (on : (mapGet {} s.eng.ports f.port : Port).mode ≠ 0) (bad : f.fcsOk = false) :
    Completes .ingressFrame s fun t => (mapGet {} t.eng.ports f.port : Port) =
        { (mapGet {} s.eng.ports f.port : Port) with
          stampIn := stampOf s f, fcs := (mapGet {} s.eng.ports f.port : Port).fcs + 1 } ∧
      t.mem = s.mem ∧ t.eng.windows = s.eng.windows := by
  refine ⟨_, exec_receives hg (receive_badFcs on bad), (port_updPort _ _ _).trans ?_, rfl, rfl⟩
  rw [port_stampedIn]
  rfl

/-- R420, R481: a frame that is not steered is counted at its port, and nothing else changes. -/
theorem unmatched_counted (h : receive (taken s) f = unmatched (stampedIn (taken s) f) f.port) :
    Completes .ingressFrame s fun t => (mapGet {} t.eng.ports f.port : Port) =
        { (mapGet {} s.eng.ports f.port : Port) with
          stampIn := stampOf s f, unmatched := (mapGet {} s.eng.ports f.port : Port).unmatched + 1 } ∧
      t.mem = s.mem ∧ t.eng.windows = s.eng.windows := by
  refine ⟨_, exec_receives hg h, (port_updPort _ _ _).trans ?_, rfl, rfl⟩
  rw [port_stampedIn]
  rfl

variable {n : Nat} {b : Bridle} (hb : getBridle s f.port n = b)
  (steers : receive (taken s) f = steer (stampedIn (taken s) f) f n)
include hb steers

/-- R420: a frame for a site that its tenant does not have is dropped. -/
theorem refused_dropped (h : ¬ Admitted s b) : Completes .ingressFrame s fun t =>
    getBridle t f.port n = { b with dropped := b.dropped + 1 } ∧ t.mem = s.mem ∧ t.eng.windows = s.eng.windows :=
  ⟨_, exec_receives hg (steers.trans (steer_refused hb h)), getBridle_setBridle _ _ _ _, rfl, rfl⟩

variable (ha : Admitted s b)
include ha

/-- R396, R421: a frame that its window does not take is classified and dropped. -/
theorem unfit_dropped (h : ¬ Fits s b (timingClass s b f).2 ∨
      appendWhole (taken s) b.core (b.f 19 16) (recordOf (stampedIn (taken s) f) b f) = none) :
    Completes .ingressFrame s fun t =>
      getBridle t f.port n = { timed b (timingClass s b f).1 (timingClass s b f).2 with dropped := b.dropped + 1 } ∧
        t.mem = s.mem ∧ t.eng.windows = s.eng.windows := by
  have unfit : ¬ Fits (stampedIn (taken s) f) b (timingClass (stampedIn (taken s) f) b f).2 ∨
      appendWhole (stampedIn (taken s) f) b.core (b.f 19 16) (recordOf (stampedIn (taken s) f) b f) = none :=
    h.imp_right fun full => (appendWhole_stampedIn _ _ _ _ _).trans (congrArg _ full)
  exact ⟨_, exec_receives hg (steers.trans (steer_unfit hb ha unfit)), getBridle_setBridle _ _ _ _, rfl, rfl⟩

/-- R396: a frame's record is appended whole, and the frame is classified and counted. -/
theorem record_appended {u : State} (h : Fits s b (timingClass s b f).2)
    (happ : appendWhole (taken s) b.core (b.f 19 16) (recordOf (stampedIn (taken s) f) b f) = some u) :
    Completes .ingressFrame s fun t => t.mem = u.mem ∧ t.eng.windows = u.eng.windows ∧
      getBridle t f.port n = { timed b (timingClass s b f).1 (timingClass s b f).2 with
        frames := b.frames + 1, saturated := b.saturated + BitVec.ofNat 16 (recordBody b f).2 } := by
  have appended := (appendWhole_stampedIn (taken s) f _ _ _).trans (congrArg _ happ)
  exact ⟨_, exec_receives hg (steers.trans (steer_appended hb ha h appended)), rfl, rfl, getBridle_setBridle _ _ _ _⟩

end

end Sys2Proof.Proofs
end

section
/-! SUPPORT. Messages that leave in frames: when the head message of a window goes, and how (R23, R264, R322, R397,
R422, R430, R481-R484). -/

namespace Sys2Proof.Proofs

open Sys2Proof.Machine Sys2Proof.Safety Sys2Proof.Rules Sys2Proof.Laws

/-! ### Sending a message (R397, R481, R482, R484) -/

/-- R482: the frame that an entry of a port sends for a message. -/
def frameOf (s : State) (p e : Nat) (body : List Byte) : Sent :=
  let b := getBridle s p e
  let q : Port := mapGet {} s.eng.ports p
  { port := p, dest := q.peer, source := q.station, vlan := if q.vlanTag then some q.vlanId else none,
    cplane := b.f 61 60 == 1, eaxc := b.f 51 36, seq := mapGet 0 q.seq (b.f 51 36), payload := (egressBody b body).1 }

section
variable {s : State} {p e : Nat} {b : Bridle} {body : List Byte}

/-- R481: a message too long for a frame is dropped. -/
theorem transmit_long (hb : getBridle s p e = b) (h : ¬ 8 + (egressBody b body).1.length ≤ 9000) :
    transmit s p e body = setBridle s p e { b with dropped := b.dropped + 1 } := by
  subst hb
  exact if_pos (Nat.lt_of_not_le h)

/-- What sending a message changes. -/
theorem transmit_short (hb : getBridle s p e = b) (h : 8 + (egressBody b body).1.length ≤ 9000) :
    (transmit s p e body).eng.windows = s.eng.windows ∧
      getBridle (transmit s p e body) p e = { b with saturated := b.saturated + BitVec.ofNat 16 (egressBody b body).2 } ∧
      (transmit s p e body).eng.sent = frameOf s p e body :: s.eng.sent ∧
      (mapGet {} (transmit s p e body).eng.ports p : Port) =
        { (mapGet {} s.eng.ports p : Port) with
          seq := mapSet 0 (mapGet {} s.eng.ports p : Port).seq (b.f 51 36)
            (mapGet 0 (mapGet {} s.eng.ports p : Port).seq (b.f 51 36) + 1)
          stampOut := s.fine } := by
  subst hb
  have unfolded : transmit s p e body = if 9000 < 8 + (egressBody (getBridle s p e) body).1.length then _ else _ := rfl
  rw [unfolded, if_neg (Nat.not_lt.2 h)]
  exact ⟨rfl, getBridle_setBridle _ _ _ _, rfl, mapGet_set_same _ _ _ _⟩

/-- Sent frames stay sent. -/
theorem sent_transmit {out : Sent} (h : out ∈ s.eng.sent) : out ∈ (transmit s p e body).eng.sent := by
  by_cases short : 8 + (egressBody (getBridle s p e) body).1.length ≤ 9000
  · obtain ⟨-, -, sent, -⟩ := transmit_short rfl short
    rw [sent]
    exact List.mem_cons_of_mem _ h
  · rw [transmit_long rfl short]
    exact h

end

/-! ### The head message of a window (R397, R422) -/

section
variable {s : State} {t c n p e time z : Nat} {body : List Byte}

theorem drainOut_unsent (hm : headMsg s c n = some (time, body, z)) (ho : matchOut s c n = none) :
    drainOut s t c n = some (passMsg s c n z) := by
  simp only [drainOut, hm, ho, Option.bind_some]

variable (hm : headMsg s c n = some (time, body, z)) (ho : matchOut s c n = some (p, e))
include hm ho

theorem drainOut_sendable : drainOut s t c n =
    if t < time then none
    else if time + (getBridle s p e).cfg1.toNat % 2 ^ 32 < t then
      some (passMsg (setBridle s p e { getBridle s p e with dropped := (getBridle s p e).dropped + 1 }) c n z)
    else some (passMsg (transmit s p e body) c n z) := by
  have late : bits (getBridle s p e).cfg1.toNat 31 0 = (getBridle s p e).cfg1.toNat % 2 ^ 32 :=
    congrArg (· % 2 ^ 32) (Nat.div_one _)
  simp only [drainOut, hm, ho, Option.bind_some, late]

theorem drainOut_early (h : t < time) : drainOut s t c n = none := by
  rw [drainOut_sendable hm ho, if_pos h]

theorem drainOut_late (h : time + (getBridle s p e).cfg1.toNat % 2 ^ 32 < t) : drainOut s t c n =
    some (passMsg (setBridle s p e { getBridle s p e with dropped := (getBridle s p e).dropped + 1 }) c n z) := by
  rw [drainOut_sendable hm ho, if_neg (by omega), if_pos h]

theorem drainOut_due (h : time ≤ t) (h' : t ≤ time + (getBridle s p e).cfg1.toNat % 2 ^ 32) :
    drainOut s t c n = some (passMsg (transmit s p e body) c n z) := by
  rw [drainOut_sendable hm ho, if_neg (Nat.not_lt.2 h), if_neg (Nat.not_lt.2 h')]

end

/-- Sent frames stay sent. -/
theorem sent_drainOut {s u : State} {t c n : Nat} {out : Sent} (h : drainOut s t c n = some u) (sent : out ∈ s.eng.sent) :
    out ∈ u.eng.sent := by
  obtain ⟨⟨time, body, z⟩, hm, -⟩ := Option.bind_eq_some_iff.1 h
  cases ho : matchOut s c n with
  | none =>
    rw [drainOut_unsent hm ho] at h
    exact Option.some.inj h ▸ sent
  | some entry =>
    rw [drainOut_sendable hm ho] at h
    split at h
    · cases h
    · split at h
      · exact Option.some.inj h ▸ sent
      · exact Option.some.inj h ▸ sent_transmit sent

theorem sent_drainOn {c n : Nat} {out : Sent} (k : Nat) {t : Nat} {s : State} (sent : out ∈ s.eng.sent) :
    out ∈ (drainOn c n k t s).eng.sent := by
  induction k generalizing t s with
  | zero => exact sent
  | succ k ih =>
    unfold drainOn
    split
    · exact sent
    · split
      · exact sent
      · split
        next m _ _ u hu => exact ih (sent_drainOut hu sent)
        next => exact sent

/-! ### The window that is drained (R23, R264, R322, R483) -/

theorem drains_other (s : State) {x : Nat × Window} (h : x.2.mode ≠ 5) : drains s x = false := by
  simp [drains, h]

theorem outOff_iff (s : State) (c n : Nat) : outOff s c n = true ↔
    ∃ p e, matchOut s c n = some (p, e) ∧ (mapGet {} s.eng.ports p : Port).mode = 0 := by
  simp only [outOff, Option.any_eq_true, beq_iff_eq, Prod.exists]

theorem outOff_on {s : State} {c n p e : Nat} (ho : matchOut s c n = some (p, e))
    (on : (mapGet {} s.eng.ports p : Port).mode ≠ 0) : outOff s c n = false := by
  rw [outOff, ho]
  exact beq_eq_false_iff_ne.2 on

/-- A search among the elements of a list that are let through. -/
theorem findSome?_guarded {α β : Type} (p : α → Bool) (f : α → Option β) (l : List α) :
    l.findSome? (fun x => if p x then f x else none) = (l.filter p).findSome? f := by
  induction l with
  | nil => rfl
  | cons x l ih => cases h : p x <;> simp [List.findSome?_cons, h, ih]

theorem headBad_false {s : State} {c n : Nat} {m : Nat × List Byte × Nat} (h : headMsg s c n = some m) :
    headBad s c n = false := by
  simp [headBad, h]

/-- A message at the head that can be read goes by its launch time. -/
theorem launchNow_message {s : State} {c n : Nat} {m : Nat × List Byte × Nat} (h : headMsg s c n = some m) :
    launchNow s c n = drainOut s s.time.now.toNat c n := by
  rw [launchNow, headBad_false h]
  rfl

/-- R264: a head that cannot be read has its core fenced. -/
theorem launchNow_bad {s : State} {c n : Nat} (alive : coreDead s c = false) (avail : 16 ≤ (getWin s c n).avail)
    (h : headMsg s c n = none) : launchNow s c n = some { s with fenceReq := s.fenceReq ++ [c] } := by
  have bad : headBad s c n = true := by simp [headBad, h, avail]
  have fresh : s.fenceReq.contains c = false := (Bool.or_eq_false_iff.1 alive).2
  rw [launchNow, bad, if_pos rfl, askFence, fresh]
  rfl

/-- The windows once the head of the first one has moved past a message. -/
def windowsPassed (k : Nat) (w : Window) (rest : SMap Window) (z : Nat) : SMap Window :=
  if { w with head := w.head + BitVec.ofNat 32 z } = ({} : Window) then rest
  else mapInsert rest k { w with head := w.head + BitVec.ofNat 32 z }

section
variable {s : State} {c n : Nat} {w : Window} {rest : SMap Window} (hw : s.eng.windows = (16 * c + n, w) :: rest)
include hw

theorem getWin_first : getWin s c n = w := by
  rw [getWin, hw]
  exact if_pos rfl

/-- The head of the first window moves on. -/
theorem passMsg_windows {u : State} (hu : u.eng.windows = s.eng.windows) (once : ∀ x ∈ rest, x.1 ≠ 16 * c + n)
    (z : Nat) :
    (passMsg u c n z).eng.windows = windowsPassed (16 * c + n) w rest z := by
  have window : getWin u c n = w := getWin_first (hu.trans hw)
  have erased : mapErase u.eng.windows (16 * c + n) = rest := by
    rw [hu, hw, mapErase, List.filter_cons_of_neg (by simp), List.filter_eq_self]
    exact fun x hx => bne_iff_ne.2 (once x hx)
  have set : (passMsg u c n z).eng.windows =
      mapSet {} u.eng.windows (16 * c + n) { getWin u c n with head := (getWin u c n).head + BitVec.ofNat 32 z } := rfl
  rw [set, window, mapSet, erased]
  rfl

section
variable (hn : n < 16) (mode : w.mode = 5) (others : ∀ x ∈ rest, x.2.mode ≠ 5)
include hn mode others

/-- The ports drain the first window alone, unless its core is dead or its port off. -/
theorem filter_drains : s.eng.windows.filter (drains s) =
    if coreDead s c = false ∧ outOff s c n = false then [(16 * c + n, w)] else [] := by
  have core : (16 * c + n) / 16 = c := by omega
  have number : (16 * c + n) % 16 = n := by omega
  have first : drains s (16 * c + n, w) = true ↔ coreDead s c = false ∧ outOff s c n = false := by
    simp [drains, core, number, mode]
  have idle : rest.filter (drains s) = [] := List.filter_eq_nil_iff.2 fun x hx => by simp [drains_other s (others x hx)]
  rw [hw, List.filter_cons, idle]
  exact if_congr first rfl rfl

theorem pickLaunch_first :
    pickLaunch s = if coreDead s c = false ∧ outOff s c n = false then launchNow s c n else none := by
  have core : (16 * c + n) / 16 = c := by omega
  have number : (16 * c + n) % 16 = n := by omega
  have picked : pickLaunch s =
      (s.eng.windows.filter (drains s)).findSome? fun p => launchNow s (p.1 / 16) (p.1 % 16) :=
    findSome?_guarded _ _ _
  rw [picked, filter_drains hw hn mode others]
  split
  · simp only [List.findSome?_singleton, core, number]
  · rfl

/-- R23, R322, R483: the windows of a dead core send nothing, nor does a port that is off. -/
theorem launch_stopped (h : coreDead s c = true ∨ outOff s c n = true) : exec .fhoutLaunch s = .next s := by
  have stopped : ¬ (coreDead s c = false ∧ outOff s c n = false) := by
    rcases h with h | h <;> simp [h]
  show Host.Outcome.next ((pickLaunch s).getD s) = _
  rw [pickLaunch_first hw hn mode others, if_neg stopped]
  rfl

variable (alive : coreDead s c = false)
include alive

theorem exec_fhoutLaunch (on : outOff s c n = false) : exec .fhoutLaunch s = .next ((launchNow s c n).getD s) := by
  show Host.Outcome.next ((pickLaunch s).getD s) = _
  rw [pickLaunch_first hw hn mode others, if_pos ⟨alive, on⟩]

/-- R264: a head that cannot be read has its core fenced. -/
theorem launch_unreadable (on : outOff s c n = false) (avail : 16 ≤ w.avail) (hm : headMsg s c n = none) :
    exec .fhoutLaunch s = .next { s with fenceReq := s.fenceReq ++ [c] } := by
  rw [exec_fhoutLaunch hw hn mode others alive on, launchNow_bad alive (by rwa [getWin_first hw]) hm]
  rfl

variable {time z : Nat} {body : List Byte} (hm : headMsg s c n = some (time, body, z))
include hm

/-- R422: a message that no entry sends is dropped. -/
theorem launch_unsent (ho : matchOut s c n = none) : exec .fhoutLaunch s = .next (passMsg s c n z) := by
  have on : outOff s c n = false := by rw [outOff, ho]; rfl
  rw [exec_fhoutLaunch hw hn mode others alive on, launchNow_message hm, drainOut_unsent hm ho]
  rfl

variable {p e : Nat} (ho : matchOut s c n = some (p, e)) (on : (mapGet {} s.eng.ports p : Port).mode ≠ 0)
include ho on

/-- R397: a message of a port that is on goes by its launch time. -/
theorem exec_launch_message :
    exec .fhoutLaunch s = .next ((drainOut s s.time.now.toNat c n).getD s) := by
  rw [exec_fhoutLaunch hw hn mode others alive (outOff_on ho on), launchNow_message hm]

theorem exec_launch_due (due : time ≤ s.time.now.toNat)
    (onTime : s.time.now.toNat ≤ time + (getBridle s p e).cfg1.toNat % 2 ^ 32) :
    exec .fhoutLaunch s = .next (passMsg (transmit s p e body) c n z) := by
  rw [exec_launch_message hw hn mode others alive hm ho on, drainOut_due hm ho due onTime]
  rfl

/-- R422: a message waits for its launch time. -/
theorem launch_waits (early : s.time.now.toNat < time) : exec .fhoutLaunch s = .next s := by
  rw [exec_launch_message hw hn mode others alive hm ho on, drainOut_early hm ho early]
  rfl

/-- R430: a message whose launch time device time passes is sent then. -/
theorem launchDue_sends {t : Nat} (sends : 8 + (egressBody (getBridle s p e) body).1.length ≤ 9000) (before : t < time)
    (after : time ≤ s.time.now.toNat) : frameOf s p e body ∈ (launchDue t s).eng.sent := by
  have core : (16 * c + n) / 16 = c := by omega
  have number : (16 * c + n) % 16 = n := by omega
  have due : launchDue t s = drainOn c n ((getWin s c n).avail / 64 + 1) t s := by
    rw [launchDue, filter_drains hw hn mode others, if_pos ⟨alive, outOff_on ho on⟩]
    simp only [List.foldl_cons, List.foldl_nil, core, number, hm, Option.any_some, before, decide_true, if_true]
  have reached : ¬ s.time.now.toNat < time := Nat.not_lt.2 after
  have atTime : max t time = time := max_eq_right before.le
  have sent : frameOf s p e body ∈ (passMsg (transmit s p e body) c n z).eng.sent := by
    obtain ⟨-, -, sent, -⟩ := transmit_short rfl sends
    exact sent ▸ List.mem_cons_self
  have goes := drainOut_due hm ho (le_refl time) (Nat.le_add_right _ _)
  rw [due, drainOn]
  simp only [hm, State.nowNs, reached, if_false, atTime, goes]
  exact sent_drainOn _ sent

variable (once : ∀ x ∈ rest, x.1 ≠ 16 * c + n)
include once

/-- R422: a message that is too late is dropped and counted. -/
theorem late_dropped (late : time + (getBridle s p e).cfg1.toNat % 2 ^ 32 < s.time.now.toNat) :
    Completes .fhoutLaunch s fun t => t.eng.windows = windowsPassed (16 * c + n) w rest z ∧ t.eng.sent = s.eng.sent ∧
      getBridle t p e = { getBridle s p e with dropped := (getBridle s p e).dropped + 1 } := by
  have goes := exec_launch_message hw hn mode others alive hm ho on
  rw [drainOut_late hm ho late] at goes
  exact ⟨_, goes, passMsg_windows hw rfl once z, rfl, getBridle_setBridle _ _ _ _⟩

variable (due : time ≤ s.time.now.toNat)
  (onTime : s.time.now.toNat ≤ time + (getBridle s p e).cfg1.toNat % 2 ^ 32)
include due onTime

/-- R481: a message too long for a frame is dropped and counted. -/
theorem long_dropped (long : ¬ 8 + (egressBody (getBridle s p e) body).1.length ≤ 9000) :
    Completes .fhoutLaunch s fun t => t.eng.windows = windowsPassed (16 * c + n) w rest z ∧ t.eng.sent = s.eng.sent ∧
      getBridle t p e = { getBridle s p e with dropped := (getBridle s p e).dropped + 1 } := by
  have goes := exec_launch_due hw hn mode others alive hm ho on due onTime
  rw [transmit_long rfl long] at goes
  exact ⟨_, goes, passMsg_windows hw rfl once z, rfl, getBridle_setBridle _ _ _ _⟩

/-- R90, R397, R482, R484: a message on time leaves in one frame, which its port numbers and timestamps. -/
theorem message_sent (short : 8 + (egressBody (getBridle s p e) body).1.length ≤ 9000) :
    let b := getBridle s p e
    let q : Port := mapGet {} s.eng.ports p
    let id := b.cfg0.toNat / 2 ^ 36 % 2 ^ 16
    Completes .fhoutLaunch s fun t => t.eng.windows = windowsPassed (16 * c + n) w rest z ∧
      getBridle t p e = { b with saturated := b.saturated + BitVec.ofNat 16 (egressBody b body).2 } ∧
      (∃ out : Sent, t.eng.sent = out :: s.eng.sent ∧ out.port = p ∧ out.dest = q.peer ∧ out.source = q.station ∧
        out.vlan = (if q.vlanTag then some q.vlanId else none) ∧ out.eaxc = id ∧ out.seq = mapGet 0 q.seq id ∧
        out.cplane = decide (b.cfg0.toNat / 2 ^ 60 % 4 = 1) ∧ (b.cfg0.toNat / 2 ^ 60 % 4 = 1 → out.payload = body)) ∧
      (mapGet {} t.eng.ports p : Port).stampOut = s.time.now.toNat * 2 ^ 16 + s.time.frac.toNat ∧
      mapGet 0 (mapGet {} t.eng.ports p : Port).seq id = mapGet 0 q.seq id + 1 := by
  intro b q id
  obtain ⟨windows, entry, sent, port⟩ := transmit_short (s := s) (p := p) (e := e) rfl short
  exact ⟨_, exec_launch_due hw hn mode others alive hm ho on due onTime, passMsg_windows hw windows once z, entry,
    ⟨_, sent, rfl, rfl, rfl, rfl, rfl, rfl, rfl, fun control => congrArg Prod.fst (if_pos control)⟩,
    congrArg Port.stampOut port, (congrArg (fun q : Port => mapGet 0 q.seq id) port).trans (mapGet_set_same _ _ _ _)⟩

end

end

/-- Settles O46: a received frame by what its port looks at, in order, and a head message by its launch time. -/
theorem framesAreReceivedAndSent : Obligations.FramesAreReceivedAndSent := by
  refine fun s => ⟨fun f hg => ⟨fun off => exec_receives hg (receive_off off), fun on bad => badFcs_counted hg on bad,
    fun on ok near ptp => ⟨_, exec_receives hg (receive_ptp on ok near ptp), port_stampedIn _ _, rfl, rfl, rfl⟩,
    fun on ok lost => unmatched_counted hg (receive_unknown on ok lost), fun on ok near notPtp ecpri kind => ?_⟩,
    fun c n w rest hw hn mode others => ⟨fun dead => launch_stopped hw hn mode others (.inl dead),
      fun off => launch_stopped hw hn mode others (.inr ((outOff_iff s c n).2 off)),
      fun alive notOff avail unreadable => ?_, fun time body z alive once hm =>
        ⟨fun unsent => ?_, fun p e ho on => ⟨?_, ?_, ?_, ?_, ?_⟩⟩⟩⟩
  · have looksUp := receive_ecpri (s := taken s) on ok near notPtp ecpri kind
    refine ⟨fun nobody => unmatched_counted hg (looksUp.trans (steered_none (matchIn_none nobody))),
      fun n hn taker before => ?_⟩
    have steers := looksUp.trans (steered_some (matchIn_some (s := stampedIn (taken s) f) hn taker before))
    refine ⟨refused_dropped hg rfl steers, fun admitted unfit => unfit_dropped hg rfl steers admitted ?_,
      fun u admitted fits appended => record_appended hg rfl steers admitted fits ?_⟩
    · rwa [recordOf_stampedIn]
    · rwa [recordOf_stampedIn]
  · have on : outOff s c n = false := by simpa using mt (outOff_iff s c n).1 notOff
    exact launch_unreadable hw hn mode others alive on avail unreadable
  · exact ⟨_, launch_unsent hw hn mode others alive hm unsent, passMsg_windows hw rfl once z, rfl⟩
  · exact launch_waits hw hn mode others alive hm ho on
  · exact late_dropped hw hn mode others alive hm ho on once
  · exact fun onTime => long_dropped hw hn mode others alive hm ho on once onTime.1 onTime.2
  · exact fun onTime => message_sent hw hn mode others alive hm ho on once onTime.1 onTime.2
  · exact fun t sends before after =>
      ⟨_, launchDue_sends hw hn mode others alive hm ho on sends before after, rfl, rfl, rfl⟩

end Sys2Proof.Proofs
end

section
/-! SUPPORT. Device time, lock, links and the tether: what each input and each passing of time changes (R22, R427,
R428, R480, R484, R485). -/

namespace Sys2Proof.Proofs

open Sys2Proof.Machine Sys2Proof.Safety Sys2Proof.Rules Sys2Proof.Laws

/-! ### PTP and ESMC messages (R427, R428, R484, R485) -/

section
variable {s : State} {port master age : Nat}

/-- R483: a port that is off takes no message in. -/
theorem takePtp_off (h : (mapGet {} s.eng.ports port : Port).mode = 0) : takePtp s port master age = s := if_pos h

/-- R484: a port that is on timestamps the message. -/
theorem takePtp_on (h : (mapGet {} s.eng.ports port : Port).mode ≠ 0) :
    takePtp s port master age = { s with
      eng := { s.eng with ports := mapUpd {} s.eng.ports port fun q => { q with stampIn := s.fine - age } }
      time := if port = s.time.port ∧ s.time.stepped = true then
          { s.time with slew := (master : Int) - ↑(s.fine - age) } else s.time } := by
  simp only [takePtp, h, if_false, Bool.and_eq_true, decide_eq_true_eq]
  split <;> rfl

theorem exec_ptpFrame (hg : Given s (.ptp port master age)) :
    exec .ptpFrame s = .next (takePtp (taken s) port master age) :=
  next_picked (o := pickPtp s) (takeInput_given hg _)

/-- R428, R484, R485: the offset that a PTP message shows at the selected port is to be slewed away. -/
theorem ptp_taken (hg : Given s (.ptp port master age)) :
    let q : Port := mapGet {} s.eng.ports port
    let stamp : Nat := s.time.now.toNat * 2 ^ 16 + s.time.frac.toNat - age
    (q.mode = 0 → exec .ptpFrame s = .next (taken s)) ∧
    (q.mode ≠ 0 → Completes .ptpFrame s fun t => t.mem = s.mem ∧ t.hart = s.hart ∧
      (mapGet {} t.eng.ports port : Port) = { q with stampIn := stamp } ∧
      t.time = if port = s.time.port ∧ s.time.stepped = true then { s.time with slew := (master : Int) - stamp }
        else s.time) := by
  intro q stamp
  refine ⟨fun off => ?_, fun on => ⟨_, exec_ptpFrame hg, ?_⟩⟩
  · rw [exec_ptpFrame hg, takePtp_off (s := taken s) off]
  · rw [takePtp_on (s := taken s) on]
    exact ⟨rfl, rfl, mapGet_set_same _ _ _ _, rfl⟩

end

/-- R485: the quality level that the selected port brings is kept. -/
theorem esmc_taken {s : State} {port ql : Nat} (hg : Given s (.esmc port ql)) :
    exec .esmcMessage s = .next { taken s with time :=
      if port = s.time.port then { s.time with ssm := ql } else s.time } := by
  refine next_picked (o := pickEsmc s) ((takeInput_given hg _).trans (congrArg some ?_))
  exact (apply_ite (fun u : TimeUnit => { taken s with time := u }) (port = s.time.port) _ _).symm

/-! ### The step of device time (R427) -/

/-- R427: an entry of the slot table once its slots before a time are skipped. -/
def slotPassed (t : Nat) (e : Slot) : Slot :=
  if e.enable = true then
    { e with
      next := max e.next (e.firstFrom t)
      skipped := e.skipped + BitVec.ofNat 64 (max e.next (e.firstFrom t) - e.next) }
  else e

theorem slotPassed_disabled {t : Nat} {e : Slot} (h : e.enable = false) : slotPassed t e = e := by
  simp [slotPassed, h]

theorem slotPassed_enabled {t : Nat} {e : Slot} (h : e.enable = true) :
    slotPassed t e = { e with
      next := max e.next (e.firstFrom t)
      skipped := e.skipped + BitVec.ofNat 64 (max e.next (e.firstFrom t) - e.next) } := if_pos h

/-- An entry with no slot before the time is passed over as it is. -/
theorem slotPassed_ahead {t : Nat} {e : Slot} (h : e.firstFrom t ≤ e.next) : slotPassed t e = e := by
  unfold slotPassed
  split
  · simp [max_eq_left h]
  · rfl

/-- What `passSlots` does with one entry. -/
def passSlot (t : Nat) (s : State) (n : Nat) : State :=
  let e := getSlot s n
  let k := e.firstFrom t
  if e.enable && e.next < k then setSlot s n { e with next := k, skipped := e.skipped + BitVec.ofNat 64 (k - e.next) }
  else s

theorem passSlots_eq_foldl (s : State) (t : Nat) : passSlots s t = (List.range 128).foldl (passSlot t) s := rfl

/-- One entry is passed over, or is one that nothing is skipped of. -/
theorem passSlot_cases (t : Nat) (s : State) (n : Nat) :
    passSlot t s n = setSlot s n (slotPassed t (getSlot s n)) ∨
      (passSlot t s n = s ∧ slotPassed t (getSlot s n) = getSlot s n) := by
  unfold passSlot
  dsimp only
  split
  next h =>
    obtain ⟨enabled, behind⟩ : (getSlot s n).enable = true ∧ (getSlot s n).next < (getSlot s n).firstFrom t := by
      simpa using h
    rw [slotPassed_enabled enabled, max_eq_right behind.le]
    exact .inl rfl
  next h =>
    refine .inr ⟨rfl, ?_⟩
    cases enabled : (getSlot s n).enable
    · exact slotPassed_disabled enabled
    · exact slotPassed_ahead (by simpa [enabled] using h)

theorem getSlot_passSlot (t : Nat) (s : State) (n m : Nat) :
    getSlot (passSlot t s n) m = if m = n then slotPassed t (getSlot s m) else getSlot s m := by
  rcases passSlot_cases t s n with e | ⟨e, same⟩ <;> rw [e]
  · split
    next h => rw [h, getSlot_setSlot]
    next h => exact getSlot_setSlot_other s _ h
  · split
    next h => rw [h, same]
    next => rfl

/-- A state with another slot table. -/
def withSlots (s : State) (x : SMap Slot) : State := { s with disp := { s.disp with slots := x } }

/-- Passing over an entry changes the slot table alone. -/
theorem passSlot_rest (t : Nat) (s : State) (n : Nat) : passSlot t s n = withSlots s (passSlot t s n).disp.slots := by
  rcases passSlot_cases t s n with e | ⟨e, -⟩
  · rw [e]; rfl
  · rw [e]; rfl

/-- R427: every entry of the slot table is passed over, and nothing else changes. -/
theorem passSlots_cases (s : State) (t : Nat) : ∃ x, passSlots s t = withSlots s x ∧
    ∀ n < 128, (mapGet {} x n : Slot) = slotPassed t (getSlot s n) := by
  have first : ∀ k, ∃ x, (List.range k).foldl (passSlot t) s = withSlots s x ∧
      ∀ n, (mapGet {} x n : Slot) = if n < k then slotPassed t (getSlot s n) else getSlot s n := by
    intro k
    induction k with
    | zero => exact ⟨s.disp.slots, rfl, fun _ => rfl⟩
    | succ k ih =>
      obtain ⟨x, e, entries⟩ := ih
      refine ⟨(passSlot t (withSlots s x) k).disp.slots, ?_, fun n => ?_⟩
      · rw [List.range_succ, List.foldl_append, e]
        exact passSlot_rest t (withSlots s x) k
      · have old : getSlot (withSlots s x) n = _ := entries n
        refine (getSlot_passSlot t (withSlots s x) k n).trans ?_
        rw [old]
        rcases Nat.lt_trichotomy n k with below | rfl | above
        · simp [below, below.ne, Nat.lt_succ_of_lt below]
        · simp
        · simp [above.ne', above.not_gt, Nat.not_lt.2 (Nat.succ_le_of_lt above)]
  obtain ⟨x, e, entries⟩ := first 128
  exact ⟨x, e, fun n hn => (entries n).trans (if_pos hn)⟩

/-- An empty slot table has nothing to skip. -/
theorem passSlots_empty {s : State} (h : s.disp.slots = []) (t : Nat) : passSlots s t = s := by
  refine (passSlots_eq_foldl s t).trans (List.foldl_fixed' (fun n => ?_) _)
  have fresh : getSlot s n = {} := by rw [getSlot, h]; rfl
  simp [passSlot, fresh]

/-- The time unit at the first lock. -/
def firstLocked (u : TimeUnit) (v : Dword) : TimeUnit :=
  if u.now.toNat < v.toNat then { u with now := v, frac := 0, stepped := true, lock := 1 }
  else { u with stepped := true, lock := 1 }

theorem firstLocked_now (u : TimeUnit) (v : Dword) :
    (firstLocked u v).now.toNat = max u.now.toNat v.toNat := by
  unfold firstLocked
  split
  next h => exact (max_eq_right h.le).symm
  next h => exact (max_eq_left (Nat.not_lt.1 h)).symm

theorem firstLocked_locked (u : TimeUnit) (v : Dword) :
    (firstLocked u v).stepped = true ∧ (firstLocked u v).lock = 1 := by
  unfold firstLocked
  split <;> exact ⟨rfl, rfl⟩

/-- Device time set to a whole number of nanoseconds. -/
theorem setFine_ns (s : State) (v : Dword) :
    setFine s (v.toNat * 65536) = updTime s fun u => { u with now := v, frac := 0 } := by
  have ns : BitVec.ofNat 64 (v.toNat * 65536 / 65536) = v := by
    rw [Nat.mul_div_cancel _ (by decide), BitVec.ofNat_toNat, BitVec.setWidth_eq]
  have frac : BitVec.ofNat 16 (v.toNat * 65536) = 0 := BitVec.eq_of_toNat_eq (by simp)
  rw [setFine, ns, frac]

theorem firstLock_stepped {s : State} (h : s.time.stepped = true) (v : Dword) : firstLock s v = s := if_pos h

/-- R427: the first lock sets the time, passes over slots and deadlines, and is recorded. -/
theorem firstLock_eq {s : State} (h : s.time.stepped = false) (v : Dword) :
    firstLock s v = telemetryOpen (passDeadlines (passSlots (updTime s fun u => firstLocked u v)
      (firstLocked s.time v).now.toNat)) 0x0004 none none := by
  have set : (if s.time.now.toNat < v.toNat then
      setFine (updTime s fun u => { u with stepped := true, lock := 1 }) (v.toNat * 65536)
      else updTime s fun u => { u with stepped := true, lock := 1 }) = updTime s fun u => firstLocked u v := by
    by_cases ahead : s.time.now.toNat < v.toNat
    · rw [if_pos ahead, setFine_ns]
      exact congrArg (fun u : TimeUnit => { s with time := u }) (if_pos ahead).symm
    · rw [if_neg ahead]
      exact congrArg (fun u : TimeUnit => { s with time := u }) (if_neg ahead).symm
  simp only [firstLock, h, Bool.false_eq_true, if_false, set]
  rfl

theorem exec_timeStep {s : State} {v : Dword} (hg : Given s (.timeStep v)) :
    exec .timeStep s = .next (firstLock (taken s) v) :=
  next_picked (o := pickTimeStep s) (takeInput_given hg _)

theorem passDeadlines_none {s : State} (h : s.disp.trees = []) : passDeadlines s = s := by
  rw [passDeadlines, h]
  rfl

/-- R358, R427: a tree whose deadline the step passes over is abandoned. -/
theorem passDeadlines_one {s : State} {k : Nat} {tr : Tree} (h : s.disp.trees = [(k, some tr)]) :
    passDeadlines s = if tr.deadline.toNat ≠ 2 ^ 64 - 1 ∧ tr.deadline.toNat ≤ s.time.now.toNat then
      abandonTree s (BitVec.ofNat 32 k) false else s := by
  have best : tr.deadline = bestEffort ↔ tr.deadline.toNat = 2 ^ 64 - 1 := BitVec.toNat_eq
  simp only [passDeadlines, h, List.foldl_cons, List.foldl_nil, Bool.and_eq_true, bne_iff_ne, decide_eq_true_eq, ne_eq, best]
  rfl

/-- R427: device time steps forward once. -/
theorem time_steps {s : State} {v : Dword} (hg : Given s (.timeStep v)) :
    (s.time.stepped = true → exec .timeStep s = .next (taken s)) ∧
    (s.time.stepped = false → s.disp.trees = [] → Completes .timeStep s fun t =>
      t.time.stepped = true ∧ t.time.lock = 1 ∧ t.time.now.toNat = max s.time.now.toNat v.toNat ∧ LoggedAt s t 0x0004 ∧
      ∀ n < 128, let e := getSlot s n;
        (e.enable = false → getSlot t n = e) ∧
        (e.enable = true → let k := max e.next (e.firstFrom t.time.now.toNat)
          getSlot t n = { e with next := k, skipped := e.skipped + BitVec.ofNat 64 (k - e.next) })) ∧
    (∀ k tr, s.time.stepped = false → s.disp.slots = [] → s.disp.trees = [(k, some tr)] → s.time.now.toNat < v.toNat →
      let u := { taken s with time := { s.time with now := v, frac := 0, stepped := true, lock := 1 } }
      exec .timeStep s = .next (telemetryOpen
        (if tr.deadline.toNat ≠ 2 ^ 64 - 1 ∧ tr.deadline.toNat ≤ v.toNat then abandonTree u (BitVec.ofNat 32 k) false else u)
        0x0004 none none)) := by
  rw [exec_timeStep hg]
  refine ⟨fun stepped => ?_, fun unlocked noTree => ⟨_, exec_timeStep hg, ?_⟩, fun k tr unlocked noSlot oneTree ahead => ?_⟩
  · rw [firstLock_stepped (s := taken s) stepped]
  · obtain ⟨stepped, locked⟩ := firstLocked_locked s.time v
    obtain ⟨x, e, entries⟩ :=
      passSlots_cases (updTime (taken s) fun u => firstLocked u v) (firstLocked (taken s).time v).now.toNat
    rw [firstLock_eq (s := taken s) unlocked, e,
      passDeadlines_none (s := withSlots (updTime (taken s) fun u => firstLocked u v) x) noTree]
    refine ⟨stepped, locked, firstLocked_now _ _, loggedAt_telemetryOpen rfl (by decide) none none, fun n hn => ?_⟩
    exact ⟨fun off => (entries n hn).trans (slotPassed_disabled off), fun on => (entries n hn).trans (slotPassed_enabled on)⟩
  · intro u
    have set : (updTime (taken s) fun w => firstLocked w v) = u :=
      congrArg (fun w : TimeUnit => { taken s with time := w }) (if_pos ahead)
    rw [firstLock_eq (s := taken s) unlocked, set, passSlots_empty (s := u) noSlot, passDeadlines_one (s := u) oneTree]

/-! ### Slewing (R428) -/

theorem slewPart_forward (d off : Nat) : slewPart d off = ((min off (d / 10000) : Nat) : Int) := by
  simp only [slewPart]
  split_ifs <;> omega

theorem fine_setFine {s : State} {t : Nat} (h : t < 2 ^ 80) :
    (setFine s t).time.now.toNat * 2 ^ 16 + (setFine s t).time.frac.toNat = t := by
  have now : (setFine s t).time.now.toNat = t / 65536 % 2 ^ 64 := BitVec.toNat_ofNat _ _
  have frac : (setFine s t).time.frac.toNat = t % 2 ^ 16 := BitVec.toNat_ofNat _ _
  omega

/-- R428: an offset is removed by at most 100 ppm of the time that passes. -/
theorem passTime_slews {s : State} {d off : Nat} (hs : s.time.slew = (off : Int)) (hn : s.time.now.toNat < 2 ^ 63)
    (hd : d < 2 ^ 62) :
    let t := passTime s d
    let extra := min off (d / 10000)
    t.time.now.toNat * 2 ^ 16 + t.time.frac.toNat = s.time.now.toNat * 2 ^ 16 + s.time.frac.toNat + d + extra ∧
      t.time.slew = (off : Int) - extra := by
  intro t extra
  have part : slewPart d s.time.slew = (extra : Int) := by rw [hs]; exact slewPart_forward d off
  have whole : ((d : Int) + (extra : Int)).toNat = d + extra := by omega
  have passed : t = updTime (setFine s (s.fine + (d + extra))) fun u => { u with slew := u.slew - extra } := by
    simp only [t, passTime, part, whole]
  have small : s.fine + (d + extra) < 2 ^ 80 := by
    have := s.time.frac.isLt
    simp only [State.fine, extra]
    omega
  rw [passed]
  refine ⟨(fine_setFine (s := s) small).trans (Nat.add_assoc _ d extra).symm, congrArg (· - (extra : Int)) hs⟩

/-! ### Lock (R428) -/

/-- R428: a change of lock state is recorded. -/
theorem lock_changes {s : State} {st : Nat} (hg : Given s (.lock st)) :
    let keep := s.time.lock = st ∨ 3 ≤ st ∨ (st = 1 ∧ s.time.stepped = false)
    (keep → exec .lockStateChange s = .next (taken s)) ∧
    (¬ keep → Completes .lockStateChange s fun t => t.time = { s.time with lock := st } ∧ LoggedAt s t 0x0004) := by
  intro keep
  have does : exec .lockStateChange s = .next (if keep then taken s else
      telemetryOpen (updTime (taken s) fun u => { u with lock := st }) 0x0004 none none) := by
    refine next_picked (o := pickLock s) ((takeInput_given hg _).trans (congrArg some ?_))
    simp [keep, taken, or_assoc]
  exact ⟨fun kept => does.trans (congrArg _ (if_pos kept)), fun changed =>
    ⟨_, does.trans (congrArg _ (if_neg changed)), rfl, loggedAt_telemetryOpen rfl (by decide) none none⟩⟩

/-! ### Links (R22) -/

/-- R22: a replay is remembered with those of the last ms. -/
theorem replay_counted {s : State} {l : Nat} (hg : Given s (.flitReplay l)) :
    Completes .flitReplay s fun t => t.hart = s.hart ∧ t.mem = s.mem ∧
      mapGet [] t.replays l = (mapGet [] s.replays l).filter (fun x => s.time.now.toNat < x + 1000000) ++ [s.time.now.toNat] := by
  have does : exec .flitReplay s = .next { taken s with
      replays := mapSet [] s.replays l (recentReplays (taken s) l ++ [s.time.now.toNat]) } :=
    next_picked (o := pickReplay s) (takeInput_given hg _)
  exact ⟨_, does, rfl, rfl, mapGet_set_same _ _ _ _⟩

/-- R22: the links once one has retrained. -/
def relinked (s : State) (l : Nat) (half : Bool) : State :=
  { s with
    meshHalf := if half then s.meshHalf.filter (fun x => x != l) ++ [l] else s.meshHalf.filter (fun x => x != l)
    replays := mapSet [] s.replays l [] }

theorem retrain_eq (s : State) (l : Nat) (half : Bool) :
    retrain s l half = telemetryOpen (relinked s l half) 0x0001 none none := rfl

@[simp] theorem telemetryOpen_meshHalf (s : State) (kind : Nat) (a b : Option Nat) :
    (telemetryOpen s kind a b).meshHalf = s.meshHalf := rfl

@[simp] theorem telemetryOpen_replays (s : State) (kind : Nat) (a b : Option Nat) :
    (telemetryOpen s kind a b).replays = s.replays := rfl

/-- A retraining sets the width of its link, forgets its replays and is recorded. -/
theorem retrain_spec {s u : State} (h : u.svc.claim = s.svc.claim) (l : Nat) (half : Bool) :
    (l ∈ (retrain u l half).meshHalf ↔ half = true) ∧
      (∀ x, x ≠ l → (x ∈ (retrain u l half).meshHalf ↔ x ∈ u.meshHalf)) ∧ mapGet [] (retrain u l half).replays l = [] ∧
      LoggedAt s (retrain u l half) 0x0001 := by
  rw [retrain_eq, telemetryOpen_meshHalf, telemetryOpen_replays]
  refine ⟨?_, fun x hx => ?_, mapGet_set_same [] u.replays l [], ?_⟩
  · cases half <;> simp [relinked]
  · cases half <;> simp [relinked, hx]
  · exact loggedAt_telemetryOpen (u := relinked u l half) h (by decide) none none

/-- R22: a link that has retrained. -/
theorem link_retrained {s : State} {l : Nat} {half : Bool} (hg : Given s (.linkRetrain l half)) :
    Completes .linkRetrain s fun t =>
      (l ∈ t.meshHalf ↔ half = true) ∧ (∀ x, x ≠ l → (x ∈ t.meshHalf ↔ x ∈ s.meshHalf)) ∧ mapGet [] t.replays l = [] ∧
        LoggedAt s t 0x0001 := by
  have picked : pickRetrain s = some (retrain (taken s) l half) := by
    rw [pickRetrain, takeInput_given hg]
    rfl
  exact ⟨_, next_picked picked, retrain_spec (s := s) (u := taken s) rfl l half⟩

/-- R22: a link with more than 16 replays within 1 ms retrains. -/
theorem worn_link_retrains {s : State} {l : Nat} {rest : SMap (List Nat)} {times : List Nat} (noInput : s.inputs = [])
    (hr : s.replays = (l, times) :: rest) (many : 16 < times.length)
    (recent : ∀ x ∈ times, s.time.now.toNat < x + 1000000) :
    Completes .linkRetrain s fun t =>
      mapGet [] t.replays l = [] ∧ LoggedAt s t 0x0001 ∧ ∀ x, x ≠ l → (x ∈ t.meshHalf ↔ x ∈ s.meshHalf) := by
  have all : recentReplays s l = times := by
    have here : mapGet [] s.replays l = times := by rw [hr]; exact if_pos rfl
    rw [recentReplays, here, List.filter_eq_self]
    exact fun x hx => decide_eq_true (recent x hx)
  have worn : s.replays.find? (fun p => 16 < (recentReplays s p.1).length) = some (l, times) := by
    rw [hr]
    exact List.find?_cons_of_pos (decide_eq_true (by rw [all]; exact many))
  have picked : pickRetrain s = some (retrain (freshFree s).2 l ((freshFree s).1.getLsbD 0)) := by
    rw [pickRetrain, takeInput, noInput, pickWorn, worn]
    rfl
  obtain ⟨-, others, replays, logged⟩ :=
    retrain_spec (s := s) (u := (freshFree s).2) rfl l ((freshFree s).1.getLsbD 0)
  exact ⟨_, next_picked picked, replays, logged, others⟩

/-! ### The tether (R480) -/

/-- R480: the tether goes down and comes up by the rows of those names. -/
theorem exec_tether {s : State} {i : Instr} {up : Bool} (hi : (i, up) ∈ [(Instr.tetherDown, false), (.tetherUp, true)])
    (hg : Given s (if up then .tetherUp else .tetherDown)) : exec i s = .next (setTether (taken s) up) := by
  have pair : (i = .tetherDown ∧ up = false) ∨ (i = .tetherUp ∧ up = true) := by simpa using hi
  rcases pair with ⟨rfl, rfl⟩ | ⟨rfl, rfl⟩
  · exact next_picked (o := pickTetherDown s) (takeInput_given hg _)
  · exact next_picked (o := pickTetherUp s) (takeInput_given hg _)

/-- R480: a change of the tether's state is recorded. -/
theorem tether_changes {s : State} {i : Instr} {up : Bool} (hi : (i, up) ∈ [(Instr.tetherDown, false), (.tetherUp, true)])
    (hg : Given s (if up then .tetherUp else .tetherDown)) :
    (s.tetherUp = up → exec i s = .next (taken s)) ∧
    (s.tetherUp ≠ up → Completes i s fun t => t.tetherUp = up ∧ LoggedAt s t 0x0001) := by
  have does := exec_tether hi hg
  exact ⟨fun same => does.trans (congrArg _ (if_pos same)), fun changes =>
    ⟨_, does.trans (congrArg _ (if_neg changes)), rfl, loggedAt_telemetryOpen rfl (by decide) none none⟩⟩

/-- Settles O47: one lemma for each input and for the passing of time, in the order of the statement. -/
theorem timeIsDisciplinedAndLinksChange : Obligations.TimeIsDisciplinedAndLinksChange := fun _ =>
  ⟨fun _ _ _ => ptp_taken, fun _ _ => esmc_taken, fun _ => time_steps, fun _ _ => passTime_slews, fun _ => lock_changes,
    fun _ => replay_counted, fun _ _ => link_retrained, fun _ _ _ => worn_link_retrains, fun _ _ => tether_changes⟩

end Sys2Proof.Proofs
end

section
/-! SUPPORT. Words and instructions: a word that decodes is the word of its instruction, by the fields that each
major cuts it into (R49-R62). -/

namespace Sys2Proof.Proofs

open Sys2Proof.Machine Sys2Proof.Laws

/-- A decoder's answer for the word `w`: where it gives an instruction, this is well-formed and `w` is its word. -/
def ReadsWord (w : BitVec 32) (d : Except DecodeError Instr) : Prop :=
  ∀ i, d = .ok i → i.wf = true ∧ encodeNat i = some (w.toNat % 2 ^ 30)

/-- The number that fields of a word make, side by side from bit `lo` up, given by their widths. -/
def joined (w : BitVec 32) (lo : Nat) : List Nat → Nat
  | [] => 0
  | n :: ns => (fld w lo n).toNat + 2 ^ n * joined w (lo + n) ns

theorem joined_eq (w : BitVec 32) (lo : Nat) (ns : List Nat) : joined w lo ns = w.toNat / 2 ^ lo % 2 ^ ns.sum := by
  induction ns generalizing lo with
  | nil => simp [joined, Nat.mod_one]
  | cons n ns ih =>
    rw [joined, ih, List.sum_cons, pow_add 2 n, Nat.mod_mul, Nat.div_div_eq_div_mul, ← pow_add, fld, BitVec.toNat_ofNat]

/-- Fields of 30 bits together make the word's own bits. -/
theorem word_fields (w : BitVec 32) (ns : List Nat) (h : ns.sum = 30) : w.toNat % 2 ^ 30 = joined w 0 ns := by
  simp [joined_eq, h]

/-! ### The answers of a decoder -/

variable {w : BitVec 32}

theorem readsWord_error (e : DecodeError) : ReadsWord w (.error e) ↔ True := by simp [ReadsWord]

theorem readsWord_accept {i : Instr} :
    ReadsWord w (accept i) ↔ (i.wf = true → encodeNat i = some (w.toNat % 2 ^ 30)) := by
  cases wf : i.wf <;> simp [ReadsWord, accept, wf]

theorem readsWord_guard {p : Prop} [Decidable p] {e : DecodeError} {d : Except DecodeError Instr} :
    ReadsWord w (if p then d else .error e) ↔ (p → ReadsWord w d) := by
  by_cases h : p <;> simp [h, readsWord_error]

theorem fld_beq_zero {lo n : Nat} : (fld w lo n == 0) = true ↔ (fld w lo n).toNat = 0 := by
  rw [beq_iff_eq, ← BitVec.toNat_inj]; rfl

theorem fld_beq_one {lo : Nat} : (fld w lo 1 == 1) = true ↔ (fld w lo 1).toNat = 1 := by
  rw [beq_iff_eq, ← BitVec.toNat_inj]; rfl

/-! ### The majors (R58, R60)

Each lemma cuts the word as the formats of its major do; a function, a reserved field that is 0 and the operands then
make the number that the encoder packs. -/

theorem decSys_reads (major : (fld w 24 6).toNat = 0) : ReadsWord w (decSys w) := by
  have fields := word_fields w [19, 5, 6] rfl
  simp only [joined, Nat.reduceAdd] at fields
  unfold decSys
  split <;> simp only [readsWord_error, readsWord_guard, readsWord_accept, fld_beq_zero]
  all_goals intros; refine congrArg some ?_; simp only [fields, pack1]; omega

theorem decCreg_reads (major : (fld w 24 6).toNat = 1) : ReadsWord w (decCreg w) := by
  have fields := word_fields w [12, 2, 5, 5, 6] rfl
  simp only [joined, Nat.reduceAdd] at fields
  unfold decCreg
  split <;> simp only [readsWord_error, readsWord_guard, readsWord_accept, fld_beq_zero]
  all_goals intros; refine congrArg some ?_; simp only [fields, pack3, pack2, pack1]; omega

theorem decAlu_reads (major : (fld w 24 6).toNat = 2) : ReadsWord w (decAlu w) := by
  have fields := word_fields w [9, 5, 5, 5, 6] rfl
  simp only [joined, Nat.reduceAdd] at fields
  unfold decAlu
  split <;> simp only [readsWord_error, readsWord_accept]
  all_goals intros; refine congrArg some ?_; simp only [fields, pack3, pack2, pack1]; omega

theorem decAddi_reads (major : (fld w 24 6).toNat = 3) : ReadsWord w (decAddi w) := by
  have fields := word_fields w [14, 5, 5, 6] rfl
  simp only [joined, Nat.reduceAdd] at fields
  simp only [decAddi, readsWord_accept]
  intros; refine congrArg some ?_; simp only [fields, pack3, pack2, pack1]; omega

theorem decLogImm_reads (major : (fld w 24 6).toNat = 4) : ReadsWord w (decLogImm w) := by
  have fields := word_fields w [12, 2, 5, 5, 6] rfl
  simp only [joined, Nat.reduceAdd] at fields
  unfold decLogImm
  split <;> simp only [readsWord_error, readsWord_accept]
  all_goals intros; refine congrArg some ?_; simp only [fields, pack3, pack2, pack1]; omega

theorem decShiftImm_reads (major : (fld w 24 6).toNat = 5) : ReadsWord w (decShiftImm w) := by
  have fields := word_fields w [6, 6, 2, 5, 5, 6] rfl
  simp only [joined, Nat.reduceAdd] at fields
  unfold decShiftImm
  split <;> simp only [readsWord_error, readsWord_guard, readsWord_accept, fld_beq_zero]
  all_goals intros; refine congrArg some ?_; simp only [fields, pack3, pack2, pack1]; omega

theorem decSetImm_reads (major : (fld w 24 6).toNat = 6) : ReadsWord w (decSetImm w) := by
  have fields := word_fields w [13, 1, 5, 5, 6] rfl
  simp only [joined, Nat.reduceAdd] at fields
  unfold decSetImm
  split <;> simp only [readsWord_error, readsWord_accept]
  all_goals intros; refine congrArg some ?_; simp only [fields, pack3, pack2, pack1]; omega

theorem decLui_reads (major : (fld w 24 6).toNat = 7) : ReadsWord w (decLui w) := by
  have fields := word_fields w [19, 5, 6] rfl
  simp only [joined, Nat.reduceAdd] at fields
  simp only [decLui, readsWord_accept]
  intros; refine congrArg some ?_; simp only [fields, pack2, pack1]; omega

theorem decAdpc_reads (major : (fld w 24 6).toNat = 8) : ReadsWord w (decAdpc w) := by
  have fields := word_fields w [19, 5, 6] rfl
  simp only [joined, Nat.reduceAdd] at fields
  simp only [decAdpc, readsWord_accept]
  intros; refine congrArg some ?_; simp only [fields, pack2, pack1]; omega

theorem decSitea_reads (major : (fld w 24 6).toNat = 9) : ReadsWord w (decSitea w) := by
  have fields₁ := word_fields w [1, 5, 5, 1, 2, 5, 5, 6] rfl
  have fields₂ := word_fields w [12, 2, 5, 5, 6] rfl
  simp only [joined, Nat.reduceAdd] at fields₁ fields₂
  unfold decSitea
  split <;> simp only [readsWord_error, readsWord_guard, readsWord_accept, Bool.and_eq_true, fld_beq_zero]
  all_goals intros; refine congrArg some ?_; simp only [fields₁, pack5, pack4, pack3, pack2, pack1]; omega

theorem decMul_reads (major : (fld w 24 6).toNat = 10) : ReadsWord w (decMul w) := by
  have fields := word_fields w [9, 5, 5, 5, 6] rfl
  simp only [joined, Nat.reduceAdd] at fields
  unfold decMul
  split <;> simp only [readsWord_error, readsWord_accept]
  all_goals intros; refine congrArg some ?_; simp only [fields, pack3, pack2, pack1]; omega

theorem decBits_reads (major : (fld w 24 6).toNat = 11) : ReadsWord w (decBits w) := by
  have fields₁ := word_fields w [9, 5, 5, 5, 6] rfl
  have fields₂ := word_fields w [9, 2, 2, 1, 5, 5, 6] rfl
  simp only [joined, Nat.reduceAdd] at fields₁ fields₂
  unfold decBits
  split <;> simp only [readsWord_error, readsWord_guard, readsWord_accept, fld_beq_zero]
  all_goals intros; refine congrArg some ?_; simp only [fields₁, pack4, pack3, pack2, pack1]; omega

theorem decBranch_reads (major : (fld w 24 6).toNat = 12) : ReadsWord w (decBranch w) := by
  have fields := word_fields w [11, 5, 5, 3, 6] rfl
  simp only [joined, Nat.reduceAdd] at fields
  unfold decBranch
  split <;> simp only [readsWord_error, readsWord_accept]
  all_goals intros; refine congrArg some ?_; simp only [fields, pack3, pack2, pack1]; omega

theorem decJ_reads (major : (fld w 24 6).toNat = 13) : ReadsWord w (decJ w) := by
  have fields := word_fields w [24, 6] rfl
  simp only [joined, Nat.reduceAdd] at fields
  simp only [decJ, readsWord_accept]
  intros; refine congrArg some ?_; simp only [fields, pack1]; omega

theorem decCall_reads (major : (fld w 24 6).toNat = 14) : ReadsWord w (decCall w) := by
  have fields := word_fields w [24, 6] rfl
  simp only [joined, Nat.reduceAdd] at fields
  simp only [decCall, readsWord_accept]
  intros; refine congrArg some ?_; simp only [fields, pack1]; omega

theorem decJump_reads (major : (fld w 24 6).toNat = 15) : ReadsWord w (decJump w) := by
  have fields₁ := word_fields w [16, 5, 3, 6] rfl
  have fields₂ := word_fields w [21, 3, 6] rfl
  have fields₃ := word_fields w [11, 5, 5, 3, 6] rfl
  simp only [joined, Nat.reduceAdd] at fields₁ fields₂ fields₃
  unfold decJump
  split <;> simp only [readsWord_error, readsWord_guard, readsWord_accept, fld_beq_zero]
  all_goals intros; refine congrArg some ?_; simp only [fields₁, pack2, pack1]; omega

theorem decLds_reads (major : (fld w 24 6).toNat = 16) : ReadsWord w (decLds w) := by
  have fields := word_fields w [8, 3, 1, 2, 5, 5, 6] rfl
  simp only [joined, Nat.reduceAdd] at fields
  simp only [decLds, readsWord_accept]
  intros; refine congrArg some ?_; simp only [fields, pack6, pack5, pack4, pack3, pack2, pack1]; omega

theorem decSts_reads (major : (fld w 24 6).toNat = 17) : ReadsWord w (decSts w) := by
  have fields := word_fields w [8, 3, 1, 2, 5, 5, 6] rfl
  simp only [joined, Nat.reduceAdd] at fields
  simp only [decSts, readsWord_guard, readsWord_accept, fld_beq_zero]
  intros; refine congrArg some ?_; simp only [fields, pack5, pack4, pack3, pack2, pack1]; omega

theorem decAmo_reads (major : (fld w 24 6).toNat = 18) : ReadsWord w (decAmo w) := by
  have fields := word_fields w [2, 2, 1, 4, 5, 5, 5, 6] rfl
  simp only [joined, Nat.reduceAdd] at fields
  unfold decAmo
  split <;> simp only [readsWord_error, readsWord_accept]
  all_goals intros; refine congrArg some ?_; simp only [fields, pack6, pack5, pack4, pack3, pack2, pack1]; omega

theorem decFence_reads (major : (fld w 24 6).toNat = 19) : ReadsWord w (decFence w) := by
  have fields₁ := word_fields w [3, 1, 2, 2, 16, 6] rfl
  have fields₂ := word_fields w [6, 2, 16, 6] rfl
  simp only [joined, Nat.reduceAdd] at fields₁ fields₂
  unfold decFence
  split <;> simp only [readsWord_error, readsWord_guard, readsWord_accept, Bool.and_eq_true, fld_beq_zero]
  all_goals intros; refine congrArg some ?_; simp only [fields₁, pack2, pack1]; omega

theorem decVecLoad_reads (major : (fld w 24 6).toNat = 20) : ReadsWord w (decVecLoad w) := by
  have fields₁ := word_fields w [3, 2, 3, 5, 5, 6, 6] rfl
  have fields₂ := word_fields w [3, 1, 1, 3, 5, 5, 6, 6] rfl
  simp only [joined, Nat.reduceAdd] at fields₁ fields₂
  unfold decVecLoad
  split <;> simp only [readsWord_error, readsWord_guard, readsWord_accept, fld_beq_one]
  all_goals intros; refine congrArg some ?_; simp only [fields₁, pack5, pack4, pack3, pack2, pack1]; omega

theorem decVecStore_reads (major : (fld w 24 6).toNat = 21) : ReadsWord w (decVecStore w) := by
  have fields₁ := word_fields w [3, 2, 3, 5, 5, 6, 6] rfl
  have fields₂ := word_fields w [3, 1, 1, 3, 5, 5, 6, 6] rfl
  simp only [joined, Nat.reduceAdd] at fields₁ fields₂
  unfold decVecStore
  split <;> simp only [readsWord_error, readsWord_guard, readsWord_accept, fld_beq_one]
  all_goals intros; refine congrArg some ?_; simp only [fields₁, pack5, pack4, pack3, pack2, pack1]; omega

theorem decVamo_reads (major : (fld w 24 6).toNat = 22) : ReadsWord w (decVamo w) := by
  have fields := word_fields w [3, 1, 1, 3, 5, 5, 6, 6] rfl
  simp only [joined, Nat.reduceAdd] at fields
  unfold decVamo
  split <;> simp only [readsWord_error, readsWord_guard, readsWord_accept, fld_beq_one]
  all_goals intros; refine congrArg some ?_; simp only [fields, pack5, pack4, pack3, pack2, pack1]; omega

theorem decSetvl_reads (major : (fld w 24 6).toNat = 23) : ReadsWord w (decSetvl w) := by
  have fields₁ := word_fields w [2, 5, 2, 5, 5, 5, 6] rfl
  have fields₂ := word_fields w [2, 10, 2, 5, 5, 6] rfl
  have fields₃ := word_fields w [2, 7, 5, 5, 5, 6] rfl
  simp only [joined, Nat.reduceAdd] at fields₁ fields₂ fields₃
  unfold decSetvl
  split <;> simp only [readsWord_error, readsWord_guard, readsWord_accept, fld_beq_zero]
  all_goals intros; refine congrArg some ?_; simp only [fields₁, pack4, pack3, pack2, pack1]; omega

theorem decJob_reads (major : (fld w 24 6).toNat = 24) : ReadsWord w (decJob w) := by
  have fields₁ := word_fields w [9, 5, 5, 5, 6] rfl
  have fields₂ := word_fields w [9, 15, 6] rfl
  simp only [joined, Nat.reduceAdd] at fields₁ fields₂
  unfold decJob
  split <;> simp only [readsWord_error, readsWord_guard, readsWord_accept, Bool.and_eq_true, fld_beq_zero]
  all_goals intros; refine congrArg some ?_; simp only [fields₁, pack3, pack2, pack1]; omega

theorem decDep_reads (major : (fld w 24 6).toNat = 25) : ReadsWord w (decDep w) := by
  have fields := word_fields w [9, 5, 5, 5, 6] rfl
  simp only [joined, Nat.reduceAdd] at fields
  unfold decDep
  split <;> simp only [readsWord_error, readsWord_guard, readsWord_accept, fld_beq_zero]
  all_goals intros; refine congrArg some ?_; simp only [fields, pack3, pack2, pack1]; omega

theorem decBar_reads (major : (fld w 24 6).toNat = 26) : ReadsWord w (decBar w) := by
  have fields := word_fields w [9, 5, 5, 5, 6] rfl
  simp only [joined, Nat.reduceAdd] at fields
  unfold decBar
  split <;> simp only [readsWord_error, readsWord_guard, readsWord_accept, fld_beq_zero]
  all_goals intros; refine congrArg some ?_; simp only [fields, pack3, pack2, pack1]; omega

theorem decWin_reads (major : (fld w 24 6).toNat = 27) : ReadsWord w (decWin w) := by
  have fields := word_fields w [9, 5, 5, 5, 6] rfl
  simp only [joined, Nat.reduceAdd] at fields
  unfold decWin
  split <;> simp only [readsWord_error, readsWord_accept]
  all_goals intros; refine congrArg some ?_; simp only [fields, pack3, pack2, pack1]; omega

theorem decSpool_reads (major : (fld w 24 6).toNat = 28) : ReadsWord w (decSpool w) := by
  have fields := word_fields w [9, 5, 5, 5, 6] rfl
  simp only [joined, Nat.reduceAdd] at fields
  unfold decSpool
  split <;> simp only [readsWord_error, readsWord_guard, readsWord_accept, fld_beq_zero]
  all_goals intros; refine congrArg some ?_; simp only [fields, pack3, pack2, pack1]; omega

theorem decPost_reads (major : (fld w 24 6).toNat = 29) : ReadsWord w (decPost w) := by
  have fields := word_fields w [9, 5, 5, 5, 6] rfl
  simp only [joined, Nat.reduceAdd] at fields
  unfold decPost
  split <;> simp only [readsWord_error, readsWord_guard, readsWord_accept, fld_beq_zero]
  all_goals intros; refine congrArg some ?_; simp only [fields, pack3, pack2, pack1]; omega

/-- The performance counters share a function: bits [18:17] tell the two forms apart. -/
theorem decTime_reads (major : (fld w 24 6).toNat = 30) : ReadsWord w (decTime w) := by
  have fields₁ := word_fields w [9, 5, 5, 5, 6] rfl
  have fields₂ := word_fields w [9, 5, 3, 2, 5, 6] rfl
  simp only [joined, Nat.reduceAdd] at fields₁ fields₂
  have form : (fld w 17 2 == 1) = true ↔ (fld w 17 2).toNat = 1 := by rw [beq_iff_eq, ← BitVec.toNat_inj]; rfl
  unfold decTime
  split
  case h_2 =>
    by_cases config : (fld w 17 2).toNat = 1 <;>
      simp only [form, config, if_true, if_false, readsWord_guard, readsWord_accept, fld_beq_zero]
    all_goals intros; refine congrArg some ?_; simp only [fields₁, pack3, pack2, pack1]; omega
  all_goals simp only [readsWord_error, readsWord_guard, readsWord_accept, fld_beq_zero]
  case h_1 => intros; refine congrArg some ?_; simp only [fields₁, pack2, pack1]; omega

theorem decVInt0_reads (major : (fld w 24 6).toNat = 32) : ReadsWord w (decVInt0 w) := by
  have fields := word_fields w [3, 3, 6, 6, 6, 6] rfl
  simp only [joined, Nat.reduceAdd] at fields
  unfold decVInt0
  split <;> simp only [readsWord_error, readsWord_guard, readsWord_accept, fld_beq_zero]
  all_goals intros; refine congrArg some ?_; simp only [fields, pack4, pack3, pack2, pack1]; omega

theorem decVInt1_reads (major : (fld w 24 6).toNat = 33) : ReadsWord w (decVInt1 w) := by
  have fields := word_fields w [3, 3, 6, 6, 6, 6] rfl
  simp only [joined, Nat.reduceAdd] at fields
  unfold decVInt1
  split <;> simp only [readsWord_error, readsWord_accept]
  all_goals intros; refine congrArg some ?_; simp only [fields, pack4, pack3, pack2, pack1]; omega

theorem decVInt2_reads (major : (fld w 24 6).toNat = 34) : ReadsWord w (decVInt2 w) := by
  have fields := word_fields w [3, 3, 6, 6, 6, 6] rfl
  simp only [joined, Nat.reduceAdd] at fields
  unfold decVInt2
  split <;> simp only [readsWord_error, readsWord_accept]
  all_goals intros; refine congrArg some ?_; simp only [fields, pack4, pack3, pack2, pack1]; omega

theorem decVDiv_reads (major : (fld w 24 6).toNat = 35) : ReadsWord w (decVDiv w) := by
  have fields := word_fields w [3, 3, 6, 6, 6, 6] rfl
  simp only [joined, Nat.reduceAdd] at fields
  unfold decVDiv
  split <;> simp only [readsWord_error, readsWord_accept]
  all_goals intros; refine congrArg some ?_; simp only [fields, pack4, pack3, pack2, pack1]; omega

theorem decVCmp_reads (major : (fld w 24 6).toNat = 36) : ReadsWord w (decVCmp w) := by
  have fields := word_fields w [3, 3, 6, 6, 3, 3, 6] rfl
  simp only [joined, Nat.reduceAdd] at fields
  unfold decVCmp
  split <;> simp only [readsWord_error, readsWord_accept]
  all_goals intros; refine congrArg some ?_; simp only [fields, pack5, pack4, pack3, pack2, pack1]; omega

theorem decMask_reads (major : (fld w 24 6).toNat = 37) : ReadsWord w (decMask w) := by
  have fields₁ := word_fields w [3, 3, 3, 3, 3, 3, 3, 3, 6] rfl
  have fields₂ := word_fields w [3, 9, 3, 3, 3, 3, 6] rfl
  have fields₃ := word_fields w [3, 9, 3, 3, 5, 1, 6] rfl
  simp only [joined, Nat.reduceAdd] at fields₁ fields₂ fields₃
  unfold decMask
  split <;> simp only [readsWord_error, readsWord_guard, readsWord_accept, Bool.and_eq_true, fld_beq_zero]
  all_goals intros; refine congrArg some ?_; simp only [fields₁, pack3, pack2, pack1]; omega

theorem decSlide_reads (major : (fld w 24 6).toNat = 38) : ReadsWord w (decSlide w) := by
  have fields₁ := word_fields w [3, 3, 6, 6, 6, 6] rfl
  have fields₂ := word_fields w [3, 1, 3, 5, 6, 6, 6] rfl
  simp only [joined, Nat.reduceAdd] at fields₁ fields₂
  unfold decSlide
  split <;> simp only [readsWord_error, readsWord_guard, readsWord_accept, fld_beq_zero]
  all_goals intros; refine congrArg some ?_; simp only [fields₁, pack4, pack3, pack2, pack1]; omega

theorem decPerm_reads (major : (fld w 24 6).toNat = 39) : ReadsWord w (decPerm w) := by
  have fields₁ := word_fields w [3, 3, 6, 6, 6, 6] rfl
  have fields₂ := word_fields w [3, 3, 12, 6, 6] rfl
  have fields₃ := word_fields w [3, 3, 6, 3, 3, 6, 6] rfl
  have fields₄ := word_fields w [3, 9, 6, 6, 6] rfl
  simp only [joined, Nat.reduceAdd] at fields₁ fields₂ fields₃ fields₄
  unfold decPerm
  split <;> simp only [readsWord_error, readsWord_guard, readsWord_accept, Bool.and_eq_true, fld_beq_zero]
  all_goals intros; refine congrArg some ?_; simp only [fields₁, pack4, pack3, pack2, pack1]; omega

theorem decMove_reads (major : (fld w 24 6).toNat = 40) : ReadsWord w (decMove w) := by
  have fields₁ := word_fields w [3, 1, 3, 5, 6, 6, 6] rfl
  have fields₂ := word_fields w [3, 4, 5, 6, 5, 1, 6] rfl
  have fields₃ := word_fields w [3, 4, 5, 5, 1, 6, 6] rfl
  simp only [joined, Nat.reduceAdd] at fields₁ fields₂ fields₃
  unfold decMove
  split <;> simp only [readsWord_error, readsWord_guard, readsWord_accept, Bool.and_eq_true, fld_beq_zero]
  all_goals intros; refine congrArg some ?_; simp only [fields₁, pack3, pack2, pack1]; omega

theorem decVFp0_reads (major : (fld w 24 6).toNat = 41) : ReadsWord w (decVFp0 w) := by
  have fields := word_fields w [3, 3, 6, 6, 6, 6] rfl
  simp only [joined, Nat.reduceAdd] at fields
  unfold decVFp0
  split <;> simp only [readsWord_error, readsWord_guard, readsWord_accept, fld_beq_zero]
  all_goals intros; refine congrArg some ?_; simp only [fields, pack4, pack3, pack2, pack1]; omega

theorem decVFma_reads (major : (fld w 24 6).toNat = 42) : ReadsWord w (decVFma w) := by
  have fields := word_fields w [3, 3, 6, 6, 6, 6] rfl
  simp only [joined, Nat.reduceAdd] at fields
  unfold decVFma
  split <;> simp only [readsWord_error, readsWord_accept]
  all_goals intros; refine congrArg some ?_; simp only [fields, pack4, pack3, pack2, pack1]; omega

theorem decVFp1_reads (major : (fld w 24 6).toNat = 43) : ReadsWord w (decVFp1 w) := by
  have fields := word_fields w [3, 3, 6, 6, 6, 6] rfl
  simp only [joined, Nat.reduceAdd] at fields
  unfold decVFp1
  split <;> simp only [readsWord_error, readsWord_guard, readsWord_accept, fld_beq_zero]
  all_goals intros; refine congrArg some ?_; simp only [fields, pack3, pack2, pack1]; omega

theorem decVCvt_reads (major : (fld w 24 6).toNat = 44) : ReadsWord w (decVCvt w) := by
  have fields := word_fields w [3, 3, 5, 1, 6, 6, 6] rfl
  simp only [joined, Nat.reduceAdd] at fields
  unfold decVCvt
  split <;> simp only [readsWord_error, readsWord_guard, readsWord_accept, fld_beq_zero]
  all_goals intros; refine congrArg some ?_; simp only [fields, pack4, pack3, pack2, pack1]; omega

theorem decSpecial_reads (major : (fld w 24 6).toNat = 45) : ReadsWord w (decSpecial w) := by
  have fields := word_fields w [3, 3, 6, 6, 6, 6] rfl
  simp only [joined, Nat.reduceAdd] at fields
  unfold decSpecial
  split <;> simp only [readsWord_error, readsWord_guard, readsWord_accept, fld_beq_zero]
  all_goals intros; refine congrArg some ?_; simp only [fields, pack4, pack3, pack2, pack1]; omega

theorem decComplex_reads (major : (fld w 24 6).toNat = 46) : ReadsWord w (decComplex w) := by
  have fields := word_fields w [3, 3, 6, 6, 6, 6] rfl
  simp only [joined, Nat.reduceAdd] at fields
  unfold decComplex
  split <;> simp only [readsWord_error, readsWord_guard, readsWord_accept, fld_beq_zero]
  all_goals intros; refine congrArg some ?_; simp only [fields, pack4, pack3, pack2, pack1]; omega

theorem decBfly_reads (major : (fld w 24 6).toNat = 47) : ReadsWord w (decBfly w) := by
  have fields := word_fields w [3, 3, 6, 6, 6, 6] rfl
  simp only [joined, Nat.reduceAdd] at fields
  unfold decBfly
  split <;> simp only [readsWord_error, readsWord_accept]
  all_goals intros; refine congrArg some ?_; simp only [fields, pack4, pack3, pack2, pack1]; omega

theorem decTile_reads (major : (fld w 24 6).toNat = 48) : ReadsWord w (decTile w) := by
  have fields₁ := word_fields w [3, 1, 3, 5, 6, 6, 6] rfl
  have fields₂ := word_fields w [3, 3, 6, 6, 6, 6] rfl
  simp only [joined, Nat.reduceAdd] at fields₁ fields₂
  unfold decTile
  split <;> simp only [readsWord_error, readsWord_guard, readsWord_accept, fld_beq_zero]
  all_goals intros; refine congrArg some ?_; simp only [fields₁, pack4, pack3, pack2, pack1]; omega

theorem decReduce_reads (major : (fld w 24 6).toNat = 49) : ReadsWord w (decReduce w) := by
  have fields := word_fields w [3, 1, 3, 5, 6, 5, 1, 6] rfl
  simp only [joined, Nat.reduceAdd] at fields
  unfold decReduce
  split <;> simp only [readsWord_error, readsWord_guard, readsWord_accept, Bool.and_eq_true, fld_beq_zero]
  all_goals intros; refine congrArg some ?_; simp only [fields, pack4, pack3, pack2, pack1]; omega

theorem decFp_reads (major : (fld w 24 6).toNat = 50) : ReadsWord w (decFp w) := by
  have fields₁ := word_fields w [3, 1, 5, 5, 5, 5, 6] rfl
  have fields₂ := word_fields w [3, 1, 10, 5, 5, 6] rfl
  simp only [joined, Nat.reduceAdd] at fields₁ fields₂
  unfold decFp
  split <;> simp only [readsWord_error, readsWord_guard, readsWord_accept, fld_beq_zero]
  all_goals intros; refine congrArg some ?_; simp only [fields₁, pack5, pack4, pack3, pack2, pack1]; omega

theorem decFpMisc_reads (major : (fld w 24 6).toNat = 51) : ReadsWord w (decFpMisc w) := by
  have fields₁ := word_fields w [3, 1, 5, 5, 5, 5, 6] rfl
  have fields₂ := word_fields w [3, 1, 10, 5, 5, 6] rfl
  simp only [joined, Nat.reduceAdd] at fields₁ fields₂
  unfold decFpMisc
  split <;> simp only [readsWord_error, readsWord_guard, readsWord_accept, fld_beq_zero]
  all_goals intros; refine congrArg some ?_; simp only [fields₁, pack5, pack4, pack3, pack2, pack1]; omega

theorem decMode_reads (major : (fld w 24 6).toNat = 52) : ReadsWord w (decMode w) := by
  have fields := word_fields w [2, 22, 6] rfl
  simp only [joined, Nat.reduceAdd] at fields
  unfold decMode
  split <;> simp only [readsWord_error, readsWord_guard, readsWord_accept, fld_beq_zero]
  all_goals intros; refine congrArg some ?_; simp only [fields]; omega

theorem decMop_reads (major : (fld w 24 6).toNat = 53) : ReadsWord w (decMop w) := by
  have fields := word_fields w [8, 4, 4, 4, 4, 6] rfl
  simp only [joined, Nat.reduceAdd] at fields
  simp only [decMop, readsWord_accept]
  intros; refine congrArg some ?_; simp only [fields, pack5, pack4, pack3, pack2, pack1]; omega

theorem decMopv_reads (major : (fld w 24 6).toNat = 54) : ReadsWord w (decMopv w) := by
  have fields := word_fields w [2, 4, 6, 6, 6, 6] rfl
  simp only [joined, Nat.reduceAdd] at fields
  simp only [decMopv, readsWord_guard, readsWord_accept, fld_beq_zero]
  intros; refine congrArg some ?_; simp only [fields, pack4, pack3, pack2, pack1]; omega

theorem decTilemove_reads (major : (fld w 24 6).toNat = 55) : ReadsWord w (decTilemove w) := by
  have fields := word_fields w [2, 8, 4, 5, 5, 6] rfl
  simp only [joined, Nat.reduceAdd] at fields
  unfold decTilemove
  split <;> simp only [readsWord_error, readsWord_guard, readsWord_accept, Bool.and_eq_true, fld_beq_zero]
  all_goals intros; refine congrArg some ?_; simp only [fields, pack3, pack2, pack1]; omega

/-! ### All words -/

/-- Every major reads its words. -/
theorem decodeLow_reads (w : BitVec 32) : ReadsWord w (decodeLow w) := by
  unfold decodeLow
  split
  · exact decSys_reads ‹_›
  · exact decCreg_reads ‹_›
  · exact decAlu_reads ‹_›
  · exact decAddi_reads ‹_›
  · exact decLogImm_reads ‹_›
  · exact decShiftImm_reads ‹_›
  · exact decSetImm_reads ‹_›
  · exact decLui_reads ‹_›
  · exact decSitea_reads ‹_›
  · exact decMul_reads ‹_›
  · exact decBits_reads ‹_›
  · exact decBranch_reads ‹_›
  · exact decJ_reads ‹_›
  · exact decCall_reads ‹_›
  · exact decJump_reads ‹_›
  · exact decLds_reads ‹_›
  · exact decSts_reads ‹_›
  · exact decAmo_reads ‹_›
  · exact decFence_reads ‹_›
  · exact decVecLoad_reads ‹_›
  · exact decVecStore_reads ‹_›
  · exact decVamo_reads ‹_›
  · exact decSetvl_reads ‹_›
  · exact decJob_reads ‹_›
  · exact decDep_reads ‹_›
  · exact decBar_reads ‹_›
  · exact decWin_reads ‹_›
  · exact decSpool_reads ‹_›
  · exact decPost_reads ‹_›
  · exact decTime_reads ‹_›
  · exact decVInt0_reads ‹_›
  · exact decVInt1_reads ‹_›
  · exact decVInt2_reads ‹_›
  · exact decVDiv_reads ‹_›
  · exact decVCmp_reads ‹_›
  · exact decMask_reads ‹_›
  · exact decSlide_reads ‹_›
  · exact decPerm_reads ‹_›
  · exact decMove_reads ‹_›
  · exact decVFp0_reads ‹_›
  · exact decVFma_reads ‹_›
  · exact decVFp1_reads ‹_›
  · exact decVCvt_reads ‹_›
  · exact decSpecial_reads ‹_›
  · exact decComplex_reads ‹_›
  · exact decBfly_reads ‹_›
  · exact decTile_reads ‹_›
  · exact decReduce_reads ‹_›
  · exact decFp_reads ‹_›
  · exact decMode_reads ‹_›
  · exact decMop_reads ‹_›
  · exact decMopv_reads ‹_›
  · exact decTilemove_reads ‹_›
  · exact (readsWord_error _).2 trivial

theorem decodeWord_reads (w : BitVec 32) : ReadsWord w (decodeWord w) := by
  unfold decodeWord
  split
  · exact decAdpc_reads ‹_›
  · split
    · exact decFpMisc_reads ‹_›
    · exact decodeLow_reads w

/-- Every instruction's lemma of `Laws/PerInstr`; events and commands have no word. -/
theorem encoding_statement (i : Instr) : Encoding.Statement i := by
  cases i with
  | nop => apply Encoding.nop | svc => apply Encoding.svc | brk => apply Encoding.brk | tret => apply Encoding.tret
  | halt => apply Encoding.halt | isync => apply Encoding.isync | mfc => apply Encoding.mfc
  | mtc => apply Encoding.mtc | setc => apply Encoding.setc | clrc => apply Encoding.clrc | add => apply Encoding.add
  | sub => apply Encoding.sub | and => apply Encoding.and | or => apply Encoding.or | xor => apply Encoding.xor
  | sll => apply Encoding.sll | srl => apply Encoding.srl | sra => apply Encoding.sra | min => apply Encoding.min
  | max => apply Encoding.max | minn => apply Encoding.minn | maxn => apply Encoding.maxn | slt => apply Encoding.slt
  | sltn => apply Encoding.sltn | addi => apply Encoding.addi | andi => apply Encoding.andi
  | ori => apply Encoding.ori | xori => apply Encoding.xori | slli => apply Encoding.slli
  | srli => apply Encoding.srli | srai => apply Encoding.srai | slti => apply Encoding.slti
  | sltin => apply Encoding.sltin | lui => apply Encoding.lui | adpc => apply Encoding.adpc
  | sitea => apply Encoding.sitea | siteaRel => apply Encoding.siteaRel | here => apply Encoding.here
  | mul => apply Encoding.mul | mulh => apply Encoding.mulh | mulhn => apply Encoding.mulhn
  | div => apply Encoding.div | divn => apply Encoding.divn | rem => apply Encoding.rem | remn => apply Encoding.remn
  | clz => apply Encoding.clz | ctz => apply Encoding.ctz | popc => apply Encoding.popc
  | bswap => apply Encoding.bswap | ext => apply Encoding.ext | beq => apply Encoding.beq | bne => apply Encoding.bne
  | blt => apply Encoding.blt | bge => apply Encoding.bge | bltn => apply Encoding.bltn | bgen => apply Encoding.bgen
  | j => apply Encoding.j | call => apply Encoding.call | jr => apply Encoding.jr | callr => apply Encoding.callr
  | ret => apply Encoding.ret | loop => apply Encoding.loop | lds => apply Encoding.lds | sts => apply Encoding.sts
  | amoAdd => apply Encoding.amoAdd | amoAnd => apply Encoding.amoAnd | amoOr => apply Encoding.amoOr
  | amoXor => apply Encoding.amoXor | amoMin => apply Encoding.amoMin | amoMax => apply Encoding.amoMax
  | amoMinn => apply Encoding.amoMinn | amoMaxn => apply Encoding.amoMaxn | amoSwap => apply Encoding.amoSwap
  | amoCas => apply Encoding.amoCas | amoFadd => apply Encoding.amoFadd | fence => apply Encoding.fence
  | lsync => apply Encoding.lsync | vfence => apply Encoding.vfence | qfence => apply Encoding.qfence
  | vld => apply Encoding.vld | vlds => apply Encoding.vlds | vldx => apply Encoding.vldx
  | vld2d => apply Encoding.vld2d | vldw => apply Encoding.vldw | vldl => apply Encoding.vldl
  | vst => apply Encoding.vst | vsts => apply Encoding.vsts | vstx => apply Encoding.vstx
  | vst2d => apply Encoding.vst2d | vstc => apply Encoding.vstc | vamoAdd => apply Encoding.vamoAdd
  | vamoMin => apply Encoding.vamoMin | vamoMax => apply Encoding.vamoMax | vamoOr => apply Encoding.vamoOr
  | vamoXor => apply Encoding.vamoXor | setvl => apply Encoding.setvl | setvli => apply Encoding.setvli
  | settile => apply Encoding.settile | spawn => apply Encoding.spawn | gang => apply Encoding.gang
  | exitJob => apply Encoding.exitJob | yieldJob => apply Encoding.yieldJob | abandon => apply Encoding.abandon
  | setdl => apply Encoding.setdl | depInit => apply Encoding.depInit | depAdd => apply Encoding.depAdd
  | depDec => apply Encoding.depDec | depGet => apply Encoding.depGet | barInit => apply Encoding.barInit
  | barArrive => apply Encoding.barArrive | barWait => apply Encoding.barWait | barWaitt => apply Encoding.barWaitt
  | barArriveFsum => apply Encoding.barArriveFsum | barArriveFsum2 => apply Encoding.barArriveFsum2
  | barArriveIsum => apply Encoding.barArriveIsum | tktTake => apply Encoding.tktTake
  | tktWait => apply Encoding.tktWait | tktGive => apply Encoding.tktGive | tktWaitt => apply Encoding.tktWaitt
  | winCfg => apply Encoding.winCfg | winPop => apply Encoding.winPop | winGet => apply Encoding.winGet
  | winArm => apply Encoding.winArm | winaWait => apply Encoding.winaWait | winaWaitt => apply Encoding.winaWaitt
  | splRun => apply Encoding.splRun | splPush => apply Encoding.splPush | splMcast => apply Encoding.splMcast
  | splStat => apply Encoding.splStat | cpost => apply Encoding.cpost | cstat => apply Encoding.cstat
  | msgSend => apply Encoding.msgSend | msgSendv => apply Encoding.msgSendv | now => apply Encoding.now
  | pmc => apply Encoding.pmc | pmcCfg => apply Encoding.pmcCfg | vadd => apply Encoding.vadd
  | vsub => apply Encoding.vsub | vmin => apply Encoding.vmin | vmax => apply Encoding.vmax
  | vminn => apply Encoding.vminn | vmaxn => apply Encoding.vmaxn | vabs => apply Encoding.vabs
  | vand => apply Encoding.vand | vor => apply Encoding.vor | vxor => apply Encoding.vxor
  | vsll => apply Encoding.vsll | vsrl => apply Encoding.vsrl | vsra => apply Encoding.vsra
  | vsadd => apply Encoding.vsadd | vssub => apply Encoding.vssub | vsaddn => apply Encoding.vsaddn
  | vssubn => apply Encoding.vssubn | vnclip => apply Encoding.vnclip | vwadd => apply Encoding.vwadd
  | vwmul => apply Encoding.vwmul | vmacc => apply Encoding.vmacc | vmul => apply Encoding.vmul
  | vmulh => apply Encoding.vmulh | vmulhn => apply Encoding.vmulhn | vdiv => apply Encoding.vdiv
  | vdivn => apply Encoding.vdivn | vrem => apply Encoding.vrem | vremn => apply Encoding.vremn
  | vcmp => apply Encoding.vcmp | vcmpn => apply Encoding.vcmpn | vfcmp => apply Encoding.vfcmp
  | kand => apply Encoding.kand | kor => apply Encoding.kor | kxor => apply Encoding.kxor
  | kandn => apply Encoding.kandn | knot => apply Encoding.knot | kmov => apply Encoding.kmov
  | kpopc => apply Encoding.kpopc | kfirst => apply Encoding.kfirst | vmv => apply Encoding.vmv
  | vslideup => apply Encoding.vslideup | vslidedn => apply Encoding.vslidedn | vslide1up => apply Encoding.vslide1up
  | vslide1dn => apply Encoding.vslide1dn | vgather => apply Encoding.vgather | vcompress => apply Encoding.vcompress
  | vexpand => apply Encoding.vexpand | vmerge => apply Encoding.vmerge | vid => apply Encoding.vid
  | viota => apply Encoding.viota | vzip => apply Encoding.vzip | vunzip => apply Encoding.vunzip
  | vtrn => apply Encoding.vtrn | vbcast => apply Encoding.vbcast | vmvs => apply Encoding.vmvs
  | vins => apply Encoding.vins | vfadd => apply Encoding.vfadd | vfsub => apply Encoding.vfsub
  | vfmul => apply Encoding.vfmul | vfdiv => apply Encoding.vfdiv | vfsqrt => apply Encoding.vfsqrt
  | vfmin => apply Encoding.vfmin | vfmax => apply Encoding.vfmax | vfsgnj => apply Encoding.vfsgnj
  | vfmadd => apply Encoding.vfmadd | vfmsub => apply Encoding.vfmsub | vfnmadd => apply Encoding.vfnmadd
  | vfnmsub => apply Encoding.vfnmsub | vfwmul => apply Encoding.vfwmul | vfwmacc => apply Encoding.vfwmacc
  | vfabs => apply Encoding.vfabs | vfneg => apply Encoding.vfneg | vfclass => apply Encoding.vfclass
  | vfrec => apply Encoding.vfrec | vfrsqrt => apply Encoding.vfrsqrt | vfcvt => apply Encoding.vfcvt
  | vfcvtRtz => apply Encoding.vfcvtRtz | vfsin => apply Encoding.vfsin | vfcos => apply Encoding.vfcos
  | vfsint => apply Encoding.vfsint | vfcost => apply Encoding.vfcost | vfexp2 => apply Encoding.vfexp2
  | vflog2 => apply Encoding.vflog2 | vfatan2 => apply Encoding.vfatan2 | vftanh => apply Encoding.vftanh
  | vcmul => apply Encoding.vcmul | vcmac => apply Encoding.vcmac | vcmacj => apply Encoding.vcmacj
  | vcconj => apply Encoding.vcconj | vcabs2 => apply Encoding.vcabs2 | vcrot => apply Encoding.vcrot
  | vbfly => apply Encoding.vbfly | vbfly4 => apply Encoding.vbfly4 | vtgj => apply Encoding.vtgj
  | vtchol => apply Encoding.vtchol | vtmul => apply Encoding.vtmul | vtherm => apply Encoding.vtherm
  | vredsum => apply Encoding.vredsum | vredmin => apply Encoding.vredmin | vredmax => apply Encoding.vredmax
  | vfredsum => apply Encoding.vfredsum | vfredmin => apply Encoding.vfredmin | vfredmax => apply Encoding.vfredmax
  | vcredsum => apply Encoding.vcredsum | vredsumw => apply Encoding.vredsumw | fadd => apply Encoding.fadd
  | fsub => apply Encoding.fsub | fmul => apply Encoding.fmul | fdiv => apply Encoding.fdiv
  | fsqrt => apply Encoding.fsqrt | fmadd => apply Encoding.fmadd | fmin => apply Encoding.fmin
  | fmax => apply Encoding.fmax | fcmp => apply Encoding.fcmp | fcvt => apply Encoding.fcvt
  | fclass => apply Encoding.fclass | fmv => apply Encoding.fmv | menter => apply Encoding.menter
  | mexit => apply Encoding.mexit | mzero => apply Encoding.mzero | mop => apply Encoding.mop
  | mopv => apply Encoding.mopv | mld => apply Encoding.mld | mst => apply Encoding.mst | mcvt => apply Encoding.mcvt
  | _ => exact Encoding.of_none rfl

/-- Settles O57: one way instruction by instruction, the other way major by major. -/
theorem encodingRoundTrip : Obligations.EncodingRoundTrip :=
  ⟨fun i n wf word pk => have both := encoding_statement i wf n word; ⟨both.1, both.2 pk⟩, decodeWord_reads⟩

/-- Settles O56: the decoder evaluated on each word. -/
theorem wordsDecodeAsEncoded : Obligations.WordsDecodeAsEncoded := by
  refine ⟨?decoded, ?refused⟩
  case decoded =>
    simp only [List.forall_mem_cons]
    exact ⟨rfl, rfl, rfl, rfl, rfl, rfl, rfl, rfl, rfl, rfl, rfl, rfl, rfl, rfl, rfl, rfl, rfl, rfl, rfl, rfl, nofun⟩
  case refused =>
    simp only [List.forall_mem_cons]
    exact ⟨rfl, rfl, rfl, rfl, rfl, rfl, rfl, rfl, nofun⟩

end Sys2Proof.Proofs
end

section
/-! SUPPORT. Every row of the table answers a next state, but the error whose effect the spec does not give, and so
does every step. -/

namespace Sys2Proof.Proofs

open Sys2Proof.Machine Sys2Proof.Rules Sys2Proof.Laws

/-- A host command's row answers a next state, whatever its command does. -/
theorem runCmd_next (op : Nat) (pf : Bool) (s : State) (f : Command → State → CmdOut) : ∃ t, runCmd op pf s f = .next t := by
  obtain none | ⟨_, _, _, _, some⟩ := runCmd_cases op pf s f
  · exact ⟨_, none⟩
  · exact ⟨_, some⟩

theorem execReclaim_next (s : State) : ∃ t, execReclaim s = .next t := by
  unfold execReclaim
  split
  · exact runCmd_next ..
  · exact ⟨_, rfl⟩

theorem execVldw_next (vd : BitVec 6) (wn chunk : BitVec 5) (k : BitVec 3) (ew : BitVec 2) (s : State) :
    ∃ t, execVldw vd wn chunk k ew s = .next t := by
  unfold execVldw
  split <;> exact finish_next _

/-- R262: of the errors in storage only one whose effect the spec does not give ends a run. -/
theorem execUncorrectableError_cases (s : State) : (∃ t, execUncorrectableError s = .next t) ∨
    (Given s .sramError ∧ execUncorrectableError s = .fault .errorWithoutEffect) := by
  unfold execUncorrectableError
  cases given : s.inputs with
  | nil => exact .inl ⟨_, rfl⟩
  | cons i rest =>
    obtain ⟨at_, i⟩ := i
    cases i with
    | sramError => exact .inr ⟨⟨_, _, given⟩, rfl⟩
    | _ => exact .inl ⟨_, rfl⟩

/-- An event's row answers a next state, a host command's runs its command, and an instruction ends by `finish`. -/
theorem exec_next {i : Instr} (h : i ≠ .uncorrectableError) (s : State) : ∃ t, exec i s = .next t := by
  cases i with
  | uncorrectableError => exact absurd rfl h
  | add | sub | and | or | xor | sll | srl | sra | min | max | minn | maxn | slt | sltn | addi | andi | ori | xori |
    slli | srli | srai | slti | sltin | lui | sitea | siteaRel | here | mul | mulh | mulhn | div | divn | rem | remn
    | clz | ctz | popc | bswap | ext | beq | bne | blt | bge | bltn | bgen | j | loop | depGet | barInit | winGet |
    cstat | now | pmc | pmcCfg | adpc | fclass | fmv | nop | svc | powerOn | deviceReset | convoyBegin |
    vectorRetire | resynchronisingAccess | mopBegin | mopRetire | vldwGroup | storeRefusal | ringGuard |
    impreciseTrap | resume | jobBind | preemption | expiry | treeDeadline | slotCreation | reclaimAtTimer | graceEnd
    | timedWaitLimit | waitConditionMet | atTimer | fhoutLaunch | reclaimDrainTimeout | fencing |
    dispatcherPlacement | stealRequest | stealGrant | setdlRequest | gangReservation | gangStart | lendComplete |
    savedGroupRestore | vamoArrival | combiningTimeout | pageWalk | atsCompletion | prgResponse | invalidateRequest
    | invalidateCompletion | listStart | spoolChunk | chunkArrival | src | dst | push | mcast | gather | cvt |
    clistLoop | waitd | atTime | notifyDec | notifyPost | recRecord | endList | codingCommandStart |
    codingCommandEnd | messageAppend | msgSendvRetry | ingressFrame | ptpFrame | esmcMessage | timeStep |
    lockStateChange | flitReplay | linkRetrain | tetherDown | barrierArrival | ticketPoll | launchDoorbell |
    commandDoorbell | telemetryClaim | powerLimitRegisterWrite | portModeWrite | windowDescriptorStore |
    registerWrite | serviceTrap | svcNone | svcNotice | svcTelemetry | svcTimeLock | deferredCompletion |
    firmwareTimer | watchdogExpiry | serviceRestart | ballastTurn | mgmtCoreReset | tripHoldBegin | tripHoldEnd |
    powerStep | tetherUp | priReenable | unplacedSlotSkip => exact ⟨_, rfl⟩
  | queueCreate | queueDestroy | tenantCreate | tenantDestroy | ptAttach | lend | reclaimAt | slotSet | bridleSet |
    launch | gangLaunch | copy | signal | codingCfg | telemetry | attest | partReset | debugSession | debugHalt |
    debugRead | debugResume | keySet | alloc | fenceCmd | powerLimit | queryResult =>
    exact runCmd_next ..
  | reclaim => exact execReclaim_next s
  | vldw => exact execVldw_next ..
  | _ => exact finish_next _

/-- Either a next state, or the one fault of the input that an uncorrectable error in storage is (R262). -/
theorem exec_cases (i : Instr) (s : State) : (∃ t, exec i s = .next t) ∨
    (i = .uncorrectableError ∧ Given s .sramError ∧ exec i s = .fault .errorWithoutEffect) := by
  by_cases error : i = .uncorrectableError
  · subst error
    obtain next | faults := execUncorrectableError_cases s
    · exact .inl next
    · exact .inr ⟨rfl, faults⟩
  · exact .inl (exec_next error s)

/-- An event without an input is never the one that ends a run. -/
theorem runEvent_next (i : Instr) (s : State) : ∃ t, runEvent i s = .next t := by
  have answers : ∃ t, exec i { s with inputs := [] } = .next t := by
    by_cases error : i = .uncorrectableError
    · subst error
      exact ⟨_, rfl⟩
    · exact exec_next error _
  obtain ⟨t, e⟩ := answers
  exact ⟨_, by rw [runEvent, e]; rfl⟩

/-- A word decodes to an instruction, which is no event (R58). -/
theorem runWord_next (w : BitVec 32) (s : State) : ∃ t, runWord w s = .next t := by
  unfold runWord
  split
  case h_1 i decodes =>
    have word := (decodeWord_reads w i decodes).2
    unfold runInstr
    split
    · exact finish_next _
    · exact exec_next (fun error => by subst error; cases word) s
  case h_2 => exact finish_next _

theorem thenNext_next {o : Out} {f : State → Out} (ho : ∃ t, o = .next t) (hf : ∀ t, ∃ u, f t = .next u) :
    ∃ u, thenNext o f = .next u := by
  obtain ⟨t, rfl⟩ := ho
  exact hf t

theorem issuePair_next (s : State) (a : BitVec 48) (w0 w1 : BitVec 32) : ∃ t, issuePair s a w0 w1 = .next t :=
  thenNext_next (runWord_next ..) fun _ => thenNext_next (runWord_next ..) fun _ =>
    thenNext_next (runWord_next ..) fun _ => ⟨_, rfl⟩

theorem issueUnit_next (s : State) (a : BitVec 48) (b : Dword) : ∃ t, issueUnit s a b = .next t := by
  unfold issueUnit
  simp only []
  split_ifs
  · exact ⟨_, rfl⟩
  · exact runWord_next ..
  · exact issuePair_next ..
  · exact runWord_next ..

theorem issue_next (s : State) : ∃ t, issue s = .next t := by
  unfold issue
  simp only []
  split
  · exact issueUnit_next ..
  all_goals exact ⟨_, rfl⟩

theorem hartTurn_next (s : State) : ∃ t, hartTurn s = .next t := by
  refine thenNext_next ?_ fun _ => ⟨_, rfl⟩
  split
  · exact issue_next s
  · exact ⟨_, rfl⟩

/-- The device's turn ends a run only where it takes the input that does. -/
theorem deviceAct_cases (s : State) : (∃ t, deviceAct s = .next t) ∨
    (Given s .sramError ∧ deviceAct s = .fault .errorWithoutEffect) := by
  unfold deviceAct
  split
  case h_1 i _ => exact (exec_cases (inputRow s i) s).imp_right And.right
  case h_2 =>
    split
    · exact .inl (runEvent_next ..)
    · exact .inl ⟨_, rfl⟩

theorem step_cases (s : State) : (∃ t, step s = .next t) ∨
    (s.turn = .device ∧ Given s .sramError ∧ step s = .fault .errorWithoutEffect) := by
  unfold step
  cases turn : s.turn with
  | hart => exact .inl (hartTurn_next s)
  | device =>
    obtain acts | ⟨given, faults⟩ := deviceAct_cases s
    · exact .inl (thenNext_next acts fun _ => ⟨_, rfl⟩)
    · exact .inr ⟨rfl, given, by simp only [deviceTurn, faults, thenNext]⟩

/-- Settles O60: every row ends by `finish`, as an event or as a host command, but the one of R262. -/
theorem nothingIsRefused : Obligations.NothingIsRefused := ⟨exec_cases, step_cases⟩

end Sys2Proof.Proofs
end

section
/-! SUPPORT. The system instructions: where `brk` and `halt` stop, and where a `tret` goes. -/

namespace Sys2Proof.Proofs

open Sys2Proof.Machine Sys2Proof.Safety Sys2Proof.Rules Sys2Proof.Laws

/-! ### The end of a system instruction -/

/-- A precise trap is taken, or kept for the end of a paired bundle (R42). -/
theorem raise_eq_trappedAt (s : State) (check cause : Nat) (tval : Dword) :
    raise s check ⟨cause, tval⟩ = trappedAt check s cause tval := rfl

theorem drained_of_retired {s : State} (h : Retired s) : drained s = true := drained_eq h.1 h.2

/-! ### Where a `tret` may go (R65, R142) -/

theorem and_three_eq_zero (a : BitVec 48) : a &&& 3 = 0 ↔ a.toNat % 4 = 0 := by
  rw [← BitVec.toNat_inj, BitVec.toNat_and]
  exact Eq.congr_left (Nat.and_two_pow_sub_one_eq_mod a.toNat 2)

theorem getLsbD_two (a : BitVec 48) : a.getLsbD 2 = decide (a.toNat / 4 % 2 = 1) := by
  rw [BitVec.getLsbD, Nat.testBit_eq_decide_div_mod_eq]

theorem tretTarget_aligned {s : State} (h : s.hart.tr.xpc.toNat % 8 = 0) (f : State → Res) : tretTarget s f = f s := by
  have low : s.hart.tr.xpc &&& 3 = 0 := (and_three_eq_zero _).2 (by omega)
  have even : s.hart.tr.xpc.getLsbD 2 = false := by rw [getLsbD_two]; exact decide_eq_false (by omega)
  simp only [tretTarget, low, even, bne_self_eq_false, Bool.false_eq_true, if_false]

/-- The second word of a bundle that can be fetched: the return goes there unless the bundle is paired. -/
theorem tretTarget_second {s s1 : State} {w : Dword} (h : s.hart.tr.xpc.toNat % 8 = 4)
    (fetched : fetchBundle s (s.hart.tr.xpc - 4) = .ok w s1) (f : State → Res) :
    tretTarget s f = if w.getLsbD 31 then xtrap 0x05 (s.hart.tr.xpc.zeroExtend 64) s1 else f s1 := by
  have low : s.hart.tr.xpc &&& 3 = 0 := (and_three_eq_zero _).2 (by omega)
  have odd : s.hart.tr.xpc.getLsbD 2 = true := by rw [getLsbD_two]; exact decide_eq_true (by omega)
  simp only [tretTarget, low, odd, fetched, bne_self_eq_false, Bool.false_eq_true, if_false, if_true]

theorem tretTarget_misaligned {s : State} (h : s.hart.tr.xpc.toNat % 4 ≠ 0) (f : State → Res) :
    tretTarget s f = xtrap 0x05 (s.hart.tr.xpc.zeroExtend 64) s := by
  have low : s.hart.tr.xpc &&& 3 ≠ 0 := mt (and_three_eq_zero _).1 h
  exact if_pos (bne_iff_ne.2 low)

theorem tretTarget_returns {s s1 : State} (h : MayReturn s s1) (f : State → Res) : tretTarget s f = f s1 := by
  obtain ⟨aligned, rfl⟩ | ⟨second, w, fetched, lone⟩ := h
  · exact tretTarget_aligned aligned f
  · rw [tretTarget_second second fetched, lone]; rfl

/-- The unit being issued is the last of its program. -/
def unitLast (s : State) : State := withHart s fun h => { h with lastPc := h.x.iaddr }

/-- What a handler's return does with the state its target's fetch leaves (R142). -/
def leaveHandler (s : State) : Res :=
  if s.hart.tr.grc then .left (issued s (endFocus (unitLast s) 4))
  else .ok (goTo ((if s.hart.tr.imp then reissue else id)
    (withHart s fun h => { h with tr := { h.tr with grc := false, imp := false, inh := false } })) s.hart.tr.xpc)

theorem exec_tret {s : State} (h : s.hart.tr.inh = true) : exec .tret s = finish (tretTarget s leaveHandler) := by
  have leaves : leaveHandler = fun s1 =>
      if s1.hart.tr.grc then .left (countLeft s1 (endFocus (updH s1 fun h => { h with lastPc := h.x.iaddr }) 4))
      else
        let s2 := updH s1 fun h => { h with tr := { h.tr with grc := false, imp := false, inh := false } }
        .ok (jumpTo (if s1.hart.tr.imp then reissue s2 else s2) s1.hart.tr.xpc) := by
    funext s1
    unfold leaveHandler
    cases s1.hart.tr.imp <;> rfl
  rw [leaves]
  show execTret s = _
  simp only [execTret, h, Bool.not_true, Bool.false_eq_true, if_false]

theorem leaveHandler_returns {s : State} (h : s.hart.tr.grc = false) :
    leaveHandler s = .ok (goTo ((if s.hart.tr.imp then reissue else id)
      (withHart s fun h => { h with tr := { h.tr with grc := false, imp := false, inh := false } })) s.hart.tr.xpc) := by
  simp only [leaveHandler, h, Bool.false_eq_true, if_false]

theorem leaveHandler_grace {s : State} (h : s.hart.tr.grc = true) :
    leaveHandler s = .left (issued s (endFocus (unitLast s) 4)) := by
  simp only [leaveHandler, h, if_true]

/-! ### Where `brk` and `halt` stop (R140, R141) -/

theorem exec_brk {s : State} (h : Retired s) (c : BitVec 19) : exec (.brk c) s =
    finish (if underSession s then .left (haltAt s s.hart.x.iaddr) else xtrap 0x09 (c.zeroExtend 64) s) :=
  congrArg finish (afterQueue_drained (drained_of_retired h) _)

theorem exec_halt {s : State} (h : Retired s) : exec .halt s = .next (issued s
    (if underSession s then haltAt (unitLast s) (s.hart.x.iaddr + 4) else endFocus (unitLast s) 7)) :=
  congrArg finish (afterQueue_drained (drained_of_retired h) _)

theorem haltAt_hart (s : State) (ra : BitVec 48) : (haltAt s ra).hart = { (cutQueue s).hart.fresh with
    stage := .halted, preempt := false, pc := ra, debugPc := ra, debugHeld := true } := by
  simp only [haltAt, updH_hart, saveHart_hart]

theorem issued_hart (s t : State) : (issued s t).hart = t.hart := countEv_hart ..

/-- Settles O6: each instruction by the lemma of its end, in the order of the statement. -/
theorem systemInstructions : Obligations.SystemInstructions := by
  intro s
  refine ⟨does_of_ok rfl, fun c => rfl, fun retired c free => ?brk, fun retired session c => ?brkHalts,
    fun retired session => ?haltHalts, fun retired free => ?haltEnds, fun inside s1 may grc => ?returns,
    fun inside s1 may grc => ?grace, fun inside misaligned => ?misaligned,
    fun w s1 inside second fetched paired => ?paired, fun outside => ?outside, fun retired => ?isync⟩
  case brk => rw [Traps, exec_brk retired, underSession, if_neg free, xtrap, finish_trap, raise_eq_trappedAt]
  case brkHalts =>
    refine ⟨_, by rw [exec_brk retired, underSession, if_pos session, finish_left], ?_⟩
    simp only [haltAt_hart, and_self]
  case haltHalts =>
    refine ⟨_, by rw [exec_halt retired, underSession, if_pos session], ?_⟩
    simp only [issued_hart, haltAt_hart, and_self]
  case haltEnds => rw [exec_halt retired, underSession, if_neg free]; rfl
  case returns => exact does_of_ok (by rw [exec_tret inside, tretTarget_returns may, leaveHandler_returns grc])
  case grace => rw [exec_tret inside, tretTarget_returns may, leaveHandler_grace grc, finish_left]; rfl
  case misaligned => rw [Traps, exec_tret inside, tretTarget_misaligned misaligned, xtrap, finish_trap, raise_eq_trappedAt]
  case paired =>
    rw [exec_tret inside, tretTarget_second second fetched, if_pos paired, xtrap, finish_trap, raise_eq_trappedAt]
  case outside =>
    have refuses : exec .tret s = finish (illegal 6 s) := congrArg finish (if_pos (by rw [outside]; rfl))
    rw [Traps, refuses, illegal, finish_trap, raise_eq_trappedAt]
  case isync => exact does_of_ok (congrArg finish (afterQueue_drained (drained_of_retired retired) _))

end Sys2Proof.Proofs
end

section
/-! SUPPORT. Where a matrix instruction stops at decode: the checks of R63, in their order. -/

namespace Sys2Proof.Proofs

open Sys2Proof.Machine Sys2Proof.Safety Sys2Proof.Rules Sys2Proof.Laws

section
variable {s : State}

/-- A vector or matrix instruction that fails a check of R63 at decode traps there and does nothing else. -/
theorem vexec_of_check_fails {i : Instr} {op : VOp} {check cause : Nat} (sa sb : Dword)
    (h : op.check s.hart.width s.hart.mview (lenNow s) = some (check, cause)) :
    vexec i op sa sb s = .next (trappedAt check s cause (s.hart.x.iword.zeroExtend 64)) := by
  simp only [vexec, vissue, h]
  rfl

/-- R234: a `mopv` whose first run leaves v0-v47 is illegal at check 2 of R63, in either mode. -/
theorem exec_mopv_of_run_past_v47 {va : BitVec 6} {fmt : BitVec 4} {ks : BitVec 2}
    (h : 48 < va.toNat + runRegs s.hart.width (2 ^ ks.toNat * aStep s.hart.width fmt.toNat)) (vb : BitVec 6) :
    exec (.mopv va vb fmt ks) s = .next (trappedAt 2 s 0x02 (s.hart.x.iword.zeroExtend 64)) := by
  refine vexec_of_check_fails 0 0 ?_
  simp only [opMopv, inMatrix, h, decide_true, Bool.true_or, if_true]

/-- A trap in a paired unit is noted with the check of R63 that raised it. -/
theorem trappedAt_check (hp : s.hart.x.paired = true) (check cause : Nat) (tval : Dword) :
    (trappedAt check s cause tval).hart.x.check = check := by
  rw [trappedAt, if_pos hp]
  rfl

/-- A hart of four lanes outside matrix mode, in a paired bundle. -/
def pairedHart : State := { State.reset with hart := { State.reset.hart with width := 4, x := { paired := true } } }
end

/-- Refutes O55: outside matrix mode the statement has every `mopv` trap at check 3 with cause 0x03, but
`mopv.f16 v48, v0, 1` names registers past v47, which R234 makes illegal at check 2 of R63, the earlier one. -/
theorem not_stepRunsTheDecodedInstruction : ¬ Obligations.StepRunsTheDecodedInstruction := by
  rintro ⟨hchecks, -⟩
  obtain ⟨-, hmatrix, -⟩ := hchecks pairedHart 0 48 0 0
  have stated := hmatrix 0 0 0 0 8 0 0 0 0 rfl (.mopv 48 0 8 0) (by simp)
  have run := exec_mopv_of_run_past_v47 (s := pairedHart) (va := 48) (fmt := 8) (ks := 0) (by decide) 0
  have same := congrArg (fun t : State => t.hart.x.check) (Host.Outcome.next.inj (stated.symm.trans run))
  simp only [trappedAt_check (s := pairedHart) rfl] at same
  exact absurd same (by decide)

end Sys2Proof.Proofs
end

section
/-! SUPPORT. The head of a hart's queue retires, and what a queued mask move leaves. -/

namespace Sys2Proof.Proofs

open Sys2Proof.Machine Sys2Proof.Safety Sys2Proof.Rules Sys2Proof.Laws

/-- R92: a live instruction at the head of the queue of the hart in focus, no `mop` and no `vldw`, runs at the event of
retirement. -/
theorem vectorRetire_runs {s : State} (ready : headIs s (fun e => !isMop e.instr && !isVldw e.instr) = true)
    (changes : runQueue s ≠ s) (key : (runQueue s).hart.key = s.hart.key) :
    exec .vectorRetire s = .next (runQueue s) := by
  have run : headRuns s = some (runQueue s) := if_neg changes
  have focus (t : State) (h : t.hart.key = s.hart.key) : focusOn t s.hart.key = t := if_pos h
  have picked : pickRetire s = some (runQueue s) := by
    simp only [pickRetire, onHart, hartKeys, List.findSome?_cons, focus s rfl, ready, if_true, run, Option.map_some,
      focus _ key]
  exact congrArg (fun o : Option State => Host.Outcome.next (o.getD s)) picked

/-- A mask move that waits with `vl` = 0, begun. -/
def emptyMove : QEntry :=
  { instr := .kmov 2 1, word := 0, addr := 0, joins := false, queue := 0, live := true, sa := 0, sb := 0, len := {},
    rm := 0, satfp := false }

/-- A hart of four lanes with that move in its queue and bit 0 of k1 set. -/
def hartWithEmptyMove : State :=
  { State.reset with
    hart := { State.reset.hart with stage := .running, width := 4, k := [(1, 1)], queue := [emptyMove] } }

theorem emptyMove_retires : exec .vectorRetire hartWithEmptyMove = .next (runQueue hartWithEmptyMove) :=
  have queues : (runQueue hartWithEmptyMove).hart.queue ≠ hartWithEmptyMove.hart.queue := by decide
  vectorRetire_runs (by decide) (mt (congrArg fun t : State => t.hart.queue) queues) (by decide)

/-- Refutes O38: the statement has a queued `kmov` copy its whole source register, but R170 changes the bits below vl
only, and with vl = 0 the destination stays as it was. -/
theorem not_queuedInstructionsBeginAndRetire : ¬ Obligations.QueuedInstructionsBeginAndRetire := by
  intro h
  obtain ⟨-, runs⟩ := h hartWithEmptyMove emptyMove [] rfl
  obtain ⟨-, moves, -⟩ := runs rfl rfl rfl rfl
  have stated := moves 2 1 rfl rfl rfl
  have same := congrArg (fun t : State => (getMask t.hart 2).getLsbD 0)
    (Host.Outcome.next.inj (stated.symm.trans emptyMove_retires))
  exact absurd same (by decide +kernel)

end Sys2Proof.Proofs
end

section
/-! SUPPORT. Barriers: what `bar.init` answers, and what an arrival does at its unit (R104, R435-R439). -/

namespace Sys2Proof.Proofs

open Sys2Proof.Machine Sys2Proof.Safety Sys2Proof.Rules Sys2Proof.Laws

/-! ### Handles and objects -/

theorem barMalformed_iff (h : Dword) : barMalformed h = true ↔
    2 ^ 32 ≤ h.toNat ∨ h.toNat / 512 % 128 ≠ 0 ∨ 383 < h.toNat % 512 := by
  have high : h.toNat / 2 ^ 32 ≠ 0 ↔ 2 ^ 32 ≤ h.toNat := by omega
  simp only [barMalformed, barObject, bits, Bool.or_eq_true, bne_iff_ne, high, or_assoc]
  exact or_congr_right (or_congr_right decide_eq_true_iff)

theorem barRefuses_iff (s : State) (tenant : Nat) (h : Dword) : barRefuses s tenant h = true ↔
    barMalformed h = true ∨ (getBar s (barObject h)).owner ≠ tenant ∨ (getBar s (barObject h)).expected = 0 := by
  simp only [barRefuses, Bool.or_eq_true, bne_iff_ne, beq_iff_eq, or_assoc]

/-- R439: an object counted on, whose contributions are those of `c`, completes its phase or goes on. -/
theorem complete_counted {b c : Barrier} (owner : c.owner = b.owner) (expected : c.expected = b.expected)
    (phases : c.phases = b.phases) : ({ c with count := b.count + 1 } : Barrier).complete =
    if b.count + 1 = b.expected then
      { owner := b.owner, expected := b.expected, phases := b.phases + 1, res0 := barResult c.acc0 c.flags0,
        res1 := barResult c.acc1 c.flags1, resi := c.iacc }
    else { c with count := b.count + 1 } := by
  rw [← owner, ← expected, ← phases]
  rfl

/-- R104: a contribution added to an accumulator is added to the integer it holds. -/
theorem acc_add_ofInt (a : BitVec 2176) (x : Int) : a + BitVec.ofInt 2176 x = BitVec.ofInt 2176 (a.toInt + x) := by
  rw [BitVec.ofInt_add, BitVec.ofInt_toInt]

/-! ### `bar.init` (R437) -/

theorem barInit_bad {sa sb : BitVec 5} {s : State}
    (bad : barMalformed (rdS s sa) = true ∨ (rdS s sb).toNat < 1 ∨ 4096 < (rdS s sb).toNat) (sd : BitVec 5) :
    exec (.barInit sd sa sb) s = finish (.ok (wrS s sd 4)) :=
  congrArg (fun t => finish (.ok t)) (if_pos (by simpa only [Bool.or_eq_true, decide_eq_true_eq, or_assoc] using bad))

theorem barInit_good {sa sb : BitVec 5} {s : State} {b : Barrier} (object : getBar s (barObject (rdS s sa)) = b)
    (good : ¬ barMalformed (rdS s sa) = true) (low : 1 ≤ (rdS s sb).toNat) (high : (rdS s sb).toNat ≤ 4096)
    (sd : BitVec 5) : exec (.barInit sd sa sb) s = finish (.ok (
      if b.owner ≠ s.hart.job.tenant then wrS s sd 3
      else if b.count ≠ 0 then wrS s sd 2
      else wrS (setBar s (barObject (rdS s sa)) { owner := b.owner, expected := (rdS s sb).toNat }) sd 0)) := by
  subst object
  have fine : ¬ (barMalformed (rdS s sa) || (rdS s sb).toNat < 1 || 4096 < (rdS s sb).toNat) = true := by
    simpa only [Bool.or_eq_true, decide_eq_true_eq, not_or, not_lt, and_assoc] using And.intro good ⟨low, high⟩
  refine congrArg (fun t => finish (.ok t)) ((if_neg fine).trans ?_)
  simp only [bne_iff_ne]

/-! ### Arrivals (R438, R439) -/

/-- The register of the hart in focus, written by its number. -/
theorem wrHart_focus (s : State) (r : BitVec 5) (v : Dword) : wrHart s s.hart.key r v = wrS s r v := by
  unfold wrHart wrS updHart setHart getHart
  simp only [if_true]

section
variable {s : State} {a : Arrival} (mine : a.hart = s.hart.key) (owned : (getBar s a.object).owner = a.tenant)
  (set : (getBar s a.object).expected ≠ 0)
include mine owned set

/-- An arrival that its unit takes acts on the object and answers its handle. -/
theorem applyArrival_taken : applyArrival s a =
    wrS (setBar s a.object ((getBar s a.object).arrive a.form a.x a.y).complete) a.sd
      (barHandle a.object (getBar s a.object).phases) := by
  have taken : ((getBar s a.object).owner != a.tenant || (getBar s a.object).expected == 0) = false := by
    simp [owned, set]
  simp only [applyArrival, taken, Bool.false_eq_true, if_false, mine]
  exact wrHart_focus (setBar s a.object _) _ _
end

/-- An arrival that reaches its unit and leaves its phase incomplete only counts, where it contributes nothing. -/
theorem barrierArrival_counts {s : State} {a : Arrival} {rest : List Arrival} (oldest : s.arrivals = a :: rest)
    (mine : a.hart = s.hart.key) (plain : a.form = 0) (owned : (getBar s a.object).owner = a.tenant)
    (set : (getBar s a.object).expected ≠ 0) (more : (getBar s a.object).count + 1 ≠ (getBar s a.object).expected) :
    exec .barrierArrival s = .next (wrS
      (setBar { s with arrivals := rest } a.object
        { getBar s a.object with count := (getBar s a.object).count + 1 }) a.sd
      (BitVec.ofNat 64 ((getBar s a.object).phases.toNat % 2 ^ 16 * 2 ^ 16 + a.object))) := by
  have unit : exec .barrierArrival s = .next (applyArrival { s with arrivals := rest } a) := by
    show execBarrierArrival s = _
    rw [execBarrierArrival, oldest]
  have counted : ((getBar s a.object).arrive a.form a.x a.y).complete =
      { getBar s a.object with count := (getBar s a.object).count + 1 } := by
    rw [plain]
    exact if_neg more
  rw [unit, applyArrival_taken (s := { s with arrivals := rest }) mine owned set]
  exact congrArg (fun b => Host.Outcome.next (wrS (setBar { s with arrivals := rest } a.object b) a.sd _)) counted

section
variable {i : Instr} {sd : BitVec 5} {handle : Dword} {s : State} (form : Nat) (x y : Dword)

theorem arriveR_refused (refused : barRefuses s s.hart.job.tenant handle = true) :
    arriveR i sd handle form x y s = .ok (wrS s sd (BitVec.allOnes 64)) := if_pos refused

/-- R438: with nothing else on its way and nothing queued, an arrival reaches its unit as it is sent. -/
theorem arriveR_taken (taken : ¬ barRefuses s s.hart.job.tenant handle = true) (retired : Retired s)
    (none : s.arrivals = []) : arriveR i sd handle form x y s = .ok (wrS
      (setBar s (barObject handle) ((getBar s (barObject handle)).arrive form x y).complete) sd
      (barHandle (barObject handle) (getBar s (barObject handle)).phases)) := by
  obtain ⟨-, owner, expected⟩ : ¬ barMalformed handle = true ∧
      ¬ (getBar s (barObject handle)).owner ≠ s.hart.job.tenant ∧ ¬ (getBar s (barObject handle)).expected = 0 := by
    simpa only [barRefuses_iff, not_or] using taken
  have same : ({ s with arrivals := [] } : State) = s := by rw [← none]
  unfold arriveR
  rw [if_neg taken, afterQueue_drained (drained_of_retired retired)]
  simp only [applyArrivals, none, List.nil_append, List.foldl_cons, List.foldl_nil, same]
  exact congrArg Res.ok (applyArrival_taken (a := ⟨_, form, x, y, _, _, sd⟩) rfl (not_not.1 owner) expected)
end

/-- R438: each arrival form sends an arrival whose contribution is the one its row states. -/
theorem arrivalForm_sends {sb : BitVec 5} {s : State} {r : (BitVec 5 → BitVec 5 → Instr) × (Barrier → Barrier)}
    (row : r ∈ arrivalForms sb s) (sd sa : BitVec 5) : ∃ form x y,
      exec (r.1 sd sa) s = finish (arriveR (r.1 sd sa) sd (rdS s sa) form x y s) ∧
      (∀ b : Barrier, b.arrive form x y = { r.2 b with count := b.count + 1 }) ∧
      ∀ b, (r.2 b).owner = b.owner ∧ (r.2 b).expected = b.expected ∧ (r.2 b).phases = b.phases := by
  simp only [arrivalForms, List.mem_cons, List.not_mem_nil, or_false] at row
  obtain rfl | rfl | rfl | rfl := row
  · exact ⟨0, 0, 0, rfl, fun b => rfl, fun b => ⟨rfl, rfl, rfl⟩⟩
  · exact ⟨1, rdS s sb, 0, rfl, fun b => by simp only [Barrier.arrive, acc_add_ofInt], fun b => ⟨rfl, rfl, rfl⟩⟩
  · exact ⟨2, rdS s sb, rdS s (sb + 1), rfl, fun b => by simp only [Barrier.arrive, acc_add_ofInt],
      fun b => ⟨rfl, rfl, rfl⟩⟩
  · exact ⟨3, rdS s sb, 0, rfl, fun b => by simp only [Barrier.arrive, BitVec.ofNat_add, BitVec.ofNat_toNat,
      BitVec.setWidth_eq], fun b => ⟨rfl, rfl, rfl⟩⟩

/-- Settles O28: `bar.init` by the order of its answers, the arrival forms by what reaches the unit. -/
theorem barriersArriveAndComplete : Obligations.BarriersArriveAndComplete := by
  intro sd sa sb s h o b bad n
  have malformed : barMalformed h = true ↔ bad := barMalformed_iff h
  have init (good : ¬ bad) (low : 1 ≤ n) (high : n ≤ 4096) :=
    barInit_good (b := b) rfl (mt malformed.1 good) low high sd
  refine ⟨fun wrong => ?statusFour, fun good low high => ⟨fun foreign => ?statusThree, fun mine busy => ?statusTwo,
    fun mine idle => ?made⟩, fun r row i hi => ⟨fun refused => ?refused, fun good mine set retired none => ?taken,
    fun a rest oldest => barrierArrival_counts oldest⟩⟩
  case statusFour => exact does_of_ok (barInit_bad (wrong.imp malformed.2 (by omega)) sd)
  case statusThree => exact does_of_ok ((init good low high).trans (by rw [if_pos foreign]))
  case statusTwo => exact does_of_ok ((init good low high).trans (by rw [if_neg (not_not.2 mine), if_pos busy]))
  case made =>
    exact does_of_ok ((init good low high).trans (by rw [if_neg (not_not.2 mine), if_neg (not_not.2 idle)]; rfl))
  case refused =>
    obtain ⟨form, x, y, sends, -, -⟩ := arrivalForm_sends row sd sa
    have refuses : barRefuses s s.hart.job.tenant h = true := (barRefuses_iff ..).2 (refused.imp_left malformed.2)
    rw [hi]
    exact does_of_ok (sends.trans (congrArg finish (arriveR_refused form x y refuses)))
  case taken =>
    obtain ⟨form, x, y, sends, adds, keeps⟩ := arrivalForm_sends row sd sa
    have takes : ¬ barRefuses s s.hart.job.tenant h = true := by
      simp only [barRefuses_iff, malformed, not_or]
      exact ⟨good, not_not.2 mine, set⟩
    have done := arriveR_taken (i := i) (sd := sd) form x y takes retired none
    obtain ⟨owner, expected, phases⟩ := keeps (getBar s (barObject h))
    rw [adds, complete_counted owner expected phases] at done
    subst hi
    exact does_of_ok (sends.trans (congrArg finish done))

end Sys2Proof.Proofs
end

section
/-! SUPPORT. The control registers: what each one reads, what a write leaves, and how a move ends (R111-R116, R137). -/

namespace Sys2Proof.Proofs

open Sys2Proof.Machine Sys2Proof.Safety Sys2Proof.Rules Sys2Proof.Laws

/-! ### The end of an instruction -/

theorem countEv_eq (s : State) (core : Nat) (hid : Option Nat) (ev n : Nat) :
    countEv s core hid ev n = { s with pmc := (countEv s core hid ev n).pmc } :=
  congrArg (fun t : State => { t with pmc := (countEv s core hid ev n).pmc }) (countEv_rest s core hid ev n)

theorem idle_wrS (s : State) (sd : BitVec 5) (v : Dword) : idle (wrS s sd v) = wrS (idle s) sd v := by
  unfold wrS
  split <;> rfl

theorem pcAfter_same {s u : State} (x : s.hart.x = u.hart.x) (pc : s.hart.pc = u.hart.pc) : pcAfter s = pcAfter u := by
  simp only [pcAfter, x, pc]

/-- An instruction whose own work ends in `v`, which is `u` but for bookkeeping of the hart, has the effect `u`. -/
theorem does_of_idle {i : Instr} {s u v : State} (h : exec i s = finish (.ok v)) (same : idle v = idle u)
    (pc : pcAfter v = pcAfter u) : Does i s u :=
  ⟨advance v, h, (advance_idle v).trans same, (advance_pc v).trans pc⟩

/-! ### Grants (R149, R151) -/

theorem typeWidth_eq_widthOfType {t : Nat} (h : t < 32) : typeWidth t = widthOfType t :=
  (by decide : ∀ t < 32, typeWidth t = widthOfType t) t h

theorem vmax_eq_largestLength (w : Nat) (l : LenRegs) : vmax w l = largestLength w l.vtype :=
  congrArg (2 ^ (l.vtype.toNat / 32) * w * 256 / ·) (typeWidth_eq_widthOfType (Nat.mod_lt _ (by decide)))

theorem grant_eq_granted (w : Nat) (l : LenRegs) (r c : Nat) :
    grant w l r c = Rules.granted l (largestLength w l.vtype) r c := by
  rw [← vmax_eq_largestLength]
  unfold grant Rules.granted
  by_cases none : r = 0 ∨ c = 0
  · simp only [if_pos none, Nat.mul_zero]
  · simp only [if_neg none]

/-! ### What a written register holds -/

theorem zeroExtend_truncate (v : Dword) (k : Nat) :
    (v.truncate k).zeroExtend 64 = BitVec.ofNat 64 (v.toNat % 2 ^ k) := by
  refine BitVec.eq_of_toNat_eq ?_
  simp only [BitVec.truncate, BitVec.zeroExtend, BitVec.toNat_setWidth, BitVec.toNat_ofNat]

/-- The low bits of a word of any width taken away. -/
theorem and_not_low_bits {w : Nat} (a : BitVec w) (k : Nat) :
    a &&& ~~~(BitVec.ofNat w (2 ^ k - 1)) = BitVec.ofNat w (a.toNat / 2 ^ k * 2 ^ k) := by
  refine BitVec.eq_of_getLsbD_eq fun i hi => ?_
  simp only [BitVec.getLsbD_and, BitVec.getLsbD_not, BitVec.getLsbD_ofNat, hi, decide_true, Bool.true_and,
    Nat.testBit_two_pow_sub_one, Nat.testBit_mul_two_pow, Nat.testBit_div_two_pow, BitVec.testBit_toNat]
  obtain low | high := Nat.lt_or_ge i k
  · simp [low]
  · simp [high, Nat.not_lt.2 high]

/-- R116: an address that a register keeps without its three low bits. -/
theorem zeroExtend_bundleAddress (v : Dword) :
    (v.truncate 48 &&& ~~~(7 : BitVec 48)).zeroExtend 64 = BitVec.ofNat 64 (v.toNat % 2 ^ 48 / 8 * 8) := by
  have low : v.truncate 48 &&& ~~~(7 : BitVec 48) = BitVec.ofNat 48 (v.toNat % 2 ^ 48 / 8 * 8) :=
    and_not_low_bits (v.truncate 48) 3
  rw [low]
  refine BitVec.eq_of_toNat_eq ?_
  simp only [BitVec.zeroExtend, BitVec.toNat_setWidth, BitVec.toNat_ofNat]
  omega

theorem cregVal_withLength (h : Hart) (l : LenRegs) {m : Nat} (high : 6 ≤ m) :
    cregVal { h with len := l } m = cregVal h m := by
  refine Or.resolve_left (a := m < 6) ?_ (Nat.not_lt.2 high)
  unfold cregVal
  split
  all_goals simp

theorem lengthsWritten_of_eq {h : Hart} {n : Nat} {v : Dword} {l : LenRegs}
    (written : cregWrite h n v = { h with len := l }) : LengthsWritten h n v l := by
  rw [LengthsWritten, written]
  exact ⟨⟨rfl, rfl, rfl, rfl, rfl, rfl⟩, fun m _ => cregVal_withLength h l⟩

/-- R116, R152, R91: a register whose fields are simply RW reads what they took. -/
theorem cregVal_cregWrite_same (h : Hart) {n : Nat} {v : Dword} {x : Nat} (field : writtenField n v = some x) :
    cregVal (cregWrite h n v) n = BitVec.ofNat 64 x := by
  have whole : v = BitVec.ofNat 64 v.toNat := by simp
  unfold writtenField at field
  split at field <;> cases field
  · rfl
  · rfl
  · exact whole
  · exact whole
  · exact whole
  · exact zeroExtend_bundleAddress v
  · exact zeroExtend_truncate v 6
  · exact zeroExtend_truncate v 8
  · exact zeroExtend_truncate v 48
  · exact zeroExtend_truncate v 48

/-- R116: and it reaches no other register. -/
theorem cregVal_cregWrite_other (h : Hart) {n m : Nat} {v : Dword} {x : Nat} (field : writtenField n v = some x)
    (other : m ≠ n) : cregVal (cregWrite h n v) m = cregVal h m := by
  refine Or.resolve_left ?_ other
  unfold writtenField at field
  split at field <;> cases field
  all_goals
    unfold cregVal
    split
  all_goals simp [cregWrite]

/-! ### `fcsr` (R91) -/

theorem rm_of_masked (v : Dword) : ((v &&& fcsrMask).extractLsb' 0 3).toNat = v.toNat % 8 := by
  rw [BitVec.extractLsb'_toNat, BitVec.toNat_and, Nat.shiftRight_zero, Nat.and_mod_two_pow]
  exact (Nat.and_two_pow_sub_one_eq_mod _ 3).trans (Nat.mod_mod _ _)

theorem fcsrWrite_mode {v : Dword} (known : v.toNat % 8 < 5) (old : Dword) : fcsrWrite old v = v &&& 0x3F3F0F :=
  if_neg (by rw [rm_of_masked]; omega)

/-- A reserved rounding mode is not taken. -/
theorem fcsrWrite_reserved {v : Dword} (reserved : 5 ≤ v.toNat % 8) (old : Dword) :
    fcsrWrite old v = (v &&& 0x3F3F08) ||| (old &&& 7) := by
  refine (if_pos (by rw [rm_of_masked]; exact reserved)).trans ?_
  rw [BitVec.and_assoc]
  rfl

/-! ### The length registers (R150-R152) -/

/-- R152: a new `vtype` of a known type is granted the rows and columns there were. -/
theorem setVtype_known {v : Dword} (known : typeCodeKnown (v.extractLsb' 0 5) = true) (w : Nat) (l : LenRegs) :
    setVtype w l v.toNat =
      Rules.granted { l with vtype := v.extractLsb' 0 7 } (largestLength w (v.extractLsb' 0 7)) l.rowc l.colc :=
  (if_pos known).trans (grant_eq_granted ..)

theorem setVtype_reserved {v : Dword} (reserved : typeCodeKnown (v.extractLsb' 0 5) = false) (w : Nat) (l : LenRegs) :
    setVtype w l v.toNat = l :=
  if_neg (Bool.eq_false_iff.1 reserved)

/-! ### Which registers may be named (R111, R112) -/

theorem cregKnown_iff (n : BitVec 12) : cregKnown n = true ↔ n.toNat ∈ controlRegisters := List.contains_iff_mem

theorem cregWritable_not {n : BitVec 12} (reserved : n.toNat ∈ readOnlyRegisters ∨ n.toNat ∉ controlRegisters) :
    cregWritable n = false := by
  have writable : ∀ k ∈ [0x000, 0x001, 0x002, 0x003, 0x004, 0x005, 0x008, 0x029, 0x030, 0x031, 0x033, 0x034, 0x035,
      0x036, 0x040], k ∉ readOnlyRegisters ∧ k ∈ controlRegisters := by decide
  refine Bool.eq_false_iff.2 fun h => ?_
  obtain ⟨written, known⟩ := writable _ (List.contains_iff_mem.1 h)
  exact reserved.elim written (absurd known)

/-! ### A move (R112, R115, R137) -/

theorem cregResync_iff (n : BitVec 12) : cregResync n = true ↔ n.toNat ∈ resyncRegisters := by
  simp [cregResync, resyncRegisters, ← BitVec.toNat_inj, or_assoc]

/-- R46: an instruction that takes no resource joins the convoy, unless it configures within one. -/
theorem convoy_add_scalar {s : State} {i : Instr} (scalar : i.res = 0) (may : i.configures = true → MayConfigure s) :
    ∃ c, s.hart.convoy.add s.hart.x.joins i = some c := by
  have free : (i.configures && s.hart.x.joins && s.hart.convoy.count != 0) = false := by
    cases configures : i.configures
    · rfl
    · obtain first | first := may configures <;> simp [first]
  exact ⟨_, (if_pos scalar).trans (if_neg (Bool.eq_false_iff.1 free))⟩

/-- The state in which a move that joined the convoy `c` acts: a resynchronising one has been counted. -/
def moveStart (n : BitVec 12) (c : Convoy) (s : State) : State :=
  let s0 := updH s fun h => { h with convoy := c }
  if cregResync n then updH (countEv s0 s0.hart.core (some s0.hart.hid) 0x0A 1) fun h => { h with vsync := h.vsync + 1 }
  else s0

theorem moveStart_eq (n : BitVec 12) (c : Convoy) (s : State) :
    ∃ p, moveStart n c s = { withHart (counted n.toNat s) fun h => { h with convoy := c } with pmc := p } := by
  unfold moveStart counted
  by_cases resync : n.toNat ∈ resyncRegisters
  · rw [if_pos resync, if_pos ((cregResync_iff n).2 resync)]
    dsimp only
    rw [countEv_eq]
    exact ⟨_, rfl⟩
  · rw [if_neg resync, if_neg (mt (cregResync_iff n).1 resync)]
    exact ⟨s.pmc, rfl⟩

/-- The hart with what a move writes to a register, if it writes it: a value made from the old one. -/
def cregMoved (h : Hart) (n : Nat) (new : Option (Dword → Dword)) : Hart :=
  new.elim h fun f => cregWrite h n (f (cregVal h n))

theorem cregMoved_convoy (h : Hart) (c : Convoy) (n : Nat) (new : Option (Dword → Dword)) :
    cregMoved { h with convoy := c } n new = { cregMoved h n new with convoy := c } := by
  cases new with
  | none => rfl
  | some f =>
    show cregWrite { h with convoy := c } n (f (cregVal h n)) = { cregWrite h n (f (cregVal h n)) with convoy := c }
    unfold cregWrite
    split <;> rfl

theorem updH_cregMoved (s : State) (n : Nat) (f : Dword → Dword) : updH s (fun h => cregMoved h n (some f)) =
    updH s fun h => cregWrite h n (f (cregVal s.hart n)) := by
  simp only [updH, cregMoved, Option.elim]

theorem withHart_cregMoved (s : State) (n : Nat) (f : Dword → Dword) : withHart s (fun h => cregMoved h n (some f)) =
    withHart s fun h => cregWrite h n (f (cregVal s.hart n)) := updH_cregMoved s n f

theorem updH_moved (u : State) (c : Convoy) (p : SMap Pmc) (n : Nat) (new : Option (Dword → Dword)) :
    updH { withHart u fun h => { h with convoy := c } with pmc := p } (fun h => cregMoved h n new) =
      { withHart u fun h => { cregMoved h n new with convoy := c } with pmc := p } :=
  congrArg (fun h => { u with hart := h, pmc := p }) (cregMoved_convoy u.hart c n new)

section
variable {i : Instr} {s : State} {n : BitVec 12} {sd : BitVec 5} {new : Option (Dword → Dword)}
  (retired : n.toNat ∈ resyncRegisters → Retired s)
include retired

theorem cregMove_runs {c : Convoy} (joined : s.hart.convoy.add s.hart.x.joins i = some c) :
    cregMove i sd n new s = .ok (wrS (updH (moveStart n c s) fun h => cregMoved h n.toNat new) sd
      (cregVal (moveStart n c s).hart n.toNat)) := by
  have goesOn : ¬ (cregResync n && !drained s) = true := fun waits => by
    obtain ⟨resync, busy⟩ := Bool.and_eq_true_iff.1 waits
    rw [drained_of_retired (retired ((cregResync_iff n).1 resync))] at busy
    cases busy
  unfold cregMove withConvoy
  rw [joined]
  refine (if_neg goesOn).trans ?_
  cases new with
  | none => rfl
  | some f => rw [updH_cregMoved]; rfl

/-- How a move of a control register ends: the register's old value goes to `sd`, and the new one to the register. -/
theorem does_of_cregMove (move : exec i s = finish (cregMove i sd n new s)) (scalar : i.res = 0)
    (may : i.configures = true → MayConfigure s) :
    Does i s (wrS (withHart (counted n.toNat s) fun h => cregMoved h n.toNat new) sd
      (cregVal (counted n.toNat s).hart n.toNat)) := by
  obtain ⟨c, joined⟩ := convoy_add_scalar scalar may
  obtain ⟨p, start⟩ := moveStart_eq n c s
  refine does_of_idle (move.trans (congrArg finish (cregMove_runs retired joined))) ?_ ?_
  · rw [idle_wrS, idle_wrS, start, updH_moved]
    rfl
  · rw [pcAfter_wrS, pcAfter_wrS, start, updH_moved]
    exact pcAfter_same rfl rfl

theorem does_of_cregWrite {f : Dword → Dword} (move : exec i s = finish (cregMove i sd n (some f) s))
    (scalar : i.res = 0) (may : i.configures = true → MayConfigure s) : Does i s (wrS
      (withHart (counted n.toNat s) fun h => cregWrite h n.toNat (f (cregVal (counted n.toNat s).hart n.toNat))) sd
      (cregVal (counted n.toNat s).hart n.toNat)) := by
  have done := does_of_cregMove retired move scalar may
  rwa [withHart_cregMoved] at done
end

theorem controlRegisterMoves : ControlRegisterMoves := by
  intro sd sa n s _ retired u old
  refine ⟨?read, fun _ may => ⟨?written, ?set, ?cleared⟩⟩
  case read => exact does_of_cregMove (new := none) retired rfl rfl nofun
  case written =>
    exact does_of_cregWrite (f := fun _ => rdS s sa) retired rfl rfl fun h => may (of_decide_eq_true h)
  case set =>
    exact does_of_cregWrite (f := fun old => old ||| rdS s sa) retired rfl rfl fun h => may (of_decide_eq_true h)
  case cleared =>
    exact does_of_cregWrite (f := fun old => old &&& ~~~rdS s sa) retired rfl rfl fun h => may (of_decide_eq_true h)

theorem controlRegisterWrites : ControlRegisterWrites := by
  intro h v
  refine ⟨fun n x field => ⟨cregVal_cregWrite_same h field, fun m _ => cregVal_cregWrite_other h field⟩,
    fun _ => ⟨fun _ => ⟨?vl, ?rowc, ?colc⟩, fun known => ?vtype, fun reserved => ?kept⟩,
    fun sd sa n reserved => ?names, fun known => fcsrWrite_mode known h.fcsr,
    fun reserved => fcsrWrite_reserved reserved h.fcsr⟩
  case vl => exact lengthsWritten_of_eq (congrArg (fun l => { h with len := l }) (grant_eq_granted ..))
  case rowc => exact lengthsWritten_of_eq (congrArg (fun l => { h with len := l }) (grant_eq_granted ..))
  case colc => exact lengthsWritten_of_eq (congrArg (fun l => { h with len := l }) (grant_eq_granted ..))
  case vtype => exact lengthsWritten_of_eq (congrArg (fun l => { h with len := l }) (setVtype_known known ..))
  case kept => exact lengthsWritten_of_eq (congrArg (fun l => { h with len := l }) (setVtype_reserved reserved ..))
  case names =>
    have no := cregWritable_not reserved
    exact ⟨no, no, no, fun unknown => Bool.eq_false_iff.2 (mt (cregKnown_iff n).1 unknown)⟩

/-- Settles O7: the moves by how a move ends, the writes register by register. -/
theorem controlRegistersMoveAndReadBack : Obligations.ControlRegistersMoveAndReadBack :=
  ⟨controlRegisterMoves, controlRegisterWrites⟩

end Sys2Proof.Proofs
end

section
/-! SUPPORT. Vector instructions that answer in a scalar register: how they end, and what the reductions fold
(R102, R103, R182, R212, R213). -/

namespace Sys2Proof.Proofs

open Sys2Proof.Machine Sys2Proof.Safety Sys2Proof.Rules Sys2Proof.Laws

/-! ### Retirement and counting -/

/-- What retirement with flags makes of a hart (R92, R94). -/
def retiredHart (h : Hart) (f : Flags) : Hart :=
  let h1 := { h with fcsr := fcsrMerge h.fcsr f }
  if fpTraps h1.fcsr f then
    { h1 with pend := h1.pend ++ [⟨none, ⟨0x20, ((fcsrEnables h1.fcsr &&& f).zeroExtend 64) <<< 8⟩, h1.units⟩] }
  else h1

theorem retire_eq (s : State) (f : Flags) : retire s f = { s with hart := retiredHart s.hart f } := by
  unfold retire retiredHart
  dsimp only [mergeFlags, updH]
  split <;> rfl

theorem retiredHart_convoy (h : Hart) (c : Convoy) (f : Flags) :
    retiredHart { h with convoy := c } f = { retiredHart h f with convoy := c } := by
  unfold retiredHart
  dsimp only
  split <;> rfl

/-- Events counted one after the other change the performance counters alone. -/
theorem foldl_countEv_pmc {α : Type} (count : State → α → State) (one : ∀ s a, ∃ p, count s a = { s with pmc := p })
    (l : List α) (s : State) : ∃ p, l.foldl count s = { s with pmc := p } := by
  induction l generalizing s with
  | nil => exact ⟨s.pmc, rfl⟩
  | cons a l ih =>
    obtain ⟨p, first⟩ := one s a
    obtain ⟨q, rest⟩ := ih (count s a)
    exact ⟨q, by rw [List.foldl_cons, rest, first]⟩

theorem countGroups_pmc (h : Hart) (e : QEntry) (stop : Nat) (s : State) :
    ∃ p, countGroups h e stop s = { s with pmc := p } := by
  unfold countGroups
  split
  · exact ⟨s.pmc, rfl⟩
  · obtain ⟨p, pipes⟩ := foldl_countEv_pmc (fun s (p : BitVec 7 × Nat) => countEv s h.core (some h.hid) p.2 _)
      (fun s a => ⟨_, countEv_eq s _ _ _ _⟩) _ s
    dsimp only
    rw [pipes, countEv_eq]
    exact ⟨_, rfl⟩

theorem countSteps_pmc (h : Hart) (e : QEntry) (s : State) : ∃ p, countSteps h e s = { s with pmc := p } := by
  unfold countSteps
  split
  · exact ⟨s.pmc, rfl⟩
  · exact ⟨_, countEv_eq ..⟩

/-- A run that is done, and leaves the rest of its queue, retires with its flags; the counters aside. -/
theorem settleRun_done {u : State} {q : List QEntry} (left : u.hart.queue = q) (h : Hart) (e : QEntry) (f f0 : Flags) :
    ∃ p, settleRun h e (.done u f) f0 q = { u with pmc := p, hart := retiredHart u.hart (f0 ||| f) } := by
  obtain ⟨p1, groups⟩ := countGroups_pmc h e e.len.vl u
  obtain ⟨p2, steps⟩ := countSteps_pmc h e (countGroups h e e.len.vl u)
  exact ⟨p2, by rw [settleRun, retire_eq, steps, groups, ← left]; rfl⟩

/-! ### Answers (R115, R153) -/

/-- An instruction that resynchronises and takes one of the arithmetic resources (R44, R115). -/
def Answers (i : Instr) : Prop := i.resync = true ∧ i.res ∈ [resVA, resVB, resSL]

/-- What such an instruction leaves of a state before it answers: its view registers are cleared and it is counted. -/
def answerBase (s : State) : State := withHart (viewCleared s) fun h => { h with vsync := h.vsync + 1 }

/-- The state it answers in: it has joined a convoy, and the performance counters may have counted it. -/
def answering (s : State) (c : Convoy) (p : SMap Pmc) : State :=
  { withHart (answerBase s) fun h => { h with convoy := c } with pmc := p }

theorem wrS_queue (s : State) (sd : BitVec 5) (v : Dword) : (wrS s sd v).hart.queue = s.hart.queue := by
  unfold wrS
  split <;> rfl

theorem wrS_answering (s : State) (c : Convoy) (p : SMap Pmc) (sd : BitVec 5) (v : Dword) :
    wrS (answering s c p) sd v =
      { withHart (wrS (answerBase s) sd v) fun h => { h with convoy := c } with pmc := p } := by
  unfold wrS
  split <;> rfl

section
variable {i : Instr} {s : State} (answers : Answers i)
include answers

theorem queueOf_answers : i.queueOf = some 0 :=
  (by decide : ∀ r ∈ [resVA, resVB, resSL], queueOfRes r = some 0) i.res answers.2

theorem atRun_answers (c : Convoy) : ∃ p, atRun i c s = answering s c p := by
  unfold atRun
  rw [countResync, if_pos answers.1, queueOf_answers answers, countEv_eq]
  exact ⟨_, rfl⟩

theorem res_ne_zero : i.res ≠ 0 := (by decide : ∀ r ∈ [resVA, resVB, resSL], r ≠ 0) i.res answers.2

theorem convoy_of_issues (issues : Issues i s) : ∃ c, s.hart.convoy.add s.hart.x.joins i = some c := by
  obtain ⟨-, used, room, notResync, noMode, alone⟩ := issues
  exact convoy_add_some (res_ne_zero answers) used room notResync noMode alone

/-- R92, R115, R153: an instruction that answers `v` with the flags `f`, whatever its convoy and the counters are, ends
with that answer. -/
theorem does_of_answer {op : VOp} {sd : BitVec 5} {x v : Dword} {f : Flags} (issues : Issues i s)
    (meaning : exec i s = vexec i op 0 x s) (accepted : op.check s.hart.width s.hart.mview (lenNow s) = none)
    (run : ∀ c p, op.run (answering s c p) { capture s i 0 x with live := true } =
      .done (wrS (answering s c p) sd v) f) :
    Does i s (answered s sd v f) := by
  obtain ⟨c, joined⟩ := convoy_of_issues answers issues
  obtain ⟨⟨empty, none⟩, -⟩ := issues
  obtain ⟨p, start⟩ := atRun_answers (s := s) answers c
  have left : (wrS (answering s c p) sd v).hart.queue = [] := (wrS_queue ..).trans empty
  obtain ⟨q, settled⟩ := settleRun_done left (answering s c p).hart (capture s i 0 x) f 0
  rw [show (0 : Flags) ||| f = f from BitVec.zero_or] at settled
  have ran : exec i s = finish (.ok { wrS (answerBase s) sd v with
      pmc := q, hart := { retiredHart (wrS (answerBase s) sd v).hart f with convoy := c } }) := by
    rw [meaning, vexec_runs empty none accepted joined, start]
    refine congrArg (fun t => finish (.ok t)) ((if_pos (drained_eq empty none)).trans ?_)
    rw [run, settled, wrS_answering, ← retiredHart_convoy]
    rfl
  rw [answered, retire_eq]
  exact does_of_idle ran rfl (pcAfter_same rfl rfl)
end

/-! ### Reductions (R102, R103, R212, R213) -/

/-- R63: a group that lies in the file, and in matrix mode outside the tile, passes the checks. -/
theorem vcheck_fits {s : State} {va : BitVec 6} (fits : Rules.Fits s va (groupNow s)) {accepts : Bool}
    (ok : accepts = true) : vcheck s.hart.mview [grpReg (lenNow s) va] accepts = none := by
  obtain ⟨size, aligned, file, tile⟩ := fits
  have inFile : (grpReg (lenNow s) va).aligned = true := by
    simp only [VRegs.aligned, Bool.and_eq_true, decide_eq_true_eq, beq_iff_eq]
    exact ⟨⟨size, aligned⟩, file⟩
  have outside : (s.hart.mview && (grpReg (lenNow s) va).inTile) = false := by
    cases view : s.hart.mview
    · rfl
    · exact decide_eq_false (Nat.not_lt.2 (tile view))
  simp only [vcheck, List.any_cons, List.any_nil, Bool.or_false, outside, ok, inFile, Bool.not_true, Bool.false_eq_true,
    if_false]

/-- A reduction reads the elements that the mask operand selects, whatever its convoy and the counters are. -/
theorem leaves_answering {s : State} {l : LenRegs} (vl : l.vl = (lenNow s).vl) (type : l.type = typeNow s)
    (va : BitVec 6) (k : BitVec 3) (c : Convoy) (p : SMap Pmc) :
    (List.range l.vl).map (fun i => if sel (answering s c p).hart k i
      then some (getElem (answering s c p).hart va.toNat l.width i) else none) = leaves s va k := by
  rw [vl, LenRegs.width, type]
  rfl

theorem viewOf_vl (i : Instr) (l : LenRegs) : (viewOf i l).vl = l.vl := by
  unfold viewOf
  split <;> rfl

theorem viewOf_vtype (i : Instr) (l : LenRegs) : (viewOf i l).vtype = l.vtype := by
  unfold viewOf
  split <;> rfl

/-- R212: a reduction of a group that fits answers what its function makes of the initial value and the leaves. -/
theorem reduction_answers {i : Instr} {s : State} {acc : Nat → Bool} {sd : BitVec 5} {va : BitVec 6} {sb : BitVec 5}
    {k : BitVec 3} {f : QEntry → Nat → List (Option Nat) → Dword × Flags} {v : Dword} {fl : Flags} (answers : Answers i)
    (meaning : exec i s = vexec i (redOp acc sd va k f) 0 (rdS s sb) s) (issues : Issues i s)
    (fits : Rules.Fits s va (groupNow s)) (accepts : acc (typeNow s) = true)
    (value : ∀ e : QEntry, e.len.type = typeNow s → e.mode = modeNow s →
      f e (rdS s sb).toNat (leaves s va k) = (v, fl)) :
    Does i s (answered s sd v fl) := by
  refine does_of_answer answers issues meaning (vcheck_fits fits accepts) fun c p => ?_
  have type : (viewOf i (lenNow s)).type = typeNow s :=
    congrArg (fun v => BitVec.toNat v % 32) (viewOf_vtype i (lenNow s))
  have result := value { capture s i 0 (rdS s sb) with live := true } type rfl
  rw [← leaves_answering (viewOf_vl i (lenNow s)) type va k c p] at result
  exact congrArg (fun r : Dword × Flags => VRes.done (wrS (answering s c p) sd r.1) r.2) result

/-! ### What the reductions fold -/

theorem sx_mod (b x : Nat) : sx b (x % 2 ^ b) = sx b x := by
  unfold sx
  rw [Nat.mod_mod]

theorem extended_eq_readAs (t w x : Nat) :
    (if isSigned t then sx w x else ((x % 2 ^ w : Nat) : Int)) = readAs t w (x % 2 ^ w) := by
  simp only [isSigned, decide_eq_true_eq, readAs, sx_mod]

theorem wrapN_lt (b : Nat) (x : Int) : wrapN b x < 2 ^ b := by
  have low := Int.emod_nonneg x (b := ((2 ^ b : Nat) : Int)) (by positivity)
  have high := Int.emod_lt_of_pos x (b := ((2 ^ b : Nat) : Int)) (by positivity)
  unfold wrapN
  omega

/-- R103: an integer reduction of elements of `b` bits folds their values by the type, wrapping in `n` bits. -/
theorem intRed_eq_foldedValue (t n init : Nat) {b : Nat} {l : List (Option Nat)}
    (small : ∀ x ∈ l.filterMap id, x < 2 ^ b) (f : Int → Int → Int) :
    intRed t b n init l f = (foldedValue t b n init l f, 0) := by
  have fold : (l.filterMap id).foldl (fun x y => f x (readAs t b (y % 2 ^ b))) (readAs t n (init % 2 ^ n)) =
      (l.filterMap id).foldl (fun x y => f x (readAs t b y)) (readAs t n (init % 2 ^ n)) :=
    List.foldl_ext _ _ _ fun x y hy => by rw [Nat.mod_eq_of_lt (small y hy)]
  simp only [intRed, foldedValue, extended_eq_readAs, fold]
  rw [Nat.mod_eq_of_lt (wrapN_lt n _)]
  rfl

theorem elem_lt (s : State) (v : BitVec 6) (b i : Nat) : elem s v b i < 2 ^ b := BitVec.isLt _

theorem leaves_lt (s : State) (va : BitVec 6) (k : BitVec 3) :
    ∀ x ∈ (leaves s va k).filterMap id, x < 2 ^ widthNow s := by
  intro x hx
  obtain ⟨o, leaf, rfl⟩ := List.mem_filterMap.1 hx
  obtain ⟨i, -, value⟩ := List.mem_map.1 leaf
  split at value
  · cases value
    exact elem_lt ..
  · cases value

/-- R103: the integer types narrower than 64 bits are those that a widening sum accepts. -/
theorem widens_of_narrow {t : Nat} (int : t < 8) (narrow : typeWidth t ≠ 64) : (isInt t && t % 4 != 3) = true :=
  (by decide : ∀ t < 8, typeWidth t ≠ 64 → (isInt t && t % 4 != 3) = true) t int narrow

/-- R182: an element as a scalar register takes it. -/
theorem elemValue_eq_readAs (t b x : Nat) : elemValue t b x = BitVec.ofInt 64 (readAs t b x) := by
  simp only [elemValue, isSigned, decide_eq_true_eq, readAs]
  split
  · rfl
  · exact (BitVec.ofInt_natCast 64 x).symm

theorem integerReduction_meaning {r : (BitVec 5 → BitVec 6 → BitVec 5 → BitVec 3 → Instr) × (Int → Int → Int)}
    (row : r ∈ integerReductions) (sd : BitVec 5) (va : BitVec 6) (sb : BitVec 5) (k : BitVec 3) (s : State) :
    Answers (r.1 sd va sb k) ∧
      exec (r.1 sd va sb k) s = vexec (r.1 sd va sb k) (intRedOp sd va k r.2) 0 (rdS s sb) s := by
  simp only [integerReductions, List.mem_cons, List.not_mem_nil, or_false] at row
  obtain rfl | rfl | rfl := row
  all_goals exact ⟨⟨rfl, .tail _ (.head _)⟩, rfl⟩

theorem floatReduction_meaning
    {r : (BitVec 5 → BitVec 6 → BitVec 5 → BitVec 3 → Instr) × (FFmt → RM → Nat → Nat → FRes)}
    (row : r ∈ floatReductions) (sd : BitVec 5) (va : BitVec 6) (sb : BitVec 5) (k : BitVec 3) (s : State) :
    Answers (r.1 sd va sb k) ∧
      exec (r.1 sd va sb k) s = vexec (r.1 sd va sb k) (fpRedOp sd va k r.2) 0 (rdS s sb) s := by
  simp only [floatReductions, List.mem_cons, List.not_mem_nil, or_false] at row
  obtain rfl | rfl | rfl := row
  all_goals exact ⟨⟨rfl, .head _⟩, rfl⟩

/-- Settles O16: each reduction folds or combines its leaves, and answers as every resynchronising instruction does. -/
theorem reductionsAnswerInAScalarRegister : Obligations.ReductionsAnswerInAScalarRegister := by
  intro sd va sb k s t b l x fits
  refine ⟨fun int => ⟨fun r row issues => ?integer, fun narrow issues => ?wide⟩, fun low high r row issues => ?float,
    fun low high issues => ?complex, fun issues => ?move⟩
  case integer =>
    obtain ⟨answers, meaning⟩ := integerReduction_meaning row sd va sb k s
    refine reduction_answers answers meaning issues fits (decide_eq_true int) fun e type _ => ?_
    rw [LenRegs.width, type]
    exact intRed_eq_foldedValue _ _ _ (leaves_lt s va k) _
  case wide =>
    refine reduction_answers (acc := fun t => isInt t && t % 4 != 3) ⟨rfl, .tail _ (.head _)⟩ rfl issues fits
      (widens_of_narrow int narrow) fun e type _ => ?_
    rw [LenRegs.width, type]
    exact intRed_eq_foldedValue _ _ _ (leaves_lt s va k) _
  case float =>
    obtain ⟨answers, meaning⟩ := floatReduction_meaning row sd va sb k s
    have float : isFloat (typeNow s) = true := by
      simp only [isFloat, Bool.and_eq_true, decide_eq_true_eq]
      exact ⟨low, high⟩
    refine reduction_answers answers meaning issues fits float fun e type mode => ?_
    rw [LenRegs.width, type, mode]
    rfl
  case complex =>
    have complex : isComplex (typeNow s) = true := by
      simp only [isComplex, Bool.and_eq_true, decide_eq_true_eq]
      exact ⟨low, high⟩
    refine reduction_answers (acc := isComplex) ⟨rfl, .head _⟩ rfl issues fits complex fun e type mode => ?_
    rw [LenRegs.width, type, mode]
    rfl
  case move =>
    refine does_of_answer (op := opVmvs sd va sb) ⟨rfl, .tail _ (.tail _ (.head _))⟩ issues rfl (vcheck_fits fits rfl)
      fun c p => ?_
    rw [← elemValue_eq_readAs]
    rfl

end Sys2Proof.Proofs
end

section
/-! SUPPORT. The integer instructions: that what each one computes is what its rule says (R78, R79, R123-R127, R429). -/

namespace Sys2Proof.Proofs

open Sys2Proof.Machine Sys2Proof.Safety Sys2Proof.Rules Sys2Proof.Laws

/-! ### Register-register instructions (R78, R79, R123) -/

section
variable (a b : Dword)

theorem add_eq_ofNat : a + b = BitVec.ofNat 64 (a.toNat + b.toNat) := by
  rw [BitVec.ofNat_add, BitVec.ofNat_toNat, BitVec.ofNat_toNat, BitVec.setWidth_eq, BitVec.setWidth_eq]

theorem sub_eq_ofInt : a - b = BitVec.ofInt 64 (a.toNat - b.toNat) := by
  refine BitVec.eq_of_toNat_eq ?_
  rw [BitVec.toNat_sub, BitVec.toNat_ofInt]
  omega

theorem mul_eq_ofNat : a * b = BitVec.ofNat 64 (a.toNat * b.toNat) := by
  rw [BitVec.ofNat_mul, BitVec.ofNat_toNat, BitVec.ofNat_toNat, BitVec.setWidth_eq, BitVec.setWidth_eq]

theorem shiftLeft_eq_ofNat (n : Nat) : a <<< n = BitVec.ofNat 64 (a.toNat * 2 ^ n) :=
  BitVec.eq_of_toNat_eq (by rw [BitVec.toNat_shiftLeft, BitVec.toNat_ofNat, Nat.shiftLeft_eq])

theorem ushiftRight_eq_ofNat (n : Nat) : a >>> n = BitVec.ofNat 64 (a.toNat / 2 ^ n) := by
  rw [← Nat.shiftRight_eq_div_pow, ← BitVec.toNat_ushiftRight, BitVec.ofNat_toNat, BitVec.setWidth_eq]

theorem sshiftRight_eq_ofInt (n : Nat) : a.sshiftRight n = BitVec.ofInt 64 (a.toInt / 2 ^ n) := by
  rw [← BitVec.ofInt_toInt (x := a.sshiftRight n), BitVec.toInt_sshiftRight, Int.shiftRight_eq_div_pow]
  rfl

theorem flag01_eq_truth {c : Bool} {p : Prop} [Decidable p] (h : c = true ↔ p) : flag01 c = truth p :=
  if_congr h rfl rfl

theorem slt_iff : a.slt b = true ↔ a.toInt < b.toInt := decide_eq_true_iff

theorem ult_iff : a.ult b = true ↔ a.toNat < b.toNat := decide_eq_true_iff

/-- Where two operands are equal by their values, it is the same which of them is picked. -/
theorem pick_slt : pick (a.slt b) a b = if a.toInt ≤ b.toInt then a else b := by
  unfold pick
  by_cases h : a.toInt = b.toInt
  · rw [BitVec.eq_of_toInt_eq h, ite_self, ite_self]
  · exact if_congr ((slt_iff a b).trans (by omega)) rfl rfl

theorem pick_ult : pick (a.ult b) a b = if a.toNat ≤ b.toNat then a else b := by
  unfold pick
  by_cases h : a.toNat = b.toNat
  · rw [BitVec.eq_of_toNat_eq h, ite_self, ite_self]
  · exact if_congr ((ult_iff a b).trans (by omega)) rfl rfl

theorem pick_slt_max : pick (b.slt a) a b = if a.toInt ≤ b.toInt then b else a := by
  unfold pick
  rw [← ite_not]
  exact if_congr (by rw [slt_iff]; omega) rfl rfl

theorem pick_ult_max : pick (b.ult a) a b = if a.toNat ≤ b.toNat then b else a := by
  unfold pick
  rw [← ite_not]
  exact if_congr (by rw [ult_iff]; omega) rfl rfl

theorem highHalf_nat : highHalf (a.toNat * b.toNat) = BitVec.ofNat 64 (a.toNat * b.toNat / 2 ^ 64) := by
  rw [highHalf, ← BitVec.ofInt_natCast]
  norm_cast

theorem allOnes_eq_ofInt : BitVec.allOnes 64 = BitVec.ofInt 64 (-1) := by decide

theorem divS_eq : divS 64 a b = if b = 0 then BitVec.ofInt 64 (-1) else BitVec.ofInt 64 (a.toInt.tdiv b.toInt) := by
  rw [divS, allOnes_eq_ofInt]

theorem divU_eq : divU 64 a b = if b = 0 then BitVec.ofInt 64 (-1) else BitVec.ofNat 64 (a.toNat / b.toNat) := by
  rw [divU, allOnes_eq_ofInt, ← BitVec.toNat_udiv, BitVec.ofNat_toNat, BitVec.setWidth_eq]

theorem remU_eq : remU 64 a b = if b = 0 then a else BitVec.ofNat 64 (a.toNat % b.toNat) := by
  rw [remU, ← BitVec.toNat_umod, BitVec.ofNat_toNat, BitVec.setWidth_eq]

end

/-- R123: the instruction of each row of the table has the value of the table as its result. -/
theorem exec_arithmetic {r : (BitVec 5 → BitVec 5 → BitVec 5 → Instr) × (Dword → Dword → Dword)} (row : r ∈ arithmetic)
    (sd sa sb : BitVec 5) (s : State) : exec (r.1 sd sa sb) s = result s sd (r.2 (rdS s sa) (rdS s sb)) := by
  simp only [arithmetic, List.mem_cons, List.not_mem_nil, or_false] at row
  rcases row with rfl | rfl | rfl | rfl | rfl | rfl | rfl | rfl | rfl | rfl | rfl | rfl | rfl | rfl | rfl | rfl | rfl |
    rfl | rfl | rfl | rfl
  · exact congrArg (result s sd) (add_eq_ofNat _ _)
  · exact congrArg (result s sd) (sub_eq_ofInt _ _)
  · rfl
  · rfl
  · rfl
  · exact congrArg (result s sd) (shiftLeft_eq_ofNat _ _)
  · exact congrArg (result s sd) (ushiftRight_eq_ofNat _ _)
  · exact congrArg (result s sd) (sshiftRight_eq_ofInt _ _)
  · exact congrArg (result s sd) (pick_slt _ _)
  · exact congrArg (result s sd) (pick_slt_max _ _)
  · exact congrArg (result s sd) (pick_ult _ _)
  · exact congrArg (result s sd) (pick_ult_max _ _)
  · exact congrArg (result s sd) (flag01_eq_truth (slt_iff _ _))
  · exact congrArg (result s sd) (flag01_eq_truth (ult_iff _ _))
  · exact congrArg (result s sd) (mul_eq_ofNat _ _)
  · rfl
  · exact congrArg (result s sd) (highHalf_nat _ _)
  · exact congrArg (result s sd) (divS_eq _ _)
  · exact congrArg (result s sd) (divU_eq _ _)
  · rfl
  · exact congrArg (result s sd) (remU_eq _ _)

/-- Settles O1: the meaning of each row is a register result, of the value the table gives. -/
theorem arithmeticWritesItsResult : Obligations.ArithmeticWritesItsResult := fun _ row sd sa sb s =>
  writes_of_result (exec_arithmetic row sd sa sb s)

end Sys2Proof.Proofs
end

section
/-! SUPPORT. Bit counts, extensions, immediates, addresses of sites and the time (R123-R127, R429). -/

namespace Sys2Proof.Proofs

open Sys2Proof.Machine Sys2Proof.Safety Sys2Proof.Rules Sys2Proof.Laws

/-! ### Bit counts and the byte swap (R123) -/

theorem toNat_append_eq {n m : Nat} (a : BitVec n) (b : BitVec m) : (a ++ b).toNat = a.toNat * 2 ^ m + b.toNat := by
  rw [BitVec.toNat_append, ← Nat.shiftLeft_add_eq_or_of_lt b.isLt, Nat.shiftLeft_eq]

/-- The first index below `n + 1` with a property is 0, or that of the shifted property and one more. -/
theorem find?_range_succ (p : Nat → Bool) (n : Nat) : ((List.range (n + 1)).find? p).getD (n + 1) =
    if p 0 then 0 else 1 + ((List.range n).find? fun i => p (i + 1)).getD n := by
  rw [List.range_succ_eq_map, List.find?_cons, List.find?_map]
  cases p 0
  · exact (Option.getD_map Nat.succ n _).trans (Nat.add_comm _ 1)
  · rfl

theorem leadZeros_eq_find? (x : Dword) (n : Nat) :
    leadZeros x n = ((List.range n).find? fun i => x.getLsbD (n - 1 - i)).getD n := by
  induction n with
  | zero => rfl
  | succ n ih =>
    rw [find?_range_succ, leadZeros, ih]
    simp only [Nat.add_sub_cancel, Nat.sub_zero, Nat.sub_sub, Nat.add_comm 1]

theorem trailZeros_eq_find? (x : Dword) (n i : Nat) :
    trailZeros x n i = ((List.range n).find? fun k => x.getLsbD (i + k)).getD n := by
  induction n generalizing i with
  | zero => rfl
  | succ n ih =>
    rw [find?_range_succ, trailZeros, ih]
    simp only [Nat.add_zero, Nat.add_assoc, Nat.add_comm 1]

theorem ones_eq_countP (x : Dword) (n : Nat) : ones x n = (List.range n).countP fun i => x.getLsbD i := by
  induction n with
  | zero => rfl
  | succ n ih =>
    rw [List.range_succ, List.countP_append, ones, ih, Nat.add_comm]
    cases h : x.getLsbD n <;> simp [h, b2n]

/-- A byte of a word. -/
theorem ofNat_div_eq_extractLsb' (a : Dword) (i : Nat) :
    BitVec.ofNat 8 (a.toNat / 256 ^ i) = a.extractLsb' (8 * i) 8 := by
  refine BitVec.eq_of_toNat_eq ?_
  rw [BitVec.toNat_ofNat, BitVec.extractLsb'_toNat, Nat.shiftRight_eq_div_pow, pow_mul]
  rfl

theorem natOfBytes_eight (a b c d e f g h : Byte) :
    BitVec.ofNat 64 (natOfBytes [h, g, f, e, d, c, b, a]) = a ++ b ++ c ++ d ++ e ++ f ++ g ++ h := by
  have value : natOfBytes [h, g, f, e, d, c, b, a] = (a ++ b ++ c ++ d ++ e ++ f ++ g ++ h).toNat := by
    simp only [natOfBytes, List.foldr_cons, List.foldr_nil, toNat_append_eq]
    ring
  rw [value, BitVec.ofNat_toNat]
  exact BitVec.setWidth_eq _

theorem swapBytes_eq (a : Dword) : swapBytes a =
    a.extractLsb' 0 8 ++ a.extractLsb' 8 8 ++ a.extractLsb' 16 8 ++ a.extractLsb' 24 8 ++ a.extractLsb' 32 8 ++
      a.extractLsb' 40 8 ++ a.extractLsb' 48 8 ++ a.extractLsb' 56 8 := by
  have reversed : (bytesOfNat 8 a.toNat).reverse = [7, 6, 5, 4, 3, 2, 1, 0].map fun i => a.extractLsb' (8 * i) 8 := by
    simp only [bytesOfNat, ofNat_div_eq_extractLsb']
    rfl
  rw [swapBytes, reversed]
  exact natOfBytes_eight _ _ _ _ _ _ _ _

/-- R123: the instruction of each row of the counts has the value of the table as its result. -/
theorem exec_counting {r : (BitVec 5 → BitVec 5 → Instr) × (Dword → Dword)} (row : r ∈ counting)
    (sd sa : BitVec 5) (s : State) : exec (r.1 sd sa) s = result s sd (r.2 (rdS s sa)) := by
  simp only [counting, List.mem_cons, List.not_mem_nil, or_false] at row
  rcases row with rfl | rfl | rfl | rfl
  · exact congrArg (fun n => result s sd (BitVec.ofNat 64 n)) (leadZeros_eq_find? _ 64)
  · refine congrArg (fun n => result s sd (BitVec.ofNat 64 n)) ((trailZeros_eq_find? _ 64 0).trans ?_)
    simp only [Nat.zero_add]
  · exact congrArg (fun n => result s sd (BitVec.ofNat 64 n)) (ones_eq_countP _ 64)
  · exact congrArg (result s sd) (swapBytes_eq _)

/-! ### Extensions (R123) -/

theorem toInt_truncate (a : Dword) {w : Nat} (h : 0 < w) : (a.truncate w).toInt = signedLow w a.toNat := by
  have half : 2 ^ w = 2 * 2 ^ (w - 1) := by rw [← pow_succ', Nat.sub_add_cancel h]
  rw [BitVec.toInt_eq_toNat_cond, BitVec.truncate, BitVec.toNat_setWidth, signedLow]
  push_cast
  exact if_congr (by omega) rfl rfl

theorem exec_ext_signed (sd sa : BitVec 5) (s : State) (w : BitVec 2) : exec (.ext sd sa 1 w) s =
    result s sd (BitVec.ofInt 64 (signedLow (8 * 2 ^ w.toNat) (rdS s sa).toNat)) := by
  rw [← toInt_truncate _ (by positivity)]
  rfl

theorem exec_ext_natural (sd sa : BitVec 5) (s : State) (w : BitVec 2) : exec (.ext sd sa 0 w) s =
    result s sd (BitVec.ofNat 64 ((rdS s sa).toNat % 2 ^ (8 * 2 ^ w.toNat))) :=
  congrArg (result s sd) (zeroExtend_truncate _ _)

theorem countsAndExtensions : CountsAndExtensions :=
  ⟨fun _ row sd sa s => writes_of_result (exec_counting row sd sa s), fun sd sa s w _ =>
    ⟨writes_of_result (exec_ext_signed sd sa s w), writes_of_result (exec_ext_natural sd sa s w)⟩⟩

/-! ### Immediates (R124, R125) -/

theorem add_signExtend {n m : Nat} (a : BitVec n) (imm : BitVec m) :
    a + imm.signExtend n = BitVec.ofInt n (a.toInt + imm.toInt) := by
  rw [BitVec.ofInt_add, BitVec.ofInt_toInt, BitVec.signExtend]

theorem signExtend_shiftLeft {m : Nat} (n k : Nat) (imm : BitVec m) :
    imm.signExtend n <<< k = BitVec.ofInt n (imm.toInt * 2 ^ k) := by
  rw [BitVec.shiftLeft_eq_mul_twoPow, BitVec.ofInt_mul, BitVec.signExtend]
  refine congrArg _ (BitVec.eq_of_toNat_eq ?_)
  rw [BitVec.toNat_twoPow, BitVec.toNat_ofInt]
  norm_cast

theorem slt_signExtend (a : Dword) (imm : BitVec 13) : a.slt (imm.signExtend 64) = true ↔ a.toInt < imm.toInt := by
  rw [slt_iff, BitVec.toInt_signExtend_of_le (by decide)]

theorem bundleAddr_eq (s : State) : bundleAddr s = BitVec.ofNat 48 (bundleOf s) := and_not_low_bits s.hart.x.iaddr 3

/-- R125: the sum is taken modulo 2^48. -/
theorem adpc_value (s : State) (imm : BitVec 19) : (bundleAddr s + imm.signExtend 48 <<< 13).zeroExtend 64 =
    BitVec.ofInt 64 ((bundleOf s + imm.toInt * 2 ^ 13) % 2 ^ 48) := by
  have sum : bundleAddr s + imm.signExtend 48 <<< 13 = BitVec.ofInt 48 (bundleOf s + imm.toInt * 2 ^ 13) := by
    rw [bundleAddr_eq, signExtend_shiftLeft, BitVec.ofInt_add, BitVec.ofInt_natCast]
  rw [sum]
  refine BitVec.eq_of_toNat_eq ?_
  rw [BitVec.zeroExtend, BitVec.toNat_setWidth, BitVec.toNat_ofInt, BitVec.toNat_ofInt]
  omega

theorem immediates : Immediates := fun _ _ _ =>
  have writes {s : State} {sd : BitVec 5} {i : Instr} {u v : Dword} (h : exec i s = result s sd u) (e : u = v) : Writes i s sd v :=
    writes_of_result (h.trans (congrArg _ e))
  ⟨fun _ => writes rfl (add_signExtend _ _), fun _ => writes rfl rfl, fun _ => writes rfl rfl, fun _ => writes rfl rfl,
    fun _ => writes rfl (shiftLeft_eq_ofNat _ _), fun _ => writes rfl (ushiftRight_eq_ofNat _ _),
    fun _ => writes rfl (sshiftRight_eq_ofInt _ _), fun _ => writes rfl (flag01_eq_truth (slt_signExtend _ _)),
    fun _ => writes rfl (flag01_eq_truth (ult_iff _ _)), fun _ => writes rfl (signExtend_shiftLeft _ _ _),
    fun _ => writes rfl (adpc_value _ _)⟩

/-! ### Addresses of sites and the time (R126, R127, R429) -/

theorem formSite_eq_sitePointer (twin rel : BitVec 1) (x y : BitVec 5) (o : Dword) :
    formSite twin.toNat rel.toNat x.toNat y.toNat o = sitePointer twin rel x y o := by
  refine BitVec.eq_of_toNat_eq ?_
  simp only [formSite, sitePointer, toNat_append_eq, BitVec.extractLsb'_toNat, BitVec.toNat_ofNat, Nat.shiftRight_zero,
    BitVec.reduceToNat]
  omega

/-- R127: the site of a core, from its coordinates. -/
theorem exec_here {sd : BitVec 5} {s : State} {x y : Nat} (hx : coreX s.hart.core = x) (hy : coreY s.hart.core = y)
    (small : x < 32 ∧ y < 32) : exec (.here sd) s = result s sd (sitePointer 0 0 (BitVec.ofNat 5 x) (BitVec.ofNat 5 y) 0) := by
  have e := formSite_eq_sitePointer 0 0 (BitVec.ofNat 5 x) (BitVec.ofNat 5 y) 0
  rw [BitVec.toNat_ofNat, BitVec.toNat_ofNat, Nat.mod_eq_of_lt small.1, Nat.mod_eq_of_lt small.2] at e
  rw [← e, ← hx, ← hy]
  rfl

theorem timeValue_fine (t : TimeUnit) : timeValue t 1 = BitVec.ofNat 64 (t.now.toNat * 2 ^ 16 + t.frac.toNat) := by
  refine BitVec.eq_of_toNat_eq ?_
  rw [timeValue, toNat_append_eq, BitVec.extractLsb'_toNat, BitVec.toNat_ofNat, Nat.shiftRight_zero]
  have := t.frac.isLt
  omega

theorem timeValue_reserved (t : TimeUnit) {sel : Nat} (h : 2 ≤ sel) : timeValue t sel = BitVec.ofInt 64 (-1) := by
  obtain ⟨k, rfl⟩ := Nat.exists_eq_add_of_le' h
  exact allOnes_eq_ofInt

theorem siteAddressesAndTime : SiteAddressesAndTime := fun sd sa s =>
  ⟨fun _ _ _ => writes_of_result (congrArg (result s sd) (formSite_eq_sitePointer _ 0 _ _ _)),
    fun _ _ _ => writes_of_result (congrArg (result s sd) (formSite_eq_sitePointer _ 1 _ _ _)),
    fun core => writes_of_result (exec_here (if_neg (Nat.ne_of_lt core)) (if_neg (Nat.ne_of_lt core)) (by omega)),
    fun core => writes_of_result (exec_here (x := 13) (y := 7) (if_pos core) (if_pos core) (by decide)),
    writes_of_result rfl, writes_of_result (congrArg (result s sd) (timeValue_fine _)),
    fun _ h => writes_of_result (congrArg (result s sd) (timeValue_reserved _ h))⟩

/-- Settles O2: each part from the meanings of its instructions, every one of which is a register result. -/
theorem countsImmediatesAndAddressesAreWritten : Obligations.CountsImmediatesAndAddressesAreWritten :=
  ⟨countsAndExtensions, immediates, siteAddressesAndTime⟩

end Sys2Proof.Proofs
end

section
/-! SUPPORT. Transfers: branches, jumps and loops, and the return stack with its spill area (R41, R65, R120, R128-R131). -/

namespace Sys2Proof.Proofs

open Sys2Proof.Machine Sys2Proof.Safety Sys2Proof.Rules Sys2Proof.Laws

/-! ### Targets (R41, R65) -/

theorem bundleTarget_eq {n : Nat} (s : State) (off : BitVec n) : bundleTarget s off = target s off := by
  rw [bundleTarget, bundleAddr_eq, signExtend_shiftLeft, target, BitVec.ofInt_add, BitVec.ofInt_natCast]
  rfl

/-- R129: the return point is the next bundle. -/
theorem returnPoint_eq (s : State) : bundleAddr s + 8 = returnPoint s := by
  rw [bundleAddr_eq, returnPoint, BitVec.ofNat_add]
  rfl

theorem and_seven_eq_zero (a : BitVec 48) : a &&& 7 = 0 ↔ a.toNat % 8 = 0 := by
  rw [← BitVec.toNat_inj, BitVec.toNat_and]
  exact Eq.congr_left (Nat.and_two_pow_sub_one_eq_mod a.toNat 3)

theorem misaligned_iff (a : BitVec 48) : (a &&& 7 != 0) = true ↔ a.toNat % 8 ≠ 0 :=
  bne_iff_ne.trans (not_congr (and_seven_eq_zero a))

theorem truncate_eq_ofNat (v : Dword) : v.truncate 48 = BitVec.ofNat 48 v.toNat :=
  BitVec.eq_of_toNat_eq (by rw [BitVec.truncate, BitVec.toNat_setWidth, BitVec.toNat_ofNat])

theorem zeroExtend_ofNat (n : Nat) : (BitVec.ofNat 48 n).zeroExtend 64 = BitVec.ofNat 64 (n % 2 ^ 48) := by
  refine BitVec.eq_of_toNat_eq ?_
  rw [BitVec.zeroExtend, BitVec.toNat_setWidth, BitVec.toNat_ofNat, BitVec.toNat_ofNat]

theorem toNat_ofNat_mod_eight (n : Nat) : (BitVec.ofNat 48 n).toNat % 8 = n % 8 := by
  rw [BitVec.toNat_ofNat]
  omega

theorem regTarget_aligned {s : State} {sa : BitVec 5} (h : (rdS s sa).toNat % 8 = 0) (f : BitVec 48 → Res) :
    regTarget s sa f = f (BitVec.ofNat 48 (rdS s sa).toNat) := by
  simp only [regTarget, truncate_eq_ofNat]
  exact if_neg (mt (misaligned_iff _).1 (not_not.2 ((toNat_ofNat_mod_eight _).trans h)))

theorem regTarget_misaligned {s : State} {sa : BitVec 5} (h : (rdS s sa).toNat % 8 ≠ 0) (f : BitVec 48 → Res) :
    regTarget s sa f = xtrap 0x05 (BitVec.ofNat 64 ((rdS s sa).toNat % 2 ^ 48)) s := by
  simp only [regTarget, truncate_eq_ofNat, zeroExtend_ofNat]
  exact if_pos ((misaligned_iff _).2 ((toNat_ofNat_mod_eight _).trans_ne h))

/-- An execution fault is the trap of the instruction. -/
theorem traps_of_xtrap {i : Instr} {s : State} {c : Nat} {v : Dword} (h : exec i s = finish (xtrap c v s)) : Traps i s c v := h

/-! ### Branches, jumps and `loop` (R128, R129, R131) -/

theorem branchIf_does {i : Instr} {s : State} {c : Bool} {p : Prop} [Decidable p] {off : BitVec 11}
    (h : exec i s = branchIf c off s) (cond : c = true ↔ p) : Does i s (if p then goTo s (target s off) else s) := by
  refine does_of_ok (h.trans ?_)
  rw [branchIf, bundleTarget_eq]
  exact congrArg (fun t => finish (.ok t)) (if_congr cond rfl rfl)

theorem branch_does {r : (BitVec 5 → BitVec 5 → BitVec 11 → Instr) × (Dword → Dword → Bool)} (row : r ∈ branches)
    (sa sb : BitVec 5) (off : BitVec 11) (s : State) :
    Does (r.1 sa sb off) s (if r.2 (rdS s sa) (rdS s sb) then goTo s (target s off) else s) := by
  have same (a b : Dword) : (a == b) = true ↔ decide (a.toNat = b.toNat) = true := by
    rw [beq_iff_eq, decide_eq_true_iff, BitVec.toNat_inj]
  have other (a b : Dword) : (a != b) = true ↔ decide (a.toNat ≠ b.toNat) = true := by
    rw [bne_iff_ne, decide_eq_true_iff, Ne, Ne, BitVec.toNat_inj]
  have less (a b : Dword) : (!a.slt b) = true ↔ decide (b.toInt ≤ a.toInt) = true := by
    simp [BitVec.slt]
  have below (a b : Dword) : (!a.ult b) = true ↔ decide (b.toNat ≤ a.toNat) = true := by
    simp [BitVec.ult]
  simp only [branches, List.mem_cons, List.not_mem_nil, or_false] at row
  rcases row with rfl | rfl | rfl | rfl | rfl | rfl
  · exact branchIf_does rfl (same _ _)
  · exact branchIf_does rfl (other _ _)
  · exact branchIf_does rfl Iff.rfl
  · exact branchIf_does rfl (less _ _)
  · exact branchIf_does rfl Iff.rfl
  · exact branchIf_does rfl (below _ _)

/-- A state without the scalar registers of its hart. -/
def noRegs (s : State) : State := { s with hart := { s.hart with s := [] } }

theorem idle_advance_wrS (s : State) (sd : BitVec 5) (v : Dword) : idle (noRegs (advance (wrS s sd v))) = idle (noRegs s) :=
  (congrArg noRegs (advance_idle (wrS s sd v))).trans (congrArg idle (wrS_rest s sd v))

theorem wrS_goTo (s : State) (t : BitVec 48) (sd : BitVec 5) (v : Dword) : wrS (goTo s t) sd v = goTo (wrS s sd v) t := by
  unfold wrS
  split <;> rfl

/-- R131: the counter is written, and the transfer is taken while it is not 0. -/
theorem exec_loop (sa : BitVec 5) (off : BitVec 11) (s : State) :
    let c := BitVec.ofInt 64 ((rdS s sa).toNat - 1)
    exec (.loop sa off) s = result (if c.toNat ≠ 0 then goTo s (target s off) else s) sa c := by
  intro c
  have counter : rdS s sa - 1 = c := sub_eq_ofInt _ _
  have zero : (c != 0) = true ↔ c.toNat ≠ 0 := bne_iff_ne.trans (not_congr (BitVec.toNat_inj (y := 0)).symm)
  have ends : exec (.loop sa off) s =
      finish (.ok (if c != 0 then goTo (wrS s sa c) (bundleTarget s off) else wrS s sa c)) := by
    rw [← counter]
    rfl
  rw [ends, bundleTarget_eq, ← wrS_goTo, if_congr zero rfl rfl, result, apply_ite (fun t => wrS t sa c)]

theorem loop_completes {sa : BitVec 5} (counts : sa ≠ 0) (off : BitVec 11) (s : State) :
    let c := BitVec.ofInt 64 ((rdS s sa).toNat - 1)
    Completes (.loop sa off) s fun t =>
      reg t sa = c ∧ (∀ r, r ≠ sa → reg t r = reg s r) ∧
      t.hart.pc = pcAfter (if c.toNat ≠ 0 then goTo s (target s off) else s) ∧ idle (noRegs t) = idle (noRegs s) := by
  intro c
  have regs (r : BitVec 5) : reg (if c.toNat ≠ 0 then goTo s (target s off) else s) r = reg s r := by split <;> rfl
  have rest : idle (noRegs (if c.toNat ≠ 0 then goTo s (target s off) else s)) = idle (noRegs s) := by split <;> rfl
  refine ⟨_, exec_loop sa off s, ?_, fun r other => ?_, ?_, (idle_advance_wrS _ _ _).trans rest⟩
  · rw [reg_advance, reg_wrS, if_pos ⟨rfl, counts⟩]
  · rw [reg_advance, reg_wrS, if_neg fun h => other h.1, regs]
  · rw [advance_pc, pcAfter_wrS]

/-- Settles O3: each transfer from the meaning of its instruction. -/
theorem branchesAndJumpsTransfer : Obligations.BranchesAndJumpsTransfer :=
  ⟨fun _ row => branch_does row, fun off s => does_of_ok (by rw [← bundleTarget_eq]; rfl),
    fun _ _ aligned => does_of_ok (congrArg finish (regTarget_aligned aligned _)),
    fun _ off s counts => loop_completes counts off s⟩

/-! ### The return stack (R120, R121, R283) -/

theorem queueMeets_false {s : State} {l n : Nat} (h : Unnamed s l n) : queueMeets s l n = false := by
  simp only [queueMeets, List.any_eq_false, List.mem_range]
  intro i _
  cases e : s.hart.queue[i]? with
  | none => exact Bool.false_ne_true
  | some x => exact ne_true_of_eq_false (h i x e)

theorem coherentAt_unnamed {s : State} {l n : Nat} (h : Unnamed s l n) (f : State → Res) : coherentAt s l n f = f s :=
  if_neg (ne_true_of_eq_false (queueMeets_false h))

/-- R120: a push where there is room, in the stack or in the spill area. -/
theorem rsPush_room {s : State} (room : HasRoom s) (spill : MaySpill s) (f : State → Res) :
    rsPush s (returnPoint s) f = f (pushed s) := by
  unfold rsPush pushed
  by_cases short : s.hart.rs.length < 16
  · simp only [short, if_true]
    rfl
  · obtain ⟨more, fits⟩ := room.resolve_left short
    have spills : (s.hart.spilled = s.hart.rsCap || s.hart.rsBase + 8 * (s.hart.spilled + 1) > 0x80000) = false := by
      simp [more, fits]
    simp only [short, spills, Bool.false_eq_true, if_false]
    exact coherentAt_unnamed (spill (Nat.not_lt.1 short)) _

theorem rsPush_full {s : State} (full : ¬ HasRoom s) (ra : BitVec 48) (f : State → Res) :
    rsPush s ra f = xtrap 0x0A (ra.zeroExtend 64) s := by
  unfold HasRoom at full
  obtain ⟨long, none⟩ := not_or.1 full
  have stops : (s.hart.spilled = s.hart.rsCap || s.hart.rsBase + 8 * (s.hart.spilled + 1) > 0x80000) = true := by
    simp only [Bool.or_eq_true, decide_eq_true_eq]
    omega
  simp only [rsPush, long, stops, if_true, if_false]

/-- R120: a return with an entry in the stack uses that entry. -/
theorem rsPop_top {s : State} {t : BitVec 48} (h : s.hart.rs.getLast? = some t) (f : BitVec 48 → State → Res) :
    rsPop s f = popTo t s (withHart s fun h => { h with rs := h.rs.dropLast }) f := by
  simp only [rsPop, h]
  rfl

/-- R120: one with an empty stack uses the last entry spilled. -/
theorem rsPop_filled {s : State} {v : Nat} (fills : FillsFrom s v) (f : BitVec 48 → State → Res) :
    rsPop s f = popTo (BitVec.ofNat 48 v) s (withHart s fun h => { h with spilled := h.spilled - 1 }) f := by
  obtain ⟨none, spilled, unnamed, value⟩ := fills
  simp only [rsPop, none, List.getLast?_nil, spilled, if_false]
  refine (coherentAt_unnamed unnamed _).trans ?_
  unfold spillPlace at value
  simp only [value]
  rfl

theorem rsPop_empty {s : State} (none : s.hart.rs = []) (zero : s.hart.spilled = 0) (f : BitVec 48 → State → Res) :
    rsPop s f = xtrap 0x0B 0 s := by
  simp only [rsPop, none, List.getLast?_nil, zero, if_true]

theorem popTo_aligned {t : BitVec 48} (h : t.toNat % 8 = 0) (s s1 : State) (f : BitVec 48 → State → Res) :
    popTo t s s1 f = f t s1 :=
  if_neg (mt (misaligned_iff t).1 (not_not.2 h))

theorem popTo_misaligned {t : BitVec 48} (h : t.toNat % 8 ≠ 0) (s s1 : State) (f : BitVec 48 → State → Res) :
    popTo t s s1 f = xtrap 0x05 (t.zeroExtend 64) s :=
  if_pos ((misaligned_iff t).2 h)

/-! ### Calls and returns (R120, R129, R130) -/

theorem exec_call (off : BitVec 24) (s : State) : exec (.call off) s =
    finish (rsPush s (returnPoint s) fun u => .ok (goTo u (target s off))) := by
  rw [← returnPoint_eq, ← bundleTarget_eq]
  rfl

theorem exec_callr (sa : BitVec 5) (s : State) : exec (.callr sa) s =
    finish (regTarget s sa fun t => rsPush s (returnPoint s) fun u => .ok (goTo u t)) := by
  rw [← returnPoint_eq]
  rfl

theorem callsPushAndReturnsPop : CallsPushAndReturnsPop := by
  intro s
  refine ⟨fun room spill off => does_of_ok ?call, fun room spill sa aligned => does_of_ok ?callr,
    fun t top aligned => does_of_ok ?top, fun v fills aligned => does_of_ok ?filled⟩
  case call => rw [exec_call, rsPush_room room spill]
  case callr => rw [exec_callr, regTarget_aligned aligned, rsPush_room room spill]
  case top => exact congrArg finish ((rsPop_top top _).trans (popTo_aligned aligned _ _ _))
  case filled =>
    exact congrArg finish ((rsPop_filled fills _).trans (popTo_aligned ((toNat_ofNat_mod_eight v).trans aligned) _ _ _))

theorem transfersTrap : TransfersTrap := by
  intro s
  refine ⟨fun full off => traps_of_xtrap ?call, fun full sa aligned => traps_of_xtrap ?callr,
    fun sa misaligned => ⟨traps_of_xtrap ?jr, traps_of_xtrap ?callrTarget⟩, fun none zero => traps_of_xtrap ?empty,
    fun t top misaligned => traps_of_xtrap ?top, fun v fills misaligned => traps_of_xtrap ?filled⟩
  case call => rw [exec_call, rsPush_full full]
  case callr => rw [exec_callr, regTarget_aligned aligned, rsPush_full full]
  case jr => exact congrArg finish (regTarget_misaligned misaligned _)
  case callrTarget => rw [exec_callr, regTarget_misaligned misaligned]
  case empty => exact congrArg finish (rsPop_empty none zero _)
  case top => exact congrArg finish ((rsPop_top top _).trans (popTo_misaligned misaligned _ _ _))
  case filled =>
    have odd := (toNat_ofNat_mod_eight v).trans_ne misaligned
    rw [← zeroExtend_ofNat]
    exact congrArg finish ((rsPop_filled fills _).trans (popTo_misaligned odd _ _ _))

/-- Settles O4: the transfers that push and pop, and those that trap. -/
theorem callsReturnsAndTheirTraps : Obligations.CallsReturnsAndTheirTraps := ⟨callsPushAndReturnsPop, transfersTrap⟩

end Sys2Proof.Proofs
end

section
/-! SUPPORT. Where a trap goes: to the job's handler or to the service complex (R117, R118, R449, R464). -/

namespace Sys2Proof.Proofs

open Sys2Proof.Machine Sys2Proof.Safety Sys2Proof.Rules Sys2Proof.Laws

/-! ### Which traps the handler takes (R116, R117) -/

theorem covered_iff (cause b : Nat) : (cause, b) ∈ coveredBy ↔ enableBit cause = some b := by
  constructor
  · exact (by decide : ∀ p ∈ coveredBy, enableBit p.1 = some p.2) (cause, b)
  · intro covered
    unfold enableBit at covered
    split_ifs at covered with svc brk fault stack float data
    all_goals obtain rfl := Option.some.inj covered
    · exact svc ▸ by decide
    · exact brk ▸ by decide
    · obtain ⟨low, high⟩ := fault
      interval_cases cause <;> decide
    · rcases stack with rfl | rfl <;> decide
    · exact float ▸ by decide
    · rcases data with rfl | rfl <;> decide

theorem handlerTakes_iff (h : Hart) (cause : Nat) : HandlerTakes h cause ↔ toHandler h cause = true := by
  have enabled : (∃ b, (cause, b) ∈ coveredBy ∧ h.tr.tenab.getLsbD b = true) ↔
      ∃ b, enableBit cause = some b ∧ h.tr.tenab.getLsbD b = true := exists_congr fun b => and_congr_left' (covered_iff cause b)
  unfold HandlerTakes toHandler
  rw [enabled]
  cases enableBit cause <;> simp [and_assoc]

theorem not_handlerTakes_iff (h : Hart) (cause : Nat) : ¬ HandlerTakes h cause ↔ toHandler h cause = false := by
  rw [handlerTakes_iff, Bool.not_eq_true]

/-! ### The handler entered (R118) -/

theorem enterHandler_hart (s : State) (cause : Nat) (tval : Dword) (ra : BitVec 48) (imp grace : Bool) :
    (enterHandler s cause tval ra imp grace).hart = { s.hart.fresh with
      linkGen := s.hart.linkGen + 1
      pc := s.hart.tr.tvec
      tr := { s.hart.tr with xpc := ra, tcause := BitVec.ofNat 8 cause, tval := tval, grc := grace, imp := imp, inh := true } } := by
  unfold enterHandler
  rw [updH_hart, bumpLink_hart]
  rfl

theorem enterHandler_svc (s : State) (cause : Nat) (tval : Dword) (ra : BitVec 48) (imp grace : Bool) :
    (enterHandler s cause tval ra imp grace).svc = s.svc := by
  have e := congrArg State.svc (bumpLink_rest s)
  exact e

theorem trapEntersTheHandler : TrapEntersTheHandler := by
  intro s c v ra core takes t
  have enters : t = enterHandler (updH s fun h => { h with job := { h.job with lastCause := c } }) c v ra false false :=
    deliver_handler (t := ⟨c, v⟩) core ((handlerTakes_iff _ _).1 takes) ra 63
  have svc : t.svc = s.svc := (congrArg State.svc enters).trans (enterHandler_svc _ _ _ _ _ _)
  have mem : t.mem = s.mem := (congrArg State.mem enters).trans (bumpLink_mem _)
  have hart := (congrArg State.hart enters).trans (enterHandler_hart _ _ _ _ _ _)
  rw [hart, svc, mem]
  exact ⟨rfl, rfl, rfl, rfl, rfl, rfl, rfl, rfl, rfl, rfl, rfl, rfl, rfl, rfl⟩

/-! ### The service complex (R449, R464) -/

/-- A hart whose trap is at the service complex: its queue is cut, and it stands at the resume address. -/
def atService (h : Hart) (cause : Nat) (ra : BitVec 48) : Hart :=
  let cut : Hart := { h with
    job := { h.job with lastCause := cause, held := true }
    fcsr := h.queue.foldl (fun f e => fcsrMerge f e.flags) h.fcsr
    queue := []
    mview := h.mmode
    pend := h.pend.filter (fun p => p.entry == none) }
  { cut.fresh with stage := .service, pc := ra }

theorem deliver_service_hart {s : State} {t : Trap} (core : s.hart.core ≠ mgmtCore) (other : toHandler s.hart t.cause = false)
    (ra : BitVec 48) (imp : Bool) (idx : Nat) : (deliver s t ra imp idx).hart = atService s.hart t.cause ra := by
  have stays : toHandler (updH s fun h => { h with job := { h.job with lastCause := t.cause } }).hart t.cause = false := other
  unfold deliver
  rw [if_neg core]
  simp only [stays, Bool.false_eq_true, if_false, pushEvent_hart]
  simp only [updH, saveHart_hart]
  rfl

theorem pushEvent_eq_withEvent (s : State) (e : SvcEvent) : pushEvent s e = withEvent s e := rfl

theorem withEvent_room {s : State} (room : s.svc.events.length < 1024) (e : SvcEvent) :
    (withEvent s e).svc.events = s.svc.events ++ [e] ∧ (withEvent s e).svc.held = s.svc.held := by
  rw [withEvent, if_pos room]
  exact ⟨rfl, rfl⟩

theorem withEvent_full {s : State} (full : 1024 ≤ s.svc.events.length) (e : SvcEvent) :
    (withEvent s e).svc.events = s.svc.events ∧ (withEvent s e).svc.held = s.svc.held ++ [e] := by
  rw [withEvent, if_neg (Nat.not_lt.2 full)]
  exact ⟨rfl, rfl⟩

theorem otherTrapsGoToService : OtherTrapsGoToService := by
  intro s c v ra core other t
  have stays := (not_handlerTakes_iff _ _).1 other
  have hart : t.hart = atService s.hart c ra := deliver_service_hart (t := ⟨c, v⟩) core stays ra false 63
  have svc : t.svc = (withEvent s (.trap s.hart.job.job)).svc := (deliver_service (t := ⟨c, v⟩) core stays ra false 63).1
  rw [hart, svc]
  exact ⟨rfl, rfl, rfl, rfl, fun room => withEvent_room room _, fun full => withEvent_full full _, rfl, rfl, rfl, rfl, rfl⟩

/-- Settles O5: the handler's entry, and what the service complex is left. -/
theorem trapsAreTaken : Obligations.TrapsAreTaken := ⟨trapEntersTheHandler, otherTrapsGoToService⟩

end Sys2Proof.Proofs
end

section
/-! SUPPORT. Scalar floating point: results, flags and the trap of an enabled one (R92, R94, R133-R136). -/

namespace Sys2Proof.Proofs

open Sys2Proof.Machine Sys2Proof.Safety Sys2Proof.Rules Sys2Proof.Laws

theorem fpTraps_iff (c : Dword) (f : Flags) : fpTraps c f = true ↔ fcsrEnables c &&& f ≠ 0 := bne_iff_ne

/-- R92, R94, R136: an instruction that ends by its flags and its result. -/
theorem floatResult_of_fpResult {i : Instr} {s : State} {sd : BitVec 5} {f : Flags} {v : Dword}
    (h : exec i s = fpResult s sd f v) : FloatResult i s sd f v := by
  refine ⟨fun quiet => does_of_ok (h.trans ?_), fun raised => h.trans ?_⟩
  · exact congrArg finish (if_neg (mt (fpTraps_iff _ _).1 (not_not.2 quiet)))
  · exact congrArg finish (if_pos ((fpTraps_iff _ _).2 raised))

/-- R133: the instruction of each row ends by the flags and the result of its operation. -/
theorem exec_scalarFloat {r : (BitVec 5 → BitVec 5 → BitVec 5 → BitVec 1 → Instr) × (FFmt → RM → Nat → Nat → FRes)}
    (row : r ∈ scalarFloats) (sd sa sb : BitVec 5) (pr : BitVec 1) (s : State) :
    exec (r.1 sd sa sb pr) s = fpScalar sd sa sb pr r.2 s := by
  simp only [scalarFloats, List.mem_cons, List.not_mem_nil, or_false] at row
  rcases row with rfl | rfl | rfl | rfl | rfl | rfl <;> rfl

/-- Settles O17: each form from the meaning of its instruction. -/
theorem scalarFloatsWriteOrTrap : Obligations.ScalarFloatsWriteOrTrap := fun sd sa sb _ pr s =>
  ⟨fun _ row => floatResult_of_fpResult (exec_scalarFloat row sd sa sb pr s), floatResult_of_fpResult rfl,
    floatResult_of_fpResult rfl, fun _ => floatResult_of_fpResult (congrArg (fpResult s sd _) (flag01_eq_truth Iff.rfl)),
    fun _ _ => floatResult_of_fpResult rfl, writes_of_result rfl, writes_of_result rfl⟩

end Sys2Proof.Proofs
end

section
/-! SUPPORT. Waits that end: the waiting instruction is performed and the hart goes on behind it (R115, R433, R443). -/

namespace Sys2Proof.Proofs

open Sys2Proof.Machine Sys2Proof.Safety Sys2Proof.Rules Sys2Proof.Laws

/-! ### The hart in focus comes first -/

theorem focusOn_focus {s t : State} (key : t.hart.key = s.hart.key) : focusOn t s.hart.key = t := if_pos key

/-- What can be done with the hart in focus is done with it. -/
theorem onHart_focus {s t : State} {f : State → Option State} (h : f s = some t) (key : t.hart.key = s.hart.key) :
    onHart s f = some t := by
  simp only [onHart, hartKeys, List.findSome?_cons, focusOn_focus (s := s) rfl, h, Option.map_some, focusOn_focus key]

/-! ### What an effect leaves alone -/

/-- The effect leaves the hart where it stands, and memory as it was. -/
structure Kept (s u : State) : Prop where
  x : u.hart.x = s.hart.x
  pc : u.hart.pc = s.hart.pc
  key : u.hart.key = s.hart.key
  mem : u.mem = s.mem

theorem Kept.trans {s t u : State} (h : Kept s t) (g : Kept t u) : Kept s u :=
  ⟨g.x.trans h.x, g.pc.trans h.pc, g.key.trans h.key, g.mem.trans h.mem⟩

theorem Kept.of_eq {s u : State} (hart : u.hart = s.hart) (mem : u.mem = s.mem) : Kept s u :=
  ⟨by rw [hart], by rw [hart], by rw [hart], mem⟩

theorem Kept.wrS (s : State) (sd : BitVec 5) (v : Dword) : Kept s (wrS s sd v) := by
  unfold Machine.wrS
  split <;> exact ⟨rfl, rfl, rfl, rfl⟩

theorem Kept.acquireIf (b : Bool) (s : State) : Kept s (acquireIf b s) := by
  unfold Machine.acquireIf acquire
  split_ifs <;> exact ⟨rfl, rfl, rfl, rfl⟩

theorem Kept.answered (s : State) (b : Bool) (sd : BitVec 5) (v : Dword) : Kept s (Machine.wrS (Machine.acquireIf b s) sd v) :=
  (Kept.acquireIf b s).trans (.wrS _ sd v)

/-- A ticket's wait drops its watch and its walks. -/
theorem Kept.unwatched (s : State) : Kept s (unwatch (dropWalks s s.hart.key) s.hart.key) := ⟨rfl, rfl, rfl, rfl⟩

/-! ### The unit's end -/

theorem advance_mem (s : State) : (advance s).mem = s.mem := by
  have same := congrArg State.mem (advance_idle s)
  exact same

theorem advance_key (s : State) : (advance s).hart.key = s.hart.key := by
  unfold advance
  cases hold : s.hart.x.hold <;> simp [updH, hold, Hart.key]

theorem advance_block {s : State} (h : s.hart.x.hold = false) : (advance s).hart.block = .none := by
  simp [advance, updH, h]

/-- A unit whose effect keeps the hart's place ends behind itself. -/
theorem Kept.ends {s u : State} (h : Kept s u) : (advance u).hart.pc = pcAfter s ∧ (advance u).mem = s.mem ∧
    (s.hart.x.hold = false → (advance u).hart.block = .none) :=
  ⟨(advance_pc u).trans (pcAfter_same h.x h.pc), (advance_mem u).trans h.mem,
    fun hold => advance_block ((congrArg _ h.x).trans hold)⟩

theorem reg_written {s : State} {sd : BitVec 5} (h : sd ≠ 0) (v : Dword) : reg (advance (wrS s sd v)) sd = v := by
  rw [reg_advance, reg_wrS, if_pos ⟨rfl, h⟩]

/-! ### A wait issued again (R433) -/

/-- The hart in focus stands at a wait of R432 that has begun. -/
structure Waits (s : State) (i : Instr) : Prop where
  running : s.hart.stage = .running
  clear : s.hart.pend = []
  at_ : s.hart.blockedBy = some i
  waits : s.hart.inWait i = true

section
variable {s : State} {i e : Instr} {p : State → Instr → Bool}

/-- R433: what ends the wait of the hart in focus performs the waiting instruction. -/
theorem waiting_performed {u : State} (row : exec e s = .next ((onWait s p).getD s)) (w : Waits s i) (now : p s i = true)
    (run : waitRun i s = outState (exec i s) s) (h : exec i s = finish (.ok u)) (kept : Kept s u) :
    exec e s = exec i s ∧ exec e s = .next (advance u) := by
  rw [h, finish_ok] at run
  have key : (waitRun i s).hart.key = s.hart.key := by rw [run]; exact (advance_key u).trans kept.key
  have picked : onWait s p = some (waitRun i s) := by
    refine onHart_focus ?_ key
    simp only [w.at_, w.running, w.waits, w.clear, now, List.isEmpty_nil, decide_true, Bool.and_self, if_true]
  have ends : exec e s = .next (advance u) := by rw [row, picked]; exact congrArg _ run
  exact ⟨ends.trans (h.trans (finish_ok u)).symm, ends⟩

theorem waiting_completes {u : State} (row : exec e s = .next ((onWait s p).getD s)) (w : Waits s i) (now : p s i = true)
    (run : waitRun i s = outState (exec i s) s) (h : exec i s = finish (.ok u)) (kept : Kept s u) :
    exec e s = exec i s ∧
      Completes e s fun t => t.hart.pc = pcAfter s ∧ t.mem = s.mem ∧ (s.hart.x.hold = false → t.hart.block = .none) :=
  have done := waiting_performed row w now run h kept
  ⟨done.1, _, done.2, kept.ends⟩

/-- R433: a limit that was reached answers 1. -/
theorem waiting_timed {u : State} {sd : BitVec 5} (w : Waits s i) (run : waitRun i s = outState (exec i s) s)
    (now : s.hart.waitEnd = some false ∨
      s.hart.waitEnd = none ∧ waitHolds s i = false ∧ (waitLimit s i).any (fun l => l.toNat ≤ s.nowNs) = true)
    (h : exec i s = finish (.ok (wrS u sd 1))) (kept : Kept s u) :
    exec .timedWaitLimit s = exec i s ∧
      Completes .timedWaitLimit s fun t => t.hart.pc = pcAfter s ∧ t.mem = s.mem ∧ (sd ≠ 0 → reg t sd = 1) := by
  obtain ⟨same, ends⟩ := waiting_performed (e := .timedWaitLimit) rfl w (by
    rcases now with late | ⟨open_, unmet, due⟩
    · simp [late]
    · simp [open_, unmet, due]) run h (kept.trans (.wrS u sd 1))
  obtain ⟨pc, mem, -⟩ := (kept.trans (.wrS u sd 1)).ends
  exact ⟨same, _, ends, pc, mem, fun nz => reg_written nz 1⟩

end

/-! ### Barriers and arrivals (R440, R444) -/

section
variable {s : State}

theorem mayHold_iff {i : Instr} : MayHold s (waitHolds s i = true) →
    s.hart.waitEnd ≠ some false ∧ (waitHolds s i || s.hart.waitEnd = some true) = true := by
  rintro (decided | ⟨open_, holds⟩)
  · simp [decided]
  · simp [open_, holds]

theorem timedWait_held {i : Instr} {sd : BitVec 5} {acq holds : Bool} {limit : Dword} (open_ : s.hart.waitEnd ≠ some false)
    (held : (holds || s.hart.waitEnd = some true) = true) :
    timedWait i sd acq holds limit s = .ok (wrS (acquireIf acq s) sd 0) := by
  rw [timedWait, if_neg open_, if_pos held]

theorem timedWait_late {i : Instr} {sd : BitVec 5} {acq holds : Bool} {limit : Dword}
    (late : s.hart.waitEnd = some false ∨ holds = false ∧ s.hart.waitEnd ≠ some true ∧ limit.toNat ≤ s.time.now.toNat) :
    timedWait i sd acq holds limit s = .ok (wrS s sd 1) := by
  unfold timedWait
  rcases late with decided | ⟨unmet, open_, due⟩
  · rw [if_pos decided]
  · have due' : limit.toNat ≤ s.nowNs := due
    simp [unmet, open_, due']

/-- The waits on barriers and on arrivals. -/
inductive PlainWait : Instr → Prop
  | bar (sd sa sel) : PlainWait (.barWait sd sa sel)
  | bart (sd sa sb) : PlainWait (.barWaitt sd sa sb)
  | wina (sd wn sb) : PlainWait (.winaWait sd wn sb)
  | winat (sd wn sb) : PlainWait (.winaWaitt sd wn sb)

theorem PlainWait.run {i : Instr} (h : PlainWait i) : waitRun i s = outState (exec i s) s := by cases h <;> rfl

theorem PlainWait.not_ticket {i : Instr} (h : PlainWait i) : isTicket i = false := by cases h <;> rfl

/-- A wait whose condition holds, or came true first, answers. -/
theorem PlainWait.held {i : Instr} (plain : PlainWait i) (h : MayHold s (waitHolds s i = true)) :
    ∃ u, exec i s = finish (.ok u) ∧ Kept s u := by
  obtain ⟨open_, held⟩ := mayHold_iff h
  cases plain with
  | bar sd sa sel =>
    by_cases bad : (barMalformed (rdS s sa) || barForeign s (rdS s sa)) = true
    · exact ⟨_, congrArg finish (if_pos bad), .wrS ..⟩
    · have met : (barHolds s (rdS s sa) || s.hart.waitEnd = some true) = true := by
        simpa only [waitHolds, Bool.eq_false_of_not_eq_true bad, Bool.false_or] using held
      exact ⟨_, congrArg finish ((if_neg bad).trans (if_pos met)), .answered ..⟩
  | bart sd sa sb =>
    by_cases bad : barMalformed (rdS s sa) = true
    · exact ⟨_, congrArg finish (if_pos bad), .wrS ..⟩
    by_cases foreign : barForeign s (rdS s sa) = true
    · exact ⟨_, congrArg finish ((if_neg bad).trans (if_pos foreign)), .wrS ..⟩
    · have met : (barHolds s (rdS s sa) || s.hart.waitEnd = some true) = true := by
        simpa only [waitHolds, Bool.eq_false_of_not_eq_true bad, Bool.eq_false_of_not_eq_true foreign, Bool.false_or] using held
      exact ⟨_, congrArg finish ((if_neg bad).trans ((if_neg foreign).trans (timedWait_held open_ met))), .answered ..⟩
  | wina sd wn sb =>
    show ∃ u, execWinaWait sd wn sb s = _ ∧ _
    cases status : winaStatus s wn.toNat (rdS s sb).toNat with
    | some v =>
      simp only [execWinaWait, status]
      exact ⟨_, rfl, .wrS ..⟩
    | none =>
      simp only [execWinaWait, status]
      have met : (winaHolds (myWin s wn.toNat) (rdS s sb).toNat || s.hart.waitEnd = some true) = true := by
        simpa only [waitHolds, status, Option.isSome_none, Bool.false_or] using held
      exact ⟨_, congrArg finish (if_pos met), .wrS ..⟩
  | winat sd wn sb =>
    show ∃ u, execWinaWaitt sd wn sb s = _ ∧ _
    cases status : winaStatus s wn.toNat (rdS s sb).toNat with
    | some v =>
      simp only [execWinaWaitt, status]
      exact ⟨_, rfl, .wrS ..⟩
    | none =>
      simp only [execWinaWaitt, status]
      have met : (winaHolds (myWin s wn.toNat) (rdS s sb).toNat || s.hart.waitEnd = some true) = true := by
        simpa only [waitHolds, status, Option.isSome_none, Bool.false_or] using held
      exact ⟨_, congrArg finish (timedWait_held open_ met), .answered ..⟩

theorem plainWait_met {i : Instr} (w : Waits s i) (plain : PlainWait i) (h : MayHold s (waitHolds s i = true)) :
    exec .waitConditionMet s = exec i s ∧ Completes .waitConditionMet s fun t => t.hart.pc = pcAfter s ∧ t.mem = s.mem ∧
      (s.hart.x.hold = false → t.hart.block = .none) := by
  obtain ⟨u, ends, kept⟩ := plain.held h
  refine waiting_completes rfl w ?_ plain.run ends kept
  rcases h with decided | ⟨open_, holds⟩
  · simp [decided]
  · simp [open_, holds, plain.not_ticket]

/-- R440, R444: a wait that is not met answers its limit. -/
theorem barWaitt_late {sd sa sb : BitVec 5} (unmet : waitHolds s (.barWaitt sd sa sb) = false)
    (late : s.hart.waitEnd = some false ∨ s.hart.waitEnd ≠ some true ∧ (rdS s sb).toNat ≤ s.time.now.toNat) :
    exec (.barWaitt sd sa sb) s = finish (.ok (wrS s sd 1)) := by
  obtain ⟨⟨bad, foreign⟩, holds⟩ : (barMalformed (rdS s sa) = false ∧ barForeign s (rdS s sa) = false) ∧
      barHolds s (rdS s sa) = false := by simpa only [waitHolds, Bool.or_eq_false_iff] using unmet
  exact congrArg finish ((if_neg (ne_true_of_eq_false bad)).trans ((if_neg (ne_true_of_eq_false foreign)).trans
    (timedWait_late (late.imp_right fun h => ⟨holds, h⟩))))

theorem winaWaitt_late {sd wn sb : BitVec 5} (unmet : waitHolds s (.winaWaitt sd wn sb) = false)
    (late : s.hart.waitEnd = some false ∨ s.hart.waitEnd ≠ some true ∧ (rdS s sd).toNat ≤ s.time.now.toNat) :
    exec (.winaWaitt sd wn sb) s = finish (.ok (wrS s sd 1)) := by
  obtain ⟨status, holds⟩ : winaStatus s wn.toNat (rdS s sb).toNat = none ∧
      winaHolds (myWin s wn.toNat) (rdS s sb).toNat = false := by
    simpa only [waitHolds, Bool.or_eq_false_iff, Option.isSome_eq_false_iff, Option.isNone_iff_eq_none] using unmet
  show execWinaWaitt sd wn sb s = _
  unfold execWinaWaitt
  simp only [status]
  exact congrArg finish (timedWait_late (late.imp_right fun h => ⟨holds, h⟩))

theorem plainWait_late {i : Instr} {l : Dword} {sd sa sb : BitVec 5} (w : Waits s i)
    (timed : i = .barWaitt sd sa sb ∨ i = .winaWaitt sd sa sb) (limit : waitLimit s i = some l)
    (unmet : waitHolds s i = false) (open_ : s.hart.waitEnd ≠ some true)
    (late : s.hart.waitEnd = some false ∨ l.toNat ≤ s.time.now.toNat) :
    exec .timedWaitLimit s = exec i s ∧
      Completes .timedWaitLimit s fun t => t.hart.pc = pcAfter s ∧ t.mem = s.mem ∧ (sd ≠ 0 → reg t sd = 1) := by
  have now : s.hart.waitEnd = some false ∨
      s.hart.waitEnd = none ∧ waitHolds s i = false ∧ (waitLimit s i).any (fun l => l.toNat ≤ s.nowNs) = true := by
    cases decided : s.hart.waitEnd with
    | none => exact .inr ⟨rfl, unmet, limit ▸ decide_eq_true (late.resolve_left (by simp [decided]))⟩
    | some b => cases b with
      | false => exact .inl rfl
      | true => exact absurd decided open_
  have late' := late.imp_right fun due => And.intro open_ due
  rcases timed with rfl | rfl <;> obtain rfl := Option.some.inj limit
  · exact waiting_timed w rfl now (barWaitt_late unmet late') (.of_eq rfl rfl)
  · exact waiting_timed w rfl now (winaWaitt_late unmet late') (.of_eq rfl rfl)

end

/-! ### Tickets (R442, R443) -/

section
variable {s : State}

theorem siteCheck_ok {a : Acc} {twin : Bool} {x y off n : Nat} {ea : Dword} {g : Target} {t : State}
    (h : siteCheck s a twin x y off n ea = .ok g t) : t = s := by
  unfold siteCheck at h
  simp only [] at h
  split_ifs at h <;> cases h <;> rfl

/-- An address that a site takes leaves everything as it was. -/
theorem sited_kept {c : Prop} [Decidable c] {f : Trap} {a : Acc} {twin : Bool} {x y off n : Nat} {ea : Dword} {g : Target} {t : State}
    (h : (if c then .fault f s else siteCheck s a twin x y off n ea) = XRes.ok g t) : Kept s t := by
  split at h
  · cases h
  · exact siteCheck_ok h ▸ .of_eq rfl rfl

theorem useSlice_hart (s : State) (c l : Nat) : (useSlice s c l).hart = s.hart := by unfold useSlice; split <;> rfl

theorem useSlice_mem (s : State) (c l : Nat) : (useSlice s c l).mem = s.mem := by unfold useSlice; split <;> rfl

/-- An address that its translation places leaves the hart and memory as they were. -/
theorem xlated_kept {hart T va : Nat} {k : Kind} {f : TlbEntry → State → XRes Target} {g : Target} {t : State}
    (h : (xlate s hart T va k).bind f = .ok g t) (places : ∀ e u, f e u = .ok g t → Kept u t) : Kept s t := by
  have rest := xlate_rest s hart T va k
  cases walked : xlate s hart T va k with
  | ok e u =>
    rw [walked] at h rest
    have hart := congrArg State.hart rest
    have mem := congrArg State.mem rest
    exact Kept.trans (t := u) (.of_eq hart mem) (places e u h)
  | _ => rw [walked] at h; cases h

/-- A resolved address leaves the hart and memory as they were. -/
theorem resolve_kept {a : Acc} {ea : Dword} {n : Nat} {g : Target} {t : State} (h : resolve s a ea n = .ok g t) : Kept s t := by
  unfold resolve at h
  simp only [] at h
  split at h
  · cases h
  split at h
  · split at h
    · cases h
    · split at h <;> exact sited_kept h
  · split at h
    · refine xlated_kept h fun e u placed => ?_
      split at placed
      · cases placed
      · cases placed
        exact .of_eq (useSlice_hart ..) (useSlice_mem ..)
    · cases h

theorem ticketRead_at {sa : BitVec 5} {l tag v : Nat} {s1 : State} (h : TicketAt s (rdS s sa) l tag s1 v) :
    ticketRead s (rdS s sa) = .ok (l, tag, BitVec.ofNat 64 v) s1 := by
  obtain ⟨place, global, device, value⟩ := h
  simp only [ticketRead, ticketWord, place, XRes.bind, global, device, value, Bool.not_true, Bool.or_self,
    Bool.false_eq_true, if_false]

/-- R283: no queued access meets a read that may go on. -/
theorem coherent_read {ea : Dword} {n : Nat} {k : Kind} (h : Coherent s k ea n) (f : State → Res) : coherent s k ea n f = f s := by
  unfold coherent
  split
  · rfl
  · split
    · exact coherentAt_unnamed (h _ _ _ ‹_›) f
    · rfl

/-- R443: a read that returns the ticket ends the wait. -/
theorem tktWait_ends {sa sb : BitVec 5} {l tag : Nat} {s1 : State} (blocked : s.hart.blockedBy = some (.tktWait sa sb))
    (open_ : s.hart.waitEnd = none) (ticket : TicketAt s (rdS s sa) l tag s1 (rdS s sb).toNat)
    (free : Coherent s .read (rdS s sa) 8) : ∃ u, exec (.tktWait sa sb) s = finish (.ok u) ∧ Kept s u := by
  have again : (s.hart.blockedBy == some (.tktWait sa sb)) = true := by rw [blocked]; exact beq_self_eq_true _
  show ∃ u, execTktWait sa sb s = _ ∧ _
  unfold execTktWait ticketWait
  simp only [again, open_, if_true, Option.isSome_none, Bool.false_or]
  split
  · exact ⟨_, rfl, (Kept.unwatched s).trans (.acquireIf true _)⟩
  · rw [coherent_read free, ticketRead_at ticket, ofLoad_ok, BitVec.ofNat_toNat, BitVec.setWidth_eq, if_pos rfl]
    have read : Kept s (unwatch s1 s1.hart.key) := (resolve_kept ticket.1).trans ⟨rfl, rfl, rfl, rfl⟩
    exact ⟨_, rfl, read.trans (.acquireIf true _)⟩

theorem tktWait_met {sa sb : BitVec 5} {l tag : Nat} {s1 : State} (w : Waits s (.tktWait sa sb))
    (open_ : s.hart.waitEnd = none) (block : s.hart.block = .wait)
    (ticket : TicketAt s (rdS s sa) l tag s1 (rdS s sb).toNat) (free : Coherent s .read (rdS s sa) 8) :
    let ends (e : Instr) : Prop := exec e s = exec (.tktWait sa sb) s ∧
      Completes e s fun t => t.hart.pc = pcAfter s ∧ t.mem = s.mem ∧ (s.hart.x.hold = false → t.hart.block = .none)
    (hasWatch s s.hart.key = true → ends .waitConditionMet) ∧ (hasWatch s s.hart.key = false → ends .ticketPoll) := by
  obtain ⟨u, done, kept⟩ := tktWait_ends w.at_ open_ ticket free
  have holds : ticketHolds s sa sb = true := by simp [ticketHolds, ticketRead_at ticket]
  have acts : pollActs s sa sb = true := by simp [pollActs, ticketRead_at ticket]
  exact ⟨fun watch => waiting_completes rfl w (by simp [open_, waitHolds, holds, watch]) rfl done kept,
    fun none => waiting_completes rfl w (by simp [open_, block, acts, none]) rfl done kept⟩

/-- R433: a ticket's wait whose limit came first. -/
theorem tktWaitt_late {sd sa sb : BitVec 5} (w : Waits s (.tktWaitt sd sa sb)) (late : s.hart.waitEnd = some false) :
    exec .timedWaitLimit s = exec (.tktWaitt sd sa sb) s ∧
      Completes .timedWaitLimit s fun t => t.hart.pc = pcAfter s ∧ t.mem = s.mem ∧ (sd ≠ 0 → reg t sd = 1) := by
  have again : (s.hart.blockedBy == some (.tktWaitt sd sa sb)) = true := by rw [w.at_]; exact beq_self_eq_true _
  refine waiting_timed w rfl (.inl late) (u := unwatch (dropWalks s s.hart.key) s.hart.key) ?_ (.unwatched s)
  show execTktWaitt sd sa sb s = _
  unfold execTktWaitt ticketWait
  simp only [again, late, if_true, Option.isSome_some, Bool.true_or]
  exact congrArg finish (timedWait_late (.inl late))

end

/-! ### Resynchronising accesses (R115) -/

/-- What two states have in common that differ in what issuing changes. -/
theorem same_of_idle {t u : State} (h : idle t = idle u) :
    t.hart.key = u.hart.key ∧ t.mem = u.mem ∧ t.hart.s = u.hart.s ∧ t.hart.vsync = u.hart.vsync := by
  have key := congrArg (fun v : State => v.hart.key) h
  have mem := congrArg State.mem h
  have regs := congrArg (fun v : State => v.hart.s) h
  have count := congrArg (fun v : State => v.hart.vsync) h
  exact ⟨key, mem, regs, count⟩

theorem wrS_vsync (s : State) (sd : BitVec 5) (v : Dword) : (wrS s sd v).hart.vsync = s.hart.vsync := by
  unfold wrS
  split <;> rfl

/-- R115: a move that waited for the queue is performed once all before it has retired. -/
theorem resync_performed {s : State} {sd : BitVec 5} {n : BitVec 12} (running : s.hart.stage = .running)
    (clear : s.hart.pend = []) (blocked : s.hart.blockedBy = some (.mfc sd n)) (block : s.hart.block = .resync)
    (empty : s.hart.queue = []) (lone : s.hart.x.paired = false) (resync : n.toNat ∈ resyncRegisters) :
    exec .resynchronisingAccess s = exec (.mfc sd n) (withHart s fun h => { h with block := .none, blockedBy := none }) ∧
      Completes .resynchronisingAccess s fun t => t.hart.pc = pcAfter s ∧ t.mem = s.mem ∧
        (sd ≠ 0 → reg t sd = cregVal s.hart n.toNat) ∧ t.hart.vsync = s.hart.vsync + 1 := by
  let s0 := withHart s fun h => { h with block := .none, blockedBy := none }
  have known : n.toNat ∈ controlRegisters := (by decide : ∀ m ∈ resyncRegisters, m ∈ controlRegisters) _ resync
  obtain ⟨⟨t, moves, same, pc⟩, -⟩ := controlRegisterMoves sd 0 n s0 known fun _ => ⟨empty, clear⟩
  have value : cregVal (withHart s0 fun h => { h with vsync := h.vsync + 1 }).hart n.toNat = cregVal s.hart n.toNat := by
    simp only [resyncRegisters, List.mem_cons, List.not_mem_nil, or_false] at resync
    rcases resync with h | h | h <;> rw [h] <;> rfl
  rw [counted, if_pos resync, value] at same pc
  have kept : Kept s (wrS (withHart s0 fun h => { h with vsync := h.vsync + 1 }) sd (cregVal s.hart n.toNat)) :=
    Kept.trans (t := withHart s0 fun h => { h with vsync := h.vsync + 1 }) ⟨rfl, rfl, rfl, rfl⟩ (.wrS _ sd _)
  obtain ⟨key, mem, regs, count⟩ := same_of_idle same
  have resyncs : (Instr.mfc sd n).resync = true := (cregResync_iff n).2 resync
  have picked : pickResync s = some t := by
    refine onHart_focus ?_ (key.trans kept.key)
    simp only [blocked, running, block, drained_eq empty clear, lone, resyncs, decide_true, Bool.and_self, if_true,
      Bool.false_eq_true, if_false]
    exact congrArg (fun o => some (outState o s0)) moves
  have performs : exec .resynchronisingAccess s = .next t := next_picked picked
  refine ⟨performs.trans moves.symm, t, performs, pc.trans (pcAfter_same kept.x kept.pc), mem.trans kept.mem, fun nz => ?_,
    count.trans (wrS_vsync _ _ _)⟩
  rw [reg, regs]
  exact (reg_wrS _ _ _ _).trans (if_pos ⟨rfl, nz⟩)

/-- Settles O31: the waits on barriers and arrivals, those on tickets, and the resynchronising move. -/
theorem waitingInstructionsArePerformed : Obligations.WaitingInstructionsArePerformed := by
  intro s i running clear blocked
  have waits (h : s.hart.inWait i = true) : Waits s i := ⟨running, clear, blocked, h⟩
  refine ⟨fun block plain => ?_, fun block sa sb l tag s1 hi open_ ticket free => ?_, fun block sd sa sb hi late => ?_,
    fun block empty lone sd n hi resync => ?_⟩
  · have w : Waits s i := waits (by simp [Hart.inWait, block])
    have plain' : PlainWait i := by
      obtain ⟨sd, sa, sb, rfl | rfl | rfl | rfl⟩ := plain
      · exact .bar ..
      · exact .bart ..
      · exact .wina ..
      · exact .winat ..
    exact ⟨plainWait_met w plain', fun _ _ _ _ timed limit unmet open_ late => plainWait_late w timed limit unmet open_ late⟩
  · subst hi
    exact tktWait_met (waits (by simp [Hart.inWait, block])) open_ block ticket free
  · subst hi
    exact tktWaitt_late (waits (by rcases block with h | h <;> simp [Hart.inWait, h, isTicket])) late
  · subst hi
    exact resync_performed running clear blocked block empty lone resync

end Sys2Proof.Proofs
end

section
/-! SUPPORT. Events that stop a hart: what its save area and its completion record are made of, where its record comes
back, and each event taken (R117, R118, R308-R312, R340, R341, R360). -/

namespace Sys2Proof.Proofs

open Sys2Proof.Machine Sys2Proof.Safety Sys2Proof.Rules Sys2Proof.Laws

/-! ### Save areas (R312, R316) -/

/-- The states agree about what is stored, and under which keys. -/
structure Stores (s u : State) : Prop where
  mem : s.mem = u.mem
  keys : s.tab.keys = u.tab.keys

theorem Stores.keyTag {s u : State} (h : Stores s u) (k : Nat) : keyTag s k = keyTag u k := by
  simp only [Machine.keyTag, h.keys]

theorem Stores.plainByte {s u : State} (h : Stores s u) : plainByte s = plainByte u := by
  funext t l
  simp only [Machine.plainByte, storedBlock, h.mem]

theorem Stores.memWith {s u : State} (h : Stores s u) (t l : Nat) (bs : List Byte) : memWith s t l bs = memWith u t l bs := by
  simp only [Machine.memWith, storedByte, bytesOver, h.plainByte, h.mem]

theorem useLines_tab (s : State) (cache l n : Nat) : (useLines s cache l n).tab = s.tab := by
  have e := congrArg State.tab (useLines_rest s cache l n)
  exact e

theorem Stores.useLines {s u : State} (h : Stores s u) (cache l n : Nat) : Stores (useLines s cache l n) (useLines u cache l n) :=
  ⟨by rw [useLines_mem, useLines_mem, h.mem], by rw [useLines_tab, useLines_tab, h.keys]⟩

theorem Stores.pokeLoc {s u : State} (h : Stores s u) (t l : Nat) (bs : List Byte) : Stores (pokeLoc s t l bs) (pokeLoc u t l bs) :=
  ⟨h.memWith t l bs, by rw [pokeLoc_tab, pokeLoc_tab, h.keys]⟩

/-- What is written into a save area depends on what is stored alone. -/
theorem Stores.savePut {s u : State} (h : Stores s u) (pages : List SavePage) (off : Nat) (bs : List Byte) :
    Stores (savePut s pages off bs) (savePut u pages off bs) := by
  unfold Machine.savePut
  refine List.foldl_rel h fun i _ v w kept => ?_
  cases pages[off / 4096 + i]? with
  | none => exact kept
  | some p =>
    dsimp only
    generalize (if i = 0 then 0 else (off / 4096 + i) * 4096 - off) = lo, (if i = 0 then off % 4096 else 0) = a
    split_ifs
    · exact kept
    · rw [kept.keyTag]
      exact (kept.useLines _ _ _).pokeLoc _ _ _

theorem Stores.writeRestart {s u : State} (h : Stores s u) (pages : s.hart.job.pages = u.hart.job.pages)
    (queue : s.hart.queue = u.hart.queue) (cause : Nat) (ra : BitVec 48) (tval : Dword) (idx : Nat) :
    (writeRestart s cause ra tval idx).mem = (writeRestart u cause ra tval idx).mem := by
  have entries : recordQueue s.hart = recordQueue u.hart := by rw [recordQueue, queue, recordQueue]
  have bytes : restartBytes s.hart cause ra tval idx = restartBytes u.hart cause ra tval idx := by
    rw [restartBytes, entries, restartBytes]
  rw [Machine.writeRestart, Machine.writeRestart, pages, bytes]
  exact (h.savePut _ _ _).mem

theorem saveHart_disp (s : State) (r : Nat) (im : Bool) (c : Nat) (ra : BitVec 48) (tv : Dword) (ix : Nat) :
    (saveHart s r im c ra tv ix).disp = s.disp := by
  simp only [saveHart, savePut_disp]
  rfl

/-- A save area does not show that its hart was told to stop. -/
theorem Stores.saveHart {s u : State} (h : Stores s u) (hart : s.hart = { u.hart with preempt := false }) (reason : Nat)
    (image : Bool) (cause : Nat) (ra : BitVec 48) (tval : Dword) (idx : Nat) :
    (saveHart s reason image cause ra tval idx).mem = (saveHart u reason image cause ra tval idx).mem := by
  have cut : Stores (cutQueue s) (cutQueue u) := ⟨h.mem, h.keys⟩
  have shown : (cutQueue s).hart = { (cutQueue u).hart with preempt := false } := by
    simp only [cutQueue, updH, hart]
  have restart : restartBytes s.hart cause ra tval idx = restartBytes u.hart cause ra tval idx := by rw [hart]; rfl
  have front : saveFront (cutQueue s).hart reason image = saveFront (cutQueue u).hart reason image := by rw [shown]; rfl
  have vectors : saveVectors (cutQueue s).hart = saveVectors (cutQueue u).hart := by rw [shown]; rfl
  have pages : (cutQueue s).hart.job.pages = (cutQueue u).hart.job.pages := by rw [shown]
  simp only [Machine.saveHart, restart, front, vectors, pages]
  exact (((cut.savePut _ _ _).savePut _ _ _).savePut _ _ _).mem

/-! ### Records depend neither on the hart in focus nor on the service complex -/

section
variable (s : State) (g : Hart) (v : Service)

/-- Another hart stands in focus, and the service complex is another. -/
def withFocus : State := { s with hart := g, svc := v }

theorem walkFrom_withFocus (va : Nat) (k : Kind) (T : Nat) (lvls : List Nat) (tb : Nat) :
    walkFrom (withFocus s g v) va k T lvls tb = walkFrom s va k T lvls tb := by
  induction lvls generalizing tb with
  | nil => rfl
  | cons lvl rest ih =>
    have read : readNat (withFocus s g v) = readNat s := rfl
    have leaf : leafCheck (withFocus s g v) = leafCheck s := rfl
    simp only [walkFrom, read, leaf, ih]

theorem walkWords_withFocus (va : Nat) (lvls : List Nat) (tb : Nat) :
    walkWords (withFocus s g v) va lvls tb = walkWords s va lvls tb := by
  induction lvls generalizing tb with
  | nil => rfl
  | cons lvl rest ih =>
    have read : readNat (withFocus s g v) = readNat s := rfl
    simp only [walkWords, read, ih]

theorem useSlice_withFocus (cache l : Nat) : useSlice (withFocus s g v) cache l = withFocus (useSlice s cache l) g v := by
  unfold useSlice
  split <;> rfl

theorem useLines_withFocus (cache l n : Nat) : useLines (withFocus s g v) cache l n = withFocus (useLines s cache l n) g v :=
  List.foldl_hom (withFocus · g v) fun u _ => useSlice_withFocus u g v cache _

theorem markLeaf_withFocus (k : Kind) (e pa : Nat) :
    markLeaf (withFocus s g v) k e pa = (withFocus (markLeaf s k e pa).1 g v, (markLeaf s k e pa).2) := by
  unfold markLeaf
  dsimp only
  split_ifs <;> rfl

/-- The other hart and service complex stand in what a walk leaves. -/
def WalkDone.withFocus (g : Hart) (v : Service) : WalkDone → WalkDone
  | .entry e u => .entry e (Proofs.withFocus u g v)
  | .host l pa z => .host l pa z
  | .fault c => .fault c

theorem walkNow_withFocus (T va : Nat) (k : Kind) :
    walkNow (withFocus s g v) T va k = WalkDone.withFocus g v (walkNow s T va k) := by
  have walked : walk (withFocus s g v) va k T = walk s va k T := walkFrom_withFocus ..
  have words : ∀ root, walkWords (withFocus s g v) va [0, 1, 2, 3] root = walkWords s va [0, 1, 2, 3] root :=
    walkWords_withFocus s g v va _
  have tab : (withFocus s g v).tab = s.tab := rfl
  unfold walkNow
  rw [walked, tab]
  cases walk s va k T with
  | fault c => rfl
  | leaf e pa size =>
    dsimp only
    rw [words, markLeaf_withFocus]
    have served : ∀ (ws : List Nat) (u : State), ws.foldl (fun s l => useSlice s 0 l) (withFocus u g v) =
        withFocus (ws.foldl (fun s l => useSlice s 0 l) u) g v := fun ws u =>
      List.foldl_hom (withFocus · g v) fun w l => useSlice_withFocus w g v 0 l
    rw [served]
    split_ifs <;> rfl

/-- The other hart and service complex stand in what an agent's translation leaves. -/
def EX.withFocus (g : Hart) (v : Service) : EX → EX
  | .ok e u => .ok e (Proofs.withFocus u g v)
  | .fault c u => .fault c (Proofs.withFocus u g v)
  | .wait u => .wait (Proofs.withFocus u g v)

/-- The other hart and service complex stand in what an agent's access leaves. -/
def AX.withFocus (g : Hart) (v : Service) : AX → AX
  | .ok l t u => .ok l t (Proofs.withFocus u g v)
  | .fault c u => .fault c (Proofs.withFocus u g v)
  | .wait u => .wait (Proofs.withFocus u g v)

theorem askWalk_withFocus (r : WalkReq) : askWalk (withFocus s g v) r = withFocus (askWalk s r) g v := by
  have misses : missesOf (withFocus s g v) = missesOf s := rfl
  have tab : (withFocus s g v).tab = s.tab := rfl
  unfold askWalk
  rw [misses, tab]
  split_ifs <;> rfl

theorem agentEntry_withFocus (a T va : Nat) (k : Kind) :
    agentEntry (withFocus s g v) a T va k = EX.withFocus g v (agentEntry s a T va k) := by
  have misses : missesOf (withFocus s g v) = missesOf s := rfl
  have waiting : waits (withFocus s g v) = waits s := rfl
  have tab : (withFocus s g v).tab = s.tab := rfl
  unfold agentEntry
  simp only [misses, waiting, tab, askWalk_withFocus, walkNow_withFocus]
  cases tlbFind (mapGet [] s.tab.groupTlb (agentGroup a)) T va k with
  | some e => rfl
  | none =>
    dsimp only
    cases s.tab.faults.find? fun f => f.req == { hart := a, tenant := T, va := va / 4096 * 4096, kind := k } with
    | some f => rfl
    | none =>
      dsimp only
      cases walkNow s T va k <;> (dsimp only [WalkDone.withFocus]; split_ifs <;> rfl)

theorem agentXlate_withFocus (a T va n : Nat) (k : Kind) :
    agentXlate (withFocus s g v) a T va n k = AX.withFocus g v (agentXlate s a T va n k) := by
  unfold agentXlate
  rw [agentEntry_withFocus]
  cases agentEntry s a T va k with
  | fault c u => rfl
  | wait u => rfl
  | ok e u =>
    have up : (withFocus u g v).tetherUp = u.tetherUp := rfl
    have place : e.place (withFocus u g v) va = e.place u va := rfl
    dsimp only [EX.withFocus]
    unfold placeOf
    rw [up, place, useLines_withFocus]
    split_ifs <;> rfl

theorem writeLoc_withFocus (t l : Nat) (bs : List Byte) :
    writeLoc (withFocus s g v) t l bs = (writeLoc s t l bs).map (withFocus · g v) := by
  simp only [writeLoc, apply_ite (Option.map (withFocus · g v)), Option.map_none, Option.map_some]
  rfl

theorem writeRecord_withFocus (T va : Nat) (bs : List Byte) :
    writeRecord (withFocus s g v) T va bs = withFocus (writeRecord s T va bs) g v := by
  unfold writeRecord
  rw [agentXlate_withFocus]
  cases agentXlate s recordAgent T va bs.length .write with
  | fault c u => rfl
  | wait u => rfl
  | ok l t u =>
    dsimp only [AX.withFocus]
    rw [writeLoc_withFocus]
    cases writeLoc u t l bs <;> rfl

theorem recordUnrun_withFocus (r : JobRec) (T id index status : Nat) :
    recordUnrun (withFocus s g v) r T id index status = withFocus (recordUnrun s r T id index status) g v := by
  have bytes : jobRecordBytes (withFocus s g v) = jobRecordBytes s := rfl
  unfold recordUnrun
  rw [bytes]
  split_ifs
  · rfl
  · exact writeRecord_withFocus ..
  · exact writeRecord_withFocus ..

theorem reachZero_withFocus (n : Nat) : reachZero (withFocus s g v) n = withFocus (reachZero s n) g v := by
  have ctr : getCtr (withFocus s g v) n = getCtr s n := rfl
  unfold reachZero
  rw [ctr]
  dsimp only
  cases (getCtr s n).copy <;> rfl

theorem counterError_withFocus (n : Nat) : counterError (withFocus s g v) n = withFocus (counterError s n) g v := by
  have ctr : getCtr (withFocus s g v) n = getCtr s n := rfl
  unfold counterError
  rw [ctr]
  dsimp only
  cases (getCtr s n).copy with
  | none => rfl
  | some r => exact recordUnrun_withFocus (setCtr s n _) g v _ _ _ _ _

theorem decOwned_withFocus (n d T : Nat) : decOwned (withFocus s g v) n d T = withFocus (decOwned s n d T) g v := by
  have ctr : getCtr (withFocus s g v) n = getCtr s n := rfl
  have set : ∀ c, setCtr (withFocus s g v) n c = withFocus (setCtr s n c) g v := fun _ => rfl
  unfold decOwned depDecStep
  simp only [ctr, set, reachZero_withFocus, counterError_withFocus]
  split_ifs <;> rfl

/-- R320, R354: the end of a job is recorded whatever hart stands in focus. -/
theorem recordEnd_withFocus (j : Job) (status core hid : Nat) (pc : BitVec 48) (jprog : Dword) :
    recordEnd (withFocus s g v) j status core hid pc jprog = withFocus (recordEnd s j status core hid pc jprog) g v := by
  have bytes : ∀ u, jobRecordBytes (withFocus u g v) = jobRecordBytes u := fun _ => rfl
  unfold recordEnd
  split_ifs
  · simp only [decOwned_withFocus, bytes, writeRecord_withFocus]
  · simp only [bytes, writeRecord_withFocus]

theorem recordEnd_hart (j : Job) (status core hid : Nat) (pc : BitVec 48) (jprog : Dword) :
    (recordEnd s j status core hid pc jprog).hart = s.hart := by
  have e := congrArg State.hart (recordEnd_withFocus s s.hart s.svc j status core hid pc jprog)
  exact e

theorem recordEnd_svc (j : Job) (status core hid : Nat) (pc : BitVec 48) (jprog : Dword) :
    (recordEnd s j status core hid pc jprog).svc = s.svc := by
  have e := congrArg State.svc (recordEnd_withFocus s s.hart s.svc j status core hid pc jprog)
  exact e

/-- The job in focus ends: its end is recorded, and its hart holds none. -/
theorem endFocus_eq (status : Nat) : endFocus s status = dropWalks (withFocus
    (recordEnd s s.hart.job status s.hart.core s.hart.hid s.hart.lastPc s.hart.jprog) s.hart.ended s.svc) s.hart.key := by
  simp only [endFocus, recordEnd_hart]
  have svc := recordEnd_svc s s.hart.job status s.hart.core s.hart.hid s.hart.lastPc s.hart.jprog
  unfold withFocus
  rw [← svc]

end

/-! ### The record a core would bind (R335), and where a record comes back (R341) -/

/-- The earlier of a deadline and those before it. -/
def earlier (m : Option Dword) (d : Dword) : Option Dword :=
  match m with
  | none => some d
  | some e => some (if d.toNat < e.toNat then d else e)

theorem foldl_earlier {l : List Dword} {e d : Dword} : l.foldl earlier (some e) = some d ↔
    (d = e ∨ d ∈ l) ∧ d.toNat ≤ e.toNat ∧ ∀ x ∈ l, d.toNat ≤ x.toNat := by
  induction l generalizing e with
  | nil =>
    simp only [List.foldl_nil, Option.some.injEq, List.not_mem_nil, or_false, false_imp_iff, implies_true, and_true]
    exact ⟨fun h => ⟨h.symm, h ▸ le_rfl⟩, fun h => h.1.symm⟩
  | cons a l ih =>
    rw [List.foldl_cons, earlier, ih, List.forall_mem_cons, List.mem_cons]
    split_ifs with less
    · constructor
      · rintro ⟨at_, le, all⟩
        exact ⟨.inr at_, by omega, le, all⟩
      · rintro ⟨at_, -, le, all⟩
        exact ⟨at_.resolve_left fun h => by subst h; omega, le, all⟩
    · constructor
      · rintro ⟨at_, le, all⟩
        exact ⟨at_.imp_right .inr, le, by omega, all⟩
      · rintro ⟨at_, le, least, all⟩
        refine ⟨?_, le, all⟩
        rcases at_ with same | rfl | at_
        · exact .inl same
        · exact .inl (BitVec.eq_of_toNat_eq (by omega))
        · exact .inr at_

theorem minDword_eq_some_iff {l : List Dword} {d : Dword} :
    minDword l = some d ↔ d ∈ l ∧ ∀ x ∈ l, d.toNat ≤ x.toNat := by
  cases l with
  | nil => simp [minDword]
  | cons a l =>
    have start : minDword (a :: l) = l.foldl earlier (some a) := rfl
    rw [start, foldl_earlier, List.mem_cons, List.forall_mem_cons]

theorem readyHead_eq_some_iff {s : State} {c : Nat} {j : Job} : readyHead s c = some j ↔ FirstReady s c j := by
  unfold readyHead FirstReady
  dsimp only
  generalize (getReady s c).filter (fun x => !x.held) = l
  constructor
  · intro h
    cases least : minDword (l.map fun j => j.deadline s) with
    | none => simp [least] at h
    | some d =>
      simp only [least] at h
      obtain ⟨-, low⟩ := minDword_eq_some_iff.1 least
      obtain ⟨here, a, b, rfl, before⟩ := List.find?_eq_some_iff_append.1 h
      obtain rfl : j.deadline s = d := by simpa using here
      have least : ∀ x ∈ a ++ j :: b, keyOf s j ≤ keyOf s x := fun x at_ => low _ (List.mem_map_of_mem at_)
      refine ⟨a, b, rfl, fun x at_ => lt_of_le_of_ne (least x (by simp [at_])) fun same => ?_, fun x at_ => least x (by simp [at_])⟩
      have equal : x.deadline s = j.deadline s := BitVec.eq_of_toNat_eq same.symm
      simpa [equal] using before x at_
  · rintro ⟨a, b, rfl, before, behind⟩
    have least : minDword ((a ++ j :: b).map fun j => j.deadline s) = some (j.deadline s) := by
      refine minDword_eq_some_iff.2 ⟨List.mem_map_of_mem (f := fun j : Job => j.deadline s) (by simp), fun x at_ => ?_⟩
      obtain ⟨y, here, rfl⟩ := List.mem_map.1 at_
      show keyOf s j ≤ keyOf s y
      rcases List.mem_append.1 here with first | here
      · exact (before y first).le
      · rcases List.mem_cons.1 here with rfl | last
        · exact le_rfl
        · exact behind y last
    simp only [least]
    refine List.find?_eq_some_iff_append.2 ⟨by simp, a, b, rfl, fun x at_ => ?_⟩
    have later : x.deadline s ≠ j.deadline s := fun same => absurd (before x at_) (by
      have : keyOf s x = keyOf s j := congrArg BitVec.toNat same
      omega)
    simpa using later

theorem keyLess_iff {a b : Nat × Nat × Nat} :
    keyLess a b = true ↔ a.1 < b.1 ∨ a.1 = b.1 ∧ (a.2.1 < b.2.1 ∨ a.2.1 = b.2.1 ∧ a.2.2 < b.2.2) := by
  simp [keyLess]

theorem keyLess_key_iff (s : State) (x y : Job) : keyLess (x.key s) (y.key s) = true ↔ Before s x y := by
  have same : x.tree.toNat = y.tree.toNat ↔ x.tree = y.tree := BitVec.toNat_inj
  rw [keyLess_iff, Before, ← same]
  rfl

theorem madeRoom_eq_some_iff {s : State} {c : Nat} {d j : Job} : madeRoom s c j = some d ↔
    FirstReady s c d ∧ keyOf s d = keyOf s j ∧ keyOf s d ≠ 2 ^ 64 - 1 ∧ Before s d j := by
  have best : bestEffort.toNat = 2 ^ 64 - 1 := by decide
  have same : d.deadline s = j.deadline s ↔ keyOf s d = keyOf s j := BitVec.toNat_inj.symm
  have timed : d.deadline s = bestEffort ↔ keyOf s d = 2 ^ 64 - 1 := by rw [← best]; exact BitVec.toNat_inj.symm
  simp only [madeRoom, Option.filter_eq_some_iff, readyHead_eq_some_iff, Bool.and_eq_true, beq_iff_eq, bne_iff_ne, keyLess_key_iff,
    same, ne_eq, timed, and_assoc]

theorem putBehind_eq {d j : Job} {l : List Job} (h : d ∈ l) : ∃ a b, l = a ++ d :: b ∧ d ∉ a ∧ putBehind d j l = a ++ d :: j :: b := by
  induction l with
  | nil => exact absurd h List.not_mem_nil
  | cons e t ih =>
    by_cases same : e = d
    · exact ⟨[], t, by rw [same]; rfl, List.not_mem_nil, by rw [putBehind, if_pos same, same]; rfl⟩
    · obtain ⟨a, b, rfl, new, put⟩ := ih ((List.mem_cons.1 h).resolve_left (Ne.symm same))
      refine ⟨e :: a, b, rfl, fun at_ => (List.mem_cons.1 at_).elim (fun eq => same eq.symm) new, ?_⟩
      rw [putBehind, if_neg same, put]
      rfl

theorem mem_of_firstReady {s : State} {c : Nat} {d : Job} (h : FirstReady s c d) : d ∈ getReady s c := by
  obtain ⟨a, b, l, -⟩ := h
  have here : d ∈ (getReady s c).filter fun x => !x.held := by simp [l]
  exact List.mem_of_mem_filter here

/-- Who comes first in a store is the dispatcher's to say. -/
theorem madeRoom_of_disp {s u : State} (h : s.disp = u.disp) (c : Nat) (j : Job) : madeRoom s c j = madeRoom u c j := by
  simp only [madeRoom, readyHead, getReady, Job.key, Job.deadline, treeDeadline, getTree, h]

theorem getReady_returnReady (s : State) (c : Nat) (j : Job) : getReady (returnReady s c j) c =
    match madeRoom s c j with
    | some d => putBehind d j (getReady s c)
    | none => j :: getReady s c := by
  have e := getReady_setReady s c (match madeRoom s c j with
    | some d => putBehind d j (getReady s c)
    | none => j :: getReady s c)
  exact e

/-- R341: the record of a hart that is put back comes back. -/
theorem comesBack_putBack {s u : State} (disp : u.disp = s.disp) (j : Job) (same : u.hart.job.job = j.job ∧
    u.hart.job.tree = j.tree ∧ u.hart.job.tenant = j.tenant ∧ u.hart.job.record = j.record ∧ u.hart.job.arrival = j.arrival) :
    ComesBack s (putBack u false) u.hart.core j := by
  obtain ⟨job, tree, tenant, record, arrival⟩ := same
  let freed : State := dropWalks { u with hart := u.hart.freed } u.hart.key
  have store : ∀ c, getReady freed c = getReady s c := fun c => congrArg (fun d : Disp => mapGet [] d.ready c) disp
  have back := getReady_returnReady freed u.hart.core u.hart.jobNow
  rw [madeRoom_of_disp (s := freed) (u := s) disp, store] at back
  have key : keyOf s u.hart.jobNow = keyOf s j := congrArg (fun t => (treeDeadline s t).toNat) tree
  have before : ∀ d, Before s d u.hart.jobNow ↔ Before s d j := fun d => by
    unfold Before
    rw [key]
    simp only [Hart.jobNow, tree, arrival]
  have comes : ∀ d, madeRoom s u.hart.core u.hart.jobNow = some d ↔
      FirstReady s u.hart.core d ∧ keyOf s d = keyOf s j ∧ keyOf s d ≠ 2 ^ 64 - 1 ∧ Before s d j := fun d => by
    rw [madeRoom_eq_some_iff, key, before]
  refine ⟨u.hart.jobNow, fun d first => ?_, fun none_ => ?_, job, tree, tenant, record, rfl, rfl, arrival⟩
  · rw [(comes d).2 first] at back
    obtain ⟨a, b, at_, new, put⟩ := putBehind_eq (j := u.hart.jobNow) (mem_of_firstReady first.1)
    exact ⟨a, b, at_, new, back.trans put⟩
  · rw [Option.eq_none_iff_forall_ne_some.2 fun d some_ => none_ d ((comes d).1 some_)] at back
    exact back

/-! ### Where a hart stands -/

theorem finishMop_idle {s : State} (h : NoBegunMop s.hart) : finishMop s = s := by
  have none_ : headIs (updH s fun h => { h with pend := [] }) (fun e => isMop e.instr && e.begun) = false := by
    cases queue : s.hart.queue with
    | nil => simp [headIs, updH, queue]
    | cons e q =>
      have waits : (isMop e.instr && e.begun) = false := by
        cases mop : isMop e.instr with
        | false => rfl
        | true => exact h e q queue mop
      simp only [headIs, updH, queue, waits, Bool.and_false]
  simp only [finishMop, none_, Bool.false_eq_true, if_false]

theorem firstPend_earliest {l : List Pend} {p : Pend} (h : Earliest l p) : firstPend l = some p := by
  obtain ⟨a, b, rfl, before, behind⟩ := h
  refine List.find?_eq_some_iff_append.2 ⟨?_, a, b, rfl, fun x at_ => ?_⟩
  · simp only [List.all_append, List.all_cons, Bool.and_eq_true, List.all_eq_true, decide_eq_true_eq]
    exact ⟨fun x at_ => (before x at_).le, le_rfl, behind⟩
  · simp [before x at_]

theorem canStop_of_atBoundary {h : Hart} (at_ : AtBoundary h) : (canStop h && h.pend.isEmpty) = true := by
  obtain ⟨running, clear, where_⟩ := at_
  rcases where_ with ⟨between, ran⟩ | ⟨i, stands, waits⟩ | full | order | ⟨e, queued, resync⟩
  · simp [canStop, running, clear, between, ran]
  · simp [canStop, running, clear, stands, waits]
  · simp [canStop, running, clear, Block.queued, full]
  · simp [canStop, running, clear, Block.queued, order]
  · have behind : h.queuedResync = true := List.any_eq_true.2 ⟨e, queued, resync⟩
    simp [canStop, running, clear, behind]

theorem key_freshHart (k : Nat) : (freshHart k).key = k := by
  simp only [Hart.key, hartKey, freshHart]
  omega

theorem not_mgmt {s : State} (h : s.hart.core < 96) : s.hart.core ≠ mgmtCore := by
  unfold mgmtCore
  omega

/-! ### Imprecise traps (R117, R118, R308, R310) -/

section
variable {s : State}

theorem posted_returns {p : Posted} (first : s.hart.posted.find? (fun x => x.guard == p.guard) = some p)
    (running : s.hart.stage = .running) :
    exec (if p.guard then .ringGuard else .storeRefusal) s = .next (withHart s fun h =>
      { h with posted := h.posted.erase p, pend := h.pend ++ [⟨none, p.trap, p.order⟩] }) := by
  have picked : pickPosted s p.guard = some (withHart s fun h =>
      { h with posted := h.posted.erase p, pend := h.pend ++ [⟨none, p.trap, p.order⟩] }) :=
    onHart_focus (by simp [running, first, withHart, updH]) rfl
  cases guard : p.guard with
  | true => exact next_picked (guard ▸ picked)
  | false => exact next_picked (guard ▸ picked)

/-- R117, R312: an imprecise trap that the handler takes leaves its restart record. -/
theorem deliver_imprecise {t : Trap} (core : s.hart.core ≠ mgmtCore) (takes : toHandler s.hart t.cause = true)
    (ra : BitVec 48) (idx : Nat) : deliver s t ra true idx =
      let u := updH s fun h => { h with job := { h.job with lastCause := t.cause } }
      enterHandler (cutQueue (writeRestart u t.cause ra t.tval idx)) t.cause t.tval ra true false := by
  unfold deliver
  rw [if_neg core]
  have stays : toHandler (updH s fun h => { h with job := { h.job with lastCause := t.cause } }).hart t.cause = true := takes
  simp only [stays, if_true]

theorem enterHandler_mem (u : State) (cause : Nat) (tval : Dword) (ra : BitVec 48) (imp grace : Bool) :
    (enterHandler u cause tval ra imp grace).mem = u.mem := by
  rw [enterHandler, updH_mem, bumpLink_mem]

/-- A hart whose queue was cut. -/
def Hart.cut (h : Hart) : Hart :=
  { h with
    fcsr := h.queue.foldl (fun f e => fcsrMerge f e.flags) h.fcsr
    queue := []
    mview := h.mmode
    pend := h.pend.filter (fun p => p.entry == none)
    convoy := {} }

theorem cutQueue_eq (u : State) : cutQueue u = updH u Hart.cut := rfl

/-- R118, R312: a handler entered with the queue saved and cut. -/
theorem enterHandler_cut (u : State) (cause rcause : Nat) (tval rtval : Dword) (ra : BitVec 48) (imp grace : Bool) (idx : Nat) :
    let t := enterHandler (cutQueue (writeRestart u rcause ra rtval idx)) cause tval ra imp grace
    t.hart = { (Hart.cut u.hart).fresh with
      linkGen := u.hart.linkGen + 1
      pc := u.hart.tr.tvec
      tr := { u.hart.tr with xpc := ra, tcause := BitVec.ofNat 8 cause, tval := tval, grc := grace, imp := imp, inh := true } } ∧
    t.mem = (writeRestart u rcause ra rtval idx).mem := by
  have hart : (cutQueue (writeRestart u rcause ra rtval idx)).hart = Hart.cut u.hart := by
    rw [cutQueue_eq, updH_hart, Machine.writeRestart, savePut_hart]
  refine ⟨?_, ?_⟩
  · rw [enterHandler_hart, hart]
    rfl
  · rw [enterHandler_mem, cutQueue_eq, updH_mem]

theorem imprecise_taken {p : Pend} (core : s.hart.core < 96) (running : s.hart.stage = .running)
    (first : Earliest s.hart.pend p) (calm : NoBegunMop s.hart) :
    Completes .impreciseTrap s fun t =>
      t.hart.queue = [] ∧
      (HandlerTakes s.hart p.trap.cause →
        t.hart.pc = s.hart.tr.tvec ∧ t.hart.stage = .running ∧ t.hart.s = s.hart.s ∧ t.hart.tr = { s.hart.tr with
          xpc := s.hart.pc, tcause := BitVec.ofNat 8 p.trap.cause, tval := p.trap.tval, grc := false, imp := true, inh := true } ∧
        t.mem = (writeRestart s p.trap.cause s.hart.pc p.trap.tval (p.entry.getD 63)).mem) ∧
      (¬ HandlerTakes s.hart p.trap.cause →
        t.hart.stage = .service ∧ t.hart.pc = s.hart.pc ∧
        (s.svc.events.length < 1024 → t.svc.events = s.svc.events ++ [.trap s.hart.job.job]) ∧
        (1024 ≤ s.svc.events.length → t.svc.events = s.svc.events ∧ t.svc.held = s.svc.held ++ [.trap s.hart.job.job])) := by
  let u : State := dropWalks (updH s fun h => { h with pend := h.pend.erase p }) s.hart.key
  let t := deliver u p.trap s.hart.pc true (p.entry.getD 63)
  have taken : takePend s = some t := by
    unfold takePend
    rw [if_neg (by simp [running]), firstPend_earliest first]
    simp only [finishMop_idle calm, ite_self]
    rfl
  by_cases takes : HandlerTakes s.hart p.trap.cause
  · have t_eq := deliver_imprecise (s := u) (t := p.trap) (not_mgmt core) ((handlerTakes_iff _ _).1 takes) s.hart.pc (p.entry.getD 63)
    obtain ⟨hart, mem⟩ := enterHandler_cut (updH u fun h => { h with job := { h.job with lastCause := p.trap.cause } })
      p.trap.cause p.trap.cause p.trap.tval p.trap.tval s.hart.pc true false (p.entry.getD 63)
    rw [← t_eq] at hart mem
    refine ⟨t, next_picked (onHart_focus taken ?_), ?_, fun _ => ⟨?_, ?_, ?_, ?_, ?_⟩, fun other => absurd takes other⟩
    · exact (congrArg Hart.key hart).trans rfl
    · exact (congrArg Hart.queue hart).trans rfl
    · exact (congrArg Hart.pc hart).trans rfl
    · exact (congrArg Hart.stage hart).trans running
    · exact (congrArg Hart.s hart).trans rfl
    · exact (congrArg Hart.tr hart).trans rfl
    · refine mem.trans (Stores.writeRestart ?_ ?_ ?_ _ _ _ _)
      · exact ⟨rfl, rfl⟩
      · rfl
      · rfl
  · have other := (not_handlerTakes_iff _ _).1 takes
    have hart : t.hart = atService u.hart p.trap.cause s.hart.pc :=
      deliver_service_hart (s := u) (t := p.trap) (not_mgmt core) other s.hart.pc true (p.entry.getD 63)
    have svc : t.svc = (withEvent u (.trap s.hart.job.job)).svc :=
      (deliver_service (s := u) (t := p.trap) (not_mgmt core) other s.hart.pc true (p.entry.getD 63)).1
    refine ⟨t, next_picked (onHart_focus taken ?_), ?_, fun now => absurd now takes, fun _ => ⟨?_, ?_, ?_, ?_⟩⟩
    · exact (congrArg Hart.key hart).trans rfl
    · exact (congrArg Hart.queue hart).trans rfl
    · exact (congrArg Hart.stage hart).trans rfl
    · exact (congrArg Hart.pc hart).trans rfl
    · rw [svc]
      exact fun room => (withEvent_room (s := u) room _).1
    · rw [svc]
      exact fun full => withEvent_full (s := u) full _

/-! ### Pre-emption (R340, R341) -/

theorem countEv_disp (u : State) (c : Nat) (h : Option Nat) (ev n : Nat) : (countEv u c h ev n).disp = u.disp := by
  have e := congrArg State.disp (countEv_rest u c h ev n)
  exact e

theorem putBack_mem (u : State) : (putBack u false).mem = u.mem := rfl

theorem putBack_stage (u : State) : (putBack u false).hart.stage = .free := rfl

theorem putBack_key (u : State) : (putBack u false).hart.key = u.hart.key := key_freshHart _

/-- The hart in focus as pre-emption finds it. -/
def toStop (s : State) : State := countEv (updH s fun h => { h with preempt := false }) s.hart.core none 0x13 1

theorem toStop_hart : (toStop s).hart = { s.hart with preempt := false } := countEv_hart ..

theorem toStop_disp : (toStop s).disp = s.disp := countEv_disp ..

theorem toStop_stores : Stores (toStop s) s := ⟨countEv_mem .., congrArg Tables.keys (countEv_tab ..)⟩

theorem preemptNow_eq (calm : NoBegunMop s.hart) : preemptNow s =
    if s.hart.stage = .service then (if s.hart.expiry.isSome then expireFocus (toStop s) else putBack (toStop s) false)
    else if treeAbandoned s s.hart.job.tree then expireFocus (toStop s)
    else putBack (saveHart (toStop s) 1 false 0 s.hart.pc 0 63) false := by
  have calm' : finishMop (updH s fun h => { h with preempt := false }) = updH s fun h => { h with preempt := false } :=
    finishMop_idle calm
  have tree : treeAbandoned (toStop s) = treeAbandoned s := by
    funext id
    simp only [treeAbandoned, getTree, toStop_disp]
  have stop : countEv (updH s fun h => { h with preempt := false }) s.hart.core none 0x13 1 = toStop s := rfl
  simp only [preemptNow, calm', updH_hart, stop, tree, toStop_hart]

theorem preempted {t : State} (flagged : s.hart.preempt = true) (kept : s.hart.core ∉ s.disp.reclaims)
    (stops : s.hart.stage = .service ∨ AtBoundary s.hart) (now : preemptNow s = t) (key : t.hart.key = s.hart.key) :
    exec .preemption s = .next t := by
  have may : (s.hart.stage == .service || canStop s.hart && s.hart.pend.isEmpty) = true := by
    rcases stops with held | at_
    · simp [held]
    · rw [canStop_of_atBoundary at_, Bool.or_true]
  have picked : pickFlagged s = some t := onHart_focus (by simp [flagged, kept, may, now]) key
  exact next_picked (by rw [pickPreempt, picked]; rfl)

theorem preemption_returns (flagged : s.hart.preempt = true) (kept : s.hart.core ∉ s.disp.reclaims) (calm : NoBegunMop s.hart) :
    let returned (t : State) : Prop := t.hart.stage = .free ∧ ComesBack s t s.hart.core s.hart.job
    (AtBoundary s.hart → treeAbandoned s s.hart.job.tree = false → Completes .preemption s fun t =>
      returned t ∧ t.mem = (saveHart s 1 false 0 s.hart.pc 0 63).mem) ∧
    (s.hart.stage = .service → s.hart.expiry = none → Completes .preemption s fun t => returned t ∧ t.mem = s.mem) := by
  have eq := preemptNow_eq calm
  refine ⟨fun at_ live => ?_, fun held open_ => ?_⟩
  · rw [if_neg (by simp [at_.1]), if_neg (by simp [live])] at eq
    have hart : (saveHart (toStop s) 1 false 0 s.hart.pc 0 63).hart = Hart.cut { s.hart with preempt := false } := by
      rw [saveHart_hart, cutQueue_eq, updH_hart, toStop_hart]
    have back := comesBack_putBack (s := s) ((saveHart_disp (toStop s) 1 false 0 s.hart.pc 0 63).trans toStop_disp) s.hart.job
      (by rw [hart]; exact ⟨rfl, rfl, rfl, rfl, rfl⟩)
    have core := congrArg Hart.core hart
    have key := congrArg Hart.key hart
    rw [core] at back
    exact ⟨_, preempted flagged kept (.inr at_) eq ((putBack_key _).trans key), ⟨putBack_stage _, back⟩,
      (putBack_mem _).trans (toStop_stores.saveHart toStop_hart ..)⟩
  · rw [if_pos held, if_neg (by simp [open_])] at eq
    have back := comesBack_putBack (s := s) toStop_disp s.hart.job (by rw [toStop_hart]; exact ⟨rfl, rfl, rfl, rfl, rfl⟩)
    have core := congrArg Hart.core (toStop_hart (s := s))
    have key := congrArg Hart.key (toStop_hart (s := s))
    rw [core] at back
    exact ⟨_, preempted flagged kept (.inl held) eq ((putBack_key _).trans key),
      ⟨putBack_stage _, back⟩, (putBack_mem _).trans toStop_stores.mem⟩

/-! ### Expiry, and the end of grace (R311, R320, R360) -/

/-- R354: the exit counter does not act on an expiry. -/
theorem recordEnd_expired (j : Job) (core hid : Nat) (pc : BitVec 48) (jprog : Dword) : recordEnd s j 3 core hid pc jprog =
    writeRecord s j.tenant j.record.compl.toNat
      (jobRecordBytes s j.job.toNat core j.tenant 3 hid j.lastCause pc.toNat jprog.toNat) := by
  have counts : exitCounts 3 = false := rfl
  simp only [recordEnd, counts, Bool.false_and, Bool.false_eq_true, if_false]

theorem jobRecordBytes_eq (id index tenant status hid cause pc jprog : Nat) :
    jobRecordBytes s id index tenant status hid cause pc jprog = dwords
      [id * 2 ^ 32 + index * 2 ^ 24 + tenant * 2 ^ 16 + 1 * 2 ^ 8 + status, hid * 2 ^ 56 + cause * 2 ^ 48 + pc, jprog,
        s.time.now.toNat] := by
  simp only [dwords, List.flatMap_cons, List.flatMap_nil, List.append_nil, jobRecordBytes, List.append_assoc]
  rfl

/-- What an expiry finds. -/
def expiring (s : State) : Hart :=
  { s.hart with expiry := none, preempt := false, job := { s.hart.job with lastCause := 0x30 } }

theorem expireNow_eq (calm : NoBegunMop s.hart) (v : Dword) : expireNow v s =
    let u := withFocus (dropWalks s s.hart.key) (expiring s) s.svc
    if s.hart.job.record.graceful && s.hart.tr.tvec != 0 && !s.hart.tr.inh && !s.disp.reclaims.contains s.hart.core then
      updH (enterHandler (cutQueue (writeRestart u 0 s.hart.pc 0 63)) 0x30 v s.hart.pc false true) fun h => { h with
        stage := .running, debugHeld := false, graceEnd := some (v.toNat + 1000 * h.job.record.grace) }
    else endFocus u 3 := by
  rw [expireNow, finishMop_idle calm]
  rfl

theorem endFocus_hart (status : Nat) : (endFocus s status).hart = s.hart.ended := by
  rw [endFocus_eq]
  rfl

theorem endFocus_key (status : Nat) : (endFocus s status).hart.key = s.hart.key := by
  rw [endFocus_hart]
  exact key_freshHart _

theorem expiry_taken {v : Dword} {t : State} (at_ : AtBoundary s.hart ∨ s.hart.stage = .halted) (due : s.hart.expiry = some v)
    (now : expireNow v s = t) (key : t.hart.key = s.hart.key) : exec .expiry s = .next t := by
  have stops : (s.hart.stage == .halted || canStop s.hart && s.hart.pend.isEmpty) = true := by
    rcases at_ with boundary | halted
    · rw [canStop_of_atBoundary boundary, Bool.or_true]
    · simp [halted]
  exact next_picked (onHart_focus (by simp only [due, stops, if_true, now]) key)

theorem expiry_ends {v : Dword} (at_ : AtBoundary s.hart ∨ s.hart.stage = .halted) (due : s.hart.expiry = some v)
    (calm : NoBegunMop s.hart) :
    let grace := s.hart.job.record.policy = true ∧ s.hart.job.record.grace ≠ 0 ∧ s.hart.tr.tvec ≠ 0 ∧ s.hart.tr.inh = false ∧
      s.hart.core ∉ s.disp.reclaims
    (grace → Completes .expiry s fun t =>
      t.hart.pc = s.hart.tr.tvec ∧ t.hart.queue = [] ∧ t.hart.expiry = none ∧
      t.hart.graceEnd = some (v.toNat + 1000 * s.hart.job.record.grace) ∧ t.hart.tr = { s.hart.tr with
        xpc := s.hart.pc, tcause := 0x30, tval := v, grc := true, imp := false, inh := true } ∧
      t.mem = (writeRestart s 0 s.hart.pc 0 63).mem) ∧
    (¬ grace → Completes .expiry s fun t => t.hart.stage = .free ∧ t.hart.width = 0 ∧
      t.mem = (writeRecord (dropWalks s s.hart.key) s.hart.job.tenant s.hart.job.record.compl.toNat (dwords
        [s.hart.job.job.toNat * 2 ^ 32 + s.hart.core * 2 ^ 24 + s.hart.job.tenant * 2 ^ 16 + 1 * 2 ^ 8 + 3,
          s.hart.hid * 2 ^ 56 + 0x30 * 2 ^ 48 + s.hart.lastPc.toNat, s.hart.jprog.toNat, s.time.now.toNat])).mem) := by
  intro grace
  have graces : (s.hart.job.record.graceful && s.hart.tr.tvec != 0 && !s.hart.tr.inh && !s.disp.reclaims.contains s.hart.core) =
      true ↔ grace := by
    simp only [grace, JobRec.graceful, Bool.and_eq_true, bne_iff_ne, Bool.not_eq_true', List.contains_eq_mem,
      decide_eq_false_iff_not, and_assoc]
  have eq := expireNow_eq calm v
  dsimp only at eq
  refine ⟨fun now => ?_, fun none_ => ?_⟩
  · rw [if_pos (graces.2 now)] at eq
    obtain ⟨hart, mem⟩ := enterHandler_cut (withFocus (dropWalks s s.hart.key) (expiring s) s.svc) 0x30 0 v 0 s.hart.pc false true 63
    dsimp only at hart
    refine ⟨_, expiry_taken at_ due eq ?_, ?_, ?_, ?_, ?_, ?_, ?_⟩
    case refine_7 =>
      rw [updH_mem, mem]
      refine Stores.writeRestart ?_ ?_ ?_ _ _ _ _
      · exact ⟨rfl, rfl⟩
      · rfl
      · rfl
    all_goals rw [updH_hart, hart]; rfl
  · rw [if_neg (graces.not.2 none_)] at eq
    refine ⟨_, expiry_taken at_ due eq (endFocus_key 3), ?_, ?_, ?_⟩
    · rw [endFocus_hart]; rfl
    · rw [endFocus_hart]; rfl
    · rw [endFocus_eq, recordEnd_expired, jobRecordBytes_eq, writeRecord_withFocus]; rfl

theorem grace_ends {l : Nat} (end_ : s.hart.graceEnd = some l) (due : l ≤ s.time.now.toNat) :
    (s.hart.stage = .running → exec .graceEnd s = .next (withHart s fun h =>
      { h with graceEnd := none, expiry := some h.tr.tval, ranSince := false })) ∧
    (s.hart.stage = .halted ∨ s.hart.stage = .service → exec .graceEnd s = .next
      (endFocus (withHart s fun h => { h with job := { h.job with lastCause := 0x30 } }) 3)) := by
  have ends : ∀ t, graceOver s = some t → t.hart.key = s.hart.key → exec .graceEnd s = .next t := fun t now key =>
    next_picked (by rw [pickGraceEnd, onHart_focus now key]; rfl)
  have late : l ≤ s.nowNs := due
  refine ⟨fun running => ends _ ?_ rfl, fun stopped => ends _ ?_ (endFocus_key 3)⟩
  · simp [graceOver, end_, late, running, withHart, updH]
  · rcases stopped with stage | stage <;> simp [graceOver, end_, late, stage, expireFocus, withHart, updH]

end

/-- Settles O39: each kind of event that stops a hart, in the order of the statement. -/
theorem eventsStopAHart : Obligations.EventsStopAHart := fun _ core _ =>
  ⟨fun _ => posted_returns, fun _ => imprecise_taken core, preemption_returns, fun _ => expiry_ends, fun _ => grace_ends⟩

end Sys2Proof.Proofs
end

section
/-! SUPPORT. Jobs that bind to lane blocks: the hart a job is bound to, what it finds there, and the reservation and the
start of a gang (R110, R315, R316, R335, R336, R344, R345). -/

namespace Sys2Proof.Proofs

open Sys2Proof.Machine Sys2Proof.Safety Sys2Proof.Rules Sys2Proof.Laws

/-! ### Harts by their numbers -/

theorem getHart_eq (s : State) (k : Nat) :
    getHart s k = if s.hart.key = k then s.hart else mapGet (freshHart k) s.others k := by
  have found : ∀ l : SMap Hart, (match l.find? (fun p => p.1 == k) with | some p => p.2 | none => freshHart k) =
      mapGet (freshHart k) l k := by
    intro l
    induction l with
    | nil => rfl
    | cons p t ih =>
      by_cases at_ : p.1 = k
      · simp [mapGet, at_]
      · simp [mapGet, at_, ih]
  unfold getHart
  split_ifs with at_
  · rfl
  · exact found _

theorem focusOn_hart (s : State) (k : Nat) : (focusOn s k).hart = getHart s k := by
  unfold focusOn
  split_ifs with at_
  · rw [getHart, if_pos at_]
  · rfl

/-- Moving the focus changes where harts stand in the state alone. -/
theorem focusOn_rest (s : State) (k : Nat) : { focusOn s k with hart := s.hart, others := s.others } = s := by
  unfold focusOn
  split_ifs <;> rfl

theorem focusOn_disp (s : State) (k : Nat) : (focusOn s k).disp = s.disp := by
  have e := congrArg State.disp (focusOn_rest s k)
  exact e

theorem focusOn_mem (s : State) (k : Nat) : (focusOn s k).mem = s.mem := by
  have e := congrArg State.mem (focusOn_rest s k)
  exact e

theorem focusOn_tab (s : State) (k : Nat) : (focusOn s k).tab = s.tab := by
  have e := congrArg State.tab (focusOn_rest s k)
  exact e

/-- The hart that was in focus is found under its number. -/
theorem getHart_focusOn {s : State} {k : Nat} (place : (getHart s k).key = k) :
    getHart (focusOn s k) s.hart.key = s.hart := by
  by_cases at_ : s.hart.key = k
  · rw [focusOn, if_pos at_, getHart, if_pos rfl]
  · rw [getHart_eq, if_neg (by rw [focusOn_hart, place]; exact Ne.symm at_)]
    simp only [focusOn, if_neg at_]
    rw [mapGet_erase_other _ _ at_]
    simp only [putOther]
    split_ifs with fresh
    · rw [mapGet_erase_same, ← fresh]
    · exact mapGet_insert_same _ _ _ _ (by simp [mapErase])

/-- What is done with a hart that keeps its number is found under that number. -/
theorem getHart_atHart {s : State} {k : Nat} {f : State → State} (place : (getHart s k).key = k)
    (others : (f (focusOn s k)).others = (focusOn s k).others) (key : (f (focusOn s k)).hart.key = k) :
    getHart (atHart s k f) k = (f (focusOn s k)).hart := by
  have back : (getHart (f (focusOn s k)) s.hart.key).key = s.hart.key := by
    rw [getHart_eq, key]
    split_ifs with same
    · rw [key, same]
    · have stands := getHart_focusOn place
      rw [getHart_eq, if_neg (by rw [focusOn_hart, place]; exact same), ← others] at stands
      rw [stands]
  have found := getHart_focusOn back
  rwa [key] at found

/-! ### What leaves the harts, the dispatcher, the service complex and the time as they were -/

/-- Harts, dispatcher, service complex and time are as they were. -/
structure Settled (s u : State) : Prop where
  hart : u.hart = s.hart
  others : u.others = s.others
  disp : u.disp = s.disp
  svc : u.svc = s.svc
  time : u.time = s.time

theorem Settled.refl (s : State) : Settled s s := ⟨rfl, rfl, rfl, rfl, rfl⟩

theorem Settled.trans {s t u : State} (h : Settled s t) (g : Settled t u) : Settled s u :=
  ⟨g.hart.trans h.hart, g.others.trans h.others, g.disp.trans h.disp, g.svc.trans h.svc, g.time.trans h.time⟩

theorem Settled.getHart {s u : State} (h : Settled s u) (k : Nat) : getHart u k = getHart s k := by
  rw [getHart_eq, getHart_eq, h.hart, h.others]

theorem Settled.foldl {α : Type} {f : State → α → State} (each : ∀ s a, Settled s (f s a)) (l : List α) (s : State) :
    Settled s (l.foldl f s) := by
  induction l generalizing s with
  | nil => exact .refl s
  | cons a l ih => exact (each s a).trans (ih (f s a))

theorem Settled.useSlice (s : State) (cache l : Nat) : Settled s (useSlice s cache l) := by
  unfold Machine.useSlice
  split_ifs <;> exact ⟨rfl, rfl, rfl, rfl, rfl⟩

theorem Settled.useLines (s : State) (cache l n : Nat) : Settled s (useLines s cache l n) :=
  .foldl (fun u _ => .useSlice u cache _) _ _

theorem Settled.useSave (s : State) (pages : List SavePage) (off n : Nat) : Settled s (useSave s pages off n) := by
  refine .foldl (fun u p => ?_) _ _
  dsimp only
  generalize max off (4096 * p.2) = lo, min (off + n) (4096 * p.2 + 4096) = hi
  split_ifs
  · exact .useLines u _ _ _
  · exact .refl u

theorem Settled.savePut (s : State) (pages : List SavePage) (off : Nat) (bs : List Byte) :
    Settled s (savePut s pages off bs) := by
  have others := congrArg State.others (savePut_rest s pages off bs)
  have time := congrArg State.time (savePut_rest s pages off bs)
  exact ⟨savePut_hart s pages off bs, others, savePut_disp s pages off bs, savePut_svc s pages off bs, time⟩

theorem Settled.clearValid (s : State) (pages : List SavePage) : Settled s (clearValid s pages) := by
  unfold Machine.clearValid
  dsimp only
  split_ifs
  · exact .savePut _ _ _ _
  · exact .refl s

theorem Settled.acquire (s : State) (core : Nat) : Settled s (acquire s core) := by
  unfold Machine.acquire
  split_ifs <;> exact ⟨rfl, rfl, rfl, rfl, rfl⟩

theorem acquire_mem (s : State) (core : Nat) : (acquire s core).mem = s.mem := by
  unfold acquire
  split_ifs <;> rfl

theorem Settled.markLeaf (s : State) (k : Kind) (e pa : Nat) : Settled s (markLeaf s k e pa).1 := by
  unfold Machine.markLeaf
  dsimp only
  generalize (if bit e 4 = true then e else e + 16) = e1
  generalize (if (k = .write && !bit e1 5) = true then e1 + 32 else e1) = e2
  split_ifs
  · exact .refl s
  · exact ⟨rfl, rfl, rfl, rfl, rfl⟩

theorem Settled.walkNow {s u : State} {T va : Nat} {k : Kind} {e : TlbEntry} (h : walkNow s T va k = .entry e u) : Settled s u := by
  unfold Machine.walkNow at h
  cases walked : walk s va k T with
  | fault c => simp [walked] at h
  | leaf l pa size =>
    simp only [walked] at h
    split_ifs at h
    obtain ⟨-, rfl⟩ := WalkDone.entry.inj h
    exact (Settled.markLeaf s k l pa).trans (.foldl (fun v _ => .useSlice v 0 _) _ _)

theorem Settled.translateSave (s : State) (T : Nat) (l : List Nat) : Settled s (translateSave s T l).2 := by
  induction l generalizing s with
  | nil => exact .refl s
  | cons va rest ih =>
    unfold Machine.translateSave
    cases walked : Machine.walkNow s T va .write with
    | fault c => exact .refl s
    | host l pa z => exact .refl s
    | entry e u =>
      dsimp only
      split_ifs
      · exact (Settled.walkNow walked).trans (ih u)
      · exact Settled.walkNow walked

/-! ### The hart a job is bound to (R110, R315) -/

/-- The hart in focus with a job that begins or resumes on it. -/
def seated (s : State) (j : Job) : Hart :=
  let h := { s.hart.freed with linkGen := s.hart.linkGen }
  if j.ran then resumedHart s h j else startHart s h j

theorem bumpLink_settled (s : State) : (bumpLink s).others = s.others ∧ (bumpLink s).disp = s.disp := by
  have others := congrArg State.others (bumpLink_rest s)
  have disp := congrArg State.disp (bumpLink_rest s)
  exact ⟨others, disp⟩

/-- The state in which the job stands on its hart. -/
theorem occupy_eq (s : State) (j : Job) : ∃ u, Settled (updH s fun _ => seated s j) u ∧ occupy s j = bumpLink u ∧
    (j.ran = false → u.mem = s.mem) := by
  unfold occupy seated
  cases j.ran with
  | false => exact ⟨_, .acquire _ _, rfl, fun _ => acquire_mem _ _⟩
  | true => exact ⟨_, ((Settled.useSave _ _ _ _).trans (.clearValid _ _)).trans (.acquire _ _), rfl, fun h => by simp at h⟩

theorem occupy_hart (s : State) (j : Job) : (occupy s j).hart = { seated s j with linkGen := (seated s j).linkGen + 1 } := by
  obtain ⟨u, kept, eq, -⟩ := occupy_eq s j
  rw [eq, bumpLink_hart, kept.hart]
  rfl

theorem occupy_others (s : State) (j : Job) : (occupy s j).others = s.others := by
  obtain ⟨u, kept, eq, -⟩ := occupy_eq s j
  rw [eq, (bumpLink_settled u).1, kept.others]
  rfl

theorem occupy_disp (s : State) (j : Job) : (occupy s j).disp = s.disp := by
  obtain ⟨u, kept, eq, -⟩ := occupy_eq s j
  rw [eq, (bumpLink_settled u).2, kept.disp]
  rfl

theorem occupy_mem {s : State} {j : Job} (new : j.ran = false) : (occupy s j).mem = s.mem := by
  obtain ⟨u, -, eq, mem⟩ := occupy_eq s j
  rw [eq, bumpLink_mem, mem new]

theorem seated_key (s : State) (j : Job) : (seated s j).key = s.hart.key := by
  unfold seated
  split_ifs <;> exact key_freshHart _

/-- The hart with its next link generation. -/
def newLink (h : Hart) : Hart := { h with linkGen := h.linkGen + 1 }

theorem occupy_seated (s : State) (j : Job) : (occupy s j).hart = newLink (seated s j) := occupy_hart s j

theorem occupy_key (s : State) (j : Job) : (occupy s j).hart.key = s.hart.key := by
  have same : (newLink (seated s j)).key = (seated s j).key := rfl
  rw [occupy_seated, same, seated_key]

section
variable {s : State} {k : Nat}

/-- A job bound to a hart that stands under its own number. -/
theorem getHart_occupied (place : (getHart s k).key = k) (j : Job) :
    getHart (atHart s k fun s => occupy s j) k = newLink (seated (focusOn s k) j) := by
  have key : (occupy (focusOn s k) j).hart.key = k := by rw [occupy_key, focusOn_hart, place]
  rw [getHart_atHart (f := fun s => occupy s j) place (occupy_others _ _) key, occupy_seated]

theorem occupied_disp (j : Job) : (atHart s k fun s => occupy s j).disp = s.disp := by
  rw [atHart, focusOn_disp, occupy_disp, focusOn_disp]

theorem occupied_mem {j : Job} (new : j.ran = false) : (atHart s k fun s => occupy s j).mem = s.mem := by
  rw [atHart, focusOn_mem, occupy_mem new, focusOn_mem]

end

/-! ### What the job finds (R110, R315) -/

/-- Entries of the default value need not stand in a table. -/
theorem mapGet_filter_default {α : Type} [DecidableEq α] (d : α) {m : SMap α} (distinct : (m.map Prod.fst).Nodup) (k : Nat) :
    mapGet d (m.filter fun p => p.2 != d) k = mapGet d m k := by
  induction m with
  | nil => rfl
  | cons p t ih =>
    obtain ⟨new, rest⟩ := List.nodup_cons.1 distinct
    by_cases at_ : p.1 = k
    · by_cases default : p.2 = d
      · have gone : ∀ q ∈ t, q.1 ≠ k := fun q here same => new (at_ ▸ same ▸ List.mem_map_of_mem here)
        simp [mapGet, at_, default, ih rest, mapGet_absent d gone]
      · simp [mapGet, at_, default]
    · by_cases default : p.2 = d <;> simp [mapGet, at_, default, ih rest]

theorem startHart_begins (s : State) (h : Hart) (j : Job) (pages : List SavePage) (b : Nat) :
    Begins s j (newLink (startHart s { h.freed with linkGen := h.linkGen } { j with pages := pages, hid := b })) := by
  refine ⟨rfl, rfl, rfl, fun r => ?_, rfl, rfl, rfl, rfl, rfl, rfl, rfl, rfl, rfl, rfl, rfl, rfl, Nat.mul_comm _ _, rfl, rfl, rfl, rfl⟩
  refine (mapGet_filter_default 0 (m := [(1, j.record.a0), (2, j.record.a1), (3, j.record.a2), (4, j.record.a3),
    (5, BitVec.ofNat 64 j.rank), (6, BitVec.ofNat 64 j.size), (7, j.job.zeroExtend 64)]) (by simp) r).trans ?_
  match r with
  | 0 | 1 | 2 | 3 | 4 | 5 | 6 | 7 => rfl
  | n + 8 => simp [mapGet]

theorem Stores.saveGet {s u : State} (h : Stores s u) (pages : List SavePage) (off n : Nat) :
    saveGet s pages off n = saveGet u pages off n := by
  have tag : Machine.keyTag s = Machine.keyTag u := funext h.keyTag
  simp only [Machine.saveGet, h.plainByte, tag]

theorem Stores.saveDword {s u : State} (h : Stores s u) (pages : List SavePage) (off : Nat) :
    saveDword s pages off = saveDword u pages off := congrArg natOfBytes (h.saveGet pages off 8)

theorem mapGet_tabulated {α : Type} (d : α) (f : Nat → α) {l : List Nat} {r : Nat} (here : r ∈ l) :
    mapGet d (l.map fun i => (i, f i)) r = f r := by
  induction l with
  | nil => exact absurd here List.not_mem_nil
  | cons i l ih =>
    by_cases same : i = r
    · simp [mapGet, same]
    · simp [mapGet, same, ih ((List.mem_cons.1 here).resolve_left (Ne.symm same))]

theorem mapGet_savedRegs {b : Nat} (s : State) (pages : List SavePage) (off bytes : Nat) {n r : Nat} (low : r < n) :
    mapGet 0 (savedRegs (b := b) s pages off n bytes) r =
      BitVec.ofNat b (natOfBytes (saveGet s pages (off + bytes * r) bytes)) := by
  have distinct : (((List.range n).map fun i => (i, BitVec.ofNat b (natOfBytes (saveGet s pages (off + bytes * i) bytes)))).map
      Prod.fst).Nodup := by
    rw [List.map_map]
    exact (List.map_id _).symm ▸ List.nodup_range
  exact (mapGet_filter_default 0 distinct r).trans (mapGet_tabulated 0 _ (List.mem_range.2 low))

theorem resumedHart_resumes {s u : State} (kept : Stores u s) (h : Hart) (j : Job) (b : Nat) :
    Resumes s j (newLink (resumedHart u { h.freed with linkGen := h.linkGen } { j with hid := b })) := by
  have dword : ∀ off, saveDword u j.pages off = saveDword s j.pages off := kept.saveDword j.pages
  unfold Resumes newLink resumedHart
  dsimp only
  refine ⟨rfl, rfl, ?_, fun r low high => ?_, ?_, ?_, ?_, ?_, fun r high => ?_, rfl, rfl, rfl, rfl, ?_, rfl⟩
  · rw [dword]
  · refine (mapGet_filter 0 _ (fun i => i != 0) (bne_iff_ne.2 (by omega))).trans ?_
    rw [mapGet_savedRegs _ _ _ _ high, kept.saveGet]
    rfl
  · rw [savedCreg, dword]
  · simp only [savedTr, savedCreg, dword]
  · simp only [savedTr, savedCreg, dword]
  · rw [savedLen, savedCreg, dword]
  · refine (mapGet_savedRegs _ _ _ _ high).trans ?_
    rw [kept.saveGet]
  · rw [dword, bit, beq_iff_eq]

/-! ### Binding (R335, R336) -/

section
variable {s s1 : State} {c b : Nat} {j : Job} {pages : List SavePage}

theorem key_inPlace {s : State} {c b : Nat} (h : InPlace s c b) : (getHart s (8 * c + b)).key = 8 * c + b := by
  obtain ⟨core, hid⟩ := h
  rw [Hart.key, core, hid, hartKey]

/-- R110, R336: a job that begins binds once its save area is translated. -/
theorem bindFrom_begins (place : InPlace s c b) (new : j.ran = false) (area : SaveArea s j pages s1) (index : Nat) :
    let t := bindFrom s index c b j
    Begins s j (getHart t (8 * c + b)) ∧ t.disp = s.disp ∧ t.mem = s1.mem ∧
      (getHart t (8 * c + b)).linkGen = (getHart s (8 * c + b)).linkGen + 1 := by
  have settled := Settled.translateSave s j.tenant ((List.range (savePages j.record.width)).map fun i => j.record.save.toNat + 4096 * i)
  have area' : translateSave s j.tenant ((List.range (savePages j.record.width)).map fun i => j.record.save.toNat + 4096 * i) =
      (some pages, s1) := area
  rw [area'] at settled
  replace settled : Settled s s1 := settled
  have stands : getHart s1 (8 * c + b) = getHart s (8 * c + b) := settled.getHart _
  have key : (getHart s1 (8 * c + b)).key = 8 * c + b := by rw [stands, key_inPlace place]
  have t_eq : bindFrom s index c b j = atHart s1 (8 * c + b) fun s => occupy s { j with pages := pages, hid := b } := by
    simp only [bindFrom, new, Bool.false_eq_true, if_false, area']
    rfl
  have hart : getHart (bindFrom s index c b j) (8 * c + b) =
      newLink (startHart (focusOn s1 (8 * c + b)) { (getHart s (8 * c + b)).freed with linkGen := (getHart s (8 * c + b)).linkGen }
        { j with pages := pages, hid := b }) := by
    rw [t_eq, getHart_occupied key, seated, focusOn_hart, stands]
    simp only [new, Bool.false_eq_true, if_false]
  have trees : treeDeadline (focusOn s1 (8 * c + b)) j.tree = treeDeadline s j.tree := by
    simp only [treeDeadline, getTree, focusOn_disp, settled.disp]
  have start : ∀ h, startHart (focusOn s1 (8 * c + b)) h { j with pages := pages, hid := b } =
      startHart s h { j with pages := pages, hid := b } := fun h => by
    simp only [startHart, trees]
  refine ⟨?_, ?_, ?_, ?_⟩
  · rw [hart, start]
    exact startHart_begins s _ j pages b
  · rw [t_eq, occupied_disp, settled.disp]
  · rw [t_eq]
    exact occupied_mem new
  · rw [hart]
    rfl

/-- R315: a job that has run binds with what its save area holds. -/
theorem bindFrom_resumes (place : InPlace s c b) (ran : j.ran = true) (index : Nat) :
    let t := bindFrom s index c b j
    Resumes s j (getHart t (8 * c + b)) ∧ t.disp = s.disp := by
  have t_eq : bindFrom s index c b j = atHart s (8 * c + b) fun s => occupy s { j with hid := b } := if_pos ran
  refine ⟨?_, ?_⟩
  · rw [t_eq, getHart_occupied (key_inPlace place), seated, focusOn_hart]
    simp only [ran, if_true]
    exact resumedHart_resumes ⟨focusOn_mem s _, congrArg Tables.keys (focusOn_tab s _)⟩ (getHart s (8 * c + b)) j b
  · rw [t_eq, occupied_disp]

theorem bindable_none (empty : getReady s c = []) (ran : Bool) : bindable s c ran = none := by
  simp [bindable, readyHead, empty, minDword]

theorem bindable_some (may : MayBind s c j) (free : (freeBlocks s c j.record.width).head? = some b) :
    bindable s c j.ran = some (j, b) := by
  obtain ⟨-, -, alive, kept, lent, first, live, early⟩ := may
  have open_ : (!j.ran && (mapGet none s.disp.lending c).isSome) = false := by
    cases ran : j.ran with
    | true => rfl
    | false => simp [lent ran]
  have time : ¬ (j.deadline s).toNat ≤ s.nowNs := Nat.not_le.2 early
  simp [bindable, alive, kept, readyHead_eq_some_iff.2 first, live, open_, time, free]

/-- The cores before one, and those behind it. -/
theorem cores_eq (low : c < 96) :
    List.range 96 = List.range c ++ c :: (List.range (95 - c)).map (fun i => c + (i + 1)) := by
  rw [show 96 = c + (95 - c + 1) by omega, List.range_add, List.range_succ_eq_map, List.map_cons, List.map_map]
  simp

/-- R335: the first core that can bind a record does. -/
theorem pickBind_eq (may : MayBind s c j) (free : (freeBlocks s c j.record.width).head? = some b) :
    pickBind s j.ran = some (bindFrom (setReady s c ((getReady s c).erase j)) c c b j) := by
  obtain ⟨low, before, -⟩ := id may
  refine List.findSome?_eq_some_iff.2 ⟨_, c, _, cores_eq low, ?_, fun d below => ?_⟩
  · rw [bindable_some may free]
    rfl
  · rw [bindable_none (before d (List.mem_range.1 below))]
    rfl

theorem jobs_bind (place : InPlace s c b) (may : MayBind s c j) (free : (freeBlocks s c j.record.width).head? = some b) :
    (j.ran = false → SaveArea (setReady s c ((getReady s c).erase j)) j pages s1 → Completes .jobBind s fun t =>
      Begins s j (getHart t (8 * c + b)) ∧ getReady t c = (getReady s c).erase j ∧ t.mem = s1.mem ∧
      (getHart t (8 * c + b)).linkGen = (getHart s (8 * c + b)).linkGen + 1) ∧
    (j.ran = true → Completes .resume s fun t =>
      Resumes s j (getHart t (8 * c + b)) ∧ getReady t c = (getReady s c).erase j) := by
  have picked := pickBind_eq may free
  have place' : InPlace (setReady s c ((getReady s c).erase j)) c b := place
  have store : ∀ t : State, t.disp = (setReady s c ((getReady s c).erase j)).disp → getReady t c = (getReady s c).erase j :=
    fun t disp => (congrArg (fun d : Disp => mapGet [] d.ready c) disp).trans (getReady_setReady s c _)
  refine ⟨fun new area => ?_, fun ran => ?_⟩
  · rw [new] at picked
    obtain ⟨begins, disp, mem, gen⟩ := bindFrom_begins place' new area c
    exact ⟨_, next_picked picked, begins, store _ disp, mem, gen⟩
  · rw [ran] at picked
    obtain ⟨resumes, disp⟩ := bindFrom_resumes place' ran c
    exact ⟨_, next_picked picked, resumes, store _ disp⟩

end

/-! ### Gangs (R344, R345) -/

section
variable {s s1 : State} {g : GangReq} {rest : List GangReq} {c b : Nat} {pages : List SavePage}

theorem maskCores_two_pow (low : c < 96) : maskCores (2 ^ c) = [c] := by
  have named : ∀ i, bit (2 ^ c) i = decide (c = i) := fun i => by
    rw [← Nat.testBit_two_pow, Nat.testBit_eq_decide_div_mod_eq, bit]
    exact Bool.beq_eq_decide_eq _ _
  have before : (List.range c).filter (fun i => decide (c = i)) = [] := by
    simp only [List.filter_eq_nil_iff, List.mem_range, decide_eq_true_eq]
    omega
  have behind : ((List.range (95 - c)).map fun i => c + (i + 1)).filter (fun i => decide (c = i)) = [] := by
    simp
  simp only [maskCores, named]
  rw [cores_eq low, List.filter_append, before, List.filter_cons_of_pos (by simp), behind, List.nil_append]

/-- The oldest request stands at the head of its tenant's queue. -/
theorem headGangs_first (first : s.disp.gangs = g :: rest) : ∃ l, headGangs s = g :: l := by
  simp [headGangs, first]

theorem gangOpen_single (mask : g.mask = 2 ^ c) (low : c < 96) (tenant : currentTenant s c = g.tenant)
    (stays : mapGet none s.disp.lending c = none) (kept : c ∉ s.disp.reclaims) : gangOpen s g = true := by
  simp [gangOpen, mask, maskCores_two_pow low, tenant, stays, kept]

theorem gang_reserves (first : s.disp.gangs = g :: rest) (mask : g.mask = 2 ^ c) (low : c < 96) (open_ : gangOpen s g = true)
    (early : s.time.now.toNat < (treeDeadline s g.tree).toNat) (none_ : g.held = []) (alive : coreDead s c = false)
    (free : (freeBlocks s c g.record.width).head? = some b) (others : ∀ x ∈ rest, x.arrival ≠ g.arrival) :
    exec .gangReservation s = .next { s with disp := { s.disp with gangs := { g with held := [(c, b)] } :: rest } } := by
  obtain ⟨l, heads⟩ := headGangs_first first
  have time : s.nowNs < (treeDeadline s g.tree).toNat := early
  have blocks : reservable s g = [(c, b)] := by
    simp [reservable, open_, time, mask, maskCores_two_pow low, none_, alive, free]
  have unmoved : rest.map (fun x => if x.arrival = g.arrival then { g with held := [(c, b)] } else x) = rest :=
    (List.map_congr_left fun x here => if_neg (others x here)).trans (List.map_id _)
  have picked : pickReserve s = some { s with disp := { s.disp with gangs := { g with held := [(c, b)] } :: rest } } := by
    simp [pickReserve, heads, blocks, putGang, first, none_, unmoved]
  exact next_picked picked

theorem memberRecord_zero (r : JobRec) : memberRecord r 0 = r := by
  have compl : (if r.compl = 0 then 0 else r.compl + BitVec.ofNat 48 (32 * 0)) = r.compl := by
    split_ifs with none_
    · exact none_.symm
    · exact BitVec.add_zero _
  have save : r.save + BitVec.ofNat 48 (4096 * savePages r.width * 0) = r.save := BitVec.add_zero _
  simp only [memberRecord, compl, save]

theorem gang_starts {id : BitVec 32} (first : s.disp.gangs = g :: rest) (mask : g.mask = 2 ^ c) (low : c < 96)
    (open_ : gangOpen s g = true) (early : s.time.now.toNat < (treeDeadline s g.tree).toNat) (place : InPlace s c b)
    (held : g.held = [(c, b)]) (ids : g.ids = [id]) (others : ∀ x ∈ rest, x.arrival ≠ g.arrival) :
    let m : Job := { record := g.record, tenant := g.tenant, tree := g.tree, job := id, arrival := g.arrival,
                     rank := 0, size := 1 }
    SaveArea { s with disp := { s.disp with gangs := rest } } m pages s1 →
    Completes .gangStart s fun t => Begins s m (getHart t (8 * c + b)) ∧ t.disp.gangs = rest := by
  intro m area
  obtain ⟨l, heads⟩ := headGangs_first first
  have time : s.nowNs < (treeDeadline s g.tree).toNat := early
  have left : rest.filter (fun x => x.arrival != g.arrival) = rest :=
    List.filter_eq_self.2 fun x here => bne_iff_ne.2 (others x here)
  have picked : pickGangStart s = some (bindFrom { s with disp := { s.disp with gangs := rest } } 255 c b m) := by
    simp [pickGangStart, heads, open_, time, mask, maskCores_two_pow low, held, first, left, startMember, ids, memberRecord_zero, m]
  have place' : InPlace { s with disp := { s.disp with gangs := rest } } c b := place
  obtain ⟨begins, disp, -⟩ := bindFrom_begins place' rfl area 255
  exact ⟨_, next_picked picked, begins, congrArg Disp.gangs disp⟩

end

/-- Settles O40: jobs that begin and resume, and a gang of one core. -/
theorem jobsBindToLaneBlocks : Obligations.JobsBindToLaneBlocks := fun _ _ _ _ _ _ =>
  ⟨fun may place free => jobs_bind place may free, fun _ _ first mask low tenant stays kept early =>
    have open_ := gangOpen_single mask low tenant stays kept
    ⟨fun none_ alive free others => gang_reserves first mask low open_ early none_ alive free others,
      fun _ place held ids others => gang_starts first mask low open_ early place held ids others⟩⟩

end Sys2Proof.Proofs
end

section
/-! SUPPORT. Traps at the service complex: the job that goes on or ends, and the services of `svc` (R413, R464, R465). -/

namespace Sys2Proof.Proofs

open Sys2Proof.Machine Sys2Proof.Safety Sys2Proof.Rules Sys2Proof.Laws

/-! ### Results and notices (R452, R464, R465) -/

theorem bit_eq_testBit (x i : Nat) : bit x i = x.testBit i := by
  rw [Nat.testBit_eq_decide_div_mod_eq, bit]
  exact Bool.beq_eq_decide_eq _ _

theorem putResult_eq (s : State) (f : Nat) (seq : BitVec 32) (op status : Nat) (r0 r1 : Dword) (time : Nat) :
    putResult s f seq op status r0 r1 time = withResult s f seq op status r0 r1 time := by
  have phase : b2n (Config.firstPhase != bit (getFn s f).resTail.toNat (getFn s f).order) =
      if Config.firstPhase = (getFn s f).resTail.toNat.testBit (getFn s f).order then 0 else 1 := by
    rw [bit_eq_testBit]
    by_cases same : Config.firstPhase = (getFn s f).resTail.toNat.testBit (getFn s f).order <;> simp [same, b2n]
  simp only [putResult, withResult, phase, dwords, List.flatMap_cons, List.flatMap_nil, List.append_nil, List.append_assoc]
  rfl

/-- A notice's status is not given; it is one byte. -/
theorem notice_eq (s : State) (f op : Nat) (seq : Option (BitVec 32)) (r0 r1 : Dword) : ∃ q st, st < 256 ∧
    (∀ x, seq = some x → q = x) ∧
    notice s f op seq r0 r1 = withResult { s with free := s.free + 2 } f q op st r0 r1 s.time.now.toNat :=
  ⟨_, (Config.freeValue (s.free + 1)).toNat % 256, Nat.mod_lt _ (by decide), fun _ h => by rw [h]; rfl, putResult_eq ..⟩

/-! ### The end of a job takes no time -/

/-- The state an agent's translation leaves. -/
def EX.state : EX → State
  | .ok _ u | .fault _ u | .wait u => u

/-- The state an agent's access leaves. -/
def AX.state : AX → State
  | .ok _ _ u | .fault _ u | .wait u => u

theorem askWalk_time (s : State) (r : WalkReq) : (askWalk s r).time = s.time := by
  have e := congrArg State.time (askWalk_rest s r)
  exact e

theorem agentEntry_time (s : State) (a T va : Nat) (k : Kind) : (EX.state (agentEntry s a T va k)).time = s.time := by
  unfold agentEntry
  dsimp only
  cases tlbFind (mapGet [] s.tab.groupTlb (agentGroup a)) T va k with
  | some e => rfl
  | none =>
    dsimp only
    cases s.tab.faults.find? fun f => f.req == { hart := a, tenant := T, va := va / 4096 * 4096, kind := k } with
    | some f => rfl
    | none =>
      dsimp only
      cases walked : walkNow s T va k with
      | entry e u =>
        dsimp only
        split_ifs
        · rfl
        · exact askWalk_time s _
        · exact (Settled.walkNow walked).time
      | fault c =>
        dsimp only
        split_ifs
        · rfl
        · exact askWalk_time s _
        · rfl
      | host l pa z =>
        dsimp only
        split_ifs
        · rfl
        · exact askWalk_time s _
        · rfl
        · rfl

theorem agentXlate_time (s : State) (a T va n : Nat) (k : Kind) : (AX.state (agentXlate s a T va n k)).time = s.time := by
  have kept := agentEntry_time s a T va k
  unfold agentXlate
  cases found : agentEntry s a T va k with
  | fault c u => exact (found ▸ kept : (EX.state (.fault c u)).time = s.time)
  | wait u => exact (found ▸ kept : (EX.state (.wait u)).time = s.time)
  | ok e u =>
    have same : u.time = s.time := (found ▸ kept : (EX.state (.ok e u)).time = s.time)
    dsimp only
    unfold placeOf
    split_ifs
    · exact same
    · exact (Settled.useLines u _ _ _).time.trans same

theorem writeRecord_time (s : State) (T va : Nat) (bs : List Byte) : (writeRecord s T va bs).time = s.time := by
  have kept := agentXlate_time s recordAgent T va bs.length .write
  unfold writeRecord
  cases found : agentXlate s recordAgent T va bs.length .write with
  | fault c u => exact (found ▸ kept : (AX.state (.fault c u)).time = s.time)
  | wait u => exact (found ▸ kept : (AX.state (.wait u)).time = s.time)
  | ok l t u =>
    have same : u.time = s.time := (found ▸ kept : (AX.state (.ok l t u)).time = s.time)
    dsimp only
    unfold writeLoc
    dsimp only
    split_ifs <;> exact same

theorem decOwned_time (s : State) (n d T : Nat) : (decOwned s n d T).time = s.time := by
  have zero : ∀ u : State, (reachZero u n).time = u.time := fun u => by
    unfold reachZero
    dsimp only
    cases (getCtr u n).copy <;> rfl
  have error : ∀ u : State, (counterError u n).time = u.time := fun u => by
    unfold counterError
    dsimp only
    cases (getCtr u n).copy with
    | none => rfl
    | some r =>
      dsimp only
      unfold recordUnrun
      split_ifs
      · rfl
      · exact writeRecord_time _ _ _ _
      · exact writeRecord_time _ _ _ _
  unfold decOwned depDecStep
  dsimp only
  split_ifs
  · exact zero _
  · rfl
  · rfl
  · exact error s
  · rfl

theorem recordEnd_time (s : State) (j : Job) (status core hid : Nat) (pc : BitVec 48) (jprog : Dword) :
    (recordEnd s j status core hid pc jprog).time = s.time := by
  unfold recordEnd
  dsimp only
  rw [writeRecord_time]
  split_ifs
  · exact decOwned_time _ _ _ _
  · rfl

/-! ### The oldest event (R449) -/

theorem nextSvc_head {s : State} {e : SvcEvent} {rest : List SvcEvent} (idle : SvcIdle s) (first : s.svc.events = e :: rest) :
    nextSvc s = some e := by
  obtain ⟨up, booted, c, low, free⟩ := idle
  have open_ : (s.svc.restarting || s.svc.boot < 3) = false := by simp [up, Nat.not_lt.2 booted]
  have found : (idleService s).isSome = true := by
    unfold idleService
    rw [if_neg (by simpa using open_), List.find?_isSome]
    exact ⟨c, List.mem_range.2 low, by simpa using free⟩
  rw [nextSvc, if_pos found, first]
  rfl

theorem eventTaken_dropEvent {s : State} {e : SvcEvent} {rest : List SvcEvent} (first : s.svc.events = e :: rest) :
    EventTaken s (dropEvent s) rest := by
  refine ⟨?_, rfl⟩
  simp only [dropEvent, first]
  rfl

/-! ### What is stored does not show the rest -/

theorem Stores.refl (s : State) : Stores s s := ⟨rfl, rfl⟩

theorem Stores.trans {s t u : State} (h : Stores s t) (g : Stores t u) : Stores s u :=
  ⟨h.mem.trans g.mem, h.keys.trans g.keys⟩

theorem useSave_stores (s : State) (pages : List SavePage) (off n : Nat) : Stores (useSave s pages off n) s := by
  unfold useSave
  generalize pages.zipIdx = l
  induction l generalizing s with
  | nil => exact .refl s
  | cons p l ih =>
    refine (ih _).trans ?_
    dsimp only
    generalize max off (4096 * p.2) = lo, min (off + n) (4096 * p.2 + 4096) = hi
    split_ifs
    · exact ⟨useLines_mem _ _ _ _, congrArg Tables.keys (useLines_tab _ _ _ _)⟩
    · exact .refl s

/-- R315: what clearing the valid bit of the restart record leaves. -/
theorem Stores.clearValid {s u : State} (h : Stores s u) (pages : List SavePage) : (clearValid s pages).mem =
    (let d := Machine.saveDword u pages 0x400
     if d / 2 ^ 16 % 2 = 1 then Machine.savePut u pages 0x400 (bytesOfNat 8 (d - 2 ^ 16)) else u).mem := by
  have valid : bit (Machine.saveDword s pages 0x400) 16 = true ↔ Machine.saveDword u pages 0x400 / 2 ^ 16 % 2 = 1 := by
    rw [h.saveDword, bit, beq_iff_eq]
  simp only [Machine.clearValid, valid]
  split_ifs
  · rw [h.saveDword]
    exact (h.savePut _ _ _).mem
  · exact h.mem

theorem occupy_svc (s : State) (j : Job) : (occupy s j).svc = s.svc := by
  obtain ⟨u, kept, eq, -⟩ := occupy_eq s j
  have links := congrArg State.svc (bumpLink_rest u)
  rw [eq]
  exact links.trans kept.svc

theorem occupy_resumed_mem {s u : State} (h : Stores s u) {j : Job} (ran : j.ran = true) : (occupy s j).mem =
    (let d := saveDword u j.pages 0x400
     if d / 2 ^ 16 % 2 = 1 then savePut u j.pages 0x400 (bytesOfNat 8 (d - 2 ^ 16)) else u).mem := by
  unfold occupy
  simp only [ran, if_true, bumpLink_mem, acquire_mem]
  refine ((useSave_stores _ _ _ _).trans (u := u) ?_).clearValid _
  exact ⟨h.mem, h.keys⟩

/-! ### The job that goes on (R360, R464) -/

/-- The job in focus is let go. -/
def unheld (s : State) : State := updH s fun h => { h with job := { h.job with held := false, page := [] } }

section
variable {s u w : State}

theorem heldHart_focus (stage : u.hart.stage = .service) (held : u.hart.job.held = true) :
    heldHart u u.hart.job.job = some u.hart.key := by
  have here : getHart u u.hart.key = u.hart := if_pos rfl
  simp [heldHart, hartKeys, here, stage, held]

theorem heldJob_focus (stage : u.hart.stage = .service) (held : u.hart.job.held = true) :
    heldJob u u.hart.job.job = some u.hart.job := by
  have here : getHart u u.hart.key = u.hart := if_pos rfl
  simp only [heldJob, heldHart_focus stage held, here]

/-- What is done with the hart in focus leaves it there. -/
theorem atHart_focus {f : State → State} (key : (f u).hart.key = u.hart.key) : atHart u u.hart.key f = f u := by
  rw [atHart, focusOn_focus rfl, focusOn_focus key]

/-- The hart as it goes on in place: its expiry and its grace stay. -/
def goesOnAs (h g : Hart) : Hart := { h with expiry := g.expiry, graceEnd := g.graceEnd }

theorem seated_ran {j : Job} (ran : j.ran = true) :
    seated u j = resumedHart u { u.hart.freed with linkGen := u.hart.linkGen } j := by
  simp only [seated, ran, if_true]

theorem resumes_goesOnAs {j : Job} {h g : Hart} (r : Resumes w j h) : Resumes w j (goesOnAs h g) := r

theorem resumes_unheld {h : Hart} (r : Resumes w (unheld u).hart.jobNow h) : Resumes w u.hart.jobNow h := r

theorem resumeHere_hart (u : State) : (resumeHere u).hart = goesOnAs (newLink (seated u u.hart.jobNow)) u.hart := by
  rw [resumeHere, updH_hart, occupy_seated]
  rfl

theorem resumeHere_key (u : State) : (resumeHere u).hart.key = u.hart.key := by
  have same : ∀ h g, (goesOnAs (newLink h) g).key = h.key := fun _ _ => rfl
  rw [resumeHere_hart, same, seated_key]

/-- R360, R464: where a job that is let go goes on. -/
def letGo (s : State) : State :=
  if treeAbandoned s s.hart.job.tree then resumeHere (unheld s) else putBack (unheld s) false

theorem letGo_key (u : State) : (letGo u).hart.key = u.hart.key := by
  have same : (unheld u).hart.key = u.hart.key := rfl
  unfold letGo
  split_ifs
  · rw [resumeHere_key, same]
  · rw [putBack_key, same]

theorem repairJob_focus (stage : u.hart.stage = .service) (held : u.hart.job.held = true) :
    repairJob u u.hart.job.job = letGo u := by
  simp only [repairJob, heldHart_focus stage held]
  refine (atHart_focus ?_).trans ?_
  · exact letGo_key u
  · rfl

theorem putBack_svc (u : State) : (putBack u false).svc = u.svc := rfl

theorem mem_putBehind {d j x : Job} {l : List Job} (h : x ∈ putBehind d j l) : x ∈ l ∨ x = j := by
  induction l with
  | nil => exact .inr (List.mem_singleton.1 h)
  | cons e t ih =>
    rw [putBehind] at h
    split_ifs at h
    · simp only [List.mem_cons] at h ⊢
      tauto
    · rcases List.mem_cons.1 h with rfl | later
      · exact .inl List.mem_cons_self
      · exact (ih later).imp_left (List.mem_cons_of_mem e)

/-- A store that a record comes back into holds nothing else that is new. -/
theorem mem_putBack {x : Job} (h : x ∈ getReady (putBack u false) u.hart.core) :
    x ∈ getReady u u.hart.core ∨ x = u.hart.jobNow := by
  have back := getReady_returnReady (dropWalks { u with hart := u.hart.freed } u.hart.key) u.hart.core u.hart.jobNow
  have h' : x ∈ getReady (returnReady (dropWalks { u with hart := u.hart.freed } u.hart.key) u.hart.core u.hart.jobNow)
      u.hart.core := h
  rw [back] at h'
  split at h'
  · exact mem_putBehind h'
  · exact (List.mem_cons.1 h').symm

/-- R464: the record of a job that is let go comes back, and is ready. -/
theorem letGo_back (hart : u.hart = s.hart) (disp : u.disp = s.disp) (live : treeAbandoned s s.hart.job.tree = false) :
    (letGo u).hart.stage = .free ∧ ComesBack s (letGo u) s.hart.core s.hart.job ∧
      (∀ x ∈ getReady (letGo u) s.hart.core, x ∈ getReady s s.hart.core ∨ x.held = false) ∧
      (letGo u).mem = u.mem ∧ (letGo u).svc = u.svc := by
  have tree : treeAbandoned u u.hart.job.tree = false := by
    rw [← live, hart]
    simp only [treeAbandoned, getTree, disp]
  have eq : letGo u = putBack (unheld u) false := if_neg (by rw [tree]; decide)
  have store : getReady (unheld u) s.hart.core = getReady s s.hart.core :=
    congrArg (fun d : Disp => mapGet [] d.ready s.hart.core) disp
  have core : (unheld u).hart.core = s.hart.core := by rw [← hart]; rfl
  have back := comesBack_putBack (s := s) (u := unheld u) disp s.hart.job (by rw [← hart]; exact ⟨rfl, rfl, rfl, rfl, rfl⟩)
  rw [core] at back
  rw [eq]
  refine ⟨rfl, back, fun x here => ?_, rfl, rfl⟩
  rw [← core] at here
  rcases mem_putBack here with old | rfl
  · rw [core, store] at old
    exact .inl old
  · exact .inr rfl

/-- R360: a job of an abandoned tree that is let go goes on where it is. -/
theorem letGo_goesOn (hart : u.hart = s.hart) (disp : u.disp = s.disp) (stores : Stores u w)
    (gone : treeAbandoned s s.hart.job.tree = true) :
    Resumes w s.hart.jobNow (letGo u).hart ∧ (letGo u).hart.expiry = s.hart.expiry ∧
      (letGo u).hart.graceEnd = s.hart.graceEnd ∧
      (letGo u).mem = (let d := saveDword w s.hart.job.pages 0x400
        if d / 2 ^ 16 % 2 = 1 then savePut w s.hart.job.pages 0x400 (bytesOfNat 8 (d - 2 ^ 16)) else w).mem ∧
      (letGo u).svc = u.svc := by
  have tree : treeAbandoned u u.hart.job.tree = true := by
    rw [← gone, hart]
    simp only [treeAbandoned, getTree, disp]
  have eq : letGo u = resumeHere (unheld u) := if_pos tree
  have stands : (letGo u).hart = goesOnAs (newLink (seated (unheld u) (unheld u).hart.jobNow)) (unheld u).hart := by
    rw [eq, resumeHere_hart]
  have kept : Stores (unheld u) w := ⟨stores.mem, stores.keys⟩
  have ran : (unheld u).hart.jobNow.ran = true := rfl
  have pages : (unheld u).hart.jobNow.pages = s.hart.job.pages := by rw [← hart]; rfl
  refine ⟨?_, ?_, ?_, ?_, ?_⟩
  · rw [stands, seated_ran ran, ← hart]
    exact resumes_goesOnAs (resumes_unheld (resumedHart_resumes kept (unheld u).hart (unheld u).hart.jobNow _))
  · rw [stands, ← hart]
    rfl
  · rw [stands, ← hart]
    rfl
  · rw [eq, resumeHere, updH_mem, occupy_resumed_mem kept ran, pages]
  · rw [eq, resumeHere, updH_svc, occupy_svc]
    rfl

end

/-! ### The oldest trap is taken (R449, R464) -/

section
variable {s u w : State} {j : Job} {rest : List SvcEvent} {cause tval : Nat}

/-- R464: the hart in focus stands at the service complex with the oldest event there, its trap. -/
structure Trapped (s : State) (j : Job) (rest : List SvcEvent) (cause tval : Nat) : Prop where
  idle : SvcIdle s
  first : s.svc.events = .trap j.job :: rest
  stage : s.hart.stage = .service
  job : s.hart.job = j
  held : j.held = true
  cause : saveDword s j.pages 0x400 / 256 % 256 = cause
  tval : saveDword s j.pages 0x410 = tval

theorem trapped_of (h : TrapOf s j rest cause tval) : Trapped s j rest cause tval := by
  obtain ⟨idle, first, stage, job, held, -, -, cause_, tval_⟩ := h
  exact ⟨idle, first, stage, job, held, cause_, tval_⟩

theorem dropEvent_stores (s : State) : Stores (dropEvent s) s := ⟨rfl, rfl⟩

theorem Trapped.trap (h : Trapped s j rest cause tval) {u : State} (kept : Stores u s) : heldTrap u j = (cause, tval) := by
  rw [heldTrap, kept.saveDword, kept.saveDword, h.tval, ← h.cause]
  rfl

theorem Trapped.picked (h : Trapped s j rest cause tval) {p : Nat → Nat → Bool} {act : State → Job → State}
    (row : p cause tval = true) : pickTrap s p act = some (act (dropEvent s) j) := by
  have trap := h.trap (Stores.refl s)
  obtain ⟨idle, first, stage, rfl, held⟩ := h
  have found : heldJob s s.hart.job.job = some s.hart.job := heldJob_focus stage held
  simp only [pickTrap, nextSvc_head idle first, found, trap, row, if_true]

theorem Trapped.repaired (h : Trapped s j rest cause tval) (hart : u.hart = s.hart) : repairJob u j.job = letGo u := by
  obtain ⟨-, -, stage, rfl, held⟩ := h
  rw [← hart] at stage held ⊢
  exact repairJob_focus stage held

theorem Trapped.taken (h : Trapped s j rest cause tval) : EventTaken s (dropEvent s) rest := eventTaken_dropEvent h.first

/-- What the service complex does to a job before it lets it go. -/
structure Attended (s u : State) : Prop where
  hart : u.hart = s.hart
  disp : u.disp = s.disp
  events : u.svc.events = (dropEvent s).svc.events
  held : u.svc.held = (dropEvent s).svc.held

theorem Trapped.eventTaken (h : Trapped s j rest cause tval) (done : Attended s u) : EventTaken s u rest := by
  obtain ⟨events, held⟩ := h.taken
  exact ⟨done.events.trans events, done.held.trans held⟩

theorem Attended.dropEvent (s : State) : Attended s (dropEvent s) := ⟨rfl, rfl, rfl, rfl⟩

theorem Attended.putS1 (done : Attended s u) (j : Job) (v : Dword) : Attended s (putS1 u j v) :=
  ⟨(savePut_hart _ _ _ _).trans done.hart, (savePut_disp _ _ _ _).trans done.disp,
    (congrArg Service.events (savePut_svc _ _ _ _)).trans done.events,
    (congrArg Service.held (savePut_svc _ _ _ _)).trans done.held⟩

/-- R464: the trap's job comes back into its ready store. -/
def Back (s t : State) (j : Job) (rest : List SvcEvent) : Prop :=
  EventTaken s t rest ∧ t.hart.stage = .free ∧ ComesBack s t s.hart.core j ∧
    ∀ x ∈ getReady t s.hart.core, x ∈ getReady s s.hart.core ∨ x.held = false

/-- R360: the trap's job goes on where it is, with what the save area then holds. -/
def GoesOn (s t u : State) (j : Job) (rest : List SvcEvent) : Prop :=
  EventTaken s t rest ∧ Resumes u s.hart.jobNow t.hart ∧ t.hart.expiry = s.hart.expiry ∧
    t.hart.graceEnd = s.hart.graceEnd ∧ t.mem = (let d := saveDword u j.pages 0x400
      if d / 2 ^ 16 % 2 = 1 then savePut u j.pages 0x400 (bytesOfNat 8 (d - 2 ^ 16)) else u).mem

theorem Trapped.back (h : Trapped s j rest cause tval) (done : Attended s u) (live : treeAbandoned s j.tree = false) :
    Back s (repairJob u j.job) j rest ∧ (repairJob u j.job).mem = u.mem ∧ (repairJob u j.job).svc = u.svc := by
  have row := h.repaired done.hart
  have taken := h.eventTaken done
  obtain rfl := h.job
  obtain ⟨free, back, ready, mem, svc⟩ := letGo_back done.hart done.disp live
  rw [row]
  refine ⟨⟨?_, free, back, ready⟩, mem, svc⟩
  rw [EventTaken, svc]
  exact taken

theorem Trapped.goesOn (h : Trapped s j rest cause tval) (done : Attended s u) (stores : Stores u w)
    (gone : treeAbandoned s j.tree = true) :
    GoesOn s (repairJob u j.job) w j rest ∧ (repairJob u j.job).svc = u.svc := by
  have row := h.repaired done.hart
  have taken := h.eventTaken done
  obtain rfl := h.job
  obtain ⟨resumes, expiry, grace, mem, svc⟩ := letGo_goesOn done.hart done.disp stores gone
  rw [row]
  refine ⟨⟨?_, resumes, expiry, grace, mem⟩, svc⟩
  rw [EventTaken, svc]
  exact taken

/-! ### The services of `svc` (R465) -/

theorem serve_eq (u : State) (j : Job) (v : Dword) : serve u j v = repairJob (putS1 u j v) j.job := rfl

/-- What a service answers. -/
def answer (w : State) (j : Job) (v : Dword) : State := savePut w j.pages 0x208 (bytesOfNat 8 v.toNat)

/-- R465: a service row, given what it does before it writes `s1`. -/
theorem Trapped.served (h : Trapped s j rest cause tval) (done : Attended s u) (stores : Stores u w) (v : Dword) :
    (treeAbandoned s j.tree = false → Back s (serve u j v) j rest ∧ (serve u j v).mem = (answer w j v).mem) ∧
    (treeAbandoned s j.tree = true → GoesOn s (serve u j v) (answer w j v) j rest) ∧
    (serve u j v).svc = u.svc := by
  have done' := done.putS1 j v
  have stores' : Stores (putS1 u j v) (answer w j v) := stores.savePut _ _ _
  have svc' : (putS1 u j v).svc = u.svc := savePut_svc _ _ _ _
  rw [serve_eq]
  refine ⟨fun live => ?_, fun gone => ?_, ?_⟩
  · obtain ⟨back, mem, -⟩ := h.back done' live
    exact ⟨back, mem.trans stores'.mem⟩
  · exact (h.goesOn done' stores' gone).1
  · cases tree : treeAbandoned s j.tree with
    | false => exact (h.back done' tree).2.2.trans svc'
    | true => exact (h.goesOn done' stores' tree).2.trans svc'

/-- R465: a service: what it does before it writes `s1`, and what it answers. -/
theorem Trapped.service (h : Trapped s j rest cause tval) {i : Instr} {n : Nat} {act : State → Job → State} {v : Dword}
    (row : exec i s = .next ((pickTrap s (isSvc n) act).getD s)) (acts : act (dropEvent s) j = serve u j v)
    (done : Attended s u) (stores : Stores u w) (svc : cause = 8) (code : tval = n) :
    (treeAbandoned s j.tree = false → Completes i s fun t => Back s t j rest ∧ t.mem = (answer w j v).mem ∧ t.svc = u.svc) ∧
    (treeAbandoned s j.tree = true → Completes i s fun t => GoesOn s t (answer w j v) j rest ∧ t.svc = u.svc) := by
  have picked := h.picked (p := isSvc n) (act := act) (by simp [isSvc, svc, code])
  rw [acts] at picked
  have does : exec i s = .next (serve u j v) := row.trans (next_picked picked)
  obtain ⟨back, goesOn, same⟩ := h.served done stores v
  exact ⟨fun live => ⟨_, does, (back live).1, (back live).2, same⟩, fun gone => ⟨_, does, goesOn gone, same⟩⟩

theorem savedS_eq (kept : Stores u s) (r : Nat) : savedS u j r = BitVec.ofNat 64 (saveDword s j.pages (0x200 + 8 * r)) := by
  rw [savedS, kept.saveDword]

theorem savedS_toNat (kept : Stores u s) (r : Nat) : (savedS u j r).toNat = saveDword s j.pages (0x200 + 8 * r) := by
  have low : saveDword s j.pages (0x200 + 8 * r) < 2 ^ 64 := by
    have bound := natOfBytes_lt (saveGet s j.pages (0x200 + 8 * r) 8)
    rw [saveGet, List.length_map, List.length_range] at bound
    exact bound
  rw [savedS_eq kept, BitVec.toNat_ofNat, Nat.mod_eq_of_lt low]

theorem withResult_hart (u : State) (f : Nat) (seq : BitVec 32) (op st : Nat) (r0 r1 : Dword) (time : Nat) :
    (withResult u f seq op st r0 r1 time).hart = u.hart := by
  simp only [withResult, setFn, pokeLoc_hart]

theorem withResult_disp (u : State) (f : Nat) (seq : BitVec 32) (op st : Nat) (r0 r1 : Dword) (time : Nat) :
    (withResult u f seq op st r0 r1 time).disp = u.disp := by
  simp only [withResult, setFn, pokeLoc_disp]

/-- A result goes to its function's registers alone. -/
theorem withResult_svc (u : State) (f : Nat) (seq : BitVec 32) (op st : Nat) (r0 r1 : Dword) (time : Nat) :
    { (withResult u f seq op st r0 r1 time).svc with fns := u.svc.fns } = u.svc := by
  simp only [withResult, setFn, pokeLoc_svc]

theorem Attended.withResult (done : Attended s u) (f : Nat) (seq : BitVec 32) (op st : Nat) (r0 r1 : Dword) (time : Nat) :
    Attended s (withResult u f seq op st r0 r1 time) := by
  have same := withResult_svc u f seq op st r0 r1 time
  have events := congrArg Service.events same
  have held := congrArg Service.held same
  exact ⟨(withResult_hart ..).trans done.hart, (withResult_disp ..).trans done.disp, events.trans done.events,
    held.trans done.held⟩

theorem Stores.withResult (kept : Stores u w) {f : Nat} (fn : getFn u f = getFn w f) (seq : BitVec 32) (op st : Nat)
    (r0 r1 : Dword) (time : Nat) : Stores (withResult u f seq op st r0 r1 time) (withResult w f seq op st r0 r1 time) := by
  simp only [Rules.withResult, fn]
  obtain ⟨mem, keys⟩ := kept.pokeLoc 0 (hostLoc ((getFn w f).results.toNat + 32 * ((getFn w f).resTail.toNat % 2 ^ (getFn w f).order)))
    (dwords [seq.toNat * 2 ^ 32 + op * 2 ^ 16 +
      (if Config.firstPhase = (getFn w f).resTail.toNat.testBit (getFn w f).order then 0 else 1) * 2 ^ 15 + st,
      r0.toNat, r1.toNat, time])
  exact ⟨mem, keys⟩

theorem withResult_fns (same : u.svc.fns = w.svc.fns) (f : Nat) (seq : BitVec 32) (op st : Nat) (r0 r1 : Dword) (time : Nat) :
    (withResult u f seq op st r0 r1 time).svc.fns = (withResult w f seq op st r0 r1 time).svc.fns := by
  have fn : getFn u f = getFn w f := by simp only [getFn, same]
  simp only [withResult, setFn, pokeLoc_svc, fn, same]

theorem Attended.telemetry (done : Attended s u) (kind data data2 : Nat) : Attended s (telemetry u kind data data2) := by
  obtain ⟨hart, disp, events, held⟩ := done
  refine ⟨?_, ?_, events, held⟩
  · simpa only [Machine.telemetry, pokeLoc_hart] using hart
  · simpa only [Machine.telemetry, pokeLoc_disp] using disp

theorem Stores.telemetry (kept : Stores u w) (claim : u.svc.claim = w.svc.claim) (now : u.nowNs = w.nowNs) (kind data data2 : Nat) :
    Stores (telemetry u kind data data2) (telemetry w kind data data2) := by
  simp only [Machine.telemetry, claim, now]
  obtain ⟨mem, keys⟩ := kept.pokeLoc 0 (ringLoc (32 * (w.svc.claim.toNat % 4096)))
    (bytesOfNat 8 w.nowNs ++ bytesOfNat 8 (kind * 2 ^ 48 + data % 2 ^ 48) ++ bytesOfNat 8 data2 ++
      bytesOfNat 8 ((w.svc.claim + 1).toNat))
  exact ⟨mem, keys⟩

/-- What `svc` code 2 leaves in the telemetry ring. -/
def logged (s : State) (j : Job) : State :=
  telemetry s 0x0100 (saveDword s j.pages (0x200 + 8 * 2)) (saveDword s j.pages (0x200 + 8 * 3))

/-- R465: the notice of `svc` code 1, in a state whose memory and function registers are those of `s`. -/
def told (s u : State) (j : Job) (seq : BitVec 32) (st : Nat) : State :=
  withResult u j.tenant seq 0xFE st (BitVec.ofNat 64 (saveDword s j.pages (0x200 + 8 * 2)))
    (BitVec.ofNat 64 (saveDword s j.pages (0x200 + 8 * 3))) s.time.now.toNat

section
variable (h : Trapped s j rest cause tval)
include h

theorem svcNone_served (svc : cause = 8) (code : tval = 0) :
    (treeAbandoned s j.tree = false → Completes .svcNone s fun t => Back s t j rest ∧ t.mem = (answer s j 0).mem) ∧
    (treeAbandoned s j.tree = true → Completes .svcNone s fun t => GoesOn s t (answer s j 0) j rest) := by
  obtain ⟨back, goesOn⟩ := h.service (i := .svcNone) rfl rfl (.dropEvent s) (dropEvent_stores s) svc code
  exact ⟨fun live => (back live).imp fun t ⟨does, back, mem, _⟩ => ⟨does, back, mem⟩,
    fun gone => (goesOn gone).imp fun t ⟨does, goesOn, _⟩ => ⟨does, goesOn⟩⟩

theorem svcTimeLock_served (svc : cause = 8) (code : tval = 3) :
    (treeAbandoned s j.tree = false → Completes .svcTimeLock s fun t =>
      Back s t j rest ∧ t.mem = (answer s j (BitVec.ofNat 64 s.time.lock)).mem) ∧
    (treeAbandoned s j.tree = true → Completes .svcTimeLock s fun t =>
      GoesOn s t (answer s j (BitVec.ofNat 64 s.time.lock)) j rest) := by
  obtain ⟨back, goesOn⟩ := h.service (i := .svcTimeLock) rfl rfl (.dropEvent s) (dropEvent_stores s) svc code
  exact ⟨fun live => (back live).imp fun t ⟨does, back, mem, _⟩ => ⟨does, back, mem⟩,
    fun gone => (goesOn gone).imp fun t ⟨does, goesOn, _⟩ => ⟨does, goesOn⟩⟩

theorem svcTelemetry_served (svc : cause = 8) (code : tval = 2) :
    (treeAbandoned s j.tree = false → Completes .svcTelemetry s fun t =>
      Back s t j rest ∧ t.svc.claim = s.svc.claim + 1 ∧ t.mem = (answer (logged s j) j 0).mem) ∧
    (treeAbandoned s j.tree = true → Completes .svcTelemetry s fun t =>
      GoesOn s t (answer (logged s j) j 0) j rest ∧ t.svc.claim = s.svc.claim + 1) := by
  have kept := dropEvent_stores s
  have acts : serveLog (dropEvent s) j = serve (telemetry (dropEvent s) 0x0100 (saveDword s j.pages (0x200 + 8 * 2))
      (saveDword s j.pages (0x200 + 8 * 3))) j 0 := by
    rw [serveLog, savedS_toNat kept, savedS_toNat kept]
  obtain ⟨back, goesOn⟩ := h.service (i := .svcTelemetry) rfl acts ((Attended.dropEvent s).telemetry _ _ _)
    (kept.telemetry rfl rfl _ _ _) svc code
  exact ⟨fun live => (back live).imp fun t ⟨does, back, mem, same⟩ => ⟨does, back, congrArg Service.claim same, mem⟩,
    fun gone => (goesOn gone).imp fun t ⟨does, goesOn, same⟩ => ⟨does, goesOn, congrArg Service.claim same⟩⟩

theorem svcNotice_served (svc : cause = 8) (code : tval = 1) :
    (treeAbandoned s j.tree = false → Completes .svcNotice s fun t => Back s t j rest ∧ ∃ seq st, st < 256 ∧
      t.mem = (answer (told s s j seq st) j 0).mem ∧ t.svc.fns = (told s s j seq st).svc.fns) ∧
    (treeAbandoned s j.tree = true → Completes .svcNotice s fun t => ∃ seq st, st < 256 ∧
      GoesOn s t (answer (told s s j seq st) j 0) j rest ∧ t.svc.fns = (told s s j seq st).svc.fns) := by
  have kept := dropEvent_stores s
  obtain ⟨seq, st, low, -, eq⟩ := notice_eq (dropEvent s) j.tenant 0xFE none (savedS (dropEvent s) j 2) (savedS (dropEvent s) j 3)
  have acts : serveNotice (dropEvent s) j =
      serve (notice (dropEvent s) j.tenant 0xFE none (savedS (dropEvent s) j 2) (savedS (dropEvent s) j 3)) j 0 := rfl
  rw [eq, savedS_eq kept, savedS_eq kept] at acts
  let u : State := { dropEvent s with free := (dropEvent s).free + 2 }
  have stores : Stores (told s u j seq st) (told s s j seq st) :=
    Stores.withResult (u := u) (w := s) ⟨rfl, rfl⟩ rfl _ _ _ _ _ _
  have fns : (told s u j seq st).svc.fns = (told s s j seq st).svc.fns :=
    withResult_fns (u := u) (w := s) rfl _ _ _ _ _ _ _
  have done : Attended s (told s u j seq st) := Attended.withResult (s := s) (u := u) ⟨rfl, rfl, rfl, rfl⟩ _ _ _ _ _ _ _
  obtain ⟨back, goesOn⟩ := h.service (i := .svcNotice) rfl acts done stores svc code
  exact ⟨fun live => (back live).imp fun t ⟨does, back, mem, same⟩ => ⟨does, back, seq, st, low, mem, (congrArg Service.fns same).trans fns⟩,
    fun gone => (goesOn gone).imp fun t ⟨does, goesOn, same⟩ => ⟨does, seq, st, low, goesOn, (congrArg Service.fns same).trans fns⟩⟩

/-! ### Every other trap (R413, R464) -/

omit h in
theorem prgEvent_any {e : SvcEvent} {id : Nat} :
    (prgEvent e).any (fun x => x.1 == id) = true ↔ ∃ code, e = .prg id code := by
  cases e <;> simp [prgEvent]

/-- R413: the page of the trap, of those its job has asked for. -/
def askedPages (j : Job) (tval : Nat) : List PageWait := j.page.filter fun p => p.va = tval / 4096 * 4096

/-- R413: the answer of a page request is outstanding, or waits to be acted on. -/
def Outstanding (s : State) (rest : List SvcEvent) (p : PageWait) : Prop :=
  (∃ q ∈ s.tab.pri, q.id = p.id) ∨ ∃ code, SvcEvent.prg p.id code ∈ rest ++ s.svc.held

theorem trapPage_eq : trapPage (dropEvent s) j = (askedPages j tval).getLast? := by
  rw [trapPage, h.trap (dropEvent_stores s)]
  rfl

theorem outstanding_iff {p : PageWait} : ((dropEvent s).tab.pri.any (fun q => q.id == p.id) ||
    ((dropEvent s).svc.events ++ (dropEvent s).svc.held).any (fun e => (prgEvent e).any (fun x => x.1 == p.id))) = true ↔
    Outstanding s rest p := by
  have events : (dropEvent s).svc.events ++ (dropEvent s).svc.held = rest ++ s.svc.held := by
    rw [h.taken.1, h.taken.2, List.append_assoc, List.take_append_drop]
  rw [events, Bool.or_eq_true, List.any_eq_true, List.any_eq_true]
  simp only [prgEvent_any, beq_iff_eq]
  exact or_congr_right ⟨fun ⟨_, here, code, event⟩ => ⟨code, event ▸ here⟩, fun ⟨code, here⟩ => ⟨_, here, code, rfl⟩⟩

theorem serviceTrap_taken (other : ¬ (cause = 8 ∧ tval ≤ 3)) :
    exec .serviceTrap s = .next (trapAct (dropEvent s) j) := by
  have picked := h.picked (p := fun c v => !isService c v) (act := trapAct) (by
    simp only [isService, Bool.not_eq_true', Bool.and_eq_false_iff, beq_eq_false_iff_ne, decide_eq_false_iff_not]
    exact not_and_or.1 other)
  exact next_picked picked

/-- R413: a Success lets the job go on. -/
theorem trapAct_success {p : PageWait} (page : cause = 0x15) (last : (askedPages j tval).getLast? = some p) (success : p.code = some 0) :
    trapAct (dropEvent s) j = repairJob (dropEvent s) j.job := by
  have trap := h.trap (dropEvent_stores s)
  simp only [trapAct, trap, page, if_true, pageTrap, trapPage_eq h, last, success, actPage]

/-- R413: a response that is outstanding is waited for. -/
theorem trapAct_waits {p : PageWait} (page : cause = 0x15) (last : (askedPages j tval).getLast? = some p) (open_ : p.code = none)
    (asked : Outstanding s rest p) : trapAct (dropEvent s) j = dropEvent s := by
  have trap := h.trap (dropEvent_stores s)
  have waits := (outstanding_iff h).2 asked
  simp only [trapAct, trap, page, if_true, pageTrap, trapPage_eq h, last, open_, waits]

/-- R464: any other trap is a FAULT. -/
theorem trapAct_fault (other : cause = 0x15 → ∀ p, (askedPages j tval).getLast? = some p →
    p.code ≠ some 0 ∧ (p.code = none → ¬ Outstanding s rest p)) : trapAct (dropEvent s) j = faultJob (dropEvent s) j := by
  have trap := h.trap (dropEvent_stores s)
  unfold trapAct
  rw [trap]
  split_ifs with page
  · unfold pageTrap
    rw [trapPage_eq h]
    cases last : (askedPages j tval).getLast? with
    | none => rfl
    | some p =>
      obtain ⟨failed, gone⟩ := other page p last
      cases code : p.code with
      | none =>
        have waits := (outstanding_iff h).not.2 (gone code)
        simp only [code, waits]
        rfl
      | some c =>
        have failed' : c ≠ 0 := fun zero => failed (by rw [code, zero])
        simp only [code, actPage, if_neg failed']
  · rfl

theorem trapAct_ends (ends : trapAct (dropEvent s) j = faultJob (dropEvent s) j) (other : ¬ (cause = 8 ∧ tval ≤ 3)) :
    Completes .serviceTrap s fun t => EventTaken s t rest ∧ t.hart.stage = .free ∧ t.hart.width = 0 ∧ ∃ st, st < 256 ∧
      let u := recordEnd s j 5 s.hart.core s.hart.hid s.hart.lastPc s.hart.jprog
      t.mem = (withResult u j.tenant 0 0xFF st (j.job.zeroExtend 64) (BitVec.ofNat 64 (cause * 2 ^ 56 + tval % 2 ^ 56))
        s.time.now.toNat).mem := by
  have trap := h.trap (dropEvent_stores s)
  have ended : endHeld (dropEvent s) j.job 5 = endFocus (dropEvent s) 5 := by
    obtain ⟨-, -, stage, rfl, held⟩ := h
    have found : heldHart (dropEvent s) s.hart.job.job = some (dropEvent s).hart.key := heldHart_focus (u := dropEvent s) stage held
    have row : endHeld (dropEvent s) s.hart.job.job 5 = atHart (dropEvent s) (dropEvent s).hart.key fun s => endFocus s 5 := by
      simp only [endHeld, found]
      rfl
    rw [row, atHart_focus (f := fun s => endFocus s 5) (endFocus_key 5)]
  obtain rfl := h.job
  let u := recordEnd s s.hart.job 5 s.hart.core s.hart.hid s.hart.lastPc s.hart.jprog
  let v := dropWalks (withFocus u s.hart.ended (dropEvent s).svc) s.hart.key
  have record : recordEnd (dropEvent s) (dropEvent s).hart.job 5 (dropEvent s).hart.core (dropEvent s).hart.hid
      (dropEvent s).hart.lastPc (dropEvent s).hart.jprog = withFocus u s.hart (dropEvent s).svc :=
    recordEnd_withFocus s s.hart (dropEvent s).svc _ _ _ _ _ _
  have left : endFocus (dropEvent s) 5 = v := by
    rw [endFocus_eq, record]
    rfl
  obtain ⟨seq, st, low, zero, eq⟩ := notice_eq v s.hart.job.tenant 0xFF (some 0) (s.hart.job.job.zeroExtend 64)
    (BitVec.ofNat 64 (cause * 2 ^ 56 + tval % 2 ^ 56))
  obtain rfl := zero 0 rfl
  have does : exec .serviceTrap s = .next (notice v s.hart.job.tenant 0xFF (some 0) (s.hart.job.job.zeroExtend 64)
      (BitVec.ofNat 64 (cause * 2 ^ 56 + tval % 2 ^ 56))) := by
    rw [serviceTrap_taken h other, ends, faultJob, trap, ended, left]
  have fns : v.svc.fns = u.svc.fns := (congrArg Service.fns (recordEnd_svc s _ _ _ _ _ _)).symm
  have now : v.time.now = s.time.now := congrArg TimeUnit.now (recordEnd_time s _ _ _ _ _ _)
  rw [eq, now] at does
  have hart := withResult_hart { v with free := v.free + 2 } s.hart.job.tenant 0 0xFF st (s.hart.job.job.zeroExtend 64)
    (BitVec.ofNat 64 (cause * 2 ^ 56 + tval % 2 ^ 56)) s.time.now.toNat
  have svc := withResult_svc { v with free := v.free + 2 } s.hart.job.tenant 0 0xFF st (s.hart.job.job.zeroExtend 64)
    (BitVec.ofNat 64 (cause * 2 ^ 56 + tval % 2 ^ 56)) s.time.now.toNat
  obtain ⟨events, held⟩ := h.taken
  have events' := (congrArg Service.events svc).trans events
  have held' := (congrArg Service.held svc).trans held
  refine ⟨_, does, ⟨events', held'⟩, ?_, ?_, st, low, ?_⟩
  · rw [hart]
    rfl
  · rw [hart]
    rfl
  · exact (Stores.withResult (u := { v with free := v.free + 2 }) (w := u) ⟨rfl, rfl⟩ (by simp only [getFn, fns]) _ _ _ _ _ _).mem

theorem serviceTrap_success {p : PageWait} (page : cause = 0x15) (last : (askedPages j tval).getLast? = some p)
    (success : p.code = some 0) :
    (treeAbandoned s j.tree = false → Completes .serviceTrap s fun t => Back s t j rest ∧ t.mem = s.mem) ∧
    (treeAbandoned s j.tree = true → Completes .serviceTrap s fun t => GoesOn s t s j rest) := by
  have does := serviceTrap_taken h (by omega)
  rw [trapAct_success h page last success] at does
  refine ⟨fun live => ?_, fun gone => ⟨_, does, (h.goesOn (.dropEvent s) (dropEvent_stores s) gone).1⟩⟩
  obtain ⟨back, mem, -⟩ := h.back (.dropEvent s) live
  exact ⟨_, does, back, mem⟩

theorem serviceTrap_waits {p : PageWait} (page : cause = 0x15) (last : (askedPages j tval).getLast? = some p)
    (open_ : p.code = none) (asked : Outstanding s rest p) : exec .serviceTrap s = .next
      { s with svc := { s.svc with events := rest ++ s.svc.held.take 1, held := s.svc.held.drop 1 } } := by
  have does := serviceTrap_taken h (by omega)
  rw [trapAct_waits h page last open_ asked] at does
  have dropped : dropEvent s = { s with svc := { s.svc with events := rest ++ s.svc.held.take 1, held := s.svc.held.drop 1 } } := by
    rw [dropEvent, h.first]
    rfl
  rw [does, dropped]

end

end

/-- Settles O51: the services, the page responses, and every other trap. -/
theorem trapsAreServed : Obligations.TrapsAreServed := fun _ _ _ _ _ trap =>
  have h := trapped_of trap
  ⟨fun live => ⟨fun svc code => (svcNone_served h svc code).1 live, fun svc code => (svcNotice_served h svc code).1 live,
      fun svc code => (svcTelemetry_served h svc code).1 live, fun svc code => (svcTimeLock_served h svc code).1 live,
      fun _ page last success => (serviceTrap_success h page last success).1 live⟩,
    fun gone => ⟨fun svc code => (svcNone_served h svc code).2 gone, fun svc code => (svcNotice_served h svc code).2 gone,
      fun svc code => (svcTelemetry_served h svc code).2 gone, fun svc code => (svcTimeLock_served h svc code).2 gone,
      fun _ page last success => (serviceTrap_success h page last success).2 gone⟩,
    fun _ page last open_ asked => serviceTrap_waits h page last open_ asked,
    fun other page => trapAct_ends h (trapAct_fault h page) other⟩

end Sys2Proof.Proofs
end

section
/-! SUPPORT. The invalidation of PT_ATTACH: the number it bears (R410, R458). -/

namespace Sys2Proof.Proofs

open Sys2Proof.Machine Sys2Proof.Safety Sys2Proof.Rules Sys2Proof.Laws

/-! ### What the end of a command leaves of the invalidations -/

theorem rung_tab (s : State) (f : Nat) : (rung s f).tab = s.tab := by
  simp only [rung, ← pushEvent_eq_withEvent, apply_ite State.tab, pushEvent_tab, ite_self]

theorem deferred_invals (s : State) (c : Command) (k : DeferKind) : (deferred s c k).tab.invals = s.tab.invals :=
  (congrArg Tables.invals (rung_tab _ _)).trans rfl

theorem settleCmd_later_invals (h : Handled) (k : DeferKind) (s : State) :
    (settleCmd h (.later k s)).tab.invals = s.tab.invals := by
  have tab : (settleCmd h (.later k s)).tab =
      (commitLater (dropWalks { s with svc := { s.svc with cmds := s.svc.cmds.drop 1 } } cmdAgent) h.cmd k).tab :=
    (congrArg State.tab (ringFn_eq_rung _ _)).trans (rung_tab _ _)
  exact (congrArg Tables.invals tab).trans rfl

/-! ### A command in hand -/

/-- R453, R455: a command that its function may give, whose unlisted operands are 0, runs. -/
theorem runCmd_inHand {h : Handled} {rest : List Handled} {s : State} {pf : Bool} (f : Command → State → CmdOut)
    (first : s.svc.cmds = h :: rest) (may : (pf && h.cmd.fn != 0) = false) (clean : h.cmd.clean = true) :
    runCmd h.cmd.op pf s f = .next (settleCmd h (f h.cmd s)) := by
  simp [runCmd, first, may, clean]

/-- R410: the invalidation of PT_ATTACH bears the next number of the machine. -/
theorem ptAttachCmd_invals {c : Command} {s : State} {k : DeferKind} {u : State} (out : ptAttachCmd c s = .later k u) :
    u.tab.invals = s.tab.invals ++
      [{ tenant := c.p0.toNat, va := 0, size := 2 ^ 48, host := false, id := s.tab.invalSerial }] := by
  simp only [ptAttachCmd] at out
  split at out
  · cases out
  · split at out
    · cases out
    · cases out
      rfl

/-! ### A second invalidation -/

/-- PT_ATTACH of tenant 0's page tables at address 0. -/
def attachCommand : Command := ⟨0, 1, 5, false, 0, 0, 0, 0, 0, 0, 0⟩

/-- The machine after reset with one invalidation behind it, and PT_ATTACH in hand. -/
def attaching : State :=
  { State.reset with
    tab := { State.reset.tab with invalSerial := 1 }
    svc := { State.reset.svc with cmds := [⟨0, 0, attachCommand⟩] } }

theorem attaching_inHand : InHand .ptAttach attaching attachCommand :=
  ⟨⟨_, [], rfl, rfl⟩, 2, true, by simp [hostCommands, attachCommand],
    by simp [operands, attachCommand], fun _ => rfl⟩

/-- Refutes O50: PT_ATTACH's invalidation bears the next number (here 1), where the rule states number 0. -/
theorem not_hostCommandsAreExecuted : ¬ Obligations.HostCommandsAreExecuted := by
  unfold Obligations.HostCommandsAreExecuted
  intro holds
  obtain ⟨_, _, _, _, _, attach, _⟩ := holds attaching attachCommand
  obtain ⟨_, _, accepted⟩ := attach attaching_inHand
  obtain ⟨u, runs, _, invals, _⟩ := accepted (by decide) (by decide)
  have ran : exec .ptAttach attaching = .next (settleCmd ⟨0, 0, attachCommand⟩ (ptAttachCmd attachCommand attaching)) :=
    runCmd_inHand (s := attaching) (pf := true) (h := ⟨0, 0, attachCommand⟩) ptAttachCmd rfl rfl rfl
  obtain ⟨k, v, out⟩ : ∃ k v, ptAttachCmd attachCommand attaching = .later k v := ⟨_, _, rfl⟩
  have same : settleCmd ⟨0, 0, attachCommand⟩ (.later k v) = deferred u attachCommand (.inval 0) :=
    Host.Outcome.next.inj ((out ▸ ran).symm.trans runs)
  have stated : v.tab.invals = u.tab.invals := by
    rw [← settleCmd_later_invals, same, deferred_invals]
  rw [ptAttachCmd_invals out, invals] at stated
  exact absurd stated (by decide)

end Sys2Proof.Proofs
end

section
/-! SUPPORT. The length instructions: what a grant of one row is, and how they end (R149, R151, R152, R168). -/

namespace Sys2Proof.Proofs

open Sys2Proof.Machine Sys2Proof.Safety Sys2Proof.Rules Sys2Proof.Laws

theorem widthOfType_bounds (t : Nat) : 0 < widthOfType t ∧ widthOfType t ≤ 64 := by
  unfold widthOfType
  repeat' split
  all_goals decide

/-- R149: every lane width has room for an element of every type. -/
theorem largestLength_pos {w : Nat} (lanes : w ∈ [4, 8, 16, 32]) (vtype : BitVec 7) : 0 < largestLength w vtype := by
  obtain ⟨positive, small⟩ := widthOfType_bounds (vtype.toNat % 32)
  have lane : 0 < w := (by decide : ∀ w ∈ [4, 8, 16, 32], 0 < w) w lanes
  have room : 256 ≤ 2 ^ (vtype.toNat / 32) * w * 256 := Nat.le_mul_of_pos_left _ (by positivity)
  exact Nat.div_pos (by omega) positive

/-- R151: a grant of one row has as many columns as asked for, up to vmax, and that is the length. -/
theorem granted_one_row {m : Nat} (pos : 0 < m) (l : LenRegs) (n : Nat) : (Rules.granted l m 1 n).vl = min n m := by
  unfold Rules.granted
  obtain rfl | some := Nat.eq_zero_or_pos n
  · simp
  · have col : 0 < min n m := Nat.lt_min.2 ⟨some, pos⟩
    have row : min 1 (m / min n m) = 1 := Nat.min_eq_left (Nat.div_pos (Nat.min_le_right n m) col)
    simp [Nat.ne_of_gt some, row]

/-- R168: a length instruction that may stand where it stands ends with its lengths, and its result in `sd`. -/
theorem does_of_setLen {i : Instr} {sd : BitVec 5} {l : LenRegs} {value : LenRegs → Nat} {s : State}
    (meaning : exec i s = setLen i sd l value s) (scalar : i.res = 0) (may : MayConfigure s) :
    Does i s (wrS (withHart s fun h => { h with len := l }) sd (BitVec.ofNat 64 (value l))) := by
  obtain ⟨c, joined⟩ := convoy_add_scalar scalar fun _ => may
  have ran : exec i s = finish (.ok (wrS (withHart s fun h => { h with convoy := c, len := l }) sd
      (BitVec.ofNat 64 (value l)))) := by
    rw [meaning, setLen, withConvoy, joined]
    rfl
  refine does_of_idle ran ?_ ?_
  · rw [idle_wrS, idle_wrS]
    rfl
  · rw [pcAfter_wrS, pcAfter_wrS]
    rfl

/-- Settles O8: the grants are those of R151, and that of one row is its length. -/
theorem lengthInstructionsGrant : Obligations.LengthInstructionsGrant := by
  intro sd sa sb s may lanes
  refine ⟨?setvl, fun _ => ?settile⟩
  case setvl =>
    intro typ grp _ m l u
    have lengths (n : Nat) : lenOf s typ grp n = l n := grant_eq_granted ..
    have length (n : Nat) : (l n).vl = min n m := granted_one_row (largestLength_pos lanes _) _ n
    have ends {i : Instr} {n : Nat} (meaning : exec i s = setLen i sd (lenOf s typ grp n) (fun l => l.vl) s)
        (scalar : i.res = 0) : Does i s (u n) := by
      have done := does_of_setLen meaning scalar may
      rwa [lengths, length] at done
    exact ⟨ends rfl rfl, fun imm => ends rfl rfl⟩
  case settile =>
    have done := does_of_setLen (i := .settile sd sa sb) rfl rfl may
    rwa [grant_eq_granted] at done

end Sys2Proof.Proofs
end

section
/-! SUPPORT. Vector instructions of the arithmetic queue that write vector or mask registers: their checks, how they
end, and the elements they act on (R63, R92, R115, R153, R157, R160). -/

namespace Sys2Proof.Proofs

open Sys2Proof.Machine Sys2Proof.Safety Sys2Proof.Rules Sys2Proof.Laws

/-! ### Checks 3 and 4 of R63 -/

theorem vcheck_eq_none {view accepts : Bool} {regs : List VRegs} : vcheck view regs accepts = none ↔
    accepts = true ∧ ∀ r ∈ regs, (view && r.inTile) = false ∧ r.aligned = true := by
  have tile : (view && regs.any (fun r => r.inTile)) = false ↔ ∀ r ∈ regs, (view && r.inTile) = false := by
    cases view <;> simp
  have rest : (!accepts || regs.any (fun r => !r.aligned)) = false ↔ accepts = true ∧ ∀ r ∈ regs, r.aligned = true := by
    simp
  rw [forall₂_and, and_left_comm, ← rest, ← tile, vcheck]
  split
  · next inTile => simp [inTile]
  · split
    · next refused => simp [refused]
    · next outside accepted => simp [outside, accepted]

/-- Groups that lie in the file, and in matrix mode outside the tile, pass the checks together. -/
theorem vcheck_groups {s : State} {l : List (BitVec 6)} (fits : ∀ v ∈ l, Rules.Fits s v (groupNow s)) {accepts : Bool}
    (ok : accepts = true) : vcheck s.hart.mview (l.map (grpReg (lenNow s))) accepts = none := by
  refine vcheck_eq_none.2 ⟨ok, fun r hr => ?_⟩
  obtain ⟨v, hv, rfl⟩ := List.mem_map.1 hr
  exact (vcheck_eq_none.1 (vcheck_fits (fits v hv) rfl)).2 _ (List.mem_singleton_self _)

/-! ### The elements of an instruction (R153, R157) -/

theorem span_eq_filter (a b : Nat) : span a b = (List.range b).filter fun i => a ≤ i := by
  induction b with
  | zero => simp [span]
  | succ b ih =>
    rw [List.range_succ, List.filter_append, ← ih]
    obtain below | behind := Nat.lt_or_ge b a
    · simp [span, Nat.sub_eq_zero_of_le below, Nat.sub_eq_zero_of_le below.le, below]
    · simp [span, Nat.succ_sub behind, List.range_succ, behind]

/-- What an instruction that has joined the convoy `c` runs from, where it does not resynchronise (R153). -/
def begun (s : State) (c : Convoy) : State := withHart (viewCleared s) fun h => { h with convoy := c }

theorem activeFrom_begun (s : State) (c : Convoy) (k : BitVec 3) :
    activeFrom (begun s c).hart (lenNow s) k = active s k := by
  unfold activeFrom active
  rw [span_eq_filter, List.filter_filter]
  exact List.filter_congr fun i _ => Bool.and_comm _ _

theorem activeWhole_unmasked (s : State) : activeWhole s 0 = List.range (lenNow s).vl :=
  List.filter_eq_self.2 fun _ _ => rfl

theorem viewOf_elementWise {i : Instr} (elementWise : i.whole = false) (l : LenRegs) : viewOf i l = l :=
  if_neg (Bool.eq_false_iff.1 elementWise)

/-- What a vector instruction of a state captures, as it is when it runs at once (R92, R160). -/
def entry (s : State) (i : Instr) (sa sb : Dword) : QEntry := { capture s i sa sb with live := true }

theorem entry_type (s : State) (i : Instr) (sa sb : Dword) : (entry s i sa sb).len.type = typeNow s :=
  congrArg (fun v => BitVec.toNat v % 32) (viewOf_vtype i (lenNow s))

theorem entry_width (s : State) (i : Instr) (sa sb : Dword) : (entry s i sa sb).len.width = widthNow s :=
  congrArg typeWidth (entry_type s i sa sb)

theorem entry_vl (s : State) (i : Instr) (sa sb : Dword) : (entry s i sa sb).len.vl = (lenNow s).vl :=
  viewOf_vl i (lenNow s)

/-! ### How they end (R92, R153, R160) -/

/-- An update of a hart that leaves its queue, and looks at its convoy as little as it changes it. -/
structure LeavesIssue (f : Hart → Hart) : Prop where
  queue : ∀ h, (f h).queue = h.queue
  convoy : ∀ h c, f { h with convoy := c } = { f h with convoy := c }

theorem leavesIssue_putElems (base b : Nat) (l : List (Nat × Nat)) : LeavesIssue fun h => putElems h base b l := by
  have both (h : Hart) : (putElems h base b l).queue = h.queue ∧
      ∀ c, putElems { h with convoy := c } base b l = { putElems h base b l with convoy := c } := by
    induction l generalizing h with
    | nil => exact ⟨rfl, fun _ => rfl⟩
    | cons p l ih => exact ih (putElem h base b p.1 p.2)
  exact ⟨fun h => (both h).1, fun h => (both h).2⟩

theorem leavesIssue_putMask (k : Nat) (l : List (Nat × Bool)) : LeavesIssue fun h => putMask h k l :=
  ⟨fun _ => rfl, fun _ _ => rfl⟩

section
variable {i : Instr} {s : State} {op : VOp} {sa sb : Dword}

/-- An instruction of the arithmetic queue that does not resynchronise runs from a state that has begun it. -/
theorem atRun_begun (arith : i.queueOf = some 0) (free : i.resync = false) (c : Convoy) : atRun i c s = begun s c := by
  unfold atRun
  rw [countResync, free, arith]
  rfl

theorem queueOf_of_res {r : BitVec 7} (pipe : i.res = r) (arith : queueOfRes r = some 0) : i.queueOf = some 0 :=
  (congrArg queueOfRes pipe).trans arith

theorem res_ne_zero_of_queueOf {q : Nat} (takes : i.queueOf = some q) : i.res ≠ 0 := by
  intro none
  rw [Instr.queueOf, none] at takes
  cases takes

/-- R92, R153, R160: an instruction that issues and updates the hart by `f`, whatever its convoy is, ends with that
update and retires with its flags. -/
theorem does_of_update (arith : i.queueOf = some 0) (free : i.resync = false) (meaning : exec i s = vexec i op sa sb s)
    (issues : Issues i s) (accepted : op.check s.hart.width s.hart.mview (lenNow s) = none) {f : Hart → Hart} {fl : Flags}
    (leaves : LeavesIssue f)
    (run : ∀ c, op.run (begun s c) (entry s i sa sb) = .done (withHart (begun s c) f) fl) :
    Does i s (retire (withHart (viewCleared s) f) fl) := by
  obtain ⟨⟨empty, none⟩, used, room, notResync, noMode, alone⟩ := issues
  obtain ⟨c, joined⟩ := convoy_add_some (joins := s.hart.x.joins) (res_ne_zero_of_queueOf arith) used room notResync
    noMode alone
  have left : (withHart (begun s c) f).hart.queue = [] := (leaves.queue _).trans empty
  obtain ⟨p, settled⟩ := settleRun_done left (begun s c).hart (capture s i sa sb) fl 0
  rw [show (0 : Flags) ||| fl = fl from BitVec.zero_or] at settled
  have ran : exec i s = finish (.ok { viewCleared s with
      pmc := p, hart := { retiredHart (f (viewCleared s).hart) fl with convoy := c } }) := by
    rw [meaning, vexec_runs empty none accepted joined, atRun_begun arith free]
    refine congrArg (fun t => finish (.ok t)) ((if_pos (drained_eq empty none)).trans ?_)
    rw [show ({ capture s i sa sb with live := true } : QEntry) = entry s i sa sb from rfl, run, settled,
      ← retiredHart_convoy, ← leaves.convoy]
    rfl
  rw [retire_eq]
  exact does_of_idle ran rfl (pcAfter_same rfl rfl)
end

end Sys2Proof.Proofs
end

section
/-! SUPPORT. Permutes and moves: what each leaves, and how the element-wise and the whole ones end (R153, R172-R183). -/

namespace Sys2Proof.Proofs

open Sys2Proof.Machine Sys2Proof.Safety Sys2Proof.Rules Sys2Proof.Laws

theorem flagsOf_exact (l : List (Nat × Nat)) : flagsOf (l.map fun p => exact p.2) = 0 := by
  unfold flagsOf
  induction l with
  | nil => rfl
  | cons p l ih => exact (congrArg (fun f => List.foldl _ f _) BitVec.or_zero).trans ih

/-- R172: a permute writes its elements, and sets no flag. -/
theorem moved_eq (s : State) (vd : BitVec 6) (b : Nat) (l : List (Nat × Nat)) :
    moved s vd b l = retire (withHart (viewCleared s) fun h => putElems h vd.toNat b l) 0 := by
  have elements : l.map (fun p => (p.1, (exact p.2).bits)) = l := List.map_id l
  have flags := flagsOf_exact l
  simp only [moved, landedAt, List.map_map, Function.comp_def, elements, flags]

section
variable {i : Instr} {s : State} {sa sb : Dword} {acc : Nat → Bool} {regs : LenRegs → List VRegs} {vd : BitVec 6}
  {groups : List (BitVec 6)} {k : BitVec 3}

/-- R63, R172: a permute whose groups fit, and which the type suits, ends with the elements that it moves, whatever its
convoy is. -/
theorem does_of_permute {f : Hart → QEntry → Nat → List (Nat × Nat)} {l : List (Nat × Nat)}
    (pipe : i.res = resSL) (free : i.resync = false) (meaning : exec i s = vexec i (permOp acc regs vd f) sa sb s)
    (issues : Issues i s) (fits : ∀ v ∈ vd :: groups, Rules.Fits s v (groupNow s))
    (sources : regs (lenNow s) = groups.map (grpReg (lenNow s))) (accepts : acc (typeNow s) = true)
    (places : ∀ c, f (begun s c).hart (entry s i sa sb) (widthNow s) = l) : Does i s (moved s vd (widthNow s) l) := by
  have accepted : (permOp acc regs vd f).check s.hart.width s.hart.mview (lenNow s) = none := by
    refine Eq.trans (congrArg (fun r => vcheck s.hart.mview (grpReg (lenNow s) vd :: r) _) sources) ?_
    exact vcheck_groups fits accepts
  rw [moved_eq]
  have arith : i.queueOf = some 0 := queueOf_of_res pipe (by decide)
  refine does_of_update arith free meaning issues accepted (leavesIssue_putElems ..) fun c => ?_
  rw [← places c, ← entry_width s i sa sb]
  rfl

/-- R157: an element-wise permute gives each active element its value. -/
theorem does_of_elemPerm {f : Hart → QEntry → Nat → Nat → Nat} {val : Nat → Nat} (pipe : i.res = resSL)
    (free : i.resync = false) (elementWise : i.whole = false)
    (meaning : exec i s = vexec i (elemPerm acc regs vd k f) sa sb s) (issues : Issues i s)
    (fits : ∀ v ∈ vd :: groups, Rules.Fits s v (groupNow s))
    (sources : regs (lenNow s) = groups.map (grpReg (lenNow s))) (accepts : acc (typeNow s) = true)
    (value : ∀ c j, f (begun s c).hart (entry s i sa sb) (widthNow s) j = val j) :
    Does i s (moved s vd (widthNow s) (each (active s k) val)) := by
  refine does_of_permute pipe free meaning issues fits sources accepts fun c => ?_
  have view : (entry s i sa sb).len = lenNow s := viewOf_elementWise elementWise _
  rw [view, activeFrom_begun]
  exact List.map_congr_left fun j _ => by rw [value c j]

/-- R157: a whole permute gives each active element that has a value its value. -/
theorem does_of_wholePerm {f : Hart → QEntry → Nat → Nat → Option Nat} {val : Nat → Option Nat}
    (pipe : i.res = resSL) (free : i.resync = false) (meaning : exec i s = vexec i (wholePerm regs vd k f) sa sb s)
    (issues : Issues i s) (fits : ∀ v ∈ vd :: groups, Rules.Fits s v (groupNow s))
    (sources : regs (lenNow s) = groups.map (grpReg (lenNow s)))
    (value : ∀ c j, f (begun s c).hart (entry s i sa sb) (widthNow s) j = val j) :
    Does i s (moved s vd (widthNow s) ((activeWhole s k).filterMap fun j => (val j).map fun x => (j, x))) := by
  refine does_of_permute pipe free meaning issues fits sources rfl fun c => ?_
  have elements : activeAll (begun s c).hart (entry s i sa sb).len k = activeWhole s k := by
    unfold activeAll
    rw [entry_vl]
    rfl
  rw [elements, funext (value c)]

/-- A whole permute that computes every active element. -/
theorem does_of_wholePerm_each {f : Hart → QEntry → Nat → Nat → Option Nat} {val : Nat → Nat}
    (pipe : i.res = resSL) (free : i.resync = false) (meaning : exec i s = vexec i (wholePerm regs vd k f) sa sb s)
    (issues : Issues i s) (fits : ∀ v ∈ vd :: groups, Rules.Fits s v (groupNow s))
    (sources : regs (lenNow s) = groups.map (grpReg (lenNow s)))
    (value : ∀ c j, f (begun s c).hart (entry s i sa sb) (widthNow s) j = some (val j)) :
    Does i s (moved s vd (widthNow s) (each (activeWhole s k) val)) := by
  have done := does_of_wholePerm pipe free meaning issues fits sources value
  rwa [show (fun j => (some (val j)).map fun x => (j, x)) = some ∘ fun j => (j, val j) from rfl,
    List.filterMap_eq_map] at done
end

/-- R178: the ones of a mask register below a place are counted. -/
theorem length_maskOnes (h : Hart) (k : BitVec 3) (n : Nat) :
    (maskOnes h k n).length = (List.range n).countP fun j => (getMask h k.toNat).getLsbD j :=
  List.countP_eq_length_filter.symm

theorem slides_end {r : (BitVec 6 → BitVec 6 → BitVec 5 → BitVec 3 → Instr) ×
      ((Nat → Nat) → Nat → Nat → Nat → Nat → Option Nat)} (row : r ∈ slides) {vd va : BitVec 6} {sb : BitVec 5}
    {k : BitVec 3} {s : State} (fits : ∀ v ∈ [vd, va], Rules.Fits s v (groupNow s)) (issues : Issues (r.1 vd va sb k) s) :
    Does (r.1 vd va sb k) s (moved s vd (widthNow s) ((activeWhole s k).filterMap fun i =>
      (r.2 (elem s va (widthNow s)) (rdS s sb).toNat (widthNow s) (lenNow s).vl i).map fun x => (i, x))) := by
  simp only [slides, List.mem_cons, List.not_mem_nil, or_false] at row
  obtain rfl | rfl | rfl | rfl := row
  all_goals exact does_of_wholePerm (groups := [va]) rfl rfl rfl issues fits rfl fun _ _ => rfl

/-- Settles O13: each permute by its kind, with the value its rule gives an element. -/
theorem permutesMoveElements : Obligations.PermutesMoveElements := by
  intro vd va vb k s b vl fitD fitA fitB
  have one : ∀ v ∈ [vd], Rules.Fits s v (groupNow s) := List.forall_mem_singleton.2 fitD
  have two : ∀ v ∈ [vd, va], Rules.Fits s v (groupNow s) :=
    List.forall_mem_cons.2 ⟨fitD, List.forall_mem_singleton.2 fitA⟩
  have three : ∀ v ∈ [vd, va, vb], Rules.Fits s v (groupNow s) :=
    List.forall_mem_cons.2 ⟨fitD, List.forall_mem_cons.2 ⟨fitA, List.forall_mem_singleton.2 fitB⟩⟩
  rw [← activeWhole_unmasked s]
  refine ⟨fun issues => ?mv, fun issues => ?merge, fun r row sb issues => slides_end row two issues, fun issues => ?gather,
    fun issues => ?compress, fun issues => ?expand, fun int issues => ?id, fun ka int issues => ?iota, fun issues => ?zip,
    fun issues => ?unzip, fun issues => ?trn, fun sb issues => ?bcast, fun sa sb issues => ?ins⟩
  case mv => exact does_of_elemPerm (groups := [va]) rfl rfl rfl rfl issues two rfl rfl fun _ _ => rfl
  case merge => exact does_of_elemPerm (groups := [va, vb]) rfl rfl rfl rfl issues three rfl rfl fun _ _ => rfl
  case gather => exact does_of_wholePerm_each (groups := [va, vb]) rfl rfl rfl issues three rfl fun _ _ => rfl
  case compress => exact does_of_permute (groups := [va]) rfl rfl rfl issues two rfl rfl fun _ => rfl
  case expand => exact does_of_permute (groups := [va]) rfl rfl rfl issues two rfl rfl fun _ => rfl
  case id =>
    exact does_of_elemPerm (groups := []) rfl rfl rfl rfl issues one rfl (decide_eq_true int) fun _ _ => rfl
  case iota =>
    refine does_of_permute (groups := []) rfl rfl rfl issues one rfl (decide_eq_true int) fun c => ?_
    simp only [length_maskOnes]
    rfl
  case zip =>
    refine does_of_wholePerm_each (groups := [va, vb]) rfl rfl rfl issues three rfl fun c i => congrArg some ?_
    rw [← apply_ite (fun v => elem s v b (i / 2))]
    rfl
  case unzip =>
    refine does_of_wholePerm_each (groups := [va]) rfl rfl rfl issues two rfl fun c i => congrArg some ?_
    rw [← apply_ite (elem s va b)]
    rfl
  case trn => exact does_of_wholePerm_each (groups := [va]) rfl rfl rfl issues two rfl fun _ _ => rfl
  case bcast => exact does_of_elemPerm (groups := []) rfl rfl rfl rfl issues one rfl rfl fun _ _ => rfl
  case ins => exact does_of_permute (groups := []) rfl rfl rfl issues one rfl rfl fun _ => rfl

end Sys2Proof.Proofs
end

section
/-! SUPPORT. Compares, mask logic, and the counts of a mask's ones (R156, R169-R171). -/

namespace Sys2Proof.Proofs

open Sys2Proof.Machine Sys2Proof.Safety Sys2Proof.Rules Sys2Proof.Laws

/-! ### Compares (R169) -/

theorem intRel_eq_relation (cond : BitVec 3) (x y : Int) : intRel cond.toNat x y = relation cond x y := by
  unfold intRel relation
  generalize cond.toNat = n
  match n with
  | 1 => exact (decide_not (p := x = y)).symm
  | 0 | 2 | 3 | 4 | 5 => rfl
  | n + 6 => rfl

section
variable {i : Instr} {s : State}

/-- R169: a compare of groups that fit ends with the bits of its relation, and the flags that the relation sets. -/
theorem does_of_compare {acc : Nat → Bool} {kd : BitVec 3} {va vb : BitVec 6} {k : BitVec 3}
    {f : Nat → Nat → Nat → Nat → Bool × Flags} {rel : Nat → Bool × Flags} (pipe : i.res = resVB)
    (free : i.resync = false) (elementWise : i.whole = false)
    (meaning : exec i s = vexec i (cmpOp acc kd va vb k f) 0 0 s) (issues : Issues i s)
    (fits : ∀ v ∈ [va, vb], Rules.Fits s v (groupNow s)) (accepts : acc (typeNow s) = true)
    (value : ∀ j, f (typeNow s) (widthNow s) (elem s va (widthNow s) j) (elem s vb (widthNow s) j) = rel j) :
    Does i s (compared s kd k rel) := by
  have view : (entry s i 0 0).len = lenNow s := viewOf_elementWise elementWise _
  have arith : i.queueOf = some 0 := queueOf_of_res pipe (by decide)
  refine does_of_update (op := cmpOp acc kd va vb k f) arith free meaning issues (vcheck_groups fits accepts)
    (leavesIssue_putMask ..) fun c => ?_
  have bits : (span (lenNow s).e0 (lenNow s).vl).map (fun j => (j, if sel (begun s c).hart k j
      then f (typeNow s) (widthNow s) (elem s va (widthNow s) j) (elem s vb (widthNow s) j) else (false, noFlags))) =
      comparedBits s k rel := by
    rw [span_eq_filter]
    simp only [value]
    rfl
  simp only [cmpOp, view, ← bits]
  rfl

/-! ### Mask logic (R170) -/

theorem maskLogic_end {r : (BitVec 3 → BitVec 3 → BitVec 3 → Instr) × (Bool → Bool → Bool)} (row : r ∈ maskLogic)
    {kd ka kb : BitVec 3} (issues : Issues (r.1 kd ka kb) s) :
    Does (r.1 kd ka kb) s (retire (withHart (viewCleared s) fun h =>
      putMask h kd.toNat ((List.range (lenNow s).vl).map fun i =>
        (i, r.2 ((getMask s.hart ka.toNat).getLsbD i) ((getMask s.hart kb.toNat).getLsbD i)))) 0) := by
  simp only [maskLogic, List.mem_cons, List.not_mem_nil, or_false] at row
  obtain rfl | rfl | rfl | rfl | rfl | rfl := row
  all_goals
    exact does_of_update (queueOf_of_res (r := resVB) rfl (by decide)) rfl rfl issues rfl (leavesIssue_putMask ..)
      fun _ => rfl

end

/-- Settles O12: the compares by their relations, the mask logic row by row, and the counts as answers. -/
theorem masksAreComparedCombinedAndCounted : Obligations.MasksAreComparedCombinedAndCounted := by
  intro s
  refine ⟨?compares, fun r row kd ka kb issues => maskLogic_end row issues, fun sd ka issues => ?count,
    fun sd ka issues => ?first⟩
  case compares =>
    intro cond kd va vb k t b fitA fitB
    have fits : ∀ v ∈ [va, vb], Rules.Fits s v (groupNow s) :=
      List.forall_mem_cons.2 ⟨fitA, List.forall_mem_singleton.2 fitB⟩
    refine ⟨fun int issues => ?signed, fun int issues => ?unsigned, fun low high issues => ?float⟩
    case signed =>
      exact does_of_compare rfl rfl rfl rfl issues fits (decide_eq_true int) fun _ =>
        congrArg (·, 0) (intRel_eq_relation ..)
    case unsigned =>
      exact does_of_compare rfl rfl rfl rfl issues fits (decide_eq_true int) fun _ =>
        congrArg (·, 0) (intRel_eq_relation ..)
    case float =>
      have float : isFloat (typeNow s) = true :=
        Bool.and_eq_true_iff.2 ⟨decide_eq_true low, decide_eq_true high⟩
      exact does_of_compare rfl rfl rfl rfl issues fits float fun _ => rfl
  case count =>
    exact does_of_answer (op := opKpopc sd ka) ⟨rfl, .tail _ (.head _)⟩ issues rfl rfl fun _ _ => rfl
  case first =>
    refine does_of_answer (op := opKfirst sd ka) ⟨rfl, .tail _ (.head _)⟩ issues rfl rfl fun c p => ?_
    rw [← show BitVec.allOnes 64 = BitVec.ofInt 64 (-1) from rfl]
    rfl

end Sys2Proof.Proofs
end

section
/-! SUPPORT. Element-wise instructions of the arithmetic queue whose results carry flags: how each shape of them ends
(R92, R148, R157, R186, R189, R194). -/

namespace Sys2Proof.Proofs

open Sys2Proof.Machine Sys2Proof.Safety Sys2Proof.Rules Sys2Proof.Laws

/-! ### Register groups (R63, R148, R186) -/

/-- R63: registers that lie in the file, and in matrix mode outside the tile, pass each check. -/
theorem legal_of_fits {s : State} {v : BitVec 6} {n : Nat} (fits : Rules.Fits s v n) :
    (s.hart.mview && VRegs.inTile ⟨v.toNat, n⟩) = false ∧ VRegs.aligned ⟨v.toNat, n⟩ = true := by
  obtain ⟨size, aligned, file, tile⟩ := fits
  refine ⟨?_, ?_⟩
  · cases view : s.hart.mview
    · rfl
    · exact decide_eq_false (Nat.not_lt.2 (tile view))
  · simp only [VRegs.aligned, Bool.and_eq_true, decide_eq_true_eq, beq_iff_eq]
    exact ⟨⟨size, aligned⟩, file⟩

theorem fits_two {s : State} {u v : BitVec 6} {n : Nat} (fitU : Rules.Fits s u n) (fitV : Rules.Fits s v n) :
    ∀ r ∈ [u, v], Rules.Fits s r n :=
  List.forall_mem_cons.2 ⟨fitU, List.forall_mem_singleton.2 fitV⟩

theorem fits_three {s : State} {u v w : BitVec 6} {n : Nat} (fitU : Rules.Fits s u n) (fitV : Rules.Fits s v n)
    (fitW : Rules.Fits s w n) : ∀ r ∈ [u, v, w], Rules.Fits s r n :=
  List.forall_mem_cons.2 ⟨fitU, fits_two fitV fitW⟩

theorem apart_two {u v w : BitVec 6} {n m : Nat} (apartV : Apart u n v m) (apartW : Apart u n w m) :
    ∀ r ∈ [v, w], Apart u n r m :=
  List.forall_mem_cons.2 ⟨apartV, List.forall_mem_singleton.2 apartW⟩

/-- R186: groups apart share no register. -/
theorem meets_of_apart {a b : BitVec 6} {n m : Nat} (apart : Apart a n b m) :
    VRegs.meets ⟨a.toNat, n⟩ ⟨b.toNat, m⟩ = false := by
  simp only [VRegs.meets, Bool.and_eq_false_iff, decide_eq_false_iff_not, Nat.not_lt]
  exact apart.symm

theorem typeWidth_pos (t : Nat) : 0 < typeWidth t := by
  unfold typeWidth
  split <;> decide

/-! ### Results with flags (R92) -/

theorem allFlags_eq_flagsOf (l : List (Nat × FRes)) : allFlags l = flagsOf (l.map fun p => p.2) := by
  rw [flagsOf, List.foldl_map]
  rfl

/-- An instruction of the arithmetic queue that does not resynchronise (R115, R160). -/
structure Computes (i : Instr) : Prop where
  arith : i.queueOf = some 0
  free : i.resync = false

/-- One that acts element by element (R153). -/
structure ElementWise (i : Instr) : Prop extends Computes i where
  notWhole : i.whole = false

section
variable {i : Instr} {s : State} {op : VOp} {sa sb : Dword} {acc : Nat → Bool} {vd va vb : BitVec 6} {k : BitVec 3}

theorem Computes.of_pipe (r : BitVec 7) (pipe : i.res = r) (arith : queueOfRes r = some 0) (free : i.resync = false) :
    Computes i := ⟨queueOf_of_res pipe arith, free⟩

theorem ElementWise.of_pipe (r : BitVec 7) (pipe : i.res = r) (arith : queueOfRes r = some 0) (free : i.resync = false)
    (notWhole : i.whole = false) : ElementWise i := ⟨.of_pipe r pipe arith free, notWhole⟩

/-- R92: an instruction that puts results in a group, whatever its convoy is, ends with them and with their flags. -/
theorem does_of_results (computes : Computes i) (meaning : exec i s = vexec i op sa sb s) (issues : Issues i s)
    (accepted : op.check s.hart.width s.hart.mview (lenNow s) = none) {b : Nat} {l : List (Nat × FRes)}
    (run : ∀ c, op.run (begun s c) (entry s i sa sb) = putResults (begun s c) vd b l) : Does i s (landedAt s vd b l) := by
  rw [landedAt, ← allFlags_eq_flagsOf]
  exact does_of_update computes.arith computes.free meaning issues accepted (leavesIssue_putElems ..) run

/-- R157: an instruction that computes each active element from what it captured and the hart, whatever its convoy is. -/
theorem does_of_elements {width : QEntry → Nat} {f : QEntry → Hart → Nat → FRes} {b : Nat} {val : Nat → FRes}
    (wise : ElementWise i) (meaning : exec i s = vexec i op sa sb s) (issues : Issues i s)
    (accepted : op.check s.hart.width s.hart.mview (lenNow s) = none)
    (run : op.run = fun u e => elementWise vd (width e) k (f e) u e) (widthIs : width (entry s i sa sb) = b)
    (value : ∀ c j, f (entry s i sa sb) (begun s c).hart j = val j) : Does i s (landed s vd b (active s k) val) := by
  refine does_of_results wise.toComputes meaning issues accepted fun c => ?_
  have view : (entry s i sa sb).len = lenNow s := viewOf_elementWise wise.notWhole _
  rw [run, ← widthIs, ← funext (value c), ← activeFrom_begun s c k, ← view]
  rfl

theorem binOp_run (f : QEntry → Nat → Nat → Nat → Nat → FRes) : (binOp acc vd va vb k f).run = fun u e =>
    elementWise vd e.len.width k (fun h j => f e e.len.width (getElem h va.toNat e.len.width j)
      (getElem h vb.toNat e.len.width j) (getElem h vd.toNat e.len.width j)) u e := rfl

theorem unOp_run (f : QEntry → Nat → Nat → FRes) : (unOp acc vd va k f).run = fun u e =>
    elementWise vd e.len.width k (fun h j => f e e.len.width (getElem h va.toNat e.len.width j)) u e := rfl

theorem wideOp_run (f : QEntry → Nat → Nat → Nat → Nat → FRes) : (wideOp acc vd va vb k f).run = fun u e =>
    elementWise vd (2 * e.len.width) k (fun h j => f e e.len.width (getElem h va.toNat e.len.width j)
      (getElem h vb.toNat e.len.width j) (getElem h vd.toNat (2 * e.len.width) j)) u e := rfl

/-- R148: two sources of the width of `vtype`. -/
theorem does_of_binOp {f : QEntry → Nat → Nat → Nat → Nat → FRes} {val : Nat → FRes} (wise : ElementWise i)
    (meaning : exec i s = vexec i (binOp acc vd va vb k f) 0 0 s) (issues : Issues i s)
    (fits : ∀ v ∈ [vd, va, vb], Rules.Fits s v (groupNow s)) (accepts : acc (typeNow s) = true)
    (value : ∀ j, f (entry s i 0 0) (widthNow s) (elem s va (widthNow s) j) (elem s vb (widthNow s) j)
      (elem s vd (widthNow s) j) = val j) : Does i s (landed s vd (widthNow s) (active s k) val) := by
  refine does_of_elements wise meaning issues (vcheck_groups fits accepts) (binOp_run f) (entry_width ..) fun c j => ?_
  rw [← value j, ← entry_width s i 0 0]
  rfl

/-- One source. -/
theorem does_of_unOp {f : QEntry → Nat → Nat → FRes} {val : Nat → FRes} (wise : ElementWise i)
    (meaning : exec i s = vexec i (unOp acc vd va k f) 0 0 s) (issues : Issues i s)
    (fits : ∀ v ∈ [vd, va], Rules.Fits s v (groupNow s)) (accepts : acc (typeNow s) = true)
    (value : ∀ j, f (entry s i 0 0) (widthNow s) (elem s va (widthNow s) j) = val j) :
    Does i s (landed s vd (widthNow s) (active s k) val) := by
  refine does_of_elements wise meaning issues (vcheck_groups fits accepts) (unOp_run f) (entry_width ..) fun c j => ?_
  rw [← value j, ← entry_width s i 0 0]
  rfl

/-- R148, R186: a destination of twice the width, apart from its two sources. -/
theorem does_of_wideOp {f : QEntry → Nat → Nat → Nat → Nat → FRes} {val : Nat → FRes} (wise : ElementWise i)
    (meaning : exec i s = vexec i (wideOp acc vd va vb k f) 0 0 s) (issues : Issues i s)
    (fitD : Rules.Fits s vd (2 * groupNow s)) (fits : ∀ v ∈ [va, vb], Rules.Fits s v (groupNow s))
    (apart : ∀ v ∈ [va, vb], Apart vd (2 * groupNow s) v (groupNow s)) (accepts : acc (typeNow s) = true)
    (value : ∀ j, f (entry s i 0 0) (widthNow s) (elem s va (widthNow s) j) (elem s vb (widthNow s) j)
      (elem s vd (2 * widthNow s) j) = val j) : Does i s (landed s vd (2 * widthNow s) (active s k) val) := by
  have clear (v : BitVec 6) (source : v ∈ [va, vb]) : (!(wideReg (lenNow s) vd).meets (grpReg (lenNow s) v)) = true :=
    congrArg not (meets_of_apart (apart v source))
  have accepted : (wideOp acc vd va vb k f).check s.hart.width s.hart.mview (lenNow s) = none := by
    refine vcheck_eq_none.2 ⟨?_, List.forall_mem_cons.2 ⟨legal_of_fits fitD, ?_⟩⟩
    · rw [clear va (.head _), clear vb (.tail _ (.head _)), Bool.and_true, Bool.and_true]
      exact accepts
    · exact List.forall_mem_cons.2 ⟨legal_of_fits (fits va (.head _)),
        List.forall_mem_singleton.2 (legal_of_fits (fits vb (.tail _ (.head _))))⟩
  refine does_of_elements (width := fun e => 2 * e.len.width) wise meaning issues accepted
    (wideOp_run f) (congrArg (2 * ·) (entry_width ..)) fun c j => ?_
  rw [← value j, ← entry_width s i 0 0]
  rfl

end

end Sys2Proof.Proofs
end

section
/-! SUPPORT. The integer vector instructions: what each computes is what its rule says (R11, R77-R79, R189-R193). -/

namespace Sys2Proof.Proofs

open Sys2Proof.Machine Sys2Proof.Safety Sys2Proof.Rules Sys2Proof.Laws

/-! ### Wrapping, extension and saturation (R11, R77) -/

theorem wrapN_natCast (b n : Nat) : wrapN b n = n % 2 ^ b := rfl

theorem wrapN_sub {b x y : Nat} (hy : y < 2 ^ b) : wrapN b ((x : Int) - y) = (x + 2 ^ b - y) % 2 ^ b := by
  rw [← wrapN_natCast, wrapN, wrapN, Int.natCast_sub (by omega), Nat.cast_add, add_sub_right_comm, Int.add_emod_right]

theorem sx_eq_toInt {b : Nat} (pos : 0 < b) (x : Nat) : sx b x = (BitVec.ofNat b x).toInt := by
  have double := Nat.two_pow_pred_mul_two pos
  rw [BitVec.toInt_eq_toNat_cond, BitVec.toNat_ofNat, sx]
  refine if_congr ?_ rfl rfl
  omega

/-- R11: saturation to the signed range is a clamp. -/
theorem satS_eq_clamp (b : Nat) (x : Int) : satS b x = max (-(2 ^ (b - 1))) (min (2 ^ (b - 1) - 1) x) := by
  have pos : (0 : Int) < 2 ^ (b - 1) := by positivity
  simp only [satS, Nat.cast_pow, Nat.cast_ofNat]
  generalize (2 : Int) ^ (b - 1) = lim at pos ⊢
  split_ifs <;> omega

/-- R11: and so is saturation to the natural range. -/
theorem satU_eq_clamp (b : Nat) (x : Int) : satU b x = max 0 (min (2 ^ b - 1) x) := by
  have pos : (0 : Int) < 2 ^ b := by positivity
  simp only [satU, Nat.cast_pow, Nat.cast_ofNat]
  generalize (2 : Int) ^ b = lim at pos ⊢
  split_ifs <;> omega

/-- A natural sum saturates at the largest natural of the width. -/
theorem wrapN_satU_natCast (b n : Nat) : wrapN b (satU b n) = min (2 ^ b - 1) n := by
  have pos : 0 < 2 ^ b := Nat.two_pow_pos b
  have clamp : satU b n = ((min (2 ^ b - 1) n : Nat) : Int) := by
    simp only [satU]
    split_ifs <;> omega
  rw [clamp, wrapN_natCast, Nat.mod_eq_of_lt (by omega)]

/-- A natural difference saturates at 0. -/
theorem wrapN_satU_sub {b x : Nat} (hx : x < 2 ^ b) (y : Nat) : wrapN b (satU b ((x : Int) - y)) = x - y := by
  have clamp : satU b ((x : Int) - y) = ((x - y : Nat) : Int) := by
    simp only [satU]
    split_ifs <;> omega
  rw [clamp, wrapN_natCast, Nat.mod_eq_of_lt (by omega)]

/-! ### Division (R78, R193) -/

section
variable {b x y : Nat} (hy : y < 2 ^ b)
include hy

theorem ofNat_eq_zero_iff : BitVec.ofNat b y = 0 ↔ y = 0 := by
  rw [← BitVec.toNat_inj, BitVec.toNat_ofNat, Nat.mod_eq_of_lt hy]
  rfl

theorem toNat_divS (pos : 0 < b) : (divS b (BitVec.ofNat b x) (BitVec.ofNat b y)).toNat =
    if y = 0 then 2 ^ b - 1 else wrapN b ((sx b x).tdiv (sx b y)) := by
  rw [sx_eq_toInt pos, sx_eq_toInt pos, divS, apply_ite BitVec.toNat, BitVec.toNat_allOnes, BitVec.toNat_ofInt]
  exact if_congr (ofNat_eq_zero_iff hy) rfl rfl

theorem toNat_remS (hx : x < 2 ^ b) (pos : 0 < b) : (remS b (BitVec.ofNat b x) (BitVec.ofNat b y)).toNat =
    if y = 0 then x else wrapN b ((sx b x).tmod (sx b y)) := by
  rw [sx_eq_toInt pos, sx_eq_toInt pos, remS, apply_ite BitVec.toNat, BitVec.toNat_ofInt, BitVec.toNat_ofNat,
    Nat.mod_eq_of_lt hx]
  exact if_congr (ofNat_eq_zero_iff hy) rfl rfl

theorem toNat_divU (hx : x < 2 ^ b) : (divU b (BitVec.ofNat b x) (BitVec.ofNat b y)).toNat =
    if y = 0 then 2 ^ b - 1 else x / y := by
  rw [divU, apply_ite BitVec.toNat, BitVec.toNat_allOnes, BitVec.toNat_udiv, BitVec.toNat_ofNat, BitVec.toNat_ofNat,
    Nat.mod_eq_of_lt hx, Nat.mod_eq_of_lt hy]
  exact if_congr (ofNat_eq_zero_iff hy) rfl rfl

theorem toNat_remU (hx : x < 2 ^ b) : (remU b (BitVec.ofNat b x) (BitVec.ofNat b y)).toNat =
    if y = 0 then x else x % y := by
  rw [remU, apply_ite BitVec.toNat, BitVec.toNat_umod, BitVec.toNat_ofNat, BitVec.toNat_ofNat,
    Nat.mod_eq_of_lt hx, Nat.mod_eq_of_lt hy]
  exact if_congr (ofNat_eq_zero_iff hy) rfl rfl

end

/-! ### One width (R189, R190, R193) -/

/-- The instruction of a row is element-wise, and its result in `b` bits from two elements and the old one is the row's. -/
def IntegerRow (r : (BitVec 6 → BitVec 6 → BitVec 6 → BitVec 3 → Instr) × (Nat → Nat → Nat → Nat → Nat)) : Prop :=
  ∃ f : Nat → Nat → Nat → Nat → Nat,
    (∀ b x y d, 0 < b → x < 2 ^ b → y < 2 ^ b → f b x y d = r.2 b x y d) ∧
    ∀ vd va vb k s, ElementWise (r.1 vd va vb k) ∧
      exec (r.1 vd va vb k) s = vexec (r.1 vd va vb k) (binOp isInt vd va vb k fun _ b x y d => .plain (f b x y d)) 0 0 s

theorem integerRow_of_intOp {form : BitVec 6 → BitVec 6 → BitVec 6 → BitVec 3 → Instr} {f : Nat → Nat → Nat → Nat}
    {g : Nat → Nat → Nat → Nat → Nat} (wise : ∀ vd va vb k, ElementWise (form vd va vb k))
    (meaning : ∀ vd va vb k s, exec (form vd va vb k) s = vexec (form vd va vb k) (intOp vd va vb k f) 0 0 s)
    (value : ∀ b x y d, 0 < b → x < 2 ^ b → y < 2 ^ b → f b x y = g b x y d) : IntegerRow (form, g) :=
  ⟨fun b x y _ => f b x y, value, fun vd va vb k s => ⟨wise vd va vb k, meaning vd va vb k s⟩⟩

theorem integerRow_of_divOp {form : BitVec 6 → BitVec 6 → BitVec 6 → BitVec 3 → Instr}
    {f : (b : Nat) → BitVec b → BitVec b → BitVec b} {g : Nat → Nat → Nat → Nat → Nat}
    (wise : ∀ vd va vb k, ElementWise (form vd va vb k))
    (meaning : ∀ vd va vb k s, exec (form vd va vb k) s = vexec (form vd va vb k) (divOp f vd va vb k) 0 0 s)
    (value : ∀ b x y d, 0 < b → x < 2 ^ b → y < 2 ^ b →
      (f b (BitVec.ofNat b x) (BitVec.ofNat b y)).toNat = g b x y d) : IntegerRow (form, g) :=
  integerRow_of_intOp wise meaning value

theorem vectorInts_rows : ∀ r ∈ vectorInts, IntegerRow r := by
  simp only [vectorInts, List.forall_mem_cons, List.not_mem_nil, false_imp_iff, implies_true, and_true]
  refine ⟨?add, ?sub, ?min, ?max, ?minn, ?maxn, ?sll, ?srl, ?sra, ?sadd, ?ssub, ?saddn, ?ssubn, ?macc, ?mul, ?mulh,
    ?mulhn, ?div, ?divn, ?rem, ?remn⟩
  case macc =>
    exact ⟨fun b x y d => (d + x * y) % 2 ^ b, fun b x y d _ _ _ => (wrapN_natCast b (d + x * y)).symm,
      fun _ _ _ _ _ => ⟨.of_pipe resVA rfl rfl rfl rfl, rfl⟩⟩
  case' div | divn | rem | remn =>
    refine integerRow_of_divOp (fun _ _ _ _ => .of_pipe resSF rfl rfl rfl rfl) (fun _ _ _ _ _ => rfl)
      fun b x y d pos hx hy => ?_
  case' mul | mulh | mulhn =>
    refine integerRow_of_intOp (fun _ _ _ _ => .of_pipe resVA rfl rfl rfl rfl) (fun _ _ _ _ _ => rfl)
      fun b x y d pos hx hy => ?_
  case' add | sub | min | max | minn | maxn | sll | srl | sra | sadd | ssub | saddn | ssubn =>
    refine integerRow_of_intOp (fun _ _ _ _ => .of_pipe resVB rfl rfl rfl rfl) (fun _ _ _ _ _ => rfl)
      fun b x y d pos hx hy => ?_
  case add => exact (wrapN_natCast b (x + y)).symm
  case sub => exact (wrapN_sub hy).symm
  case min | max | srl | mulhn => rfl
  case minn => exact Nat.min_def
  case maxn => exact Nat.max_def
  case sll => exact_mod_cast (wrapN_natCast b (x * 2 ^ (y % b))).symm
  case sra => rw [Nat.cast_pow, Nat.cast_ofNat]
  case sadd | ssub => rw [satS_eq_clamp]
  case saddn => exact wrapN_satU_natCast b (x + y)
  case ssubn => exact wrapN_satU_sub hx y
  case mul => exact_mod_cast (wrapN_natCast b (x * y)).symm
  case mulh => rw [Nat.cast_pow, Nat.cast_ofNat]
  case div => exact toNat_divS hy pos
  case divn => exact toNat_divU hy hx
  case rem => exact toNat_remS hy hx pos
  case remn => exact toNat_remU hy hx

/-- R189, R190, R193: the operands and results have one width. -/
theorem vectorIntegersWrite : VectorIntegersWrite := by
  intro vd va vb k s fitD fitA fitB
  have two := fits_two fitD fitA
  have three := fits_three fitD fitA fitB
  refine ⟨fun r row int issues => ?integer, fun r row known issues => ?bits, fun signed issues => ?abs⟩
  case integer =>
    obtain ⟨f, value, meaning⟩ := vectorInts_rows r row
    obtain ⟨wise, runs⟩ := meaning vd va vb k s
    exact does_of_binOp wise runs issues three (decide_eq_true int) fun j =>
      congrArg exact (value _ _ _ _ (typeWidth_pos _) (elem_lt ..) (elem_lt ..))
  case bits =>
    have accepts : notBlock (typeNow s) = true := by
      simpa only [notBlock, Bool.or_eq_true, decide_eq_true_eq] using known
    simp only [vectorBits, List.mem_cons, List.not_mem_nil, or_false] at row
    obtain rfl | rfl | rfl := row
    all_goals exact does_of_binOp (.of_pipe resVB rfl rfl rfl rfl) rfl issues three accepts fun _ => rfl
  case abs =>
    refine does_of_unOp (.of_pipe resVB rfl rfl rfl rfl) rfl issues two (decide_eq_true signed) fun j => ?_
    rw [Int.natCast_natAbs]
    rfl

/-! ### Between widths (R148, R191, R192) -/

theorem extElem_eq_readAs (t b x : Nat) : extElem t b x = readAs t b x := by
  simp only [extElem, isSigned, decide_eq_true_eq, readAs]

/-- R191: the result saturated to its type. -/
theorem sat_eq_clamp (t b : Nat) (r : Int) : (if isSigned t then satS b r else satU b r) =
    if t < 4 then max (-(2 ^ (b - 1))) (min (2 ^ (b - 1) - 1) r) else max 0 (min (2 ^ b - 1) r) := by
  simp only [isSigned, decide_eq_true_eq, satS_eq_clamp, satU_eq_clamp]

theorem opVnclip_run (vd va vb : BitVec 6) (k : BitVec 3) : (opVnclip vd va vb k).run = fun u e =>
    elementWise vd e.len.width k (fun h j =>
      let r := rshr (extElem e.len.type (2 * e.len.width) (getElem h va.toNat (2 * e.len.width) j))
        (getElem h vb.toNat e.len.width j % (2 * e.len.width)) e.mode
      .plain (wrapN e.len.width (if isSigned e.len.type then satS e.len.width r else satU e.len.width r))) u e := rfl

/-- R191, R192: a destination, or a source, has twice the width. -/
theorem vectorIntegersWiden : VectorIntegersWiden := by
  intro vd va vb k s t b g
  refine ⟨fun int narrow fitD fitA fitB apartA apartB => ?wide, fun int narrow fitD fitA fitB apart issues => ?clip⟩
  case wide =>
    have fits := fits_two fitA fitB
    have apart := apart_two apartA apartB
    have accepts := widens_of_narrow int narrow
    refine ⟨fun issues => ?add, fun issues => ?mul⟩
    all_goals
      refine does_of_wideOp (acc := fun t => isInt t && t % 4 != 3) (.of_pipe (resVA ||| resSL) rfl rfl rfl rfl) rfl
        issues fitD fits apart accepts fun j => ?_
      rw [extElem_eq_readAs, extElem_eq_readAs]
      rfl
  case clip =>
    have accepted : (opVnclip vd va vb k).check s.hart.width s.hart.mview (lenNow s) = none := by
      refine vcheck_eq_none.2 ⟨?_, List.forall_mem_cons.2 ⟨legal_of_fits fitD, List.forall_mem_cons.2
        ⟨legal_of_fits fitA, List.forall_mem_singleton.2 (legal_of_fits fitB)⟩⟩⟩
      have clear : (!(grpReg (lenNow s) vd).meets (wideReg (lenNow s) va)) = true := congrArg not (meets_of_apart apart)
      rw [clear, Bool.and_true]
      exact Bool.and_eq_true_iff.2 ⟨decide_eq_true int, bne_iff_ne.2 narrow⟩
    refine does_of_elements (.of_pipe resVB rfl rfl rfl rfl) rfl issues accepted (opVnclip_run vd va vb k)
      (entry_width ..) fun c j => ?_
    simp only [entry_width, entry_type, extElem_eq_readAs, sat_eq_clamp]
    rfl

/-- Settles O10: the instructions of one width row by row, and those between widths. -/
theorem vectorIntegersAreComputed : Obligations.VectorIntegersAreComputed :=
  ⟨vectorIntegersWrite, vectorIntegersWiden⟩

end Sys2Proof.Proofs
end

section
/-! SUPPORT. The floating-point vector instructions, of one width and between widths (R82, R194-R200). -/

namespace Sys2Proof.Proofs

open Sys2Proof.Machine Sys2Proof.Safety Sys2Proof.Rules Sys2Proof.Laws

/-! ### Signs (R82, R194) -/

theorem width_sub_one (f : FFmt) : f.width - 1 = f.ew + f.mw := by
  unfold FFmt.width
  omega

theorem signed_eq_add (f : FFmt) (x y : Nat) : f.signed (f.neg y) (x % 2 ^ (f.ew + f.mw)) =
    x % 2 ^ (f.width - 1) + y / 2 ^ (f.width - 1) % 2 * 2 ^ (f.width - 1) := by
  rw [width_sub_one, FFmt.signed, FFmt.neg]
  obtain zero | one := Nat.mod_two_eq_zero_or_one (y / 2 ^ (f.ew + f.mw))
  · simp [zero]
  · simp [one, Nat.add_comm]

theorem flip_eq (f : FFmt) (x : Nat) : f.flip x =
    if x / 2 ^ (f.width - 1) % 2 = 1 then x - 2 ^ (f.width - 1) else x + 2 ^ (f.width - 1) := by
  simp only [width_sub_one, FFmt.flip, FFmt.neg, beq_iff_eq]

/-! ### One width (R194-R196, R199, R200) -/

/-- The instruction of a row of two sources is element-wise, and its result is the row's. -/
def FloatRow (r : (BitVec 6 → BitVec 6 → BitVec 6 → BitVec 3 → Instr) × (FFmt → RM → Nat → Nat → Nat → FRes)) : Prop :=
  ∀ vd va vb k s, ElementWise (r.1 vd va vb k) ∧
    exec (r.1 vd va vb k) s = vexec (r.1 vd va vb k)
      (binOp isFloat vd va vb k fun e _ x y d => r.2 (fmtOf e.len.type) e.mode x y d) 0 0 s

theorem vectorFloats_rows : ∀ r ∈ vectorFloats, FloatRow r := by
  simp only [vectorFloats, List.forall_mem_cons, List.not_mem_nil, false_imp_iff, implies_true, and_true]
  refine ⟨?add, ?sub, ?mul, ?div, ?min, ?max, ?sgnj, ?madd, ?msub, ?nmadd, ?nmsub⟩
  case div => exact fun _ _ _ _ _ => ⟨.of_pipe resSF rfl rfl rfl rfl, rfl⟩
  case sgnj =>
    simp only [FloatRow, ← signed_eq_add]
    exact fun _ _ _ _ _ => ⟨.of_pipe resVA rfl rfl rfl rfl, rfl⟩
  all_goals exact fun _ _ _ _ _ => ⟨.of_pipe resVA rfl rfl rfl rfl, rfl⟩

/-- The instruction of a row of one source, of the types it accepts, is element-wise, and its result is the row's. -/
def FloatRow1 (acc : Nat → Bool) (r : (BitVec 6 → BitVec 6 → BitVec 3 → Instr) × (FFmt → RM → Nat → FRes)) : Prop :=
  ∀ vd va k s, ElementWise (r.1 vd va k) ∧
    exec (r.1 vd va k) s = vexec (r.1 vd va k) (unOp acc vd va k fun e _ x => r.2 (fmtOf e.len.type) e.mode x) 0 0 s

theorem vectorFloats1_rows : ∀ r ∈ vectorFloats1, FloatRow1 isFloat r := by
  simp only [vectorFloats1, List.forall_mem_cons, List.not_mem_nil, false_imp_iff, implies_true, and_true]
  refine ⟨?sqrt, ?recip, ?rsqrt, ?classify, ?abs, ?neg⟩
  case sqrt | recip | rsqrt => exact fun _ _ _ _ => ⟨.of_pipe resSF rfl rfl rfl rfl, rfl⟩
  case classify => exact fun _ _ _ _ => ⟨.of_pipe resVB rfl rfl rfl rfl, rfl⟩
  case abs =>
    simp only [FloatRow1, width_sub_one]
    exact fun _ _ _ _ => ⟨.of_pipe resVB rfl rfl rfl rfl, rfl⟩
  case neg =>
    simp only [FloatRow1, ← flip_eq]
    exact fun _ _ _ _ => ⟨.of_pipe resVB rfl rfl rfl rfl, rfl⟩

theorem vectorSpecials_rows : ∀ r ∈ vectorSpecials, FloatRow1 specialType r := by
  simp only [vectorSpecials, List.forall_mem_cons, List.not_mem_nil, false_imp_iff, implies_true, and_true]
  refine ⟨?sin, ?cos, ?sint, ?cost, ?exp2, ?log2, ?tanh⟩
  all_goals exact fun _ _ _ _ => ⟨.of_pipe resSF rfl rfl rfl rfl, rfl⟩

theorem FloatRow1.does {acc : Nat → Bool} {r : (BitVec 6 → BitVec 6 → BitVec 3 → Instr) × (FFmt → RM → Nat → FRes)}
    {s : State} {k : BitVec 3} {vd va : BitVec 6} (row : FloatRow1 acc r)
    (fits : ∀ v ∈ [vd, va], Rules.Fits s v (groupNow s)) (accepts : acc (typeNow s) = true)
    (issues : Issues (r.1 vd va k) s) :
    Does (r.1 vd va k) s (landed s vd (widthNow s) (active s k) fun i =>
      r.2 (fmtOf (typeNow s)) (modeNow s) (elem s va (widthNow s) i)) := by
  obtain ⟨wise, runs⟩ := row vd va k s
  refine does_of_unOp wise runs issues fits accepts fun j => ?_
  rw [entry_type]
  rfl

/-- R194-R196, R199, R200: the operands and results have one width. -/
theorem vectorFloatsWrite : VectorFloatsWrite := by
  intro vd va vb k s t b fitD fitA fitB low high
  have two := fits_two fitD fitA
  have three := fits_three fitD fitA fitB
  have float : isFloat t = true := Bool.and_eq_true_iff.2 ⟨decide_eq_true low, decide_eq_true high⟩
  refine ⟨fun r row issues => ?binary, fun r row issues => (vectorFloats1_rows r row).does two float issues, fun single => ?_⟩
  case binary =>
    obtain ⟨wise, runs⟩ := vectorFloats_rows r row vd va vb k s
    refine does_of_binOp wise runs issues three float fun j => ?_
    rw [entry_type]
    rfl
  have special : specialType t = true :=
    Bool.and_eq_true_iff.2 ⟨decide_eq_true (Nat.lt_of_le_of_ne low single.symm), decide_eq_true high⟩
  refine ⟨fun r row issues => (vectorSpecials_rows r row).does two special issues, fun issues => ?angle⟩
  case angle => exact does_of_binOp (.of_pipe resSF rfl rfl rfl rfl) rfl issues three special fun _ => rfl

/-! ### Between widths (R148, R186, R197, R198) -/

/-- R198: the pairs of types that the statement names are those accepted. -/
theorem cvtPair_of {t dt : Nat} (pair : (8 ≤ t ∧ t ≤ 0xE ∧ (dt < 8 ∨ 8 ≤ dt ∧ dt ≤ 0xE)) ∨ (t < 8 ∧ 8 ≤ dt ∧ dt ≤ 0xE) ∨
    (0x13 ≤ t ∧ t ≤ 0x16 ∧ 0x13 ≤ dt ∧ dt ≤ 0x16)) : cvtPair t dt = true := by
  simp only [cvtPair, cvtFloat, isInt, isComplex, Bool.or_eq_true, Bool.and_eq_true, decide_eq_true_eq]
  omega

section
variable {s : State} {i : Instr} {vd va : BitVec 6} {dt : BitVec 5} {k : BitVec 3} {rtz : Bool}

theorem cvtOp_run : (cvtOp rtz vd va dt k).run = fun u e => elementWise vd (typeWidth dt.toNat) k (fun h j =>
    cvtElem e.len.type dt.toNat (if rtz then .rtz else e.mode) e.satfp (getElem h va.toNat e.len.width j)) u e := rfl

/-- R186, R198: a conversion of an accepted pair, whose groups are apart where their widths differ. -/
theorem does_of_cvtOp (wise : ElementWise i) (meaning : exec i s = vexec i (cvtOp rtz vd va dt k) 0 0 s)
    (issues : Issues i s) (fitD : Rules.Fits s vd (max 1 (groupNow s * typeWidth dt.toNat / widthNow s)))
    (fitA : Rules.Fits s va (groupNow s))
    (apart : typeWidth dt.toNat = widthNow s ∨
      Apart vd (max 1 (groupNow s * typeWidth dt.toNat / widthNow s)) va (groupNow s))
    (pair : cvtPair (typeNow s) dt.toNat = true) :
    Does i s (landed s vd (typeWidth dt.toNat) (active s k) fun j =>
      cvtElem (typeNow s) dt.toNat (if rtz then .rtz else modeNow s) (fcsrSat (fcsrNow s)) (elem s va (widthNow s) j)) := by
  have accepted : (cvtOp rtz vd va dt k).check s.hart.width s.hart.mview (lenNow s) = none := by
    refine vcheck_eq_none.2 ⟨Bool.and_eq_true_iff.2 ⟨pair, Bool.or_eq_true_iff.2 ?_⟩,
      List.forall_mem_cons.2 ⟨legal_of_fits fitD, List.forall_mem_singleton.2 (legal_of_fits fitA)⟩⟩
    exact apart.imp beq_iff_eq.2 fun disjoint => congrArg not (meets_of_apart disjoint)
  refine does_of_elements (width := fun _ => typeWidth dt.toNat) wise meaning issues accepted cvtOp_run rfl fun c j => ?_
  rw [entry_type, entry_width]
  rfl
end

/-- R197, R198: the destination has a type of its own. -/
theorem vectorFloatsWiden : VectorFloatsWiden := by
  intro vd va vb k s t b g
  refine ⟨fun low high fitD fitA fitB apartA apartB => ?wide, fun dt fitD fitA apart pair => ?convert⟩
  case wide =>
    have fits := fits_two fitA fitB
    have apart := apart_two apartA apartB
    have accepts : canWiden t = true := Bool.and_eq_true_iff.2 ⟨decide_eq_true low, decide_eq_true high⟩
    refine ⟨fun issues => ?mul, fun issues => ?macc⟩
    all_goals
      exact does_of_wideOp (.of_pipe (resVA ||| resSL) rfl rfl rfl rfl) rfl issues fitD fits apart accepts fun _ => rfl
  case convert =>
    have accepts := cvtPair_of pair
    refine ⟨fun issues => ?rounded, fun issues => ?truncated⟩
    case rounded =>
      exact does_of_cvtOp (rtz := false) (.of_pipe resVA rfl rfl rfl rfl) rfl issues fitD fitA apart accepts
    case truncated =>
      exact does_of_cvtOp (rtz := true) (.of_pipe resVA rfl rfl rfl rfl) rfl issues fitD fitA apart accepts

/-- Settles O11: the instructions of one width row by row, the widening products, and the conversions. -/
theorem vectorFloatsAreComputed : Obligations.VectorFloatsAreComputed :=
  ⟨vectorFloatsWrite, vectorFloatsWiden⟩

end Sys2Proof.Proofs
end

section
/-! SUPPORT. Complex products, rotations and butterflies (R88, R202-R206). -/

namespace Sys2Proof.Proofs

open Sys2Proof.Machine Sys2Proof.Safety Sys2Proof.Rules Sys2Proof.Laws

/-! ### Element by element (R202, R203) -/

/-- R88: an element-wise instruction of complex numbers. -/
theorem does_of_cBin {i : Instr} {s : State} {vd va vb : BitVec 6} {k : BitVec 3} {f : QEntry → CNum → CNum → CNum → FRes}
    {val : Nat → FRes} (wise : ElementWise i) (meaning : exec i s = vexec i (cBin vd va vb k f) 0 0 s)
    (issues : Issues i s) (fits : ∀ v ∈ [vd, va, vb], Rules.Fits s v (groupNow s)) (accepts : isComplex (typeNow s) = true)
    (value : ∀ j, f (entry s i 0 0) (celem s va j) (celem s vb j) (celem s vd j) = val j) :
    Does i s (landed s vd (widthNow s) (active s k) val) :=
  does_of_binOp (f := fun e b x y d => f e (cnum b x) (cnum b y) (cnum b d)) wise meaning issues fits accepts value

/-- R202: the instruction of a row is element-wise, and rounds the row's sum once. -/
theorem complexSums_rows : ∀ r ∈ complexSums, ∀ vd va vb k s, ElementWise (r.1 vd va vb k) ∧
    exec (r.1 vd va vb k) s = vexec (r.1 vd va vb k)
      (cBin vd va vb k fun e a b d => cRound e.len.type e.mode 15 (r.2 a b d)) 0 0 s := by
  simp only [complexSums, List.forall_mem_cons, List.not_mem_nil, false_imp_iff, implies_true, and_true]
  refine ⟨?mul, ?mac, ?macj⟩
  all_goals exact fun _ _ _ _ _ => ⟨.of_pipe resVA rfl rfl rfl rfl, rfl⟩

/-- R202: the first component of a product of fixed-point numbers, packed, is the low half. -/
theorem cRound_fixed_low (m : RM) (a c : CNum) : (cRound 0x13 m 15 (cProd a c)).bits % 2 ^ 16 = fixedReal a c := by
  have difference : ([⟨false, a.re, some c.re⟩, ⟨true, a.im, some c.im⟩].map CTerm.fixed).sum =
      sx 16 a.re * sx 16 c.re - sx 16 a.im * sx 16 c.im := by
    simp [CTerm.fixed, sub_eq_add_neg]
  have low : (compSum 0x13 m 15 (cProd a c).re).bits = fixedReal a c := by
    rw [fixedReal, ← difference, ← satS_eq_clamp 16]
    rfl
  refine (Nat.mul_add_mod_self_right ..).trans ?_
  rw [low]
  exact Nat.mod_eq_of_lt (wrapN_lt ..)

theorem sx_16_upper (x : Nat) : sx 16 x < 2 ^ 15 := by
  simp only [sx]
  split_ifs <;> omega

/-- R202: of a negated fixed-point component only the largest saturates. -/
theorem satS_neg_sx (x : Nat) : satS 16 (-(sx 16 x)) = min (2 ^ 15 - 1) (-(sx 16 x)) := by
  have upper := sx_16_upper x
  rw [satS_eq_clamp]
  exact max_eq_right (le_min (by decide) (by omega))

/-! ### Butterflies (R204-R206) -/

theorem viewOf_rowc (i : Instr) (l : LenRegs) : (viewOf i l).rowc = l.rowc := by
  unfold viewOf
  split <;> rfl

theorem viewOf_colc (i : Instr) (l : LenRegs) : (viewOf i l).colc = l.colc := by
  unfold viewOf
  split <;> rfl

section
variable {i : Instr} {s : State} {sa sb : Dword} {vd va vb : BitVec 6} {k : BitVec 3}

/-- The results of sums at a butterfly, each in its column, the columns being `q` apart (R204). -/
def flown (s : State) (sh q c : Nat) (l : List CSum) : List (Nat × FRes) :=
  (l.map (cRound (typeNow s) (modeNow s) sh)).zipIdx.map fun p => (c + p.2 * q, p.1)

section
variable (s : State) (sh q c : Nat) (w x y z : CSum)

theorem flown_two : flown s sh q c [w, x] =
    [(c, cRound (typeNow s) (modeNow s) sh w), (c + q, cRound (typeNow s) (modeNow s) sh x)] := by
  simp [flown]

theorem flown_four : flown s sh q c [w, x, y, z] =
    [(c, cRound (typeNow s) (modeNow s) sh w), (c + q, cRound (typeNow s) (modeNow s) sh x),
     (c + 2 * q, cRound (typeNow s) (modeNow s) sh y), (c + 3 * q, cRound (typeNow s) (modeNow s) sh z)] := by
  simp [flown]
end

theorem does_of_flyOp {radix sh : Nat} {f : (Nat → CNum) → (Nat → CNum) → List CSum} (computes : Computes i)
    (meaning : exec i s = vexec i (flyOp vd va vb k radix sh f) 0 0 s) (issues : Issues i s)
    (fits : ∀ v ∈ [vd, va, vb], Rules.Fits s v (groupNow s)) (accepts : isComplex (typeNow s) = true)
    {out : Nat → List (Nat × FRes)}
    (value : ∀ c, flown s sh ((lenNow s).colc / radix) c
      (f (fun j => celem s va (c + j * ((lenNow s).colc / radix))) fun j => celem s vb (c + j * ((lenNow s).colc / radix))) =
        out c) :
    Does i s (landedAt s vd (widthNow s) ((butterflies s k radix).flatMap out)) := by
  refine does_of_results (op := flyOp vd va vb k radix sh f) computes meaning issues (vcheck_groups fits accepts)
    fun c => ?_
  have rows : (entry s i 0 0).len.rowc = (lenNow s).rowc := viewOf_rowc ..
  have columns : (entry s i 0 0).len.colc = (lenNow s).colc := viewOf_colc ..
  rw [← funext value]
  simp only [flyOp, entry_width, entry_type, rows, columns, flyPlaces]
  rfl

end

/-- Settles O14: each instruction by its kind, with the sum that its rule rounds. -/
theorem complexNumbersAndButterflies : Obligations.ComplexNumbersAndButterflies := by
  intro vd va vb k s t b m fitD fitA fitB low high
  have two := fits_two fitD fitA
  have three := fits_three fitD fitA fitB
  have complex : isComplex t = true := Bool.and_eq_true_iff.2 ⟨decide_eq_true low, decide_eq_true high⟩
  refine ⟨fun r row issues => ?sums, cRound_fixed_low m, fun issues => ?conj, fun issues => ?abs2, fun issues => ?rot,
    fun issues => ?fly, fun issues => ?fly4⟩
  case sums =>
    obtain ⟨wise, runs⟩ := complexSums_rows r row vd va vb k s
    refine does_of_cBin wise runs issues three complex fun j => ?_
    rw [entry_type]
    rfl
  case conj =>
    refine does_of_unOp (.of_pipe resVA rfl rfl rfl rfl) rfl issues two complex fun j => ?_
    simp only [satS_neg_sx]
    rfl
  case abs2 => exact does_of_unOp (.of_pipe resVA rfl rfl rfl rfl) rfl issues two complex fun _ => rfl
  case rot =>
    exact does_of_cBin (.of_pipe resVA rfl rfl rfl rfl) rfl issues three complex fun _ => rfl
  case fly =>
    refine does_of_flyOp (.of_pipe resVA rfl rfl rfl) rfl issues three complex fun c => ?_
    simp only [flown_two, Nat.zero_mul, Nat.one_mul, Nat.add_zero]
    rfl
  case fly4 =>
    refine does_of_flyOp (.of_pipe resVA rfl rfl rfl) rfl issues three complex fun c => ?_
    simp only [flown_four, Nat.zero_mul, Nat.one_mul, Nat.add_zero]
    rfl

end Sys2Proof.Proofs
end

section
/-! SUPPORT. The small-matrix steps of the tile view (R207-R210). -/

namespace Sys2Proof.Proofs

open Sys2Proof.Machine Sys2Proof.Safety Sys2Proof.Rules Sys2Proof.Laws

/-- R207: a step whose groups fit, and which the type and the columns suit, gives each selected matrix its result. -/
theorem does_of_tileOp {i : Instr} {s : State} {sa sb : Dword} {vd va vb : BitVec 6} {k : BitVec 3}
    {regs : LenRegs → List VRegs} {groups : List (BitVec 6)} {f : QEntry → Nat → CMat → CMat → Nat → Nat → FRes}
    {val : Nat → Nat → Nat → FRes} (computes : Computes i)
    (meaning : exec i s = vexec i (tileOp regs vd va vb k f) sa sb s) (issues : Issues i s)
    (fits : ∀ v ∈ vd :: va :: groups, Rules.Fits s v (groupNow s))
    (sources : regs (lenNow s) = groups.map (grpReg (lenNow s)))
    (accepts : tileType (typeNow s) = true) (columns : (lenNow s).colc ≤ 288)
    (value : ∀ r p q, f (entry s i sa sb) (tileOrder (lenNow s)) (matrixOf s va r) (matrixOf s vb r) p q = val r p q) :
    Does i s (stepped s vd k val) := by
  have accepted : (tileOp regs vd va vb k f).check s.hart.width s.hart.mview (lenNow s) = none := by
    refine Eq.trans (congrArg (fun r => vcheck s.hart.mview (grpReg (lenNow s) vd :: grpReg (lenNow s) va :: r) _)
      sources) ?_
    exact vcheck_groups fits (Bool.and_eq_true_iff.2 ⟨accepts, decide_eq_true columns⟩)
  refine does_of_results (op := tileOp regs vd va vb k f) computes meaning issues accepted fun c => ?_
  have rows : (entry s i sa sb).len.rowc = (lenNow s).rowc := viewOf_rowc ..
  have perRow : (entry s i sa sb).len.colc = (lenNow s).colc := viewOf_colc ..
  simp only [tileOp, entry_width, entry_vl, rows, perRow, tileOrder, ← value]
  rfl

/-- Settles O15: each step by the result that its rule gives an entry. -/
theorem smallMatrixSteps : Obligations.SmallMatrixSteps := by
  intro vd va vb sb k s t m n A B K fitD fitA fitB low high columns
  have two := fits_two fitD fitA
  have three := fits_three fitD fitA fitB
  have accepts : tileType t = true := Bool.and_eq_true_iff.2 ⟨decide_eq_true low, decide_eq_true high⟩
  refine ⟨fun issues => ?gaussJordan, fun issues => ?cholesky, fun issues => ?product, fun issues => ?hermitian⟩
  case gaussJordan =>
    exact does_of_tileOp (groups := []) (.of_pipe resVA rfl rfl rfl) rfl issues two rfl accepts columns fun _ _ _ => rfl
  case cholesky =>
    exact does_of_tileOp (groups := []) (.of_pipe resVA rfl rfl rfl) rfl issues two rfl accepts columns fun _ _ _ => rfl
  case product =>
    exact does_of_tileOp (groups := [vb]) (.of_pipe resVA rfl rfl rfl) rfl issues three rfl accepts columns
      fun _ _ _ => rfl
  case hermitian =>
    exact does_of_tileOp (groups := []) (.of_pipe resVA rfl rfl rfl) rfl issues two rfl accepts columns fun _ _ _ => rfl

end Sys2Proof.Proofs
end

section
/-! SUPPORT. Matrix instructions: how they end at the head of the matrix queue, and the mode they change (R217,
R219-R221, R223). -/

namespace Sys2Proof.Proofs

open Sys2Proof.Machine Sys2Proof.Safety Sys2Proof.Rules Sys2Proof.Laws

/-! ### How they end (R92, R153, R160) -/

/-- What a matrix instruction that has joined the convoy `c` runs from: it clears no view register (R153). -/
def inConvoy (s : State) (c : Convoy) : State := withHart s fun h => { h with convoy := c }

/-- An instruction of the matrix queue, none of which resynchronises (R115, R160). -/
structure OnGrid (i : Instr) : Prop where
  pipe : i.res = resMX
  free : i.resync = false

theorem queue_of_issues {i : Instr} {s : State} (issues : Issues i s) : s.hart.queue = [] := by
  obtain ⟨⟨empty, -⟩, -⟩ := issues
  exact empty

theorem retire_inConvoy (s : State) (c : Convoy) (fl : Flags) :
    inConvoy (retire s fl) c = { s with hart := { retiredHart s.hart fl with convoy := c } } := by
  rw [retire_eq]
  rfl

/-- R92: an instruction without a flag retires with nothing changed. -/
theorem retire_none (s : State) : retire s 0 = s := by
  have merged (f : BitVec 64) : fcsrMerge f 0 = f := by simp [fcsrMerge]
  have quiet (f : BitVec 64) : fpTraps f 0 = false := by simp [fpTraps]
  simp only [retire_eq, retiredHart, merged, quiet, Bool.false_eq_true, if_false]

/-- R160: a vector instruction whose convoy takes it, with nothing before it, issues and runs at once. -/
theorem vissue_runs {i : Instr} {op : VOp} {sa sb : Dword} {s : State} {c : Convoy} (retired : Retired s)
    (accepted : op.check s.hart.width s.hart.mview (lenNow s) = none)
    (joined : s.hart.convoy.add s.hart.x.joins i = some c) :
    vissue i op sa sb s = .ok (enqueue op (capture s i sa sb) (atRun i c s)) := by
  obtain ⟨empty, none⟩ := retired
  unfold vissue withConvoy
  simp only [accepted, joined, drained_eq empty none, queueRoom_empty empty, Bool.not_true, Bool.and_false,
    Bool.false_eq_true, if_false]
  rfl

section
variable {i : Instr} {s u : State} {op : VOp} {sa sb : Dword} {fl : Flags} (grid : OnGrid i)
include grid

theorem OnGrid.queueOf : i.queueOf = some 2 := (congrArg queueOfRes grid.pipe).trans (by decide)

theorem OnGrid.atRun_eq (c : Convoy) : atRun i c s = inConvoy s c := by
  unfold atRun
  rw [countResync, grid.free, grid.queueOf]
  rfl

/-- R92, R160: a matrix instruction that issues runs at once and retires with its flags. -/
theorem OnGrid.vissue_eq (issues : Issues i s) (accepted : op.check s.hart.width s.hart.mview (lenNow s) = none)
    (left : u.hart.queue = [])
    (run : ∀ c, op.run (inConvoy s c) (entry s i sa sb) = .done (inConvoy u c) fl) :
    ∃ c p, vissue i op sa sb s = .ok { inConvoy (retire u fl) c with pmc := p } := by
  obtain ⟨retired, used, room, notResync, noMode, alone⟩ := issues
  obtain ⟨c, joined⟩ := convoy_add_some (joins := s.hart.x.joins) (res_ne_zero_of_queueOf grid.queueOf) used room
    notResync noMode alone
  obtain ⟨p, settled⟩ := settleRun_done (u := inConvoy u c) left (inConvoy s c).hart (capture s i sa sb) fl 0
  rw [show (0 : Flags) ||| fl = fl from BitVec.zero_or] at settled
  refine ⟨c, p, ?_⟩
  rw [vissue_runs retired accepted joined, grid.atRun_eq]
  obtain ⟨empty, none⟩ := retired
  refine congrArg Res.ok ((if_pos (drained_eq empty none)).trans ?_)
  rw [show ({ capture s i sa sb with live := true } : QEntry) = entry s i sa sb from rfl, run, settled, retire_inConvoy,
    ← retiredHart_convoy]
  rfl

theorem OnGrid.does (meaning : exec i s = vexec i op sa sb s) (issues : Issues i s)
    (accepted : op.check s.hart.width s.hart.mview (lenNow s) = none) (left : u.hart.queue = [])
    (run : ∀ c, op.run (inConvoy s c) (entry s i sa sb) = .done (inConvoy u c) fl) : Does i s (retire u fl) := by
  obtain ⟨c, p, ran⟩ := grid.vissue_eq issues accepted left run
  exact does_of_idle (meaning.trans (congrArg finish ran)) rfl (pcAfter_same rfl rfl)

/-- R217: a mode instruction also turns the decoder's view. -/
theorem OnGrid.does_view {on : Bool} (meaning : exec i s = finish (setView on (vissue i op sa sb s)))
    (issues : Issues i s) (accepted : op.check s.hart.width s.hart.mview (lenNow s) = none) (left : u.hart.queue = [])
    (run : ∀ c, op.run (inConvoy s c) (entry s i sa sb) = .done (inConvoy u c) 0) :
    Does i s (withHart u fun h => { h with mview := on }) := by
  obtain ⟨c, p, ran⟩ := grid.vissue_eq issues accepted left run
  rw [retire_none] at ran
  exact does_of_idle (meaning.trans (congrArg (fun r => finish (setView on r)) ran)) rfl (pcAfter_same rfl rfl)
end

/-! ### The tile replaced (R215, R233) -/

theorem leavesIssue_tileWrite (l : List ((Nat × Nat) × Nat)) : LeavesIssue fun h => tileWrite h l := by
  have both (h : Hart) : (tileWrite h l).queue = h.queue ∧
      ∀ c, tileWrite { h with convoy := c } l = { tileWrite h l with convoy := c } := by
    induction l generalizing h with
    | nil => exact ⟨rfl, fun _ => rfl⟩
    | cons p l ih => exact ih (tilePut h p.1.1 p.1.2 p.2)
  exact ⟨fun h => (both h).1, fun h => (both h).2⟩

/-- The tile of a state with a result at every place, before the instruction retires. -/
def retiled (s : State) (f : Nat → Nat → FRes) : State :=
  withHart s fun h => tileWrite h ((places s).map fun p => (p, (f p.1 p.2).bits))

/-- The flags that the results of a tile set together. -/
def tileFlags (s : State) (f : Nat → Nat → FRes) : Flags := flagsOf ((places s).map fun p => f p.1 p.2)

theorem tileLanded_eq (s : State) (f : Nat → Nat → FRes) :
    tileLanded s f = retire (retiled s f) (tileFlags s f) := rfl

theorem retiled_queue (s : State) (f : Nat → Nat → FRes) : (retiled s f).hart.queue = s.hart.queue :=
  (leavesIssue_tileWrite _).queue _

theorem retiled_inConvoy (s : State) (f : Nat → Nat → FRes) (c : Convoy) :
    retiled (inConvoy s c) f = inConvoy (retiled s f) c :=
  congrArg (fun h => { s with hart := h }) ((leavesIssue_tileWrite _).convoy s.hart c)

/-- R233: what an instruction ends with that gives every place of the tile a result. -/
def retiledWith (s : State) (f : Nat → Nat → FRes) : VRes := .done (retiled s f) (tileFlags s f)

theorem retiledWith_eq (s : State) (f : Nat × Nat → FRes) :
    (let r := (tilePlaces s.hart).map fun p => (p, f p)
    VRes.done (updH s fun h => tileWrite h (r.map fun q => (q.1, q.2.bits))) (r.foldl (fun x q => x ||| q.2.flags) 0)) =
      retiledWith s fun i j => f (i, j) := by
  simp only [retiledWith, retiled, tileFlags, flagsOf, List.map_map, List.foldl_map]
  rfl

/-- R92, R233: such an instruction retires with the flags of its results. -/
theorem OnGrid.does_tile {i : Instr} {s : State} {op : VOp} {sa sb : Dword} {f : Nat → Nat → FRes} (grid : OnGrid i)
    (meaning : exec i s = vexec i op sa sb s) (issues : Issues i s)
    (accepted : op.check s.hart.width s.hart.mview (lenNow s) = none)
    (run : ∀ c, op.run (inConvoy s c) (entry s i sa sb) = retiledWith (inConvoy s c) f) :
    Does i s (tileLanded s f) := by
  have left : (retiled s f).hart.queue = [] := (retiled_queue s f).trans (queue_of_issues issues)
  exact grid.does meaning issues accepted left fun c => by rw [run, retiledWith, retiled_inConvoy]; rfl

theorem inMatrix_of_view {w : Nat} {extra : Nat → Option (Nat × Nat)} (fits : extra w = none) {view : Bool}
    (on : view = true) (l : LenRegs) : inMatrix extra w view l = none := by
  simp only [inMatrix, fits, on, if_true]

end Sys2Proof.Proofs
end

section
/-! SUPPORT. The mode instructions, and the products from windows and registers (R215-R221, R224-R228, R233, R234,
R239). -/

namespace Sys2Proof.Proofs

open Sys2Proof.Machine Sys2Proof.Safety Sys2Proof.Rules Sys2Proof.Laws

/-! ### Accumulators after products (R233) -/

theorem matComplex_iff (fmt : Nat) : matComplex fmt = true ↔ fmt = 9 ∨ fmt = 0xA := by simp [matComplex]

theorem tileBlocks_iff (fmt : Nat) : tileBlocks fmt = true ↔ fmt = 1 ∨ fmt = 4 ∨ fmt = 5 := by
  simp [tileBlocks, or_assoc]

theorem accumulated_eq (s : State) (fmt k : Nat) (o : MatOps) (i j : Nat) : accumulated s fmt k o i j =
    if matComplex fmt then accComp fmt k o (j % 2 == 1) i (j / 2) (tileGet s.hart i j)
    else accReal fmt k o i j (tileGet s.hart i j) := by
  simp only [accumulated, matComplex_iff, beq_eq_decide]

theorem retiledWith_accumulate (s : State) (fmt k : Nat) (o : MatOps) :
    VRes.done (updH s fun _ => (accumulate fmt k o s.hart).1) (accumulate fmt k o s.hart).2 =
      retiledWith s (accumulated s fmt k o) := by
  refine Eq.trans ?_ (retiledWith_eq s fun p => accumulated s fmt k o p.1 p.2)
  simp only [accumulated_eq]
  rfl

/-! ### Strings of the windows (R224-R228) -/

theorem mopNeeds_eq (s : State) (wa wb ws fmt : BitVec 4) (k : Nat) :
    mopNeeds s.hart.width wa.toNat wb.toNat ws.toNat fmt.toNat k = stringsOf s wa wb ws fmt k := by
  have blocks : tileBlocks fmt.toNat = true ↔ fmt = 1 ∨ fmt = 4 ∨ fmt = 5 := by
    rw [tileBlocks_iff]
    simp only [← BitVec.toNat_inj]
    rfl
  simp only [mopNeeds, blocks]
  rfl

/-- R224: of distinct windows, none stands among those before it. -/
theorem not_mem_take_of_nodup {l : List (Nat × Nat)} (distinct : (l.map fun p => p.1).Nodup) {p : Nat × Nat} {n : Nat}
    (at_n : l[n]? = some p) : ∀ q ∈ l.take n, q.1 ≠ p.1 := by
  intro q before same
  have front : p.1 ∈ (l.map fun p => p.1).take n := by
    rw [← List.map_take, ← same]
    exact List.mem_map_of_mem before
  have back : p.1 ∈ (l.map fun p => p.1).drop n := by
    rw [← List.map_drop]
    exact List.mem_map_of_mem (List.mem_of_getElem? (i := 0) (by rw [List.getElem?_drop]; exact at_n))
  exact List.disjoint_take_drop distinct le_rfl front back

/-- Of numbers that were all read, none is missing. -/
theorem any_none_map_some {α β : Type} [BEq β] (f : α → β) (l : List α) :
    ((l.map fun a => some (f a)).any fun o => o == none) = false := by
  simp

section
variable {s : State} {l : List (Nat × Nat)}

theorem mopBad_of_serve (serve : Serve s l) : mopBad s l = none := by
  obtain ⟨distinct, windows⟩ := serve
  refine Option.map_eq_none_iff.2 (List.find?_eq_none.2 fun p hp => ?_)
  have at_n := List.mem_zipIdx_iff_getElem?.1 hp
  obtain ⟨mode, owner, size, -⟩ := windows p.1 (List.mem_of_getElem? at_n)
  have others := not_mem_take_of_nodup distinct at_n
  simp only [mode, owner, bne_self_eq_false, Bool.false_or, Bool.or_eq_true, decide_eq_true_eq, List.any_eq_true,
    beq_iff_eq, not_or, not_lt, not_exists, not_and]
  exact ⟨size, others⟩

theorem mopReady_of_serve (serve : Serve s l) : mopReady s l = true := by
  refine List.all_eq_true.2 fun p hp => decide_eq_true ?_
  obtain ⟨-, -, -, held⟩ := serve.2 p hp
  exact held

theorem mopStrings_eq {strings : List (List Byte)}
    (read : (l.map fun p => readWindow s s.hart.core p.1 (getWin s s.hart.core p.1).head p.2) = strings.map some) :
    mopStrings s l = strings.map fun x => some (natOfBytes x) := by
  have numbers := congrArg (List.map (Option.map natOfBytes)) read
  rw [List.map_map, List.map_map] at numbers
  exact numbers

end

/-- R228: the windows are popped whatever the hart is, as long as it stays on its core. -/
theorem poppedAll_withHart {f : Hart → Hart} (core : ∀ h, (f h).core = h.core) (s : State) (l : List (Nat × Nat)) :
    poppedAll (withHart s f) l = withHart (poppedAll s l) f := by
  refine List.foldl_hom (fun u => withHart u f) fun u p => ?_
  rw [show (withHart u f).hart.core = u.hart.core from core _]
  rfl

theorem poppedAll_queue (s : State) (l : List (Nat × Nat)) : (poppedAll s l).hart.queue = s.hart.queue := by
  induction l generalizing s with
  | nil => rfl
  | cons p l ih => exact ih (poppedAll s [p])

theorem retiredHart_core (fl : Flags) (h : Hart) : (retiredHart h fl).core = h.core := by
  unfold retiredHart
  dsimp only
  split <;> rfl

theorem poppedAll_retire (s : State) (fl : Flags) (l : List (Nat × Nat)) :
    poppedAll (retire s fl) l = retire (poppedAll s l) fl := by
  rw [retire_eq, retire_eq]
  exact poppedAll_withHart (retiredHart_core fl) s l

theorem poppedAll_retiled_inConvoy (s : State) (f : Nat → Nat → FRes) (c : Convoy) (l : List (Nat × Nat)) :
    poppedAll (retiled (inConvoy s c) f) l = inConvoy (poppedAll (retiled s f) l) c := by
  rw [retiled_inConvoy]
  exact poppedAll_withHart (f := fun h => { h with convoy := c }) (fun _ => rfl) _ _

/-- R224-R228, R233: a `mop` whose windows serve it and can be read accumulates its strings and pops the windows. -/
theorem mopRun_eq {s : State} {wa wb ws fmt : BitVec 4} {k : Nat} {strings : List (List Byte)} (e : QEntry)
    (serve : Serve s (stringsOf s wa wb ws fmt k))
    (read : ((stringsOf s wa wb ws fmt k).map fun p =>
      readWindow s s.hart.core p.1 (getWin s s.hart.core p.1).head p.2) = strings.map some) :
    let x (n : Nat) : Nat := natOfBytes (strings.getD n [])
    let f := accumulated s fmt.toNat k (windowOps s.hart.width fmt.toNat (x 0) (x 1) (x 2))
    mopRun wa.toNat wb.toNat ws.toNat fmt.toNat k s e =
      .done (poppedAll (retiled s f) (stringsOf s wa wb ws fmt k)) (tileFlags s f) := by
  intro x f
  have numbers := mopStrings_eq read
  have count : 2 ≤ strings.length := by
    have same := congrArg List.length read
    rw [List.length_map, List.length_map] at same
    rw [← same, stringsOf, List.length_append]
    exact Nat.le_add_right ..
  obtain ⟨a, b, rest, rfl⟩ : ∃ a b rest, strings = a :: b :: rest := by
    match strings, count with
    | a :: b :: rest, _ => exact ⟨a, b, rest, rfl⟩
  have scales : ((rest.map fun x => some (natOfBytes x)).headD none).getD 0 = x 2 := by
    cases rest <;> rfl
  have tile := retiledWith_accumulate s fmt.toNat k (windowOps s.hart.width fmt.toNat (x 0) (x 1) (x 2))
  obtain ⟨state, flags⟩ := VRes.done.inj tile
  unfold mopRun
  simp only [mopNeeds_eq, mopBad_of_serve serve, mopReady_of_serve serve, numbers, List.map_cons,
    any_none_map_some, scales, Bool.not_true, Bool.false_eq_true, if_false]
  rw [← flags, ← state]
  rfl

/-! ### Each instruction (R219-R221, R232-R234, R239) -/

theorem tileFlags_zero (s : State) : (tileFlags s fun _ _ => exact 0) = 0 := by
  have none := flagsOf_exact ((places s).map fun p => (p.1, 0))
  rwa [List.map_map] at none

/-- R234: register operands that end before the tile are legal. -/
theorem opMopv_check {s : State} {va vb : BitVec 6} {fmt : BitVec 4} {ks : BitVec 2} (view : s.hart.mview = true)
    (fitA : va.toNat + runRegs s.hart.width (2 ^ ks.toNat * aStep s.hart.width fmt.toNat) ≤ 48)
    (fitB : vb.toNat + runRegs s.hart.width (2 ^ ks.toNat * bStep fmt.toNat) ≤ 48) :
    (opMopv va vb fmt ks).check s.hart.width s.hart.mview (lenNow s) = none := by
  have noTileA := decide_eq_false (Nat.not_lt.2 fitA)
  have noTileB := decide_eq_false (Nat.not_lt.2 fitB)
  simp only [opMopv, inMatrix, noTileA, noTileB, view, Bool.or_self, Bool.false_eq_true, if_false, if_true]

theorem matrixModeAndProducts : MatrixModeAndProducts := by
  intro s
  refine ⟨fun off issues => ?enter, fun view => ?inMode⟩
  case enter =>
    have accepted : opMenter.check s.hart.width s.hart.mview (lenNow s) = none := by simp [opMenter, off]
    exact OnGrid.does_view (u := withHart s fun h => { h with mmode := true }) ⟨rfl, rfl⟩ rfl issues accepted
      (queue_of_issues issues) fun _ => rfl
  have accepted : inMatrix (fun _ => none) s.hart.width s.hart.mview (lenNow s) = none := inMatrix_of_view rfl view _
  refine ⟨fun issues => ?exit, fun issues => ?zero, fun wa wb ws fmt ks issues strings serve read => ?windows,
    fun va vb fmt ks issues fitA fitB => ?registers, fun sa fmt issues => ?convert⟩
  case exit =>
    exact OnGrid.does_view (u := withHart s fun h => { h with mmode := false }) (op := opMexit) ⟨rfl, rfl⟩ rfl
      issues accepted (queue_of_issues issues) fun _ => rfl
  case zero =>
    refine OnGrid.does_tile (op := opMzero) ⟨rfl, rfl⟩ rfl issues accepted fun c => ?_
    rw [retiledWith, tileFlags_zero]
    rfl
  case windows =>
    intro x
    rw [tileLanded_eq, poppedAll_retire]
    refine OnGrid.does (op := opMop wa wb ws fmt ks) ⟨rfl, rfl⟩ rfl issues accepted ?_ fun c => ?_
    · rw [poppedAll_queue, retiled_queue]
      exact queue_of_issues issues
    · have popped := mopRun_eq (s := inConvoy s c) (entry s (.mop wa wb ws fmt ks) 0 0) serve read
      exact popped.trans (congrArg (VRes.done · _) (poppedAll_retiled_inConvoy ..))
  case registers =>
    exact OnGrid.does_tile ⟨rfl, rfl⟩ rfl issues (opMopv_check view fitA fitB) fun c =>
      retiledWith_accumulate (inConvoy s c) ..
  case convert =>
    refine OnGrid.does_tile (op := opMcvt sa fmt) ⟨rfl, rfl⟩ rfl issues accepted fun c => ?_
    refine Eq.trans ?_ (retiledWith_eq (inConvoy s c) fun p =>
      convertAcc (fmt = 0xB) (modeNow s) ((rdS s sa).toNat % 2 ^ 32) (tileGet s.hart p.1 p.2))
    rw [← beq_eq_decide]
    rfl

end Sys2Proof.Proofs
end

section
/-! SUPPORT. The tile loaded from the own scratchpad, and stored there (R230, R235-R238). -/

namespace Sys2Proof.Proofs

open Sys2Proof.Machine Sys2Proof.Safety Sys2Proof.Rules Sys2Proof.Laws

/-- R236: a tile whose place is legal raises no matrix-operand fault. -/
theorem tileBad_of_lies {s : State} {fmt B T : Nat} (lies : TileLies s fmt B T) :
    tileBad s.hart.width fmt B T = false := by
  obtain ⟨base, stride, row, extent⟩ := lies
  simp only [tileBad, base, stride, decide_eq_false (Nat.not_lt.2 row), decide_eq_false (Nat.not_lt.2 extent),
    bne_self_eq_false, Bool.or_self]

/-! ### Loads (R237) -/

/-- R264: where no word holds an error, bytes without a key are read as they stand. -/
theorem readLoc_clean {s : State} (clean : s.bad = []) (l n : Nat) : readLoc s 0 l n = some (getBytes s.mem l n) := by
  rw [readLoc, clean]
  rfl

section
variable {s : State} (clean : s.bad = []) (fmt B T : Nat)
include clean

theorem tileRows_clean : tileRows s fmt B T = (List.range (2 * s.hart.width)).map fun i =>
    some (natOfBytes (getBytes s.mem (spadLoc s.hart.core (B + i * T)) (tileRowBytes fmt))) := by
  simp only [tileRows, readLoc_clean clean, Option.map_some]

theorem tileScales_clean : tileScales s fmt B T = (List.range (2 * s.hart.width)).map fun i =>
    some (if tileBlocks fmt then
      natOfBytes (getBytes s.mem (spadLoc s.hart.core (B + 2 * s.hart.width * T + 4 * i)) 4) else 0) := by
  simp only [tileScales, readLoc_clean clean, Option.map_some, ← apply_ite some]
  rfl
end

/-- The element of a list of numbers that were all read. -/
theorem getD_map_some {n i : Nat} (f : Nat → Nat) (h : i < n) :
    (((List.range n).map fun i => some (f i)).getD i none).getD 0 = f i := by
  simp [h]

/-- Two tiles that agree at every place are one. -/
theorem retiledWith_congr {s : State} {f g : Nat → Nat → FRes}
    (same : ∀ i < 2 * s.hart.width, ∀ j, f i j = g i j) :
    retiledWith s f = retiledWith s g := by
  have each : ∀ p ∈ places s, f p.1 p.2 = g p.1 p.2 := by
    intro p hp
    obtain ⟨i, hi, row⟩ := List.mem_flatMap.1 hp
    obtain ⟨j, -, rfl⟩ := List.mem_map.1 row
    exact same i (List.mem_range.1 hi) j
  have elements := List.map_congr_left fun p hp => congrArg (fun r => (p, FRes.bits r)) (each p hp)
  have results := List.map_congr_left each
  simp only [retiledWith, retiled, tileFlags, elements, results]

/-- R237: a tile that lies in words without an error is loaded place by place. -/
theorem opMld_run {s : State} {sa sb : BitVec 5} {fmt : BitVec 4} {e : QEntry}
    (lies : TileLies s fmt.toNat e.sa.toNat e.sb.toNat) (clean : s.bad = []) :
    (opMld sa sb fmt).run s e = retiledWith s fun i j =>
      loadTile fmt.toNat e.mode
        (if fmt.toNat = 1 ∨ fmt.toNat = 4 ∨ fmt.toNat = 5 then
          packed (natOfBytes (getBytes s.mem
            (spadLoc s.hart.core (e.sa.toNat + 2 * s.hart.width * e.sb.toNat + 4 * i)) 4)) 16 (j / 32) else 0)
        (packed (natOfBytes (getBytes s.mem (spadLoc s.hart.core (e.sa.toNat + i * e.sb.toNat))
          (tileRowBytes fmt.toNat))) (tileBits fmt.toNat) j) := by
  have noScale (n : Nat) : packed 0 16 n = 0 := by simp [packed]
  simp only [opMld, tileBad_of_lies lies, tileRows_clean clean, tileScales_clean clean, any_none_map_some, Bool.or_self,
    Bool.false_eq_true, if_false]
  rw [retiledWith_eq]
  refine retiledWith_congr fun i hi j => ?_
  simp only [getD_map_some _ hi, ← tileBlocks_iff, apply_ite (packed · 16 (j / 32)), noScale]

/-! ### Stores (R230, R238, R265) -/

/-- The ring guard and errors in words stop no write of the hart to its own scratchpad (R230, R265). -/
structure Writable (s : State) : Prop where
  clean : s.bad = []
  unguarded : ∀ off, byteGuarded s s.hart.key s.hart.core off = false

section
variable {s : State}

theorem Writable.guardHit_eq (free : Writable s) (off n : Nat) : guardHit s s.hart.key s.hart.core off n = none :=
  List.find?_eq_none.2 fun o _ => Bool.eq_false_iff.1 (free.unguarded o)

theorem Writable.poked (free : Writable s) (t l : Nat) (bs : List Byte) : Writable (pokeLoc s t l bs) where
  clean := congrArg (fun bad => errorsLeft bad l bs.length) free.clean
  unguarded := free.unguarded

/-- A run of bytes for the scratchpad of a core. -/
def runAt (core off : Nat) (bs : List Byte) : Nat × Nat × List Byte := (spadLoc core off, 0, bs)

/-- The run has a byte. -/
def filled (p : Nat × Nat × List Byte) : Bool := p.2.2 ≠ []

theorem filled_runAt (core off : Nat) (bs : List Byte) : filled (runAt core off bs) = true ↔ bs ≠ [] :=
  decide_eq_true_iff

theorem dDrop_spadLoc (s : State) (core c off : Nat) : dDrop s core (spadLoc c off) = s := by
  refine if_neg fun dram => ?_
  have low : spadLoc c off < dramSize := of_decide_eq_true dram
  unfold spadLoc dramSize at low
  omega

theorem storeAll_runAt (s : State) (core off : Nat) (bs : List Byte) (l : List (Nat × Nat × List Byte)) :
    storeAll s (runAt core off bs :: l) = storeAll (pokeLoc s 0 (spadLoc core off) bs) l :=
  congrArg (fun u => storeAll u l) (dDrop_spadLoc ..)

theorem Writable.putRow_eq (free : Writable s) (unit off : Nat) {bs : List Byte} (nonempty : bs ≠ [])
    (g : Option Trap) :
    putRow unit off bs (s, g) = (pokeLoc s 0 (spadLoc s.hart.core off) bs, g) := by
  simp only [putRow, nonempty, free.guardHit_eq, putPiece, writeParts_clean free.clean, if_false, if_true]

/-- R238: runs of bytes that nothing stops are stored one after the other. -/
theorem Writable.foldl_putRow (free : Writable s) (unit : Nat) (off : Nat → Nat) (bytes : Nat → List Byte)
    (l : List Nat) (g : Option Trap) :
    let u := storeAll s ((l.map fun i => runAt s.hart.core (off i) (bytes i)).filter filled)
    l.foldl (fun r i => putRow unit (off i) (bytes i) r) (s, g) = (u, g) ∧ Writable u := by
  induction l generalizing s with
  | nil => exact ⟨rfl, free⟩
  | cons i l ih =>
    rw [List.foldl_cons, List.map_cons]
    by_cases empty : bytes i = []
    · rw [List.filter_cons_of_neg (mt (filled_runAt ..).1 (not_not.2 empty)),
        show putRow unit (off i) (bytes i) (s, g) = (s, g) from if_pos empty]
      exact ih free
    · rw [List.filter_cons_of_pos ((filled_runAt ..).2 empty), storeAll_runAt, free.putRow_eq unit (off i) empty]
      exact ih (free.poked 0 (spadLoc s.hart.core (off i)) (bytes i))
end

theorem dDrop_hart (s : State) (core l : Nat) : (dDrop s core l).hart = s.hart := by
  unfold dDrop dGone
  split
  · split <;> rfl
  · rfl

theorem storeAll_hart (s : State) (l : List (Nat × Nat × List Byte)) : (storeAll s l).hart = s.hart := by
  induction l generalizing s with
  | nil => rfl
  | cons p l ih => exact (ih _).trans (dDrop_hart ..)

theorem storeAll_inConvoy (s : State) (c : Convoy) (l : List (Nat × Nat × List Byte)) :
    storeAll (inConvoy s c) l = inConvoy (storeAll s l) c := by
  refine List.foldl_hom (inConvoy · c) fun u p => ?_
  unfold dDrop dGone
  rw [apply_ite (inConvoy · c), apply_ite (inConvoy · c)]
  rfl

theorem storeAll_append (s : State) (l m : List (Nat × Nat × List Byte)) :
    storeAll s (l ++ m) = storeAll (storeAll s l) m := List.foldl_append

theorem scaleAt_zero (w B T i : Nat) : scaleAt w B T i 0 = B + 2 * w * T + 4 * i := rfl

theorem storeRow_ne_nil (h : Hart) (fmt : Nat) (rm : RM) (sat : Bool) (i : Nat) :
    (storeRow h fmt rm sat i).1 ≠ [] := by
  have size : (storeRow h fmt rm sat i).1.length = tileRowBytes fmt := by
    unfold storeRow
    dsimp only
    split <;> exact bytesOfNat_length ..
  have pos : 0 < tileRowBytes fmt := by
    unfold tileRowBytes
    split_ifs <;> decide
  exact List.ne_nil_of_length_pos (size ▸ pos)

/-- The runs of bytes that an `mst` stores: the rows, then the scale words of the formats that have them (R238). -/
def tileRuns (s : State) (B T : Nat) (row : Nat → List Byte × List Byte × Flags) : List (Nat × Nat × List Byte) :=
  let rows := List.range (2 * s.hart.width)
  (rows.map fun i => runAt s.hart.core (B + i * T) (row i).1) ++
    ((rows.map fun i => runAt s.hart.core (B + 2 * s.hart.width * T + 4 * i) (row i).2.1).filter filled)

/-- R238: a tile that lies where nothing stops its writes is stored, and its rows' flags are set. -/
theorem opMst_run {s : State} {sa sb : BitVec 5} {fmt : BitVec 4} {e : QEntry}
    (lies : TileLies s fmt.toNat e.sa.toNat e.sb.toNat) (free : Writable s) :
    let row := storeRow s.hart fmt.toNat e.mode e.satfp
    (opMst sa sb fmt).run s e = .done (storeAll s (tileRuns s e.sa.toNat e.sb.toNat row))
      ((List.range (2 * s.hart.width)).foldl (fun x i => x ||| (row i).2.2) 0) := by
  intro row
  have whole : ∀ p ∈ (List.range (2 * s.hart.width)).map fun i =>
      runAt s.hart.core (e.sa.toNat + i * e.sb.toNat) (row i).1, filled p = true :=
    List.forall_mem_map.2 fun i _ => (filled_runAt ..).2 (storeRow_ne_nil s.hart fmt.toNat e.mode e.satfp i)
  obtain ⟨rows, rest⟩ := free.foldl_putRow (tileUnit fmt.toNat) (fun i => e.sa.toNat + i * e.sb.toNat)
    (fun i => (row i).1) (List.range (2 * s.hart.width)) none
  obtain ⟨scales, -⟩ := rest.foldl_putRow 2 (fun i => e.sa.toNat + 2 * s.hart.width * e.sb.toNat + 4 * i)
    (fun i => (row i).2.1) (List.range (2 * s.hart.width)) none
  rw [List.filter_eq_self.2 whole] at rows scales
  rw [storeAll_hart, ← storeAll_append] at scales
  simp only [opMst, tileBad_of_lies lies, scaleAt_zero, Bool.false_eq_true, if_false, List.foldl_map]
  rw [rows, scales]
  rfl

/-- R235-R238: a tile in the own scratchpad. -/
theorem tileLoadsAndStores : TileLoadsAndStores := by
  intro sa sb fmt s view lies clean f B T spad
  have accepted : inMatrix (fun _ => none) s.hart.width s.hart.mview (lenNow s) = none := inMatrix_of_view rfl view _
  refine ⟨fun issues => ?load, fun issues unguarded => ?store⟩
  case load =>
    exact OnGrid.does_tile (op := opMld sa sb fmt) ⟨rfl, rfl⟩ rfl issues accepted fun c =>
      opMld_run (s := inConvoy s c) (e := entry s _ (rdS s sa) (rdS s sb)) lies clean
  case store =>
    intro row rows
    refine OnGrid.does (op := opMst sa sb fmt) ⟨rfl, rfl⟩ rfl issues accepted ?_ fun c => ?_
    · rw [storeAll_hart]
      exact queue_of_issues issues
    · rw [← storeAll_inConvoy]
      exact opMst_run (s := inConvoy s c) (e := entry s _ (rdS s sa) (rdS s sb)) lies ⟨clean, unguarded⟩

/-- Settles O22: the modes and products, and the tile in memory. -/
theorem matrixModeProductsAndTiles : Obligations.MatrixModeProductsAndTiles :=
  ⟨matrixModeAndProducts, tileLoadsAndStores⟩

end Sys2Proof.Proofs
end

section
/-! SUPPORT. What an access leaves alone, what caches hold apart, and the bytes that a scalar access reads and writes
(R4, R248, R258, R264, R265, R418). -/

namespace Sys2Proof.Proofs

open Sys2Proof.Machine Sys2Proof.Safety Sys2Proof.Rules Sys2Proof.Laws

/-! ### What resolving an address changes (R248, R406) -/

/-- The states differ in the translation tables, the counters and what the home slices hold, alone. -/
def PlacedOnly (s u : State) : Prop := ∃ x p z, u = { s with tab := x, pmc := p, slices := z }

theorem PlacedOnly.refl (s : State) : PlacedOnly s s := ⟨_, _, _, rfl⟩

theorem PlacedOnly.xlate (s : State) (hart T va : Nat) (k : Kind) : PlacedOnly s (after (xlate s hart T va k)) :=
  let w := after (Machine.xlate s hart T va k)
  ⟨w.tab, w.pmc, w.slices, congrArg (fun v : State => { v with tab := w.tab, pmc := w.pmc, slices := w.slices })
    (xlate_rest s hart T va k)⟩

theorem PlacedOnly.useSlice {s u : State} (h : PlacedOnly s u) (c l : Nat) : PlacedOnly s (useSlice u c l) := by
  obtain ⟨x, p, z, rfl⟩ := h
  unfold Machine.useSlice
  split <;> exact ⟨x, p, _, rfl⟩

/-- A site takes an address or refuses it, and changes nothing. -/
theorem siteCheck_after (s : State) (a : Acc) (twin : Bool) (x y off n : Nat) (ea : Dword) :
    after (siteCheck s a twin x y off n ea) = s := by
  unfold siteCheck
  dsimp only
  repeat' split
  all_goals rfl

theorem PlacedOnly.sited (c : Prop) [Decidable c] (f : Trap) (s : State) (a : Acc) (twin : Bool) (x y off n : Nat) (ea : Dword) :
    PlacedOnly s (after (if c then .fault f s else siteCheck s a twin x y off n ea)) := by
  split
  · exact refl s
  · rw [siteCheck_after]
    exact refl s

/-- Placing an address changes what its translation changes, and what the home slice holds. -/
theorem PlacedOnly.resolve (s : State) (a : Acc) (ea : Dword) (n : Nat) : PlacedOnly s (after (resolve s a ea n)) := by
  have walked := xlate s a.hart a.tenant ea.toNat a.kind
  unfold Machine.resolve
  dsimp only
  split
  · exact refl s
  split
  · split
    · exact refl s
    · split <;> exact sited ..
  split
  · cases placed : Machine.xlate s a.hart a.tenant ea.toNat a.kind with
    | ok e u =>
      rw [placed] at walked
      simp only [XRes.bind]
      split
      · exact walked
      · exact walked.useSlice ..
    | _ =>
      rw [placed] at walked
      exact walked
  · exact refl s

section
variable {s t : State} {a : Acc} {ea : Dword} {n : Nat} {g : Target}

theorem placed_of_resolve (h : resolve s a ea n = .ok g t) : PlacedOnly s t := by
  have placed := PlacedOnly.resolve s a ea n
  rwa [h] at placed

theorem PlacedOnly.hart (h : PlacedOnly s t) : t.hart = s.hart := by obtain ⟨_, _, _, rfl⟩ := h; rfl

theorem PlacedOnly.mem (h : PlacedOnly s t) : t.mem = s.mem := by obtain ⟨_, _, _, rfl⟩ := h; rfl
end

/-! ### How an instruction ends, what caches hold apart (R258) -/

/-- The states differ in what caches hold, in the free values used for them, and in the counters, alone. -/
def CachesOnly (u v : State) : Prop :=
  ∃ p d z n, v = { u with pmc := p, dcache := d, slices := z, free := n }

namespace CachesOnly

theorem refl (u : State) : CachesOnly u u := ⟨_, _, _, _, rfl⟩

theorem trans {u v w : State} (h : CachesOnly u v) (g : CachesOnly v w) : CachesOnly u w := by
  obtain ⟨_, _, _, _, rfl⟩ := h
  obtain ⟨p, d, z, n, rfl⟩ := g
  exact ⟨p, d, z, n, rfl⟩

theorem countEv (u : State) (c : Nat) (h : Option Nat) (ev n : Nat) : CachesOnly u (countEv u c h ev n) := by
  unfold Machine.countEv
  split
  · exact refl u
  · exact ⟨_, u.dcache, u.slices, u.free, rfl⟩

theorem setDLines (u : State) (core : Nat) (l : List CLine) (n : Nat) :
    CachesOnly u { setDLines u core l with free := n } := ⟨u.pmc, _, u.slices, n, rfl⟩

theorem dFill (u : State) (core hid : Nat) (x : CLine) : CachesOnly u (dFill u core hid x) :=
  (countEv ..).trans (setDLines ..)

theorem dTouch (u : State) (core hid l : Nat) : CachesOnly u (dTouch u core hid l) := by
  unfold Machine.dTouch
  dsimp only
  split
  · exact dFill ..
  · split
    · exact refl u
    · split
      · exact (countEv ..).trans (setDLines ..)
      · exact setDLines ..

theorem dGone (u : State) (core l : Nat) : CachesOnly u (dGone u core l) := by
  unfold Machine.dGone
  split
  · exact setDLines u _ _ u.free
  · exact refl u

theorem acquire (u : State) (core : Nat) : CachesOnly u (acquire u core) := by
  unfold Machine.acquire
  split
  · exact setDLines u _ _ u.free
  · exact refl u

theorem acquireIf (b : Bool) (u : State) : CachesOnly u (acquireIf b u) := by
  unfold Machine.acquireIf
  split
  · exact acquire ..
  · exact refl u

theorem wrS {u v : State} (h : CachesOnly u v) (sd : BitVec 5) (x : Dword) : CachesOnly (wrS u sd x) (wrS v sd x) := by
  obtain ⟨p, d, z, n, rfl⟩ := h
  refine ⟨p, d, z, n, ?_⟩
  unfold Machine.wrS
  split <;> rfl

theorem hart {u v : State} (h : CachesOnly u v) : v.hart = u.hart := by obtain ⟨_, _, _, _, rfl⟩ := h; rfl

theorem mem {u v : State} (h : CachesOnly u v) : v.mem = u.mem := by obtain ⟨_, _, _, _, rfl⟩ := h; rfl

end CachesOnly

/-- An instruction whose own work ends in `v` completes as the effect `u` says, what caches hold apart. -/
theorem doesButCaches_of_ok {i : Instr} {s u v : State} (h : exec i s = finish (.ok v)) (same : CachesOnly u v) :
    DoesButCaches i s u := by
  obtain ⟨_, _, _, _, rfl⟩ := same
  refine ⟨_, h, ?_, (advance_pc _).trans rfl⟩
  rw [advance_idle]
  rfl

/-- R258: an acquire leaves the core no line of device memory. -/
theorem acquired_acquire (s : State) : Acquired (acquire s s.hart.core) := by
  intro x hx
  unfold acquire at hx
  split at hx
  · rw [dLines, setDLines, mapGet_set_same] at hx
    simpa using (List.mem_filter.1 hx).2
  · next none =>
    by_contra dram
    exact none (List.any_eq_true.2 ⟨x, hx, by simpa using dram⟩)

theorem acquired_congr {s t : State} (h : Acquired s) (lines : t.dcache = s.dcache) (core : t.hart.core = s.hart.core) :
    Acquired t := by
  rwa [Acquired, dLines, lines, core]

/-- What an acquiring instruction has written to a register keeps the core's data cache without device memory. -/
theorem acquired_of_ok {i : Instr} {s v : State} (h : exec i s = finish (.ok v)) (acquired : Acquired v) :
    Completes i s Acquired := by
  have same := advance_idle v
  have lines := congrArg State.dcache same
  have core := congrArg (fun t : State => t.hart.core) same
  exact ⟨_, h, acquired_congr acquired lines core⟩

theorem acquired_wrS {s : State} (h : Acquired s) (sd : BitVec 5) (v : Dword) : Acquired (wrS s sd v) := by
  unfold wrS
  split <;> exact h

theorem acquired_acquireIf {b : Bool} (on : b = true) (s : State) : Acquired (acquireIf b s) := by
  rw [acquireIf, if_pos on]
  exact acquired_acquire s

theorem acquireIf_off {b : Bool} (off : b = false) (s : State) : acquireIf b s = s :=
  if_neg (ne_true_of_eq_false off)

end Sys2Proof.Proofs
end

section
/-! SUPPORT. Fences (R290-R292, R302, R305). -/

namespace Sys2Proof.Proofs

open Sys2Proof.Machine Sys2Proof.Safety Sys2Proof.Rules Sys2Proof.Laws

theorem not_drained {s : State} (h : ¬ Retired s) : drained s = false :=
  Bool.eq_false_of_not_eq_true fun none => h (by simpa [drained, Retired] using none)

theorem exec_fence {s : State} (retired : Retired s) (kind : BitVec 2) (scope : BitVec 3) :
    exec (.fence kind scope) s = finish (.ok (acquireIf (kind.getLsbD 0 && 3 ≤ scope.toNat) s)) :=
  congrArg finish (afterQueue_drained (drained_of_retired retired) _)

/-- A fence acquires at group scope or wider, if its kind says so. -/
theorem fence_acquires_iff (kind : BitVec 2) (scope : BitVec 3) :
    (kind.getLsbD 0 && decide (3 ≤ scope.toNat)) = true ↔ kind.toNat % 2 = 1 ∧ 3 ≤ scope.toNat := by
  rw [Bool.and_eq_true, decide_eq_true_iff, BitVec.getLsbD, Nat.testBit_zero, decide_eq_true_iff]

/-- A fence before which something is queued waits for its retirement. -/
theorem fence_waits {s : State} (busy : ¬ Retired s) (kind : BitVec 2) (scope : BitVec 3) :
    Completes (.fence kind scope) s fun t =>
      t.hart.pc = s.hart.pc ∧ t.hart.block = .resync ∧ t.hart.x.stalled = true ∧ t.mem = s.mem :=
  ⟨_, congrArg finish (afterQueue_waits (not_drained busy) _), rfl, rfl, rfl, rfl⟩

/-- Settles O23: each fence by what it waits for, and `fence` by whether it acquires. -/
theorem fencesCompleteWhenEarlierWorkIsDone : Obligations.FencesCompleteWhenEarlierWorkIsDone := by
  refine fun s => ⟨fun kind scope retired => ⟨?effect, fun acquires wide => ?acquire, fun none => ?nothing⟩,
    fun retired clear => ?loads, fun retired => ?updates, fun sent none => ?queues, fence_waits⟩
  case effect => exact doesButCaches_of_ok (exec_fence retired kind scope) (.acquireIf ..)
  case acquire =>
    exact acquired_of_ok (exec_fence retired kind scope) (acquired_acquireIf ((fence_acquires_iff ..).2 ⟨acquires, wide⟩) s)
  case nothing =>
    have off := Bool.eq_false_of_not_eq_true (mt (fence_acquires_iff kind scope).1 (by omega))
    exact does_of_ok ((exec_fence retired kind scope).trans (by rw [acquireIf_off off]))
  case loads =>
    have ready : (drained s && s.hart.posted.isEmpty) = true := by simp [drained_of_retired retired, clear]
    exact does_of_ok (congrArg finish (if_pos ready))
  case updates => exact does_of_ok (congrArg finish (afterQueue_drained (drained_of_retired retired) _))
  case queues =>
    have ready : (decide (s.hart.outbox = []) && !s.eng.messages.any fun m => m.sender == s.hart.key) = true := by
      simpa [sent] using none
    exact does_of_ok (congrArg finish (if_pos ready))

end Sys2Proof.Proofs
end

section
/-! SUPPORT. The bytes of scalar accesses, and the scalar loads and stores (R4, R252, R258, R264, R265, R269, R418). -/

namespace Sys2Proof.Proofs

open Sys2Proof.Machine Sys2Proof.Safety Sys2Proof.Rules Sys2Proof.Laws

/-! ### Numbers of bytes (R4) -/

theorem natOfBytes_append (a b : List Byte) : natOfBytes (a ++ b) = natOfBytes a + 256 ^ a.length * natOfBytes b := by
  induction a with
  | nil => simp [natOfBytes]
  | cons x a ih => rw [List.cons_append, natOfBytes_cons, ih, natOfBytes_cons, List.length_cons]; ring

theorem natOfBytes_map_range (n : Nat) (f : Nat → Byte) : natOfBytes ((List.range n).map f) =
    (List.range n).foldl (fun x i => x + (f i).toNat * 256 ^ i) 0 := by
  induction n with
  | zero => rfl
  | succ n ih =>
    rw [List.range_succ, List.map_append, natOfBytes_append, ih, List.foldl_append]
    simp [natOfBytes, Nat.mul_comm]

theorem storedNat_lt (s : State) (tag l n : Nat) : storedNat s tag l n < 256 ^ n := by
  rw [storedNat, ← natOfBytes_map_range]
  exact (natOfBytes_lt _).trans_eq (by simp)

/-! ### Places that hold no error (R264, R265) -/

section
variable {s : State} {l n : Nat}

/-- An error that an access of `n` bytes meets is one of the words it touches. -/
theorem untouched_of_sound (sound : Sound s l n) {w : Nat} (bad : w ∈ s.bad) : (l / 8 ≤ w && w ≤ (l + n - 1) / 8) = false := by
  have := sound w bad
  simp only [Bool.and_eq_false_iff, decide_eq_false_iff_not]
  omega

theorem readNat_sound (sound : Sound s l n) (tag : Nat) : readNat s tag l n = some (storedNat s tag l n) := by
  have clear : ¬ (s.bad.any fun w => l / 8 ≤ w && w ≤ (l + n - 1) / 8) = true := fun hit => by
    obtain ⟨w, bad, touched⟩ := List.any_eq_true.1 hit
    exact absurd touched (ne_true_of_eq_false (untouched_of_sound sound bad))
  rw [readNat, readLoc, if_neg clear, Option.map_some, natOfBytes_map_range]
  rfl

theorem readT_sound (sound : Sound s l n) (hart tag : Nat) (ea : Dword) :
    readT s hart (.mem l tag) ea n = .ok (storedNat s tag l n) s := by
  simp only [readT, readNat_sound sound]

theorem writeLoc_sound {bs : List Byte} (sound : Sound s l bs.length) (tag : Nat) :
    writeLoc s tag l bs = some (pokeLoc s tag l bs) := by
  have none : s.bad.filter (fun w => l / 8 ≤ w && w ≤ (l + bs.length - 1) / 8) = [] :=
    List.filter_eq_nil_iff.2 fun w bad => ne_true_of_eq_false (untouched_of_sound sound bad)
  simp only [writeLoc, none, List.any_nil, Bool.false_eq_true, if_false]

theorem writeAt_sound {bs : List Byte} {hart : Nat} (sound : Sound s l bs.length)
    (unguarded : guardStops s hart l bs.length = none) (tag : Nat) (ea : Dword) :
    writeAt s hart (.mem l tag) ea bs = .ok () (pokeLoc s tag l bs) := by
  simp only [writeAt, unguarded, writeLoc_sound sound]

end

/-- R4, R418: a run of bytes stored under a key stands there as it was written, and leaves the rest. -/
theorem wrote_of_memWith {s u t : State} {tag l : Nat} {bs : List Byte} (same : u.mem = s.mem)
    (stored : t.mem = memWith u tag l bs) : Wrote s t tag l bs.length fun i => bs.getD i 0 := by
  have sees (a : Nat) : plainByte u tag a = plainByte s tag a := plainByte_congr (fun b _ => by rw [same]) tag
  refine ⟨fun a low high => ?_, fun a out => .inl ?_, fun a out => ?_, fun plain a out => ?_⟩
  · rw [plainByte_memWith stored, bytesOver, if_pos ⟨low, high⟩]
  · rw [plainByte_memWith stored, bytesOver_other (by omega), sees]
  · rw [stored, memByte_memWith_other (fun b hb => by omega), same]
  · rw [stored, memByte_memWith_plain plain, if_neg (by omega), same]

theorem wrote_congr {s t : State} {tag l n : Nat} {f g : Nat → Byte} (h : Wrote s t tag l n f) (same : ∀ i < n, f i = g i) :
    Wrote s t tag l n g := by
  obtain ⟨inside, rest⟩ := h
  exact ⟨fun a low high => by rw [inside a low high, same (a - l) (by omega)], rest⟩

theorem getD_bytesOfNat {n x i : Nat} (h : i < n) : (bytesOfNat n x).getD i 0 = byteOf x i := by
  simp [bytesOfNat, byteOf, h]

/-! ### Loads (R252, R258, R269) -/

theorem scalarAddr_eq (s : State) (sa : BitVec 5) (sz : BitVec 2) (off : BitVec 8) :
    scalarAddr s sa sz off = accessAddr s sa sz off := by
  rw [accessAddr, BitVec.ofInt_add, BitVec.ofInt_mul, BitVec.ofInt_natCast, BitVec.ofInt_natCast, BitVec.ofNat_toNat,
    BitVec.setWidth_eq]
  rfl

theorem toInt_ofNat_eq_signedLow {w : Nat} (h : 0 < w) (v : Nat) : (BitVec.ofNat w v).toInt = signedLow w v := by
  have half : 2 ^ w = 2 * 2 ^ (w - 1) := by rw [← pow_succ', Nat.sub_add_cancel h]
  rw [BitVec.toInt_eq_toNat_cond, BitVec.toNat_ofNat, signedLow]
  push_cast
  exact if_congr (by omega) rfl rfl

theorem loadValue_eq (sx1 : BitVec 1) (sz : BitVec 2) (v : Nat) :
    loadValue (sx1 == 1) sz v = loadedValue sx1 (accessBytes sz) v := by
  simp only [loadValue, loadedValue, beq_iff_eq]
  exact ite_congr rfl (fun _ => congrArg (BitVec.ofInt 64) (toInt_ofNat_eq_signedLow (by positivity) v)) fun _ => rfl

/-- A scalar load of a place in memory: through the data cache, from a scratchpad, or from the place (R252, R258). -/
theorem readC_load {a : Acc} (load : a.form = .load) (s : State) (l tag n : Nat) (ea : Dword) :
    readC s a (.mem l tag) ea n =
      if isDram l && pageCache s a ea == 0 then dLoad s a.hart l tag ea n
      else if isSpad l && spadCore l == a.hart / 8 then
        (readT s a.hart (.mem l tag) ea n).bind fun v s1 => .ok v (dTouch s1 (a.hart / 8) (a.hart % 8) l)
      else readT s a.hart (.mem l tag) ea n := by
  simp only [readC, load, bne_self_eq_false, Bool.false_eq_true, if_false]

section
variable {s : State} {l n : Nat} (sound : Sound s l n) (tag : Nat) (ea : Dword)
include sound

/-- R258: a load of a line that the data cache may hold: what it holds, else the bytes at the place. -/
theorem dLoad_sees : ∃ u, dLoad s s.hart.key l tag ea n = .ok (match dLine s (s.hart.key / 8) l tag with
      | some x => natOfBytes ((x.data.drop (l % 64)).take n)
      | none => storedNat s tag l n) u ∧ CachesOnly s u := by
  unfold dLoad
  dsimp only
  cases dLine s (s.hart.key / 8) l tag with
  | some x => exact ⟨s, rfl, .refl s⟩
  | none =>
    simp only [readT_sound sound, XRes.bind]
    split
    · exact ⟨_, rfl, .dFill ..⟩
    · exact ⟨_, rfl, .countEv ..⟩

/-- R258: what a scalar load of a place that holds no error reads; only caches change. -/
theorem readC_sees : ∃ u, readC s (acc s .load .read) (.mem l tag) ea n =
    .ok (loadSees s ea l tag n (storedNat s tag l n)) u ∧ CachesOnly s u := by
  rw [readC_load rfl, readT_sound sound]
  unfold loadSees
  simp only [Bool.and_eq_true, beq_iff_eq]
  by_cases cached : isDram l = true ∧ pageCache s (acc s .load .read) ea = 0
  · rw [if_pos cached, if_pos cached]
    exact dLoad_sees sound tag ea
  · rw [if_neg cached, if_neg cached]
    split
    · exact ⟨_, rfl, .dTouch ..⟩
    · exact ⟨s, rfl, .refl s⟩

end

theorem storeX_sound {s s1 : State} {a : Acc} {ea : Dword} {l tag : Nat} {bs : List Byte}
    (place : resolve s a ea bs.length = .ok (.mem l tag) s1) (sound : Sound s1 l bs.length)
    (unguarded : guardStops s1 a.hart l bs.length = none) :
    storeX s a ea bs = .ok () (dUpdate (pokeLoc s1 tag l bs) (a.hart / 8) l tag bs) := by
  rw [storeX, place, XRes.bind, writeC, writeAt_sound sound unguarded]
  rfl

section
variable {s s1 : State} {sa sd : BitVec 5} {sz : BitVec 2} {sx1 : BitVec 1} {ord : BitVec 3} {off : BitVec 8} {l tag : Nat}

theorem execLds_eq (free : Coherent s .read (accessAddr s sa sz off) (accessBytes sz)) :
    exec (.lds sd sa sz sx1 ord off) s =
      finish (ofLoad (loadX s (acc s .load .read) (accessAddr s sa sz off) (accessBytes sz)) fun v u =>
        .ok (wrS (acquireIf (3 ≤ ord.toNat) u) sd (loadedValue sx1 (accessBytes sz) v))) := by
  show execLds sd sa sz sx1 ord off s = _
  simp only [execLds, scalarAddr_eq, loadValue_eq]
  exact congrArg finish (coherent_read free _)

/-- R269: a load that may go on writes what it sees to its register, and acquires if it is to. -/
theorem lds_loads (free : Coherent s .read (accessAddr s sa sz off) (accessBytes sz))
    (place : resolve s (acc s .load .read) (accessAddr s sa sz off) (accessBytes sz) = .ok (.mem l tag) s1)
    (sound : Sound s1 l (accessBytes sz)) :
    let v := loadSees s1 (accessAddr s sa sz off) l tag (accessBytes sz) (storedNat s1 tag l (accessBytes sz))
    ∃ u, exec (.lds sd sa sz sx1 ord off) s =
      finish (.ok (wrS (acquireIf (3 ≤ ord.toNat) u) sd (loadedValue sx1 (accessBytes sz) v))) ∧ CachesOnly s1 u := by
  intro v
  obtain ⟨u, read, only⟩ := readC_sees sound tag (accessAddr s sa sz off)
  have same : acc s1 .load .read = acc s .load .read := by rw [acc, acc, (placed_of_resolve place).hart]
  rw [same] at read
  refine ⟨u, ?_, only⟩
  rw [execLds_eq free, loadX, place]
  exact congrArg (fun r => finish (ofLoad r _)) read

theorem lds_misaligned (odd : (accessAddr s sa sz off).toNat % accessBytes sz ≠ 0) :
    Traps (.lds sd sa sz sx1 ord off) s 0x10 (accessAddr s sa sz off) := by
  have free : Coherent s .read (accessAddr s sa sz off) (accessBytes sz) := fun l t s1 h => by
    rw [resolve_misaligned odd] at h
    cases h
  rw [Traps, execLds_eq free, loadX, resolve_misaligned odd, ← raise_eq_trappedAt]
  rfl

/-! ### Stores (R258, R269, R271) -/

/-- R286: a release goes on once all before it has retired. -/
theorem released_retired {rel : Bool} {i : Instr} (retired : rel = true → Retired s) (f : State → Res) :
    released rel i s f = f s := by
  unfold released
  split
  · next on => exact afterQueue_drained (drained_of_retired (retired on)) f
  · rfl

theorem execSts_eq (retired : ord ≠ 0 → Retired s) (free : Coherent s .write (accessAddr s sa sz off) (accessBytes sz)) :
    exec (.sts sd sa sz ord off) s = finish (ofStore
      (storeX s (acc s .store .write) (accessAddr s sa sz off) (bytesOfNat (accessBytes sz) (rdS s sd).toNat))) := by
  show execSts sd sa sz ord off s = _
  simp only [execSts, scalarAddr_eq]
  refine congrArg finish ((released_retired (fun rel => retired (by simpa using rel)) _).trans ?_)
  exact coherent_read free _

theorem sts_misaligned (retired : ord ≠ 0 → Retired s) (odd : (accessAddr s sa sz off).toNat % accessBytes sz ≠ 0) :
    Traps (.sts sd sa sz ord off) s 0x10 (accessAddr s sa sz off) := by
  have free : Coherent s .write (accessAddr s sa sz off) (accessBytes sz) := fun l t s1 h => by
    rw [resolve_misaligned odd] at h
    cases h
  have odd' : (accessAddr s sa sz off).toNat % (bytesOfNat (accessBytes sz) (rdS s sd).toNat).length ≠ 0 := by
    rwa [bytesOfNat_length]
  rw [Traps, execSts_eq retired free, storeX, resolve_misaligned odd', ← raise_eq_trappedAt]
  rfl

theorem dUpdate_only (s : State) (core l tag : Nat) (bs : List Byte) : CachesOnly s (dUpdate s core l tag bs) := by
  unfold dUpdate
  split
  · exact .setDLines s _ _ s.free
  · exact .refl s

/-- R258: a scalar store that nothing stops stores its bytes, and tells the core's data cache. -/
theorem sts_stores (retired : ord ≠ 0 → Retired s) (free : Coherent s .write (accessAddr s sa sz off) (accessBytes sz))
    (place : resolve s (acc s .store .write) (accessAddr s sa sz off) (accessBytes sz) = .ok (.mem l tag) s1)
    (sound : Sound s1 l (accessBytes sz)) (unguarded : guardStops s1 s.hart.key l (accessBytes sz) = none) :
    ∃ u, exec (.sts sd sa sz ord off) s = finish (.ok u) ∧
      CachesOnly (pokeLoc s1 tag l (bytesOfNat (accessBytes sz) (rdS s sd).toNat)) u := by
  have size : (bytesOfNat (accessBytes sz) (rdS s sd).toNat).length = accessBytes sz := bytesOfNat_length ..
  let bs := bytesOfNat (accessBytes sz) (rdS s sd).toNat
  refine ⟨dUpdate (pokeLoc s1 tag l bs) (s.hart.key / 8) l tag bs, ?_, dUpdate_only ..⟩
  rw [execSts_eq retired free, storeX_sound (bs := bs) (size.symm ▸ place) (size.symm ▸ sound) (size.symm ▸ unguarded)]
  rfl

end

/-- The end of a unit leaves the hart's registers as its effect left them. -/
theorem leftAlone_of_advance {s u : State} (hart : u.hart = s.hart) : (∀ r, reg (advance u) r = reg s r) ∧
    (advance u).hart.v = s.hart.v ∧ (advance u).hart.k = s.hart.k ∧ (advance u).hart.fcsr = s.hart.fcsr ∧
    (advance u).hart.len = s.hart.len ∧ (advance u).hart.tr = s.hart.tr := by
  have same {α : Type} (f : Hart → α) (field : ∀ t : State, f (idle t).hart = f t.hart) : f (advance u).hart = f s.hart := by
    rw [← field, advance_idle, field, hart]
  exact ⟨fun r => by rw [reg, reg, same (fun h => h.s) fun _ => rfl], same (fun h => h.v) fun _ => rfl,
    same (fun h => h.k) fun _ => rfl, same (fun h => h.fcsr) fun _ => rfl, same (fun h => h.len) fun _ => rfl,
    same (fun h => h.tr) fun _ => rfl⟩

/-- Settles O18: a load by what it sees, a store by what it leaves stored, and both where they are misaligned. -/
theorem scalarLoadsAndStores : Obligations.ScalarLoadsAndStores := by
  intro sd sa sz ord off s n ea
  refine ⟨fun sx1 l tag s1 free place sound => ?load, fun l tag s1 retired free place sound unguarded => ?store,
    fun odd => ⟨fun sx1 => lds_misaligned odd, fun retired => sts_misaligned retired odd⟩⟩
  case load =>
    obtain ⟨u, ends, only⟩ := lds_loads (sd := sd) (sx1 := sx1) (ord := ord) free place sound
    exact ⟨doesButCaches_of_ok ends ((only.trans (.acquireIf ..)).wrS ..), fun acquires =>
      acquired_of_ok ends (acquired_wrS (acquired_acquireIf (decide_eq_true acquires) u) _ _)⟩
  case store =>
    obtain ⟨u, ends, only⟩ := sts_stores (sd := sd) retired free place sound unguarded
    have hart : u.hart = s.hart := only.hart.trans (placed_of_resolve place).hart
    have stored : Wrote s (advance u) tag l n (byteOf (rdS s sd).toNat) := by
      have wrote := wrote_of_memWith (t := advance u) (placed_of_resolve place).mem ((advance_mem u).trans only.mem)
      rw [bytesOfNat_length] at wrote
      exact wrote_congr wrote fun i hi => getD_bytesOfNat hi
    exact ⟨_, ends, stored, (advance_pc u).trans (by rw [pcAfter, hart]; rfl), leftAlone_of_advance hart⟩

end Sys2Proof.Proofs
end

section
/-! SUPPORT. The scalar atomics: the value each stores, and what one leaves (R293-R296). -/

namespace Sys2Proof.Proofs

open Sys2Proof.Machine Sys2Proof.Safety Sys2Proof.Rules Sys2Proof.Laws

/-! ### The values (R294) -/

/-- A row of the atomics with its operation: its meaning, whether a host page takes it, and the value it stores. -/
structure AtomicRow (r : (BitVec 5 → BitVec 5 → BitVec 5 → BitVec 1 → BitVec 2 → BitVec 2 → Instr) ×
    (Nat → Nat → Nat → Nat → Option Nat)) (op : AmoOp) : Prop where
  meaning : ∀ sd sa sb sz sem scope s, exec (r.1 sd sa sb sz sem scope) s =
    atomic (r.1 sd sa sb sz sem scope) op sd sa sb sz sem scope s
  onHost : ∀ sd sa sb sz sem scope, OnHost (r.1 sd sa sb sz sem scope) ↔ op = .add ∨ op = .swap ∨ op = .cas
  value : ∀ w x y c, 0 < w → x < 2 ^ w → y < 2 ^ w → c < 2 ^ w →
    (amoValue op (BitVec.ofNat w x) (BitVec.ofNat w y) (BitVec.ofNat w c)).map BitVec.toNat =
      (r.2 w x y c).map (· % 2 ^ w)

section
variable {w x y : Nat} (pos : 0 < w) (hx : x < 2 ^ w) (hy : y < 2 ^ w)

include hx in
theorem toNat_ofNat_lt : (BitVec.ofNat w x).toNat = x := by rw [BitVec.toNat_ofNat, Nat.mod_eq_of_lt hx]

include pos in
theorem slt_ofNat : (BitVec.ofNat w x).slt (BitVec.ofNat w y) = true ↔ sx w x < sx w y := by
  rw [BitVec.slt, decide_eq_true_iff, sx_eq_toInt pos, sx_eq_toInt pos]

include hx hy in
theorem ult_ofNat : (BitVec.ofNat w x).ult (BitVec.ofNat w y) = true ↔ x < y := by
  rw [BitVec.ult, decide_eq_true_iff, toNat_ofNat_lt hx, toNat_ofNat_lt hy]

include pos hx hy in
theorem sx_inj (same : sx w x = sx w y) : x = y := by
  rw [sx_eq_toInt pos, sx_eq_toInt pos] at same
  have words := congrArg BitVec.toNat (BitVec.eq_of_toInt_eq same)
  rwa [toNat_ofNat_lt hx, toNat_ofNat_lt hy] at words

end

/-- A row whose operation has the meaning of the table's instruction, by the value it stores. -/
theorem atomicRow_of_value {form : BitVec 5 → BitVec 5 → BitVec 5 → BitVec 1 → BitVec 2 → BitVec 2 → Instr}
    {value : Nat → Nat → Nat → Nat → Option Nat} (op : AmoOp)
    (meaning : ∀ sd sa sb sz sem scope s, exec (form sd sa sb sz sem scope) s =
      atomic (form sd sa sb sz sem scope) op sd sa sb sz sem scope s)
    (onHost : ∀ sd sa sb sz sem scope, OnHost (form sd sa sb sz sem scope) ↔ op = .add ∨ op = .swap ∨ op = .cas)
    (stores : ∀ w x y c, 0 < w → x < 2 ^ w → y < 2 ^ w → c < 2 ^ w →
      (amoValue op (BitVec.ofNat w x) (BitVec.ofNat w y) (BitVec.ofNat w c)).map BitVec.toNat =
        (value w x y c).map (· % 2 ^ w)) : ∃ op, AtomicRow (form, value) op :=
  ⟨op, meaning, onHost, stores⟩

theorem atomics_rows : ∀ r ∈ atomics, ∃ op, AtomicRow r op := by
  intro r row
  simp only [atomics, List.mem_cons, List.not_mem_nil, or_false] at row
  rcases row with rfl | rfl | rfl | rfl | rfl | rfl | rfl | rfl | rfl | rfl | rfl
  · refine atomicRow_of_value .add (fun _ _ _ _ _ _ _ => rfl) (by simp [OnHost]) fun w x y c _ _ _ _ => ?_
    simp [amoValue]
  · refine atomicRow_of_value .and (fun _ _ _ _ _ _ _ => rfl) (by simp [OnHost]) fun w x y c _ _ _ _ => ?_
    simp [amoValue, Nat.and_mod_two_pow]
  · refine atomicRow_of_value .or (fun _ _ _ _ _ _ _ => rfl) (by simp [OnHost]) fun w x y c _ _ _ _ => ?_
    simp [amoValue, Nat.or_mod_two_pow]
  · refine atomicRow_of_value .xor (fun _ _ _ _ _ _ _ => rfl) (by simp [OnHost]) fun w x y c _ _ _ _ => ?_
    simp [amoValue, Nat.xor_mod_two_pow]
  · refine atomicRow_of_value .min (fun _ _ _ _ _ _ _ => rfl) (by simp [OnHost]) fun w x y c pos hx hy _ => ?_
    simp only [amoValue, Option.map_some, slt_ofNat pos, apply_ite BitVec.toNat, BitVec.toNat_ofNat, apply_ite (· % 2 ^ w)]
    grind [sx_inj pos hx hy]
  · refine atomicRow_of_value .max (fun _ _ _ _ _ _ _ => rfl) (by simp [OnHost]) fun w x y c pos hx hy _ => ?_
    simp only [amoValue, Option.map_some, slt_ofNat pos, apply_ite BitVec.toNat, BitVec.toNat_ofNat, apply_ite (· % 2 ^ w)]
    grind [sx_inj pos hx hy]
  · refine atomicRow_of_value .minn (fun _ _ _ _ _ _ _ => rfl) (by simp [OnHost]) fun w x y c _ hx hy _ => ?_
    simp only [amoValue, Option.map_some, ult_ofNat hx hy, apply_ite BitVec.toNat, BitVec.toNat_ofNat, min_def]
    grind
  · refine atomicRow_of_value .maxn (fun _ _ _ _ _ _ _ => rfl) (by simp [OnHost]) fun w x y c _ hx hy _ => ?_
    simp only [amoValue, Option.map_some, ult_ofNat hx hy, apply_ite BitVec.toNat, BitVec.toNat_ofNat, max_def]
    grind
  · refine atomicRow_of_value .swap (fun _ _ _ _ _ _ _ => rfl) (by simp [OnHost]) fun w x y c _ _ _ _ => ?_
    simp [amoValue]
  · refine atomicRow_of_value .cas (fun _ _ _ _ _ _ _ => rfl) (by simp [OnHost]) fun w x y c _ hx _ hc => ?_
    have same : BitVec.ofNat w x = BitVec.ofNat w c ↔ x = c := by
      rw [← BitVec.toNat_inj, toNat_ofNat_lt hx, toNat_ofNat_lt hc]
    simp only [amoValue, same]
    split <;> simp
  · refine atomicRow_of_value .fadd (fun _ _ _ _ _ _ _ => rfl) (by simp [OnHost]) fun w x y c _ hx hy _ => ?_
    simp only [amoValue, Option.map_some, BitVec.toNat_ofNat, Nat.mod_eq_of_lt hx, Nat.mod_eq_of_lt hy]

/-! ### What an atomic leaves (R294-R296) -/

namespace CachesOnly

theorem pokeLoc {u v : State} (h : CachesOnly u v) (t l : Nat) (bs : List Byte) :
    CachesOnly (pokeLoc u t l bs) (pokeLoc v t l bs) := by
  obtain ⟨p, d, z, n, rfl⟩ := h
  exact ⟨p, markWritten d l bs.length, z, n, rfl⟩

theorem dDrop (u : State) (core l : Nat) : CachesOnly u (dDrop u core l) := by
  unfold Machine.dDrop
  split
  · exact dGone ..
  · exact refl u

theorem freshFree (u : State) : CachesOnly u (freshFree u).2 := ⟨u.pmc, u.dcache, u.slices, _, rfl⟩

variable {u v : State} (h : CachesOnly u v) {l n : Nat}
include h

theorem sound (sound : Sound u l n) : Sound v l n := by obtain ⟨_, _, _, _, rfl⟩ := h; exact sound

theorem storedNat (tag l n : Nat) : storedNat v tag l n = storedNat u tag l n := by obtain ⟨_, _, _, _, rfl⟩ := h; rfl

theorem guardStops (hart l n : Nat) : guardStops v hart l n = guardStops u hart l n := by
  obtain ⟨_, _, _, _, rfl⟩ := h; rfl

end CachesOnly

/-- What an atomic leaves stored that found its `n` bytes at a place: a new value, or nothing new. -/
def amoStored (u : State) (tag l n : Nat) (new : Option Nat) : State :=
  match new with
  | none => u
  | some v => pokeLoc u tag l (bytesOfNat n v)

theorem bytesOfNat_mod (n x : Nat) : bytesOfNat n (x % 2 ^ (8 * n)) = bytesOfNat n x := by
  refine List.map_congr_left fun i hi => BitVec.eq_of_toNat_eq ?_
  have low := List.mem_range.1 hi
  obtain ⟨k, rfl⟩ : ∃ k, n = i + 1 + k := ⟨n - (i + 1), by omega⟩
  rw [BitVec.toNat_ofNat, BitVec.toNat_ofNat, show 2 ^ (8 * (i + 1 + k)) = 256 ^ i * (256 * 256 ^ k) by
    rw [pow_mul]; ring, Nat.mod_mul_right_div_self]
  exact Nat.mod_mod_of_dvd _ (Dvd.intro _ rfl)

section
variable {r : (BitVec 5 → BitVec 5 → BitVec 5 → BitVec 1 → BitVec 2 → BitVec 2 → Instr) × (Nat → Nat → Nat → Nat → Option Nat)}
  {op : AmoOp} {s s1 : State} {sd sa sb : BitVec 5} {n l tag : Nat}

/-- R295: a host page refuses the atomics it does not take. -/
theorem amoR_refused (place : resolve s (acc s .other .write) (rdS s sa) n = .ok (.mem l tag) s1)
    (refused : amoAllowed op (.mem l tag) = false) : amoR op sd sa sb n s = .trap 6 ⟨0x17, rdS s sa⟩ s1 := by
  simp only [amoR, place, XRes.bind, refused, Bool.not_false, if_true, ofLoad_fault]

/-- R295: what the host completes as unsupported. -/
theorem amoR_unsupported (place : resolve s (acc s .other .write) (rdS s sa) n = .ok (.mem l tag) s1)
    (allowed : amoAllowed op (.mem l tag) = true) (undone : (amoUnsupported s1 (.mem l tag)).1 = true) :
    amoR op sd sa sb n s = .trap 6 ⟨0x17, rdS s sa⟩ (amoUnsupported s1 (.mem l tag)).2 := by
  simp only [amoR, place, XRes.bind, allowed, undone, Bool.not_true, Bool.false_eq_true, if_true, if_false, ofLoad_fault]

theorem amoUnsupported_only (u : State) (t : Target) : CachesOnly u (amoUnsupported u t).2 := by
  unfold amoUnsupported
  split
  · split
    · exact .freshFree u
    · exact .refl u
  · exact .refl u

/-- R294: an atomic that may go on returns the old value, and stores the new one where there is one. -/
theorem amoR_stores (row : AtomicRow r op) (pos : 0 < n)
    (place : resolve s (acc s .other .write) (rdS s sa) n = .ok (.mem l tag) s1) (sound : Sound s1 l n)
    (allowed : amoAllowed op (.mem l tag) = true) (done : (amoUnsupported s1 (.mem l tag)).1 = false) :
    let old := storedNat s1 tag l n
    let new := r.2 (8 * n) old ((rdS s sb).toNat % 2 ^ (8 * n)) ((rdS s sd).toNat % 2 ^ (8 * n))
    (∀ v, new = some v → guardStops s1 s.hart.key l n = none) →
    ∃ u, amoR op sd sa sb n s = .ok (wrS u sd (BitVec.ofNat 64 old)) ∧ CachesOnly (amoStored s1 tag l n new) u := by
  intro old new unguarded
  have only : CachesOnly s1 (amoDrop (amoUnsupported s1 (.mem l tag)).2 (.mem l tag)) :=
    (amoUnsupported_only ..).trans (.dGone ..)
  have word (x : Dword) : x.truncate (8 * n) = BitVec.ofNat (8 * n) (x.toNat % 2 ^ (8 * n)) := by
    exact BitVec.eq_of_toNat_eq (by simp)
  have value := row.value (8 * n) old ((rdS s sb).toNat % 2 ^ (8 * n)) ((rdS s sd).toNat % 2 ^ (8 * n)) (by omega)
    (by rw [pow_mul]; exact storedNat_lt ..) (Nat.mod_lt _ (by positivity)) (Nat.mod_lt _ (by positivity))
  simp only [amoR, place, XRes.bind, allowed, done, Bool.not_true, Bool.false_eq_true, if_false,
    readT_sound (only.sound sound), only.storedNat, word]
  change (amoValue op (BitVec.ofNat (8 * n) old) _ _).map BitVec.toNat = new.map (· % 2 ^ (8 * n)) at value
  cases stored : amoValue op (BitVec.ofNat (8 * n) old) _ _ with
  | none =>
    have nothing : new = none := by simpa [stored] using value.symm
    exact ⟨_, rfl, nothing ▸ only⟩
  | some z =>
    obtain ⟨v, some_v, low⟩ : ∃ v, new = some v ∧ v % 2 ^ (8 * n) = z.toNat := by simpa [stored] using value.symm
    have bytes : bytesOfNat n z.toNat = bytesOfNat n v := by rw [← low, bytesOfNat_mod]
    have free : guardStops s1 s.hart.key l (bytesOfNat n v).length = none := by rw [bytesOfNat_length]; exact unguarded v some_v
    have sound' : Sound s1 l (bytesOfNat n v).length := by rwa [bytesOfNat_length]
    simp only [writeT, XRes.bind, bytes]
    rw [writeAt_sound (only.sound sound') ((only.guardStops ..).trans free)]
    exact ⟨_, rfl, some_v ▸ (only.pokeLoc ..).trans (.dDrop ..)⟩

end

section
variable {r : (BitVec 5 → BitVec 5 → BitVec 5 → BitVec 1 → BitVec 2 → BitVec 2 → Instr) × (Nat → Nat → Nat → Nat → Option Nat)}
  {op : AmoOp} {s s1 : State} {sd sa sb : BitVec 5} {sz : BitVec 1} {sem scope : BitVec 2} {n l tag : Nat}

/-- The bytes of an atomic (R293). -/
def amoBytes (sz : BitVec 1) : Nat := if sz = 0 then 4 else 8

theorem exec_atomic (row : AtomicRow r op) (retired : 2 ≤ sem.toNat → Retired s)
    (free : Coherent s .write (rdS s sa) (amoBytes sz)) :
    exec (r.1 sd sa sb sz sem scope) s = finish (amoAcquire sem scope (amoR op sd sa sb (amoBytes sz) s)) := by
  rw [row.meaning]
  refine congrArg finish ((released_retired (fun rel => retired (of_decide_eq_true rel)) _).trans ?_)
  exact coherent_read free _

theorem exec_atomic_faults (row : AtomicRow r op) (retired : 2 ≤ sem.toNat → Retired s)
    (free : Coherent s .write (rdS s sa) (amoBytes sz)) {u : State} {t : Trap}
    (faults : amoR op sd sa sb (amoBytes sz) s = .trap 6 t u) :
    exec (r.1 sd sa sb sz sem scope) s = .next (trappedAt 6 u t.cause t.tval) := by
  rw [exec_atomic row retired free, faults, ← raise_eq_trappedAt]
  rfl

theorem amoAllowed_device (h : isHost l = false) (op : AmoOp) (tag : Nat) : amoAllowed op (.mem l tag) = true := by
  simp [amoAllowed, h]

theorem amoUnsupported_device (h : isHost l = false) (u : State) (tag : Nat) : amoUnsupported u (.mem l tag) = (false, u) :=
  if_neg (ne_true_of_eq_false h)

theorem amoUnsupported_host (h : isHost l = true) (u : State) (tag : Nat) :
    amoUnsupported u (.mem l tag) = ((freshFree u).1.getLsbD 0, { u with free := u.free + 1 }) := if_pos h

theorem amoAllowed_host (row : AtomicRow r op) (h : isHost l = true) (tag : Nat) :
    amoAllowed op (.mem l tag) = true ↔ OnHost (r.1 sd sa sb sz sem scope) := by
  rw [row.onHost]
  simp [amoAllowed, h, or_assoc]

/-- R230: the windows guard no page of the host. -/
theorem guardStops_host (h : isHost l = true) (u : State) (hart n : Nat) : guardStops u hart l n = none := by
  have high : 2 ^ 80 ≤ l := of_decide_eq_true h
  have notSpad : isSpad l = false := by
    simp only [isSpad, Bool.and_eq_false_iff, decide_eq_false_iff_not]
    omega
  have notTwin : isTwinSpad l = false := by
    simp only [isTwinSpad, Bool.and_eq_false_iff, decide_eq_false_iff_not]
    omega
  simp only [guardStops, notSpad, notTwin, Bool.false_eq_true, if_false]

/-- What an atomic that goes on leaves: what it stored, with the old value in its register. -/
def AmoEnds (i : Instr) (s s1 : State) (sd : BitVec 5) (tag l n old : Nat) (new : Option Nat) (acq : Bool) : Prop :=
  ∃ u, exec i s = finish (.ok (acquireIf acq (wrS u sd (BitVec.ofNat 64 old)))) ∧ CachesOnly (amoStored s1 tag l n new) u

theorem AmoEnds.read {i : Instr} {old : Nat} {new : Option Nat} {acq : Bool} (ends : AmoEnds i s s1 sd tag l n old new acq)
    (nothing : new = none) : DoesButCaches i s (wrS s1 sd (BitVec.ofNat 64 old)) := by
  subst nothing
  obtain ⟨u, ends, only⟩ := ends
  exact doesButCaches_of_ok ends ((only.wrS ..).trans (.acquireIf ..))

theorem AmoEnds.acquired {i : Instr} {old : Nat} {new : Option Nat} {acq : Bool}
    (ends : AmoEnds i s s1 sd tag l n old new acq) (on : acq = true) : Completes i s Acquired := by
  obtain ⟨u, ends, -⟩ := ends
  exact acquired_of_ok ends (acquired_acquireIf on _)

theorem AmoEnds.written {i : Instr} {old v : Nat} {new : Option Nat} {acq : Bool}
    (ends : AmoEnds i s s1 sd tag l n old new acq) (some_v : new = some v) (placed : PlacedOnly s s1) :
    Completes i s fun t => Wrote s t tag l n (byteOf v) ∧
      (∀ q, reg t q = if q = sd ∧ q ≠ 0 then BitVec.ofNat 64 old else reg s q) ∧ t.hart.pc = pcAfter s := by
  subst some_v
  obtain ⟨u, ends, only⟩ := ends
  have acquired := CachesOnly.acquireIf acq (wrS u sd (BitVec.ofNat 64 old))
  have hart : u.hart = s.hart := only.hart.trans placed.hart
  have mem : (advance (acquireIf acq (wrS u sd (BitVec.ofNat 64 old)))).mem = memWith s1 tag l (bytesOfNat n v) := by
    rw [advance_mem, acquired.mem, (Kept.wrS ..).mem, only.mem]
    rfl
  refine ⟨_, ends, ?_, fun q => ?_, ?_⟩
  · have wrote := wrote_of_memWith placed.mem mem
    rw [bytesOfNat_length] at wrote
    exact wrote_congr wrote fun i hi => getD_bytesOfNat hi
  · rw [reg_advance, reg, acquired.hart]
    have same : reg u q = reg s q := by rw [reg, hart]; rfl
    rw [← same, ← reg_wrS]
    rfl
  · rw [advance_pc, pcAfter, acquired.hart, ← pcAfter, pcAfter_wrS, pcAfter, hart]
    rfl

end

/-- Settles O19: in memory of the device an atomic goes on, on a host page where the page takes it and the host does it. -/
theorem atomicsReadAndReplaceInOneStep : Obligations.AtomicsReadAndReplaceInOneStep := by
  intro r hr sd sa sb sz sem scope s l tag s1 n ea i retired free place trapped
  obtain ⟨op, row⟩ := atomics_rows r hr
  have faults {u : State} (t : amoR op sd sa sb n s = .trap 6 ⟨0x17, ea⟩ u) : trapped u :=
    exec_atomic_faults row retired free t
  refine ⟨?goes, fun host notOn => faults ?refused⟩
  case refused =>
    exact amoR_refused place (Bool.eq_false_of_not_eq_true (mt (amoAllowed_host row host tag).1 notOn))
  intro sound old new read written
  have ends (allowed : amoAllowed op (.mem l tag) = true) (done : (amoUnsupported s1 (.mem l tag)).1 = false)
      (unguarded : ∀ v, new = some v → guardStops s1 s.hart.key l n = none) :
      AmoEnds i s s1 sd tag l n old new (sem.getLsbD 0 && 1 ≤ scope.toNat) := by
    obtain ⟨u, stores, only⟩ := amoR_stores (sd := sd) (sb := sb) row (by unfold n; split <;> decide) place sound allowed done unguarded
    exact ⟨u, (exec_atomic row retired free).trans (congrArg (fun x => finish (amoAcquire sem scope x)) stores), only⟩
  have placed := placed_of_resolve place
  refine ⟨fun device => ?device, fun host on => ?host⟩
  case device =>
    have goes := ends (amoAllowed_device device op tag) (by rw [amoUnsupported_device device])
    refine ⟨fun nothing => (goes ?_).read nothing, fun v some_v unguarded => (goes fun _ _ => unguarded).written some_v placed,
      fun unguarded acquires wide => (goes unguarded).acquired ?_⟩
    · rw [nothing]
      exact fun _ => nofun
    · simpa [BitVec.getLsbD, Nat.testBit_zero] using And.intro acquires wide
  case host =>
    have goes := ends ((amoAllowed_host row host tag).2 on)
    have unguarded := guardStops_host host s1 s.hart.key n
    have undone (h : (amoUnsupported s1 (.mem l tag)).1 = true) : trapped { s1 with free := s1.free + 1 } := by
      have answer := amoR_unsupported (sd := sd) (sb := sb) place ((amoAllowed_host row host tag).2 on) h
      rw [amoUnsupported_host host] at answer
      exact faults answer
    cases h : (amoUnsupported s1 (.mem l tag)).1 with
    | true => exact ⟨fun _ => .inr (undone h), fun _ _ => .inr (undone h)⟩
    | false =>
      exact ⟨fun nothing => .inl ((goes h fun _ _ => unguarded).read nothing),
        fun v some_v => .inl ((goes h fun _ _ => unguarded).written some_v placed)⟩

end Sys2Proof.Proofs
end

section
/-! SUPPORT. Tickets: the words counted up, and the waits on them (R248, R295, R296, R303, R433, R442, R443). -/

namespace Sys2Proof.Proofs

open Sys2Proof.Machine Sys2Proof.Safety Sys2Proof.Rules Sys2Proof.Laws

/-! ### Tickets taken and given -/

section
variable {s s1 : State} {sd sa : BitVec 5}

theorem exec_ticketStep {i : Instr} (form : i ∈ [Instr.tktTake sd sa, .tktGive sd sa]) (retired : i = .tktGive sd sa → Retired s)
    (free : Coherent s .write (rdS s sa) 8) :
    exec i s = finish (ofLoad (ticketRead s (rdS s sa)) fun p u =>
      let w := (writeLoc u p.2.1 p.1 (bytesOfNat 8 (p.2.2 + 1).toNat)).getD u
      .ok (wrS (dGone w w.hart.core p.1) sd p.2.2)) := by
  have step : exec i s = finish (ticketStep sd sa s) := by
    simp only [List.mem_cons, List.not_mem_nil, or_false] at form
    rcases form with rfl | rfl
    · rfl
    · exact congrArg finish (afterQueue_drained (drained_of_retired (retired rfl)) _)
  exact step.trans (congrArg finish (coherent_read free _))

/-- R442: a place that is no ticket word. -/
theorem ticketRead_refused {ea : Dword} {t : Target} (place : resolve s (acc s .other .write) ea 8 = .ok t s1)
    (none : NoTicket t) : ticketRead s ea = .fault ⟨0x17, ea⟩ s1 := by
  cases t with
  | mem l tag =>
    have foreign : (isHost l || !isGlobal l) = true := by
      rcases none l tag rfl with site | host
      · simp [site]
      · simp [host]
    simp only [ticketRead, ticketWord, place, XRes.bind, foreign, if_true]
  | _ => simp only [ticketRead, ticketWord, place, XRes.bind]

theorem ticketRead_waits {ea : Dword} (walks : resolve s (acc s .other .write) ea 8 = .wait s1) :
    ticketRead s ea = .wait s1 := by
  simp only [ticketRead, ticketWord, walks, XRes.bind]

theorem ticketRead_misaligned {ea : Dword} (odd : ea.toNat % 8 ≠ 0) : ticketRead s ea = .fault ⟨0x10, ea⟩ s := by
  simp only [ticketRead, ticketWord, resolve_misaligned odd, XRes.bind]

theorem writeLoc_getD_hart (u : State) (t l : Nat) (bs : List Byte) : ((writeLoc u t l bs).getD u).hart = u.hart := by
  unfold writeLoc
  dsimp only
  split
  · rfl
  · exact pokeLoc_hart ..

theorem toNat_ofNat_succ (v : Nat) : (BitVec.ofNat 64 v + 1).toNat = (v + 1) % 2 ^ 64 := by
  simp [BitVec.toNat_add]

end

theorem ticketsCount (sd sa : BitVec 5) (s : State) : ∀ i ∈ [Instr.tktTake sd sa, .tktGive sd sa],
    (i = .tktGive sd sa → Retired s) → Coherent s .write (rdS s sa) 8 →
    (∀ l tag s1 v, TicketAt s (rdS s sa) l tag s1 v → Does i s (wrS (dGone
      ((writeLoc s1 tag l (bytesOfNat 8 ((v + 1) % 2 ^ 64))).getD s1) s.hart.core l) sd (BitVec.ofNat 64 v))) ∧
    (∀ t s1, resolve s (acc s .other .write) (rdS s sa) 8 = .ok t s1 → NoTicket t →
      exec i s = .next (trappedAt 6 s1 0x17 (rdS s sa))) ∧
    ((rdS s sa).toNat % 8 ≠ 0 → Traps i s 0x10 (rdS s sa)) := by
  intro i form retired free
  have step := exec_ticketStep form retired free
  refine ⟨fun l tag s1 v ticket => does_of_ok (step.trans ?counts), fun t s1 place none => ?refused, fun odd => ?misaligned⟩
  case counts =>
    rw [ticketRead_at ticket, ofLoad_ok]
    simp only [toNat_ofNat_succ, writeLoc_getD_hart, (placed_of_resolve ticket.1).hart]
  case refused => rw [step, ticketRead_refused place none, ofLoad_fault, finish_trap, raise_eq_trappedAt]
  case misaligned => rw [Traps, step, ticketRead_misaligned odd, ofLoad_fault, finish_trap, raise_eq_trappedAt]

/-! ### Waits on a ticket (R443) -/

/-- What a wait on a ticket begins from: a fresh one drops the watches of an earlier one. -/
def waitStart (i : Instr) (s : State) : State := if s.hart.blockedBy = some i then s else unwatch s s.hart.key

theorem waitStart_hart (i : Instr) (s : State) : (waitStart i s).hart = s.hart := by
  unfold waitStart
  split <;> rfl

/-- A placed watch changes the watches alone. -/
theorem placeWatch_rest (s : State) (l tag : Nat) (ticket : Dword) : ∃ w, placeWatch s l tag ticket = { s with watches := w } := by
  unfold placeWatch
  dsimp only
  split
  · exact ⟨_, rfl⟩
  · split <;> exact ⟨_, rfl⟩

section
variable {i : Instr} {waits : Bool} {s : State} {sa : BitVec 5} {ticket : Dword} {f : Bool → State → Res}

theorem ticketWait_eq : ticketWait i waits sa ticket s f =
    if s.hart.waitEnd.isSome || sawTicket (waitStart i s) ticket then
      f (s.hart.waitEnd != some false) (unwatch (dropWalks (waitStart i s) s.hart.key) s.hart.key)
    else
      coherent (waitStart i s) .read (rdS s sa) 8 fun u =>
        let r := ofLoad (ticketRead u (rdS u sa)) fun p w =>
          if p.2.2 = ticket then f true (unwatch w w.hart.key) else f false (placeWatch w p.1 p.2.1 ticket)
        if decide (s.hart.blockedBy = some i) || waits then keepWait i r else r := by
  unfold ticketWait waitStart
  by_cases again : s.hart.blockedBy = some i
  · simp [again]
  · have fresh : (s.hart.blockedBy == some i) = false := by simpa using again
    simp [again, fresh, unwatch, rdS]

/-- R433, R443: a wait that is decided, or whose watch has read the ticket. -/
theorem ticketWait_decided (decided : (s.hart.waitEnd.isSome || sawTicket (waitStart i s) ticket) = true) :
    ticketWait i waits sa ticket s f =
      f (s.hart.waitEnd != some false) (unwatch (dropWalks (waitStart i s) s.hart.key) s.hart.key) := by
  rw [ticketWait_eq, if_pos decided]

/-- R443: any other reads the word itself. -/
theorem ticketWait_reads (open_ : s.hart.waitEnd = none) (unseen : sawTicket (waitStart i s) ticket = false)
    (free : Coherent (waitStart i s) .read (rdS s sa) 8) : ticketWait i waits sa ticket s f =
      let r := ofLoad (ticketRead (waitStart i s) (rdS s sa)) fun p w =>
        if p.2.2 = ticket then f true (unwatch w w.hart.key) else f false (placeWatch w p.1 p.2.1 ticket)
      if decide (s.hart.blockedBy = some i) || waits then keepWait i r else r := by
  have regs : rdS (waitStart i s) sa = rdS s sa := by rw [rdS, waitStart_hart]; rfl
  rw [ticketWait_eq, open_, unseen, coherent_read free, regs]
  rfl

/-- R433: a wait whose page is being translated is remembered. -/
theorem ticketWait_walks {s1 : State} (open_ : s.hart.waitEnd = none) (unseen : sawTicket (waitStart i s) ticket = false)
    (free : Coherent (waitStart i s) .read (rdS s sa) 8)
    (walks : resolve (waitStart i s) (acc s .other .write) (rdS s sa) 8 = .wait s1)
    (remembered : s.hart.blockedBy = some i ∨ waits = true) :
    ticketWait i waits sa ticket s f = stallOn .walk i s1 := by
  have same : acc (waitStart i s) .other .write = acc s .other .write := by rw [acc, acc, waitStart_hart]
  rw [ticketWait_reads open_ unseen free, ticketRead_waits (same ▸ walks), ofLoad_wait]
  exact if_pos (by simpa using remembered)

/-- R443: a read that returned the ticket's word decides, where the wait's end is no walk. -/
theorem ticketWait_at {l tag v : Nat} {s1 : State} {r : Res} (open_ : s.hart.waitEnd = none)
    (unseen : sawTicket (waitStart i s) ticket = false) (free : Coherent (waitStart i s) .read (rdS s sa) 8)
    (at_ : TicketAt (waitStart i s) (rdS s sa) l tag s1 v)
    (answer : (if BitVec.ofNat 64 v = ticket then f true (unwatch s1 s1.hart.key) else f false (placeWatch s1 l tag ticket)) = r)
    (kept : keepWait i r = r) : ticketWait i waits sa ticket s f = r := by
  have regs : rdS (waitStart i s) sa = rdS s sa := by rw [rdS, waitStart_hart]; rfl
  have read := ticketRead_at (regs.symm ▸ at_)
  rw [regs] at read
  rw [ticketWait_reads open_ unseen free, read, ofLoad_ok]
  simp only [answer, kept, ite_self]

end

/-- A form of the wait on a ticket: how it answers, whether its limit is past, and how it waits on. -/
structure TicketForm (i : Instr) (s : State) (sa : BitVec 5) (ticket : Dword) (limited : Prop) (waits : Bool)
    (f : Bool → State → Res) (answer : State → Dword → State) : Prop where
  meaning : exec i s = finish (ticketWait i waits sa ticket s f)
  waits_iff : waits = true ↔ ¬ limited
  held : ∀ w, w.hart.waitEnd ≠ some false → f true w = .ok (answer (acquireIf true w) 0)
  open_ : ∀ w, w.hart.waitEnd = none → w.nowNs = s.nowNs → ¬ limited → f false w = stallOn .wait i w
  caches : ∀ u v x, CachesOnly u v → CachesOnly (answer u x) (answer v x)
  acquired : ∀ w x, Acquired w → Acquired (answer w x)

section
variable {i : Instr} {s : State} {sa : BitVec 5} {ticket : Dword} {limited : Prop} {waits : Bool}
  {f : Bool → State → Res} {answer : State → Dword → State} (form : TicketForm i s sa ticket limited waits f answer)
include form

/-- A wait whose condition holds answers 0 and acquires. -/
theorem TicketForm.ends {w : State} (ends : ticketWait i waits sa ticket s f = f true w) (open_ : w.hart.waitEnd ≠ some false) :
    DoesButCaches i s (answer w 0) ∧ Completes i s Acquired := by
  have meaning : exec i s = finish (.ok (answer (acquireIf true w) 0)) := by rw [form.meaning, ends, form.held w open_]
  exact ⟨doesButCaches_of_ok meaning (form.caches _ _ _ (.acquireIf ..)),
    acquired_of_ok meaning (form.acquired _ _ (acquired_acquireIf rfl w))⟩

theorem TicketForm.decided (may : MayHold s (sawTicket (waitStart i s) ticket = true)) :
    let left := dropWalks (waitStart i s) s.hart.key
    DoesButCaches i s (answer (unwatch left left.hart.key) 0) ∧ Completes i s Acquired := by
  intro left
  have key : left.hart.key = s.hart.key := congrArg Hart.key (waitStart_hart i s)
  have first : (s.hart.waitEnd.isSome || sawTicket (waitStart i s) ticket) = true ∧ (s.hart.waitEnd != some false) = true := by
    rcases may with met | ⟨none, saw⟩
    · simp [met]
    · simp [none, saw]
  obtain ⟨decided, met⟩ := first
  rw [key]
  refine form.ends ((ticketWait_decided decided).trans (by rw [met])) ?_
  have still : (unwatch left s.hart.key).hart.waitEnd = s.hart.waitEnd := congrArg Hart.waitEnd (waitStart_hart i s)
  rw [still]
  simpa using met

variable {s1 : State} {l tag v : Nat} (none : s.hart.waitEnd = none) (unseen : sawTicket (waitStart i s) ticket = false)
  (free : Coherent (waitStart i s) .read (rdS s sa) 8)
include none unseen free

theorem TicketForm.walks (walks : resolve (waitStart i s) (acc s .other .write) (rdS s sa) 8 = .wait s1)
    (remembered : s.hart.blockedBy = some i ∨ ¬ limited) : exec i s = .next (withHart s1 fun h =>
      { h with block := .walk, blockedBy := some i, x := { h.x with stalled := true } }) := by
  rw [form.meaning, ticketWait_walks none unseen free walks (remembered.imp_right form.waits_iff.2)]
  rfl

omit form none unseen free in
/-- A state that an access to the ticket's word leaves is where the wait stood, but for the tables of translation. -/
theorem ticketAt_left (at_ : TicketAt (waitStart i s) (rdS s sa) l tag s1 v) : s1.hart = s.hart ∧ s1.nowNs = s.nowNs := by
  obtain ⟨_, _, _, rfl⟩ := placed_of_resolve at_.1
  refine ⟨waitStart_hart i s, ?_⟩
  unfold waitStart
  split <;> rfl

variable (at_ : TicketAt (waitStart i s) (rdS s sa) l tag s1 v)
include at_

theorem TicketForm.met (met : BitVec.ofNat 64 v = ticket) :
    DoesButCaches i s (answer (unwatch s1 s1.hart.key) 0) ∧ Completes i s Acquired := by
  obtain ⟨hart, -⟩ := ticketAt_left at_
  have open_ : (unwatch s1 s1.hart.key).hart.waitEnd ≠ some false := by
    have still : (unwatch s1 s1.hart.key).hart = s.hart := hart
    rw [still, none]
    nofun
  exact form.ends (ticketWait_at none unseen free at_ (if_pos met) (by rw [form.held _ open_]; rfl)) open_

theorem TicketForm.stays (unmet : BitVec.ofNat 64 v ≠ ticket) (early : ¬ limited) :
    Completes i s fun t => t.hart.pc = s.hart.pc ∧ t.hart.block = .wait ∧ t.hart.blockedBy = some i ∧
      t.hart.x.stalled = true ∧ t.hart.s = s.hart.s ∧ t.mem = s1.mem := by
  obtain ⟨hart, now⟩ := ticketAt_left at_
  obtain ⟨w, placed⟩ := placeWatch_rest s1 l tag ticket
  have waiting := form.open_ (placeWatch s1 l tag ticket) (by rw [placed, ← none, ← hart]) (by rw [placed]; exact now) early
  have stalls := ticketWait_at (waits := waits) none unseen free at_ ((if_neg unmet).trans waiting) rfl
  refine ⟨_, (form.meaning.trans (congrArg finish stalls)), ?_⟩
  rw [placed]
  have pc : s1.hart.pc = s.hart.pc := congrArg Hart.pc hart
  have regs : s1.hart.s = s.hart.s := congrArg Hart.s hart
  exact ⟨pc, rfl, rfl, rfl, regs, rfl⟩

end

theorem ticketForm_tktWait (sa sb : BitVec 5) (s : State) : TicketForm (.tktWait sa sb) s sa (rdS s sb) False true
    (fun b w => if b then .ok (acquireIf true w) else stallOn .wait (.tktWait sa sb) w) fun w _ => w where
  meaning := rfl
  waits_iff := by simp
  held _ _ := rfl
  open_ _ _ _ _ := rfl
  caches _ _ _ only := only
  acquired _ _ acquired := acquired

theorem ticketForm_tktWaitt (sd sa sb : BitVec 5) (s : State) : TicketForm (.tktWaitt sd sa sb) s sa (rdS s sb)
    ((rdS s sd).toNat ≤ s.nowNs) (s.nowNs < (rdS s sd).toNat)
    (fun b w => timedWait (.tktWaitt sd sa sb) sd true b (rdS s sd) w) fun w x => wrS w sd x where
  meaning := rfl
  waits_iff := by simp
  held _ open_ := timedWait_held open_ rfl
  open_ w none now early := by
    rw [← now] at early
    simp only [timedWait, none, early, Bool.false_or, decide_false, Bool.false_eq_true, if_false, reduceCtorEq]
  caches _ _ _ only := only.wrS ..
  acquired _ _ acquired := acquired_wrS acquired _ _

/-- What a write of one register leaves alone, at the end of its unit. -/
theorem quiet_of_wrS {s w : State} (hart : w.hart = s.hart) (sd : BitVec 5) (v : Dword) :
    Quiet s (advance (wrS w sd v)) sd := by
  have same {α : Type} (f : Hart → α) (field : ∀ t : State, f (idle t).hart = f t.hart)
      (kept : f (wrS w sd v).hart = f w.hart) : f (advance (wrS w sd v)).hart = f s.hart := by
    rw [← field, advance_idle, field, kept, hart]
  have rest {α : Type} (f : Hart → α) (field : ∀ h r, f { h with s := r } = f h) : f (wrS w sd v).hart = f w.hart := by
    unfold wrS
    split
    · rfl
    · exact field ..
  refine ⟨?_, fun r other => ?_, same Hart.v (fun _ => rfl) (rest _ fun _ _ => rfl), same Hart.k (fun _ => rfl) (rest _ fun _ _ => rfl),
    same Hart.fcsr (fun _ => rfl) (rest _ fun _ _ => rfl), same Hart.len (fun _ => rfl) (rest _ fun _ _ => rfl),
    same Hart.tr (fun _ => rfl) (rest _ fun _ _ => rfl), same Hart.queue (fun _ => rfl) (rest _ fun _ _ => rfl)⟩
  · rw [advance_pc, pcAfter_wrS, pcAfter, pcAfter, hart]
  · rw [reg_advance, reg_wrS, if_neg fun h => other h.1, reg, reg, hart]

theorem tktWaitt_limit {sd sa sb : BitVec 5} {s s1 : State} {l tag v : Nat} (none : s.hart.waitEnd = none)
    (unseen : sawTicket (waitStart (.tktWaitt sd sa sb) s) (rdS s sb) = false)
    (free : Coherent (waitStart (.tktWaitt sd sa sb) s) .read (rdS s sa) 8)
    (at_ : TicketAt (waitStart (.tktWaitt sd sa sb) s) (rdS s sa) l tag s1 v) (unmet : BitVec.ofNat 64 v ≠ rdS s sb)
    (late : (rdS s sd).toNat ≤ s.nowNs) : Completes (.tktWaitt sd sa sb) s fun t =>
      Quiet s t sd ∧ (sd ≠ 0 → reg t sd = 1) ∧ t.mem = s1.mem := by
  obtain ⟨hart, now⟩ := ticketAt_left at_
  obtain ⟨w, placed⟩ := placeWatch_rest s1 l tag (rdS s sb)
  have limit : timedWait (.tktWaitt sd sa sb) sd true false (rdS s sd) (placeWatch s1 l tag (rdS s sb)) =
      .ok (wrS (placeWatch s1 l tag (rdS s sb)) sd 1) := by
    rw [placed]
    refine timedWait_late (.inr ⟨rfl, ?_, late.trans_eq now.symm⟩)
    show s1.hart.waitEnd ≠ some true
    rw [hart, none]
    nofun
  have ends := ticketWait_at (i := .tktWaitt sd sa sb) (waits := s.nowNs < (rdS s sd).toNat) (r := .ok _)
    (f := fun b w => timedWait (.tktWaitt sd sa sb) sd true b (rdS s sd) w) none unseen free at_ ((if_neg unmet).trans limit) rfl
  refine ⟨_, (ticketForm_tktWaitt sd sa sb s).meaning.trans (congrArg finish ends), ?_⟩
  rw [placed]
  exact ⟨quiet_of_wrS (w := { s1 with watches := w }) hart sd 1, fun nz => reg_written nz 1, (advance_mem _).trans (Kept.wrS ..).mem⟩

theorem tktWaitt_late_ends {sd sa sb : BitVec 5} {s : State} (late : s.hart.waitEnd = some false) :
    let left := dropWalks (waitStart (.tktWaitt sd sa sb) s) s.hart.key
    Does (.tktWaitt sd sa sb) s (wrS (unwatch left left.hart.key) sd 1) := by
  intro left
  have key : left.hart.key = s.hart.key := congrArg Hart.key (waitStart_hart (.tktWaitt sd sa sb) s)
  have decided := ticketWait_decided (i := .tktWaitt sd sa sb) (waits := s.nowNs < (rdS s sd).toNat) (sa := sa) (ticket := rdS s sb)
    (f := fun b w => timedWait (.tktWaitt sd sa sb) sd true b (rdS s sd) w) (s := s) (by simp [late])
  have ends : timedWait (.tktWaitt sd sa sb) sd true (s.hart.waitEnd != some false) (rdS s sd) (unwatch left s.hart.key) =
      .ok (wrS (unwatch left s.hart.key) sd 1) :=
    timedWait_late (.inl ((congrArg Hart.waitEnd (waitStart_hart (.tktWaitt sd sa sb) s)).trans late))
  rw [key]
  exact does_of_ok ((ticketForm_tktWaitt sd sa sb s).meaning.trans (congrArg finish (decided.trans ends)))

/-- Settles O30: words counted up, and each form of the wait by what ends it first. -/
theorem ticketsCountUpAndWaitForEquality : Obligations.TicketsCountUpAndWaitForEquality := by
  intro sd sa sb s ea
  refine ⟨ticketsCount sd sa s, fun i form => ?_⟩
  simp only [List.mem_cons, List.not_mem_nil, or_false] at form
  rcases form with rfl | rfl
  · have form := ticketForm_tktWait sa sb s
    intro s0 done left open_ limited
    have answers (u : State) (v : Dword) : done u v = unwatch u u.hart.key := if_pos rfl
    have early : ¬ limited := fun late => nomatch late.1
    refine ⟨?_, nofun, fun ⟨waiting, unseen⟩ free => ⟨fun l tag s1 v at_ => ⟨?_, fun _ late => absurd late early, fun unmet _ =>
      form.stays waiting unseen free at_ unmet not_false⟩, fun s1 walks _ => form.walks waiting unseen free walks (.inr not_false)⟩⟩
    · rw [answers]
      exact form.decided
    · rw [answers]
      exact form.met waiting unseen free at_
  · have form := ticketForm_tktWaitt sd sa sb s
    intro s0 done left open_ limited
    have answers (u : State) (v : Dword) : done u v = wrS (unwatch u u.hart.key) sd v := if_neg nofun
    refine ⟨?_, fun _ late => ?_, fun ⟨waiting, unseen⟩ free => ⟨fun l tag s1 v at_ => ⟨?_, fun unmet late =>
      tktWaitt_limit waiting unseen free at_ unmet late.2, fun unmet early =>
      form.stays waiting unseen free at_ unmet fun late => early ⟨rfl, late⟩⟩, fun s1 walks remembered =>
      form.walks waiting unseen free walks (remembered.imp_right fun early late => early ⟨rfl, late⟩)⟩⟩
    · rw [answers]
      exact form.decided
    · rw [answers]
      exact tktWaitt_late_ends late
    · rw [answers]
      exact form.met waiting unseen free at_

end Sys2Proof.Proofs
end

section
/-! SUPPORT. Combining buffers, and errors in storage by what holds them (R262-R265, R300, R301, R321). -/

namespace Sys2Proof.Proofs

open Sys2Proof.Machine Sys2Proof.Safety Sys2Proof.Rules Sys2Proof.Laws

/-! ### Elements at their bank (R300, R301) -/

section
variable {s : State} {v : VamoElem} {rest : List VamoElem}

/-- The bank an element goes to. -/
def bankOf (v : VamoElem) : Nat := 16 * v.core + v.off / 64 % 16

theorem exec_vamoArrival (first : s.vamos = v :: rest) : exec .vamoArrival s = .next (arriveVamo { s with vamos := rest } v) := by
  have step : exec .vamoArrival s = .next ((pickVamo s).getD s) := rfl
  rw [step, pickVamo, first]
  rfl

/-- R230: an element whose bytes are all free of the ring guard. -/
theorem guardHit_none {h core off n : Nat} (free : ∀ i < n, byteGuarded s h core (off + i) = false) :
    guardHit s h core off n = none := by
  simpa [guardHit] using free

/-- R230: an element whose first byte the ring guard stops. -/
theorem guardHit_first {h core off n : Nat} (some_ : 0 < n) (stopped : byteGuarded s h core off = true) :
    guardHit s h core off n = some off := by
  obtain ⟨m, rfl⟩ := Nat.exists_eq_add_one.2 some_
  simp [guardHit, List.range_succ_eq_map, stopped]

theorem exec_vamoArrival_free (first : s.vamos = v :: rest)
    (free : ∀ i < v.bytes, byteGuarded s v.sender v.core (v.off + i) = false) :
    exec .vamoArrival s = .next (combineIn { s with vamos := rest } v) := by
  have none : guardHit { s with vamos := rest } v.sender v.core v.off v.bytes = Option.none := guardHit_none free
  rw [exec_vamoArrival first, arriveVamo, none]

/-- R301: no entry of a bank retires where none satisfies the condition. -/
theorem retireWhere_none {u : State} {bank : Nat} {p : Combine → Bool} (none : ∀ c ∈ mapGet [] u.combine bank, p c = false) :
    retireWhere u bank p = { u with combine := mapSet [] u.combine bank (mapGet [] u.combine bank) } := by
  have stays : (mapGet [] u.combine bank).filter (fun c => !p c) = mapGet [] u.combine bank :=
    List.filter_eq_self.2 fun c here => by rw [none c here]; rfl
  have goes : (mapGet [] u.combine bank).filter p = [] := List.filter_eq_nil_iff.2 fun c here => by rw [none c here]; nofun
  simp only [retireWhere, stays, goes, List.foldl_nil]

/-- R301: an element whose word no entry of its bank holds takes an entry of its own. -/
theorem combineIn_new (other : ∀ c ∈ mapGet [] s.combine (bankOf v), c.loc ≠ v.loc)
    (room : (mapGet [] s.combine (bankOf v)).length < 16) :
    mapGet [] (combineIn s v).combine (bankOf v) = mapGet [] s.combine (bankOf v) ++
      [⟨v.loc, v.core, v.bytes, v.op, v.signed, v.operand, s.nowNs⟩] ∧
    (combineIn s v).vamos = s.vamos ∧ (combineIn s v).mem = s.mem := by
  have unheld : (mapGet [] s.combine (bankOf v)).any v.sameKey = false := by
    simpa [VamoElem.sameKey] using fun c here at_ => absurd at_ (other c here)
  have stays := retireWhere_none (p := fun c => c.loc == v.loc) fun c here => beq_eq_false_iff_ne.2 (other c here)
  unfold bankOf at *
  simp only [combineIn, unheld, stays, Bool.false_eq_true, if_false, mapGet_set_same, room, if_true, State.nowNs, and_self]

/-- R301: an element whose key an entry of its bank holds is combined into that entry. -/
theorem combineIn_held {a b : List Combine} {c : Combine} (entries : mapGet [] s.combine (bankOf v) = a ++ c :: b)
    (same : v.sameKey c = true) (others : ∀ x ∈ a ++ b, v.sameKey x = false) :
    let z := BitVec.ofNat 64 (combineValue v.op v.signed (8 * v.bytes) c.operand.toNat v.operand.toNat)
    mapGet [] (combineIn s v).combine (bankOf v) = a ++ { c with operand := z } :: b ∧
    (combineIn s v).vamos = s.vamos ∧ (combineIn s v).mem = s.mem := by
  have kept : ∀ l : List Combine, (∀ x ∈ l, v.sameKey x = false) → l.map (fun c => if v.sameKey c then
      { c with operand := BitVec.ofNat 64 (combineValue v.op v.signed (8 * v.bytes) c.operand.toNat v.operand.toNat) }
      else c) = l := fun l no => (List.map_congr_left fun x here => by rw [no x here]; rfl).trans (List.map_id' l)
  have before := kept a fun x here => others x (List.mem_append_left _ here)
  have after := kept b fun x here => others x (List.mem_append_right _ here)
  have held : (a ++ c :: b).any v.sameKey = true := by simp [same]
  unfold bankOf at *
  simp only [combineIn, entries, held, if_true, mapGet_set_same, and_true, List.map_append, List.map_cons, before, after, same]

/-- R230: the ring guard's trap goes to the hart in focus, where it runs the job that sent the element. -/
theorem arriveVamo_guarded (here : v.sender = s.hart.key) (job : v.job = s.hart.job.job) (runs : s.hart.stage = .running)
    (uncounted : s.pmc = []) (some_ : 0 < v.bytes) (stopped : byteGuarded s v.sender v.core v.off = true) :
    arriveVamo s v = withHart s fun h => { h with posted := h.posted ++ [⟨true, guardTrap v.core v.off, v.order⟩] } := by
  have counted (n m : Nat) : countEv s n (some m) 0x14 1 = s := by
    have same : { s with pmc := [] } = s := by rw [← uncounted]
    rw [countEv, if_neg Nat.one_ne_zero, uncounted]
    exact same
  have focus : getHart s v.sender = s.hart := by rw [here, getHart, if_pos rfl]
  have holds : s.hart.holds v.job = true := by simp [Hart.holds, runs, job]
  simp only [arriveVamo, guardHit_first some_ stopped, counted, postTo, focus, holds, if_true, updHart, setHart, here.symm]
  rfl

/-- R301: the one entry whose time is over is applied to its word. -/
theorem combiningTimeout_applies {bank x : Nat} {c : Combine} (one : s.combine = [(bank, [c])])
    (due : c.time + combineLife ≤ s.nowNs) (sound : readNat s 0 c.loc c.bytes = some x) :
    exec .combiningTimeout s = .next { pokeLoc s 0 c.loc (bytesOfNat c.bytes
      (combineValue c.op c.signed (8 * c.bytes) x c.operand.toNat)) with combine := [] } := by
  have step : exec .combiningTimeout s = .next ((pickCombine s).getD s) := rfl
  have left : (pokeLoc s 0 c.loc (bytesOfNat c.bytes (combineValue c.op c.signed (8 * c.bytes) x c.operand.toNat))).combine =
      [(bank, [c])] := one
  have found : s.combine.find? (fun p => p.2.any (fun c => c.time + combineLife ≤ s.nowNs)) = some (bank, [c]) := by simp [one, due]
  have entries : mapGet [] s.combine bank = [c] := by simp [one, mapGet]
  rw [step, pickCombine, found, Option.map_some, Option.getD_some, retireWhere, entries]
  simp only [due, applyCombine, sound, List.filter_cons, List.foldl_cons, left, decide_true, Bool.not_true, if_true,
    List.filter_nil, List.foldl_nil, Bool.false_eq_true, if_false]
  simp [mapSet, mapErase]

end

/-! ### Errors in storage (R262-R265, R321) -/

theorem exec_errorIn {s : State} {i : Input} {o : Out} (given : Given s i) (effect : errorIn (taken s) i = some o) :
    exec .uncorrectableError s = o := by
  obtain ⟨t, rest, inputs⟩ := given
  have step : exec .uncorrectableError s = execUncorrectableError s := rfl
  have rest_ : taken s = { s with inputs := rest } := by simp [taken, inputs]
  rw [step, execUncorrectableError, inputs]
  rw [rest_] at effect
  simp only [effect, Option.getD_some]

/-- R262, R264: a word that holds an uncorrectable error is read by none that reads a byte of it. -/
theorem readLoc_bad {s : State} {w a n : Nat} (bad : w ∈ s.bad) (first : a / 8 ≤ w) (last : w ≤ (a + n - 1) / 8) (t : Nat) :
    readLoc s t a n = none := by
  rw [readLoc, if_pos]
  simp only [List.any_eq_true, Bool.and_eq_true, decide_eq_true_eq]
  exact ⟨w, bad, first, last⟩

theorem storageError {s : State} {loc : Nat} (given : Given s (.error loc)) (stored : isDram loc = true ∨ isSpad loc = true) :
    Completes .uncorrectableError s fun t => loc / 8 ∈ t.bad ∧ t.mem = s.mem ∧ t.hart = s.hart := by
  refine ⟨_, exec_errorIn given rfl, ?_⟩
  have place : (isDram loc || isSpad loc) = true := by simpa using stored
  rw [place, Bool.true_and]
  by_cases there : loc / 8 ∈ s.bad
  · rw [if_neg (by simpa [taken] using there)]
    exact ⟨there, rfl, rfl⟩
  · rw [if_pos (by simpa [taken] using there)]
    exact ⟨List.mem_append_right _ (List.mem_singleton.2 rfl), rfl, rfl⟩

theorem mem_askFence (s : State) (c : Nat) : c ∈ (askFence s c).fenceReq := by
  unfold askFence
  split
  · simpa using ‹s.fenceReq.contains c = true›
  · simp

theorem askFence_memory (s : State) (c : Nat) : (askFence s c).mem = s.mem := by
  unfold askFence
  split <;> rfl

theorem coreError {s : State} {c : Nat} (given : Given s (.coreError c)) (core : c < 96) :
    Completes .uncorrectableError s fun t => c ∈ t.fenceReq ∧ t.mem = s.mem := by
  refine ⟨_, exec_errorIn given rfl, ?_⟩
  rw [if_pos core]
  exact ⟨mem_askFence _ c, askFence_memory ..⟩

/-- The lines of a table of caches, once one core has lost those of an address. -/
theorem mapGet_linesDropped (m : SMap (List CLine)) (core line k : Nat) :
    mapGet [] (mapSet [] m core ((mapGet [] m core).filter (fun x => x.line != line))) k =
      if k = core then (mapGet [] m k).filter (fun x => x.line != line) else mapGet [] m k := by
  by_cases at_ : k = core
  · rw [if_pos at_, at_, mapGet_set_same]
  · rw [if_neg at_, mapGet_set_other _ _ _ at_]

theorem lineError {s : State} {core line : Nat} {fetch : Bool} (given : Given s (.lineError core fetch line)) :
    Completes .uncorrectableError s fun t => ∃ d i, t = { taken s with dcache := d, icache := i } ∧
      ∀ k, let drop (l : List CLine) (f : Bool) : List CLine :=
          if k = core ∧ fetch = f then l.filter fun x => x.line != line else l
        mapGet [] d k = drop (mapGet [] s.dcache k) false ∧ mapGet [] i k = drop (mapGet [] s.icache k) true := by
  refine ⟨_, exec_errorIn given rfl, ?_⟩
  cases fetch with
  | true => exact ⟨_, _, rfl, fun k => ⟨(if_neg fun h => nomatch h.2).symm,
      (mapGet_linesDropped s.icache core line k).trans (by simp only [and_true])⟩⟩
  | false => exact ⟨_, _, rfl, fun k => ⟨(mapGet_linesDropped s.dcache core line k).trans (by simp only [and_true]),
      (if_neg fun h => nomatch h.2).symm⟩⟩

theorem getHart_setHart (s : State) {key : Nat} {h : Hart} (number : s.hart.key = key → h.key = key) (k : Nat) :
    getHart (setHart s key h) k = if k = key then h else getHart s k := by
  unfold setHart
  by_cases focus : s.hart.key = key
  · rw [if_pos focus, getHart_eq, getHart_eq]
    dsimp only
    rw [number focus]
    by_cases at_ : k = key
    · rw [if_pos at_.symm, if_pos at_]
    · rw [if_neg (Ne.symm at_), if_neg at_, if_neg (fun e => at_ (e.symm.trans focus))]
  · have others : mapGet (freshHart k) (putOther s key h).others k =
        if k = key then h else mapGet (freshHart k) s.others k := by
      unfold putOther
      dsimp only
      by_cases at_ : k = key
      · subst at_
        rw [if_pos rfl]
        split_ifs with fresh
        · rw [mapGet_erase_same, fresh]
        · exact mapGet_insert_same _ _ _ _ (not_mem_erase _ _)
      · rw [if_neg at_]
        split_ifs with fresh
        · exact mapGet_erase_other _ _ at_
        · rw [mapGet_insert_other _ _ _ at_, mapGet_erase_other _ _ at_]
    rw [if_neg focus, getHart_eq, getHart_eq, others]
    have same : (putOther s key h).hart = s.hart := rfl
    rw [same]
    by_cases at_ : k = key
    · rw [if_neg (fun e => focus (e.trans at_)), if_pos at_, if_pos at_]
    · rw [if_neg at_, if_neg at_]

theorem setHart_memory (s : State) (key : Nat) (h : Hart) : (setHart s key h).mem = s.mem := by
  unfold setHart
  split <;> rfl

theorem getHart_updHart (s : State) {key : Nat} {f : Hart → Hart} (number : ∀ h, (f h).key = h.key) (k : Nat) :
    getHart (updHart s key f) k = if k = key then f (getHart s key) else getHart s k :=
  getHart_setHart s (fun focus => by rw [number, getHart, if_pos focus, focus]) k

theorem stackError {s : State} {key i : Nat} (given : Given s (.stackError key i)) (inside : i < (getHart s key).rs.length) :
    Completes .uncorrectableError s fun t =>
      getHart t key = { getHart s key with rs := (getHart s key).rs.set i ((Config.freeValue s.free).truncate 48) } ∧
      t.mem = s.mem ∧ ∀ k, k ≠ key → getHart t k = getHart s k := by
  have harts := getHart_updHart (freshFree (taken s)).2 (key := key)
    (f := fun h => { h with rs := h.rs.set i ((Config.freeValue s.free).truncate 48) }) fun _ => rfl
  refine ⟨_, exec_errorIn given (congrArg (fun u => some (.next u : Out)) (if_pos inside)), ?_, ?_, fun k other => ?_⟩
  · exact (harts key).trans (if_pos rfl)
  · exact setHart_memory ..
  · exact (harts k).trans (if_neg other)

theorem corrected {s : State} {ch : Nat} (given : Given s (.corrected ch)) :
    Completes .uncorrectableError s fun t =>
      mapGet 0 t.eccCount (ch % 32) = mapGet 0 s.eccCount (ch % 32) + 1 ∧ LoggedAt s t 0x0002 := by
  refine ⟨_, exec_errorIn given rfl, ?_, loggedAt_telemetryOpen rfl (by decide) none none⟩
  exact mapGet_set_same 0 s.eccCount (ch % 32) (mapGet 0 s.eccCount (ch % 32) + 1)

/-- Settles O45: an element by what its bank holds, an error by what it is found in. -/
theorem combiningBuffersAndErrors : Obligations.CombiningBuffersAndErrors := by
  intro s
  refine ⟨fun v rest first free => ⟨fun other room => ?new, fun a c b entries same others => ?held⟩,
    fun v rest first here job runs uncounted some_ stopped => ?guarded,
    fun bank c x one due sound => ⟨_, combiningTimeout_applies one due sound, rfl, rfl, rfl⟩,
    fun loc given stored => ?error, fun c given core => coreError given core, fun core fetch line given => lineError given,
    fun key i given outside => ?outside, fun key i given inside => stackError given inside,
    fun ch given => corrected given, fun given => exec_errorIn given rfl⟩
  case new => exact ⟨_, exec_vamoArrival_free first free, combineIn_new other room⟩
  case held =>
    have key (x : Combine) : v.sameKey x = decide (x.loc = v.loc ∧ x.bytes = v.bytes ∧ x.op = v.op ∧ x.signed = v.signed) := by
      simp only [VamoElem.sameKey, Bool.decide_and, Bool.and_assoc, beq_eq_decide, eq_comm]
    exact ⟨_, exec_vamoArrival_free first free, combineIn_held (s := { s with vamos := rest }) entries ((key c).trans same)
      fun x among => (key x).trans (others x among)⟩
  case guarded =>
    exact (exec_vamoArrival first).trans (congrArg (fun u => (.next u : Out)) (arriveVamo_guarded here job runs uncounted some_ stopped))
  case error =>
    obtain ⟨t, ends, bad, mem, hart⟩ := storageError given stored
    exact ⟨t, ends, fun a n _ before after => readLoc_bad bad before after 0, mem, hart⟩
  case outside => exact exec_errorIn given (congrArg (fun u => some (.next u : Out)) (if_neg (Nat.not_lt.2 outside)))

end Sys2Proof.Proofs
end

section
/-! SUPPORT. Vector accesses: the places of many elements, the element groups in their order, and how an instruction of
the memory queue ends (R153, R157, R160, R248, R273-R276). -/

namespace Sys2Proof.Proofs

open Sys2Proof.Machine Sys2Proof.Safety Sys2Proof.Rules Sys2Proof.Laws

/-! ### Addresses resolved again (R248, R406) -/

/-- The states translate alike. -/
structure SameTables (s u : State) : Prop where
  tab : u.tab = s.tab
  tether : u.tetherUp = s.tetherUp
  disp : u.disp = s.disp

section
variable {s s1 u : State} {a : Acc} {ea : Dword} {n : Nat} {t : Target}

theorem ite_ok {c : Prop} [Decidable c] {x y x' y' : XRes Target} (hit : (if c then x else y) = .ok t s1)
    (then_ : x = .ok t s1 → x' = .ok t u) (else_ : y = .ok t s1 → y' = .ok t u) : (if c then x' else y') = .ok t u := by
  split_ifs at hit ⊢
  · exact then_ hit
  · exact else_ hit

theorem ok_at {x : Target} (hit : XRes.ok x s = .ok t s1) : XRes.ok x u = .ok t u :=
  congrArg (XRes.ok · u) (XRes.ok.inj hit).1

/-- R249-R251: a site takes an address for what the tables say of it. -/
theorem siteCheck_again (tables : SameTables s u) {twin : Bool} {x y off : Nat}
    (hit : siteCheck s a twin x y off n ea = .ok t s1) : siteCheck u a twin x y off n ea = .ok t u := by
  obtain ⟨tab, tether, disp⟩ := tables
  simp only [siteCheck, admits, currentTenant, coreEntry] at hit
  simp only [siteCheck, admits, currentTenant, coreEntry, tab, tether, disp]
  refine ite_ok hit (fun atCore => ?_) fun atSite => ?_
  · exact ite_ok atCore nofun fun hit => ite_ok hit nofun fun hit => ite_ok hit nofun fun hit => ite_ok hit nofun fun hit =>
      ite_ok hit nofun fun hit => ite_ok hit nofun fun hit => ite_ok hit ok_at fun hit => ite_ok hit ok_at ok_at
  · exact ite_ok atSite nofun fun hit => ite_ok hit nofun fun hit => ite_ok hit nofun fun hit => ite_ok hit ok_at ok_at

theorem sited_again (tables : SameTables s u) {c : Prop} [Decidable c] {f : Trap} {twin : Bool} {x y off : Nat}
    (hit : (if c then .fault f s else siteCheck s a twin x y off n ea) = .ok t s1) :
    (if c then .fault f u else siteCheck u a twin x y off n ea) = .ok t u := by
  split_ifs at hit ⊢
  exact siteCheck_again tables hit

/-- What fills a core's TLB is found there. -/
theorem tlbFind_fillCore (s : State) (core : Nat) {e : TlbEntry} {T va : Nat} {k : Kind} (hits : e.hits T va = true)
    (permits : e.permits k = true) : tlbFind (mapGet [] (fillCore s core e).tab.coreTlb core) T va k = some e := by
  simp only [fillCore, mapUpd, mapGet_set_same, tlbFill, tlbFind, List.take_succ_cons, List.find?_cons, hits, permits,
    Bool.and_self]

/-- A translation that left the tables as they were was the core's own TLB's, and is given again. -/
theorem xlate_again (tables : SameTables s u) {hart T va : Nat} {k : Kind} {e : TlbEntry}
    (hit : xlate s hart T va k = .ok e s1) (kept : s1.tab = s.tab) : s1 = s ∧ xlate u hart T va k = .ok e u := by
  obtain ⟨tab, -, -⟩ := tables
  unfold xlate at hit ⊢
  rw [tab]
  dsimp only at hit ⊢
  cases own : tlbFind (mapGet [] s.tab.coreTlb (hart / 8)) T va k with
  | some e0 =>
    rw [own] at hit
    obtain ⟨rfl, rfl⟩ := XRes.ok.inj hit
    exact ⟨rfl, rfl⟩
  | none =>
    rw [own] at hit
    dsimp only at hit
    cases group : tlbFind (mapGet [] s.tab.groupTlb (groupOf (hart / 8))) T va k with
    | some e0 =>
      rw [group] at hit
      obtain ⟨rfl, rfl⟩ := XRes.ok.inj hit
      have found := List.find?_some group
      rw [Bool.and_eq_true] at found
      have filled := tlbFind_fillCore (countEv s (hart / 8) (some (hart % 8)) 0x0F 1) (hart / 8) found.1 found.2
      rw [kept, own] at filled
      cases filled
    | none =>
      rw [group] at hit
      dsimp only at hit
      split at hit
      · cases hit
      · split_ifs at hit

theorem useSlice_slices (s : State) (c l : Nat) : ∃ z, useSlice s c l = { s with slices := z } := by
  unfold useSlice
  split
  · exact ⟨_, rfl⟩
  · exact ⟨s.slices, rfl⟩

/-- R248: an access that left all but the home slices as they were resolves so again. -/
theorem resolve_again (tables : SameTables s u) (hit : resolve s a ea n = .ok t s1) (kept : s1.tab = s.tab) :
    ∃ z, resolve u a ea n = .ok t { u with slices := z } := by
  unfold resolve at hit ⊢
  dsimp only at hit ⊢
  by_cases odd : (ea.toNat % n != 0) = true
  · rw [if_pos odd] at hit
    cases hit
  rw [if_neg odd] at hit ⊢
  by_cases site : ea.toNat / 2 ^ 56 = 0xFE
  · rw [if_pos site] at hit ⊢
    split at hit
    · cases hit
    · rw [if_neg ‹_›]
      exact ⟨u.slices, sited_again tables hit⟩
  rw [if_neg site] at hit ⊢
  split at hit
  · rw [if_pos ‹_›]
    cases found : xlate s a.hart a.tenant ea.toNat a.kind with
    | ok e w =>
      rw [found] at hit
      simp only [XRes.bind] at hit
      split at hit
      · cases hit
      · next up =>
        obtain ⟨rfl, rfl⟩ := XRes.ok.inj hit
        obtain ⟨_, used⟩ := useSlice_slices w e.cache (e.place w ea.toNat).1
        rw [used] at kept
        obtain ⟨still, again⟩ := xlate_again tables found kept
        rw [still, ← tables.tether] at up
        rw [still]
        have place : e.place u ea.toNat = e.place s ea.toNat := by simp only [TlbEntry.place, keyTag, tables.tab]
        rw [again]
        simp only [XRes.bind, place]
        rw [if_neg up]
        obtain ⟨z, slices⟩ := useSlice_slices u e.cache (e.place s ea.toNat).1
        exact ⟨z, by rw [slices]⟩
    | _ =>
      rw [found] at hit
      cases hit
  · cases hit
end

/-! ### Element groups in their order (R147, R276) -/

/-- Elements in rising order, taken group by group, are taken in that order. -/
theorem flatMap_groups {per : Nat} {l : List Nat} (rising : l.Pairwise (· < ·)) (m : Nat) :
    (List.range m).flatMap (fun j => l.filter fun i => i / per == j) = l.filter fun i => i / per < m := by
  induction m with
  | zero => simp
  | succ m ih =>
    rw [List.range_succ, List.flatMap_append, ih, List.flatMap_singleton]
    clear ih
    induction l with
    | nil => rfl
    | cons x l ih =>
      obtain ⟨first, rest⟩ := List.pairwise_cons.1 rising
      have later := ih rest
      obtain below | here | above := Nat.lt_trichotomy (x / per) m
      · have apart : ¬ x / per = m := below.ne
        simp [below, apart, below.le, later]
      · have none : l.filter (fun i => i / per < m) = [] := List.filter_eq_nil_iff.2 fun y among => by
          simpa using here ▸ Nat.div_le_div_right (first y among).le
        rw [none, List.nil_append] at later
        simp [here, none, later]
      · have apart : ¬ x / per = m := above.ne'
        simp [apart, Nat.not_lt.2 above.le, Nat.not_le.2 above, later]

theorem activeFrom_rising (h : Hart) (l : LenRegs) (k : BitVec 3) : (activeFrom h l k).Pairwise (· < ·) := by
  unfold activeFrom
  rw [span_eq_filter]
  exact (List.pairwise_lt_range.filter _).filter _

theorem activeFrom_lt {h : Hart} {l : LenRegs} {k : BitVec 3} {i : Nat} (acts : i ∈ activeFrom h l k) : i < l.vl := by
  unfold activeFrom at acts
  rw [span_eq_filter] at acts
  exact List.mem_range.1 (List.mem_of_mem_filter (List.mem_of_mem_filter acts))

/-- R276: the element groups hold the active elements in their order. -/
theorem memGroups_flat (h : Hart) (l : LenRegs) (k : BitVec 3) (indexed : Bool) :
    (memGroups h l k indexed).flatMap Prod.snd = activeFrom h l k := by
  have filled (gs : List (Nat × List Nat)) : (gs.filter fun g => g.2 != []).flatMap Prod.snd = gs.flatMap Prod.snd := by
    induction gs with
    | nil => rfl
    | cons g gs ih =>
      by_cases empty : g.2 = []
      · simp [empty, ih]
      · simp [empty, ih]
  unfold memGroups
  dsimp only
  generalize width : max 1 (64 * h.width / _) = per
  have pos : 0 < per := width ▸ Nat.lt_of_lt_of_le Nat.one_pos (Nat.le_max_left ..)
  rw [filled, List.flatMap_map, flatMap_groups (activeFrom_rising h l k)]
  refine List.filter_eq_self.2 fun i acts => decide_eq_true ?_
  rw [Nat.div_lt_iff_lt_mul pos]
  have below := activeFrom_lt acts
  have covers := Nat.lt_div_mul_add (a := l.vl + per - 1) pos
  omega

/-- R276: groups that all succeed leave what they leave one after the other. -/
theorem runGroups_ok {f : State → List Nat → XRes (Option Trap)} {e : QEntry} {P : List Nat → State → Prop}
    {gs : List (Nat × List Nat)} (step : ∀ g ∈ gs, ∀ done u, P done u → ∃ v, f u g.2 = .ok none v ∧ P (done ++ g.2) v)
    {done : List Nat} {u : State} (start : P done u) :
    ∃ v, runGroups f e gs none u = .done v noFlags ∧ P (done ++ gs.flatMap Prod.snd) v := by
  induction gs generalizing done u with
  | nil => exact ⟨u, rfl, by simpa using start⟩
  | cons g gs ih =>
    obtain ⟨w, group, after⟩ := step g List.mem_cons_self done u start
    obtain ⟨v, run, left⟩ := ih (fun g among => step g (List.mem_cons_of_mem _ among)) after
    refine ⟨v, ?_, by simpa using left⟩
    rw [runGroups, group]
    exact run

/-- What holds once the active elements of an instruction have been gone through, group by group, from what held of none. -/
theorem runGroups_active {f : State → List Nat → XRes (Option Trap)} {e : QEntry} {P : List Nat → State → Prop} {h : Hart}
    {l : LenRegs} {k : BitVec 3} {indexed : Bool} (step : ∀ done a u, (∀ i ∈ a, i ∈ activeFrom h l k) → P done u →
      ∃ v, f u a = .ok none v ∧ P (done ++ a) v) {u : State} (start : P [] u) :
    ∃ v, runGroups f e (memGroups h l k indexed) none u = .done v noFlags ∧ P (activeFrom h l k) v := by
  obtain ⟨v, run, left⟩ := runGroups_ok (e := e) (P := P) (gs := memGroups h l k indexed) (fun g among done u before =>
    step done g.2 u (fun i here => memGroups_flat h l k indexed ▸ List.mem_flatMap.2 ⟨g, among, here⟩) before) start
  exact ⟨v, run, by rwa [List.nil_append, memGroups_flat] at left⟩

/-! ### Many elements (R264, R273, R276) -/

section
variable {s u : State} {kind : Kind} {act a : List Nat} {addr : Nat → Dword} {loc tag : Nat → Nat}

/-- Elements of an instruction with the places they resolve to. -/
def placed (addr : Nat → Dword) (loc tag : Nat → Nat) (a : List Nat) : List (Nat × Dword × Target) :=
  a.map fun i => (i, addr i, .mem (loc i) (tag i))

theorem resolve_element (reaches : Reaches s kind act addr loc tag) (tables : SameTables s u)
    (who : acc u .other kind = acc s .other kind) {i : Nat} (acts : i ∈ act) :
    ∃ z, resolve u (acc u .other kind) (addr i) (elemBytes s) = .ok (.mem (loc i) (tag i)) { u with slices := z } := by
  obtain ⟨-, s1, hit, kept⟩ := reaches i acts
  rw [who]
  exact resolve_again tables hit (by rw [← kept])

theorem resolveAll_reaches (reaches : Reaches s kind act addr loc tag) (tables : SameTables s u)
    (who : acc u .other kind = acc s .other kind) (among : ∀ i ∈ a, i ∈ act) :
    ∃ z, resolveAll u kind (elemBytes s) (a.map fun i => (i, addr i)) = .ok (placed addr loc tag a) { u with slices := z } := by
  induction a generalizing u with
  | nil => exact ⟨u.slices, rfl⟩
  | cons i a ih =>
    obtain ⟨z, here⟩ := resolve_element reaches tables who (among i List.mem_cons_self)
    obtain ⟨y, rest⟩ := ih (u := { u with slices := z }) ⟨tables.tab, tables.tether, tables.disp⟩ who
      fun j later => among j (List.mem_cons_of_mem _ later)
    exact ⟨y, by simp only [List.map_cons, resolveAll, here, XRes.bind, rest, placed]⟩

theorem readAll_sound {n : Nat} (sound : ∀ i ∈ a, Sound u (loc i) n) :
    readAll u n (placed addr loc tag a) = .ok (a.map fun i => (i, storedNat u (tag i) (loc i) n)) u := by
  induction a with
  | nil => rfl
  | cons i a ih =>
    have rest := ih fun j later => sound j (List.mem_cons_of_mem _ later)
    unfold placed at rest ⊢
    simp only [List.map_cons, readAll, readT_sound (sound i List.mem_cons_self), XRes.bind, rest]

/-- What stores to memory change; no error appears. -/
def StoredOnly (s u : State) : Prop := ∃ m b d k w, (∀ x ∈ b, x ∈ s.bad) ∧
  u = { s with mem := m, bad := b, dcache := d, links := k, watches := w }

theorem StoredOnly.refl (s : State) : StoredOnly s s := ⟨_, _, _, _, _, fun _ h => h, rfl⟩

theorem StoredOnly.trans {s u v : State} (h : StoredOnly s u) (g : StoredOnly u v) : StoredOnly s v := by
  obtain ⟨_, _, _, _, _, first, rfl⟩ := h
  obtain ⟨m, b, d, k, w, second, rfl⟩ := g
  exact ⟨m, b, d, k, w, fun x h => first x (second x h), rfl⟩

theorem StoredOnly.pokeLoc (s : State) (t l : Nat) (bs : List Byte) : StoredOnly s (pokeLoc s t l bs) :=
  ⟨_, _, _, _, _, fun _ left => List.mem_of_mem_filter left, rfl⟩

theorem StoredOnly.dDrop (s : State) (core l : Nat) : StoredOnly s (dDrop s core l) := by
  unfold Machine.dDrop dGone
  split_ifs
  · exact ⟨s.mem, s.bad, _, s.links, s.watches, fun _ h => h, rfl⟩
  · exact refl s
  · exact refl s

theorem StoredOnly.storeAll (s : State) (l : List (Nat × Nat × List Byte)) : StoredOnly s (storeAll s l) := by
  induction l generalizing s with
  | nil => exact refl s
  | cons p l ih => exact ((pokeLoc ..).trans (dDrop ..)).trans (ih _)

theorem StoredOnly.sound (h : StoredOnly s u) {l n : Nat} (sound : Sound s l n) : Sound u l n := by
  obtain ⟨_, _, _, _, _, none, rfl⟩ := h
  exact fun w bad => sound w (none w bad)

theorem StoredOnly.guardStops (h : StoredOnly s u) (hart l n : Nat) : guardStops u hart l n = guardStops s hart l n := by
  obtain ⟨_, _, _, _, _, -, rfl⟩ := h
  rfl

theorem StoredOnly.hart (h : StoredOnly s u) : u.hart = s.hart := by
  obtain ⟨_, _, _, _, _, -, rfl⟩ := h
  rfl

theorem StoredOnly.tables (h : StoredOnly s u) : SameTables s u := by
  obtain ⟨_, _, _, _, _, -, rfl⟩ := h
  exact ⟨rfl, rfl, rfl⟩

/-- A state with other lines in the home slices. -/
def sliced (z : SMap (List Nat)) (s : State) : State := { s with slices := z }

theorem dDrop_sliced (z : SMap (List Nat)) (s : State) (core l : Nat) : dDrop (sliced z s) core l = sliced z (dDrop s core l) := by
  unfold dDrop dGone
  rw [apply_ite (sliced z), apply_ite (sliced z)]
  rfl

theorem storeAll_sliced (z : SMap (List Nat)) (s : State) (l : List (Nat × Nat × List Byte)) :
    storeAll (sliced z s) l = sliced z (storeAll s l) := by
  refine List.foldl_hom (sliced z) fun u p => ?_
  exact dDrop_sliced z (pokeLoc u p.2.1 p.1 p.2.2) (u.hart.key / 8) p.1

theorem writeT_sound {hart l : Nat} {bs : List Byte} (sound : Sound s l bs.length)
    (unguarded : Machine.guardStops s hart l bs.length = none) (tag : Nat) (ea : Dword) :
    writeT s hart (.mem l tag) ea bs = .ok () (dDrop (pokeLoc s tag l bs) (hart / 8) l) := by
  simp only [writeT, writeAt_sound sound unguarded, XRes.bind]

theorem writeAll_sound {f : Nat → List Byte} (sound : ∀ i ∈ a, Sound u (loc i) (f i).length)
    (unguarded : ∀ i ∈ a, Machine.guardStops u u.hart.key (loc i) (f i).length = none) :
    writeAll u f (placed addr loc tag a) none = .ok none (storeAll u (a.map fun i => (loc i, tag i, f i))) := by
  induction a generalizing u with
  | nil => rfl
  | cons i a ih =>
    have here := writeT_sound (sound i List.mem_cons_self) (unguarded i List.mem_cons_self) (tag i) (addr i)
    have stored : StoredOnly u _ := (StoredOnly.pokeLoc u (tag i) (loc i) (f i)).trans (StoredOnly.dDrop _ (u.hart.key / 8) (loc i))
    have rest := ih (fun j later => stored.sound (sound j (List.mem_cons_of_mem _ later))) fun j later => by
      rw [stored.guardStops, stored.hart]
      exact unguarded j (List.mem_cons_of_mem _ later)
    unfold placed at rest ⊢
    simp only [List.map_cons, writeAll, here, rest]
    rfl
end

/-! ### How they end (R92, R153, R160) -/

/-- The loads and the stores of vectors take the memory queue (R44, R160). -/
theorem queueOf_load {i : Instr} (pipe : i.res = resLD) : i.queueOf = some 1 := (congrArg queueOfRes pipe).trans (by decide)

theorem queueOf_store {i : Instr} (pipe : i.res = resST) : i.queueOf = some 1 := (congrArg queueOfRes pipe).trans (by decide)

/-- R153, R160: an instruction of the memory queue that issues runs at once and retires. -/
theorem does_of_memory {i : Instr} {s u : State} {op : VOp} {sa sb : Dword} (queue : i.queueOf = some 1)
    (free : i.resync = false) (meaning : exec i s = vexec i op sa sb s) (issues : Issues i s)
    (accepted : op.check s.hart.width s.hart.mview (lenNow s) = none) (left : u.hart.queue = [])
    (run : ∀ c, ∃ z, op.run (begun s c) (entry s i sa sb) = .done { inConvoy u c with slices := z } 0) : Does i s u := by
  obtain ⟨retired, used, room, notResync, noMode, alone⟩ := issues
  obtain ⟨c, joined⟩ := convoy_add_some (joins := s.hart.x.joins) (res_ne_zero_of_queueOf queue) used room notResync
    noMode alone
  obtain ⟨z, ran⟩ := run c
  obtain ⟨p, settled⟩ := settleRun_done (u := { inConvoy u c with slices := z }) left (begun s c).hart
    (capture s i sa sb) 0 0
  have begins : atRun i c s = begun s c := by
    unfold atRun
    rw [countResync, free, queue]
    rfl
  have issued : vissue i op sa sb s = .ok { inConvoy u c with slices := z, pmc := p } := by
    rw [vissue_runs retired accepted joined, begins]
    obtain ⟨empty, none⟩ := retired
    refine congrArg Res.ok ((if_pos (drained_eq empty none)).trans ?_)
    rw [show ({ capture s i sa sb with live := true } : QEntry) = entry s i sa sb from rfl, ran, settled,
      show (0 : Flags) ||| 0 = 0 from rfl, ← retire_eq { inConvoy u c with slices := z, pmc := p } 0, retire_none]
  exact does_of_idle (meaning.trans (congrArg finish issued)) rfl (pcAfter_same rfl rfl)

end Sys2Proof.Proofs
end

section
/-! SUPPORT. Vector loads and stores in every way of addressing (R55, R153, R159, R230, R248, R273-R276). -/

namespace Sys2Proof.Proofs

open Sys2Proof.Machine Sys2Proof.Safety Sys2Proof.Rules Sys2Proof.Laws

theorem putElems_v (h : Hart) (base b : Nat) (l : List (Nat × Nat)) : ∃ v, putElems h base b l = { h with v := v } := by
  induction l generalizing h with
  | nil => exact ⟨h.v, rfl⟩
  | cons p l ih =>
    obtain ⟨v, rest⟩ := ih (putElem h base b p.1 p.2)
    exact ⟨v, rest⟩

theorem putElems_append (h : Hart) (base b : Nat) (l m : List (Nat × Nat)) :
    putElems h base b (l ++ m) = putElems (putElems h base b l) base b m := List.foldl_append

theorem each_append (a b : List Nat) (f : Nat → Nat) : each (a ++ b) f = each a f ++ each b f := List.map_append

/-! ### What an entry captures (R92, R153, R159) -/

theorem readIdx_len (e : QEntry) (h : Hart) (m : VAddr) : (e.readIdx h m).len = e.len := by
  unfold QEntry.readIdx
  split <;> rfl

section
variable {i : Instr} {s : State} {sa sb : Dword}

theorem entry_len (elementWise : i.whole = false) : (entry s i sa sb).len = lenNow s := viewOf_elementWise elementWise _

theorem memBytes_entry (i : Instr) (s : State) (sa sb : Dword) : memBytes (entry s i sa sb).len.width = elemBytes s := by
  rw [entry_width]
  rfl

/-! ### Loads (R273, R276) -/

section
variable {op : VOp} {m : VAddr} {idx : Bool} {vd : BitVec 6} {k : BitVec 3} {addr : Nat → Dword} {c : Nat → Nat}

/-- What a load leaves that has moved some elements. -/
def LoadedTo (s : State) (v : Convoy) (vd : BitVec 6) (val : Nat → Nat) (done : List Nat) (u : State) : Prop :=
  ∃ z, u = sliced z (withHart (begun s v) fun h => putElems h vd.toNat (widthNow s) (each done val))

theorem LoadedTo.start (s : State) (v : Convoy) (vd : BitVec 6) (val : Nat → Nat) : LoadedTo s v vd val [] (begun s v) :=
  ⟨s.slices, rfl⟩

section
variable {u : State} {v : Convoy} {val : Nat → Nat} {done a : List Nat}

/-- What a load leaves differs in vector registers from what it began from. -/
theorem LoadedTo.registers (loaded : LoadedTo s v vd val done u) :
    ∃ z r, u = sliced z (withHart (begun s v) fun h => { h with v := r }) := by
  obtain ⟨z, rfl⟩ := loaded
  obtain ⟨r, registers⟩ := putElems_v (begun s v).hart vd.toNat (widthNow s) (each done val)
  exact ⟨z, r, congrArg (fun h => sliced z (withHart (begun s v) fun _ => h)) registers⟩

theorem LoadedTo.next (loaded : LoadedTo s v vd val done u) (y : SMap (List Nat)) :
    LoadedTo s v vd val (done ++ a) (updH { u with slices := y } fun h => putElems h vd.toNat (widthNow s) (each a val)) := by
  obtain ⟨z, rfl⟩ := loaded
  refine ⟨y, ?_⟩
  rw [each_append]
  simp only [putElems_append]
  rfl

theorem LoadedTo.end_ (loaded : LoadedTo s v vd val done u) :
    ∃ z, u = sliced z (inConvoy (withHart (viewCleared s) fun h => putElems h vd.toNat (widthNow s) (each done val)) v) := by
  obtain ⟨z, rfl⟩ := loaded
  refine ⟨z, congrArg (fun h => sliced z { s with hart := h }) ?_⟩
  exact (leavesIssue_putElems vd.toNat (widthNow s) (each done val)).convoy (viewCleared s).hart v
end

section
variable {loc tag : Nat → Nat} {v : Convoy} (reaches : Reaches s .read (active s k) addr loc tag) (e : QEntry)
  (places : ∀ j ∈ active s k, m.at (begun s v).hart e j = addr j) (parts : ∀ j x, nibbleOf m e j x = partOf s (c j) x)
include reaches places parts

/-- R276: an element group of a load whose addresses are `addr`, and whose elements take the parts that `c` says of
their bytes. -/
theorem loadGroup_moves {done a : List Nat} {u : State} (among : ∀ j ∈ a, j ∈ active s k)
    (loaded : LoadedTo s v vd (fun j => partOf s (c j) (seen s loc tag j)) done u) :
    ∃ w, ((resolveAll u .read (elemBytes s) (a.map fun j => (j, m.at (begun s v).hart e j))).bind fun l s1 =>
        (readAll s1 (elemBytes s) l).bind fun r s2 => .ok none (updH s2 fun h =>
          putElems h vd.toNat (widthNow s) (r.map fun p => (p.1, nibbleOf m e p.1 p.2)))) = .ok (none : Option Trap) w ∧
      LoadedTo s v vd (fun j => partOf s (c j) (seen s loc tag j)) (done ++ a) w := by
  obtain ⟨z, r, same⟩ := loaded.registers
  have addresses : a.map (fun j => (j, m.at (begun s v).hart e j)) = a.map fun j => (j, addr j) :=
    List.map_congr_left fun j here => by rw [places j (among j here)]
  obtain ⟨y, resolved⟩ := resolveAll_reaches (u := u) reaches (by rw [same]; exact ⟨rfl, rfl, rfl⟩) (by rw [same]; rfl) among
  have read : readAll { u with slices := y } (elemBytes s) (placed addr loc tag a) =
      .ok (a.map fun j => (j, seen s loc tag j)) { u with slices := y } := by
    rw [same]
    exact readAll_sound fun j here => (reaches j (among j here)).1
  refine ⟨_, ?_, loaded.next y⟩
  rw [addresses, resolved]
  simp only [XRes.bind, read, List.map_map, Function.comp_def, parts, each]
end

theorem loadRun_moves {loc tag : Nat → Nat} (elementWise : i.whole = false) (v : Convoy)
    (reaches : Reaches s .read (active s k) addr loc tag)
    (places : ∀ j ∈ active s k, m.at (begun s v).hart ((entry s i sa sb).readIdx (begun s v).hart m) j = addr j)
    (parts : ∀ j x, nibbleOf m ((entry s i sa sb).readIdx (begun s v).hart m) j x = partOf s (c j) x) :
    ∃ z, loadRun m idx vd k (begun s v) (entry s i sa sb) = .done (sliced z (inConvoy (withHart (viewCleared s) fun h =>
      putElems h vd.toNat (widthNow s) (each (active s k) fun j => partOf s (c j) (seen s loc tag j))) v)) 0 := by
  have len := readIdx_len (entry s i sa sb) (begun s v).hart m
  rw [entry_len elementWise] at len
  unfold loadRun
  dsimp only
  rw [len, memBytes_entry, entry_width]
  generalize (entry s i sa sb).readIdx (begun s v).hart m = e at places parts ⊢
  obtain ⟨u, run, loaded⟩ := runGroups_active (e := e) (h := (begun s v).hart) (l := lenNow s) (k := k) (indexed := idx)
    (fun done a u among loaded => loadGroup_moves reaches e places parts (fun j here => activeFrom_begun s v k ▸ among j here) loaded)
    (LoadedTo.start s v vd fun j => partOf s (c j) (seen s loc tag j))
  obtain ⟨z, rfl⟩ := loaded.end_
  rw [activeFrom_begun] at run
  exact ⟨z, run⟩

/-- R55, R63: a load or store whose group fits, and whose type has the width it names. -/
theorem memCheck_fits {accepts : LenRegs → Bool} (fits : Rules.Fits s vd (groupNow s)) (ok : accepts (lenNow s) = true) :
    memCheck vd accepts s.hart.width s.hart.mview (lenNow s) = none := by
  have group : ∀ w ∈ [vd], Rules.Fits s w (groupNow s) := fun w among => List.mem_singleton.1 among ▸ fits
  exact vcheck_groups group ok

theorem ewMatches_of_widthIs {nib : Bool} {ew : Nat} (width : WidthIs s nib ew) : ewMatches nib (lenNow s).width ew = true := by
  have now : (lenNow s).width = widthNow s := rfl
  unfold ewMatches
  rw [now]
  obtain ⟨four, may, byte⟩ | ⟨wide, bits⟩ := width
  · rw [if_pos four, may, byte]
    rfl
  · rw [if_neg wide, bits]
    exact beq_self_eq_true _

/-- R63, R274: the index group stands among v0-v31, outside the tile. -/
theorem indexCheck_fits {x : BitVec 5} {accepts : LenRegs → Bool} (fits : Rules.Fits s vd (groupNow s)) (index : IndexFits s x)
    (ok : accepts (lenNow s) = true) : indexCheck vd x accepts s.hart.width s.hart.mview (lenNow s) = none := by
  obtain ⟨aligned, low⟩ := index
  have inside : indexFits (lenNow s) x = true := by
    simp only [indexFits, Bool.and_eq_true, beq_iff_eq, decide_eq_true_eq]
    exact ⟨aligned, low⟩
  have outside : (VRegs.mk x.toNat (max 1 ((lenNow s).grp * 32 / (lenNow s).width))).inTile = false := by
    have below : x.toNat + max 1 ((lenNow s).grp * 32 / (lenNow s).width) ≤ 32 := low
    simp only [VRegs.inTile, decide_eq_false_iff_not, Nat.not_lt]
    exact below.trans (by decide)
  unfold indexCheck
  rw [outside, Bool.and_false, if_neg Bool.false_ne_true]
  exact memCheck_fits (accepts := fun l => accepts l && indexFits l x) fits (by rw [ok, inside]; rfl)

theorem moveOp_accepts {store nib : Bool} {ew : BitVec 2} (fits : Rules.Fits s vd (groupNow s)) (width : WidthIs s nib ew.toNat) :
    (moveOp store nib m vd k ew).check s.hart.width s.hart.mview (lenNow s) = none :=
  memCheck_fits (accepts := fun l => ewMatches nib l.width ew.toNat) fits (ewMatches_of_widthIs width)

theorem indexOp_accepts {store : Bool} {x : BitVec 5} {ew : BitVec 2} (fits : Rules.Fits s vd (groupNow s))
    (index : IndexFits s x) (width : WidthIs s false ew.toNat) :
    (indexOp store vd x k ew).check s.hart.width s.hart.mview (lenNow s) = none :=
  indexCheck_fits (accepts := fun l => ewMatches false l.width ew.toNat) fits index (ewMatches_of_widthIs width)

/-- R273-R276: a load that issues moves its elements. -/
theorem loadsElements (queue : i.queueOf = some 1) (free : i.resync = false) (elementWise : i.whole = false)
    (meaning : exec i s = vexec i op sa sb s) (run : op.run = loadRun m idx vd k)
    (accepted : Rules.Fits s vd (groupNow s) → op.check s.hart.width s.hart.mview (lenNow s) = none)
    (places : ∀ v, ∀ j ∈ active s k, m.at (begun s v).hart ((entry s i sa sb).readIdx (begun s v).hart m) j = addr j)
    (parts : ∀ v j x, nibbleOf m ((entry s i sa sb).readIdx (begun s v).hart m) j x = partOf s (c j) x) :
    LoadsElements i s vd k addr c := by
  intro loc tag issues fits reaches
  rw [moved_eq, retire_none]
  refine does_of_memory queue free meaning issues (accepted fits) ?_ fun v => ?_
  · exact ((leavesIssue_putElems ..).queue _).trans (queue_of_issues issues)
  · rw [run]
    exact loadRun_moves elementWise v reaches (places v) (parts v)

/-! ### Stores (R273, R276) -/

/-- What a store leaves that has stored some elements. -/
def StoredTo (s : State) (v : Convoy) (row : Nat → Nat × Nat × List Byte) (done : List Nat) (u : State) : Prop :=
  ∃ z, u = sliced z (storeAll (begun s v) (done.map row))

theorem storeBytes_length {m : VAddr} {h : Hart} {e : QEntry} {vd : BitVec 6} (j : Nat) :
    (storeBytes m h e vd j).length = memBytes e.len.width := by
  unfold storeBytes memBytes
  dsimp only
  split <;> exact bytesOfNat_length ..

section
variable {loc tag : Nat → Nat} {bytes : Nat → List Byte} {v : Convoy} {e : QEntry}
  (reaches : Reaches s .write (active s k) addr loc tag) (unguarded : Unguarded s (active s k) loc)
  (width : e.len.width = widthNow s) (places : ∀ j ∈ active s k, m.at s.hart e j = addr j)
  (stores : ∀ j ∈ active s k, storeBytes m s.hart e vd j = bytes j)
include reaches unguarded width places stores

/-- R276: an element group of a store whose addresses are `addr` and whose elements are stored as `bytes`. -/
theorem storeGroup_moves {done a : List Nat} {u : State} (among : ∀ j ∈ a, j ∈ active s k)
    (stored : StoredTo s v (fun j => (loc j, tag j, bytes j)) done u) :
    ∃ w, ((resolveAll u .write (memBytes e.len.width) (a.map fun j => (j, m.at u.hart e j))).bind fun l s1 =>
        (writeAll s1 (storeBytes m s1.hart e vd) l none).orElse s1) = .ok (none : Option Trap) w ∧
      StoredTo s v (fun j => (loc j, tag j, bytes j)) (done ++ a) w := by
  obtain ⟨z, rfl⟩ := stored
  have only : StoredOnly (begun s v) (storeAll (begun s v) (done.map fun j => (loc j, tag j, bytes j))) := StoredOnly.storeAll ..
  generalize held : storeAll (begun s v) (done.map fun j => (loc j, tag j, bytes j)) = w at only
  have hart : (sliced z w).hart = (begun s v).hart := only.hart
  have same (j : Nat) : m.at (sliced z w).hart e j = m.at s.hart e j := by rw [hart]; rfl
  have addresses : a.map (fun j => (j, m.at (sliced z w).hart e j)) = a.map fun j => (j, addr j) :=
    List.map_congr_left fun j here => by rw [same, places j (among j here)]
  have who : acc (sliced z w) .other .write = acc s .other .write := by rw [acc, acc, hart]; rfl
  obtain ⟨y, resolved⟩ := resolveAll_reaches (u := sliced z w) reaches ⟨only.tables.tab, only.tables.tether, only.tables.disp⟩ who among
  have size : memBytes e.len.width = elemBytes s := by rw [width]; rfl
  have value (j : Nat) : storeBytes m (sliced y w).hart e vd j = storeBytes m s.hart e vd j := by
    have hart : (sliced y w).hart = (begun s v).hart := only.hart
    rw [hart]
    rfl
  have written : writeAll (sliced y w) (storeBytes m (sliced y w).hart e vd) (placed addr loc tag a) none =
      .ok none (storeAll (sliced y w) (a.map fun j => (loc j, tag j, bytes j))) := by
    have rows : (a.map fun j => (loc j, tag j, storeBytes m (sliced y w).hart e vd j)) = a.map fun j => (loc j, tag j, bytes j) :=
      List.map_congr_left fun j here => by rw [value, stores j (among j here)]
    rw [← rows]
    refine writeAll_sound (fun j here => ?_) fun j here => ?_
    · rw [storeBytes_length, size]
      exact only.sound (s := begun s v) (reaches j (among j here)).1
    · rw [storeBytes_length, size]
      have kept : w.hart.key = (begun s v).hart.key := congrArg Hart.key only.hart
      have key : (sliced y w).hart.key = s.hart.key := kept
      rw [key]
      exact (only.guardStops ..).trans (unguarded j (among j here))
  refine ⟨storeAll (sliced y w) (a.map fun j => (loc j, tag j, bytes j)), ?_, y, ?_⟩
  · rw [size, addresses, resolved]
    exact congrArg (fun r => XRes.orElse r (sliced y w)) written
  · rw [storeAll_sliced, List.map_append, storeAll_append, held]

/-- R276: a store whose addresses are `addr` and whose elements are stored as `bytes`. -/
theorem storeRun_moves (len : e.len = lenNow s) : ∃ z, storeRun m idx vd k (begun s v) e =
    .done (sliced z (inConvoy (storeAll (viewCleared s) ((active s k).map fun j => (loc j, tag j, bytes j))) v)) 0 := by
  obtain ⟨u, run, z, rfl⟩ := runGroups_active (e := e) (h := (begun s v).hart) (l := lenNow s) (k := k) (indexed := idx)
    (fun done a u among stored => storeGroup_moves reaches unguarded width places stores
      (fun j here => activeFrom_begun s v k ▸ among j here) stored)
    (⟨s.slices, rfl⟩ : StoredTo s v (fun j => (loc j, tag j, bytes j)) [] (begun s v))
  rw [activeFrom_begun] at run
  refine ⟨z, ?_⟩
  unfold storeRun
  rw [len] at run ⊢
  rw [← storeAll_inConvoy]
  exact run
end

/-- R273-R276: a store that issues stores its elements in order. -/
theorem storesElements {bytes : Nat → List Byte} (queue : i.queueOf = some 1) (free : i.resync = false)
    (elementWise : i.whole = false) (meaning : exec i s = vexec i op sa sb s) (run : op.run = storeRun m idx vd k)
    (accepted : op.check s.hart.width s.hart.mview (lenNow s) = none)
    (places : ∀ j ∈ active s k, m.at s.hart (entry s i sa sb) j = addr j)
    (stores : ∀ j ∈ active s k, storeBytes m s.hart (entry s i sa sb) vd j = bytes j) :
    StoresElements i s k addr bytes := by
  intro loc tag issues reaches unguarded
  refine does_of_memory queue free meaning issues accepted ?_ fun v => ?_
  · rw [storeAll_hart]
    exact queue_of_issues issues
  · rw [run]
    exact storeRun_moves reaches unguarded (entry_width ..) places stores (entry_len elementWise)
end

/-! ### Addresses and parts, form by form (R273, R274) -/

section
variable {x : BitVec 5} (h : Hart)

theorem unit_at (ra : BitVec 5) (j : Nat) :
    (VAddr.unit x).at h (entry s i (rdS s ra) sb) j = unitAddr s ra x (widthNow s) j := by
  simp only [VAddr.at, unitAddr, entry_width, BitVec.signExtend, BitVec.ofInt_add, BitVec.ofInt_mul, BitVec.ofInt_natCast,
    BitVec.ofNat_toNat, BitVec.setWidth_eq]
  rfl

theorem stride_at (ra rb : BitVec 5) (j : Nat) :
    VAddr.stride.at h (entry s i (rdS s ra) (rdS s rb)) j = strideAddr s ra rb j := by
  simp only [VAddr.at, strideAddr, BitVec.ofNat_add, BitVec.ofNat_mul, BitVec.ofNat_toNat, BitVec.setWidth_eq]
  rfl

theorem rows_at (elementWise : i.whole = false) (ra rb : BitVec 5) (j : Nat) :
    VAddr.rows.at h (entry s i (rdS s ra) (rdS s rb)) j = rowAddr s ra rb (widthNow s) j := by
  simp only [VAddr.at, rowAddr, entry_len elementWise, BitVec.ofNat_add, BitVec.ofNat_mul, BitVec.ofNat_toNat,
    BitVec.setWidth_eq]
  rfl

theorem index_at (ra : BitVec 5) (e : QEntry) (captured : e.sa = rdS s ra) (unread : e.idx = none) (j : Nat) :
    (VAddr.index x).at s.hart e j = indexAddr s ra x j := by
  simp only [VAddr.at, indexAddr, captured, unread, sx_eq_toInt (by decide : 0 < 32), BitVec.signExtend, BitVec.ofInt_add,
    BitVec.ofInt_natCast, BitVec.ofNat_toNat, BitVec.setWidth_eq]
  rfl

/-- R159: the indices of a load, read as it begins. -/
theorem index_readIdx_at (elementWise : i.whole = false) (ra : BitVec 5) (v : Convoy) {j : Nat} (low : j < (lenNow s).vl) :
    (VAddr.index x).at (begun s v).hart ((entry s i (rdS s ra) sb).readIdx (begun s v).hart (.index x)) j = indexAddr s ra x j := by
  have read : (entry s i (rdS s ra) sb).readIdx (begun s v).hart (.index x) = { entry s i (rdS s ra) sb with
      idx := some ((List.range (lenNow s).vl).map fun j => BitVec.ofNat 32 (getElem s.hart x.toNat 32 j)) } := by
    rw [← entry_len (i := i) (sa := rdS s ra) (sb := sb) elementWise]
    rfl
  have found : ((List.range (lenNow s).vl).map fun j => BitVec.ofNat 32 (getElem s.hart x.toNat 32 j)).getD j 0 =
      BitVec.ofNat 32 (getElem s.hart x.toNat 32 j) := by simp [low]
  rw [← index_at ra (entry s i (rdS s ra) sb) rfl rfl j, read]
  simp only [VAddr.at, Option.map_some, Option.getD_some, found]
  rfl

/-- R273: the part of its byte that a 4-bit element takes. -/
theorem nibbleOf_plain {m : VAddr} (plain : m ≠ .rows) {e : QEntry} (width : e.len.width = widthNow s) (j n : Nat) :
    nibbleOf m e j n = partOf s j n := by
  rw [nibbleOf, width, if_neg plain]
  rfl

theorem nibbleOf_rows {e : QEntry} (len : e.len = lenNow s) (j n : Nat) :
    nibbleOf .rows e j n = partOf s (j % (lenNow s).colc) n := by
  rw [nibbleOf, len, if_pos rfl]
  rfl

/-- R273: the bytes an element stores, whose place is `c` in a row of `n`. -/
theorem storeBytes_eq {m : VAddr} {e : QEntry} {vd : BitVec 6} {c n j : Nat} (width : e.len.width = widthNow s)
    (nibble : nibbleByte m s.hart e vd j =
      elem s vd 4 (j - c % 2) + 16 * (if n ≤ c - c % 2 + 1 then 0 else elem s vd 4 (j - c % 2 + 1))) :
    storeBytes m s.hart e vd j = bytesOfElem s vd c n j := by
  unfold storeBytes bytesOfElem
  dsimp only
  rw [width, nibble]
  split
  · simp [bytesOfNat]
  · next wide =>
    rw [elemBytes, if_neg wide]
    rfl

theorem storeBytes_plain {m : VAddr} (plain : m ≠ .rows) {e : QEntry} {vd : BitVec 6} (width : e.len.width = widthNow s)
    (j : Nat) : storeBytes m s.hart e vd j = bytesOfElem s vd j (j + 2) j := by
  refine storeBytes_eq width ?_
  have inside : ¬ j + 2 ≤ j - j % 2 + 1 := by omega
  rw [if_neg inside]
  simp only [nibbleByte, plain, decide_false, Bool.false_and, Bool.false_eq_true, if_false]
  rfl

theorem storeBytes_rows {e : QEntry} {vd : BitVec 6} (len : e.len = lenNow s) (j : Nat) :
    storeBytes .rows s.hart e vd j = bytesOfElem s vd (j % (lenNow s).colc) (lenNow s).colc j := by
  refine storeBytes_eq (by rw [len]; rfl) ?_
  simp only [nibbleByte, len, if_true, decide_true, Bool.true_and, decide_eq_true_eq]
  rfl
end
end

/-! ### Every form -/

theorem vectorLoads : VectorLoads := by
  intro vd sa sb x k ew s b
  refine ⟨fun width => ⟨?unit, ?rows⟩, fun width => ⟨?stride, fun index => ?indexed⟩⟩
  case unit =>
    exact loadsElements (op := opVld vd sa x k ew) (queueOf_load rfl) rfl rfl rfl rfl (moveOp_accepts · width)
      (fun v j _ => unit_at _ sa j) fun v => nibbleOf_plain (m := .unit x) nofun (entry_width ..)
  case rows =>
    exact loadsElements (op := opVld2d vd sa sb k ew) (queueOf_load rfl) rfl rfl rfl rfl (moveOp_accepts · width)
      (fun v j _ => rows_at _ rfl sa sb j) fun v => nibbleOf_rows (entry_len rfl)
  case stride =>
    exact loadsElements (op := opVlds vd sa sb k ew) (queueOf_load rfl) rfl rfl rfl rfl (moveOp_accepts · width)
      (fun v j _ => stride_at _ sa sb j) fun v => nibbleOf_plain (m := .stride) nofun (entry_width ..)
  case indexed =>
    exact loadsElements (op := opVldx vd sa x k ew) (queueOf_load rfl) rfl rfl rfl rfl (indexOp_accepts · index width)
      (fun v j acts => index_readIdx_at rfl sa v (activeFrom_lt (activeFrom_begun s v k ▸ acts)))
      fun v => nibbleOf_plain (m := .index x) nofun (by rw [readIdx_len]; exact entry_width ..)

theorem vectorStores : VectorStores := by
  intro vd sa sb x k ew s fits b row
  refine ⟨fun width => ⟨?unit, ?rows⟩, fun width => ⟨?stride, fun index => ?indexed⟩⟩
  case unit =>
    exact storesElements (op := opVst vd sa x k ew) (queueOf_store rfl) rfl rfl rfl rfl (moveOp_accepts fits width)
      (fun j _ => unit_at _ sa j) fun j _ => storeBytes_plain (m := .unit x) nofun (entry_width ..) j
  case rows =>
    exact storesElements (op := opVst2d vd sa sb k ew) (queueOf_store rfl) rfl rfl rfl rfl (moveOp_accepts fits width)
      (fun j _ => rows_at _ rfl sa sb j) fun j _ => storeBytes_rows (entry_len rfl) j
  case stride =>
    exact storesElements (op := opVsts vd sa sb k ew) (queueOf_store rfl) rfl rfl rfl rfl (moveOp_accepts fits width)
      (fun j _ => stride_at _ sa sb j) fun j _ => storeBytes_plain (m := .stride) nofun (entry_width ..) j
  case indexed =>
    exact storesElements (op := opVstx vd sa x k ew) (queueOf_store rfl) rfl rfl rfl rfl (indexOp_accepts fits index width)
      (fun j _ => index_at sa _ rfl rfl j) fun j _ => storeBytes_plain (m := .index x) nofun (entry_width ..) j

/-- Settles O20: loads and stores, form by form. -/
theorem vectorLoadsAndStoresMoveElements : Obligations.VectorLoadsAndStoresMoveElements :=
  ⟨vectorLoads, vectorStores⟩

end Sys2Proof.Proofs
end

section
/-! SUPPORT. Window loads, linked gathers, conditional scatters and combining updates (R255, R277, R278, R297-R302). -/

namespace Sys2Proof.Proofs

open Sys2Proof.Machine Sys2Proof.Safety Sys2Proof.Rules Sys2Proof.Laws

/-! ### Window loads (R277, R278) -/

section
variable {s : State} {vd : BitVec 6} {k : BitVec 3} {wn chunk : BitVec 5} {bytes : Nat → List Byte}

/-- Where the bytes of an element stand in a window. -/
def windowPos (s : State) (wn chunk : BitVec 5) (i : Nat) : BitVec 32 :=
  (getWin s s.hart.core wn.toNat).head + BitVec.ofNat 32 (256 * chunk.toNat + i * widthNow s / 8)

/-- The bytes of some elements have arrived in a window, and are these. -/
def Arrived (s : State) (wn chunk : BitVec 5) (bytes : Nat → List Byte) (act : List Nat) : Prop :=
  let w := getWin s s.hart.core wn.toNat
  ∀ i ∈ act, readWindow s s.hart.core wn.toNat (windowPos s wn chunk i) (elemBytes s) = some (bytes i) ∧
    ∀ j, j < elemBytes s → (windowPos s wn chunk i + BitVec.ofNat 32 j - w.head).toNat < w.avail

/-- R277: an element group of a window load whose bytes have arrived. -/
theorem vldwGroup_moves {v : Convoy} {e : QEntry} (len : e.len = lenNow s)
    (head : e.sb.truncate 32 = (getWin s s.hart.core wn.toNat).head)
    (arrived : Arrived s wn chunk bytes (active s k)) {done a : List Nat} {u : State} (among : ∀ j ∈ a, j ∈ active s k)
    (loaded : LoadedTo s v vd (fun i => partOf s i (natOfBytes (bytes i))) done u) :
    ∃ w, vldwGroup vd wn.toNat chunk.toNat e u a = .ok (none : Option Trap) w ∧
      LoadedTo s v vd (fun i => partOf s i (natOfBytes (bytes i))) (done ++ a) w := by
  obtain ⟨z, r, same⟩ := loaded.registers
  have core : u.hart.core = s.hart.core := by rw [same]; rfl
  have window : getWin u s.hart.core wn.toNat = getWin s s.hart.core wn.toNat := by rw [same]; rfl
  have size : memBytes (widthNow s) = elemBytes s := rfl
  have width : e.len.width = widthNow s := by rw [len]; rfl
  have pos (i : Nat) : e.sb.truncate 32 + BitVec.ofNat 32 (256 * chunk.toNat + i * widthNow s / 8) = windowPos s wn chunk i := by
    rw [head]
    rfl
  have all : (a.all fun i => (List.range (elemBytes s)).all fun j =>
      (getWin s s.hart.core wn.toNat).byteIn (windowPos s wn chunk i + BitVec.ofNat 32 j)) = true := by
    simp only [List.all_eq_true, List.mem_range]
    intro i here j low
    obtain ⟨-, available⟩ := arrived i (among i here)
    simp only [Window.byteIn, Bool.or_eq_true, decide_eq_true_eq]
    exact .inl (.inr (available j low))
  have read : (a.map fun i => (i, readWindow u s.hart.core wn.toNat (windowPos s wn chunk i) (elemBytes s))) =
      a.map fun i => (i, some (bytes i)) := by
    refine List.map_congr_left fun i here => ?_
    have still : readWindow u s.hart.core wn.toNat (windowPos s wn chunk i) (elemBytes s) =
        readWindow s s.hart.core wn.toNat (windowPos s wn chunk i) (elemBytes s) := by rw [same]; rfl
    rw [still, (arrived i (among i here)).1]
  have sound : ((a.map fun i => (i, some (bytes i))).any fun p => p.2 == none) = false := by simp
  refine ⟨_, ?_, loaded.next u.slices⟩
  simp only [vldwGroup, width, size, core, window, pos, all, read, sound, Bool.not_true, Bool.false_eq_true, if_false]
  simp only [List.map_map, Function.comp_def, Option.getD_some, nibbleOf_plain (m := .unit 0) nofun width]
  rfl

theorem exec_vldw {ew : BitVec 2} (queue : s.hart.queue = []) : exec (.vldw vd wn chunk k ew) s =
    vexec (.vldw vd wn chunk k ew) (opVldw vd wn chunk k ew) 0 ((getWin s s.hart.core wn.toNat).head.zeroExtend 64) s := by
  have step : exec (.vldw vd wn chunk k ew) s = execVldw vd wn chunk k ew s := rfl
  have unnamed : mopNames s.hart wn.toNat = false := by rw [mopNames, queue]; rfl
  rw [step, execVldw, unnamed, Bool.false_and, if_neg Bool.false_ne_true]

/-- R277: a window that serves a load of the active elements. -/
theorem vldw_moves {ew : BitVec 2} (fits : Rules.Fits s vd (groupNow s)) (width : WidthIs s true ew.toNat)
    (issues : Issues (.vldw vd wn chunk k ew) s) (serves : vldwBad (getWin s s.hart.core wn.toNat) s.hart.hid chunk.toNat (lenNow s) = false)
    (arrived : Arrived s wn chunk bytes (active s k)) : Does (.vldw vd wn chunk k ew) s
      (moved s vd (widthNow s) (each (active s k) fun i => partOf s i (natOfBytes (bytes i)))) := by
  rw [moved_eq, retire_none]
  have accepted : (opVldw vd wn chunk k ew).check s.hart.width s.hart.mview (lenNow s) = none :=
    memCheck_fits (accepts := fun l => ewMatches true l.width ew.toNat) fits (ewMatches_of_widthIs width)
  refine does_of_memory (queueOf_load rfl) rfl (exec_vldw (queue_of_issues issues)) issues accepted ?_ fun v => ?_
  · exact ((leavesIssue_putElems ..).queue _).trans (queue_of_issues issues)
  · generalize entered : entry s (.vldw vd wn chunk k ew) 0 ((getWin s s.hart.core wn.toNat).head.zeroExtend 64) = e
    have len : e.len = lenNow s := by rw [← entered]; exact entry_len rfl
    have head : e.sb.truncate 32 = (getWin s s.hart.core wn.toNat).head := by
      rw [← entered]
      exact BitVec.setWidth_setWidth_of_le _ (by decide)|>.trans (BitVec.setWidth_eq _)
    obtain ⟨u, run, loaded⟩ := runGroups_active (e := e) (h := (begun s v).hart) (l := lenNow s) (k := k) (indexed := false)
      (fun done a u among loaded => vldwGroup_moves len head arrived (fun j here => activeFrom_begun s v k ▸ among j here) loaded)
      (LoadedTo.start s v vd fun i => partOf s i (natOfBytes (bytes i)))
    obtain ⟨z, rfl⟩ := loaded.end_
    rw [activeFrom_begun] at run
    have usable : vldwBad (getWin (begun s v) (begun s v).hart.core wn.toNat) (begun s v).hart.hid chunk.toNat (lenNow s) = false := serves
    refine ⟨z, ?_⟩
    unfold opVldw
    dsimp only
    rw [len, usable, if_neg Bool.false_ne_true]
    exact run
end

/-! ### Linked gathers (R297, R298) -/

section
variable {s u : State} {kind : Kind} {act a : List Nat} {addr : Nat → Dword} {loc tag : Nat → Nat}

theorem resolveHome_reaches (reaches : Reaches s kind act addr loc tag) (tables : SameTables s u)
    (who : acc u .other kind = acc s .other kind) (home : ∀ i ∈ act, isDram (loc i) = true) (among : ∀ i ∈ a, i ∈ act) :
    ∃ z, resolveHome u kind (elemBytes s) (a.map fun i => (i, addr i)) = .ok (placed addr loc tag a) { u with slices := z } := by
  induction a generalizing u with
  | nil => exact ⟨u.slices, rfl⟩
  | cons i a ih =>
    obtain ⟨z, here⟩ := resolve_element reaches tables who (among i List.mem_cons_self)
    obtain ⟨y, rest⟩ := ih (u := { u with slices := z }) ⟨tables.tab, tables.tether, tables.disp⟩ who
      fun j later => among j (List.mem_cons_of_mem _ later)
    have local_ : homeOnly [(i, addr i, .mem (loc i) (tag i))] { u with slices := z } =
        .ok [(i, addr i, .mem (loc i) (tag i))] { u with slices := z } := by
      simp [homeOnly, home i (among i List.mem_cons_self)]
    exact ⟨y, by simp only [List.map_cons, resolveHome, here, XRes.bind, local_, rest, placed]; rfl⟩

/-- The link tags of the slices once some are set. -/
def linksAfter (m : SMap (List LinkTag)) (l : List LinkTag) : SMap (List LinkTag) :=
  l.foldl (fun m g => mapUpd [] m (homeSlice (g.line * 128)) fun l => (g :: l.filter (fun x => x.line != g.line)).take 2048) m

theorem foldl_setLink (s : State) (l : List LinkTag) : l.foldl setLink s = { s with links := linksAfter s.links l } := by
  induction l generalizing s with
  | nil => rfl
  | cons g l ih => exact ih (setLink s g)

theorem foldl_ownLink (s : State) (a : List Nat) : (placed addr loc tag a).foldl (fun s p => setLink s (ownLink s (lineOf p.2.2))) s =
    { s with links := linksAfter s.links (a.map fun i => ownLink s (loc i / 128)) } := by
  induction a generalizing s with
  | nil => rfl
  | cons i a ih => exact ih (setLink s (ownLink s (loc i / 128)))

/-- A state with other links. -/
def withLinks (m : SMap (List LinkTag)) (s : State) : State := { s with links := m }

/-- What a linked gather leaves that has moved some elements. -/
def GatheredTo (s : State) (v : Convoy) (vd : BitVec 6) (loc tag : Nat → Nat) (done : List Nat) (u : State) : Prop :=
  ∃ w, LoadedTo s v vd (seen s loc tag) done w ∧ u = withLinks (linksAfter s.links (done.map fun i => ownLink s (loc i / 128))) w

variable {vd : BitVec 6} {k : BitVec 3} {x sa : BitVec 5} {ew : BitVec 1}

theorem gatherGroup_moves {v : Convoy} {e : QEntry} (reaches : Reaches s .read act addr loc tag)
    (home : ∀ i ∈ act, isDram (loc i) = true) (places : ∀ j ∈ act, (VAddr.index x).at (begun s v).hart e j = addr j)
    {done : List Nat} (among : ∀ j ∈ a, j ∈ act) (gathered : GatheredTo s v vd loc tag done u) :
    ∃ w, ((resolveHome u .read (elemBytes s) (a.map fun j => (j, (VAddr.index x).at (begun s v).hart e j))).bind fun l s1 =>
        (readAll s1 (elemBytes s) l).bind fun r s2 => .ok none (updH (l.foldl (fun s p => setLink s (ownLink s (lineOf p.2.2))) s2)
          fun h => putElems h vd.toNat (widthNow s) r)) = .ok (none : Option Trap) w ∧
      GatheredTo s v vd loc tag (done ++ a) w := by
  obtain ⟨w, loaded, rfl⟩ := gathered
  obtain ⟨z, r, same⟩ := loaded.registers
  have addresses : a.map (fun j => (j, (VAddr.index x).at (begun s v).hart e j)) = a.map fun j => (j, addr j) :=
    List.map_congr_left fun j here => by rw [places j (among j here)]
  generalize links : linksAfter s.links (done.map fun i => ownLink s (loc i / 128)) = m
  obtain ⟨y, resolved⟩ := resolveHome_reaches (u := withLinks m w) reaches (by rw [same]; exact ⟨rfl, rfl, rfl⟩) (by rw [same]; rfl)
    home among
  have read : readAll { withLinks m w with slices := y } (elemBytes s) (placed addr loc tag a) =
      .ok (each a (seen s loc tag)) { withLinks m w with slices := y } := by
    rw [same]
    exact readAll_sound fun j here => (reaches j (among j here)).1
  have own (i : Nat) : ownLink { withLinks m w with slices := y } (loc i / 128) = ownLink s (loc i / 128) := by rw [same]; rfl
  refine ⟨_, ?_, _, loaded.next (a := a) y, rfl⟩
  rw [addresses, resolved]
  simp only [XRes.bind, read, foldl_ownLink, own, List.map_append, linksAfter, List.foldl_append]
  rw [← links]
  rfl

/-- R298: a linked gather sets the links of its lines and moves its elements. -/
theorem vldl_moves (fits : Rules.Fits s vd (groupNow s)) (index : IndexFits s x) (width : widthNow s = ew1Width ew)
    (issues : Issues (.vldl vd sa x k ew) s) (reaches : Reaches s .read (active s k) (indexAddr s sa x) loc tag)
    (home : ∀ i ∈ active s k, isDram (loc i) = true) : Does (.vldl vd sa x k ew) s
      (moved (((active s k).map fun i => ownLink s (loc i / 128)).foldl setLink s) vd (widthNow s) (each (active s k) (seen s loc tag))) := by
  rw [moved_eq, retire_none, foldl_setLink]
  have accepted : (opVldl vd sa x k ew).check s.hart.width s.hart.mview (lenNow s) = none :=
    indexCheck_fits (accepts := fun l => l.width == ew1Width ew) fits index (beq_iff_eq.2 width)
  have wide : widthNow s ≠ 4 := by
    rw [width, ew1Width]
    split <;> decide
  refine does_of_memory (op := opVldl vd sa x k ew) (queueOf_load rfl) rfl rfl issues accepted ?_ fun v => ?_
  · exact ((leavesIssue_putElems ..).queue _).trans (queue_of_issues issues)
  · have places : ∀ j ∈ active s k, (VAddr.index x).at (begun s v).hart
        ((entry s (.vldl vd sa x k ew) (rdS s sa) 0).readIdx (begun s v).hart (.index x)) j = indexAddr s sa x j :=
      fun j acts => index_readIdx_at rfl sa v (activeFrom_lt (activeFrom_begun s v k ▸ acts))
    have len := readIdx_len (entry s (.vldl vd sa x k ew) (rdS s sa) 0) (begun s v).hart (.index x)
    rw [entry_len rfl] at len
    have size : widthNow s / 8 = elemBytes s := by rw [elemBytes, if_neg wide]
    unfold opVldl
    dsimp only
    rw [len, entry_width, size]
    generalize (entry s (.vldl vd sa x k ew) (rdS s sa) 0).readIdx (begun s v).hart (.index x) = e at places ⊢
    obtain ⟨u, run, w, loaded, rfl⟩ := runGroups_active (e := e) (h := (begun s v).hart) (l := lenNow s) (k := k) (indexed := true)
      (fun done a u among gathered => gatherGroup_moves (vd := vd) reaches home places
        (fun j here => activeFrom_begun s v k ▸ among j here) gathered)
      (⟨_, LoadedTo.start s v vd (seen s loc tag), rfl⟩ : GatheredTo s v vd loc tag [] (begun s v))
    obtain ⟨z, rfl⟩ := loaded.end_
    rw [activeFrom_begun] at run
    exact ⟨z, run⟩
end

end Sys2Proof.Proofs
end

section
/-! SUPPORT. Conditional scatters by whether their links hold, and combining updates on their way (R255, R297, R299,
R300, R302). -/

namespace Sys2Proof.Proofs

open Sys2Proof.Machine Sys2Proof.Safety Sys2Proof.Rules Sys2Proof.Laws

/-! ### Elements of a conditional scatter (R299) -/

section
variable {s u : State} {act a : List Nat} {addr : Nat → Dword} {loc tag : Nat → Nat} {vd : BitVec 6} {k : BitVec 3}
  {x sa : BitVec 5} {ew : BitVec 1} {e : QEntry}

theorem dDrop_withLinks (m : SMap (List LinkTag)) (s : State) (core l : Nat) :
    dDrop (withLinks m s) core l = withLinks m (dDrop s core l) := by
  unfold dDrop dGone
  rw [apply_ite (withLinks m), apply_ite (withLinks m)]
  rfl

/-- Stores leave the same but for the links, whatever the links were. -/
theorem withLinks_storeAll (m n : SMap (List LinkTag)) (u : State) (l : List (Nat × Nat × List Byte)) :
    withLinks m (storeAll (withLinks n u) l) = withLinks m (storeAll u l) := by
  induction l generalizing u n with
  | nil => rfl
  | cons p l ih =>
    have first : dDrop (pokeLoc (withLinks n u) p.2.1 p.1 p.2.2) (u.hart.key / 8) p.1 =
        withLinks (pokeLoc (withLinks n u) p.2.1 p.1 p.2.2).links (dDrop (pokeLoc u p.2.1 p.1 p.2.2) (u.hart.key / 8) p.1) :=
      dDrop_withLinks _ (pokeLoc u p.2.1 p.1 p.2.2) _ _
    have rest := ih (pokeLoc (withLinks n u) p.2.1 p.1 p.2.2).links (dDrop (pokeLoc u p.2.1 p.1 p.2.2) (u.hart.key / 8) p.1)
    rw [← first] at rest
    exact rest

/-- R299: elements that all find their links, each at an address that none before it has, are stored, and break none. -/
theorem stcAll_linked {h : Hart} (hart : u.hart = h) {first : Nat} {bytes : Nat → List Byte}
    (stores : ∀ i ∈ a, bytesOfNat (e.len.width / 8) (getElem h vd.toNat e.len.width i) = bytes i) (clean : u.bad = [])
    (home : ∀ i ∈ a, isDram (loc i) = true) (links : ∀ i ∈ a, linked u (loc i / 128) = true)
    (new : ∀ i ∈ a, ((span first i).any fun j => sel h k j && (VAddr.index x).at h e j == addr i) = false) :
    stcAll vd x k e first (placed addr loc tag a) u =
      .ok none (withLinks u.links (storeAll u (a.map fun i => (loc i, tag i, bytes i)))) := by
  induction a generalizing u with
  | nil => rfl
  | cons i a ih =>
    have sound : Sound u (loc i) (bytes i).length := by
      rw [Sound, clean]
      nofun
    have wrote := writeT_sound (hart := u.hart.key) sound (guardStops_dram (home i List.mem_cons_self)) (tag i) (addr i)
    have only : StoredOnly u _ := (StoredOnly.pokeLoc u (tag i) (loc i) (bytes i)).trans (StoredOnly.dDrop _ (u.hart.key / 8) (loc i))
    generalize stored : dDrop (pokeLoc u (tag i) (loc i) (bytes i)) (u.hart.key / 8) (loc i) = w at wrote only
    have still : (withLinks u.links w).hart = h := only.hart.trans hart
    have same (l : Nat) : linked (withLinks u.links w) l = linked u l := by
      rw [linked, linked, ownLink, ownLink, still, hart]
      rfl
    have none : (withLinks u.links w).bad = [] := by
      obtain ⟨_, _, _, _, _, kept, rfl⟩ := only
      exact List.eq_nil_iff_forall_not_mem.2 fun b bad => by simpa [clean] using kept b bad
    have rest := ih (u := withLinks u.links w) still (fun j later => stores j (List.mem_cons_of_mem _ later)) none
      (fun j later => home j (List.mem_cons_of_mem _ later))
      (fun j later => (same _).trans (links j (List.mem_cons_of_mem _ later))) fun j later => new j (List.mem_cons_of_mem _ later)
    have step : stcAll vd x k e first (placed addr loc tag (i :: a)) u =
        stcAll vd x k e first (placed addr loc tag a) (withLinks u.links w) := by
      have link : linked u (lineOf (.mem (loc i) (tag i))) = true := links i List.mem_cons_self
      have bytes_ := stores i List.mem_cons_self
      rw [← hart] at bytes_ new
      simp only [placed, List.map_cons, stcAll, link, new i List.mem_cons_self, Bool.not_false, Bool.and_self, if_true, bytes_, wrote, XRes.bind]
      rfl
    rw [step, rest]
    refine congrArg (XRes.ok Option.none) ?_
    have all : storeAll u ((i :: a).map fun i => (loc i, tag i, bytes i)) = storeAll w (a.map fun i => (loc i, tag i, bytes i)) := by
      rw [← stored]
      rfl
    rw [all]
    exact withLinks_storeAll u.links u.links w _

/-- The mask of an instruction without some elements. -/
def unmasked (k : BitVec 3) (a : List Nat) (h : Hart) : Hart := a.foldl (fun h i => putMask h k.toNat [(i, false)]) h

theorem unmasked_k (k : BitVec 3) (a : List Nat) (h : Hart) : ∃ m, unmasked k a h = { h with k := m } := by
  induction a generalizing h with
  | nil => exact ⟨h.k, rfl⟩
  | cons i a ih =>
    obtain ⟨m, rest⟩ := ih (putMask h k.toNat [(i, false)])
    exact ⟨m, rest⟩

theorem leavesIssue_unmasked (k : BitVec 3) (a : List Nat) : LeavesIssue (unmasked k a) := by
  have both (h : Hart) : (unmasked k a h).queue = h.queue ∧
      ∀ c, unmasked k a { h with convoy := c } = { unmasked k a h with convoy := c } := by
    induction a generalizing h with
    | nil => exact ⟨rfl, fun _ => rfl⟩
    | cons i a ih => exact ih (putMask h k.toNat [(i, false)])
  exact ⟨fun h => (both h).1, fun h => (both h).2⟩

theorem unmasked_append (k : BitVec 3) (a b : List Nat) (h : Hart) : unmasked k (a ++ b) h = unmasked k b (unmasked k a h) :=
  List.foldl_append

theorem getLsbD_unmasked (k : BitVec 3) (a : List Nat) (h : Hart) {i : Nat} (low : i < 512 * h.width) :
    (getMask (unmasked k a h) k.toNat).getLsbD i = ((getMask h k.toNat).getLsbD i && !a.contains i) := by
  induction a generalizing h with
  | nil => simp [unmasked]
  | cons j a ih =>
    have cleared : (getMask (putMask h k.toNat [(j, false)]) k.toNat).getLsbD i = ((getMask h k.toNat).getLsbD i && !decide (i = j)) := by
      have kept : (BitVec.ofNat 16384 (2 ^ (512 * h.width) - 1)).getLsbD i = decide (i < 16384) := by
        simp [BitVec.getLsbD_ofNat, low]
      have value : getMask (putMask h k.toNat [(j, false)]) k.toNat =
          putBits (getMask h k.toNat) j 1 0 &&& BitVec.ofNat 16384 (2 ^ (512 * h.width) - 1) := mapGet_set_same ..
      rw [value, BitVec.getLsbD_and, kept]
      by_cases inside : i < 16384
      · by_cases at_ : i = j
        · simp [putBits, at_]
        · simp only [putBits, inside, at_, decide_true, decide_false, Bool.and_true, Bool.not_false]
          simp
          omega
      · simp [inside, BitVec.getLsbD_of_ge _ _ (Nat.not_lt.1 inside)]
    rw [show unmasked k (j :: a) h = unmasked k a (putMask h k.toNat [(j, false)]) from rfl, ih (putMask h k.toNat [(j, false)]) low, cleared]
    simp [Bool.and_assoc]

/-- R299: elements that find no link are not stored, and leave the mask. -/
theorem stcAll_unlinked {first : Nat} (links : ∀ i ∈ a, linked u (loc i / 128) = false) :
    stcAll vd x k e first (placed addr loc tag a) u = .ok none (updH u (unmasked k a)) := by
  induction a generalizing u with
  | nil => rfl
  | cons i a ih =>
    have rest := ih (u := updH u fun h => putMask h k.toNat [(i, false)]) fun j later => links j (List.mem_cons_of_mem _ later)
    have link : linked u (lineOf (.mem (loc i) (tag i))) = false := links i List.mem_cons_self
    unfold placed at rest ⊢
    simp only [List.map_cons, stcAll, link, Bool.false_and, Bool.false_eq_true, if_false, rest]
    rfl


/-- A hart with another mask table addresses as before. -/
theorem indexed_places (h : Hart) (places : ∀ j ∈ act, (VAddr.index x).at h e j = addr j) (among : ∀ j ∈ a, j ∈ act) :
    indexedAddrs x h e a = a.map fun i => (i, addr i) :=
  List.map_congr_left fun j here => by rw [places j (among j here)]

theorem awaits_none (reaches : Reaches s .write act addr loc tag) (tables : SameTables s u)
    (who : acc u .other .write = acc s .other .write) (among : ∀ i ∈ a, i ∈ act) :
    awaits u (elemBytes s) (a.map fun i => (i, addr i)) = none := by
  induction a generalizing u with
  | nil => rfl
  | cons i a ih =>
    obtain ⟨z, here⟩ := resolve_element reaches tables who (among i List.mem_cons_self)
    have rest := ih (u := { u with slices := z }) ⟨tables.tab, tables.tether, tables.disp⟩ who
      fun j later => among j (List.mem_cons_of_mem _ later)
    simp only [List.map_cons, awaits, here, rest]

/-- What a conditional scatter leaves, all of whose links hold, that has stored some elements. -/
def ScatteredTo (s : State) (v : Convoy) (row : Nat → Nat × Nat × List Byte) (done : List Nat) (u : State) : Prop :=
  ∃ z, u = sliced z (withLinks s.links (storeAll (begun s v) (done.map row)))

/-- What a conditional scatter leaves, none of whose links holds, that has gone through some elements. -/
def UnscatteredTo (s : State) (v : Convoy) (k : BitVec 3) (done : List Nat) (u : State) : Prop :=
  ∃ z, u = sliced z (withHart (begun s v) (unmasked k done))

/-- One element group of a conditional scatter. -/
def stcGroup (vd : BitVec 6) (x : BitVec 5) (k : BitVec 3) (e : QEntry) (n : Nat) (u : State) (a : List Nat) : XRes (Option Trap) :=
  (resolveHome u .write n (indexedAddrs x u.hart e a)).bind fun l s1 => (stcAll vd x k e e.len.e0 l s1).orElse s1

section
variable {v : Convoy} {done : List Nat} {bytes : Nat → List Byte} (reaches : Reaches s .write act addr loc tag)
  (home : ∀ i ∈ act, isDram (loc i) = true) (places : ∀ j ∈ act, (VAddr.index x).at s.hart e j = addr j)
  (among : ∀ j ∈ a, j ∈ act)
include reaches home places among

theorem stcGroup_linked (stores : ∀ i ∈ act, bytesOfNat (e.len.width / 8) (getElem s.hart vd.toNat e.len.width i) = bytes i)
    (clean : s.bad = []) (links : ∀ i ∈ act, linked s (loc i / 128) = true)
    (new : ∀ i ∈ act, ((span e.len.e0 i).any fun j => sel s.hart k j && (VAddr.index x).at s.hart e j == addr i) = false)
    (scattered : ScatteredTo s v (fun j => (loc j, tag j, bytes j)) done u) :
    ∃ w, stcGroup vd x k e (elemBytes s) u a = .ok (none : Option Trap) w ∧
      ScatteredTo s v (fun j => (loc j, tag j, bytes j)) (done ++ a) w := by
  obtain ⟨z, rfl⟩ := scattered
  have only : StoredOnly (begun s v) (storeAll (begun s v) (done.map fun j => (loc j, tag j, bytes j))) := StoredOnly.storeAll ..
  generalize held : storeAll (begun s v) (done.map fun j => (loc j, tag j, bytes j)) = w at only
  have hart (y : SMap (List Nat)) : (sliced y (withLinks s.links w)).hart = (begun s v).hart := only.hart
  have none : w.bad = [] := by
    obtain ⟨_, _, _, _, _, kept, rfl⟩ := only
    exact List.eq_nil_iff_forall_not_mem.2 fun b bad => by
      have old : b ∈ s.bad := kept b bad
      rw [clean] at old
      cases old
  have who : acc (sliced z (withLinks s.links w)) .other .write = acc s .other .write := by rw [acc, acc, hart]; rfl
  obtain ⟨y, resolved⟩ := resolveHome_reaches (u := sliced z (withLinks s.links w)) reaches
    ⟨only.tables.tab, only.tables.tether, only.tables.disp⟩ who home among
  have same (l : Nat) : linked (sliced y (withLinks s.links w)) l = linked s l := by
    rw [linked, linked, ownLink, ownLink, hart]
    rfl
  have stored := stcAll_linked (u := sliced y (withLinks s.links w)) (h := (begun s v).hart) (k := k) (x := x) (e := e)
    (addr := addr) (tag := tag) (vd := vd) (first := e.len.e0) (hart y) (fun i has => stores i (among i has)) none
    (fun i has => home i (among i has)) (fun i has => (same _).trans (links i (among i has))) fun i has => new i (among i has)
  refine ⟨_, ?_, y, rfl⟩
  have addresses := indexed_places (a := a) (sliced z (withLinks s.links w)).hart (by rw [hart]; exact places) among
  unfold stcGroup
  rw [addresses, resolved]
  refine (congrArg (fun r => XRes.orElse r (sliced y (withLinks s.links w))) stored).trans (congrArg (XRes.ok Option.none) ?_)
  rw [storeAll_sliced, List.map_append, storeAll_append, held]
  exact congrArg (sliced y) (withLinks_storeAll s.links s.links w _)

theorem stcGroup_unlinked (links : ∀ i ∈ act, linked s (loc i / 128) = false) (gone : UnscatteredTo s v k done u) :
    ∃ w, stcGroup vd x k e (elemBytes s) u a = .ok (none : Option Trap) w ∧ UnscatteredTo s v k (done ++ a) w := by
  obtain ⟨z, rfl⟩ := gone
  obtain ⟨m, masks⟩ := unmasked_k k done (begun s v).hart
  have state : withHart (begun s v) (unmasked k done) = withHart (begun s v) fun h => { h with k := m } :=
    congrArg (fun h => { begun s v with hart := h }) masks
  have addresses := indexed_places (a := a) (e := e) (x := x) (sliced z (withHart (begun s v) (unmasked k done))).hart
    (by rw [state]; exact places) among
  obtain ⟨y, resolved⟩ := resolveHome_reaches (u := sliced z (withHart (begun s v) (unmasked k done))) reaches ⟨rfl, rfl, rfl⟩
    (by rw [state]; rfl) home among
  have same (l : Nat) : linked (sliced y (withHart (begun s v) (unmasked k done))) l = linked s l := by
    rw [state]
    rfl
  have passed := stcAll_unlinked (u := sliced y (withHart (begun s v) (unmasked k done))) (k := k) (x := x) (e := e)
    (addr := addr) (tag := tag) (vd := vd) (first := e.len.e0) fun i has => (same _).trans (links i (among i has))
  refine ⟨_, ?_, y, rfl⟩
  unfold stcGroup
  rw [addresses, resolved]
  refine (congrArg (fun r => XRes.orElse r (sliced y (withHart (begun s v) (unmasked k done)))) passed).trans (congrArg (XRes.ok Option.none) ?_)
  have both : unmasked k (done ++ a) = fun h => unmasked k a (unmasked k done h) := funext fun h => unmasked_append k done a h
  rw [both]
  rfl
end

/-! ### Conditional scatters (R297, R299) -/

theorem bumpLink_mem (s : State) : (bumpLink s).mem = s.mem := by
  unfold bumpLink
  dsimp only [updH]
  split <;> rfl

theorem bumpLink_hart (s : State) : (bumpLink s).hart = { s.hart with linkGen := s.hart.linkGen + 1 } := by
  unfold bumpLink
  dsimp only [updH]
  split <;> rfl

theorem bumpLink_inConvoy (z : SMap (List Nat)) (s : State) (c : Convoy) :
    bumpLink (sliced z (inConvoy s c)) = sliced z (inConvoy (bumpLink s) c) := by
  unfold bumpLink
  rw [apply_ite (fun s1 : State => updH s1 fun h => { h with linkGen := h.linkGen + 1 }),
    apply_ite (fun s1 : State => updH s1 fun h => { h with linkGen := h.linkGen + 1 }),
    apply_ite (inConvoy · c), apply_ite (sliced z)]
  rfl

section
variable (fits : Rules.Fits s vd (groupNow s)) (index : IndexFits s x) (width : widthNow s = ew1Width ew)
  (issues : Issues (.vstc vd sa x k ew) s) (reaches : Reaches s .write (active s k) (indexAddr s sa x) loc tag)
include fits index width issues reaches

/-- R299: a conditional scatter that issues does what its element groups do, and advances the hart's generation. -/
theorem vstc_does {w : State} (left : w.hart.queue = s.hart.queue)
    (run : ∀ v, let e := entry s (.vstc vd sa x k ew) (rdS s sa) 0
      ∃ z, runGroups (stcGroup vd x k e (elemBytes s)) e (memGroups (begun s v).hart (lenNow s) k true) none (begun s v) =
        .done (sliced z (inConvoy w v)) 0) : Does (.vstc vd sa x k ew) s (bumpLink w) := by
  have accepted : (opVstc vd x x k ew).check s.hart.width s.hart.mview (lenNow s) = none :=
    indexCheck_fits (accepts := fun l => l.width == ew1Width ew) fits index (beq_iff_eq.2 width)
  have wide : widthNow s ≠ 4 := by
    rw [width, ew1Width]
    split <;> decide
  have size : widthNow s / 8 = elemBytes s := by rw [elemBytes, if_neg wide]
  refine does_of_memory (op := opVstc vd sa x k ew) (queueOf_store rfl) rfl rfl issues accepted ?_ fun v => ?_
  · rw [bumpLink_hart]
    exact left.trans (queue_of_issues issues)
  · obtain ⟨z, ran⟩ := run v
    have places : ∀ j ∈ active s k, (VAddr.index x).at s.hart (entry s (.vstc vd sa x k ew) (rdS s sa) 0) j = indexAddr s sa x j :=
      fun j _ => index_at sa _ rfl rfl j
    have len : (entry s (.vstc vd sa x k ew) (rdS s sa) 0).len = lenNow s := entry_len rfl
    generalize entry s (.vstc vd sa x k ew) (rdS s sa) 0 = e at ran places len ⊢
    have none : awaits (begun s v) (elemBytes s) (indexedAddrs x (begun s v).hart e (active s k)) = Option.none := by
      have addresses := indexed_places (a := active s k) (begun s v).hart places fun _ acts => acts
      rw [addresses]
      exact awaits_none reaches ⟨rfl, rfl, rfl⟩ rfl fun _ acts => acts
    have bytes : e.len.width / 8 = elemBytes s := by rw [len]; exact size
    have acts : activeFrom (begun s v).hart e.len k = active s k := by rw [len]; exact activeFrom_begun s v k
    rw [← len] at ran
    refine ⟨z, ?_⟩
    rw [← sliced, ← bumpLink_inConvoy]
    unfold opVstc
    dsimp only
    rw [bytes, acts, none]
    exact congrArg afterStc ran
end


/-- No active element stands before one at its address, where all stand apart. -/
theorem no_earlier (apart : ((active s k).map addr).Nodup) {i : Nat} (acts : i ∈ active s k) :
    ((span (lenNow s).e0 i).any fun j => sel s.hart k j && addr j == addr i) = false := by
  refine List.any_eq_false.2 fun j before => ?_
  rw [span_eq_filter] at before
  obtain ⟨low, started⟩ := List.mem_filter.1 before
  have earlier : j < i := List.mem_range.1 low
  intro both
  obtain ⟨selected, same⟩ := Bool.and_eq_true_iff.1 both
  have below : i < (lenNow s).vl := activeFrom_lt (activeFrom_begun s {} k ▸ acts)
  have also : j ∈ active s k := by
    rw [← activeFrom_begun s {} k, activeFrom, span_eq_filter]
    exact List.mem_filter.2 ⟨List.mem_filter.2 ⟨List.mem_range.2 (earlier.trans below), started⟩, selected⟩
  exact earlier.ne (List.inj_on_of_nodup_map apart also acts (beq_iff_eq.1 same))

section
variable (fits : Rules.Fits s vd (groupNow s)) (index : IndexFits s x)
  (width : widthNow s = ew1Width ew) (issues : Issues (.vstc vd sa x k ew) s)
  (reaches : Reaches s .write (active s k) (indexAddr s sa x) loc tag) (home : ∀ i ∈ active s k, isDram (loc i) = true)
include fits index width issues reaches home

/-- R299: a conditional scatter to addresses that stand apart, all of whose links hold. -/
theorem vstc_scatters (clean : s.bad = []) (links : ∀ i ∈ active s k, linked s (loc i / 128) = true)
    (apart : ((active s k).map (indexAddr s sa x)).Nodup) : Does (.vstc vd sa x k ew) s (bumpLink (withLinks s.links
      (storeAll (viewCleared s) ((active s k).map fun i => (loc i, tag i, bytesOfElem s vd i (i + 2) i))))) := by
  have left : (storeAll (viewCleared s) ((active s k).map fun i => (loc i, tag i, bytesOfElem s vd i (i + 2) i))).hart.queue =
      (viewCleared s).hart.queue := congrArg Hart.queue (storeAll_hart ..)
  refine vstc_does fits index width issues reaches left fun v => ?_
  intro e
  have len : e.len = lenNow s := entry_len rfl
  have places (j : Nat) : (VAddr.index x).at s.hart e j = indexAddr s sa x j := index_at sa _ rfl rfl j
  have wide : ¬ e.len.width = 4 := by
    rw [show e.len.width = widthNow s from entry_width .., width, ew1Width]
    split <;> decide
  have stores : ∀ i ∈ active s k, bytesOfNat (e.len.width / 8) (getElem s.hart vd.toNat e.len.width i) = bytesOfElem s vd i (i + 2) i :=
    fun i _ => by
      rw [← storeBytes_plain (m := .index x) nofun (entry_width s (.vstc vd sa x k ew) (rdS s sa) 0) i]
      exact (if_neg wide).symm
  have new : ∀ i ∈ active s k, ((span e.len.e0 i).any fun j => sel s.hart k j && (VAddr.index x).at s.hart e j == indexAddr s sa x i) = false :=
    fun i acts => by
      simp only [places, len]
      exact no_earlier apart acts
  obtain ⟨u, run, z, rfl⟩ := runGroups_active (e := e) (h := (begun s v).hart) (l := lenNow s) (k := k) (indexed := true)
    (fun done a u among scattered => stcGroup_linked (vd := vd) reaches home (fun j _ => places j)
      (fun j here => activeFrom_begun s v k ▸ among j here) stores clean links new scattered)
    (⟨s.slices, rfl⟩ : ScatteredTo s v (fun i => (loc i, tag i, bytesOfElem s vd i (i + 2) i)) [] (begun s v))
  rw [activeFrom_begun] at run
  refine ⟨z, run.trans ?_⟩
  have joined := storeAll_inConvoy (viewCleared s) v ((active s k).map fun i => (loc i, tag i, bytesOfElem s vd i (i + 2) i))
  rw [show begun s v = inConvoy (viewCleared s) v from rfl, joined]
  rfl

/-- R299: a conditional scatter none of whose links holds. -/
theorem vstc_refuses (links : ∀ i ∈ active s k, linked s (loc i / 128) = false) :
    Does (.vstc vd sa x k ew) s (bumpLink (withHart (viewCleared s) (unmasked k (active s k)))) := by
  have left : (unmasked k (active s k) (viewCleared s).hart).queue = (viewCleared s).hart.queue := (leavesIssue_unmasked ..).queue _
  refine vstc_does fits index width issues reaches left fun v => ?_
  intro e
  obtain ⟨u, run, z, rfl⟩ := runGroups_active (e := e) (h := (begun s v).hart) (l := lenNow s) (k := k) (indexed := true)
    (fun done a u among gone => stcGroup_unlinked (vd := vd) (x := x) reaches home (fun j _ => index_at sa e rfl rfl j)
      (fun j here => activeFrom_begun s v k ▸ among j here) links gone)
    (⟨s.slices, rfl⟩ : UnscatteredTo s v k [] (begun s v))
  rw [activeFrom_begun] at run
  refine ⟨z, run.trans ?_⟩
  have same := (leavesIssue_unmasked k (active s k)).convoy (viewCleared s).hart v
  exact congrArg (fun h => VRes.done (sliced z { s with hart := h }) 0) same
end

/-! ### Combining updates (R255, R300, R302) -/

section
variable {op : Nat}

theorem vamoTargets_reaches (reaches : Reaches s .write act addr loc tag) (tables : SameTables s u)
    (who : acc u .other .write = acc s .other .write) (spad : ∀ i ∈ act, isSpad (loc i) = true) (among : ∀ i ∈ a, i ∈ act) :
    ∃ z, vamoTargets u (elemBytes s) (a.map fun i => (i, addr i)) = .ok (a.map fun i => (i, loc i)) { u with slices := z } := by
  induction a generalizing u with
  | nil => exact ⟨u.slices, rfl⟩
  | cons i a ih =>
    obtain ⟨z, here⟩ := resolve_element reaches tables who (among i List.mem_cons_self)
    obtain ⟨y, rest⟩ := ih (u := { u with slices := z }) ⟨tables.tab, tables.tether, tables.disp⟩ who
      fun j later => among j (List.mem_cons_of_mem _ later)
    exact ⟨y, by simp only [List.map_cons, vamoTargets, here, XRes.bind, spad i (among i List.mem_cons_self), if_true, rest]⟩

/-- The banks a job has sent elements to, with some more. -/
def banksAfter (l m : List Nat) : List Nat := m.foldl (fun l x => if l.contains x then l else l ++ [x]) l

theorem mem_banksAfter (l m : List Nat) (c : Nat) : c ∈ banksAfter l m ↔ c ∈ l ∨ c ∈ m := by
  induction m generalizing l with
  | nil => simp [banksAfter]
  | cons x m ih =>
    have step : banksAfter l (x :: m) = banksAfter (if l.contains x then l else l ++ [x]) m := rfl
    rw [step, ih]
    split
    · have old : x ∈ l := by simpa using ‹l.contains x = true›
      constructor
      · rintro (here | later)
        · exact .inl here
        · exact .inr (List.mem_cons_of_mem _ later)
      · rintro (here | later)
        · exact .inl here
        · obtain rfl | later := List.mem_cons.1 later
          · exact .inl old
          · exact .inr later
    · simp only [List.mem_append, List.mem_cons, List.not_mem_nil, or_false, or_assoc]

/-- A state with elements of a combining update on their way. -/
def sent (s : State) (op : Nat) (vd : BitVec 6) (loc : Nat → Nat) (done : List Nat) (u : State) : State :=
  { withHart u fun h => { h with job := { h.job with banks := banksAfter s.hart.job.banks (done.map fun i => Machine.bankOf (loc i)) } } with
    vamos := s.vamos ++ updates s op vd done loc }

/-- What a combining update leaves that has sent some elements. -/
def SentTo (s : State) (v : Convoy) (op : Nat) (vd : BitVec 6) (loc : Nat → Nat) (done : List Nat) (u : State) : Prop :=
  ∃ z, u = sliced z (sent s op vd loc done (begun s v))

/-- R300: an element group of a combining update. -/
theorem vamoGroup_sends {v : Convoy} {done : List Nat} (len : e.len = lenNow s) (reaches : Reaches s .write act addr loc tag)
    (spad : ∀ i ∈ act, isSpad (loc i) = true) (places : ∀ j ∈ act, (VAddr.index x).at s.hart e j = addr j)
    (among : ∀ j ∈ a, j ∈ act) (wide : widthNow s ≠ 4) (before : SentTo s v op vd loc done u) :
    ∃ w, ((vamoTargets u (e.len.width / 8) (indexedAddrs x u.hart e a)).bind fun r s1 => .ok none (sendVamo op vd e r s1)) =
        .ok (none : Option Trap) w ∧ SentTo s v op vd loc (done ++ a) w := by
  obtain ⟨z, rfl⟩ := before
  have width : e.len.width = widthNow s := by rw [len]; rfl
  have size : widthNow s / 8 = elemBytes s := by rw [elemBytes, if_neg wide]
  have addresses := indexed_places (a := a) (sliced z (sent s op vd loc done (begun s v))).hart places among
  obtain ⟨y, resolved⟩ := vamoTargets_reaches (u := sliced z (sent s op vd loc done (begun s v))) reaches ⟨rfl, rfl, rfl⟩ rfl spad among
  refine ⟨_, ?_, y, rfl⟩
  rw [width, size, addresses, resolved]
  refine congrArg (XRes.ok Option.none) ?_
  have elements : updates s op vd (done ++ a) loc = updates s op vd done loc ++ updates s op vd a loc := List.map_append
  have banks : banksAfter s.hart.job.banks ((done ++ a).map fun i => Machine.bankOf (loc i)) = banksAfter
      (banksAfter s.hart.job.banks (done.map fun i => Machine.bankOf (loc i))) (a.map fun i => Machine.bankOf (loc i)) := by
    rw [List.map_append]
    exact List.foldl_append
  rw [sent, sent, elements, banks, ← List.append_assoc, sendVamo, width, len, List.map_map, List.map_map]
  rfl

/-- R300: a combining update that issues sends its active elements. -/
theorem vamo_sends {i : Instr} (queue : i.queueOf = some 1) (free : i.resync = false) (elementWise : i.whole = false)
    (meaning : exec i s = vexec i (vamoOp op vd x k ew) (rdS s sa) 0 s) (fits : Rules.Fits s vd (groupNow s)) (index : IndexFits s x)
    (width : widthNow s = ew1Width ew) (type : typeNow s ∈ [2, 3, 6, 7]) (issues : Issues i s)
    (reaches : Reaches s .write (active s k) (indexAddr s sa x) loc tag) (spad : ∀ i ∈ active s k, isSpad (loc i) = true) :
    Does i s (sent s op vd loc (active s k) (viewCleared s)) := by
  have typed : (vamoType (lenNow s).type && (lenNow s).width == ew1Width ew) = true := by
    have now : (lenNow s).type = typeNow s := rfl
    rw [show ((lenNow s).width == ew1Width ew) = true from beq_iff_eq.2 width, now, Bool.and_true]
    simpa [vamoType, or_assoc] using type
  have accepted : (vamoOp op vd x k ew).check s.hart.width s.hart.mview (lenNow s) = none :=
    indexCheck_fits (accepts := fun l => vamoType l.type && l.width == ew1Width ew) fits index typed
  have wide : widthNow s ≠ 4 := by
    rw [width, ew1Width]
    split <;> decide
  refine does_of_memory queue free meaning issues accepted (queue_of_issues issues) fun v => ?_
  have places : ∀ j ∈ active s k, (VAddr.index x).at s.hart (entry s i (rdS s sa) 0) j = indexAddr s sa x j :=
    fun j _ => index_at sa _ rfl rfl j
  have len : (entry s i (rdS s sa) 0).len = lenNow s := entry_len elementWise
  generalize entry s i (rdS s sa) 0 = e at places len ⊢
  obtain ⟨u, run, z, rfl⟩ := runGroups_active (e := e) (h := (begun s v).hart) (l := lenNow s) (k := k) (indexed := true)
    (fun done a u among before => vamoGroup_sends (vd := vd) (op := op) len reaches spad places
      (fun j here => activeFrom_begun s v k ▸ among j here) wide before)
    (⟨s.slices, by simp [sent, updates, banksAfter, sliced, withHart]; rfl⟩ : SentTo s v op vd loc [] (begun s v))
  rw [activeFrom_begun] at run
  refine ⟨z, ?_⟩
  unfold vamoOp
  dsimp only
  rw [← len] at run
  exact run
end
end

theorem storeAll_viewCleared (s : State) (l : List (Nat × Nat × List Byte)) :
    storeAll (viewCleared s) l = viewCleared (storeAll s l) := by
  refine List.foldl_hom viewCleared fun u p => ?_
  unfold dDrop dGone
  rw [apply_ite viewCleared, apply_ite viewCleared]
  rfl

/-- States that are the same but for what issuing changes agree in the rest of the hart. -/
theorem field_of_idle {t w : State} (same : idle t = idle w) {h : Hart} (left : w.hart = h) {α : Type} (f : Hart → α)
    (field : ∀ s : State, f (idle s).hart = f s.hart) : f t.hart = f h := by
  rw [← field, same, field, left]

theorem mem_of_idle {t w : State} (same : idle t = idle w) : t.mem = w.mem := by
  have mem : (idle t).mem = (idle w).mem := congrArg State.mem same
  exact mem

theorem completes_of_does {i : Instr} {s u : State} (does : Does i s u) {P : State → Prop}
    (holds : ∀ t, idle t = idle u → t.hart.pc = pcAfter u → P t) : Completes i s P := by
  obtain ⟨t, ends, same, pc⟩ := does
  exact ⟨t, ends, holds t same pc⟩

/-- Settles O21: a window load, and the three kinds of access by index, by what their element groups do. -/
theorem windowLoadsLinksAndCombiningUpdates : Obligations.WindowLoadsLinksAndCombiningUpdates := by
  intro vd sa x k s b act fits
  refine ⟨fun wn chunk ew bytes width issues on notOff own room arrived => ?window,
    fun ew width index loc tag => ⟨fun issues reaches home => vldl_moves fits index width issues reaches home,
      fun issues reaches home clean => ⟨fun links apart => ?scatters, fun links => ?refuses⟩, fun r row issues type reaches spad => ?sends⟩⟩
  case window =>
    have serves : vldwBad (getWin s s.hart.core wn.toNat) s.hart.hid chunk.toNat (lenNow s) = false := by
      have fills : 256 * chunk.toNat + ((lenNow s).vl * (lenNow s).width + 7) / 8 ≤ (getWin s s.hart.core wn.toNat).size := room
      simp [vldwBad, on, notOff, own, fills]
    exact vldw_moves fits width issues serves arrived
  case scatters =>
    refine completes_of_does (vstc_scatters fits index width issues reaches home clean links apart) fun t same pc => ?_
    have left : (bumpLink (withLinks s.links (storeAll (viewCleared s)
        ((active s k).map fun i => (loc i, tag i, bytesOfElem s vd i (i + 2) i))))).hart =
        { (viewCleared s).hart with linkGen := s.hart.linkGen + 1 } := by
      rw [bumpLink_hart, withLinks, storeAll_hart]
      rfl
    refine ⟨field_of_idle same left Hart.k fun _ => rfl, field_of_idle same left Hart.linkGen fun _ => rfl, pc.trans ?_, ?_⟩
    · rw [pcAfter, left]
      rfl
    · refine (mem_of_idle same).trans ((bumpLink_mem _).trans ?_)
      rw [withLinks, storeAll_viewCleared]
      rfl
  case refuses =>
    refine completes_of_does (vstc_refuses fits index width issues reaches home links) fun t same pc => ?_
    obtain ⟨m, masks⟩ := unmasked_k k (active s k) (viewCleared s).hart
    have left : (bumpLink (withHart (viewCleared s) (unmasked k (active s k)))).hart =
        { (viewCleared s).hart with k := m, linkGen := s.hart.linkGen + 1 } := by
      rw [bumpLink_hart, withHart, masks]
      rfl
    refine ⟨(mem_of_idle same).trans (bumpLink_mem _), field_of_idle same left Hart.linkGen fun _ => rfl,
      pc.trans ?_, fun i low _ => ?_⟩
    · rw [pcAfter, left]
      rfl
    · have after := getLsbD_unmasked k (active s k) (viewCleared s).hart low
      rw [masks] at after
      rw [show getMask t.hart k.toNat = mapGet 0 m k.toNat from
        field_of_idle same left (fun h => mapGet 0 h.k k.toNat) fun _ => rfl]
      exact after
  case sends =>
    have does : Does (r.1 vd sa x k ew) s (sent s r.2 vd loc act (viewCleared s)) := by
      simp only [combiningOps, List.mem_cons, List.not_mem_nil, or_false] at row
      rcases row with rfl | rfl | rfl | rfl | rfl
      all_goals exact vamo_sends (queueOf_store rfl) rfl rfl rfl fits index width type issues reaches spad
    refine completes_of_does does fun t same pc => ?_
    have vamos : (idle t).vamos = (idle (sent s r.2 vd loc act (viewCleared s))).vamos := congrArg State.vamos same
    have banks : t.hart.job.banks = banksAfter s.hart.job.banks (act.map fun i => Machine.bankOf (loc i)) :=
      field_of_idle same rfl (fun h => h.job.banks) fun _ => rfl
    refine ⟨vamos, pc.trans (pcAfter_same rfl rfl), (mem_of_idle same).trans rfl, fun c => ?_, field_of_idle same rfl Hart.v fun _ => rfl,
      field_of_idle same rfl Hart.k fun _ => rfl, field_of_idle same rfl Hart.s fun _ => rfl⟩
    rw [banks, mem_banksAfter, List.mem_map]
    simp only [eq_comm]

end Sys2Proof.Proofs
end

section
/-! SUPPORT. What it is for a state, an access, an outcome or an event to leave memory in its canonical form, and how
folds, options and conditionals pass it on. -/

namespace Sys2Proof.Proofs

open Sys2Proof.Machine Sys2Proof.Safety Sys2Proof.Rules Sys2Proof.Laws

/-- Memory is in its canonical form. -/
def Canon (s : State) : Prop := memWf s.mem = true

/-! ### The same of each kind of answer: every state it carries is canonical -/

def CanonX {α : Type} (r : XRes α) : Prop :=
  match r with
  | .ok _ s | .fault _ s | .refuse _ s | .guard _ s | .wait s => Canon s

def CanonR (r : Res) : Prop :=
  match r with
  | .ok s | .trap _ _ s | .stall _ s | .left s => Canon s

def CanonN (o : Out) : Prop :=
  match o with
  | .next s => Canon s
  | _ => True

def CanonO (r : Option State) : Prop :=
  match r with
  | some s => Canon s
  | none => True

def CanonV (r : VRes) : Prop :=
  match r with
  | .done s _ | .more s _ | .fault s _ _ => Canon s

def CanonC (r : CmdOut) : Prop :=
  match r with
  | .done _ _ _ s | .later _ s | .wait s => Canon s

def CanonEX (r : EX) : Prop :=
  match r with
  | .ok _ s | .fault _ s | .wait s => Canon s

def CanonAX (r : AX) : Prop :=
  match r with
  | .ok _ _ s | .fault _ s | .wait s => Canon s

def CanonSRead (r : SRead) : Prop :=
  match r with
  | .ok _ s | .fault s | .bad s | .wait s => Canon s

def CanonSAddr (r : SAddr) : Prop :=
  match r with
  | .ok _ s | .fault s | .bad s | .wait s => Canon s

def CanonRecPlace (r : RecPlace) : Prop :=
  match r with
  | .at _ s | .wait s => Canon s

def CanonSpan (r : Span) : Prop :=
  match r with
  | .ok s | .fault s | .wait s => Canon s

def CanonCmdRead (r : CmdRead) : Prop :=
  match r with
  | .cmd _ _ s | .fault s | .bad s | .wait s => Canon s

def CanonWalkDone (r : WalkDone) : Prop :=
  match r with
  | .entry _ s => Canon s
  | _ => True

def CanonAnswer (r : Answer) : Prop :=
  match r with
  | .appended s => Canon s
  | _ => True

def CanonFst {α : Type} (p : State × α) : Prop := Canon p.1

def CanonSnd {α : Type} (p : α × State) : Prop := Canon p.2

/-- What an instruction of a queue does keeps memory canonical. -/
structure Keeps (op : VOp) : Prop where
  run : ∀ s e, Canon s → CanonV (op.run s e)

/-- What an offer answers, and what it leaves when nothing is appended. -/
def CanonSent (r : Answer × State) : Prop := CanonAnswer r.1 ∧ Canon r.2

/-! ### Folds, options and conditionals -/

theorem canon_foldl {α : Type} {f : State → α → State} (hf : ∀ t a, Canon t → Canon (f t a)) (l : List α) {s : State}
    (hs : Canon s) : Canon (l.foldl f s) :=
  l.foldlRecOn (motive := Canon) f hs fun _ h a _ => hf _ a h

theorem canon_foldr {α : Type} {f : α → State → State} (hf : ∀ a t, Canon t → Canon (f a t)) (l : List α) {s : State}
    (hs : Canon s) : Canon (l.foldr f s) :=
  l.foldrRecOn (motive := Canon) f hs fun _ h a _ => hf a _ h

theorem canonFst_foldl {α β : Type} {f : State × β → α → State × β} (hf : ∀ r a, CanonFst r → CanonFst (f r a))
    (l : List α) {r : State × β} (hr : CanonFst r) : CanonFst (l.foldl f r) :=
  l.foldlRecOn (motive := CanonFst) f hr fun _ h a _ => hf _ a h

theorem canonSnd_foldl {α β : Type} {f : β × State → α → β × State} (hf : ∀ r a, CanonSnd r → CanonSnd (f r a))
    (l : List α) {r : β × State} (hr : CanonSnd r) : CanonSnd (l.foldl f r) :=
  l.foldlRecOn (motive := CanonSnd) f hr fun _ h a _ => hf _ a h

theorem canonSpan_foldl {α : Type} {f : Span → α → Span} (hf : ∀ r a, CanonSpan r → CanonSpan (f r a))
    (l : List α) {r : Span} (hr : CanonSpan r) : CanonSpan (l.foldl f r) :=
  l.foldlRecOn (motive := CanonSpan) f hr fun _ h a _ => hf _ a h

theorem canonO_map {α : Type} {f : α → State} (o : Option α) (hf : ∀ a, Canon (f a)) : CanonO (o.map f) := by
  cases o with
  | none => trivial
  | some a => exact hf a

theorem canonO_mapState {f : State → State} {o : Option State} (ho : CanonO o) (hf : ∀ t, Canon t → Canon (f t)) :
    CanonO (o.map f) := by
  cases o with
  | none => trivial
  | some t => exact hf t ho

theorem canonO_bind {α : Type} {f : α → Option State} (o : Option α) (hf : ∀ a, CanonO (f a)) : CanonO (o.bind f) := by
  cases o with
  | none => trivial
  | some a => exact hf a

theorem canonO_findSome {α : Type} {f : α → Option State} (l : List α) (hf : ∀ a, CanonO (f a)) :
    CanonO (l.findSome? f) := by
  induction l with
  | nil => trivial
  | cons a l ih =>
    rw [List.findSome?_cons]
    have ha := hf a
    cases e : f a with
    | none => exact ih
    | some t => rwa [e] at ha

theorem canonO_orElse {a : Option State} {b : Unit → Option State} (ha : CanonO a) (hb : CanonO (b ())) :
    CanonO (a.orElse b) := by
  cases a with
  | none => exact hb
  | some t => exact ha

theorem canonO_ite {c : Prop} [Decidable c] {a b : Option State} (ha : CanonO a) (hb : CanonO b) :
    CanonO (if c then a else b) := by
  split <;> assumption

theorem canon_ite {c : Prop} [Decidable c] {a b : State} (ha : Canon a) (hb : Canon b) : Canon (if c then a else b) := by
  split <;> assumption

theorem canon_getD {o : Option State} (ho : CanonO o) {s : State} (hs : Canon s) : Canon (o.getD s) := by
  cases o with
  | none => exact hs
  | some t => exact ho

theorem keeps_some {op : VOp} (hop : Keeps op) : ∀ o, some op = some o → Keeps o :=
  fun _ e => Option.some.inj e ▸ hop

theorem canon_of_mem {s t : State} (hs : Canon s) (e : t.mem = s.mem) : Canon t := by
  rwa [Canon, e]

end Sys2Proof.Proofs
end

section
/-! SUPPORT. Memory, accesses and the ends of instructions keep memory in its canonical form: translation, targets, caches,
atomics, combining updates and barriers. -/

namespace Sys2Proof.Proofs

open Sys2Proof.Machine Sys2Proof.Safety Sys2Proof.Rules Sys2Proof.Laws

variable {s : State}

/-! ### `Machine/Mem` -/

theorem canon_pokeLoc (hs : Canon s) (t l bs) : Canon (pokeLoc s t l bs) := memWf_pokeLoc _ _ _ hs

theorem canon_writeLoc (hs : Canon s) (t l bs) : CanonO (writeLoc s t l bs) := by
  grind [writeLoc, Canon, CanonO, canon_pokeLoc]

theorem canon_writeParts (hs : Canon s) (t l bs) : CanonFst (writeParts s t l bs) := by
  unfold writeParts
  split
  · exact canon_pokeLoc hs t l bs
  · refine canonFst_foldl (fun r p hr => ?_) _ hs
    have one := canon_writeLoc hr t p.1 p.2
    split <;> rename_i e
    · rw [e] at one; exact one
    · exact hr

theorem canon_takeInput (hs : Canon s) (f) (hf : ∀ a t, Canon t → CanonO (f a t)) : CanonO (takeInput s f) := by
  grind [takeInput, Canon, CanonO]

theorem canon_setHart (hs : Canon s) (key h) : Canon (setHart s key h) := by
  unfold setHart
  split <;> exact hs

theorem canon_updHart (hs : Canon s) (key f) : Canon (updHart s key f) := by
  grind [updHart, Canon, canon_setHart]

theorem canon_focusOn (hs : Canon s) (key) : Canon (focusOn s key) := by
  unfold focusOn
  split <;> exact hs

theorem canon_atHart (hs : Canon s) (key f) (hf : ∀ t, Canon t → Canon (f t)) : Canon (atHart s key f) := by
  grind [atHart, Canon, canon_focusOn]

/-! ### `Machine/Windows` -/

theorem canon_setWin (hs : Canon s) (core n w) : Canon (setWin s core n w) := hs

theorem canon_putWindow (hs : Canon s) (core n pos bs) : CanonFst (putWindow s core n pos bs) := by
  grind [putWindow, Canon, CanonFst, canon_writeParts]

/-! ### `Machine/Access` -/

theorem canon_XRes_bind {α β : Type} {r : XRes α} (hr : CanonX r) (f : α → State → XRes β) (hf : ∀ a t, Canon t →
    CanonX (f a t)) :
    CanonX (XRes.bind r f) := by
  cases r with
  | ok a t => exact hf a t hr
  | _ => exact hr

theorem canon_freshFree (hs : Canon s) : CanonSnd (freshFree s) := hs

theorem canon_telemetry (hs : Canon s) (kind data data2) : Canon (telemetry s kind data data2) := by
  grind [telemetry, Canon, canon_pokeLoc]

theorem canon_telemetryOpen (hs : Canon s) (kind data data2) : Canon (telemetryOpen s kind data data2) := by
  grind [telemetryOpen, Canon, CanonSnd, canon_freshFree, canon_telemetry]

theorem canon_countEv (hs : Canon s) (core hid ev n) : Canon (countEv s core hid ev n) := by
  unfold countEv
  split <;> exact hs

theorem canon_markLeaf (hs : Canon s) (kind e pa) : CanonFst (markLeaf s kind e pa) := by
  grind [markLeaf, Canon, CanonFst, canon_pokeLoc]

theorem canon_fillCore (hs : Canon s) (core e) : Canon (fillCore s core e) := hs

theorem canon_fillGroup (hs : Canon s) (group e) : Canon (fillGroup s group e) := hs

theorem canon_sendAts (hs : Canon s) (r mine leaf pa size) : Canon (sendAts s r mine leaf pa size) := hs

theorem canon_askWalk (hs : Canon s) (req) : Canon (askWalk s req) := by
  grind [askWalk, Canon]

theorem canon_dropWalks (hs : Canon s) (hart) : Canon (dropWalks s hart) := hs

theorem canon_xlate (hs : Canon s) (hart T va k) : CanonX (xlate s hart T va k) := by
  grind [xlate, Canon, CanonX, canon_fillCore, canon_countEv, canon_askWalk]

theorem canon_useSlice (hs : Canon s) (cache l) : Canon (useSlice s cache l) := by
  unfold useSlice
  split <;> exact hs

theorem canon_useLines (hs : Canon s) (cache l n) : Canon (useLines s cache l n) :=
  canon_foldl (fun _ _ h => canon_useSlice h _ _) _ hs

theorem canon_walkNow (hs : Canon s) (T va k) : CanonWalkDone (walkNow s T va k) := by
  have folded (ws : List Nat) (e pa) : Canon (ws.foldl (fun s l => useSlice s 0 l) (markLeaf s k e pa).1) :=
    canon_foldl (fun _ _ h => canon_useSlice h _ _) _ (canon_markLeaf hs k e pa)
  grind [walkNow, CanonWalkDone]

theorem canon_siteCheck (hs : Canon s) (a twin b y off n ea) : CanonX (siteCheck s a twin b y off n ea) := by
  grind [siteCheck, Canon, CanonX]

theorem canon_resolve (hs : Canon s) (a ea n) : CanonX (resolve s a ea n) := by
  grind [resolve, Canon, CanonX, canon_siteCheck, canon_XRes_bind, canon_xlate, canon_useSlice]

theorem canon_ctlWrite (hs : Canon s) (core off v) : Canon (ctlWrite s core off v) := by
  unfold ctlWrite
  split <;> exact hs

theorem canon_doorbell (hs : Canon s) (q tail) : Canon (doorbell s q tail) := by
  grind [doorbell, Canon, canon_telemetryOpen]

theorem canon_ioRead (hs : Canon s) (a y off) : CanonSnd (ioRead s a y off) := by
  grind [ioRead, Canon, CanonSnd]

theorem canon_setPowerLimit (hs : Canon s) (w) : Canon (setPowerLimit s w) := by
  unfold setPowerLimit
  split <;> exact hs

theorem canon_portWrite (hs : Canon s) (p off v) : Canon (portWrite s p off v) := hs

theorem canon_ioWrite (hs : Canon s) (a y off v) : Canon (ioWrite s a y off v) := by
  grind [ioWrite, Canon, canon_portWrite, canon_doorbell, canon_setPowerLimit, canon_pokeLoc]

theorem canon_askFence (hs : Canon s) (core) : Canon (askFence s core) := by
  unfold askFence
  split <;> exact hs

theorem canon_readT (hs : Canon s) (hart t ea n) : CanonX (readT s hart t ea n) := by
  cases t with
  | io x y o => exact canon_ioRead hs x y o
  | far => exact canon_freshFree hs
  | ctl c o => exact hs
  | mem l k =>
    rw [readT]
    split
    · exact hs
    · split
      · split
        · exact canon_askFence hs _
        · exact canon_askFence hs _
      · exact hs

theorem canon_writeAt (hs : Canon s) (hart t ea bs) : CanonX (writeAt s hart t ea bs) := by
  cases t with
  | io x y o => exact canon_ioWrite hs x y o _
  | far => exact hs
  | ctl c o => exact canon_ctlWrite hs c o _
  | mem l k => grind [writeAt, CanonX, CanonO, canon_writeLoc]

theorem canon_setDLines (hs : Canon s) (core l) : Canon (setDLines s core l) := hs

theorem canon_dFill (hs : Canon s) (core hid a) : Canon (dFill s core hid a) := hs

theorem canon_dTouch (hs : Canon s) (core hid l) : Canon (dTouch s core hid l) := by
  grind [dTouch, Canon, canon_dFill, canon_countEv, canon_setDLines]

theorem canon_dLoad (hs : Canon s) (hart l tag ea n) : CanonX (dLoad s hart l tag ea n) := by
  grind [dLoad, Canon, CanonX, canon_XRes_bind, canon_readT, canon_dFill, canon_countEv]

theorem canon_dUpdate (hs : Canon s) (core l tag bs) : Canon (dUpdate s core l tag bs) := by
  unfold dUpdate
  split <;> exact hs

theorem canon_dGone (hs : Canon s) (core l) : Canon (dGone s core l) := by
  unfold dGone
  split <;> exact hs

theorem canon_dDrop (hs : Canon s) (core l) : Canon (dDrop s core l) := by
  grind [dDrop, Canon, canon_dGone]

theorem canon_acquire (hs : Canon s) (core) : Canon (acquire s core) := by
  unfold acquire
  split <;> exact hs

theorem canon_readC (hs : Canon s) (a t ea n) : CanonX (readC s a t ea n) := by
  have read := canon_readT hs a.hart t ea n
  cases t with
  | mem l k =>
    have touched := canon_XRes_bind read (fun v s1 => .ok v (dTouch s1 (a.hart / 8) (a.hart % 8) l))
      fun _ t ht => canon_dTouch ht _ _ l
    grind [readC, canon_dLoad]
  | _ => exact read

theorem canon_writeT (hs : Canon s) (hart t ea bs) : CanonX (writeT s hart t ea bs) := by
  grind [writeT, Canon, CanonX, canon_XRes_bind, canon_writeAt, canon_dDrop]

theorem canon_writeC (hs : Canon s) (hart t ea bs) : CanonX (writeC s hart t ea bs) := by
  grind [writeC, Canon, CanonX, canon_XRes_bind, canon_writeAt, canon_dUpdate]

theorem canon_loadX (hs : Canon s) (a ea n) : CanonX (loadX s a ea n) := by
  grind [loadX, Canon, CanonX, canon_XRes_bind, canon_resolve, canon_readC]

theorem canon_storeX (hs : Canon s) (a ea bs) : CanonX (storeX s a ea bs) := by
  grind [storeX, Canon, CanonX, canon_XRes_bind, canon_resolve, canon_writeC]

/-! ### `Machine/Ops` -/

theorem canon_wrS (hs : Canon s) (r v) : Canon (wrS s r v) := by
  unfold wrS
  split <;> exact hs

theorem canon_updH (hs : Canon s) (f) : Canon (updH s f) := hs

theorem canon_mergeFlags (hs : Canon s) (f) : Canon (mergeFlags s f) := hs

theorem canon_jumpTo (hs : Canon s) (t) : Canon (jumpTo s t) := hs

theorem canon_bumpLink (hs : Canon s) : Canon (bumpLink s) := by
  unfold bumpLink
  split <;> exact hs

theorem canon_savePut (hs : Canon s) (pages off bs) : Canon (savePut s pages off bs) := memWf_savePut _ _ _ hs

theorem canon_useSave (hs : Canon s) (pages off n) : Canon (useSave s pages off n) :=
  canon_foldl (fun _ _ h => canon_ite (canon_useLines h _ _ _) h) _ hs

theorem canon_writeRestart (hs : Canon s) (cause ra tval idx) : Canon (writeRestart s cause ra tval idx) := by
  grind [writeRestart, Canon, canon_savePut]

theorem canon_cutQueue (hs : Canon s) : Canon (cutQueue s) := hs

theorem canon_saveHart (hs : Canon s) (reason image cause ra tval idx) :
    Canon (saveHart s reason image cause ra tval idx) := by
  grind [saveHart, Canon, canon_cutQueue, canon_savePut]

theorem canon_enterHandler (hs : Canon s) (cause tval ra imp grace) :
    Canon (enterHandler s cause tval ra imp grace) := by
  grind [enterHandler, Canon, canon_updH, canon_bumpLink]

theorem canon_pushEvent (hs : Canon s) (e) : Canon (pushEvent s e) := by
  unfold pushEvent
  split <;> exact hs

theorem canon_mgmtReset (hs : Canon s) : Canon (mgmtReset s) := by
  grind [mgmtReset, Canon, canon_telemetryOpen, canon_updH]

theorem canon_deliver (hs : Canon s) (t ra imp idx) : Canon (deliver s t ra imp idx) := by
  grind [deliver, Canon, canon_mgmtReset, canon_updH, canon_cutQueue, canon_writeRestart, canon_enterHandler,
    canon_saveHart, canon_pushEvent]

theorem canon_countUnit (hs : Canon s) : Canon (countUnit s) := by
  have counted := canon_countEv hs s.hart.core (some s.hart.hid) 0x02 1
  unfold countUnit
  extract_lets s1
  exact canon_foldl (f := fun t n => { t with pmc := mapSet {} t.pmc n (mapGet {} s.pmc n) }) (fun _ _ h => h) _ counted

theorem canon_countLeft {t : State} (ht : Canon t) (s) : Canon (countLeft s t) := ht

theorem canon_advance (hs : Canon s) : Canon (advance s) := by
  grind [advance, Canon, canon_updH, canon_countUnit]

theorem canon_raise (hs : Canon s) (check t) : Canon (raise s check t) := by
  grind [raise, Canon, canon_updH, canon_deliver]

theorem canon_finish {r : Res} (hr : CanonR r) : CanonN (finish r) := by
  cases r with
  | ok t => exact canon_advance hr
  | trap c e t => exact canon_raise hr c e
  | stall b t => exact hr
  | left t => exact hr

theorem canon_stallOn (hs : Canon s) (b i) : CanonR (stallOn b i s) := hs

theorem canon_xtrap (hs : Canon s) (cause v) : CanonR (xtrap cause v s) := hs

theorem canon_illegal (hs : Canon s) (check) : CanonR (illegal check s) := hs

theorem canon_post (hs : Canon s) (guard t) : Canon (post s guard t) := by
  grind [post, Canon, canon_updH, canon_countEv]

theorem canon_ofLoad {α : Type} {r : XRes α} (hr : CanonX r) (f) (hf : ∀ a t, Canon t → CanonR (f a t)) :
    CanonR (ofLoad r f) := by
  cases r with
  | ok a t => exact hf a t hr
  | guard e t => exact canon_post hr true e
  | _ => exact hr

theorem canon_ofStore {r : XRes Unit} (hr : CanonX r) : CanonR (ofStore r) := by
  cases r with
  | refuse e t => exact canon_post hr false e
  | guard e t => exact canon_post hr true e
  | _ => exact hr

theorem canon_acquireIf (hs : Canon s) (b) : Canon (acquireIf b s) := by
  grind [acquireIf, Canon, canon_acquire]

theorem canon_afterQueue (hs : Canon s) (i f) (hf : ∀ t, Canon t → CanonR (f t)) : CanonR (afterQueue i s f) := by
  grind [afterQueue, Canon, CanonR, canon_stallOn]

theorem canon_iFill (hs : Canon s) (core a) : Canon (iFill s core a) := hs

theorem canon_fetchFrom (hs : Canon s) (core l tag pc) : CanonX (fetchFrom s core l tag pc) := by
  grind [fetchFrom, Canon, CanonX, canon_iFill]

theorem canon_fetchBundle (hs : Canon s) (pc) : CanonX (fetchBundle s pc) := by
  grind [fetchBundle, Canon, CanonX, canon_xlate, canon_fetchFrom, canon_useSlice]

/-! ### `Machine/Scalar` -/

theorem canon_result (hs : Canon s) (sd v) : CanonN (result s sd v) := by
  grind [result, Canon, CanonN, CanonR, canon_finish, canon_wrS]

/-! ### `Machine/ControlRegs` -/

theorem canon_withConvoy (hs : Canon s) (i f) (hf : ∀ t, Canon t → CanonR (f t)) : CanonR (withConvoy i s f) := by
  grind [withConvoy, Canon, CanonR, canon_updH]

theorem canon_cregMove (hs : Canon s) (i sd creg new) : CanonR (cregMove i sd creg new s) := by
  grind [cregMove, Canon, CanonR, canon_withConvoy, canon_stallOn, canon_updH, canon_countEv, canon_wrS]

theorem canon_mfcR (hs : Canon s) (sd creg) : CanonR (mfcR sd creg s) := by
  grind [mfcR, Canon, CanonR, canon_cregMove]

theorem canon_mtcR (hs : Canon s) (sd sa creg) : CanonR (mtcR sd sa creg s) := by
  grind [mtcR, Canon, CanonR, canon_cregMove]

theorem canon_setcR (hs : Canon s) (sd sa creg) : CanonR (setcR sd sa creg s) := by
  grind [setcR, Canon, CanonR, canon_cregMove]

theorem canon_clrcR (hs : Canon s) (sd sa creg) : CanonR (clrcR sd sa creg s) := by
  grind [clrcR, Canon, CanonR, canon_cregMove]

theorem canon_setLen (hs : Canon s) (i sd l v) : CanonN (setLen i sd l v s) := by
  grind [setLen, Canon, CanonN, CanonR, canon_finish, canon_withConvoy, canon_wrS, canon_updH]

/-! ### `Machine/VecCore` -/

theorem canon_retire (hs : Canon s) (f) : Canon (retire s f) := by
  grind [retire, Canon, canon_mergeFlags, canon_updH]

theorem canon_countGroups (hs : Canon s) (h e stop) : Canon (countGroups h e stop s) :=
  canon_ite hs (canon_countEv (canon_foldl (fun _ _ ht => canon_countEv ht _ _ _ _) _ hs) _ _ _ _)

theorem canon_countSteps (hs : Canon s) (h e) : Canon (countSteps h e s) := by
  grind [countSteps, Canon, canon_countEv]

theorem canon_settleRun {r : VRes} (hr : CanonV r) (h e0 f0 q) : Canon (settleRun h e0 r f0 q) := by
  cases r with
  | done s f =>
    exact canon_retire (s := updH _ _) (canon_updH (canon_countSteps (canon_countGroups hr _ _ _) _ _) _) _
  | more s e => exact canon_countGroups hr _ _ _
  | fault s e t => exact canon_countGroups hr _ _ _

theorem canon_clearView (hs : Canon s) (q) : Canon (clearView q s) := by
  unfold clearView
  split <;> exact hs

theorem canon_countResync (hs : Canon s) (i) : Canon (countResync i s) := by
  unfold countResync
  split <;> exact hs

theorem canon_enqueue {op : VOp} (hop : Keeps op) (hs : Canon s) (e) : Canon (enqueue op e s) :=
  canon_ite (canon_settleRun (hop.run s _ hs) _ _ _ _) hs

theorem canon_vissue {op : VOp} (hop : Keeps op) (hs : Canon s) (i sa sb) : CanonR (vissue i op sa sb s) := by
  grind [vissue, Canon, CanonR, Keeps, canon_withConvoy, canon_stallOn, canon_clearView, canon_enqueue,
    canon_countResync]

theorem canon_vexec {op : VOp} (hop : Keeps op) (hs : Canon s) (i sa sb) : CanonN (vexec i op sa sb s) := by
  grind [vexec, Canon, CanonN, CanonR, Keeps, canon_finish, canon_vissue]

theorem canon_atOrder (hs : Canon s) (n f) (hf : ∀ t, Canon t → Canon (f t)) : Canon (atOrder n s f) := by
  grind [atOrder, Canon, canon_updH]

theorem canon_runHead (hs : Canon s) (op) (hop : ∀ o, op = some o → Keeps o) (e q) : Canon (runHead op e q s) := by
  have bad (t : Trap) : Canon (updH s fun h => { h with pend := h.pend ++ [⟨some 0, t, e.order⟩] }) := hs
  unfold runHead
  split
  · exact bad _
  · split
    · exact bad _
    · rename_i o
      simp only []
      split
      · exact bad _
      · refine canon_atOrder hs _ _ fun t ht => canon_settleRun ?_ _ _ _ _
        exact (hop o rfl).run (updH _ _) _ (canon_updH (canon_countResync ht e.instr) _)

theorem canon_putResults (hs : Canon s) (vd b l) : CanonV (putResults s vd b l) := hs

theorem canon_elementWise (hs : Canon s) (vd b k f e) : CanonV (elementWise vd b k f s e) := hs

theorem keeps_binOp (acc vd va vb k f) : Keeps (binOp acc vd va vb k f) := by
  refine ⟨fun s e hs => ?_⟩
  simp only [binOp]
  exact canon_elementWise hs ..

theorem keeps_unOp (acc vd va k f) : Keeps (unOp acc vd va k f) := by
  refine ⟨fun s e hs => ?_⟩
  simp only [unOp]
  exact canon_elementWise hs ..

theorem keeps_wideOp (acc vd va vb k f) : Keeps (wideOp acc vd va vb k f) := by
  refine ⟨fun s e hs => ?_⟩
  simp only [wideOp]
  exact canon_elementWise hs ..

/-! ### `Machine/VecAddr` -/

theorem canon_coherentAt (hs : Canon s) (l n f) (hf : ∀ t, Canon t → CanonR (f t)) : CanonR (coherentAt s l n f) := by
  grind [coherentAt, Canon, CanonR]

theorem canon_coherent (hs : Canon s) (kind ea n f) (hf : ∀ t, Canon t → CanonR (f t)) :
    CanonR (coherent s kind ea n f) := by
  grind [coherent, Canon, CanonR, CanonX, canon_resolve, canon_coherentAt]

theorem canon_readRecord (hs : Canon s) (ea n f) (hf : ∀ a t, Canon t → CanonR (f a t)) :
    CanonR (readRecord s ea n f) := by
  grind [readRecord, Canon, CanonR, CanonX, canon_coherent, canon_ofLoad, canon_loadX]

theorem canon_released (hs : Canon s) (rel i f) (hf : ∀ t, Canon t → CanonR (f t)) : CanonR (released rel i s f) := by
  grind [released, Canon, CanonR, canon_afterQueue]

/-! ### `Machine/Atomics` -/

theorem canon_amoUnsupported (hs : Canon s) (t) : CanonSnd (amoUnsupported s t) := by
  cases t with
  | mem l k => grind [amoUnsupported, CanonSnd, canon_freshFree]
  | _ => exact hs

theorem canon_amoDrop (hs : Canon s) (t) : Canon (amoDrop s t) := by
  cases t with
  | mem l k => exact canon_dGone hs _ l
  | _ => exact hs

theorem canon_amoR (hs : Canon s) (op sd sa sb n) : CanonR (amoR op sd sa sb n s) := by
  grind [amoR, Canon, CanonR, CanonSnd, CanonX, canon_ofLoad, canon_XRes_bind, canon_resolve, canon_amoUnsupported,
    canon_readT, canon_amoDrop, canon_writeT, canon_wrS]

theorem canon_amoAcquire {r : Res} (hr : CanonR r) (sem scope) : CanonR (amoAcquire sem scope r) := by
  cases r with
  | ok t => exact canon_acquireIf hr _
  | _ => exact hr

theorem canon_atomic (hs : Canon s) (i op sd sa sb sz sem scope) : CanonN (atomic i op sd sa sb sz sem scope s) := by
  grind [atomic, Canon, CanonN, CanonR, canon_finish, canon_released, canon_coherent, canon_amoAcquire, canon_amoR]

/-! ### `Machine/Combine` -/

theorem canon_applyCombine (hs : Canon s) (c) : Canon (applyCombine s c) := by
  grind [applyCombine, Canon, canon_askFence, canon_pokeLoc]

theorem canon_retireWhere (hs : Canon s) (bank p) : Canon (retireWhere s bank p) :=
  canon_foldl (fun _ _ h => canon_applyCombine h _) _ hs

theorem canon_retireBank (hs : Canon s) (bank) : Canon (retireBank s bank) := by
  grind [retireBank, Canon, canon_retireWhere]

theorem canon_retireCore (hs : Canon s) (core) : Canon (retireCore s core) :=
  canon_foldl (fun _ _ h => canon_retireBank h _) _ hs

theorem canon_combineIn (hs : Canon s) (v) : Canon (combineIn s v) := by
  have first (b : Nat) : Canon (retireWhere s b fun c => c.loc == v.loc) := canon_retireWhere hs b _
  have folded {t : State} (ht : Canon t) (l : List Combine) : Canon (l.foldl applyCombine t) :=
    canon_foldl (fun _ _ h => canon_applyCombine h _) l ht
  grind [combineIn, Canon]

theorem canon_mapLoose (hs : Canon s) (f) : Canon (mapLoose s f) := hs

theorem canon_postTo (hs : Canon s) (key job p) : Canon (postTo s key job p) := by
  grind [postTo, Canon, canon_updHart, canon_mapLoose]

theorem canon_arriveVamo (hs : Canon s) (v) : Canon (arriveVamo s v) := by
  grind [arriveVamo, Canon, canon_postTo, canon_countEv, canon_combineIn]

theorem canon_arriveWhere (hs : Canon s) (p) : Canon (arriveWhere s p) :=
  canon_foldl (fun _ _ h => canon_arriveVamo h _) _ hs

theorem canon_flushVamo (hs : Canon s) : Canon (flushVamo s) :=
  canon_foldl (fun _ _ h => canon_retireBank h _) _ (canon_arriveWhere hs _)

/-! ### `Machine/Barrier` -/

theorem canon_setBar (hs : Canon s) (b a) : Canon (setBar s b a) := hs

theorem canon_wrHart (hs : Canon s) (key r v) : Canon (wrHart s key r v) := by
  grind [wrHart, Canon, canon_updHart]

theorem canon_applyArrival (hs : Canon s) (a) : Canon (applyArrival s a) := by
  grind [applyArrival, Canon, canon_wrHart, canon_setBar]

theorem canon_applyArrivals (hs : Canon s) : Canon (applyArrivals s) :=
  canon_foldl (fun _ _ h => canon_applyArrival h _) _ hs

theorem canon_execBarrierArrival (hs : Canon s) : CanonN (execBarrierArrival s) := by
  unfold execBarrierArrival
  split
  · exact hs
  · rename_i a t _
    exact canon_applyArrival (s := { s with arrivals := t }) hs a

theorem canon_arriveR (hs : Canon s) (i sd handle form a y) : CanonR (arriveR i sd handle form a y s) := by
  grind [arriveR, Canon, CanonR, canon_wrS, canon_afterQueue, canon_applyArrivals]

theorem canon_execBarInit (hs : Canon s) (sd sa sb) : CanonN (execBarInit sd sa sb s) := by
  grind [execBarInit, Canon, CanonN, CanonR, canon_finish, canon_wrS, canon_setBar]

theorem canon_timedWait (hs : Canon s) (i sd acq holds limit) : CanonR (timedWait i sd acq holds limit s) := by
  grind [timedWait, Canon, CanonR, canon_wrS, canon_acquireIf, canon_stallOn]

theorem canon_execBarWait (hs : Canon s) (sd sa sel) : CanonN (execBarWait sd sa sel s) := by
  grind [execBarWait, Canon, CanonN, CanonR, canon_finish, canon_wrS, canon_acquireIf, canon_stallOn]

theorem canon_execBarWaitt (hs : Canon s) (sd sa sb) : CanonN (execBarWaitt sd sa sb s) := by
  grind [execBarWaitt, Canon, CanonN, CanonR, canon_finish, canon_wrS, canon_timedWait]

end Sys2Proof.Proofs
end

section
/-! SUPPORT. Jobs, translation by agents, coding commands, control transfers, abandonment, fences and the job instructions keep
memory in its canonical form. -/

namespace Sys2Proof.Proofs

open Sys2Proof.Machine Sys2Proof.Safety Sys2Proof.Rules Sys2Proof.Laws

variable {s : State}

/-! ### `Machine/Jobs` -/

theorem canon_placeOf (hs : Canon s) (e va n) : CanonAX (placeOf s e va n) := by
  grind [placeOf, Canon, CanonAX, canon_useLines]

theorem canon_agentEntry (hs : Canon s) (a T va k) : CanonEX (agentEntry s a T va k) := by
  grind [agentEntry, Canon, CanonEX, CanonWalkDone, canon_askWalk, canon_walkNow, canon_fillGroup, canon_sendAts]

theorem canon_agentXlate (hs : Canon s) (a T va n k) : CanonAX (agentXlate s a T va n k) := by
  grind [agentXlate, Canon, CanonAX, CanonEX, canon_agentEntry, canon_placeOf]

theorem canon_writeRecord (hs : Canon s) (T va bs) : Canon (writeRecord s T va bs) := by
  have place := canon_agentXlate hs recordAgent T va bs.length .write
  unfold writeRecord
  split <;> rename_i e <;> rw [e] at place
  · exact canon_getD (canon_writeLoc place _ _ _) place
  · exact place
  · exact place

theorem canon_readAgent (hs : Canon s) (a T va n) : CanonSnd (readAgent s a T va n) := by
  grind [readAgent, Canon, CanonAX, CanonSnd, canon_agentXlate]

theorem canon_recordUnrun (hs : Canon s) (r tenant id index status) :
    Canon (recordUnrun s r tenant id index status) := by
  grind [recordUnrun, Canon, canon_writeRecord]

theorem canon_setTree (hs : Canon s) (id t) : Canon (setTree s id t) := hs

theorem canon_newTree (hs : Canon s) (tenant deadline) : CanonSnd (newTree s tenant deadline) := hs

theorem canon_newJobId (hs : Canon s) (creator) : CanonSnd (newJobId s creator) := hs

theorem canon_setReady (hs : Canon s) (core l) : Canon (setReady s core l) := hs

theorem canon_stamp (hs : Canon s) (j) : CanonSnd (stamp s j) := hs

theorem canon_pushReady (hs : Canon s) (core j) : Canon (pushReady s core j) := hs

theorem canon_appendReady (hs : Canon s) (core j fresh) : Canon (appendReady s core j fresh) := by
  unfold appendReady
  split <;> exact hs

theorem canon_returnReady (hs : Canon s) (core j) : Canon (returnReady s core j) := hs

theorem canon_takeReady (hs : Canon s) (core j) : Canon (takeReady s core j) := hs

theorem canon_setCtr (hs : Canon s) (n c) : Canon (setCtr s n c) := hs

theorem canon_pushPool (hs : Canon s) (j) : Canon (pushPool s j) := hs

theorem canon_createJob (hs : Canon s) (r tenant tree creator) : CanonSnd (createJob s r tenant tree creator) := hs

theorem canon_reachZero (hs : Canon s) (n) : Canon (reachZero s n) := by
  grind [reachZero, Canon, CanonSnd, canon_setCtr, canon_createJob, canon_pushPool]

theorem canon_counterError (hs : Canon s) (n) : Canon (counterError s n) := by
  grind [counterError, Canon, canon_setCtr, canon_recordUnrun]

theorem canon_depDecStep (hs : Canon s) (n d) : Canon (depDecStep s n d) := by
  grind [depDecStep, Canon, canon_setCtr, canon_reachZero, canon_counterError]

theorem canon_decOwned (hs : Canon s) (n d tenant) : Canon (decOwned s n d tenant) := by
  grind [decOwned, Canon, canon_depDecStep]

theorem canon_recordEnd (hs : Canon s) (j status core hid pc jprog) :
    Canon (recordEnd s j status core hid pc jprog) := by
  grind [recordEnd, Canon, canon_decOwned, canon_writeRecord]

theorem canon_endFocus (hs : Canon s) (status) : Canon (endFocus s status) := by
  grind [endFocus, Canon, canon_recordEnd, canon_dropWalks]

theorem canon_expireFocus (hs : Canon s) : Canon (expireFocus s) := by
  grind [expireFocus, Canon, canon_endFocus, canon_updH]

theorem canon_endHart (hs : Canon s) (key status) : Canon (endHart s key status) := by
  grind [endHart, Canon, canon_atHart, canon_endFocus]

theorem canon_endLoose (hs : Canon s) (j status) : Canon (endLoose s j status) := by
  grind [endLoose, Canon, canon_recordEnd]

theorem canon_translateSave (hs : Canon s) (T a) : CanonSnd (translateSave s T a) := by
  induction a generalizing s with
  | nil => exact hs
  | cons va rest ih =>
    have one := canon_walkNow hs T va .write
    rw [translateSave]
    cases r : walkNow s T va .write <;> rw [r] at one
    case entry e t =>
      simp only []
      split
      · exact ih one
      · exact one
    all_goals exact hs

/-! ### `Machine/Coding` -/

theorem canon_useCode (hs : Canon s) (c a n) : Canon (useCode s c a n) := by
  grind [useCode, Canon, canon_useLines]

theorem canon_codeFences (hs : Canon s) (c a n) : Canon (codeFences s c a n) :=
  canon_foldl (fun _ _ h => canon_ite (canon_askFence h _) h) _ hs

theorem canon_codePut {e : State × Bool} (he : CanonFst e) (c a b d) : CanonFst (codePut c a b d e) := by
  induction a generalizing b d e with
  | zero => exact he
  | succ n ih =>
    obtain ⟨s, bad⟩ := e
    rw [codePut]
    split
    · exact he
    · refine ih (?_ : Canon _) _ _
      simp only []
      split
      · exact he
      · exact canon_writeParts (canon_useCode he _ _ _) _ _ _

theorem canon_codeStore (hs : Canon s) (c a bs) : CanonFst (codeStore s c a bs) := by
  grind [codeStore, Canon, CanonFst, canon_codePut]

theorem canon_setEng (hs : Canon s) (n e) : Canon (setEng s n e) := hs

theorem canon_codingRecord (hs : Canon s) (n c status d1) : Canon (codingRecord s n c status d1) := by
  grind [codingRecord, Canon, CanonFst, canon_codeStore, canon_decOwned]

theorem canon_useInput (hs : Canon s) (c a n) : Canon (useInput s c a n) :=
  canon_foldl (fun _ _ h => canon_useCode h _ _ _) _ hs

theorem canon_codeRun {s0 : State} (hs0 : Canon s0) (n c) : Canon (codeRun s0 n c) := by
  grind [codeRun, Canon, CanonFst, canon_useInput, canon_codeStore, canon_codingRecord, canon_codeFences]

theorem canon_codingStart (hs : Canon s) (n) : Canon (codingStart s n) := hs

theorem canon_codingEnd (hs : Canon s) (n) : Canon (codingEnd s n) := by
  grind [codingEnd, Canon, canon_codeRun, canon_setEng]

theorem canon_execCodingCommandStart (hs : Canon s) : CanonN (execCodingCommandStart s) := by
  unfold execCodingCommandStart
  split
  · exact canon_codingStart hs _
  · exact hs

theorem canon_execCodingCommandEnd (hs : Canon s) : CanonN (execCodingCommandEnd s) := by
  unfold execCodingCommandEnd
  split
  · exact canon_codingEnd hs _
  · exact hs

theorem canon_postPage (hs : Canon s) (a k) : CanonX (postPage s a k) := by
  grind [postPage, Canon, CanonX, canon_XRes_bind, canon_resolve]

theorem canon_postPages (hs : Canon s) (a) : CanonX (postPages s a) := by
  induction a generalizing s with
  | nil => exact hs
  | cons p l ih =>
    exact canon_XRes_bind (canon_postPage hs _ _) _ fun _ t ht => canon_XRes_bind (ih ht) _ fun _ _ hu => hu

theorem canon_postCoding (hs : Canon s) (sd sel c) : Canon (postCoding sd sel c s) := by
  grind [postCoding, Canon, canon_wrS, canon_setEng]

theorem canon_cpostR (hs : Canon s) (sd sa sb) : CanonR (cpostR sd sa sb s) := by
  grind [cpostR, Canon, CanonR, CanonX, canon_readRecord, canon_wrS, canon_ofLoad, canon_postPages, canon_afterQueue,
    canon_postCoding]

/-! ### `Machine/Control` -/

theorem canon_branchIf (hs : Canon s) (c off) : CanonN (branchIf c off s) := by
  grind [branchIf, Canon, CanonN, CanonR, canon_finish, canon_jumpTo]

theorem canon_rsPush (hs : Canon s) (ra f) (hf : ∀ t, Canon t → CanonR (f t)) : CanonR (rsPush s ra f) := by
  grind [rsPush, Canon, CanonR, canon_updH, canon_xtrap, canon_coherentAt, canon_pokeLoc]

theorem canon_popTo {s1 : State} (hs : Canon s) (hs1 : Canon s1) (t f) (hf : ∀ a t, Canon t → CanonR (f a t)) :
    CanonR (popTo t s s1 f) := by
  grind [popTo, Canon, CanonR, canon_xtrap]

theorem canon_rsPop (hs : Canon s) (f) (hf : ∀ a t, Canon t → CanonR (f a t)) : CanonR (rsPop s f) := by
  grind [rsPop, Canon, CanonR, canon_popTo, canon_updH, canon_xtrap, canon_coherentAt, canon_askFence]

theorem canon_regTarget (hs : Canon s) (sa f) (hf : ∀ a, CanonR (f a)) : CanonR (regTarget s sa f) := by
  grind [regTarget, Canon, CanonR, canon_xtrap]

theorem canon_execCall (hs : Canon s) (off) : CanonN (execCall off s) := by
  grind [execCall, Canon, CanonN, CanonR, canon_finish, canon_rsPush, canon_jumpTo]

theorem canon_execJr (hs : Canon s) (sa) : CanonN (execJr sa s) := by
  grind [execJr, Canon, CanonN, CanonR, canon_finish, canon_regTarget, canon_jumpTo]

theorem canon_execCallr (hs : Canon s) (sa) : CanonN (execCallr sa s) := by
  grind [execCallr, Canon, CanonN, CanonR, canon_finish, canon_regTarget, canon_rsPush, canon_jumpTo]

theorem canon_execRet (hs : Canon s) : CanonN (execRet s) := by
  grind [execRet, Canon, CanonN, CanonR, canon_finish, canon_rsPop, canon_jumpTo]

theorem canon_execLoop (hs : Canon s) (sa off) : CanonN (execLoop sa off s) := by
  grind [execLoop, Canon, CanonN, CanonR, canon_wrS, canon_finish, canon_jumpTo]

/-! ### `Machine/Abandon` -/

theorem canon_dropLoose (hs : Canon s) (j) : Canon (dropLoose s j) := by
  grind [dropLoose, Canon, canon_endLoose, canon_recordUnrun]

theorem canon_removeLoose (hs : Canon s) (p) : Canon (removeLoose s p) := hs

theorem canon_dropGang (hs : Canon s) (g) : Canon (dropGang s g) :=
  canon_foldl (fun _ _ h => canon_recordUnrun h _ _ _ _ _) _ hs

theorem canon_dropCounter (hs : Canon s) (n) : Canon (dropCounter s n) := by
  grind [dropCounter, Canon, canon_setCtr, canon_recordUnrun]

theorem canon_expireHart (hs : Canon s) (tval key) : Canon (expireHart tval s key) := by
  grind [expireHart, Canon, canon_updHart]

theorem canon_cancelLists (hs : Canon s) (id) : Canon (cancelLists s id) := hs

theorem canon_cancelCoding (hs : Canon s) (id) : Canon (cancelCoding s id) :=
  canon_foldl (fun _ _ h => canon_foldl (fun _ _ h => canon_codingRecord h _ _ _ _) _ (canon_setEng h _ _)) _ hs

theorem canon_abandonTree (hs : Canon s) (id byOp) : Canon (abandonTree s id byOp) := by
  unfold abandonTree
  split
  · exact hs
  · refine canon_ite hs ?_
    extract_lets tval mine s0 s1 gangs d s2 ctrs s3 harts s4
    have h1 : Canon s1 := canon_removeLoose (canon_foldl (fun _ _ h => canon_dropLoose h _) _ (canon_setTree hs _ _)) mine
    clear_value s1
    have h2 : Canon s2 := canon_foldl (fun _ _ h => canon_dropGang h _) _ (canon_of_mem h1 rfl)
    have h3 : Canon s3 := canon_foldl (fun _ _ h => canon_dropCounter h _) _ h2
    have h4 : Canon s4 := canon_foldl (fun _ _ h => canon_expireHart h _ _) _ h3
    exact canon_cancelCoding (canon_cancelLists h4 id) id

theorem canon_rekey (hs : Canon s) (id core) : Canon (rekey s id core) :=
  canon_ite hs (canon_foldr (fun _ _ h => canon_ite (canon_setReady h _ _) (canon_pushPool h _)) _ (canon_setReady hs _ _))

theorem canon_reconsider (hs : Canon s) : Canon (reconsider s) :=
  canon_foldl (fun _ _ h => canon_ite (canon_updHart h _ _) h) _ hs

theorem canon_applySetdl (hs : Canon s) (r) : Canon (applySetdl s r) := by
  unfold applySetdl
  split
  · exact hs
  · rename_i t e
    have rekeyed : Canon ((List.range 96).foldl (fun s c => rekey s r.tree c) (setTree s r.tree { t with deadline := r.deadline })) :=
      canon_foldl (fun _ _ h => canon_rekey h _ _) _ (canon_setTree hs _ _)
    have told (l : List Nat) := canon_reconsider (canon_foldl (f := fun t k => updHart t k fun h => { h with jdl := r.deadline })
      (fun _ _ h => canon_updHart h _ _) l rekeyed)
    exact canon_ite hs (canon_ite (canon_abandonTree (told _) _ _) (told _))

/-! ### `Machine/Bind` -/

theorem canon_clearValid (hs : Canon s) (pages) : Canon (clearValid s pages) := by
  grind [clearValid, Canon, canon_savePut]

theorem canon_occupy (hs : Canon s) (j) : Canon (occupy s j) := by
  grind [occupy, Canon, canon_updH, canon_clearValid, canon_useSave, canon_bumpLink, canon_acquire]

theorem canon_resumeHere (hs : Canon s) : Canon (resumeHere s) := by
  grind [resumeHere, Canon, canon_updH, canon_occupy]

theorem canon_failBind (hs : Canon s) (index j) : Canon (failBind s index j) := by
  grind [failBind, Canon, canon_recordEnd]

theorem canon_bindFrom (hs : Canon s) (index core hid j) : Canon (bindFrom s index core hid j) := by
  grind [bindFrom, Canon, CanonSnd, canon_atHart, canon_occupy, canon_translateSave, canon_failBind]

theorem canon_bindJob (hs : Canon s) (core hid j) : Canon (bindJob s core hid j) := by
  grind [bindJob, Canon, canon_bindFrom]

theorem canon_putBack (hs : Canon s) (atSteal) : Canon (putBack s atSteal) := by
  unfold putBack
  split <;> exact hs

theorem canon_reissue (hs : Canon s) : Canon (reissue s) := by
  grind [reissue, Canon, canon_clearValid, canon_useSave, canon_updH]

/-! ### `Machine/Fences` -/

theorem canon_fenceR (hs : Canon s) (kind scope) : CanonR (fenceR kind scope s) := by
  grind [fenceR, Canon, CanonR, canon_afterQueue, canon_acquireIf]

theorem canon_lsyncR (hs : Canon s) : CanonR (lsyncR s) := by
  unfold lsyncR
  split <;> exact hs

theorem canon_vfenceR (hs : Canon s) : CanonR (vfenceR s) := by
  grind [vfenceR, Canon, CanonR, canon_afterQueue, canon_flushVamo]

theorem canon_qfenceR (hs : Canon s) : CanonR (qfenceR s) := by
  unfold qfenceR
  split <;> exact hs

/-! ### `Machine/JobOps` -/

theorem canon_statusIn (hs : Canon s) (sd n) : CanonR (statusIn s sd n) := by
  grind [statusIn, Canon, CanonR, canon_wrS]

theorem canon_placeSpawn (hs : Canon s) (sd r) : CanonR (placeSpawn sd r s) := by
  grind [placeSpawn, Canon, CanonR, CanonSnd, canon_createJob, canon_statusIn, canon_pushReady, canon_pushPool]

theorem canon_execSpawn (hs : Canon s) (sd sa) : CanonN (execSpawn sd sa s) := by
  grind [execSpawn, Canon, CanonN, CanonR, canon_finish, canon_readRecord, canon_statusIn, canon_afterQueue,
    canon_placeSpawn]

theorem canon_gangIds (hs : Canon s) (a) : CanonSnd (gangIds s a) := by
  induction a generalizing s with
  | zero => exact hs
  | succ n ih => exact ih (canon_newJobId hs 255)

theorem canon_queueGang (hs : Canon s) (tenant tree r m) : Canon (queueGang s tenant tree r m) := by
  grind [queueGang, Canon, CanonSnd, canon_gangIds]

theorem canon_execGang (hs : Canon s) (sd sa sb) : CanonN (execGang sd sa sb s) := by
  grind [execGang, Canon, CanonN, CanonR, canon_finish, canon_readRecord, canon_statusIn, canon_afterQueue,
    canon_queueGang]

theorem canon_releaseAll (hs : Canon s) (i f) (hf : ∀ t, Canon t → CanonR (f t)) : CanonR (releaseAll i s f) := by
  grind [releaseAll, Canon, CanonR, canon_flushVamo, canon_stallOn]

theorem canon_exitNow (hs : Canon s) (sa) : Canon (exitNow sa s) := by
  grind [exitNow, Canon, canon_decOwned, canon_endFocus, canon_updH]

theorem canon_yieldNow (hs : Canon s) : Canon (yieldNow s) := by
  grind [yieldNow, Canon, canon_saveHart, canon_updH, canon_expireFocus, canon_putBack]

theorem canon_execAbandon (hs : Canon s) (sd sa) : CanonN (execAbandon sd sa s) := by
  grind [execAbandon, Canon, CanonN, CanonR, canon_finish, canon_statusIn, canon_abandonTree]

theorem canon_execSetdl (hs : Canon s) (sd sa) : CanonN (execSetdl sd sa s) := by
  grind [execSetdl, Canon, CanonN, CanonR, canon_finish, canon_wrS]

theorem canon_withCounter (hs : Canon s) (sd sa f) (hf : ∀ a t, Canon t → CanonR (f a t)) :
    CanonR (withCounter sd sa s f) := by
  grind [withCounter, Canon, CanonR, canon_statusIn]

theorem canon_armCounter (hs : Canon s) (sd n count copy) : CanonR (armCounter sd n count copy s) := by
  grind [armCounter, Canon, CanonR, canon_setCtr, canon_statusIn, canon_reachZero]

theorem canon_execDepInit (hs : Canon s) (sd sa sb) : CanonN (execDepInit sd sa sb s) := by
  grind [execDepInit, Canon, CanonN, CanonR, canon_finish, canon_withCounter, canon_statusIn, canon_armCounter,
    canon_readRecord]

theorem canon_execDepAdd (hs : Canon s) (sd sa sb) : CanonN (execDepAdd sd sa sb s) := by
  grind [execDepAdd, Canon, CanonN, CanonR, canon_finish, canon_withCounter, canon_statusIn, canon_counterError,
    canon_setCtr]

theorem canon_execDepGet (hs : Canon s) (sd sa) : CanonN (execDepGet sd sa s) := by
  grind [execDepGet, Canon, CanonN, CanonR, canon_finish, canon_statusIn, canon_acquireIf]

end Sys2Proof.Proofs
end

section
/-! SUPPORT. The vector and matrix instructions keep memory in its canonical form: each by the builder it is made with. -/

namespace Sys2Proof.Proofs

open Sys2Proof.Machine Sys2Proof.Safety Sys2Proof.Rules Sys2Proof.Laws

variable {s : State}

/-! ### `Machine/VecInt` -/

theorem keeps_intOp (vd va vb k f) : Keeps (intOp vd va vb k f) := keeps_binOp _ _ _ _ _ _

theorem canon_vexec0 {op : VOp} (hop : Keeps op) (hs : Canon s) (i) : CanonN (vexec0 i op s) := by
  grind [vexec0, Canon, CanonN, Keeps, canon_vexec]

theorem keeps_opVnclip (vd va vb k) : Keeps (opVnclip vd va vb k) := ⟨fun _ _ hs => hs⟩

theorem keeps_divOp (f vd va vb k) : Keeps (divOp f vd va vb k) := keeps_intOp _ _ _ _ _

/-! ### `Machine/VecFp` -/

theorem keeps_fpBin (vd va vb k f) : Keeps (fpBin vd va vb k f) := keeps_binOp _ _ _ _ _ _

theorem keeps_fpUn (vd va k f) : Keeps (fpUn vd va k f) := keeps_unOp _ _ _ _ _

theorem keeps_fmaOp (np nc vd va vb k) : Keeps (fmaOp np nc vd va vb k) := keeps_binOp _ _ _ _ _ _

theorem keeps_cvtOp (rtz vd va dt k) : Keeps (cvtOp rtz vd va dt k) := by
  refine ⟨fun s e hs => ?_⟩
  simp only [cvtOp]
  exact canon_elementWise hs ..

theorem keeps_spUn (vd va k f) : Keeps (spUn vd va k f) := keeps_unOp _ _ _ _ _

/-! ### `Machine/VecMask` -/

theorem keeps_cmpOp (acc kd va vb k rel) : Keeps (cmpOp acc kd va vb k rel) := ⟨fun _ _ hs => hs⟩

theorem keeps_maskOp (f) (hf : ∀ t a, Canon t → Canon (f t a)) : Keeps (maskOp f) := ⟨fun s e hs => hf s e hs⟩

theorem keeps_logicOp (kd ka kb f) : Keeps (logicOp kd ka kb f) := keeps_maskOp _ fun _ _ h => h

theorem keeps_opKpopc (sd ka) : Keeps (opKpopc sd ka) := keeps_maskOp _ fun _ _ h => canon_wrS h _ _

theorem keeps_opKfirst (sd ka) : Keeps (opKfirst sd ka) := keeps_maskOp _ fun _ _ h => canon_wrS h _ _

/-! ### `Machine/VecPermute` -/

theorem canon_moveElems (hs : Canon s) (vd b l) : CanonV (moveElems s vd b l) := hs

theorem keeps_permOp (acc regs vd f) : Keeps (permOp acc regs vd f) := ⟨fun _ _ hs => canon_moveElems hs _ _ _⟩

theorem keeps_wholePerm (regs vd k f) : Keeps (wholePerm regs vd k f) := keeps_permOp _ _ _ _

theorem keeps_elemPerm (acc regs vd k f) : Keeps (elemPerm acc regs vd k f) := keeps_permOp _ _ _ _

theorem keeps_opVmvs (sd va a) : Keeps (opVmvs sd va a) := ⟨fun _ _ hs => canon_wrS hs _ _⟩

/-! ### `Machine/VecReduce` -/

theorem keeps_redOp (acc sd va k f) : Keeps (redOp acc sd va k f) := ⟨fun _ _ hs => canon_wrS hs _ _⟩

theorem keeps_intRedOp (sd va k f) : Keeps (intRedOp sd va k f) := keeps_redOp _ _ _ _ _

theorem keeps_fpRedOp (sd va k f) : Keeps (fpRedOp sd va k f) := keeps_redOp _ _ _ _ _

/-! ### `Machine/VecComplex` -/

theorem keeps_cBin (vd va vb k f) : Keeps (cBin vd va vb k f) := keeps_binOp _ _ _ _ _ _

theorem keeps_cSumOp (vd va vb k f) : Keeps (cSumOp vd va vb k f) := keeps_cBin _ _ _ _ _

theorem keeps_flyOp (vd va vb k radix sh f) : Keeps (flyOp vd va vb k radix sh f) :=
  ⟨fun _ _ hs => canon_putResults hs _ _ _⟩

/-! ### `Machine/VecMem` -/

theorem canon_runGroups {u : State} (hu : Canon u) (f) (hf : ∀ t a, Canon t → CanonX (f t a)) (e a b) :
    CanonV (runGroups f e a b u) := by
  have told {t : State} (ht : Canon t) (g : Option Trap) : Canon (match g with | none => t | some x => post t true x) := by
    cases g with
    | none => exact ht
    | some x => exact canon_post ht true x
  induction a generalizing b u with
  | nil => exact told hu b
  | cons p rest ih =>
    have one := hf u p.2 hu
    rw [runGroups]
    cases r : f u p.2 <;> rw [r] at one
    case ok g t => exact ih one (b.or g)
    all_goals exact told one b

theorem canon_resolveAll (hs : Canon s) (kind n a) : CanonX (resolveAll s kind n a) := by
  induction a generalizing s with
  | nil => exact hs
  | cons p l ih =>
    exact canon_XRes_bind (canon_resolve hs _ _ _) _ fun _ t ht => canon_XRes_bind (ih ht) _ fun _ _ hu => hu

theorem canon_readAll (hs : Canon s) (n a) : CanonX (readAll s n a) := by
  induction a generalizing s with
  | nil => exact hs
  | cons p l ih =>
    exact canon_XRes_bind (canon_readT hs _ _ _ _) _ fun _ t ht => canon_XRes_bind (ih ht) _ fun _ _ hu => hu

theorem canon_writeAll (hs : Canon s) (f a b) : CanonX (writeAll s f a b) := by
  induction a generalizing s b with
  | nil => exact hs
  | cons p l ih =>
    obtain ⟨i, ea, x⟩ := p
    have one := canon_writeT hs s.hart.key x ea (f i)
    rw [writeAll]
    cases r : writeT s s.hart.key x ea (f i) <;> rw [r] at one
    case ok => exact ih one b
    case guard e t => exact ih one _
    all_goals exact one

theorem canon_XRes_orElse {α : Type} {r : XRes α} (hr : CanonX r) (hs : Canon s) : CanonX (XRes.orElse r s) := by
  cases r with
  | ok a t => exact hr
  | wait t => exact hr
  | _ => exact hs

theorem canon_loadRun (hs : Canon s) (m idx vd k e0) : CanonV (loadRun m idx vd k s e0) := by
  grind [loadRun, Canon, CanonV, CanonX, canon_runGroups, canon_XRes_bind, canon_resolveAll, canon_readAll,
    canon_updH]

theorem canon_storeRun (hs : Canon s) (m idx vd k e) : CanonV (storeRun m idx vd k s e) := by
  grind [storeRun, Canon, CanonV, CanonX, canon_runGroups, canon_XRes_bind, canon_resolveAll, canon_XRes_orElse,
    canon_writeAll]

theorem keeps_moveOp (store nib m vd k ew) : Keeps (moveOp store nib m vd k ew) := by
  refine ⟨fun s e hs => ?_⟩
  cases store
  · exact canon_loadRun hs ..
  · exact canon_storeRun hs ..

theorem keeps_indexOp (store vd vx k ew) : Keeps (indexOp store vd vx k ew) := by
  refine ⟨fun s e hs => ?_⟩
  cases store
  · exact canon_loadRun hs ..
  · exact canon_storeRun hs ..

theorem canon_vldwGroup (hs : Canon s) (vd wn chunk e a) : CanonX (vldwGroup vd wn chunk e s a) := by
  grind [vldwGroup, Canon, CanonX, canon_askFence, canon_updH]

theorem keeps_opVldw (vd wn chunk k ew) : Keeps (opVldw vd wn chunk k ew) := by
  refine ⟨fun s e hs => ?_⟩
  simp only [opVldw]
  split
  · exact hs
  · exact canon_runGroups hs _ (fun _ _ ht => canon_vldwGroup ht _ _ _ _ _) _ _ _

theorem canon_execVldw (hs : Canon s) (vd wn chunk k ew) : CanonN (execVldw vd wn chunk k ew s) := by
  grind [execVldw, Canon, CanonN, CanonR, Keeps, keeps_opVldw, canon_finish, canon_vexec]

theorem canon_homeOnly (hs : Canon s) (l) : CanonX (homeOnly l s) := by
  unfold homeOnly
  split <;> exact hs

theorem canon_resolveHome (hs : Canon s) (kind n a) : CanonX (resolveHome s kind n a) := by
  induction a generalizing s with
  | nil => exact hs
  | cons p l ih =>
    exact canon_XRes_bind (canon_resolve hs _ _ _) _ fun _ t ht =>
      canon_XRes_bind (canon_homeOnly ht _) _ fun _ u hu => canon_XRes_bind (ih hu) _ fun _ _ hv => hv

theorem canon_setLink (hs : Canon s) (g) : Canon (setLink s g) := hs

theorem keeps_opVldl (vd a b k ew) : Keeps (opVldl vd a b k ew) := by
  refine ⟨fun s e0 hs => canon_runGroups hs _ (fun t a ht => ?_) _ _ _⟩
  refine canon_XRes_bind (canon_resolveHome ht _ _ _) _ fun l u hu => canon_XRes_bind (canon_readAll hu _ _) _ fun r v hv => ?_
  exact canon_foldl (fun _ _ h => canon_setLink h _) _ hv

theorem canon_stcAll {u : State} (hu : Canon u) (vd vx k e first a) : CanonX (stcAll vd vx k e first a u) := by
  induction a generalizing u with
  | nil => exact hu
  | cons p l ih =>
    obtain ⟨i, ea, x⟩ := p
    simp only [stcAll]
    split
    · exact canon_XRes_bind (canon_writeT hu ..) _ fun _ t ht => ih ht
    · exact ih hu

theorem canon_awaits (hs : Canon s) (n a) : CanonO (awaits s n a) := by
  induction a generalizing s with
  | nil => trivial
  | cons p l ih =>
    have one := canon_resolve hs (acc s .other .write) p.2 n
    rw [awaits]
    cases r : resolve s (acc s .other .write) p.2 n <;> rw [r] at one
    case ok => exact ih one
    case wait => exact one
    all_goals trivial

theorem canon_afterStc {r : VRes} (hr : CanonV r) : CanonV (afterStc r) := by
  cases r with
  | done t f => exact canon_bumpLink hr
  | _ => exact hr

theorem keeps_opVstc (vd a b k ew) : Keeps (opVstc vd a b k ew) := by
  refine ⟨fun s e hs => ?_⟩
  have waits := canon_awaits hs (e.len.width / 8) (indexedAddrs b s.hart e (activeFrom s.hart e.len k))
  simp only [opVstc]
  split <;> rename_i r
  · rw [r] at waits
    exact waits
  · refine canon_afterStc (canon_runGroups hs _ (fun t a ht => ?_) _ _ _)
    exact canon_XRes_bind (canon_resolveHome ht _ _ _) _ fun l u hu => canon_XRes_orElse (canon_stcAll hu _ _ _ _ _ _) hu

theorem canon_vamoTargets (hs : Canon s) (n a) : CanonX (vamoTargets s n a) := by
  induction a generalizing s with
  | nil => exact hs
  | cons p l ih =>
    refine canon_XRes_bind (canon_resolve hs _ _ _) _ fun x t ht => ?_
    cases x with
    | mem l k =>
      simp only []
      split
      · exact canon_XRes_bind (ih ht) _ fun _ _ hu => hu
      · exact ht
    | _ => exact ht

theorem canon_sendVamo (hs : Canon s) (op vd e r) : Canon (sendVamo op vd e r s) := hs

theorem keeps_vamoOp (op vd a k ew) : Keeps (vamoOp op vd a k ew) := by
  refine ⟨fun s e hs => ?_⟩
  refine canon_runGroups hs _ (fun t a ht => ?_) _ _ _
  exact canon_XRes_bind (canon_vamoTargets ht _ _) _ fun _ _ hu => canon_sendVamo hu _ _ _ _

/-! ### `Machine/Matrix` -/

theorem canon_setView {r : Res} (hr : CanonR r) (on) : CanonR (setView on r) := by
  cases r with
  | ok t => exact hr
  | _ => exact hr

theorem canon_mopPop (hs : Canon s) (needs) : Canon (mopPop s needs) :=
  canon_foldl (fun _ _ h => canon_setWin h _ _ _) _ hs

theorem canon_mopRun (hs : Canon s) (wa wb ws fmt k e) : CanonV (mopRun wa wb ws fmt k s e) := by
  grind [mopRun, Canon, CanonV, canon_askFence, canon_mopPop, canon_updH]

theorem keeps_opMld (a b fmt) : Keeps (opMld a b fmt) := by
  refine ⟨fun s e hs => ?_⟩
  simp only [opMld]
  split
  · exact hs
  · split
    · exact canon_askFence hs _
    · exact hs

theorem canon_putPiece (hs : Canon s) (off bs) : Canon (putPiece s off bs) := by
  grind [putPiece, Canon, CanonFst, canon_writeParts]

theorem canon_putUnits {d : State × Option Trap} (hd : CanonFst d) (unit a b c) :
    CanonFst (putUnits unit a b c d) := by
  induction a generalizing b c d with
  | zero => exact hd
  | succ n ih =>
    obtain ⟨s, g⟩ := d
    rw [putUnits]
    split
    · exact hd
    · simp only []
      split
      · refine ih ?_ _ _; exact hd
      · exact ih (d := (putPiece s b _, g)) (canon_putPiece (s := s) hd _ _) _ _

theorem canon_putRow {r : State × Option Trap} (hr : CanonFst r) (unit off bs) : CanonFst (putRow unit off bs r) := by
  grind [putRow, Canon, CanonFst, canon_putPiece, canon_putUnits]

theorem keeps_opMst (a b fmt) : Keeps (opMst a b fmt) := by
  refine ⟨fun s e hs => ?_⟩
  dsimp -zeta only [opMst]
  extract_lets -lift f B T
  split
  · exact hs
  · rename_i rows r1 r2 good
    have h1 : CanonFst r1 := canonFst_foldl (fun _ _ h => canon_putRow h _ _ _) _ hs
    have h2 : CanonFst r2 := canonFst_foldl (fun _ _ h => canon_putRow h _ _ _) _ h1
    show Canon (match r2.2 with | none => r2.1 | some t => post r2.1 true t)
    split
    · exact h2
    · exact canon_post h2 true _

/-! ### `Machine/VecTile` -/

theorem keeps_tileOp (regs vd va vb k f) : Keeps (tileOp regs vd va vb k f) :=
  ⟨fun _ _ hs => canon_putResults hs _ _ _⟩

/-! ### `Machine/Queue` -/

theorem keeps_vopOf (i) : ∀ op, vopOf i = some op → Keeps op := by
  cases i with
  | vld | vlds | vld2d | vst | vsts | vst2d => exact keeps_some (keeps_moveOp _ _ _ _ _ _)
  | vldx | vstx => exact keeps_some (keeps_indexOp _ _ _ _ _)
  | vldw => exact keeps_some (keeps_opVldw _ _ _ _ _)
  | vldl => exact keeps_some (keeps_opVldl _ _ _ _ _)
  | vstc => exact keeps_some (keeps_opVstc _ _ _ _ _)
  | vamoAdd | vamoMin | vamoMax | vamoOr | vamoXor => exact keeps_some (keeps_vamoOp _ _ _ _ _)
  | vadd | vsub | vmin | vmax | vminn | vmaxn | vsll | vsrl | vsra | vsadd | vssub | vsaddn | vssubn | vmul | vmulh |
    vmulhn =>
    exact keeps_some (keeps_intOp _ _ _ _ _)
  | vabs | vcconj | vcabs2 => exact keeps_some (keeps_unOp _ _ _ _ _)
  | vand | vor | vxor | vmacc | vfatan2 => exact keeps_some (keeps_binOp _ _ _ _ _ _)
  | vnclip => exact keeps_some (keeps_opVnclip _ _ _ _)
  | vwadd | vwmul | vfwmul | vfwmacc => exact keeps_some (keeps_wideOp _ _ _ _ _ _)
  | vdiv | vdivn | vrem | vremn => exact keeps_some (keeps_divOp _ _ _ _ _)
  | vcmp | vcmpn | vfcmp => exact keeps_some (keeps_cmpOp _ _ _ _ _ _)
  | kand | kor | kxor | kandn | knot | kmov => exact keeps_some (keeps_logicOp _ _ _ _)
  | kpopc => exact keeps_some (keeps_opKpopc _ _)
  | kfirst => exact keeps_some (keeps_opKfirst _ _)
  | vmv | vmerge | vid | vbcast => exact keeps_some (keeps_elemPerm _ _ _ _ _)
  | vslideup | vslidedn | vslide1up | vslide1dn | vgather | vzip | vunzip | vtrn =>
    exact keeps_some (keeps_wholePerm _ _ _ _)
  | vcompress | vexpand | viota | vins => exact keeps_some (keeps_permOp _ _ _ _)
  | vmvs => exact keeps_some (keeps_opVmvs _ _ _)
  | vfadd | vfsub | vfmul | vfdiv | vfmin | vfmax | vfsgnj => exact keeps_some (keeps_fpBin _ _ _ _ _)
  | vfsqrt | vfabs | vfneg | vfclass | vfrec | vfrsqrt => exact keeps_some (keeps_fpUn _ _ _ _)
  | vfmadd | vfmsub | vfnmadd | vfnmsub => exact keeps_some (keeps_fmaOp _ _ _ _ _ _)
  | vfcvt | vfcvtRtz => exact keeps_some (keeps_cvtOp _ _ _ _ _)
  | vfsin | vfcos | vfsint | vfcost | vfexp2 | vflog2 | vftanh => exact keeps_some (keeps_spUn _ _ _ _)
  | vcmul | vcmac | vcmacj => exact keeps_some (keeps_cSumOp _ _ _ _ _)
  | vcrot => exact keeps_some (keeps_cBin _ _ _ _ _)
  | vbfly | vbfly4 => exact keeps_some (keeps_flyOp _ _ _ _ _ _ _)
  | vtgj | vtchol | vtmul | vtherm => exact keeps_some (keeps_tileOp _ _ _ _ _ _)
  | vredsum | vredmin | vredmax => exact keeps_some (keeps_intRedOp _ _ _ _)
  | vfredsum | vfredmin | vfredmax => exact keeps_some (keeps_fpRedOp _ _ _ _)
  | vcredsum | vredsumw => exact keeps_some (keeps_redOp _ _ _ _ _)
  | mop => exact keeps_some ⟨fun _ _ hs => canon_mopRun hs _ _ _ _ _ _⟩
  | mopv | mcvt | menter | mexit | mzero => exact keeps_some ⟨fun _ _ hs => hs⟩
  | mld => exact keeps_some (keeps_opMld _ _ _)
  | mst => exact keeps_some (keeps_opMst _ _ _)
  | _ => nofun

theorem canon_runQueue (hs : Canon s) : Canon (runQueue s) := by
  grind [runQueue, Canon, Keeps, canon_runHead, keeps_vopOf]

end Sys2Proof.Proofs
end

section
/-! SUPPORT. Tickets, windows, the events of harts and the dispatcher keep memory in its canonical form. -/

namespace Sys2Proof.Proofs

open Sys2Proof.Machine Sys2Proof.Safety Sys2Proof.Rules Sys2Proof.Laws

variable {s : State}

/-! ### `Machine/Ticket` -/

theorem canon_ticketWord (hs : Canon s) (ea) : CanonX (ticketWord s ea) := by
  grind [ticketWord, Canon, CanonX, canon_XRes_bind, canon_resolve]

theorem canon_ticketRead (hs : Canon s) (ea) : CanonX (ticketRead s ea) := by
  grind [ticketRead, Canon, CanonX, canon_XRes_bind, canon_ticketWord]

theorem canon_ticketStep (hs : Canon s) (sd sa) : CanonR (ticketStep sd sa s) :=
  canon_coherent hs _ _ _ _ fun _ ht => canon_ofLoad (canon_ticketRead ht _) _ fun _ _ hu =>
    canon_wrS (canon_dGone (canon_getD (canon_writeLoc hu _ _ _) hu) _ _) _ _

theorem canon_unwatch (hs : Canon s) (key) : Canon (unwatch s key) := hs

theorem canon_placeWatch (hs : Canon s) (l tag ticket) : Canon (placeWatch s l tag ticket) := by
  grind [placeWatch, Canon]

theorem canon_keepWait {r : Res} (hr : CanonR r) (i) : CanonR (keepWait i r) := by
  unfold keepWait
  split
  · exact canon_stallOn hr _ i
  · exact hr

theorem canon_ticketWait (hs : Canon s) (i waits sa ticket f) (hf : ∀ a t, Canon t → CanonR (f a t)) :
    CanonR (ticketWait i waits sa ticket s f) := by
  grind [ticketWait, Canon, CanonR, CanonX, canon_unwatch, canon_dropWalks, canon_coherent, canon_ofLoad,
    canon_ticketRead, canon_placeWatch, canon_keepWait]

theorem canon_execTktWait (hs : Canon s) (sa sb) : CanonN (execTktWait sa sb s) := by
  grind [execTktWait, Canon, CanonN, CanonR, canon_finish, canon_ticketWait, canon_acquireIf, canon_stallOn]

theorem canon_execTktWaitt (hs : Canon s) (sd sa sb) : CanonN (execTktWaitt sd sa sb s) := by
  grind [execTktWaitt, Canon, CanonN, CanonR, canon_finish, canon_ticketWait, canon_timedWait]

/-! ### `Machine/WindowOps` -/

theorem canon_windowFree (hs : Canon s) (i n f) (hf : ∀ t, Canon t → CanonR (f t)) : CanonR (windowFree i n s f) := by
  grind [windowFree, Canon, CanonR, canon_stallOn]

theorem canon_winConfigure (hs : Canon s) (sd n a) : Canon (winConfigure sd n a s) := by
  grind [winConfigure, Canon, canon_wrS, canon_setWin]

theorem canon_execWinCfg (hs : Canon s) (sd wn sb) : CanonN (execWinCfg sd wn sb s) := by
  grind [execWinCfg, Canon, CanonN, CanonR, canon_finish, canon_windowFree, canon_readRecord, canon_winConfigure]

theorem canon_winPop (hs : Canon s) (sd n v) : Canon (winPop sd n v s) := by
  grind [winPop, Canon, canon_wrS, canon_setWin]

theorem canon_execWinArm (hs : Canon s) (sd wn sb) : CanonN (execWinArm sd wn sb s) := by
  grind [execWinArm, Canon, CanonN, CanonR, canon_finish, canon_windowFree, canon_wrS, canon_setWin]

theorem canon_execWinaWait (hs : Canon s) (sd wn sb) : CanonN (execWinaWait sd wn sb s) := by
  grind [execWinaWait, Canon, CanonN, CanonR, canon_finish, canon_wrS, canon_stallOn]

theorem canon_execWinaWaitt (hs : Canon s) (sd wn sb) : CanonN (execWinaWaitt sd wn sb s) := by
  grind [execWinaWaitt, Canon, CanonN, CanonR, canon_finish, canon_wrS, canon_timedWait]

/-! ### `Machine/HartEvents` -/

theorem canon_onHart (hs : Canon s) (f) (hf : ∀ t, Canon t → CanonO (f t)) : CanonO (onHart s f) :=
  canonO_findSome _ fun k => canonO_mapState (hf _ (canon_focusOn hs k)) fun _ ht => canon_focusOn ht _

theorem canon_outState {o : Out} (ho : CanonN o) (hs : Canon s) : Canon (outState o s) := by
  cases o with
  | next t => exact ho
  | _ => exact hs

theorem canon_pickConvoy (hs : Canon s) : CanonO (pickConvoy s) := by
  grind [pickConvoy, Canon, CanonO, canon_onHart, canon_updH]

theorem canon_headRuns (hs : Canon s) : CanonO (headRuns s) := by
  grind [headRuns, Canon, CanonO, canon_runQueue, instDecidableEqState, instDecidableEqState.decEq]

theorem canon_pickRetire (hs : Canon s) : CanonO (pickRetire s) := by
  grind [pickRetire, Canon, CanonO, canon_onHart, canon_headRuns]

theorem canon_pickVldw (hs : Canon s) : CanonO (pickVldw s) := by
  grind [pickVldw, Canon, CanonO, canon_onHart, canon_headRuns]

theorem canon_beginMop (hs : Canon s) : CanonO (beginMop s) := by
  grind [beginMop, Canon, CanonO, canon_headRuns, canon_updH]

theorem canon_pickMopBegin (hs : Canon s) : CanonO (pickMopBegin s) := by
  grind [pickMopBegin, Canon, CanonO, canon_onHart, canon_beginMop]

theorem canon_pickMopRetire (hs : Canon s) : CanonO (pickMopRetire s) := by
  grind [pickMopRetire, Canon, CanonO, canon_onHart, canon_headRuns]

theorem canon_finishMop (hs : Canon s) : Canon (finishMop s) := by
  grind [finishMop, Canon, canon_updH, canon_runQueue]

theorem canon_pickPosted (hs : Canon s) (guard) : CanonO (pickPosted s guard) := by
  refine canon_onHart hs _ fun t ht => ?_
  split
  · trivial
  · exact canonO_map _ fun _ => ht

theorem canon_takePend (hs : Canon s) : CanonO (takePend s) := by
  grind [takePend, Canon, CanonO, canon_finishMop, canon_dropWalks, canon_updH, canon_deliver]

theorem canon_pickImprecise (hs : Canon s) : CanonO (pickImprecise s) := by
  grind [pickImprecise, Canon, CanonO, canon_onHart, canon_takePend]

theorem canon_resyncRun (hs : Canon s) (i) : Canon (resyncRun i s) := by
  cases i with
  | mfc => exact canon_outState (canon_finish (canon_mfcR hs _ _)) hs
  | mtc => exact canon_outState (canon_finish (canon_mtcR hs _ _ _)) hs
  | setc => exact canon_outState (canon_finish (canon_setcR hs _ _ _)) hs
  | clrc => exact canon_outState (canon_finish (canon_clrcR hs _ _ _)) hs
  | vmvs => exact canon_outState (canon_vexec (keeps_opVmvs ..) hs _ _ _) hs
  | kpopc => exact canon_outState (canon_vexec0 (keeps_opKpopc ..) hs _) hs
  | kfirst => exact canon_outState (canon_vexec0 (keeps_opKfirst ..) hs _) hs
  | vredsum => exact canon_outState (canon_vexec (keeps_intRedOp _ _ _ _) hs _ _ _) hs
  | vredmin => exact canon_outState (canon_vexec (keeps_intRedOp _ _ _ _) hs _ _ _) hs
  | vredmax => exact canon_outState (canon_vexec (keeps_intRedOp _ _ _ _) hs _ _ _) hs
  | vfredsum => exact canon_outState (canon_vexec (keeps_fpRedOp _ _ _ _) hs _ _ _) hs
  | vfredmin => exact canon_outState (canon_vexec (keeps_fpRedOp _ _ _ _) hs _ _ _) hs
  | vfredmax => exact canon_outState (canon_vexec (keeps_fpRedOp _ _ _ _) hs _ _ _) hs
  | vcredsum => exact canon_outState (canon_vexec (keeps_redOp _ _ _ _ _) hs _ _ _) hs
  | vredsumw => exact canon_outState (canon_vexec (keeps_redOp _ _ _ _ _) hs _ _ _) hs
  | _ => exact hs

theorem canon_pickResync (hs : Canon s) : CanonO (pickResync s) := by
  grind [pickResync, Canon, CanonO, canon_onHart, canon_updH, canon_resyncRun]

theorem canon_waitRun (hs : Canon s) (i) : Canon (waitRun i s) := by
  cases i with
  | barWait => exact canon_outState (canon_execBarWait hs _ _ _) hs
  | barWaitt => exact canon_outState (canon_execBarWaitt hs _ _ _) hs
  | tktWait => exact canon_outState (canon_execTktWait hs _ _) hs
  | tktWaitt => exact canon_outState (canon_execTktWaitt hs _ _ _) hs
  | winaWait => exact canon_outState (canon_execWinaWait hs _ _ _) hs
  | winaWaitt => exact canon_outState (canon_execWinaWaitt hs _ _ _) hs
  | _ => exact hs

theorem canon_decideWait (hs : Canon s) : Canon (decideWait s) := by
  grind [decideWait, Canon, canon_updH]

theorem canon_decideWaits (hs : Canon s) : Canon (decideWaits s) :=
  canon_foldl (fun _ _ h => canon_ite (canon_atHart h _ _ fun _ ht => canon_decideWait ht) h) _ hs

theorem canon_onWait (hs : Canon s) (p) : CanonO (onWait s p) := by
  grind [onWait, Canon, CanonO, canon_onHart, canon_waitRun]

theorem canon_pickWaitMet (hs : Canon s) : CanonO (pickWaitMet s) := by
  grind [pickWaitMet, Canon, CanonO, canon_onWait]

theorem canon_pickWaitLimit (hs : Canon s) : CanonO (pickWaitLimit s) := by
  grind [pickWaitLimit, Canon, CanonO, canon_onWait]

theorem canon_pickTicketPoll (hs : Canon s) : CanonO (pickTicketPoll s) := by
  grind [pickTicketPoll, Canon, CanonO, canon_onWait]

theorem canon_pickBind (hs : Canon s) (ran) : CanonO (pickBind s ran) :=
  canonO_findSome _ fun _ => canonO_map _ fun _ => canon_bindJob (canon_takeReady hs _ _) _ _ _

theorem canon_preemptNow (hs : Canon s) : Canon (preemptNow s) := by
  grind [preemptNow, Canon, canon_finishMop, canon_updH, canon_countEv, canon_expireFocus, canon_putBack,
    canon_saveHart]

theorem canon_pickFlagged (hs : Canon s) : CanonO (pickFlagged s) := by
  grind [pickFlagged, Canon, CanonO, canon_onHart, canon_preemptNow]

theorem canon_pickVictims (hs : Canon s) : CanonO (pickVictims s) :=
  canonO_findSome _ fun _ => canonO_ite trivial (canon_foldl (fun _ _ h => canon_updHart h _ _) _ hs)

theorem canon_pickPreempt (hs : Canon s) : CanonO (pickPreempt s) :=
  canonO_orElse (canon_pickFlagged hs) (canonO_mapState (canon_pickVictims hs) fun _ ht => canon_getD (canon_pickFlagged ht) ht)

theorem canon_expireNow (hs : Canon s) (tval) : Canon (expireNow tval s) := by
  grind [expireNow, Canon, canon_dropWalks, canon_updH, canon_finishMop, canon_enterHandler, canon_cutQueue,
    canon_writeRestart, canon_endFocus]

theorem canon_pickExpiry (hs : Canon s) : CanonO (pickExpiry s) := by
  grind [pickExpiry, Canon, CanonO, canon_onHart, canon_expireNow]

theorem canon_graceOver (hs : Canon s) : CanonO (graceOver s) := by
  grind [graceOver, Canon, CanonO, canon_updH, canon_expireFocus]

theorem canon_looseGrace (hs : Canon s) : CanonO (looseGrace s) :=
  canonO_map _ fun _ => canon_endLoose (canon_removeLoose hs _) _ _

theorem canon_pickGraceEnd (hs : Canon s) : CanonO (pickGraceEnd s) :=
  canonO_orElse (canon_onHart hs _ fun _ ht => canon_graceOver ht) (canon_looseGrace hs)

/-! ### `Machine/Dispatcher` -/

theorem canon_pickTreeDeadline (hs : Canon s) : CanonO (pickTreeDeadline s) :=
  canonO_map _ fun _ => canon_abandonTree hs _ _

theorem canon_setSlot (hs : Canon s) (n e) : Canon (setSlot s n e) := hs

theorem canon_skipRecord (hs : Canon s) (r tenant) : Canon (skipRecord s r tenant) := by
  grind [skipRecord, Canon, canon_telemetryOpen, canon_recordUnrun]

theorem canon_createSlot (hs : Canon s) (n) : Canon (createSlot s n) := by
  grind [createSlot, Canon, CanonSnd, canon_skipRecord, canon_setSlot, canon_newTree, canon_createJob, canon_pushPool]

theorem canon_pickSlot (hs : Canon s) : CanonO (pickSlot s) := canonO_map _ fun _ => canon_createSlot hs _

theorem canon_pickUnplaced (hs : Canon s) : CanonO (pickUnplaced s) := by
  refine canonO_map _ fun j => canon_recordUnrun (canon_setSlot ?_ _ _) _ _ _ _ _
  exact hs

theorem canon_place (hs : Canon s) (core j) : Canon (place s core j) := hs

theorem canon_placePool (hs : Canon s) (j) : Canon (placePool s j) := by
  unfold placePool
  split <;> exact hs

theorem canon_setQ (hs : Canon s) (q l) : Canon (setQ s q l) := hs

theorem canon_readHead (hs : Canon s) (q) : CanonSnd (readHead s q) := by
  grind [readHead, Canon, CanonSnd, canon_readAgent]

theorem canon_readHeads (hs : Canon s) (a) : CanonSnd (readHeads s a) := by
  induction a generalizing s with
  | nil => exact hs
  | cons q t ih =>
    have rest := ih (canon_readHead hs q)
    rw [readHeads]
    split
    · simp only []
      split <;> exact rest
    · exact ih hs

theorem canon_launchRoot (hs : Canon s) (r tenant dl) : CanonSnd (launchRoot s r tenant dl) := hs

theorem canon_popHead (hs : Canon s) (q) : Canon (popHead s q) := hs

theorem canon_placeHead (hs : Canon s) (h) : Canon (placeHead s h) := by
  grind [placeHead, Canon, CanonSnd, canon_launchRoot, canon_popHead, canon_place]

theorem canon_skipHead (hs : Canon s) (h) : Canon (skipHead s h) := by
  grind [skipHead, Canon, canon_skipRecord, canon_popHead]

theorem canon_bestEffortTurn (hs : Canon s) (hs1) : CanonO (bestEffortTurn s hs1) := by
  refine canonO_bind _ fun a => canonO_bind _ fun b => canonO_map _ fun h => canon_placeHead ?_ h
  exact hs

theorem canon_fromHeads (hs : Canon s) (qs rt f) (hf : ∀ t a, Canon t → CanonO (f t a)) :
    CanonO (fromHeads s qs rt f) := by
  grind [fromHeads, Canon, CanonO, CanonSnd, canon_readHeads, canon_skipHead, instDecidableEqState,
    instDecidableEqState.decEq]

theorem canon_realTimeTurn (hs : Canon s) (hs1) : CanonO (realTimeTurn s hs1) := by
  grind [realTimeTurn, Canon, CanonO, canon_placePool, canon_placeHead]

theorem canon_pickPlacement (hs : Canon s) : CanonO (pickPlacement s) :=
  canonO_orElse (canon_fromHeads hs _ _ _ fun _ _ ht => canon_realTimeTurn ht _)
    (canonO_orElse (canonO_map _ fun _ => canon_placePool hs _) (canon_fromHeads hs _ _ _ fun _ _ ht => canon_bestEffortTurn ht _))

theorem canon_stealFrom (hs : Canon s) (c victim own) : Canon (stealFrom s c victim own) := by
  grind [stealFrom, Canon, canon_countEv, canon_takeReady]

theorem canon_pickSteal (hs : Canon s) : CanonO (pickSteal s) :=
  canonO_findSome _ fun _ => canonO_ite (canonO_map _ fun _ => canon_stealFrom hs _ _ _) trivial

theorem canon_arriveGrant (hs : Canon s) (c j) : Canon (arriveGrant s c j) := by
  grind [arriveGrant, Canon, CanonSnd, canon_appendReady, canon_pushPool, canon_bindFrom, canon_stamp]

theorem canon_pickGrant (hs : Canon s) : CanonO (pickGrant s) :=
  canonO_findSome _ fun _ => canonO_map _ fun _ => canon_arriveGrant hs _ _

theorem canon_pickSetdl (hs : Canon s) : CanonO (pickSetdl s) := by
  grind [pickSetdl, Canon, CanonO, canon_applySetdl]

theorem canon_putGang (hs : Canon s) (g) : Canon (putGang s g) := hs

theorem canon_pickReserve (hs : Canon s) : CanonO (pickReserve s) :=
  canonO_findSome _ fun _ => canonO_ite trivial (canon_putGang hs _)

theorem canon_startMember (hs : Canon s) (g p) : Canon (startMember g s p) := by
  grind [startMember, Canon, canon_bindFrom]

theorem canon_pickGangStart (hs : Canon s) : CanonO (pickGangStart s) :=
  canonO_map _ fun _ => canon_foldl (fun _ _ h => canon_startMember h _ _) _ hs

theorem canon_releaseGangs (hs : Canon s) (core) : Canon (releaseGangs s core) := hs

theorem canon_restoreTail (hs : Canon s) (core bs) : Canon (restoreTail s core bs) :=
  canon_foldl (fun _ _ h => canon_setWin h _ _ _) _ hs

theorem canon_restorePart (hs : Canon s) (core T base p) : Canon (restorePart core T base s p) := by
  grind [restorePart, Canon, CanonSnd, canon_readAgent, canon_pokeLoc]

theorem canon_readTail (hs : Canon s) (T base) : CanonSnd (readTail s T base) := by
  unfold readTail
  refine canonSnd_foldl (r := ([], s)) (fun a i h => ?_) _ hs
  exact canon_readAgent h _ _ _ _

theorem canon_restoreImage (hs : Canon s) (core T base) : Canon (restoreImage s core T base) := by
  unfold restoreImage
  extract_lets s1 t
  have h1 : Canon s1 := canon_foldl (fun _ _ h => canon_restorePart h _ _ _ _) _ hs
  exact canon_restoreTail (canon_readTail h1 T base) core _

theorem canon_holdJob (hs : Canon s) (core j) : Canon (holdJob s core j) := by
  grind [holdJob, Canon, canon_atHart, canon_updH]

theorem canon_restoreGroup (hs : Canon s) (g core) : Canon (restoreGroup s g core) := by
  have image := canon_restoreImage (s := { s with disp := { s.disp with saved := s.disp.saved.erase g } }) hs core g.tenant
    g.image.toNat
  refine canon_foldl (fun t j h => ?_) g.jobs image
  exact canon_ite (canon_returnReady h _ _) (canon_ite (canon_holdJob h _ _) (canon_bindJob h _ _ _))

theorem canon_imageWaits (hs : Canon s) (T base) : CanonSnd (imageWaits s T base) :=
  canonSnd_foldl (fun r p hr => by
    have place := canon_agentXlate hr recordAgent T (base + p.1) p.2 .read
    split <;> rename_i e <;> rw [e] at place <;> exact place) _ hs

theorem canon_tryRestore (hs : Canon s) (g) : CanonO (tryRestore s g) := by
  have waits := canon_imageWaits hs g.tenant g.image.toNat
  exact canonO_bind _ fun c => canonO_ite (canon_restoreGroup waits _ _) (canonO_ite trivial waits)

theorem canon_pickRestore (hs : Canon s) : CanonO (pickRestore s) := canonO_findSome _ fun _ => canon_tryRestore hs _

end Sys2Proof.Proofs
end

section
/-! SUPPORT. The spools keep memory in its canonical form: the reading of lists and every command. -/

namespace Sys2Proof.Proofs

open Sys2Proof.Machine Sys2Proof.Safety Sys2Proof.Rules Sys2Proof.Laws

variable {s : State}

/-! ### `Machine/Spool` -/

theorem canon_setLists (hs : Canon s) (n l) : Canon (setLists s n l) := hs

theorem canon_putList (hs : Canon s) (n l) : Canon (putList s n l) := hs

theorem canon_pickOn (s f) (hf : ∀ a b, CanonO (f a b)) : CanonO (pickOn s f) :=
  canonO_findSome _ fun n => canonO_findSome _ fun l => hf n l

theorem canon_acceptList (hs : Canon s) (n l) : CanonO (acceptList s n l) := by
  grind [acceptList, Canon, CanonO, canon_setLists]

theorem canon_addrOf (hs : Canon s) (a any T ea n k) : CanonAX (addrOf s a any T ea n k) := by
  grind [addrOf, Canon, CanonAX, CanonEX, CanonX, canon_siteCheck, canon_agentEntry, canon_placeOf]

theorem canon_spoolAddr (hs : Canon s) (n T ea len k) : CanonAX (spoolAddr s n T ea len k) := by
  grind [spoolAddr, Canon, CanonAX, canon_addrOf]

theorem canon_spoolRead (hs : Canon s) (n T ea len) : CanonSRead (spoolRead s n T ea len) := by
  grind [spoolRead, Canon, CanonAX, CanonSRead, canon_spoolAddr, canon_askFence]

theorem canon_spoolReadAt (hs : Canon s) (n T ea len) : CanonSRead (spoolReadAt s n T ea len) := by
  grind [spoolReadAt, Canon, CanonSRead, canon_spoolRead]

theorem canon_readCmd (hs : Canon s) (n l i) : CanonCmdRead (readCmd s n l i) := by
  grind [readCmd, Canon, CanonCmdRead, CanonSRead, canon_spoolRead]

theorem canon_runAddr (hs : Canon s) (n l r) : CanonSAddr (runAddr s n l r) := by
  grind [runAddr, Canon, CanonSAddr, CanonSRead, canon_spoolRead]

theorem canon_chunkBytes (hs : Canon s) (n l a o m) : CanonSRead (chunkBytes s n l a o m) := by
  grind [chunkBytes, Canon, CanonSRead, canon_spoolReadAt]

theorem canon_recPlace (hs : Canon s) (n l ea) : CanonRecPlace (recPlace s n l ea) := by
  grind [recPlace, Canon, CanonAX, CanonRecPlace, canon_spoolAddr]

theorem canon_putRecord (hs : Canon s) (p bs) : Canon (putRecord s p bs) := by
  cases p with
  | none => exact hs
  | some p => exact canon_getD (canon_writeLoc hs _ _ _) hs

theorem canon_endPlace (hs : Canon s) (n l a b) : CanonRecPlace (endPlace s n l a b) := by
  induction a generalizing s b with
  | zero => exact hs
  | succ fuel ih =>
    have read := canon_readCmd hs n l b
    rw [endPlace]
    split
    · exact hs
    · cases r : readCmd s n l b <;> rw [r] at read
      case cmd =>
        simp only []
        split
        · exact canon_recPlace read _ _ _
        · exact ih read _
      all_goals exact read

theorem canon_failPlace (hs : Canon s) (n l idx) : CanonRecPlace (failPlace s n l idx) := by
  grind [failPlace, Canon, CanonRecPlace, canon_endPlace, canon_recPlace]

theorem canon_unclaim (hs : Canon s) (n core w) : Canon (unclaim s n core w) := by
  grind [unclaim, Canon, canon_setWin]

theorem canon_releaseMove (hs : Canon s) (n l) : Canon (releaseMove s n l) := by
  have base : Canon (putList s n { l with move := .idle }) := canon_putList hs _ _
  unfold releaseMove
  split
  · exact base
  · exact canon_ite base (canon_unclaim base _ _ _)
  · exact canon_foldl (fun _ _ h => canon_ite h (canon_ite (canon_setWin h _ _ _) (canon_unclaim h _ _ _))) _ base

theorem canon_endList (hs : Canon s) (n l p status off idx) : Canon (endList s n l p status off idx) := by
  grind [endList, Canon, canon_dropWalks, canon_releaseMove, canon_putList, canon_putRecord]

theorem canon_failList (hs : Canon s) (n l f) : Canon (failList s n l f) := by
  grind [failList, Canon, CanonRecPlace, canon_failPlace, canon_endList]

theorem canon_markFail (hs : Canon s) (n l status off) : Canon (markFail s n l status off) := hs

theorem canon_badCmd (hs : Canon s) (n l) : Canon (badCmd s n l) := hs

theorem canon_goOn (hs : Canon s) (n l) : Canon (goOn s n l) := hs

/-! ### `Machine/SpoolCmds` -/

theorem canon_onCmd (hs : Canon s) (op act) (hact : ∀ t a b c d, Canon t → CanonO (act t a b c d)) :
    CanonO (onCmd s op act) := by
  grind [onCmd, Canon, CanonCmdRead, CanonO, canon_pickOn, canon_readCmd, canon_badCmd, instDecidableEqState,
    instDecidableEqState.decEq]

theorem canon_onList (hs : Canon s) (o f) : CanonO (onList s o f) := by
  grind [onList, Canon, CanonO, canon_onCmd, canon_goOn]

theorem canon_loopCmd (hs : Canon s) (n l lo hi) : Canon (loopCmd s n l lo hi) := by
  grind [loopCmd, Canon, canon_goOn, canon_putList]

theorem canon_pickSrc (hs : Canon s) : CanonO (pickSrc s) := by
  grind [pickSrc, Canon, CanonO, canon_onList]

theorem canon_pickDst (hs : Canon s) : CanonO (pickDst s) := by
  grind [pickDst, Canon, CanonO, canon_onList]

theorem canon_pickGather (hs : Canon s) : CanonO (pickGather s) := by
  grind [pickGather, Canon, CanonO, canon_onList]

theorem canon_pickCvt (hs : Canon s) : CanonO (pickCvt s) := by
  grind [pickCvt, Canon, CanonO, canon_onList]

theorem canon_pickLoop (hs : Canon s) : CanonO (pickLoop s) := by
  grind [pickLoop, Canon, CanonO, canon_onCmd, canon_loopCmd]

theorem canon_listWait (hs : Canon s) (n l ready) : CanonO (listWait s n l ready) := by
  grind [listWait, Canon, CanonO, canon_goOn, canon_putList]

theorem canon_pickWaitd (hs : Canon s) : CanonO (pickWaitd s) := by
  grind [pickWaitd, Canon, CanonO, canon_onCmd, canon_badCmd, canon_listWait]

theorem canon_pickAt (hs : Canon s) : CanonO (pickAt s) := by
  grind [pickAt, Canon, CanonO, canon_onCmd, canon_listWait]

theorem canon_pickAtTimer (hs : Canon s) : CanonO (pickAtTimer s) := by
  grind [pickAtTimer, Canon, CanonO, canon_onCmd, canon_goOn]

theorem canon_onLanded (hs : Canon s) (op act) (hact : ∀ t a b c d, Canon t → CanonO (act t a b c d)) :
    CanonO (onLanded s op act) := by
  grind [onLanded, Canon, CanonO, canon_onCmd]

theorem canon_pickNotifyDec (hs : Canon s) : CanonO (pickNotifyDec s) := by
  grind [pickNotifyDec, Canon, CanonO, canon_onLanded, canon_badCmd, canon_goOn, canon_depDecStep]

theorem canon_notifyJob (hs : Canon s) (l r) : Canon (notifyJob s l r) := by
  grind [notifyJob, Canon, CanonSnd, canon_newTree, canon_createJob, canon_pushPool]

theorem canon_pickNotifyPost (hs : Canon s) : CanonO (pickNotifyPost s) := by
  grind [pickNotifyPost, Canon, CanonO, CanonSRead, canon_onLanded, canon_spoolRead, canon_badCmd, canon_goOn,
    canon_notifyJob, canon_markFail, instDecidableEqState, instDecidableEqState.decEq]

theorem canon_pickRec (hs : Canon s) : CanonO (pickRec s) := by
  grind [pickRec, Canon, CanonO, CanonRecPlace, canon_onLanded, canon_recPlace, canon_badCmd, canon_goOn,
    canon_putRecord, instDecidableEqState, instDecidableEqState.decEq]

theorem canon_pickEarly (hs : Canon s) : CanonO (pickEarly s) :=
  canonO_findSome _ fun _ => canonO_findSome _ fun _ => canonO_ite trivial (canonO_bind _ fun _ =>
    canonO_ite trivial (canon_failList hs _ _ _))

theorem canon_pickEndCmd (hs : Canon s) : CanonO (pickEndCmd s) := by
  grind [pickEndCmd, Canon, CanonO, CanonRecPlace, canon_onLanded, canon_recPlace, canon_badCmd, canon_endList,
    instDecidableEqState, instDecidableEqState.decEq]

theorem canon_pickEnd (hs : Canon s) : CanonO (pickEnd s) := canonO_orElse (canon_pickEarly hs) (canon_pickEndCmd hs)

theorem canon_pickPush (hs : Canon s) : CanonO (pickPush s) := by
  grind [pickPush, Canon, CanonO, canon_onCmd, canon_putList, canon_badCmd]

theorem canon_offer (hs : Canon s) (n l core) : CanonSnd (offer s n l core) := by
  grind [offer, Canon, CanonSnd, canon_freshFree, canon_setWin]

theorem canon_offerAll (hs : Canon s) (n l a b c) : CanonFst (offerAll s n l a b c) := by
  induction a generalizing s b c with
  | nil => exact hs
  | cons r t ih =>
    have one := canon_offer hs n l (receiver l r)
    rw [offerAll]
    split <;> exact ih one _ _

theorem canon_pickMcast (hs : Canon s) : CanonO (pickMcast s) := by
  grind [pickMcast, Canon, CanonFst, CanonO, canon_onCmd, canon_badCmd, canon_offerAll, canon_goOn, canon_putList]

theorem canon_sendPacket (hs : Canon s) (p) : Canon (sendPacket s p) := hs

theorem canon_afterChunk (hs : Canon s) (n l next mv) : Canon (afterChunk s n l next mv) := by
  unfold afterChunk
  split <;> exact hs

theorem canon_stay (hs : Canon s) (n l) : CanonO (stay s n l) := by
  grind [stay, Canon, CanonO, canon_putList]

theorem canon_pushChunk (hs : Canon s) (n l off a o m) : CanonO (pushChunk s n l off a o m) := by
  grind [pushChunk, Canon, CanonO, CanonSRead, canon_markFail, canon_stay, canon_chunkBytes, canon_afterChunk,
    canon_sendPacket, instDecidableEqState, instDecidableEqState.decEq, canon_setWin]

theorem canon_mcastChunk (hs : Canon s) (n l off d a o m) : CanonO (mcastChunk s n l off d a o m) := by
  have read := canon_chunkBytes hs n l a o m
  unfold mcastChunk
  simp only []
  split <;> rename_i e <;> rw [e] at read
  · exact canon_afterChunk (canon_foldl (fun _ _ h => canon_sendPacket h _) _ read) _ _ _ _
  · exact canon_markFail read _ _ _ _
  · exact canon_markFail read _ _ _ _
  · exact canonO_ite trivial read

theorem canon_copyOut {u : State} (hu : Canon u) (n l a b c) : CanonSRead (copyOut n l a b c u) := by
  induction a generalizing u b c with
  | zero => exact hu
  | succ fuel ih =>
    have place := canon_spoolAddr hu n l.tenant b (c.take (4096 - b.toNat % 4096)).length .write
    rw [copyOut]
    split
    · exact hu
    · simp only []
      split <;> rename_i e <;> rw [e] at place
      · rename_i loc t u1
        have wrote := canon_writeLoc place t loc (c.take (4096 - b.toNat % 4096))
        split <;> rename_i e2
        · rw [e2] at wrote
          exact ih wrote _ _
        · exact place
      · exact place
      · exact place

theorem canon_copyChunk (hs : Canon s) (n l dst off a o m) : CanonO (copyChunk s n l dst off a o m) := by
  grind [copyChunk, Canon, CanonO, CanonSRead, canon_chunkBytes, canon_copyOut, canon_afterChunk, canon_markFail,
    instDecidableEqState, instDecidableEqState.decEq]

theorem canon_chunkOf (hs : Canon s) (n l off f) (hf : ∀ t a b c, Canon t → CanonO (f t a b c)) :
    CanonO (chunkOf s n l off f) := by
  grind [chunkOf, Canon, CanonO, CanonSAddr, canon_runAddr, canon_markFail, instDecidableEqState,
    instDecidableEqState.decEq]

theorem canon_pickChunk (hs : Canon s) : CanonO (pickChunk s) := by
  grind [pickChunk, Canon, CanonO, canon_pickOn, canon_chunkOf, canon_copyChunk, canon_pushChunk, canon_mcastChunk]

theorem canon_landIn (hs : Canon s) (p) : CanonFst (landIn s p) := by
  grind [landIn, Canon, CanonFst, canon_putWindow, canon_countEv, canon_setWin]

theorem canon_refusePacket (hs : Canon s) (p) : Canon (refusePacket s p) := by
  grind [refusePacket, Canon, canon_setWin]

theorem canon_landPacket (hs : Canon s) (p) : Canon (landPacket s p) := by
  grind [landPacket, Canon, CanonFst, canon_putList, canon_refusePacket, canon_landIn, canon_unclaim]

theorem canon_pickLand (hs : Canon s) : CanonO (pickLand s) := by
  grind [pickLand, Canon, CanonO, canon_landPacket]

theorem canon_twinPushIn (hs : Canon s) (core n tenant bs) : Canon (twinPushIn s core n tenant bs) := by
  grind [twinPushIn, Canon, CanonFst, canon_putWindow, canon_setWin, canon_countEv]

theorem canon_pickArrival (hs : Canon s) : CanonO (pickArrival s) := by
  refine canonO_orElse (canon_takeInput hs _ fun i t ht => ?_) (canon_pickLand hs)
  split
  · exact canon_twinPushIn ht _ _ _ _
  · trivial

theorem canon_twinPost (hs : Canon s) (addr tenant job mask rt) : Canon (twinPost s addr tenant job mask rt) :=
  canon_ite hs (canon_getD (canon_acceptList hs _ _) hs)

theorem canon_pickTwinList (hs : Canon s) : CanonO (pickTwinList s) := by
  grind [pickTwinList, Canon, CanonO, canon_takeInput, canon_twinPost]

theorem canon_pickStart (hs : Canon s) : CanonO (pickStart s) :=
  canonO_findSome _ fun _ => canonO_ite trivial (canonO_map _ fun _ => canon_putList hs _ _)

/-! ### `Machine/SpoolOps` -/

theorem canon_splPage (hs : Canon s) (ea n) : CanonX (splPage s ea n) := by
  grind [splPage, Canon, CanonX, canon_XRes_bind, canon_resolve, canon_xlate]

theorem canon_giveList (hs : Canon s) (sd n l) : CanonR (giveList sd n l s) := by
  grind [giveList, Canon, CanonO, CanonR, canon_acceptList, canon_wrS]

theorem canon_twinAnswer (hs : Canon s) (i sd ea keep) : CanonR (twinAnswer i sd ea keep s) := by
  grind [twinAnswer, Canon, CanonR, CanonSnd, canon_xtrap, canon_afterQueue, canon_wrS, canon_freshFree]

theorem canon_splPost (hs : Canon s) (i sd ea n f) (hf : ∀ a t, Canon t → CanonR (f a t)) :
    CanonR (splPost i sd ea n s f) := by
  grind [splPost, Canon, CanonR, CanonX, canon_wrS, canon_xtrap, canon_twinAnswer, canon_ofLoad, canon_splPage,
    canon_afterQueue]

theorem canon_splList (hs : Canon s) (i sd sa mask) : CanonR (splList i sd sa mask s) := by
  grind [splList, Canon, CanonR, canon_splPost, canon_giveList]

theorem canon_splPushR (hs : Canon s) (sd sa) : CanonR (splPushR sd sa s) := by
  grind [splPushR, Canon, CanonR, canon_splPost, canon_readRecord, canon_wrS, canon_giveList]

theorem canon_execSplStat (hs : Canon s) (sd sa) : CanonN (execSplStat sd sa s) := by
  grind [execSplStat, Canon, CanonN, CanonR, CanonX, canon_finish, canon_xtrap, canon_twinAnswer, canon_acquireIf,
    canon_wrS, canon_ofLoad, canon_splPage, canon_afterQueue]

end Sys2Proof.Proofs
end

section
/-! SUPPORT. The service complex, lending, messages and ports keep memory in its canonical form. -/

namespace Sys2Proof.Proofs

open Sys2Proof.Machine Sys2Proof.Safety Sys2Proof.Rules Sys2Proof.Laws

variable {s : State}

/-! ### `Machine/Service` -/

theorem canon_setFn (hs : Canon s) (f n) : Canon (setFn s f n) := hs

theorem canon_putResult (hs : Canon s) (f seq op status r0 r1 time) :
    Canon (putResult s f seq op status r0 r1 time) := by
  grind [putResult, Canon, canon_setFn, canon_pokeLoc]

theorem canon_notice (hs : Canon s) (f op seq r0 r1) : Canon (notice s f op seq r0 r1) := by
  grind [notice, Canon, CanonSnd, canon_freshFree, canon_putResult]

theorem canon_ringFn (hs : Canon s) (f) : Canon (ringFn s f) := by
  grind [ringFn, Canon, canon_pushEvent]

theorem canon_writeTail (hs : Canon s) (f v) : Canon (writeTail s f v) := by
  grind [writeTail, Canon, canon_ringFn, canon_setFn]

theorem canon_writeBar0 (hs : Canon s) (f off v) : Canon (writeBar0 s f off v) := by
  unfold writeBar0
  simp only []
  split
  · exact canon_ite (canon_setFn hs _ _) hs
  · exact canon_ite (canon_setFn hs _ _) hs
  · exact canon_ite (canon_setFn hs _ _) hs
  · exact canon_writeTail hs _ _
  · exact canon_ite (canon_setFn hs _ _) hs
  · exact hs

theorem canon_writeBar2 (hs : Canon s) (f off v) : Canon (writeBar2 s f off v) := by
  grind [writeBar2, Canon, canon_doorbell]

theorem canon_journal (hs : Canon s) (f e) : Canon (journal s f e) := hs

theorem canon_commitNow (hs : Canon s) (c status r0 r1) : Canon (commitNow s c status r0 r1) := by
  grind [commitNow, Canon, canon_putResult, canon_journal]

theorem canon_commitLater (hs : Canon s) (c k) : Canon (commitLater s c k) := hs

theorem canon_takeCmd (hs : Canon s) (f core) : Canon (takeCmd s f core) := by
  grind [takeCmd, Canon, CanonSnd, canon_setFn, canon_freshFree, canon_putResult, canon_commitNow]

theorem canon_dropEvent (hs : Canon s) : Canon (dropEvent s) := hs

theorem canon_pickTake (hs : Canon s) : CanonO (pickTake s) := by
  grind [pickTake, Canon, CanonO, canon_dropEvent, canon_ringFn, canon_takeCmd]

theorem canon_settleCmd {o : CmdOut} (ho : CanonC o) (h) : Canon (settleCmd h o) := by
  have clear {t : State} (ht : Canon t) : Canon (dropWalks { t with svc := { t.svc with cmds := t.svc.cmds.drop 1 } } cmdAgent) :=
    canon_dropWalks (s := { t with svc := _ }) ht cmdAgent
  cases o with
  | done st r0 r1 t => exact canon_ringFn (canon_commitNow (clear ho) h.cmd st r0 r1) _
  | later k t => exact canon_ringFn (canon_commitLater (clear ho) h.cmd k) _
  | wait t => exact ho

theorem canon_runCmd (hs : Canon s) (op pf f) (hf : ∀ a t, Canon t → CanonC (f a t)) : CanonN (runCmd op pf s f) := by
  grind [runCmd, Canon, CanonC, CanonN, canon_settleCmd]

theorem canon_refuseCmd (hs : Canon s) (status) : CanonC (refuseCmd status s) := hs

theorem canon_cmdPlace (hs : Canon s) (T ea n k) : CanonAX (cmdPlace s T ea n k) := by
  grind [cmdPlace, Canon, CanonAX, canon_addrOf]

theorem canon_spanCheck (hs : Canon s) (T ea len k) : CanonSpan (spanCheck s T ea len k) :=
  canonSpan_foldl (fun r p hr => by
    split
    · rename_i t
      have place := canon_cmdPlace (s := t) hr T (ea + BitVec.ofNat 64 p.1) p.2 k
      split <;> rename_i e <;> rw [e] at place <;> exact place
    · exact hr) _ hs

theorem canon_pieceRead {a : Option (List Byte) × State} (ha : CanonSnd a) (T ea p) :
    CanonSnd (pieceRead T ea a p) := by
  grind [pieceRead, Canon, CanonAX, CanonSnd, canon_cmdPlace, canon_askFence]

theorem canon_withBytes (hs : Canon s) (T ea len f) (hf : ∀ a t, Canon t → CanonC (f a t)) :
    CanonC (withBytes s T ea len f) := by
  have span := canon_spanCheck hs T ea len .read
  unfold withBytes
  split <;> rename_i e <;> rw [e] at span
  · exact span
  · exact canon_refuseCmd span 2
  · have read := canonSnd_foldl (f := pieceRead T ea) (r := (some [], _)) (fun _ _ h => canon_pieceRead h T ea _)
      (spanOf ea len) span
    simp only []
    split
    · exact hf _ _ read
    · exact canon_refuseCmd read 2

theorem canon_pieceWrite (hs : Canon s) (T ea bs p) : Canon (pieceWrite T ea bs s p) := by
  have place := canon_cmdPlace hs T (ea + BitVec.ofNat 64 p.1) p.2 .write
  unfold pieceWrite
  split <;> rename_i e <;> rw [e] at place
  · exact canon_getD (canon_writeLoc place _ _ _) place
  · exact place
  · exact place

theorem canon_putBytesAt (hs : Canon s) (T ea bs) : Canon (putBytesAt s T ea bs) :=
  canon_foldl (fun _ _ h => canon_pieceWrite h _ _ _ _) _ hs

theorem canon_withBuffer (hs : Canon s) (T ea len f) (hf : ∀ t, Canon t → CanonC (f t)) :
    CanonC (withBuffer s T ea len f) := by
  grind [withBuffer, Canon, CanonC, CanonSpan, canon_spanCheck, canon_refuseCmd]

theorem canon_endDeferred (hs : Canon s) (d status r0 r1) : Canon (endDeferred s d status r0 r1) := by
  grind [endDeferred, Canon, canon_setFn, canon_putResult]

theorem canon_pickFinished (hs : Canon s) : CanonO (pickFinished s) := canonO_map _ fun _ => canon_pushEvent hs _

theorem canon_pickDeferred (hs : Canon s) : CanonO (pickDeferred s) := by
  unfold pickDeferred
  split
  · exact canon_getD (canonO_bind _ fun _ => canonO_map _ fun _ => canon_endDeferred (canon_dropEvent hs) _ _ _ _) (canon_dropEvent hs)
  · exact canon_pickFinished hs

theorem canon_lendEnds (hs : Canon s) (core status) : Canon (lendEnds s core status) := hs

/-! ### `Machine/Lending` -/

theorem canon_setCore (hs : Canon s) (core e) : Canon (setCore s core e) := hs

theorem canon_clearSpad (hs : Canon s) (core) : Canon (clearSpad s core) := memWf_clearSpad _ hs

theorem canon_clearHarts (hs : Canon s) (core) : Canon (clearHarts s core) :=
  canon_foldl (fun _ _ h => canon_updHart h _ _) _ hs

theorem canon_clearCore (hs : Canon s) (core) : Canon (clearCore s core) := by
  grind [clearCore, Canon, canon_clearHarts, canon_clearSpad]

theorem canon_newTenant (hs : Canon s) (core) : Canon (newTenant s core) := hs

theorem canon_returnUnrun (hs : Canon s) (core) : Canon (returnUnrun s core) :=
  canon_foldl (fun _ _ h => canon_pushPool h _) _ (canon_setReady hs _ _)

theorem canon_startLend (hs : Canon s) (core l) : Canon (startLend s core l) := by
  grind [startLend, Canon, canon_returnUnrun, canon_releaseGangs]

theorem canon_finishLend (hs : Canon s) (core l) : Canon (finishLend s core l) := by
  grind [finishLend, Canon, canon_setCore, canon_clearCore, canon_lendEnds, canon_newTenant]

theorem canon_pickLend (hs : Canon s) : CanonO (pickLend s) := by
  refine canonO_findSome _ fun p => ?_
  split
  · exact canonO_ite (canon_returnUnrun hs _) (canonO_ite (canon_finishLend hs _ _) trivial)
  · trivial

theorem canon_cancelLend (hs : Canon s) (core) : Canon (cancelLend s core) := hs

theorem canon_joinHeader (hs : Canon s) (pages) : Canon (joinHeader s pages) := by
  grind [joinHeader, Canon, canon_savePut]

theorem canon_saveReclaimed (hs : Canon s) : Canon (saveReclaimed s) := by
  grind [saveReclaimed, Canon, canon_finishMop, canon_dropWalks, canon_expireFocus, canon_joinHeader, canon_saveHart]

theorem canon_writeImage (hs : Canon s) (core T base) : Canon (writeImage s core T base) :=
  canon_foldl (fun _ _ h => canon_writeRecord h _ _ _) _ hs

theorem canon_releaseWindows (hs : Canon s) (core) : Canon (releaseWindows s core) :=
  canon_foldl (fun _ _ h => canon_setWin h _ _ _) _ hs

theorem canon_drainVamo (hs : Canon s) (core) : Canon (drainVamo s core) := by
  grind [drainVamo, Canon, canon_retireCore, canon_arriveWhere]

theorem canon_reclaimCore (hs : Canon s) (core) : Canon (reclaimCore s core) := by
  unfold reclaimCore
  extract_lets e keys s1 s2 bound loose s3 image s4 d s5 s6
  have h1 : Canon s1 := canon_foldl (fun _ _ h => canon_atHart h _ _ fun _ ht => canon_saveReclaimed ht) _
    (canon_releaseGangs hs core)
  have h2 : Canon s2 := canon_releaseWindows (canon_drainVamo h1 core) core
  have h3 : Canon s3 := canon_returnUnrun (canon_foldl (fun _ _ h => canon_joinHeader h _) _ h2) core
  have h4 : Canon s4 := canon_writeImage (canon_setReady h3 core []) core e.current image
  clear_value s4
  have h5 : Canon s5 := canon_ite h4 (canon_of_mem h4 rfl)
  have h6 : Canon s6 := canon_setCore (canon_clearCore h5 core) core _
  clear_value s6
  exact canon_newTenant (canon_of_mem h6 rfl) core

theorem canon_reclaimEnds (hs : Canon s) (core status) : Canon (reclaimEnds s core status) := hs

theorem canon_beginReclaim (hs : Canon s) (core) : Canon (beginReclaim s core) :=
  canon_ite (canon_foldl (fun _ _ h => canon_updHart h _ _) _ hs) hs

theorem canon_askReclaim (hs : Canon s) (core) : Canon (askReclaim s core) := by
  grind [askReclaim, Canon, canon_beginReclaim, canon_cancelLend]

theorem canon_pickReclaim (hs : Canon s) : CanonO (pickReclaim s) :=
  canonO_map _ fun _ => canon_ite (canon_askFence hs _) (canon_reclaimEnds (canon_reclaimCore hs _) _ _)

theorem canon_pickReclaimAt (hs : Canon s) : CanonO (pickReclaimAt s) := by
  refine canonO_map _ fun p => canon_askReclaim ?_ _
  exact hs

theorem canon_reclaimCmd (hs : Canon s) (c) : CanonC (reclaimCmd c s) := by
  grind [reclaimCmd, Canon, CanonC, canon_refuseCmd, canon_askReclaim]

theorem canon_execReclaim (hs : Canon s) : CanonN (execReclaim s) := by
  unfold execReclaim
  split
  · exact canon_runCmd hs _ _ _ fun _ _ ht => canon_reclaimCmd ht _
  · exact canon_getD (canon_pickReclaim hs) hs

theorem canon_refuseVamo (hs : Canon s) (core) : Canon (refuseVamo s core) :=
  canon_foldl (fun _ _ h => canon_postTo h _ _ _) _ hs

theorem canon_fenceNow (hs : Canon s) (core) : Canon (fenceNow s core) := by
  unfold fenceNow
  extract_lets e s1 s2 s3 s4 s5
  have h1 : Canon s1 := canon_foldl (fun _ _ h => canon_endHart (canon_atHart h _ _ fun _ ht => canon_finishMop ht) _ _) _
    (canon_releaseGangs hs core)
  have h3 : Canon s3 := canon_foldl (fun _ _ h => canon_endLoose h _ _) _ (canon_returnUnrun h1 core)
  have h5 : Canon s5 := canon_refuseVamo (canon_setCore (canon_setReady h3 _ _) _ _) core
  clear_value s5
  exact canon_reclaimEnds (canon_of_mem h5 rfl) core 4

theorem canon_addRoute (hs : Canon s) (core) : Canon (addRoute s core) := by
  unfold addRoute
  split <;> exact hs

theorem canon_takeBack (hs : Canon s) (core) : Canon (takeBack s core) := by
  grind [takeBack, Canon, canon_addRoute, canon_fenceNow, canon_reclaimEnds, canon_reclaimCore]

theorem canon_resetLoose (hs : Canon s) (j) : Canon (resetLoose s j) := by
  grind [resetLoose, Canon, canon_endLoose, canon_recordUnrun]

theorem canon_dropPackets (hs : Canon s) (n serial) : Canon (dropPackets s n serial) :=
  canon_foldl (fun _ _ h => canon_refusePacket h _) _ hs

theorem canon_resetLists (hs : Canon s) (p) : Canon (resetLists s p) :=
  canon_foldl (fun _ _ h => canon_foldl (fun _ _ h =>
    canon_failList (canon_putList (canon_dropPackets h _ _) _ _) _ _ _) _ h) _ hs

theorem canon_resetCoding (hs : Canon s) (p) : Canon (resetCoding s p) :=
  canon_foldl (fun _ _ h => canon_foldl (fun _ _ h => canon_codingRecord h _ _ _ _) _ (canon_setEng h _ _)) _ hs

theorem canon_resetObjects (hs : Canon s) (tenant) : Canon (resetObjects s tenant) := hs

theorem canon_freeRoute (hs : Canon s) (core) : Canon (freeRoute s core) := hs

theorem canon_resetCore (hs : Canon s) (core) : Canon (resetCore s core) := by
  unfold resetCore
  extract_lets s0 s1 s2 s3 s4
  have h0 : Canon s0 := canon_ite (canon_cancelLend hs core) hs
  have h1 : Canon s1 := canon_ite (canon_takeBack h0 core) h0
  have h2 : Canon s2 := canon_foldl (fun _ _ h => canon_endHart h _ _) _ (canon_releaseGangs h1 core)
  have h3 : Canon s3 := canon_foldl (fun _ _ h => canon_resetLoose h _) _ h2
  have h4 : Canon s4 := canon_setCore (canon_clearCore (canon_setReady h3 core []) core) core {}
  clear_value s4
  exact canon_newTenant (canon_freeRoute (canon_of_mem h4 rfl) core) core

theorem canon_endTenant (hs : Canon s) (tenant) : Canon (endTenant s tenant) := by
  unfold endTenant
  extract_lets mine lent s0 s1 d s2 s3
  have h0 : Canon s0 := canon_foldl (fun _ _ h => canon_takeBack h _) _ hs
  have h1 : Canon s1 := canon_removeLoose (canon_foldl (fun _ _ h => canon_resetLoose h _) _ h0) mine
  clear_value s1
  have h2 : Canon s2 := canon_of_mem h1 rfl
  have h3 : Canon s3 := canon_foldl (fun _ _ h => canon_foldl (fun _ _ h => canon_recordUnrun h _ _ _ _ _) _ h) _ h2
  exact canon_resetCoding (canon_resetLists h3 _) _

theorem canon_dropTenant (hs : Canon s) (tenant) : Canon (dropTenant s tenant) := hs

theorem canon_resetPartition (hs : Canon s) (part) : Canon (resetPartition s part) := by
  have lists (l : List Nat) (p q) : Canon (resetCoding (resetLists (l.foldl resetCore s) p) q) :=
    canon_resetCoding (canon_resetLists (canon_foldl (fun _ _ h => canon_resetCore h _) l hs) p) q
  have ended (l : List Nat) (p q t) (b : Prop) [Decidable b] :
      Canon (resetObjects (if b then endTenant (resetCoding (resetLists (l.foldl resetCore s) p) q) t
        else resetCoding (resetLists (l.foldl resetCore s) p) q) t) :=
    canon_resetObjects (canon_ite (canon_endTenant (lists l p q) t) (lists l p q)) t
  unfold resetPartition
  cases partCores s part with
  | nil => exact hs
  | cons c l => exact canon_ite (canon_dropTenant (ended _ _ _ _ _) _) (ended _ _ _ _ _)

theorem canon_fenceCore (hs : Canon s) (core) : Canon (fenceCore s core) := by
  grind [fenceCore, Canon, canon_fenceNow, canon_resetPartition, canon_addRoute]

theorem canon_pickFence (hs : Canon s) : CanonO (pickFence s) := canonO_map _ fun _ => canon_fenceCore hs _

theorem canon_pickFenceInput (hs : Canon s) : CanonO (pickFenceInput s) := by
  grind [pickFenceInput, Canon, CanonO, canon_takeInput, canon_askFence]

/-! ### `Machine/Messages` -/

theorem canon_appendWhole (hs : Canon s) (core n bs) : CanonO (appendWhole s core n bs) :=
  canonO_map _ fun _ => canon_putWindow (canon_setWin hs ..) ..

theorem canon_offerMsg (hs : Canon s) (core n tenant bs) : CanonAnswer (offerMsg s core n tenant bs) := by
  grind [offerMsg, Canon, CanonAnswer, CanonO, canon_appendWhole]

theorem canon_offerTwin (hs : Canon s) : CanonSent (offerTwin s) := by
  have fresh := canon_freshFree hs
  unfold offerTwin
  split
  · exact ⟨trivial, hs⟩
  · simp only []
    split
    · exact ⟨fresh, fresh⟩
    all_goals exact ⟨trivial, fresh⟩

theorem canon_offerTo (hs : Canon s) (core n tenant bs) : CanonSent (offerTo s core n tenant bs) := by
  cases core with
  | none => exact ⟨trivial, hs⟩
  | some c =>
    unfold offerTo
    simp only []
    split
    · exact canon_offerTwin hs
    · exact ⟨canon_offerMsg hs _ _ _ _, hs⟩

theorem canon_readPayload (hs : Canon s) (a b c) : CanonX (readPayload s a b c) := by
  induction a generalizing s b c with
  | zero => exact hs
  | succ fuel ih =>
    rw [readPayload]
    split
    · exact hs
    · refine canon_XRes_bind (canon_resolve hs _ _ _) _ fun x t ht => ?_
      cases x with
      | mem l k =>
        simp only []
        split
        · exact canon_XRes_bind (ih (canon_useLines ht _ _ _) _ _) _ fun _ _ hu => hu
        · exact canon_ite (canon_askFence ht _) ht
      | _ => exact ht

theorem canon_answerStatus {r : Answer × State} (hr : CanonSent r) (sd) : CanonR (answerStatus sd r) := by
  obtain ⟨a, t⟩ := r
  obtain ⟨ha, ht⟩ := hr
  cases a with
  | appended u => exact canon_wrS ha sd _
  | _ => exact canon_wrS ht sd _

theorem canon_sendBlock (hs : Canon s) (sd a) : CanonR (sendBlock sd a s) := by
  grind [sendBlock, Canon, CanonR, CanonSent, CanonX, canon_offerTo, canon_ofLoad, canon_readPayload,
    canon_answerStatus]

theorem canon_execMsgSend (hs : Canon s) (sd sa) : CanonN (execMsgSend sd sa s) := by
  grind [execMsgSend, Canon, CanonN, CanonR, canon_finish, canon_readRecord, canon_wrS, canon_afterQueue,
    canon_sendBlock]

theorem canon_execMsgSendv (hs : Canon s) (vs sa sb) : CanonN (execMsgSendv vs sa sb s) := by
  grind [execMsgSendv, Canon, CanonN, CanonR, canon_finish, canon_illegal, canon_afterQueue]

theorem canon_msgTrap (hs : Canon s) (m t) : Canon (msgTrap s m t) := by
  grind [msgTrap, Canon, canon_postTo]

theorem canon_settleMsg {r : Answer × State} (hr : CanonSent r) (m keep) (hkeep : ∀ t, Canon t → Canon (keep t)) :
    Canon (settleMsg m r keep) := by
  obtain ⟨a, t⟩ := r
  obtain ⟨ha, ht⟩ := hr
  cases a with
  | appended u => exact ha
  | full => exact hkeep t ht
  | _ => exact canon_msgTrap ht m _

theorem canon_toOutbox (hs : Canon s) (m) : Canon (toOutbox m s) := by
  grind [toOutbox, Canon, canon_updHart]

theorem canon_appendMsg (hs : Canon s) (m) : Canon (appendMsg s m) := by
  grind [appendMsg, Canon, CanonSent, canon_toOutbox, canon_settleMsg, canon_offerTo]

theorem canon_pickMessage (hs : Canon s) : CanonO (pickMessage s) := by
  grind [pickMessage, Canon, CanonO, canon_appendMsg]

theorem canon_twinMessageIn (hs : Canon s) (core n tenant header user payload) :
    Canon (twinMessageIn s core n tenant header user payload) := by
  grind [twinMessageIn, Canon, CanonAnswer, canon_offerMsg]

theorem canon_pickMessageIn (hs : Canon s) : CanonO (pickMessageIn s) := by
  refine canonO_orElse (canon_takeInput hs _ fun i t ht => ?_) (canon_pickMessage hs)
  split
  · exact canon_twinMessageIn ht _ _ _ _ _ _
  · trivial

theorem canon_retryOne (hs : Canon s) (key a b) : CanonO (retryOne s key a b) := by
  induction b generalizing a with
  | nil => trivial
  | cons m t ih =>
    have sent := canon_offerTo hs m.core m.window m.tenant m.bytes
    rw [retryOne]
    split
    · exact ih _
    · split
      · exact ih _
      · exact canon_updHart (canon_settleMsg sent m id fun _ h => h) _ _

theorem canon_pickRetry (hs : Canon s) : CanonO (pickRetry s) := canonO_findSome _ fun _ => canon_retryOne hs _ _ _

/-! ### `Machine/Ports` -/

theorem canon_setBridle (hs : Canon s) (p n b) : Canon (setBridle s p n b) := hs

theorem canon_appendFrame (hs : Canon s) (b rec) : CanonO (appendFrame s b rec) := by
  grind [appendFrame, Canon, CanonO, canon_appendWhole]

theorem canon_steer (hs : Canon s) (f n) : Canon (steer s f n) := by
  grind [steer, Canon, CanonO, canon_setBridle, canon_appendFrame]

theorem canon_updPort (hs : Canon s) (p g) : Canon (updPort s p g) := hs

theorem canon_unmatched (hs : Canon s) (p) : Canon (unmatched s p) := hs

theorem canon_receive {s0 : State} (hs0 : Canon s0) (f) : Canon (receive s0 f) := by
  grind [receive, Canon, canon_updPort, canon_unmatched, canon_steer]

theorem canon_pickFrame (hs : Canon s) : CanonO (pickFrame s) := by
  grind [pickFrame, Canon, CanonO, canon_takeInput, canon_receive]

theorem canon_passMsg (hs : Canon s) (core n z) : Canon (passMsg s core n z) := hs

theorem canon_transmit (hs : Canon s) (p n bs) : Canon (transmit s p n bs) := by
  grind [transmit, Canon, canon_setBridle, canon_updPort]

theorem canon_drainOut (hs : Canon s) (t core n) : CanonO (drainOut s t core n) := by
  refine canonO_bind _ fun m => ?_
  split
  · exact canon_passMsg hs _ _ _
  · refine canonO_ite trivial (canonO_ite (canon_passMsg (canon_setBridle hs _ _ _) _ _ _) ?_)
    exact canon_passMsg (canon_transmit hs _ _ _) _ _ _

theorem canon_drainOn {u : State} (hu : Canon u) (core n a b) : Canon (drainOn core n a b u) := by
  induction a generalizing u b with
  | zero => exact hu
  | succ k ih =>
    rw [drainOn]
    split
    · exact hu
    · rename_i m e
      refine canon_ite hu ?_
      have out := canon_drainOut hu (max b m.1) core n
      split <;> rename_i e2
      · rw [e2] at out
        exact ih out _
      · exact hu

theorem canon_launchDue (hs : Canon s) (t) : Canon (launchDue t s) :=
  canon_foldl (fun _ _ h => canon_ite (canon_drainOn h _ _ _ _) h) _ hs

theorem canon_launchNow (hs : Canon s) (core n) : CanonO (launchNow s core n) := by
  grind [launchNow, Canon, CanonO, canon_askFence, canon_drainOut]

theorem canon_pickLaunch (hs : Canon s) : CanonO (pickLaunch s) :=
  canonO_findSome _ fun _ => canonO_ite (canon_launchNow hs _ _) trivial

/-! ### `Machine/System` -/

theorem canon_haltAt (hs : Canon s) (ra) : Canon (haltAt s ra) := by
  grind [haltAt, Canon, canon_updH, canon_saveHart]

theorem canon_execBrk (hs : Canon s) (imm) : CanonN (execBrk imm s) := by
  grind [execBrk, Canon, CanonN, CanonR, canon_finish, canon_afterQueue, canon_haltAt, canon_xtrap]

theorem canon_execHalt (hs : Canon s) : CanonN (execHalt s) := by
  grind [execHalt, Canon, CanonN, CanonR, canon_finish, canon_afterQueue, canon_updH, canon_countLeft, canon_haltAt,
    canon_endFocus]

theorem canon_tretTarget (hs : Canon s) (f) (hf : ∀ t, Canon t → CanonR (f t)) : CanonR (tretTarget s f) := by
  grind [tretTarget, Canon, CanonR, CanonX, canon_xtrap, canon_fetchBundle]

theorem canon_execTret (hs : Canon s) : CanonN (execTret s) := by
  grind [execTret, Canon, CanonN, CanonR, canon_finish, canon_illegal, canon_tretTarget, canon_countLeft,
    canon_endFocus, canon_updH, canon_jumpTo, canon_reissue]

end Sys2Proof.Proofs
end

section
/-! SUPPORT. Translation services, host commands, management, time and the service events keep memory in its canonical form. -/

namespace Sys2Proof.Proofs

open Sys2Proof.Machine Sys2Proof.Safety Sys2Proof.Rules Sys2Proof.Laws

variable {s : State}

/-! ### `Machine/Translate` -/

theorem canon_fillAll (hs : Canon s) (reqs e) : Canon (fillAll s reqs e) :=
  canon_foldl (fun _ _ h => canon_ite (canon_fillCore (canon_fillGroup h _ _) _ _) (canon_fillGroup h _ _)) _ hs

theorem canon_askPri (hs : Canon s) (pasid va kind) : CanonSnd (askPri s pasid va kind) := by
  grind [askPri, Canon, CanonSnd]

theorem canon_askPage (hs : Canon s) (pasid r) : Canon (askPage pasid s r) := by
  grind [askPage, Canon, CanonSnd, canon_askPri, canon_updHart]

theorem canon_writeLate (hs : Canon s) : Canon (writeLate s) :=
  canon_foldl (fun _ _ h => canon_writeRecord h _ _ _) _ hs

theorem canon_refuseAll (hs : Canon s) (reqs cause) : Canon (refuseAll s reqs cause) := hs

theorem canon_walkFor (hs : Canon s) (r mine) : Canon (walkFor s r mine) := by
  grind [walkFor, Canon, CanonWalkDone, canon_walkNow, canon_writeLate, canon_fillAll, canon_sendAts, canon_refuseAll]

theorem canon_pickWalk (hs : Canon s) : CanonO (pickWalk s) := by
  grind [pickWalk, Canon, CanonO, canon_walkFor]

theorem canon_swapLeaf (hs : Canon s) (k leaf pa) : ∀ p, swapLeaf s k leaf pa = some p → CanonFst p := by
  grind [swapLeaf, Canon, CanonFst, canon_markLeaf]

theorem canon_completeAts (hs : Canon s) (q hpa range rOk wOk xOk abort) :
    Canon (completeAts s q hpa range rOk wOk xOk abort) := by
  have erased : Canon { s with tab := { s.tab with ats := s.tab.ats.erase q } } := hs
  unfold completeAts
  simp only []
  split
  · exact erased
  · split
    · exact canon_refuseAll erased _ _
    · split
      · split
        · exact canon_walkFor erased _ _
        · rename_i m e
          exact canon_fillAll (canon_swapLeaf erased _ _ _ m e) _ _
      · exact canon_refuseAll (canon_foldl (fun _ _ h => canon_askPage h _ _) _ erased) _ _

theorem canon_pickAts (hs : Canon s) : CanonO (pickAts s) := by
  grind [pickAts, Canon, CanonO, canon_takeInput, canon_writeLate, canon_completeAts]

theorem canon_updSaved (hs : Canon s) (id f) : Canon (updSaved s id f) := hs

theorem canon_putS1 (hs : Canon s) (j v) : Canon (putS1 s j v) := by
  grind [putS1, Canon, canon_savePut]

theorem canon_endHeld (hs : Canon s) (id status) : Canon (endHeld s id status) := by
  grind [endHeld, Canon, canon_endHart, canon_endLoose, canon_removeLoose]

theorem canon_expireLoose (hs : Canon s) (id) : Canon (expireLoose s id) := by
  grind [expireLoose, Canon, canon_endHeld, canon_updSaved]

theorem canon_repairJob (hs : Canon s) (id) : Canon (repairJob s id) := by
  grind [repairJob, Canon, canon_atHart, canon_updH, canon_resumeHere, canon_putBack, canon_expireLoose,
    canon_updSaved]

theorem canon_faultJob (hs : Canon s) (j) : Canon (faultJob s j) := by
  grind [faultJob, Canon, canon_notice, canon_endHeld]

theorem canon_actPage (hs : Canon s) (j code) : Canon (actPage s j code) := by
  grind [actPage, Canon, canon_repairJob, canon_faultJob]

theorem canon_keepCode (hs : Canon s) (id code) : Canon (keepCode id code s) :=
  canon_mapLoose (canon_foldl (fun _ _ h => canon_updHart h _ _) _ hs) _

theorem canon_pageRecords (hs : Canon s) (id code) : Canon (pageRecords s id code) := by
  grind [pageRecords, Canon, canon_writeLate]

theorem canon_servePrg (hs : Canon s) : CanonO (servePrg s) :=
  canonO_map _ fun _ => canon_pageRecords (canon_foldl (fun _ _ h => canon_actPage h _ _) _
    (canon_keepCode (canon_dropEvent hs) _ _)) _ _

theorem canon_pickPrgInput (hs : Canon s) : CanonO (pickPrgInput s) := by
  grind [pickPrgInput, Canon, CanonO, canon_takeInput, canon_pushEvent]

theorem canon_pickPrg (hs : Canon s) : CanonO (pickPrg s) := canonO_orElse (canon_pickPrgInput hs) (canon_servePrg hs)

theorem canon_pickPri (hs : Canon s) : CanonO (pickPri s) := by
  grind [pickPri, Canon, CanonO, canon_takeInput]

theorem canon_invalidate (hs : Canon s) (v0) : Canon (invalidate s v0) := hs

theorem canon_pickInval (hs : Canon s) : CanonO (pickInval s) := by
  grind [pickInval, Canon, CanonO, canon_takeInput, canon_invalidate]

theorem canon_pickInvalDone (hs : Canon s) : CanonO (pickInvalDone s) := canonO_map _ fun _ => hs

theorem canon_errorIn (hs : Canon s) (i) : ∀ o, errorIn s i = some o → CanonN o := by
  intro o ho
  cases i <;> simp only [errorIn, reduceCtorEq, Option.some.injEq] at ho
  case error loc => subst ho; exact canon_ite hs hs
  case coreError core => subst ho; exact canon_ite (canon_askFence hs _) hs
  case lineError core fetch line => subst ho; exact canon_ite hs hs
  case stackError key i => subst ho; exact canon_ite (canon_updHart (canon_freshFree hs) _ _) hs
  case sramError => subst ho; trivial
  case corrected ch => subst ho; exact canon_telemetryOpen (s := { s with eccCount := _ }) hs _ _ _

theorem canon_execUncorrectableError (hs : Canon s) : CanonN (execUncorrectableError s) := by
  unfold execUncorrectableError
  split
  · exact hs
  · rename_i i t given
    cases found : errorIn { s with inputs := t } i.2 with
    | none => exact hs
    | some o => exact canon_errorIn (s := { s with inputs := t }) hs _ o found

theorem canon_pickDrain (hs : Canon s) : CanonO (pickDrain s) := by
  grind [pickDrain, Canon, CanonO, canon_takeInput, canon_askFence]

theorem canon_pickVamo (hs : Canon s) : CanonO (pickVamo s) := by
  grind [pickVamo, Canon, CanonO, canon_arriveVamo]

theorem canon_pickCombine (hs : Canon s) : CanonO (pickCombine s) := canonO_map _ fun _ => canon_retireWhere hs _ _

/-! ### `Machine/HostCmds` -/

theorem canon_queueCreateCmd (hs : Canon s) (c) : CanonC (queueCreateCmd c s) := by
  grind [queueCreateCmd, Canon, CanonC, canon_refuseCmd, canon_setQ]

theorem canon_queueDestroyCmd (hs : Canon s) (c) : CanonC (queueDestroyCmd c s) := by
  grind [queueDestroyCmd, Canon, CanonC, canon_refuseCmd, canon_setQ]

theorem canon_freePart (hs : Canon s) (mask) : CanonSnd (freePart s mask) := hs

theorem canon_joinTenant (hs : Canon s) (t part c) : Canon (joinTenant t part s c) := by
  grind [joinTenant, Canon, canon_returnUnrun, canon_releaseGangs, canon_newTenant, canon_setCore]

theorem canon_tenantCreateCmd (hs : Canon s) (c) : CanonC (tenantCreateCmd c s) := by
  have joined (t part : Nat) (l : List Nat) {u : State} (hu : Canon u) : Canon (l.foldl (joinTenant t part) u) :=
    canon_foldl (fun _ _ h => canon_joinTenant h _ _ _) l hu
  have part := canon_freePart hs ((maskOf c.p3 c.p4).getD 0)
  unfold tenantCreateCmd
  simp only []
  split
  · exact canon_refuseCmd hs 2
  · split
    · exact canon_refuseCmd hs 4
    · exact joined _ _ _ part

theorem canon_destroyTenant (hs : Canon s) (t) : Canon (destroyTenant s t) := by
  unfold destroyTenant
  extract_lets parts
  exact canon_dropTenant (canon_resetObjects (canon_endTenant (canon_foldl (fun _ _ h => canon_resetPartition h _) _ hs) t) t) t

theorem canon_tenantDestroyCmd (hs : Canon s) (c) : CanonC (tenantDestroyCmd c s) := by
  grind [tenantDestroyCmd, Canon, CanonC, canon_refuseCmd, canon_destroyTenant]

theorem canon_ptAttachCmd (hs : Canon s) (c) : CanonC (ptAttachCmd c s) := by
  grind [ptAttachCmd, Canon, CanonC, canon_refuseCmd, canon_invalidate]

theorem canon_lendCmd (hs : Canon s) (c) : CanonC (lendCmd c s) := by
  grind [lendCmd, Canon, CanonC, canon_refuseCmd, canon_startLend]

theorem canon_reclaimAtCmd (hs : Canon s) (c) : CanonC (reclaimAtCmd c s) := by
  grind [reclaimAtCmd, Canon, CanonC, canon_refuseCmd]

theorem canon_slotSetCmd (hs : Canon s) (c) : CanonC (slotSetCmd c s) := by
  grind [slotSetCmd, Canon, CanonC, canon_refuseCmd, canon_withBytes, canon_setSlot]

theorem canon_bridleSetCmd (hs : Canon s) (c) : CanonC (bridleSetCmd c s) := by
  grind [bridleSetCmd, Canon, CanonC, canon_refuseCmd, canon_withBytes, canon_setBridle]

theorem canon_withRecord (hs : Canon s) (c f) (hf : ∀ a t, Canon t → CanonC (f a t)) : CanonC (withRecord s c f) := by
  grind [withRecord, Canon, CanonC, canon_refuseCmd, canon_withBytes]

theorem canon_launchCmd (hs : Canon s) (c) : CanonC (launchCmd c s) := by
  grind [launchCmd, Canon, CanonC, CanonSnd, canon_withRecord, canon_refuseCmd, canon_launchRoot, canon_pushPool]

theorem canon_gangLaunchCmd (hs : Canon s) (c) : CanonC (gangLaunchCmd c s) := by
  grind [gangLaunchCmd, Canon, CanonC, CanonSnd, canon_withRecord, canon_refuseCmd, canon_withBytes, canon_newTree,
    canon_queueGang]

theorem canon_copySpool (hs : Canon s) (T ea) : CanonSnd (copySpool s T ea) := by
  grind [copySpool, Canon, CanonAX, CanonSnd, canon_cmdPlace]

theorem canon_copyCmd (hs : Canon s) (c) : CanonC (copyCmd c s) := by
  grind [copyCmd, Canon, CanonC, CanonO, CanonSnd, canon_refuseCmd, canon_copySpool, canon_acceptList]

theorem canon_signalCmd (hs : Canon s) (c) : CanonC (signalCmd c s) := by
  grind [signalCmd, Canon, CanonC, canon_refuseCmd, canon_depDecStep]

theorem canon_codingCfgCmd (hs : Canon s) (c) : CanonC (codingCfgCmd c s) := by
  grind [codingCfgCmd, Canon, CanonC, canon_refuseCmd, canon_setEng]

theorem canon_telemetryCmd (hs : Canon s) (c) : CanonC (telemetryCmd c s) := by
  grind [telemetryCmd, Canon, CanonC, canon_refuseCmd, canon_withBuffer, canon_putBytesAt]

theorem canon_attestOut (hs : Canon s) (c bs) : CanonC (attestOut c s bs) := by
  grind [attestOut, Canon, CanonC, canon_refuseCmd, canon_withBuffer, canon_putBytesAt]

theorem canon_attestCmd (hs : Canon s) (c) : CanonC (attestCmd c s) := by
  grind [attestCmd, Canon, CanonC, canon_attestOut, canon_withBytes, canon_refuseCmd]

theorem canon_partResetCmd (hs : Canon s) (c) : CanonC (partResetCmd c s) := by
  grind [partResetCmd, Canon, CanonC, canon_refuseCmd, canon_resetPartition]

theorem canon_unhalt (hs : Canon s) (key) : Canon (unhalt s key) := by
  grind [unhalt, Canon, canon_atHart, canon_bumpLink, canon_updH]

theorem canon_closeSession (hs : Canon s) (part) : Canon (closeSession s part) :=
  canon_foldl (fun _ _ h => canon_ite (canon_unhalt h _) (canon_updHart h _ _)) _ hs

theorem canon_debugSessionCmd (hs : Canon s) (c) : CanonC (debugSessionCmd c s) := by
  grind [debugSessionCmd, Canon, CanonC, canon_refuseCmd, canon_closeSession]

theorem canon_onDebug (hs : Canon s) (c f) (hf : ∀ a, CanonC (f a)) : CanonC (onDebug c s f) := by
  grind [onDebug, Canon, CanonC, canon_refuseCmd]

theorem canon_debugHaltCmd (hs : Canon s) (c) : CanonC (debugHaltCmd c s) := by
  grind [debugHaltCmd, Canon, CanonC, canon_onDebug, canon_refuseCmd, canon_atHart, canon_haltAt, canon_dropWalks,
    canon_updHart]

theorem canon_debugReadCmd (hs : Canon s) (c) : CanonC (debugReadCmd c s) := by
  grind [debugReadCmd, Canon, CanonC, canon_onDebug, canon_refuseCmd, canon_withBuffer, canon_putBytesAt]

theorem canon_debugResumeCmd (hs : Canon s) (c) : CanonC (debugResumeCmd c s) := by
  grind [debugResumeCmd, Canon, CanonC, canon_onDebug, canon_unhalt, canon_refuseCmd]

theorem canon_keySetCmd (hs : Canon s) (c) : CanonC (keySetCmd c s) := by
  grind [keySetCmd, Canon, CanonC, canon_refuseCmd, canon_withBytes, canon_withBuffer, canon_putBytesAt]

theorem canon_giveCounter (hs : Canon s) (t n) : Canon (giveCounter t s n) := hs

theorem canon_giveBarrier (hs : Canon s) (t n) : Canon (giveBarrier t s n) := by
  unfold giveBarrier
  split <;> exact hs

theorem canon_allocCmd (hs : Canon s) (c) : CanonC (allocCmd c s) := by
  have counters (l : List Nat) : CanonC (.done 0 0 0 (l.foldl (giveCounter c.p3.toNat) s)) :=
    canon_foldl (fun _ _ h => canon_giveCounter h _ _) l hs
  have barriers (l : List Nat) : CanonC (.done 0 0 0 (l.foldl (giveBarrier c.p3.toNat) s)) :=
    canon_foldl (fun _ _ h => canon_giveBarrier h _ _) l hs
  unfold allocCmd
  simp only []
  split_ifs
  · exact canon_refuseCmd hs 2
  · exact canon_refuseCmd hs 2
  · exact canon_refuseCmd hs 4
  · exact counters _
  · exact canon_refuseCmd hs 2
  · exact canon_refuseCmd hs 4
  · exact barriers _

theorem canon_fenceCmdR (hs : Canon s) (c) : CanonC (fenceCmdR c s) := by
  grind [fenceCmdR, Canon, CanonC, canon_refuseCmd, canon_askFence]

theorem canon_powerLimitCmd (hs : Canon s) (c) : CanonC (powerLimitCmd c s) := by
  grind [powerLimitCmd, Canon, CanonC, canon_refuseCmd, canon_setPowerLimit]

theorem canon_queryEntry (hs : Canon s) (f e) : CanonC (queryEntry s f e) := by
  grind [queryEntry, Canon, CanonC, CanonSnd, canon_freshFree]

theorem canon_queryCmd (hs : Canon s) (c) : CanonC (queryCmd c s) := by
  grind [queryCmd, Canon, CanonC, canon_refuseCmd, canon_queryEntry]

/-! ### `Machine/LoadStore` -/

theorem canon_execLds (hs : Canon s) (sd sa sz sx ord off) : CanonN (execLds sd sa sz sx ord off s) := by
  grind [execLds, Canon, CanonN, CanonR, CanonX, canon_finish, canon_coherent, canon_ofLoad, canon_loadX, canon_wrS,
    canon_acquireIf]

theorem canon_execSts (hs : Canon s) (sd sa sz ord off) : CanonN (execSts sd sa sz ord off s) := by
  grind [execSts, Canon, CanonN, CanonR, CanonX, canon_finish, canon_released, canon_coherent, canon_ofStore,
    canon_storeX]

/-! ### `Machine/Management` -/

theorem canon_storeTarget (hs : Canon s) (a) : ∀ p, storeTarget s a = some p → CanonSnd p := by
  grind [storeTarget, Canon, CanonSnd, CanonX, canon_siteCheck]

theorem canon_storeAt (hs : Canon s) (t v) : Canon (storeAt s t v) := by
  cases t with
  | io x y o => exact canon_ioWrite hs x y o v
  | ctl c o => exact canon_ctlWrite hs c o v
  | mem l k => exact canon_getD (canon_writeLoc hs _ _ _) hs
  | far => exact hs

theorem canon_pickStore (hs : Canon s) (k) : CanonO (pickStore k s) := by
  refine canon_takeInput hs _ fun i t ht => ?_
  cases i with
  | store a v =>
    simp only []
    split
    · rename_i x u e
      exact canonO_ite (canon_storeAt (canon_storeTarget ht a _ e) _ _) trivial
    · exact canonO_ite ht trivial
  | _ => trivial

theorem canon_pickBell (hs : Canon s) : CanonO (pickBell s) := by
  refine canonO_orElse (canon_pickStore hs _) (canon_takeInput hs _ fun i t ht => ?_)
  split
  · exact canon_writeBar2 ht _ _ _
  · trivial

theorem canon_pickCmdBell (hs : Canon s) : CanonO (pickCmdBell s) := by
  refine canonO_orElse (canon_takeInput hs _ fun i t ht => ?_) (canon_pickTake hs)
  split
  · exact canonO_ite (canon_writeTail ht _ _) trivial
  · trivial

theorem canon_twinWrite (hs : Canon s) (l cache bs) : Canon (twinWrite s l cache bs) := by
  grind [twinWrite, Canon, CanonFst, canon_writeParts, canon_useLines]

theorem canon_pickRegister (hs : Canon s) : CanonO (pickRegister s) := by
  refine canonO_orElse (canon_pickStore hs _) (canon_takeInput hs _ fun i t ht => ?_)
  split
  · exact canonO_ite trivial (canon_writeBar0 ht _ _ _)
  · exact ht
  · exact ht
  · exact canon_pokeLoc ht _ _ _
  · exact canon_twinWrite ht _ _ _
  · exact ht
  · trivial

theorem canon_pickClaim (hs : Canon s) : CanonO (pickClaim s) := by
  grind [pickClaim, Canon, CanonO, CanonSnd, canon_takeInput, canon_ioRead]

theorem canon_tripEntry (hs : Canon s) (on n) : Canon (tripEntry s on n) := by
  grind [tripEntry, Canon, canon_telemetry]

theorem canon_pickTrip (hs : Canon s) : CanonO (pickTrip s) :=
  canonO_ite trivial (canonO_map _ fun _ => canon_tripEntry hs _ _)

theorem canon_pickTripEnd (hs : Canon s) : CanonO (pickTripEnd s) := by
  grind [pickTripEnd, Canon, CanonO, canon_tripEntry]

theorem canon_powerEnd (hs : Canon s) (w) : Canon (powerEnd s w) := by
  grind [powerEnd, Canon, canon_telemetry]

theorem canon_pickPower (hs : Canon s) : CanonO (pickPower s) := by
  grind [pickPower, Canon, CanonO, canon_takeInput, canon_powerEnd]

/-! ### `Machine/ScalarFp` -/

theorem canon_fpResult (hs : Canon s) (sd f v) : CanonN (fpResult s sd f v) := by
  grind [fpResult, Canon, CanonN, CanonR, canon_mergeFlags, canon_finish, canon_xtrap, canon_wrS]

theorem canon_fpScalar (hs : Canon s) (sd sa sb pr op) : CanonN (fpScalar sd sa sb pr op s) := by
  grind [fpScalar, Canon, CanonN, canon_fpResult]

theorem canon_execFsqrt (hs : Canon s) (sd sa pr) : CanonN (execFsqrt sd sa pr s) := by
  unfold execFsqrt
  exact canon_fpScalar hs _ _ _ _ _

theorem canon_execFmadd (hs : Canon s) (sd sa sb sc pr) : CanonN (execFmadd sd sa sb sc pr s) := by
  unfold execFmadd
  exact canon_fpScalar hs _ _ _ _ _

theorem canon_execFmin (hs : Canon s) (sd sa sb pr) : CanonN (execFmin sd sa sb pr s) := by
  unfold execFmin
  exact canon_fpScalar hs _ _ _ _ _

theorem canon_execFmax (hs : Canon s) (sd sa sb pr) : CanonN (execFmax sd sa sb pr s) := by
  unfold execFmax
  exact canon_fpScalar hs _ _ _ _ _

theorem canon_execFcmp (hs : Canon s) (sd sa sb cond pr) : CanonN (execFcmp sd sa sb cond pr s) := by
  grind [execFcmp, Canon, CanonN, canon_fpResult]

theorem canon_execFcvt (hs : Canon s) (sd sa st dt) : CanonN (execFcvt sd sa st dt s) := by
  grind [execFcvt, Canon, CanonN, canon_fpResult]

/-! ### `Machine/TimeLink` -/

theorem canon_updTime (hs : Canon s) (f) : Canon (updTime s f) := hs

theorem canon_setFine (hs : Canon s) (t) : Canon (setFine s t) := hs

theorem canon_passTime (hs : Canon s) (d) : Canon (passTime s d) := hs

theorem canon_takePtp (hs : Canon s) (port master age) : Canon (takePtp s port master age) := by
  grind [takePtp, Canon, canon_updTime]

theorem canon_pickPtp (hs : Canon s) : CanonO (pickPtp s) := by
  grind [pickPtp, Canon, CanonO, canon_takeInput, canon_takePtp]

theorem canon_pickEsmc (hs : Canon s) : CanonO (pickEsmc s) := by
  grind [pickEsmc, Canon, CanonO, canon_takeInput, canon_updTime]

theorem canon_passSlots (hs : Canon s) (t) : Canon (passSlots s t) :=
  canon_foldl (fun _ _ h => canon_ite (canon_setSlot h _ _) h) _ hs

theorem canon_passDeadlines (hs : Canon s) : Canon (passDeadlines s) :=
  canon_foldl (fun t p h => by
    split
    · exact canon_ite (canon_abandonTree h _ _) h
    · exact h) _ hs

theorem canon_firstLock (hs : Canon s) (t) : Canon (firstLock s t) := by
  grind [firstLock, Canon, canon_updTime, canon_setFine, canon_telemetryOpen, canon_passDeadlines, canon_passSlots]

theorem canon_pickTimeStep (hs : Canon s) : CanonO (pickTimeStep s) := by
  grind [pickTimeStep, Canon, CanonO, canon_takeInput, canon_firstLock]

theorem canon_pickLock (hs : Canon s) : CanonO (pickLock s) := by
  grind [pickLock, Canon, CanonO, canon_takeInput, canon_telemetryOpen, canon_updTime]

theorem canon_pickReplay (hs : Canon s) : CanonO (pickReplay s) := by
  grind [pickReplay, Canon, CanonO, canon_takeInput]

theorem canon_retrain (hs : Canon s) (l half) : Canon (retrain s l half) := by
  grind [retrain, Canon, canon_telemetryOpen]

theorem canon_pickWorn (hs : Canon s) : CanonO (pickWorn s) :=
  canonO_map _ fun _ => canon_retrain (canon_freshFree hs) _ _

theorem canon_pickRetrain (hs : Canon s) : CanonO (pickRetrain s) := by
  refine canonO_orElse (canon_takeInput hs _ fun i t ht => ?_) (canon_pickWorn hs)
  split
  · exact canon_retrain ht _ _
  · trivial

theorem canon_setTether (hs : Canon s) (up) : Canon (setTether s up) := by
  grind [setTether, Canon, canon_telemetryOpen]

theorem canon_pickTetherDown (hs : Canon s) : CanonO (pickTetherDown s) := by
  grind [pickTetherDown, Canon, CanonO, canon_takeInput, canon_setTether]

theorem canon_pickTetherUp (hs : Canon s) : CanonO (pickTetherUp s) := by
  grind [pickTetherUp, Canon, CanonO, canon_takeInput, canon_setTether]

/-! ### `Machine/ServiceEvents` -/

theorem canon_pickTrap (hs : Canon s) (p act) (hact : ∀ t a, Canon t → Canon (act t a)) :
    CanonO (pickTrap s p act) := by
  grind [pickTrap, Canon, CanonO, canon_dropEvent]

theorem canon_pageTrap (hs : Canon s) (j) : Canon (pageTrap s j) := by
  grind [pageTrap, Canon, canon_faultJob, canon_actPage]

theorem canon_trapAct (hs : Canon s) (j) : Canon (trapAct s j) := by
  grind [trapAct, Canon, canon_pageTrap, canon_faultJob]

theorem canon_serve (hs : Canon s) (j v) : Canon (serve s j v) := by
  grind [serve, Canon, canon_repairJob, canon_putS1]

theorem canon_serveNotice (hs : Canon s) (j) : Canon (serveNotice s j) := by
  grind [serveNotice, Canon, canon_serve, canon_notice]

theorem canon_serveLog (hs : Canon s) (j) : Canon (serveLog s j) := by
  grind [serveLog, Canon, canon_serve, canon_telemetry]

theorem canon_pickFirmware (hs : Canon s) : CanonO (pickFirmware s) := by
  refine canonO_orElse (canon_takeInput hs _ fun i t ht => ?_) (canonO_ite (canon_dropEvent hs) trivial)
  split
  · exact canon_pushEvent ht _
  · trivial

theorem canon_dropHalt (hs : Canon s) (c) : Canon (dropHalt s c) := by
  grind [dropHalt, Canon, canon_updHart]

theorem canon_interrupt (hs : Canon s) (h) : Canon (interrupt s h) := by
  grind [interrupt, Canon, canon_putResult, canon_journal, canon_dropWalks, canon_dropHalt]

theorem canon_expireWatchdog (hs : Canon s) (core) : Canon (expireWatchdog s core) :=
  canon_foldl (fun _ _ h => canon_interrupt h _) _ (canon_telemetryOpen hs _ _ _)

theorem canon_pickOverdue (hs : Canon s) : CanonO (pickOverdue s) :=
  canonO_ite trivial (canonO_map _ fun _ => canon_expireWatchdog hs _)

theorem canon_pickWatchdog (hs : Canon s) : CanonO (pickWatchdog s) := by
  refine canonO_orElse (canon_takeInput hs _ fun i t ht => ?_) (canon_pickOverdue hs)
  split
  · exact canon_ite ht (canon_expireWatchdog ht _)
  · trivial

theorem canon_restarted (hs : Canon s) : Canon (restarted s) :=
  canon_foldl (fun _ _ h => canon_ringFn (canon_setFn h _ _) _) _ (canon_telemetryOpen hs _ _ _)

theorem canon_askRestart (hs : Canon s) : Canon (askRestart s) := by
  grind [askRestart, Canon, canon_restarted]

theorem canon_pickRestart (hs : Canon s) : CanonO (pickRestart s) := by
  refine canonO_orElse (canon_takeInput hs _ fun i t ht => ?_) (canonO_ite (canon_restarted hs) trivial)
  split
  · exact canon_askRestart ht
  · trivial

theorem canon_ballastAt (hs : Canon s) (f) : Canon (ballastAt s f) := by
  grind [ballastAt, Canon, canon_takeCmd, canon_setFn]

theorem canon_pickBallast (hs : Canon s) : CanonO (pickBallast s) :=
  canonO_ite trivial (canonO_map _ fun _ => canon_ballastAt hs _)

theorem canon_powerUp (hs : Canon s) : Canon (powerUp s) := memWf_filter _ hs

theorem canon_bootStep (hs : Canon s) : Canon (bootStep s) := by
  grind [bootStep, Canon, canon_setHart, State.reset]

theorem canon_pickBoot (hs : Canon s) : CanonO (pickBoot s) := by
  grind [pickBoot, Canon, CanonO, canon_bootStep]

theorem canon_pickPowerOn (hs : Canon s) : CanonO (pickPowerOn s) := by
  refine canonO_orElse (canon_takeInput hs _ fun i t ht => ?_) (canon_pickBoot hs)
  split
  · exact canon_powerUp ht
  · trivial

theorem canon_execDeviceReset (hs : Canon s) : CanonN (execDeviceReset s) := memWf_filter _ hs

/-! ### `Machine/TimePmc` -/

theorem canon_execPmcCfg (hs : Canon s) (sd n sb) : CanonN (execPmcCfg sd n sb s) := by
  grind [execPmcCfg, Canon, CanonN, CanonR, canon_updH, canon_finish, canon_wrS]

end Sys2Proof.Proofs
end

section
/-! SUPPORT. Every instruction, command and event, the issue of a unit and a step keep memory in its canonical form. -/

namespace Sys2Proof.Proofs

open Sys2Proof.Machine Sys2Proof.Safety Sys2Proof.Rules Sys2Proof.Laws

variable {s : State}

/-! ### `Machine/Dispatch` -/

theorem canon_vexec_vopOf (hs : Canon s) {i op} (h : vopOf i = some op) {a b} : CanonN (vexec i op a b s) :=
  canon_vexec (keeps_vopOf i op h) hs i a b

theorem canon_exec (hs : Canon s) (i) : CanonN (exec i s) := by
  cases i with
  | brk => exact canon_execBrk hs _
  | tret => exact canon_execTret hs
  | halt => exact canon_execHalt hs
  | mfc => exact canon_finish (canon_mfcR hs _ _)
  | mtc => exact canon_finish (canon_mtcR hs _ _ _)
  | setc => exact canon_finish (canon_setcR hs _ _ _)
  | clrc => exact canon_finish (canon_clrcR hs _ _ _)
  | add | sub | and | or | xor | sll | srl | sra | min | max | minn | maxn | slt | sltn | addi | andi | ori | xori |
    slli | srli | srai | slti | sltin | lui | adpc | sitea | siteaRel | here | mul | mulh | mulhn | div | divn | rem |
    remn | clz | ctz | popc | bswap | ext | fclass | fmv | winGet | now | pmc =>
    exact canon_result hs _ _
  | beq | bne | blt | bge | bltn | bgen => exact canon_branchIf hs _ _
  | call => exact canon_execCall hs _
  | jr => exact canon_execJr hs _
  | callr => exact canon_execCallr hs _
  | ret => exact canon_execRet hs
  | loop => exact canon_execLoop hs _ _
  | lds => exact canon_execLds hs _ _ _ _ _ _
  | sts => exact canon_execSts hs _ _ _ _ _
  | amoAdd | amoAnd | amoOr | amoXor | amoMin | amoMax | amoMinn | amoMaxn | amoSwap | amoCas | amoFadd =>
    exact canon_atomic hs _ _ _ _ _ _ _ _
  | fence => exact canon_finish (canon_fenceR hs _ _)
  | lsync => exact canon_finish (canon_lsyncR hs)
  | vfence => exact canon_finish (canon_vfenceR hs)
  | qfence => exact canon_finish (canon_qfenceR hs)
  | vld | vlds | vldx | vld2d | vldl | vst | vsts | vstx | vst2d | vstc | vamoAdd | vamoMin | vamoMax | vamoOr |
    vamoXor | vadd | vsub | vmin | vmax | vminn | vmaxn | vabs | vand | vor | vxor | vsll | vsrl | vsra | vsadd | vssub
    | vsaddn | vssubn | vnclip | vwadd | vwmul | vmacc | vmul | vmulh | vmulhn | vdiv | vdivn | vrem | vremn | vcmp |
    vcmpn | vfcmp | kand | kor | kxor | kandn | knot | kmov | kpopc | kfirst | vmv | vslideup | vslidedn | vslide1up |
    vslide1dn | vgather | vcompress | vexpand | vmerge | vid | viota | vzip | vunzip | vtrn | vbcast | vmvs | vins |
    vfadd | vfsub | vfmul | vfdiv | vfsqrt | vfmin | vfmax | vfsgnj | vfmadd | vfmsub | vfnmadd | vfnmsub | vfwmul |
    vfwmacc | vfabs | vfneg | vfclass | vfrec | vfrsqrt | vfcvt | vfcvtRtz | vfsin | vfcos | vfsint | vfcost | vfexp2 |
    vflog2 | vfatan2 | vftanh | vcmul | vcmac | vcmacj | vcconj | vcabs2 | vcrot | vbfly | vbfly4 | vtgj | vtchol |
    vtmul | vtherm | vredsum | vredmin | vredmax | vfredsum | vfredmin | vfredmax | vcredsum | vredsumw | mzero | mop |
    mopv | mld | mst | mcvt =>
    exact canon_vexec_vopOf hs rfl
  | vldw => exact canon_execVldw hs _ _ _ _ _
  | setvl | setvli | settile => exact canon_setLen hs _ _ _ _
  | spawn => exact canon_execSpawn hs _ _
  | gang => exact canon_execGang hs _ _ _
  | abandon => exact canon_execAbandon hs _ _
  | setdl => exact canon_execSetdl hs _ _
  | depInit => exact canon_execDepInit hs _ _ _
  | depAdd => exact canon_execDepAdd hs _ _ _
  | depGet => exact canon_execDepGet hs _ _
  | barInit => exact canon_execBarInit hs _ _ _
  | barArrive | barArriveFsum | barArriveFsum2 | barArriveIsum => exact canon_finish (canon_arriveR hs _ _ _ _ _ _)
  | barWait => exact canon_execBarWait hs _ _ _
  | barWaitt => exact canon_execBarWaitt hs _ _ _
  | tktTake => exact canon_finish (canon_ticketStep hs _ _)
  | tktWait => exact canon_execTktWait hs _ _
  | tktWaitt => exact canon_execTktWaitt hs _ _ _
  | winCfg => exact canon_execWinCfg hs _ _ _
  | winArm => exact canon_execWinArm hs _ _ _
  | winaWait => exact canon_execWinaWait hs _ _ _
  | winaWaitt => exact canon_execWinaWaitt hs _ _ _
  | splPush => exact canon_finish (canon_splPushR hs _ _)
  | splStat => exact canon_execSplStat hs _ _
  | cpost => exact canon_finish (canon_cpostR hs _ _ _)
  | msgSend => exact canon_execMsgSend hs _ _
  | msgSendv => exact canon_execMsgSendv hs _ _ _
  | pmcCfg => exact canon_execPmcCfg hs _ _ _
  | fadd | fsub | fmul | fdiv => exact canon_fpScalar hs _ _ _ _ _
  | fsqrt => exact canon_execFsqrt hs _ _ _
  | fmadd => exact canon_execFmadd hs _ _ _ _ _
  | fmin => exact canon_execFmin hs _ _ _ _
  | fmax => exact canon_execFmax hs _ _ _ _
  | fcmp => exact canon_execFcmp hs _ _ _ _ _
  | fcvt => exact canon_execFcvt hs _ _ _ _
  | powerOn => exact canon_getD (canon_pickPowerOn hs) hs
  | deviceReset => exact canon_execDeviceReset hs
  | convoyBegin => exact canon_getD (canon_pickConvoy hs) hs
  | vectorRetire => exact canon_getD (canon_pickRetire hs) hs
  | resynchronisingAccess => exact canon_getD (canon_pickResync hs) hs
  | mopBegin => exact canon_getD (canon_pickMopBegin hs) hs
  | mopRetire => exact canon_getD (canon_pickMopRetire hs) hs
  | vldwGroup => exact canon_getD (canon_pickVldw hs) hs
  | storeRefusal | ringGuard => exact canon_getD (canon_pickPosted hs _) hs
  | impreciseTrap => exact canon_getD (canon_pickImprecise hs) hs
  | resume | jobBind => exact canon_getD (canon_pickBind hs _) hs
  | preemption => exact canon_getD (canon_pickPreempt hs) hs
  | expiry => exact canon_getD (canon_pickExpiry hs) hs
  | treeDeadline => exact canon_getD (canon_pickTreeDeadline hs) hs
  | slotCreation => exact canon_getD (canon_pickSlot hs) hs
  | reclaimAtTimer => exact canon_getD (canon_pickReclaimAt hs) hs
  | graceEnd => exact canon_getD (canon_pickGraceEnd hs) hs
  | timedWaitLimit => exact canon_getD (canon_pickWaitLimit hs) hs
  | waitConditionMet => exact canon_getD (canon_pickWaitMet hs) hs
  | atTimer => exact canon_getD (canon_pickAtTimer hs) hs
  | fhoutLaunch => exact canon_getD (canon_pickLaunch hs) hs
  | reclaimDrainTimeout => exact canon_getD (canon_pickDrain hs) hs
  | uncorrectableError => exact canon_execUncorrectableError hs
  | dispatcherPlacement => exact canon_getD (canon_pickPlacement hs) hs
  | stealRequest => exact canon_getD (canon_pickSteal hs) hs
  | stealGrant => exact canon_getD (canon_pickGrant hs) hs
  | setdlRequest => exact canon_getD (canon_pickSetdl hs) hs
  | gangReservation => exact canon_getD (canon_pickReserve hs) hs
  | gangStart => exact canon_getD (canon_pickGangStart hs) hs
  | lendComplete => exact canon_getD (canon_pickLend hs) hs
  | savedGroupRestore => exact canon_getD (canon_pickRestore hs) hs
  | vamoArrival => exact canon_getD (canon_pickVamo hs) hs
  | combiningTimeout => exact canon_getD (canon_pickCombine hs) hs
  | pageWalk => exact canon_getD (canon_pickWalk hs) hs
  | atsCompletion => exact canon_getD (canon_pickAts hs) hs
  | prgResponse => exact canon_getD (canon_pickPrg hs) hs
  | invalidateRequest => exact canon_getD (canon_pickInval hs) hs
  | invalidateCompletion => exact canon_getD (canon_pickInvalDone hs) hs
  | spoolChunk => exact canon_getD (canon_pickChunk hs) hs
  | chunkArrival => exact canon_getD (canon_pickArrival hs) hs
  | src => exact canon_getD (canon_pickSrc hs) hs
  | dst => exact canon_getD (canon_pickDst hs) hs
  | push => exact canon_getD (canon_pickPush hs) hs
  | mcast => exact canon_getD (canon_pickMcast hs) hs
  | gather => exact canon_getD (canon_pickGather hs) hs
  | cvt => exact canon_getD (canon_pickCvt hs) hs
  | clistLoop => exact canon_getD (canon_pickLoop hs) hs
  | waitd => exact canon_getD (canon_pickWaitd hs) hs
  | atTime => exact canon_getD (canon_pickAt hs) hs
  | notifyDec => exact canon_getD (canon_pickNotifyDec hs) hs
  | notifyPost => exact canon_getD (canon_pickNotifyPost hs) hs
  | recRecord => exact canon_getD (canon_pickRec hs) hs
  | endList => exact canon_getD (canon_pickEnd hs) hs
  | codingCommandStart => exact canon_execCodingCommandStart hs
  | codingCommandEnd => exact canon_execCodingCommandEnd hs
  | messageAppend => exact canon_getD (canon_pickMessageIn hs) hs
  | msgSendvRetry => exact canon_getD (canon_pickRetry hs) hs
  | ingressFrame => exact canon_getD (canon_pickFrame hs) hs
  | ptpFrame => exact canon_getD (canon_pickPtp hs) hs
  | esmcMessage => exact canon_getD (canon_pickEsmc hs) hs
  | timeStep => exact canon_getD (canon_pickTimeStep hs) hs
  | lockStateChange => exact canon_getD (canon_pickLock hs) hs
  | flitReplay => exact canon_getD (canon_pickReplay hs) hs
  | linkRetrain => exact canon_getD (canon_pickRetrain hs) hs
  | tetherDown => exact canon_getD (canon_pickTetherDown hs) hs
  | barrierArrival => exact canon_execBarrierArrival hs
  | ticketPoll => exact canon_getD (canon_pickTicketPoll hs) hs
  | launchDoorbell => exact canon_getD (canon_pickBell hs) hs
  | commandDoorbell => exact canon_getD (canon_pickCmdBell hs) hs
  | telemetryClaim => exact canon_getD (canon_pickClaim hs) hs
  | powerLimitRegisterWrite | portModeWrite | windowDescriptorStore => exact canon_getD (canon_pickStore hs _) hs
  | registerWrite => exact canon_getD (canon_pickRegister hs) hs
  | queueCreate => exact canon_runCmd hs _ _ _ fun _ _ ht => canon_queueCreateCmd ht _
  | queueDestroy => exact canon_runCmd hs _ _ _ fun _ _ ht => canon_queueDestroyCmd ht _
  | tenantCreate => exact canon_runCmd hs _ _ _ fun _ _ ht => canon_tenantCreateCmd ht _
  | tenantDestroy => exact canon_runCmd hs _ _ _ fun _ _ ht => canon_tenantDestroyCmd ht _
  | ptAttach => exact canon_runCmd hs _ _ _ fun _ _ ht => canon_ptAttachCmd ht _
  | lend => exact canon_runCmd hs _ _ _ fun _ _ ht => canon_lendCmd ht _
  | reclaim => exact canon_execReclaim hs
  | reclaimAt => exact canon_runCmd hs _ _ _ fun _ _ ht => canon_reclaimAtCmd ht _
  | slotSet => exact canon_runCmd hs _ _ _ fun _ _ ht => canon_slotSetCmd ht _
  | bridleSet => exact canon_runCmd hs _ _ _ fun _ _ ht => canon_bridleSetCmd ht _
  | launch => exact canon_runCmd hs _ _ _ fun _ _ ht => canon_launchCmd ht _
  | gangLaunch => exact canon_runCmd hs _ _ _ fun _ _ ht => canon_gangLaunchCmd ht _
  | copy => exact canon_runCmd hs _ _ _ fun _ _ ht => canon_copyCmd ht _
  | signal => exact canon_runCmd hs _ _ _ fun _ _ ht => canon_signalCmd ht _
  | codingCfg => exact canon_runCmd hs _ _ _ fun _ _ ht => canon_codingCfgCmd ht _
  | telemetry => exact canon_runCmd hs _ _ _ fun _ _ ht => canon_telemetryCmd ht _
  | attest => exact canon_runCmd hs _ _ _ fun _ _ ht => canon_attestCmd ht _
  | partReset => exact canon_runCmd hs _ _ _ fun _ _ ht => canon_partResetCmd ht _
  | debugSession => exact canon_runCmd hs _ _ _ fun _ _ ht => canon_debugSessionCmd ht _
  | debugHalt => exact canon_runCmd hs _ _ _ fun _ _ ht => canon_debugHaltCmd ht _
  | debugRead => exact canon_runCmd hs _ _ _ fun _ _ ht => canon_debugReadCmd ht _
  | debugResume => exact canon_runCmd hs _ _ _ fun _ _ ht => canon_debugResumeCmd ht _
  | keySet => exact canon_runCmd hs _ _ _ fun _ _ ht => canon_keySetCmd ht _
  | alloc => exact canon_runCmd hs _ _ _ fun _ _ ht => canon_allocCmd ht _
  | fenceCmd => exact canon_runCmd hs _ _ _ fun _ _ ht => canon_fenceCmdR ht _
  | powerLimit => exact canon_runCmd hs _ _ _ fun _ _ ht => canon_powerLimitCmd ht _
  | queryResult => exact canon_runCmd hs _ _ _ fun _ _ ht => canon_queryCmd ht _
  | deferredCompletion => exact canon_getD (canon_pickDeferred hs) hs
  | firmwareTimer => exact canon_getD (canon_pickFirmware hs) hs
  | watchdogExpiry => exact canon_getD (canon_pickWatchdog hs) hs
  | serviceRestart => exact canon_getD (canon_pickRestart hs) hs
  | ballastTurn => exact canon_getD (canon_pickBallast hs) hs
  | tripHoldBegin => exact canon_getD (canon_pickTrip hs) hs
  | tripHoldEnd => exact canon_getD (canon_pickTripEnd hs) hs
  | powerStep => exact canon_getD (canon_pickPower hs) hs
  | tetherUp => exact canon_getD (canon_pickTetherUp hs) hs
  | priReenable => exact canon_getD (canon_pickPri hs) hs
  | unplacedSlotSkip => exact canon_getD (canon_pickUnplaced hs) hs
  | nop => exact canon_finish (r := .ok s) hs
  | svc => exact canon_countLeft (canon_deliver hs _ _ _ _) _
  | isync => exact canon_finish (canon_afterQueue hs _ _ fun _ ht => ht)
  | j => exact canon_finish (r := .ok (jumpTo s _)) (canon_jumpTo hs _)
  | exitJob => exact canon_finish (canon_releaseAll hs _ _ fun _ ht => canon_countLeft (canon_exitNow ht _) _)
  | yieldJob => exact canon_finish (canon_releaseAll hs _ _ fun _ ht => canon_countLeft (canon_yieldNow ht) _)
  | depDec => exact canon_finish (canon_withCounter hs _ _ _ fun _ _ ht => canon_statusIn (canon_depDecStep ht _ _) _ _)
  | tktGive => exact canon_finish (canon_afterQueue hs _ _ fun _ ht => canon_ticketStep ht _ _)
  | winPop => exact canon_finish (canon_windowFree hs _ _ _ fun _ ht => canon_winPop ht _ _ _)
  | splRun | splMcast => exact canon_finish (canon_splList hs _ _ _ _)
  | cstat => exact canon_result (canon_acquireIf hs true) _ _
  | menter => exact canon_finish (canon_setView (canon_vissue (keeps_vopOf .menter _ rfl) hs _ _ _) _)
  | mexit => exact canon_finish (canon_setView (canon_vissue (keeps_vopOf .mexit _ rfl) hs _ _ _) _)
  | fencing => exact canon_getD (canonO_orElse (canon_pickFenceInput hs) (canon_pickFence hs)) hs
  | listStart => exact canon_getD (canonO_orElse (canon_pickTwinList hs) (canon_pickStart hs)) hs
  | serviceTrap => exact canon_getD (canon_pickTrap hs _ _ fun _ _ ht => canon_trapAct ht _) hs
  | svcNone | svcTimeLock => exact canon_getD (canon_pickTrap hs _ _ fun _ _ ht => canon_serve ht _ _) hs
  | svcNotice => exact canon_getD (canon_pickTrap hs _ _ fun _ _ ht => canon_serveNotice ht _) hs
  | svcTelemetry => exact canon_getD (canon_pickTrap hs _ _ fun _ _ ht => canon_serveLog ht _) hs
  | mgmtCoreReset => exact canon_atHart hs _ _ fun _ ht => canon_mgmtReset ht

/-! ### `Machine/Issue` -/

theorem canon_runInstr (hs : Canon s) (w i) : CanonN (runInstr w i s) := by
  unfold runInstr
  split
  · exact canon_finish (canon_illegal hs 2)
  · exact canon_exec hs i

theorem canon_runWord (hs : Canon s) (w) : CanonN (runWord w s) := by
  grind [runWord, Canon, CanonN, CanonR, canon_runInstr, canon_finish, canon_illegal]

theorem canon_standAt (hs : Canon s) (c) : Canon (standAt s c) := hs

theorem canon_issueLone (hs : Canon s) (a w) : CanonN (issueLone s a w) := by
  grind [issueLone, Canon, CanonN, canon_runWord, canon_standAt]

theorem canon_atWord1 (hs : Canon s) (c) : Canon (atWord1 s c) := hs

theorem canon_trapWord1 {s0 : State} (hs0 : Canon s0) (t a flags) : Canon (trapWord1 s0 t a flags) := by
  grind [trapWord1, Canon, canon_dropWalks, canon_deliver, canon_updH]

theorem canon_stallWord1 (hs : Canon s) (t1) : Canon (stallWord1 s t1) := hs

theorem canon_settlePair {s0 t0 t1 : State} (hs0 : Canon s0) (ht0 : Canon t0) (ht1 : Canon t1) (a flags) :
    Canon (settlePair s0 t0 t1 a flags) := by
  grind [settlePair, Canon, canon_updH, canon_trapWord1, canon_deliver, canon_stallWord1]

theorem canon_thenNext {o : Out} (ho : CanonN o) (f) (hf : ∀ t, Canon t → CanonN (f t)) : CanonN (thenNext o f) := by
  cases o with
  | next t => exact hf t ho
  | _ => exact ho

theorem canon_issuePair (hs : Canon s) (a w0 w1) : CanonN (issuePair s a w0 w1) := by
  grind [issuePair, Canon, CanonN, canon_standAt, canon_thenNext, canon_runWord, canon_atWord1, canon_settlePair]

theorem canon_issueUnit (hs : Canon s) (a b) : CanonN (issueUnit s a b) := by
  grind [issueUnit, Canon, CanonN, canon_deliver, canon_standAt, canon_issueLone, canon_issuePair]

theorem canon_issue (hs : Canon s) : CanonN (issue s) := by
  grind [issue, Canon, CanonN, CanonX, canon_fetchBundle, canon_issueUnit, canon_deliver, canon_standAt, canon_updH]

/-! ### `Machine/Device` -/

theorem canon_runEvent (hs : Canon s) (i) : CanonN (runEvent i s) :=
  canon_thenNext (canon_exec (s := { s with inputs := [] }) hs i) _ fun _ ht => ht

theorem canon_deviceAct (hs : Canon s) : CanonN (deviceAct s) := by
  unfold deviceAct
  split
  · exact canon_exec hs _
  · split
    · exact canon_runEvent hs _
    · exact hs

theorem canon_countCycles (hs : Canon s) (n) : Canon (countCycles s n) := by
  refine canon_ite hs (canon_foldl (fun t k h => ?_) _ hs)
  simp only []
  split
  · exact canon_countEv h _ _ _ _
  · exact canon_ite (canon_countEv h _ _ _ _) h
  · exact canon_countEv h _ _ _ _
  · exact h

theorem canon_passStep (hs : Canon s) : Canon (passStep s) := by
  grind [passStep, Canon, canon_decideWaits, canon_launchDue, canon_passTime, canon_countCycles]

theorem canon_nextFocus (hs : Canon s) : Canon (nextFocus s) := by
  grind [nextFocus, Canon, canon_focusOn]

theorem canon_hartTurn (hs : Canon s) : CanonN (hartTurn s) := by
  grind [hartTurn, Canon, CanonN, canon_thenNext, canon_issue, canon_passStep]

theorem canon_deviceTurn (hs : Canon s) : CanonN (deviceTurn s) := by
  grind [deviceTurn, Canon, CanonN, canon_thenNext, canon_deviceAct, canon_nextFocus, canon_passStep]

/-! ### `Machine/Step` -/

theorem canon_step (hs : Canon s) : CanonN (step s) := by
  grind [step, Canon, CanonN, canon_hartTurn, canon_deviceTurn]

/-- Settles O59: every operation of a step keeps memory in its canonical form (R265, R280). -/
theorem stepKeepsMemoryCanonical : Obligations.StepKeepsMemoryCanonical := by
  intro s t hs next
  have kept := canon_step hs
  rw [next] at kept
  exact kept

end Sys2Proof.Proofs
end
